-- ==== Sys2Proof/Word.lean ====
section
/-! DEFINITION. The word types of the OSK-4512 and their plainest arithmetic: 64-bit scalars and addresses (R77),
bytes, 16-bit near-memory words (R30), predicates of 1,024 bits (R19), operand blocks of 16 x 64 lanes of 32 bits
(R105), accumulator tiles of 64 x 64 elements of 32 bits (R135). -/

namespace Sys2Proof

/-- A scalar register, a generic address or a syllable (R13, R77). -/
abbrev Word := BitVec 64
/-- A byte of memory (R10). -/
abbrev Byte := BitVec 8
/-- A near-memory word (R30). -/
abbrev NmWord := BitVec 16
/-- The 1,024 bits of a predicate register; bit 64 r + c belongs to lane (r, c) (R19). -/
abbrev Mask := BitVec 1024
/-- The 1,024 lanes of a vector register or block; lane (r, c) is bits 32 (64 r + c) upward, so that the element of
linear index n and width w lies at bit n w (R105). -/
abbrev Lanes := BitVec 32768
/-- The 4,096 elements of a tile; element (i, j) is bits 32 (64 i + j) upward (R135). -/
abbrev TileBits := BitVec 131072

/-- Bits hi down to lo of a word, as a number: the manual's `x<hi:lo>`. -/
def bits (x hi lo : Nat) : Nat := (x / 2 ^ lo) % 2 ^ (hi + 1 - lo)

/-- One bit of a number: the manual's `x<n>`. -/
def bit (x n : Nat) : Bool := (x / 2 ^ n) % 2 == 1

/-- A number read as a two's complement value of w bits. -/
def signed (w x : Nat) : Int := if x % 2 ^ w < 2 ^ (w - 1) then ((x % 2 ^ w : Nat) : Int) else ((x % 2 ^ w : Nat) : Int) - (2 ^ w : Nat)

/-- The low w bits of an integer, in two's complement. -/
def wrap (w : Nat) (x : Int) : Nat := (x % ((2 ^ w : Nat) : Int)).toNat

/-- 1 for true, 0 for false. -/
def b2n (b : Bool) : Nat := if b then 1 else 0

end Sys2Proof
end

