-- ==== Sys2Proof/Syntax.lean ====
section
/-! DEFINITION. The syntax of the OSK-4512: one constructor of `Instr` for every row of spec/opcode_table.json. Strand
syllables carry the operands of R21 to R25 with the reserved fields left out; near-memory words carry those of R239 to
R250; the remaining rows are the part's own events (95_what_each_step_holds.md), which have no encoding and carry what
names the place of the event. Nothing here gives a meaning. -/

namespace Sys2Proof

/-- A scalar register number, g0 to g31 (R33). -/
abbrev GReg := BitVec 5
/-- A predicate register number, p0 to p15 (R33). -/
abbrev PRegNo := BitVec 4
/-- A value of the 6-bit operand space (R26). -/
abbrev Opnd := BitVec 6
/-- A shape register number, sh0 to sh3. -/
abbrev ShReg := BitVec 2
/-- A layout entry number, l0 to l31. -/
abbrev LayNo := BitVec 5

/-- A guard: a predicate and its negate bit (R19). -/
structure Guard where
  p : PRegNo
  neg : Bool
  deriving DecidableEq, Repr

/-- The rounding codes of R28. -/
inductive Rnd where
  | rne | rtz | rdn | rup | rsr | dyn
  deriving DecidableEq, Repr

/-- The scope codes of R25. -/
inductive Scope where
  | sd | co | cl | di | dv | sy
  deriving DecidableEq, Repr

/-- The element types of R27, in code order. -/
inductive Ty where
  | f32 | bf16 | f16 | i32 | u32 | i16 | u16 | i8 | u8 | e4m3 | e5m2 | f64 | e2m1
  deriving DecidableEq, Repr

/-- The second operand of the two-encoding S forms: gb, or imm32 (R78). -/
inductive SrcB where
  | reg (gb : GReg)
  | imm (v : BitVec 32)
  deriving DecidableEq, Repr

/-- The position or amount of a field form: a register, or an immediate of 8 bits (R83). -/
inductive Amt where
  | reg (g : GReg)
  | imm (v : BitVec 8)
  deriving DecidableEq, Repr

/-- The integer conditions of R85, in code order. -/
inductive Cond where
  | eq | ne | lt | ge | ltu | geu | gt | le | gtu | leu | tst
  deriving DecidableEq, Repr

/-- The conditions of R94 and R119, in code order. -/
inductive FCond where
  | eq | ne | lt | le | gt | ge | un | ord
  deriving DecidableEq, Repr

/-- Access widths of 1, 2, 4 and 8 bytes (R90). -/
inductive Wd where
  | b | h | w | d
  deriving DecidableEq, Repr

structure SBin where
  gd : GReg
  ga : GReg
  b : SrcB
  deriving DecidableEq, Repr

structure SUn where
  gd : GReg
  ga : GReg
  deriving DecidableEq, Repr

structure PBin where
  pd : PRegNo
  pa : PRegNo
  pb : PRegNo
  deriving DecidableEq, Repr

/-- The fields of `fadd`, `fsub`, `fmul` (R92). -/
structure FBin where
  gd : GReg
  ga : GReg
  gb : GReg
  ty : Ty
  rnd : Rnd
  sat : Bool
  deriving DecidableEq, Repr

/-- A vector source operand: a value of the operand space and its last-use bit (R22, R23, R26). -/
structure VSrc where
  o : Opnd
  lu : Bool
  deriving DecidableEq, Repr

/-- The two-source arithmetic V forms (R111). -/
structure VBin where
  ty : Ty
  rnd : Rnd
  sat : Bool
  vd : Opnd
  va : VSrc
  vb : VSrc
  deriving DecidableEq, Repr

structure VTer where
  ty : Ty
  rnd : Rnd
  sat : Bool
  vd : Opnd
  va : VSrc
  vb : VSrc
  vc : VSrc
  deriving DecidableEq, Repr

/-- The one-source typed V forms (R113, R116, R126). -/
structure VUn where
  ty : Ty
  rnd : Rnd
  sat : Bool
  vd : Opnd
  va : VSrc
  deriving DecidableEq, Repr

/-- The untyped two-source V forms (R114). -/
structure VLog where
  vd : Opnd
  va : VSrc
  vb : VSrc
  deriving DecidableEq, Repr

/-- The shift amount of a V form: a vector operand, or an immediate (R115, R118). -/
inductive VAmt where
  | vec (v : VSrc)
  | imm (n : BitVec 8)
  deriving DecidableEq, Repr

structure VShift where
  ty : Ty
  vd : Opnd
  va : VSrc
  n : VAmt
  deriving DecidableEq, Repr

/-- The movement forms with an immediate (R128). -/
structure VMove where
  vd : Opnd
  va : VSrc
  n : BitVec 6
  deriving DecidableEq, Repr

/-- The operations of `vredr`, `vredc` and `vscanr` (R129). -/
inductive RedOp where
  | add | min | max
  deriving DecidableEq, Repr

structure VRed where
  ty : Ty
  op : RedOp
  rnd : Rnd
  sat : Bool
  vd : Opnd
  va : VSrc
  deriving DecidableEq, Repr

/-- The formats of `vquant` and `vdeq` (R124). -/
inductive MxFmt where
  | e4m3 | e5m2 | e2m1 | i8
  deriving DecidableEq, Repr

/-- The fields every M syllable has above its operands (R24). -/
structure MHead where
  g : Guard
  tkw : BitVec 4
  tks : BitVec 4
  swap : Bool
  sh : ShReg
  deriving DecidableEq, Repr

/-- The formats of `mma` (R144), in code order. -/
inductive MmaFmt where
  | f64 | f32 | bf16 | f16 | e4m3 | e4m3e5m2 | e5m2e4m3 | e5m2 | e2m1
  deriving DecidableEq, Repr

/-- The formats of `mmax` (R146), in code order. -/
inductive MmaxFmt where
  | mxe4m3 | mxe4m3e5m2 | mxe5m2e4m3 | mxe5m2 | mxe2m1 | mxi8
  deriving DecidableEq, Repr

/-- The formats of `mmaa` (R147). -/
inductive MmaaFmt where
  | bf16 | e4m3 | e4m3e5m2 | e5m2e4m3 | e5m2
  deriving DecidableEq, Repr

/-- The formats of `mdrain` (R150), in code order. -/
inductive DrainFmt where
  | raw | bf16 | f16 | e4m3 | e5m2 | i8 | u8 | i16 | u16 | i32
  deriving DecidableEq, Repr

/-- The completion kinds of a copy (R181). -/
inductive CompKind where
  | none | sem | ring
  deriving DecidableEq, Repr

/-- The units of `clkdiv` (R184). -/
inductive ClkUnit where
  | array | copy | strand
  deriving DecidableEq, Repr

/-- The units of `wake` (R185). -/
inductive WakeUnit where
  | array
  | vbank (k : BitVec 3)
  | spbank (k : BitVec 5)
  deriving DecidableEq, Repr

/-- The value operand of `lset` and X `pset` (R159): a register, or an immediate of 18 bits. -/
inductive LSrc where
  | reg (ga : GReg)
  | imm (v : BitVec 18)
  deriving DecidableEq, Repr

/-- The ord field of an atomic (R193). -/
inductive AOrd where
  | rlx | acq | rel | ar
  deriving DecidableEq, Repr

/-- An integer atomic (R193): d is true for 8 bytes, false for 4. -/
structure AForm where
  gd : GReg
  ga : GReg
  gb : GReg
  scope : Scope
  ord : AOrd
  d : Bool
  deriving DecidableEq, Repr

/-- The operands of a directory edit (R217). -/
structure RgForm where
  gd : GReg
  ga : GReg
  gb : GReg
  deriving DecidableEq, Repr

/-- The contribution of `redx` (R198): a scalar of type t, or the masked lanes of a vector operand. -/
inductive RedSrc where
  | scalar (gb : GReg) (t : BitVec 2)
  | vector (va : Opnd)
  deriving DecidableEq, Repr

/-- A form `gd, ringk` (R207). -/
structure RingGet where
  gd : GReg
  ring : BitVec 5
  deriving DecidableEq, Repr

/-- A form `ringk, ga` (R207). -/
structure RingPut where
  ring : BitVec 5
  ga : GReg
  deriving DecidableEq, Repr

/-- Sizes of a near-memory `ld` or `st`: 1, 2, 4 or 8 bytes (R242). -/
abbrev NmSize := BitVec 2

/-- The operand of `mvx` (R245). -/
structure MvxForm where
  sat : Bool
  vi8 : Bool
  acc : Bool
  exp : Bool
  b : BitVec 2
  wf : BitVec 3
  deriving DecidableEq, Repr

/-- A bank named by a wake event: a vector bank of a strand, or a scratchpad bank of a core (R350, R355). -/
inductive BankRef where
  | vec (n k : Nat)
  | sp (c k : Nat)
  deriving DecidableEq, Repr

/-- What a soft error strikes (R354, R358, R427, R436). -/
inductive ErrSite where
  | vec (n reg lane : Nat) (flip : BitVec 32)
  | sp (off : Nat) (flip : Byte)
  | dram (line sym : Nat) (flip : BitVec 16)
  | acc (u k : Nat)
  deriving DecidableEq, Repr

/-- The PCIe AtomicOps the host port completes (R468). -/
inductive PcieAtomic where
  | fetchAdd | swap | cas
  deriving DecidableEq, Repr

/-- The writers of the management space (R470), and any other master. -/
inductive MgMaster where
  | host | service | monitor | other
  deriving DecidableEq, Repr

/-- What arrives over a Bandura port (R473, R474). -/
inductive LinkReq where
  | read (pa len : Nat)
  | write (pa : Nat) (data : List Byte) (poison : Bool)
  /-- an atomic of R194, numbered in the order of its table, on w bytes: operand b, compare value c; ret: it returns the old value -/
  | atomic (op w pa b c : Nat) (ret : Bool)
  /-- an arrival from barrier number `child` (128 times its core plus its number) of another package -/
  | arrive (core barrier : Nat) (phase : BitVec 16) (child : Nat)
  | flip (core barrier : Nat) (phase : BitVec 16)
  deriving DecidableEq, Repr

/-- One constructor for every row of spec/opcode_table.json. -/
inductive Instr where
  -- S class (R40, R78 to R101)
  | add (g : Guard) (o : SBin) | sub (g : Guard) (o : SBin)
  | addi (g : Guard) (gd ga gb : GReg) (imm : BitVec 32)
  | mul (g : Guard) (o : SBin) | mulh (g : Guard) (o : SBin) | mulhu (g : Guard) (o : SBin)
  | div (g : Guard) (o : SBin) | divu (g : Guard) (o : SBin)
  | rem (g : Guard) (o : SBin) | remu (g : Guard) (o : SBin)
  | and (g : Guard) (o : SBin) | or (g : Guard) (o : SBin) | xor (g : Guard) (o : SBin) | andn (g : Guard) (o : SBin)
  | shl (g : Guard) (o : SBin) | shr (g : Guard) (o : SBin) | sra (g : Guard) (o : SBin) | rot (g : Guard) (o : SBin)
  | min (g : Guard) (o : SBin) | max (g : Guard) (o : SBin) | minu (g : Guard) (o : SBin) | maxu (g : Guard) (o : SBin)
  | abs (g : Guard) (o : SUn) | clz (g : Guard) (o : SUn) | ctz (g : Guard) (o : SUn) | popc (g : Guard) (o : SUn)
  | bfx (g : Guard) (gd ga : GReg) (pos : Amt) (len : BitVec 7) (s : Bool)
  | bfi (g : Guard) (gd ga base : GReg) (pos : Amt) (len : BitVec 7)
  | fsh (g : Guard) (gd ga gb : GReg) (n : Amt)
  | bswap (g : Guard) (o : SUn) (w : BitVec 2)
  | li (g : Guard) (gd : GReg) (imm : BitVec 32)
  | lih (g : Guard) (gd ga : GReg) (imm : BitVec 32)
  | cmp (g : Guard) (pd : PRegNo) (ga : GReg) (b : SrcB) (c : Cond)
  | sel (g : Guard) (o : SBin) (pc : PRegNo) (neg : Bool)
  | movpToScalar (g : Guard) (gd : GReg) (pa : PRegNo) (k : BitVec 4)
  | movpToPredicate (g : Guard) (pd : PRegNo) (ga : GReg) (k : BitVec 4)
  | lea (g : Guard) (gd ga gb : GReg) (sh : BitVec 3) (disp : BitVec 24)
  | winq (g : Guard) (o : SBin)
  | br (g : Guard) (pa : PRegNo) (neg all : Bool) (disp : BitVec 32)
  | jmp (g : Guard) (disp : BitVec 32)
  | call (g : Guard) (gd : GReg) (disp : BitVec 32)
  | ret (g : Guard) (ga : GReg)
  | jr (g : Guard) (gd ga : GReg) (imm : BitVec 32)
  | loop (g : Guard) (gd : GReg) (s : BitVec 3) (disp : BitVec 32)
  | brq (g : Guard) (q : BitVec 3) (c : Bool) (disp : BitVec 32)
  | halt (g : Guard) | nop (g : Guard)
  | wfe (g : Guard) (gd ga : GReg) (mask : BitVec 16)
  | pand (g : Guard) (o : PBin) | por (g : Guard) (o : PBin) | pxor (g : Guard) (o : PBin)
  | pnot (g : Guard) (pd pa : PRegNo)
  | psetPredicate (g : Guard) (pd : PRegNo) (n : SrcB)
  | pcnt (g : Guard) (gd : GReg) (pa : PRegNo) | pany (g : Guard) (gd : GReg) (pa : PRegNo)
  | shset (g : Guard) (sh : ShReg) (field : BitVec 5) (v : SrcB)
  | shget (g : Guard) (gd : GReg) (sh : ShReg) (field : BitVec 5) (shadow : Bool)
  | ld (g : Guard) (o : SBin) (w : Wd) (s : Bool)
  | st (g : Guard) (o : SBin) (w : Wd)
  | fadd (g : Guard) (o : FBin) | fsub (g : Guard) (o : FBin) | fmul (g : Guard) (o : FBin)
  | ffma (g : Guard) (o : FBin) (gc : GReg)
  | fcvt (g : Guard) (gd ga : GReg) (d s : Ty) (rnd : Rnd) (sat : Bool)
  | fcmp (g : Guard) (pd : PRegNo) (ga gb : GReg) (ty : Ty) (c : FCond)
  | sysr (g : Guard) (gd : GReg) (n : BitVec 12)
  | sysw (g : Guard) (n : BitVec 12) (ga : GReg)
  | trap (g : Guard) (code : BitVec 32) | eret (g : Guard) | brk (g : Guard) (tag : BitVec 32)
  -- V class (R41, R111 to R131)
  | vadd (g : Guard) (o : VBin) | vsub (g : Guard) (o : VBin) | vmul (g : Guard) (o : VBin)
  | vfma (g : Guard) (o : VTer) | vfms (g : Guard) (o : VTer)
  | vmin (g : Guard) (o : VBin) | vmax (g : Guard) (o : VBin)
  | vabs (g : Guard) (o : VUn) | vneg (g : Guard) (o : VUn) | vclamp (g : Guard) (o : VTer)
  | vand (g : Guard) (o : VLog) | vor (g : Guard) (o : VLog) | vxor (g : Guard) (o : VLog)
  | vnot (g : Guard) (vd : Opnd) (va : VSrc)
  | vshl (g : Guard) (o : VShift) | vshr (g : Guard) (o : VShift) | vsra (g : Guard) (o : VShift) | vrot (g : Guard) (o : VShift)
  | vpopc (g : Guard) (o : VUn) | vclz (g : Guard) (o : VUn)
  | vbfx (g : Guard) (ty : Ty) (vd : Opnd) (va : VSrc) (pos : VAmt) (s : Bool) (len : BitVec 6)
  | vfsh (g : Guard) (ty : Ty) (vd : Opnd) (va vb : VSrc) (n : VAmt)
  | vcmp (g : Guard) (ty : Ty) (c : FCond) (pd : PRegNo) (va vb : VSrc)
  | vsel (g : Guard) (o : VLog) (pc : PRegNo) (neg : Bool)
  | vmov (g : Guard) (vd : Opnd) (va : VSrc)
  | vli (g : Guard) (vd : Opnd) (imm : BitVec 32)
  | vbcs (g : Guard) (ty : Ty) (vd : Opnd) (ga : GReg)
  | vmovpToVector (g : Guard) (vd : Opnd) (pa : PRegNo)
  | vmovpToPredicate (g : Guard) (pd : PRegNo) (va : VSrc)
  | vptest (g : Guard) (pd : PRegNo) (va : VSrc)
  | vpclr (g : Guard) (vd : Opnd) (va : VSrc)
  | vcvt (g : Guard) (o : VUn) (d : Ty) (p : BitVec 4)
  | vpack (g : Guard) (ty : Ty) (sat : Bool) (o : VLog) (p : BitVec 2)
  | vunpk (g : Guard) (ty : Ty) (vd : Opnd) (va : VSrc) (j : BitVec 3)
  | vquant (g : Guard) (fmt : MxFmt) (scale : Bool) (rnd : Rnd) (vd : Opnd) (va : VSrc) (p : BitVec 3)
  | vdeq (g : Guard) (fmt : MxFmt) (rnd : Rnd) (sat : Bool) (o : VLog) (p : BitVec 3)
  | vrcp (g : Guard) (o : VUn) | vrsq (g : Guard) (o : VUn) | vsqrt (g : Guard) (o : VUn)
  | vexp2 (g : Guard) (o : VUn) | vlog2 (g : Guard) (o : VUn) | vtanh (g : Guard) (o : VUn)
  | vrotr (g : Guard) (o : VMove) | vrotc (g : Guard) (o : VMove) | vbcr (g : Guard) (o : VMove) | vbcc (g : Guard) (o : VMove)
  | vredr (g : Guard) (o : VRed) | vredc (g : Guard) (o : VRed) | vscanr (g : Guard) (o : VRed)
  | vtrn (g : Guard) (vd : Opnd) (va : VSrc)
  | vgath (g : Guard) (vd : Opnd) (va : VSrc) (gb : GReg) (sh : BitVec 2)
  | vscat (g : Guard) (va vb : VSrc) (gc : GReg) (sh : BitVec 2)
  | vlut (g : Guard) (ty : Ty) (vd : Opnd) (va : VSrc) (gb : GReg)
  -- M class (R42, R144 to R185)
  | mma (h : MHead) (fmt : MmaFmt) (z : Bool) (acc : BitVec 4) (opa opb : Opnd)
  | mmai (h : MHead) (i4 : Bool) (sa sb sat z : Bool) (acc : BitVec 4) (opa opb : Opnd)
  | mmax (h : MHead) (fmt : MmaxFmt) (z : Bool) (acc : BitVec 4) (opa opb : Opnd) (sa sb : BitVec 5)
  | mmaa (h : MHead) (fmt : MmaaFmt) (rsr sat z : Bool) (acc : BitVec 4) (opa opb : Opnd)
  | mzero (h : MHead) (acc : BitVec 4) (c : BitVec 4)
  | mload (h : MHead) (acc : BitVec 4) (opa : Opnd) (all : Bool) (p : BitVec 2)
  | mdrain (h : MHead) (fmt : DrainFmt) (rnd : Rnd) (sat clr : Bool) (opa : Opnd) (acc : BitVec 4) (opb : Opnd) (p : BitVec 2)
  | lease (h : MHead) (n : BitVec 7) | unlease (h : MHead)
  | twait (h : MHead) (e : BitVec 4) | tsig (h : MHead) (e : BitVec 4)
  | copy (h : MHead) (opa opb len : GReg) (exp lu : Bool) (kind : CompKind) (gc : BitVec 5)
  | copyt (h : MHead) (cnt crc : GReg) (dst src : LayNo) (lu chk schk : Bool) (kind : CompKind) (gc : BitVec 5)
  | nlaunch (h : MHead) (opa opb param : GReg) (arg : Bool)
  | pstart (h : MHead) (q : Opnd) | pstop (h : MHead) (q : Opnd)
  | psave (h : MHead) (q : Opnd) (gb : GReg) | pload (h : MHead) (q : Opnd) (gb : GReg)
  | qflush (h : MHead) (e : BitVec 4) (gd : GReg)
  | clkdiv (h : MHead) (u : ClkUnit) (d : BitVec 5)
  | wake (h : MHead) (u : WakeUnit)
  -- X class (R43, R159 to R230)
  | vld (g : Guard) (vd : Opnd) (k : LayNo) (ga : GReg) (lu : Bool)
  | vst (g : Guard) (va : VSrc) (k : LayNo) (ga : GReg) (spl : Bool)
  | lset (g : Guard) (k : LayNo) (field : BitVec 5) (v : LSrc)
  | lget (g : Guard) (gd : GReg) (k : LayNo) (field : BitVec 5)
  | psetPattern (g : Guard) (q : Opnd) (field : BitVec 5) (v : LSrc)
  | qstat (g : Guard) (gd : GReg) (q : Opnd) (w : BitVec 2)
  | qrew (g : Guard) (q : Opnd) (ga gb : GReg)
  | rinit (g : Guard) (ring : BitVec 5) (ga gb : GReg) (sb : BitVec 12)
  | rclaim (g : Guard) (o : RingGet) | rpub (g : Guard) (o : RingPut) | rwaitf (g : Guard) (o : RingGet)
  | rwaite (g : Guard) (o : RingGet) | rrel (g : Guard) (o : RingPut)
  | rstat (g : Guard) (o : RingGet) (w : BitVec 2)
  | bset (g : Guard) (bar : BitVec 7) (ga gb : GReg)
  | barr (g : Guard) (scope : Scope) (bar : BitVec 7) (ga : GReg)
  | bwait (g : Guard) (scope : Scope) (gd : GReg) (bar : BitVec 7) (ga : GReg)
  | barw (g : Guard) (scope : Scope) (gd : GReg) (bar : BitVec 7) (ga : GReg)
  | bstat (g : Guard) (gd : GReg) (bar : BitVec 7) (w : BitVec 2)
  | aadd (g : Guard) (o : AForm) | aand (g : Guard) (o : AForm) | aor (g : Guard) (o : AForm) | axor (g : Guard) (o : AForm)
  | amin (g : Guard) (o : AForm) | amax (g : Guard) (o : AForm) | aminu (g : Guard) (o : AForm) | amaxu (g : Guard) (o : AForm)
  | axchg (g : Guard) (o : AForm)
  | acas (g : Guard) (o : AForm) (gc : GReg)
  | acas2 (g : Guard) (gd ga gb gc : GReg) (scope : Scope) (ord : AOrd)
  | afadd (g : Guard) (o : AForm)
  | redx (g : Guard) (ga : GReg) (c : RedSrc)
  | redfOpen (g : Guard) (ga : GReg) (anchor : BitVec 9)
  | redfRd (g : Guard) (gd ga : GReg) (bf : Bool) | redfFin (g : Guard) (gd ga : GReg) (bf : Bool)
  | redfSt (g : Guard) (gd ga : GReg)
  | semw (g : Guard) (scope : Scope) (gd ga gb : GReg) (eq : Bool) | sems (g : Guard) (scope : Scope) (ga gb : GReg)
  | fence (g : Guard) (scope : Scope) | mark (g : Guard)
  | ldacq (g : Guard) (scope : Scope) (gd ga : GReg) (off : BitVec 14) (w : Wd) (s : Bool)
  | strel (g : Guard) (scope : Scope) (gd ga : GReg) (off : BitVec 14) (w : Wd)
  | rgsplit (g : Guard) (o : RgForm) | rgmerge (g : Guard) (o : RgForm)
  | rginv (g : Guard) (dv : Bool) (all : Bool) (ga gb : GReg)
  | rgprobe (g : Guard) (gd ga : GReg) (w : BitVec 2)
  | rgfill (g : Guard) (ga gb : GReg)
  | rgpin (g : Guard) (o : RgForm) (un : Bool)
  | bankoff (g : Guard) (m : BitVec 8) | spdrop (g : Guard) (gb : GReg) (off : Bool) | spwake (g : Guard) (gb : GReg)
  | launch (g : Guard) (gd ga gb : GReg) | node (g : Guard) (ga gb : GReg) (t : BitVec 16)
  -- near-memory words (R44, R239 to R250)
  | lit (v : BitVec 15) | litx (n : BitVec 2) (x : Bool) (v : Word)
  | dup | drop | swap | nmOver
  | nmAdd | nmAddImm (v : BitVec 9) | nmSub | nmSubImm (v : BitVec 9)
  | nmAnd | nmAndImm (v : BitVec 9) | nmShl | nmShlImm (v : BitVec 9)
  | nmLdWs (s : NmSize) | nmLdMem (s : NmSize) | nmStWs (s : NmSize) | nmStMem (s : NmSize)
  | mvx (o : MvxForm) | mvwait
  | red | racc (t : BitVec 2) (one : Bool) | rfin (bf keep : Bool)
  | vin | vout | rowclaim | rowrel
  | nmSemw (eq : Bool) | nmSems | nmFence
  | nmLoop (d : BitVec 10) | next | nmBr (d : BitVec 10) | nmJmp (d : BitVec 10)
  | nmEnd | nmTrap (c : BitVec 10) | nmNop
  -- the part's own events: n a strand (0 to 287), id an engine command or a request, c a core, u an NMU
  | engineCommandStart (n e : Nat) | engineCommandFinish (n id : Nat)
  | arrayGrant (c : Nat) | productKBlock (n id : Nat) | productStop (n id : Nat) | engineFaultDelivery (n id : Nat)
  | patternBlockFetch (n q : Nat) | patternBlockWrite (n q : Nat) | rewind (n q : Nat)
  | copyGranule (n id : Nat) | copyRingCompletion (n id : Nat)
  | nmuLaunchAccept (u : Nat) | mveProductEnd (u : Nat) | nmuAbort (u : Nat)
  | bankIdle (n k : Nat) | bankWake (b : BankRef) | arrayGate (c : Nat) | arrayWake (c : Nat)
  | deadlineExpiry (n : Nat) | wfeTimeout (n : Nat) | resultLanding (n k : Nat) | trapEntry (n : Nat)
  | requestResend (id : Nat) | homeAccess (id : Nat) | routerMerge (id id' : Nat) | reductionApply (id : Nat)
  | semaphoreWaiterWake (id : Nat)
  | barrierParentArrival (k : Nat) | barrierFlipDown (k : Nat)
  | arbiterAccept (id : Nat) | arbiterServe (id : Nat)
  | yieldBoundExpiry (bank : Nat) | ageCapExpiry (id : Nat) | refresh (bank : Nat)
  | budgetInterval | budgetWatchdogExpiry
  | rangeWalk (id slot : Nat) | walkDeadline (id : Nat) | shootdown (id party : Nat)
  | fillComplete (id : Nat) | fillDeadline (id : Nat)
  | moveRequest (d : Nat) | retireRequest (d : Nat) | compactorGranule (d : Nat) | moveFinish (d : Nat)
  | queueTake (q : Nat) | recordReady (h : Nat) | priorityAgeing (h : Nat) | placement (h : Nat) (at' : List Nat)
  | rowLoad (n row : Nat)
  | strandStart (n : Nat) | strandEnd (n : Nat) | kernelEnd (k : Nat)
  | gracePeriodExpiry (k : Nat) | saveImageWrite (k : Nat) | kernelResume (k : Nat)
  | hostMemoryRead (pa len : Nat) | hostMemoryWrite (pa : Nat) (data : List Byte) (poison : Bool)
  | hostAtomicop (op : PcieAtomic) (d : Bool) (pa : Nat) (a b : Word)
  | managementRegisterWrite (m : MgMaster) (off : Nat) (v : Word)
  | budgetRefresh (m : MgMaster) (v : Word) | nabortWrite (m : MgMaster) (u : Nat) (v : Word)
  | answerWalk (tag : Nat) (idx : BitVec 32) | answerFill (tag : Nat) (v : Word) | answerFlip (tag : Nat)
  | strandWindowWrite (m : MgMaster) (n off : Nat) (v : Word)
  | hostResume (n : Nat) | hostEndKernel (k : Nat) | hostRequestMessage
  | firmwareUpdate (addr : Nat) | firmwareReadyTimeout
  | linkRequest (port : Nat) (r : LinkReq) | portFailure (port : Nat)
  | droop (die : Nat) | currentLimit (die : Nat) | stackHot (k : Nat) | thermalTrip (cause : BitVec 4)
  | deviceReset
  | getVersion | getCapabilities | negotiateAlgorithms | getDigests | getCertificate | challenge | getMeasurements
  | illegalWord (u : Nat)
  | railRecovery (die : Nat) | hotStateEnd (k : Nat)
  | hostPortCompletion (id : Nat) (outside : List Host.Cell) (poison : Bool)
  | peerAcknowledgement (id : Nat) (outside : List Host.Cell) (poison : Bool)
  | softError (site : ErrSite)
  deriving DecidableEq, Repr

end Sys2Proof
end

