-- ==== Sys2Proof/WellFormed.lean ====
section
/-! DEFINITION. The checks a syllable passes before it has any meaning: `opcodeOk` fails with illegal opcode, 0x01 (R20,
R29, R38), `operandOk` with illegal operand, 0x03 (R26). A field the encoding cannot carry at all is no term of `Instr`.
Near-memory words are checked under R45. -/

namespace Sys2Proof

/-- R27, in code order. -/
def Ty.code : Ty → Nat
  | .f32 => 0 | .bf16 => 1 | .f16 => 2 | .i32 => 3 | .u32 => 4 | .i16 => 5 | .u16 => 6 | .i8 => 7 | .u8 => 8
  | .e4m3 => 9 | .e5m2 => 10 | .f64 => 11 | .e2m1 => 12

/-- Width of an element in bits (R105). -/
def Ty.width : Ty → Nat
  | .f32 => 32 | .bf16 => 16 | .f16 => 16 | .i32 => 32 | .u32 => 32 | .i16 => 16 | .u16 => 16 | .i8 => 8 | .u8 => 8
  | .e4m3 => 8 | .e5m2 => 8 | .f64 => 64 | .e2m1 => 4

/-- Elements in a vector register (R105). -/
def Ty.capacity (t : Ty) : Nat := 32768 / t.width

/-- The set F of R107. -/
def Ty.isF : Ty → Bool
  | .f32 | .bf16 | .f16 | .f64 => true
  | _ => false

/-- The set I of R107. -/
def Ty.isI : Ty → Bool
  | .i32 | .u32 | .i16 | .u16 | .i8 | .u8 => true
  | _ => false

/-- A signed integer type. -/
def Ty.signed : Ty → Bool
  | .i32 | .i16 | .i8 => true
  | _ => false

/-- The types `vpack` and `vunpk` take (R123). -/
def Ty.packs : Ty → Bool
  | .bf16 | .f16 | .i16 | .u16 | .i8 | .u8 | .e4m3 | .e5m2 | .e2m1 => true
  | _ => false

/-- The unpacked types of R119 and R129. -/
def Ty.wide : Ty → Bool
  | .f32 | .i32 | .u32 | .f64 => true
  | _ => false

/-- A vector register or inbound port (R26). -/
def Opnd.src (o : Opnd) : Bool := o.toNat < 38
/-- A vector register. -/
def Opnd.isV (o : Opnd) : Bool := o.toNat < 32
/-- An inbound port q0 to q5. -/
def Opnd.isIn (o : Opnd) : Bool := 32 ≤ o.toNat && o.toNat < 38
/-- An outbound port q6 or q7. -/
def Opnd.isOut (o : Opnd) : Bool := o.toNat == 38 || o.toNat == 39
/-- A vector register or outbound port (R26). -/
def Opnd.dest (o : Opnd) : Bool := o.toNat < 32 || o.toNat == 38 || o.toNat == 39
/-- A port of the operand space, 32 to 39. -/
def Opnd.port (o : Opnd) : Bool := 32 ≤ o.toNat && o.toNat < 40

/-- R23, R26: a source; last use only on a register. -/
def VSrc.ok (v : VSrc) : Bool := v.o.src && (v.o.isV || !v.lu)

/-- R20. -/
def Guard.ok (g : Guard) : Bool := !(g.p == 0 && g.neg)

/-- R92. -/
def FBin.ok (o : FBin) : Bool := o.ty.isF

/-- Rounding and saturation of an elementwise form over F and I (R107, R111). -/
def arithOk (ty : Ty) (rnd : Rnd) : Bool := ty.isF || (ty.isI && rnd == .rne)

/-- Forms over F and I that take neither rounding nor saturation. -/
def plainOk (ty : Ty) (rnd : Rnd) (sat : Bool) : Bool := (ty.isF || ty.isI) && rnd == .rne && !sat

/-- R113: sat for integers only. -/
def absOk (o : VUn) : Bool := (o.ty.isF && !o.sat || o.ty.isI) && o.rnd == .rne

/-- R126. -/
def specialOk (o : VUn) (rounds : Bool) : Bool :=
  (o.ty == .f32 || o.ty == .bf16 || o.ty == .f16) && (rounds || o.rnd == .rne)

/-- R129. -/
def redOk (o : VRed) : Bool :=
  o.ty.wide && match o.op with
    | .add => if o.ty.isF then o.rnd != .rsr else o.rnd == .rne
    | _ => o.rnd == .rne && !o.sat

/-- R122: number of parts. -/
def cvtParts (d s : Ty) : Nat := if d.capacity ≥ s.capacity then d.capacity / s.capacity else s.capacity / d.capacity

/-- R124: parts of a quantised register. -/
def MxFmt.parts : MxFmt → Nat
  | .e2m1 => 8
  | _ => 4

/-- R140: sh of a command that uses no shape is nonzero only with the swap bit. -/
def MHead.plain (h : MHead) : Bool := h.swap || h.sh == 0
/-- A form that reserves both token fields. -/
def MHead.noTok (h : MHead) : Bool := h.tkw == 0 && h.tks == 0

/-- R150: rows R of a drain's destination parts. -/
def DrainFmt.parts : DrainFmt → Nat
  | .raw | .i32 => 4
  | .bf16 | .f16 | .i16 | .u16 => 2
  | _ => 1
/-- Formats that round from FP32 (R150). -/
def DrainFmt.floats : DrainFmt → Bool
  | .bf16 | .f16 | .e4m3 | .e5m2 => true
  | _ => false
/-- Formats that requantise (R150). -/
def DrainFmt.requants : DrainFmt → Bool
  | .i8 | .u8 | .i16 | .u16 | .i32 => true
  | _ => false

/-- The divisors of R184. -/
def divisorOk (d : Nat) : Bool := d == 2 || d == 3 || d == 4 || d == 6 || d == 8 || d == 12 || d == 16

/-- System registers assigned by R233. -/
def sysAssigned (n : Nat) : Bool :=
  n ≤ 0x011 || (0x018 ≤ n && n ≤ 0x01C) || (0x020 ≤ n && n ≤ 0x028) || (0x030 ≤ n && n ≤ 0x032)

/-- R193: acquire on a no-return form is illegal opcode. -/
def AForm.ok (o : AForm) : Bool := !(o.gd == 0 && (o.ord == .acq || o.ord == .ar))

/-- Illegal opcode, 0x01: what a syllable's fields admit beyond what `Instr` can say (R38 and each form's description). -/
def opcodeOk : Instr → Bool
  | .bfx g _ _ _ len _ => g.ok && 1 ≤ len.toNat && len.toNat ≤ 64
  | .bfi g _ _ _ _ len => g.ok && 1 ≤ len.toNat && len.toNat ≤ 64
  | .bswap g _ w => g.ok && w != 3
  | .psetPredicate g _ n => g.ok && (match n with | .reg _ => true | .imm v => v.toNat ≤ 1024)
  | .shset g _ f _ => g.ok && f.toNat ≤ 4
  | .shget g _ _ f _ => g.ok && f.toNat ≤ 4
  | .ld g _ w s => g.ok && !(w == .d && s)
  | .fadd g o | .fsub g o | .fmul g o => g.ok && o.ok
  | .ffma g o _ => g.ok && o.ok
  | .fcmp g _ _ _ ty _ => g.ok && ty.isF
  | .sysr g _ n => g.ok && sysAssigned n.toNat
  | .sysw g n _ => g.ok && sysAssigned n.toNat
  | .add g _ | .sub g _ | .mul g _ | .mulh g _ | .mulhu g _ | .div g _ | .divu g _ | .rem g _ | .remu g _
  | .and g _ | .or g _ | .xor g _ | .andn g _ | .shl g _ | .shr g _ | .sra g _ | .rot g _
  | .min g _ | .max g _ | .minu g _ | .maxu g _ | .abs g _ | .clz g _ | .ctz g _ | .popc g _ | .winq g _ => g.ok
  | .addi g _ _ _ _ | .fsh g _ _ _ _ | .li g _ _ | .lih g _ _ _ | .cmp g _ _ _ _ | .sel g _ _ _
  | .movpToScalar g _ _ _ | .movpToPredicate g _ _ _ | .lea g _ _ _ _ _ => g.ok
  | .br g _ _ _ _ | .jmp g _ | .call g _ _ | .ret g _ | .jr g _ _ _ | .loop g _ _ _ | .brq g _ _ _ | .halt g | .nop g
  | .wfe g _ _ _ | .pand g _ | .por g _ | .pxor g _ | .pnot g _ _ | .pcnt g _ _ | .pany g _ _ | .st g _ _
  | .fcvt g _ _ _ _ _ _ | .trap g _ | .eret g | .brk g _ => g.ok
  | .vadd g o | .vsub g o | .vmul g o => g.ok && arithOk o.ty o.rnd
  | .vfma g o | .vfms g o => g.ok && arithOk o.ty o.rnd
  | .vmin g o | .vmax g o => g.ok && plainOk o.ty o.rnd o.sat
  | .vclamp g o => g.ok && plainOk o.ty o.rnd o.sat
  | .vabs g o | .vneg g o => g.ok && absOk o
  | .vand g _ | .vor g _ | .vxor g _ | .vnot g _ _ | .vsel g _ _ _ | .vmov g _ _ | .vli g _ _ | .vbcs g _ _ _
  | .vmovpToVector g _ _ | .vmovpToPredicate g _ _ | .vptest g _ _ | .vpclr g _ _ | .vtrn g _ _
  | .vgath g _ _ _ _ | .vscat g _ _ _ _ => g.ok
  | .vshl g o | .vshr g o | .vsra g o | .vrot g o => g.ok && o.ty.isI
  | .vpopc g o | .vclz g o => g.ok && o.ty.isI && o.rnd == .rne && !o.sat
  | .vbfx g ty _ _ pos _ len =>
    g.ok && ty.isI && 1 ≤ len.toNat && len.toNat ≤ ty.width && (match pos with | .vec _ => true | .imm n => n.toNat ≤ 31)
  | .vfsh g ty _ _ _ _ => g.ok && ty.isI
  | .vcmp g ty c _ _ _ => g.ok && ty.wide && (ty.isF || (c != .un && c != .ord))
  | .vcvt g o d p =>
    g.ok && p.toNat < cvtParts d o.ty && (o.rnd == .rne || !(o.ty.isI && d.isI))
  | .vpack g ty sat _ p => g.ok && ty.packs && (!sat || ty.isI) && p.toNat < 32 / ty.width / 2
  | .vunpk g ty _ _ j => g.ok && ty.packs && j.toNat < 32 / ty.width
  | .vquant g fmt scale rnd _ _ p => g.ok && p.toNat < fmt.parts && (!scale || rnd == .rne)
  | .vdeq g fmt _ _ _ p => g.ok && p.toNat < fmt.parts
  | .vrcp g o | .vrsq g o | .vexp2 g o | .vlog2 g o | .vtanh g o => g.ok && specialOk o false
  | .vsqrt g o => g.ok && specialOk o true
  | .vrotr g _ | .vbcr g _ => g.ok
  | .vrotc g o | .vbcc g o => g.ok && o.n.toNat < 16
  | .vredr g o | .vredc g o | .vscanr g o => g.ok && redOk o
  | .vlut g ty _ _ _ => g.ok && (ty == .u32 || ty == .u16 || ty == .u8)
  | .mma h _ _ _ _ _ => h.g.ok
  | .mmai h _ _ _ _ _ _ _ _ => h.g.ok
  | .mmax h _ _ _ opa opb sa sb => h.g.ok && (opa.isV || sa == 0) && (opb.isV || sb == 0)
  | .mmaa h _ _ _ _ _ _ _ => h.g.ok
  | .mzero h _ _ => h.g.ok && h.plain
  | .mload h _ _ all p => h.g.ok && h.plain && (!all || p == 0)
  | .mdrain h fmt rnd sat _ _ _ opb p =>
    h.g.ok && h.plain && p.toNat < fmt.parts && (fmt.floats || (rnd == .rne && !sat)) && (fmt.requants || opb == 0)
  | .lease h n => h.g.ok && h.plain && h.noTok && 1 ≤ n.toNat && n.toNat ≤ 64
  | .unlease h => h.g.ok && h.plain && h.noTok
  | .twait h e => h.g.ok && h.plain && h.tkw != 0 && h.tks == 0 && e.toNat ≤ 11
  | .tsig h e => h.g.ok && h.plain && h.tks != 0 && h.tkw == 0 && e.toNat ≤ 11
  | .copy h _ _ _ _ _ kind gc => h.g.ok && h.plain && (kind != .none || gc == 0)
  | .copyt h _ crc _ _ _ chk schk kind gc =>
    h.g.ok && h.plain && (chk || (crc == 0 && !schk)) && (kind != .none || gc == 0)
  | .nlaunch h _ _ param arg => h.g.ok && h.plain && (arg || param == 0)
  | .pstart h _ | .pstop h _ => h.g.ok && h.plain
  | .psave h _ _ | .pload h _ _ => h.g.ok && h.plain
  | .qflush h e _ => h.g.ok && h.plain && h.noTok && 1 ≤ e.toNat && e.toNat ≤ 11
  | .clkdiv h _ d => h.g.ok && h.plain && h.noTok && divisorOk d.toNat
  | .wake h _ => h.g.ok && h.plain && h.noTok
  | .lset g _ f _ => g.ok && f.toNat ≤ 12
  | .lget g _ _ f => g.ok && f.toNat ≤ 12
  | .psetPattern g _ f _ => g.ok && f.toNat ≤ 12
  | .qstat g _ _ w => g.ok && w != 3
  | .rstat g _ w => g.ok && w != 3
  | .bstat g _ _ w => g.ok && w.toNat < 2
  | .vld g _ _ _ _ | .vst g _ _ _ _ | .qrew g _ _ _ | .rinit g _ _ _ _ | .rclaim g _ | .rpub g _ | .rwaitf g _
  | .rwaite g _ | .rrel g _ | .bset g _ _ _ | .barr g _ _ _ | .bwait g _ _ _ _ | .barw g _ _ _ _ => g.ok
  | .aadd g o | .aand g o | .aor g o | .axor g o | .amin g o | .amax g o | .aminu g o | .amaxu g o | .axchg g o => g.ok && o.ok
  | .afadd g o => g.ok && o.ok
  | .acas g o _ => g.ok && o.ok
  | .acas2 g gd _ _ _ _ ord => g.ok && !(gd == 0 && (ord == .acq || ord == .ar))
  | .redx g _ c => g.ok && (match c with | .scalar _ t => t != 3 | .vector _ => true)
  | .redfOpen g _ _ | .redfRd g _ _ _ | .redfFin g _ _ _ | .redfSt g _ _ | .semw g _ _ _ _ _ | .sems g _ _ _
  | .fence g _ | .mark g | .strel g _ _ _ _ _ => g.ok
  | .ldacq g _ _ _ _ w s => g.ok && !(w == .d && s)
  | .rginv g _ all ga _ => g.ok && (!all || ga == 0)
  | .rgsplit g _ | .rgmerge g _ | .rgpin g _ _ | .rgprobe g _ _ _ | .rgfill g _ _ | .bankoff g _ | .spdrop g _ _
  | .spwake g _ | .launch g _ _ _ | .node g _ _ _ => g.ok
  | .litx n _ v => v.toNat < 2 ^ (16 * (n.toNat + 1))
  | .mvx o => o.wf != 7 && (o.wf == 2 || !o.sat)
  | .racc t _ => t != 3
  | _ => true

/-- Illegal operand at decode, 0x03 (R18, R26 and the forms that say so). -/
def operandOk : Instr → Bool
  | .vadd _ o | .vsub _ o | .vmul _ o | .vmin _ o | .vmax _ o => o.vd.dest && o.va.ok && o.vb.ok
  | .vfma _ o | .vfms _ o | .vclamp _ o => o.vd.dest && o.va.ok && o.vb.ok && o.vc.ok
  | .vabs _ o | .vneg _ o | .vpopc _ o | .vclz _ o | .vrcp _ o | .vrsq _ o | .vsqrt _ o | .vexp2 _ o | .vlog2 _ o
  | .vtanh _ o => o.vd.dest && o.va.ok
  | .vand _ o | .vor _ o | .vxor _ o => o.vd.dest && o.va.ok && o.vb.ok
  | .vnot _ vd va | .vmov _ vd va | .vpclr _ vd va | .vtrn _ vd va => vd.dest && va.ok
  | .vshl _ o | .vshr _ o | .vsra _ o | .vrot _ o =>
    o.vd.dest && o.va.ok && (match o.n with | .vec v => v.ok | .imm _ => true)
  | .vbfx _ _ vd va pos _ _ => vd.dest && va.ok && (match pos with | .vec v => v.ok | .imm _ => true)
  | .vfsh _ _ vd va vb n => vd.dest && va.ok && vb.ok && (match n with | .vec v => v.ok | .imm _ => true)
  | .vcmp _ _ _ _ va vb => va.ok && vb.ok
  | .vsel _ o _ _ => o.vd.dest && o.va.ok && o.vb.ok
  | .vli _ vd _ | .vbcs _ _ vd _ | .vmovpToVector _ vd _ => vd.dest
  | .vmovpToPredicate _ _ va | .vptest _ _ va => va.ok
  | .vcvt _ o _ _ => o.vd.dest && o.va.ok
  | .vpack _ _ _ o _ => o.vd.dest && o.va.ok && o.vb.ok
  | .vunpk _ _ vd va _ => vd.dest && va.ok
  | .vquant _ _ _ _ vd va _ => vd.dest && va.ok
  | .vdeq _ _ _ _ o _ => o.vd.dest && o.va.ok && o.vb.ok
  | .vrotr _ o | .vrotc _ o | .vbcr _ o | .vbcc _ o => o.vd.dest && o.va.ok
  | .vredr _ o | .vredc _ o | .vscanr _ o => o.vd.dest && o.va.ok
  | .vgath _ vd va _ _ => vd.dest && va.ok
  | .vscat _ va vb _ _ => va.ok && vb.ok
  | .vlut _ _ vd va _ => vd.dest && va.ok
  | .mma _ fmt _ acc opa opb => opa.src && opb.src && !(fmt == .f64 && acc.toNat % 2 == 1)
  | .mmai _ _ _ _ _ _ _ opa opb => opa.src && opb.src
  | .mmax _ _ _ _ opa opb _ _ => opa.src && opb.src
  | .mmaa _ _ _ _ _ acc opa opb =>
    40 ≤ opa.toNat && opa.toNat < 56 && opa.toNat != 40 + acc.toNat && opb.src
  | .mzero _ acc c => acc.toNat + c.toNat + 1 ≤ 16
  | .mload _ _ opa all _ => opa.src && !(all && opa.isV)
  | .mdrain _ _ _ _ _ opa _ opb _ => opa.dest && opb.src
  | .pstart _ q | .pstop _ q | .psave _ q _ | .pload _ q _ => q.port
  | .vld _ vd _ _ _ => vd.isV
  | .vst _ va _ _ spl => va.ok && (va.o.isV || !spl)
  | .psetPattern _ q _ _ | .qstat _ _ q _ | .qrew _ q _ _ => q.port
  | .acas2 _ gd _ gb gc _ _ => gd.toNat % 2 == 0 && gd != 0 && gb.toNat % 2 == 0 && gc.toNat % 2 == 0
  | .redx _ _ c => (match c with | .scalar _ _ => true | .vector va => va.src)
  | _ => true

/-- A term the device gives an effect: every decode check passes. -/
def WellFormed (i : Instr) : Bool := opcodeOk i && operandOk i

end Sys2Proof
end

