-- ==== Sys2Proof/Decode.lean ====
section
/-! DEFINITION. Decoding of syllables (R21 to R29, R37 to R43) and of near-memory words (R30, R44, R45, R239 to R250),
total on any bits, and after it the encoder written from the same layouts. A syllable is first read as the raw fields
of its class; a field that its form reserves must be 0. -/

namespace Sys2Proof

/-- What stops a syllable at decode, in the order of R18. -/
inductive DecodeError where
  /-- illegal opcode, 0x01 -/
  | opcode
  /-- illegal operand, 0x03 -/
  | operand
  deriving DecidableEq, Repr

/-- The raw S syllable (R21). -/
structure SRaw where
  e : Bool
  opc : BitVec 8
  p : BitVec 4
  neg : Bool
  gd : BitVec 5
  ga : BitVec 5
  gb : BitVec 5
  i : Bool
  imm : BitVec 32
  deriving DecidableEq, Repr

/-- The raw V syllable (R22). -/
structure VRaw where
  e : Bool
  opc : BitVec 8
  p : BitVec 4
  neg : Bool
  ty : BitVec 4
  vd : BitVec 6
  va : BitVec 6
  vb : BitVec 6
  vc : BitVec 6
  lua : Bool
  lub : Bool
  luc : Bool
  rnd : BitVec 3
  sat : Bool
  aux : BitVec 13
  deriving DecidableEq, Repr

/-- The raw M syllable (R24). -/
structure MRaw where
  e : Bool
  opc : BitVec 6
  p : BitVec 4
  neg : Bool
  tkw : BitVec 4
  tks : BitVec 4
  swap : Bool
  sh : BitVec 2
  opa : BitVec 6
  opb : BitVec 6
  acc : BitVec 4
  fmt : BitVec 4
  mode : BitVec 4
  aux : BitVec 15
  deriving DecidableEq, Repr

/-- The raw X syllable (R25). -/
structure XRaw where
  e : Bool
  opc : BitVec 8
  p : BitVec 4
  neg : Bool
  gd : BitVec 5
  ga : BitVec 5
  gb : BitVec 5
  scope : BitVec 3
  vpl : BitVec 6
  aux : BitVec 24
  deriving DecidableEq, Repr

def SRaw.ofWord (w : Word) : SRaw :=
  { e := w.getLsbD 63, opc := w.extractLsb' 53 8, p := w.extractLsb' 49 4, neg := w.getLsbD 48,
    gd := w.extractLsb' 43 5, ga := w.extractLsb' 38 5, gb := w.extractLsb' 33 5, i := w.getLsbD 32,
    imm := w.extractLsb' 0 32 }

def VRaw.ofWord (w : Word) : VRaw :=
  { e := w.getLsbD 63, opc := w.extractLsb' 53 8, p := w.extractLsb' 49 4, neg := w.getLsbD 48,
    ty := w.extractLsb' 44 4, vd := w.extractLsb' 38 6, va := w.extractLsb' 32 6, vb := w.extractLsb' 26 6,
    vc := w.extractLsb' 20 6, lua := w.getLsbD 19, lub := w.getLsbD 18, luc := w.getLsbD 17,
    rnd := w.extractLsb' 14 3, sat := w.getLsbD 13, aux := w.extractLsb' 0 13 }

def MRaw.ofWord (w : Word) : MRaw :=
  { e := w.getLsbD 63, opc := w.extractLsb' 55 6, p := w.extractLsb' 51 4, neg := w.getLsbD 50,
    tkw := w.extractLsb' 46 4, tks := w.extractLsb' 42 4, swap := w.getLsbD 41, sh := w.extractLsb' 39 2,
    opa := w.extractLsb' 33 6, opb := w.extractLsb' 27 6, acc := w.extractLsb' 23 4, fmt := w.extractLsb' 19 4,
    mode := w.extractLsb' 15 4, aux := w.extractLsb' 0 15 }

def XRaw.ofWord (w : Word) : XRaw :=
  { e := w.getLsbD 63, opc := w.extractLsb' 53 8, p := w.extractLsb' 49 4, neg := w.getLsbD 48,
    gd := w.extractLsb' 43 5, ga := w.extractLsb' 38 5, gb := w.extractLsb' 33 5, scope := w.extractLsb' 30 3,
    vpl := w.extractLsb' 24 6, aux := w.extractLsb' 0 24 }

/-- One bit as a word of one bit. -/
abbrev b1 (b : Bool) : BitVec 1 := BitVec.ofBool b

def SRaw.toWord (r : SRaw) : Word :=
  b1 r.e ++ 0#2 ++ r.opc ++ r.p ++ b1 r.neg ++ r.gd ++ r.ga ++ r.gb ++ b1 r.i ++ r.imm

def VRaw.toWord (r : VRaw) : Word :=
  b1 r.e ++ 1#2 ++ r.opc ++ r.p ++ b1 r.neg ++ r.ty ++ r.vd ++ r.va ++ r.vb ++ r.vc ++ b1 r.lua ++ b1 r.lub ++ b1 r.luc
    ++ r.rnd ++ b1 r.sat ++ r.aux

def MRaw.toWord (r : MRaw) : Word :=
  b1 r.e ++ 2#2 ++ r.opc ++ r.p ++ b1 r.neg ++ r.tkw ++ r.tks ++ b1 r.swap ++ r.sh ++ r.opa ++ r.opb ++ r.acc ++ r.fmt
    ++ r.mode ++ r.aux

def XRaw.toWord (r : XRaw) : Word :=
  b1 r.e ++ 3#2 ++ r.opc ++ r.p ++ b1 r.neg ++ r.gd ++ r.ga ++ r.gb ++ r.scope ++ r.vpl ++ r.aux

/-! Selector codes. -/

/-- R27; none for the reserved codes 13 to 15. -/
def Ty.ofCode (n : Nat) : Option Ty :=
  match n with
  | 0 => some .f32 | 1 => some .bf16 | 2 => some .f16 | 3 => some .i32 | 4 => some .u32 | 5 => some .i16
  | 6 => some .u16 | 7 => some .i8 | 8 => some .u8 | 9 => some .e4m3 | 10 => some .e5m2 | 11 => some .f64
  | 12 => some .e2m1 | _ => none

/-- R28; none for 6 and 7. -/
def Rnd.ofCode (n : Nat) : Option Rnd :=
  match n with
  | 0 => some .rne | 1 => some .rtz | 2 => some .rdn | 3 => some .rup | 4 => some .rsr | 5 => some .dyn | _ => none

def Rnd.code : Rnd → Nat
  | .rne => 0 | .rtz => 1 | .rdn => 2 | .rup => 3 | .rsr => 4 | .dyn => 5

/-- R25; none for 6 and 7. -/
def Scope.ofCode (n : Nat) : Option Scope :=
  match n with
  | 0 => some .sd | 1 => some .co | 2 => some .cl | 3 => some .di | 4 => some .dv | 5 => some .sy | _ => none

def Scope.code : Scope → Nat
  | .sd => 0 | .co => 1 | .cl => 2 | .di => 3 | .dv => 4 | .sy => 5

/-- R85; none for 11 to 15. -/
def Cond.ofCode (n : Nat) : Option Cond :=
  match n with
  | 0 => some .eq | 1 => some .ne | 2 => some .lt | 3 => some .ge | 4 => some .ltu | 5 => some .geu | 6 => some .gt
  | 7 => some .le | 8 => some .gtu | 9 => some .leu | 10 => some .tst | _ => none

def Cond.code : Cond → Nat
  | .eq => 0 | .ne => 1 | .lt => 2 | .ge => 3 | .ltu => 4 | .geu => 5 | .gt => 6 | .le => 7 | .gtu => 8 | .leu => 9
  | .tst => 10

/-- R94, R119; none for 8 to 15. -/
def FCond.ofCode (n : Nat) : Option FCond :=
  match n with
  | 0 => some .eq | 1 => some .ne | 2 => some .lt | 3 => some .le | 4 => some .gt | 5 => some .ge | 6 => some .un
  | 7 => some .ord | _ => none

def FCond.code : FCond → Nat
  | .eq => 0 | .ne => 1 | .lt => 2 | .le => 3 | .gt => 4 | .ge => 5 | .un => 6 | .ord => 7

/-- R90. -/
def Wd.ofCode (n : Nat) : Wd :=
  match n with
  | 0 => .b | 1 => .h | 2 => .w | _ => .d

def Wd.code : Wd → Nat
  | .b => 0 | .h => 1 | .w => 2 | .d => 3

/-- R193. -/
def AOrd.ofCode (n : Nat) : AOrd :=
  match n with
  | 0 => .rlx | 1 => .acq | 2 => .rel | _ => .ar

def AOrd.code : AOrd → Nat
  | .rlx => 0 | .acq => 1 | .rel => 2 | .ar => 3

/-- R129; none for 3. -/
def RedOp.ofCode (n : Nat) : Option RedOp :=
  match n with
  | 0 => some .add | 1 => some .min | 2 => some .max | _ => none

def RedOp.code : RedOp → Nat
  | .add => 0 | .min => 1 | .max => 2

/-- R124. -/
def MxFmt.ofCode (n : Nat) : MxFmt :=
  match n with
  | 0 => .e4m3 | 1 => .e5m2 | 2 => .e2m1 | _ => .i8

def MxFmt.code : MxFmt → Nat
  | .e4m3 => 0 | .e5m2 => 1 | .e2m1 => 2 | .i8 => 3

/-- R144; none for 9 to 15. -/
def MmaFmt.ofCode (n : Nat) : Option MmaFmt :=
  match n with
  | 0 => some .f64 | 1 => some .f32 | 2 => some .bf16 | 3 => some .f16 | 4 => some .e4m3 | 5 => some .e4m3e5m2
  | 6 => some .e5m2e4m3 | 7 => some .e5m2 | 8 => some .e2m1 | _ => none

def MmaFmt.code : MmaFmt → Nat
  | .f64 => 0 | .f32 => 1 | .bf16 => 2 | .f16 => 3 | .e4m3 => 4 | .e4m3e5m2 => 5 | .e5m2e4m3 => 6 | .e5m2 => 7
  | .e2m1 => 8

/-- R146; none for 6 to 15. -/
def MmaxFmt.ofCode (n : Nat) : Option MmaxFmt :=
  match n with
  | 0 => some .mxe4m3 | 1 => some .mxe4m3e5m2 | 2 => some .mxe5m2e4m3 | 3 => some .mxe5m2 | 4 => some .mxe2m1
  | 5 => some .mxi8 | _ => none

def MmaxFmt.code : MmaxFmt → Nat
  | .mxe4m3 => 0 | .mxe4m3e5m2 => 1 | .mxe5m2e4m3 => 2 | .mxe5m2 => 3 | .mxe2m1 => 4 | .mxi8 => 5

/-- R147: the codes of R144 for the five formats it takes. -/
def MmaaFmt.ofCode (n : Nat) : Option MmaaFmt :=
  match n with
  | 2 => some .bf16 | 4 => some .e4m3 | 5 => some .e4m3e5m2 | 6 => some .e5m2e4m3 | 7 => some .e5m2 | _ => none

def MmaaFmt.code : MmaaFmt → Nat
  | .bf16 => 2 | .e4m3 => 4 | .e4m3e5m2 => 5 | .e5m2e4m3 => 6 | .e5m2 => 7

/-- R150; none for 10 to 15. -/
def DrainFmt.ofCode (n : Nat) : Option DrainFmt :=
  match n with
  | 0 => some .raw | 1 => some .bf16 | 2 => some .f16 | 3 => some .e4m3 | 4 => some .e5m2 | 5 => some .i8 | 6 => some .u8
  | 7 => some .i16 | 8 => some .u16 | 9 => some .i32 | _ => none

def DrainFmt.code : DrainFmt → Nat
  | .raw => 0 | .bf16 => 1 | .f16 => 2 | .e4m3 => 3 | .e5m2 => 4 | .i8 => 5 | .u8 => 6 | .i16 => 7 | .u16 => 8 | .i32 => 9

/-- R181; none for 3. -/
def CompKind.ofCode (n : Nat) : Option CompKind :=
  match n with
  | 0 => some .none | 1 => some .sem | 2 => some .ring | _ => Option.none

def CompKind.code : CompKind → Nat
  | .none => 0 | .sem => 1 | .ring => 2

/-- R184; none for 3. -/
def ClkUnit.ofCode (n : Nat) : Option ClkUnit :=
  match n with
  | 0 => some .array | 1 => some .copy | 2 => some .strand | _ => none

def ClkUnit.code : ClkUnit → Nat
  | .array => 0 | .copy => 1 | .strand => 2

/-- A term when a condition on its fields holds. -/
def guardOpt {α : Type} (c : Bool) (x : α) : Option α := if c then some x else none

/-- Bits hi down to lo of a field. -/
abbrev fld {n : Nat} (x : BitVec n) (hi lo : Nat) : Nat := bits x.toNat hi lo

/-- A bit of a field. -/
abbrev fbit {n : Nat} (x : BitVec n) (k : Nat) : Bool := x.getLsbD k

/-! The S class (R40, R77 to R101). -/

def SRaw.guard (r : SRaw) : Guard := ⟨r.p, r.neg⟩

/-- imm32 of a form with I = 0 that uses none of gc and aux. -/
def SRaw.noImm (r : SRaw) : Bool := !r.i && r.imm == 0

/-- The binary forms (R78). -/
def SRaw.bin (r : SRaw) : Option SBin :=
  if r.i then guardOpt (r.gb == 0) ⟨r.gd, r.ga, .imm r.imm⟩
  else guardOpt (r.imm == 0) ⟨r.gd, r.ga, .reg r.gb⟩

/-- The unary forms (R82). -/
def SRaw.un (r : SRaw) : Option SUn := guardOpt (r.noImm && r.gb == 0) ⟨r.gd, r.ga⟩

/-- A predicate named by a scalar register field whose bit 4 is reserved (R77). -/
def preg (f : BitVec 5) : Option PRegNo := guardOpt (!fbit f 4) (f.extractLsb' 0 4)

/-- The predicate binary forms (R88). -/
def SRaw.pbin (r : SRaw) : Option PBin := do
  let pd ← preg r.gd
  let pa ← preg r.ga
  let pb ← preg r.gb
  guardOpt r.noImm ⟨pd, pa, pb⟩

/-- gc of an I = 0 form. -/
def SRaw.gc (r : SRaw) : GReg := r.imm.extractLsb' 27 5
/-- aux of an I = 0 form. -/
def SRaw.aux (r : SRaw) : BitVec 27 := r.imm.extractLsb' 0 27

/-- The float binary forms and `ffma` (R92). -/
def SRaw.fbin (r : SRaw) : Option FBin := do
  let ty ← Ty.ofCode (fld r.aux 3 0)
  let rnd ← Rnd.ofCode (fld r.aux 6 4)
  guardOpt (!r.i && fld r.aux 26 8 == 0) ⟨r.gd, r.ga, r.gb, ty, rnd, fbit r.aux 7⟩

/-- R40; every other opcode value, every reserved field that is not 0 and every unassigned selector gives none. -/
def SRaw.instr (r : SRaw) : Option Instr :=
  let g := r.guard
  match r.opc.toNat with
  | 0x01 => r.bin.map (.add g)
  | 0x02 => r.bin.map (.sub g)
  | 0x03 => guardOpt r.i (.addi g r.gd r.ga r.gb r.imm)
  | 0x04 => r.bin.map (.mul g)
  | 0x05 => r.bin.map (.mulh g)
  | 0x06 => r.bin.map (.mulhu g)
  | 0x07 => r.bin.map (.div g)
  | 0x08 => r.bin.map (.divu g)
  | 0x09 => r.bin.map (.rem g)
  | 0x0A => r.bin.map (.remu g)
  | 0x10 => r.bin.map (.and g)
  | 0x11 => r.bin.map (.or g)
  | 0x12 => r.bin.map (.xor g)
  | 0x13 => r.bin.map (.andn g)
  | 0x14 => r.bin.map (.shl g)
  | 0x15 => r.bin.map (.shr g)
  | 0x16 => r.bin.map (.sra g)
  | 0x17 => r.bin.map (.rot g)
  | 0x18 => r.bin.map (.min g)
  | 0x19 => r.bin.map (.max g)
  | 0x1A => r.bin.map (.minu g)
  | 0x1B => r.bin.map (.maxu g)
  | 0x1C => r.un.map (.abs g)
  | 0x1D => r.un.map (.clz g)
  | 0x1E => r.un.map (.ctz g)
  | 0x1F => r.un.map (.popc g)
  | 0x20 =>
    if r.i then
      guardOpt (r.gb == 0 && fld r.imm 31 16 == 0)
        (.bfx g r.gd r.ga (.imm (r.imm.extractLsb' 0 8)) (r.imm.extractLsb' 8 7) (fbit r.imm 15))
    else
      guardOpt (r.gc == 0 && fld r.aux 26 8 == 0)
        (.bfx g r.gd r.ga (.reg r.gb) (r.aux.extractLsb' 0 7) (fbit r.aux 7))
  | 0x21 =>
    if r.i then
      guardOpt (fld r.imm 31 15 == 0)
        (.bfi g r.gd r.ga r.gb (.imm (r.imm.extractLsb' 0 8)) (r.imm.extractLsb' 8 7))
    else guardOpt (fld r.aux 26 7 == 0) (.bfi g r.gd r.ga r.gc (.reg r.gb) (r.aux.extractLsb' 0 7))
  | 0x22 =>
    if r.i then guardOpt (fld r.imm 31 8 == 0) (.fsh g r.gd r.ga r.gb (.imm (r.imm.extractLsb' 0 8)))
    else guardOpt (r.aux == 0) (.fsh g r.gd r.ga r.gb (.reg r.gc))
  | 0x23 =>
    guardOpt (!r.i && r.gb == 0 && r.gc == 0 && fld r.aux 26 2 == 0) (.bswap g ⟨r.gd, r.ga⟩ (r.aux.extractLsb' 0 2))
  | 0x24 => guardOpt (r.i && r.ga == 0 && r.gb == 0) (.li g r.gd r.imm)
  | 0x25 => guardOpt (r.i && r.gb == 0) (.lih g r.gd r.ga r.imm)
  | 0x26 => do
    let pd ← preg r.gd
    if r.i then
      let c ← Cond.ofCode (fld r.gb 3 0)
      guardOpt (!fbit r.gb 4) (.cmp g pd r.ga (.imm r.imm) c)
    else
      let c ← Cond.ofCode (fld r.aux 3 0)
      guardOpt (r.gc == 0 && fld r.aux 26 4 == 0) (.cmp g pd r.ga (.reg r.gb) c)
  | 0x27 =>
    if r.i then some (.sel g ⟨r.gd, r.ga, .imm r.imm⟩ (r.gb.extractLsb' 0 4) (fbit r.gb 4))
    else
      guardOpt (r.gc == 0 && fld r.aux 26 5 == 0)
        (.sel g ⟨r.gd, r.ga, .reg r.gb⟩ (r.aux.extractLsb' 0 4) (fbit r.aux 4))
  | 0x28 =>
    if r.i && r.gb == 0 && fld r.imm 31 5 == 0 then
      if fbit r.imm 4 then (preg r.gd).map (fun pd => .movpToPredicate g pd r.ga (r.imm.extractLsb' 0 4))
      else (preg r.ga).map (fun pa => .movpToScalar g r.gd pa (r.imm.extractLsb' 0 4))
    else none
  | 0x29 => guardOpt (!r.i && r.gc == 0) (.lea g r.gd r.ga r.gb (r.aux.extractLsb' 0 3) (r.aux.extractLsb' 3 24))
  | 0x2A => r.bin.map (.winq g)
  | 0x30 =>
    guardOpt (r.i && r.gd == 0 && fld r.gb 4 1 == 0)
      (.br g (r.ga.extractLsb' 0 4) (fbit r.ga 4) (fbit r.gb 0) r.imm)
  | 0x31 => guardOpt (r.i && r.gd == 0 && r.ga == 0 && r.gb == 0) (.jmp g r.imm)
  | 0x32 => guardOpt (r.i && r.ga == 0 && r.gb == 0) (.call g r.gd r.imm)
  | 0x33 => guardOpt (r.noImm && r.gd == 0 && r.gb == 0) (.ret g r.ga)
  | 0x34 => guardOpt (r.i && r.gb == 0) (.jr g r.gd r.ga r.imm)
  | 0x35 => guardOpt (r.i && r.ga == 0 && fld r.gb 4 3 == 0) (.loop g r.gd (r.gb.extractLsb' 0 3) r.imm)
  | 0x36 =>
    guardOpt (r.i && r.gd == 0 && fld r.ga 4 3 == 0 && fld r.gb 4 1 == 0)
      (.brq g (r.ga.extractLsb' 0 3) (fbit r.gb 0) r.imm)
  | 0x37 => guardOpt (r.noImm && r.gd == 0 && r.ga == 0 && r.gb == 0) (.halt g)
  | 0x38 => guardOpt (r.noImm && r.gd == 0 && r.ga == 0 && r.gb == 0) (.nop g)
  | 0x39 => guardOpt (r.i && r.gb == 0 && fld r.imm 31 16 == 0) (.wfe g r.gd r.ga (r.imm.extractLsb' 0 16))
  | 0x40 => r.pbin.map (.pand g)
  | 0x41 => r.pbin.map (.por g)
  | 0x42 => r.pbin.map (.pxor g)
  | 0x43 => do
    let pd ← preg r.gd
    let pa ← preg r.ga
    guardOpt (r.noImm && r.gb == 0) (.pnot g pd pa)
  | 0x44 => do
    let pd ← preg r.gd
    if r.i then guardOpt (r.ga == 0 && r.gb == 0) (.psetPredicate g pd (.imm r.imm))
    else guardOpt (r.noImm && r.gb == 0) (.psetPredicate g pd (.reg r.ga))
  | 0x45 => (preg r.ga).bind (fun pa => guardOpt (r.noImm && r.gb == 0) (.pcnt g r.gd pa))
  | 0x46 => (preg r.ga).bind (fun pa => guardOpt (r.noImm && r.gb == 0) (.pany g r.gd pa))
  | 0x48 =>
    if fld r.gd 4 2 == 0 then
      if r.i then guardOpt (r.ga == 0) (.shset g (r.gd.extractLsb' 0 2) r.gb (.imm r.imm))
      else
        guardOpt (r.gb == 0 && r.gc == 0 && fld r.aux 26 5 == 0)
          (.shset g (r.gd.extractLsb' 0 2) (r.aux.extractLsb' 0 5) (.reg r.ga))
    else none
  | 0x49 =>
    guardOpt (!r.i && fld r.ga 4 2 == 0 && r.gb == 0 && r.gc == 0 && fld r.aux 26 6 == 0)
      (.shget g r.gd (r.ga.extractLsb' 0 2) (r.aux.extractLsb' 0 5) (fbit r.aux 5))
  | 0x50 =>
    if r.i then guardOpt (fld r.gb 4 3 == 0) (.ld g ⟨r.gd, r.ga, .imm r.imm⟩ (Wd.ofCode (fld r.gb 1 0)) (fbit r.gb 2))
    else
      guardOpt (r.gc == 0 && fld r.aux 26 3 == 0)
        (.ld g ⟨r.gd, r.ga, .reg r.gb⟩ (Wd.ofCode (fld r.aux 1 0)) (fbit r.aux 2))
  | 0x51 =>
    if r.i then guardOpt (fld r.gb 4 2 == 0) (.st g ⟨r.gd, r.ga, .imm r.imm⟩ (Wd.ofCode (fld r.gb 1 0)))
    else guardOpt (r.gc == 0 && fld r.aux 26 2 == 0) (.st g ⟨r.gd, r.ga, .reg r.gb⟩ (Wd.ofCode (fld r.aux 1 0)))
  | 0x58 => if r.gc == 0 then r.fbin.map (.fadd g) else none
  | 0x59 => if r.gc == 0 then r.fbin.map (.fsub g) else none
  | 0x5A => if r.gc == 0 then r.fbin.map (.fmul g) else none
  | 0x5B => r.fbin.map (fun o => .ffma g o r.gc)
  | 0x5C => do
    let s ← Ty.ofCode (fld r.aux 3 0)
    let rnd ← Rnd.ofCode (fld r.aux 6 4)
    let d ← Ty.ofCode (fld r.aux 11 8)
    guardOpt (!r.i && r.gb == 0 && r.gc == 0 && fld r.aux 26 12 == 0) (.fcvt g r.gd r.ga d s rnd (fbit r.aux 7))
  | 0x5D => do
    let pd ← preg r.gd
    let ty ← Ty.ofCode (fld r.aux 3 0)
    let c ← FCond.ofCode (fld r.aux 7 4)
    guardOpt (!r.i && r.gc == 0 && fld r.aux 26 8 == 0) (.fcmp g pd r.ga r.gb ty c)
  | 0x60 =>
    guardOpt (!r.i && r.ga == 0 && r.gb == 0 && r.gc == 0 && fld r.aux 26 12 == 0) (.sysr g r.gd (r.aux.extractLsb' 0 12))
  | 0x61 =>
    guardOpt (!r.i && r.gd == 0 && r.gb == 0 && r.gc == 0 && fld r.aux 26 12 == 0) (.sysw g (r.aux.extractLsb' 0 12) r.ga)
  | 0x62 => guardOpt (r.i && r.gd == 0 && r.ga == 0 && r.gb == 0) (.trap g r.imm)
  | 0x63 => guardOpt (r.noImm && r.gd == 0 && r.ga == 0 && r.gb == 0) (.eret g)
  | 0x64 => guardOpt (r.i && r.gd == 0 && r.ga == 0 && r.gb == 0) (.brk g r.imm)
  | _ => none

/-! The V class (R41, R105 to R131). -/

def VRaw.guard (r : VRaw) : Guard := ⟨r.p, r.neg⟩
def VRaw.a (r : VRaw) : VSrc := ⟨r.va, r.lua⟩
def VRaw.b (r : VRaw) : VSrc := ⟨r.vb, r.lub⟩
def VRaw.c (r : VRaw) : VSrc := ⟨r.vc, r.luc⟩
/-- vb and its last-use bit unused. -/
def VRaw.noB (r : VRaw) : Bool := r.vb == 0 && !r.lub
/-- vc and its last-use bit unused. -/
def VRaw.noC (r : VRaw) : Bool := r.vc == 0 && !r.luc
/-- type, rounding and saturate unused (set N of R107). -/
def VRaw.plain (r : VRaw) : Bool := r.ty == 0 && r.rnd == 0 && !r.sat
/-- rounding and saturate unused. -/
def VRaw.noRnd (r : VRaw) : Bool := r.rnd == 0 && !r.sat

def VRaw.bin (r : VRaw) : Option VBin := do
  let ty ← Ty.ofCode r.ty.toNat
  let rnd ← Rnd.ofCode r.rnd.toNat
  guardOpt (r.noC && r.aux == 0) ⟨ty, rnd, r.sat, r.vd, r.a, r.b⟩

def VRaw.ter (r : VRaw) : Option VTer := do
  let ty ← Ty.ofCode r.ty.toNat
  let rnd ← Rnd.ofCode r.rnd.toNat
  guardOpt (r.aux == 0) ⟨ty, rnd, r.sat, r.vd, r.a, r.b, r.c⟩

/-- A one-source typed form; aux is checked by its caller. -/
def VRaw.un (r : VRaw) : Option VUn := do
  let ty ← Ty.ofCode r.ty.toNat
  let rnd ← Rnd.ofCode r.rnd.toNat
  guardOpt (r.noB && r.noC) ⟨ty, rnd, r.sat, r.vd, r.a⟩

def VRaw.un0 (r : VRaw) : Option VUn := if r.aux == 0 then r.un else none

def VRaw.log (r : VRaw) : Option VLog := guardOpt (r.plain && r.noC && r.aux == 0) ⟨r.vd, r.a, r.b⟩

/-- The shifts (R115). -/
def VRaw.shift (r : VRaw) : Option VShift := do
  let ty ← Ty.ofCode r.ty.toNat
  if fbit r.aux 12 then
    guardOpt (r.noRnd && r.noC && r.noB && fld r.aux 11 8 == 0) ⟨ty, r.vd, r.a, .imm (r.aux.extractLsb' 0 8)⟩
  else guardOpt (r.noRnd && r.noC && r.aux == 0) ⟨ty, r.vd, r.a, .vec r.b⟩

/-- The movement forms (R128). -/
def VRaw.move (r : VRaw) : Option VMove :=
  guardOpt (r.plain && r.noB && r.noC && fld r.aux 12 6 == 0) ⟨r.vd, r.a, r.aux.extractLsb' 0 6⟩

/-- R129. -/
def VRaw.red (r : VRaw) : Option VRed := do
  let ty ← Ty.ofCode r.ty.toNat
  let rnd ← Rnd.ofCode r.rnd.toNat
  let op ← RedOp.ofCode (fld r.aux 1 0)
  guardOpt (r.noB && r.noC && fld r.aux 12 2 == 0) ⟨ty, op, rnd, r.sat, r.vd, r.a⟩

/-- A predicate named by a vector field whose upper bits are reserved (R108). -/
def vpreg (f : BitVec 6) : Option PRegNo := guardOpt (fld f 5 4 == 0) (f.extractLsb' 0 4)

/-- A scalar register named by a vector field whose bit 5 is reserved (R108). -/
def vgreg (f : BitVec 6) : Option GReg := guardOpt (!fbit f 5) (f.extractLsb' 0 5)

/-- R41. -/
def VRaw.instr (r : VRaw) : Option Instr :=
  let g := r.guard
  match r.opc.toNat with
  | 0x01 => r.bin.map (.vadd g)
  | 0x02 => r.bin.map (.vsub g)
  | 0x03 => r.bin.map (.vmul g)
  | 0x04 => r.ter.map (.vfma g)
  | 0x05 => r.ter.map (.vfms g)
  | 0x06 => r.bin.map (.vmin g)
  | 0x07 => r.bin.map (.vmax g)
  | 0x08 => r.un0.map (.vabs g)
  | 0x09 => r.un0.map (.vneg g)
  | 0x0A => r.ter.map (.vclamp g)
  | 0x10 => r.log.map (.vand g)
  | 0x11 => r.log.map (.vor g)
  | 0x12 => r.log.map (.vxor g)
  | 0x13 => guardOpt (r.plain && r.noB && r.noC && r.aux == 0) (.vnot g r.vd r.a)
  | 0x14 => r.shift.map (.vshl g)
  | 0x15 => r.shift.map (.vshr g)
  | 0x16 => r.shift.map (.vsra g)
  | 0x17 => r.shift.map (.vrot g)
  | 0x18 => r.un0.map (.vpopc g)
  | 0x19 => r.un0.map (.vclz g)
  | 0x1A => do
    let ty ← Ty.ofCode r.ty.toNat
    if fbit r.aux 7 then
      guardOpt (r.noRnd && r.noB && r.noC)
        (.vbfx g ty r.vd r.a (.imm ((r.aux.extractLsb' 8 5).setWidth 8)) (fbit r.aux 6) (r.aux.extractLsb' 0 6))
    else
      guardOpt (r.noRnd && r.noC && fld r.aux 12 8 == 0)
        (.vbfx g ty r.vd r.a (.vec r.b) (fbit r.aux 6) (r.aux.extractLsb' 0 6))
  | 0x1B => do
    let ty ← Ty.ofCode r.ty.toNat
    if fbit r.aux 12 then
      guardOpt (r.noRnd && r.noC && fld r.aux 11 8 == 0) (.vfsh g ty r.vd r.a r.b (.imm (r.aux.extractLsb' 0 8)))
    else guardOpt (r.noRnd && r.aux == 0) (.vfsh g ty r.vd r.a r.b (.vec r.c))
  | 0x20 => do
    let ty ← Ty.ofCode r.ty.toNat
    let c ← FCond.ofCode (fld r.aux 3 0)
    let pd ← vpreg r.vd
    guardOpt (r.noRnd && r.noC && fld r.aux 12 4 == 0) (.vcmp g ty c pd r.a r.b)
  | 0x21 =>
    guardOpt (r.plain && !r.luc && !fbit r.vc 5 && r.aux == 0)
      (.vsel g ⟨r.vd, r.a, r.b⟩ (r.vc.extractLsb' 0 4) (fbit r.vc 4))
  | 0x22 => guardOpt (r.plain && r.noB && r.noC && r.aux == 0) (.vmov g r.vd r.a)
  | 0x23 =>
    guardOpt (r.ty == 0 && !r.lub && !r.luc && r.rnd == 0 && !r.sat)
      (.vli g r.vd (r.va ++ r.vb ++ r.vc ++ b1 r.lua ++ r.aux))
  | 0x24 => do
    let ty ← Ty.ofCode r.ty.toNat
    let ga ← vgreg r.va
    guardOpt (r.noRnd && !r.lua && r.noB && r.noC && r.aux == 0) (.vbcs g ty r.vd ga)
  | 0x25 =>
    if fld r.aux 12 1 == 0 && r.plain && r.noB && r.noC then
      if fbit r.aux 0 then (vpreg r.vd).map (fun pd => .vmovpToPredicate g pd r.a)
      else (vpreg r.va).bind (fun pa => guardOpt (!r.lua) (.vmovpToVector g r.vd pa))
    else none
  | 0x26 => (vpreg r.vd).bind (fun pd => guardOpt (r.plain && r.noB && r.noC && r.aux == 0) (.vptest g pd r.a))
  | 0x27 => guardOpt (r.plain && r.noB && r.noC && r.aux == 0) (.vpclr g r.vd r.a)
  | 0x30 => do
    let o ← r.un
    let d ← Ty.ofCode (fld r.aux 3 0)
    guardOpt (fld r.aux 12 8 == 0) (.vcvt g o d (r.aux.extractLsb' 4 4))
  | 0x31 => do
    let ty ← Ty.ofCode r.ty.toNat
    guardOpt (r.rnd == 0 && r.noC && fld r.aux 12 2 == 0) (.vpack g ty r.sat ⟨r.vd, r.a, r.b⟩ (r.aux.extractLsb' 0 2))
  | 0x32 => do
    let ty ← Ty.ofCode r.ty.toNat
    guardOpt (r.noRnd && r.noB && r.noC && fld r.aux 12 3 == 0) (.vunpk g ty r.vd r.a (r.aux.extractLsb' 0 3))
  | 0x33 => do
    let rnd ← Rnd.ofCode r.rnd.toNat
    guardOpt (r.ty == 0 && !r.sat && r.noB && r.noC && fld r.aux 12 7 == 0 && !fbit r.aux 3)
      (.vquant g (MxFmt.ofCode (fld r.aux 1 0)) (fbit r.aux 2) rnd r.vd r.a (r.aux.extractLsb' 4 3))
  | 0x34 => do
    let rnd ← Rnd.ofCode r.rnd.toNat
    guardOpt (r.ty == 0 && r.noC && fld r.aux 12 7 == 0 && fld r.aux 3 2 == 0)
      (.vdeq g (MxFmt.ofCode (fld r.aux 1 0)) rnd r.sat ⟨r.vd, r.a, r.b⟩ (r.aux.extractLsb' 4 3))
  | 0x40 => r.un0.map (.vrcp g)
  | 0x41 => r.un0.map (.vrsq g)
  | 0x42 => r.un0.map (.vsqrt g)
  | 0x43 => r.un0.map (.vexp2 g)
  | 0x44 => r.un0.map (.vlog2 g)
  | 0x45 => r.un0.map (.vtanh g)
  | 0x50 => r.move.map (.vrotr g)
  | 0x51 => r.move.map (.vrotc g)
  | 0x52 => r.move.map (.vbcr g)
  | 0x53 => r.move.map (.vbcc g)
  | 0x54 => r.red.map (.vredr g)
  | 0x55 => r.red.map (.vredc g)
  | 0x56 => r.red.map (.vscanr g)
  | 0x57 => guardOpt (r.plain && r.noB && r.noC && r.aux == 0) (.vtrn g r.vd r.a)
  | 0x60 =>
    (vgreg r.vb).bind (fun gb =>
      guardOpt (r.plain && !r.lub && r.noC && fld r.aux 12 2 == 0) (.vgath g r.vd r.a gb (r.aux.extractLsb' 0 2)))
  | 0x61 =>
    (vgreg r.vc).bind (fun gc =>
      guardOpt (r.plain && r.vd == 0 && !r.luc && fld r.aux 12 2 == 0) (.vscat g r.a r.b gc (r.aux.extractLsb' 0 2)))
  | 0x62 => do
    let ty ← Ty.ofCode r.ty.toNat
    let gb ← vgreg r.vb
    guardOpt (r.noRnd && !r.lub && r.noC && r.aux == 0) (.vlut g ty r.vd r.a gb)
  | _ => none

/-! The M class (R42, R144 to R185). -/

def MRaw.head (r : MRaw) : MHead := ⟨⟨r.p, r.neg⟩, r.tkw, r.tks, r.swap, r.sh⟩

/-- A scalar register named by an operand field whose bit 5 is reserved (R177). -/
def mgreg (f : BitVec 6) : Option GReg := guardOpt (!fbit f 5) (f.extractLsb' 0 5)

/-- R42. -/
def MRaw.instr (r : MRaw) : Option Instr :=
  let h := r.head
  match r.opc.toNat with
  | 0x01 => (MmaFmt.ofCode r.fmt.toNat).bind (fun f =>
      guardOpt (r.aux == 0 && fld r.mode 2 0 == 0) (.mma h f (fbit r.mode 3) r.acc r.opa r.opb))
  | 0x02 =>
    guardOpt (r.aux == 0 && r.fmt.toNat ≤ 1)
      (.mmai h (fbit r.fmt 0) (fbit r.mode 1) (fbit r.mode 0) (fbit r.mode 2) (fbit r.mode 3) r.acc r.opa r.opb)
  | 0x03 => (MmaxFmt.ofCode r.fmt.toNat).bind (fun f =>
      guardOpt (fld r.aux 14 10 == 0 && fld r.mode 2 0 == 0)
        (.mmax h f (fbit r.mode 3) r.acc r.opa r.opb (r.aux.extractLsb' 0 5) (r.aux.extractLsb' 5 5)))
  | 0x04 => (MmaaFmt.ofCode r.fmt.toNat).bind (fun f =>
      guardOpt (r.aux == 0 && !fbit r.mode 2)
        (.mmaa h f (fbit r.mode 0) (fbit r.mode 1) (fbit r.mode 3) r.acc r.opa r.opb))
  | 0x05 =>
    guardOpt (r.opa == 0 && r.opb == 0 && r.fmt == 0 && r.mode == 0 && fld r.aux 14 4 == 0)
      (.mzero h r.acc (r.aux.extractLsb' 0 4))
  | 0x06 =>
    guardOpt (r.opb == 0 && r.fmt == 0 && r.mode == 0 && fld r.aux 14 3 == 0)
      (.mload h r.acc r.opa (fbit r.aux 2) (r.aux.extractLsb' 0 2))
  | 0x07 => do
    let f ← DrainFmt.ofCode r.fmt.toNat
    let rnd ← Rnd.ofCode (fld r.mode 2 0)
    guardOpt (fld r.aux 14 3 == 0)
      (.mdrain h f rnd (fbit r.mode 3) (fbit r.aux 2) r.opa r.acc r.opb (r.aux.extractLsb' 0 2))
  | 0x08 =>
    guardOpt (r.opa == 0 && r.opb == 0 && r.acc == 0 && r.fmt == 0 && r.mode == 0 && fld r.aux 14 7 == 0)
      (.lease h (r.aux.extractLsb' 0 7))
  | 0x09 => guardOpt (r.opa == 0 && r.opb == 0 && r.acc == 0 && r.fmt == 0 && r.mode == 0 && r.aux == 0) (.unlease h)
  | 0x10 =>
    guardOpt (r.opa == 0 && r.opb == 0 && r.acc == 0 && r.fmt == 0 && r.mode == 0 && fld r.aux 14 4 == 0)
      (.twait h (r.aux.extractLsb' 0 4))
  | 0x11 =>
    guardOpt (r.opa == 0 && r.opb == 0 && r.acc == 0 && r.fmt == 0 && r.mode == 0 && fld r.aux 14 4 == 0)
      (.tsig h (r.aux.extractLsb' 0 4))
  | 0x18 => do
    let a ← mgreg r.opa
    let b ← mgreg r.opb
    let k ← CompKind.ofCode (fld r.mode 3 2)
    guardOpt (r.acc == 0 && r.fmt == 0 && fld r.aux 9 5 == 0)
      (.copy h a b (r.aux.extractLsb' 0 5) (fbit r.mode 0) (fbit r.mode 1) k (r.aux.extractLsb' 10 5))
  | 0x19 => do
    let a ← mgreg r.opa
    let b ← mgreg r.opb
    let k ← CompKind.ofCode (fld r.mode 3 2)
    guardOpt (fld r.acc 3 1 == 0 && r.fmt == 0)
      (.copyt h a b (r.aux.extractLsb' 0 5) (r.aux.extractLsb' 5 5) (fbit r.acc 0) (fbit r.mode 0) (fbit r.mode 1) k
        (r.aux.extractLsb' 10 5))
  | 0x1C => do
    let a ← mgreg r.opa
    let b ← mgreg r.opb
    guardOpt (r.acc == 0 && r.fmt == 0 && r.mode == 0 && fld r.aux 14 6 == 0)
      (.nlaunch h a b (r.aux.extractLsb' 0 5) (fbit r.aux 5))
  | 0x20 => guardOpt (r.opb == 0 && r.acc == 0 && r.fmt == 0 && r.mode == 0 && r.aux == 0) (.pstart h r.opa)
  | 0x21 => guardOpt (r.opb == 0 && r.acc == 0 && r.fmt == 0 && r.mode == 0 && r.aux == 0) (.pstop h r.opa)
  | 0x22 => (mgreg r.opb).bind (fun b =>
      guardOpt (r.acc == 0 && r.fmt == 0 && r.mode == 0 && r.aux == 0) (.psave h r.opa b))
  | 0x23 => (mgreg r.opb).bind (fun b =>
      guardOpt (r.acc == 0 && r.fmt == 0 && r.mode == 0 && r.aux == 0) (.pload h r.opa b))
  | 0x28 => (mgreg r.opa).bind (fun gd =>
      guardOpt (r.opb == 0 && r.acc == 0 && r.fmt == 0 && r.mode == 0 && fld r.aux 14 4 == 0)
        (.qflush h (r.aux.extractLsb' 0 4) gd))
  | 0x30 => (ClkUnit.ofCode (fld r.aux 1 0)).bind (fun u =>
      guardOpt (r.opa == 0 && r.opb == 0 && r.acc == 0 && r.fmt == 0 && r.mode == 0 && fld r.aux 14 7 == 0)
        (.clkdiv h u (r.aux.extractLsb' 2 5)))
  | 0x31 =>
    if r.opa == 0 && r.opb == 0 && r.acc == 0 && r.fmt == 0 && r.mode == 0 then
      match fld r.aux 1 0 with
      | 0 => guardOpt (fld r.aux 14 2 == 0) (.wake h .array)
      | 1 => guardOpt (fld r.aux 14 5 == 0) (.wake h (.vbank (r.aux.extractLsb' 2 3)))
      | 2 => guardOpt (fld r.aux 4 2 == 0 && fld r.aux 14 10 == 0) (.wake h (.spbank (r.aux.extractLsb' 5 5)))
      | _ => none
    else none
  | _ => none

/-! The X class (R43, R159 to R230). -/

def XRaw.guard (r : XRaw) : Guard := ⟨r.p, r.neg⟩

/-- The value operand and field number of `lset` and X `pset` (R159). -/
def XRaw.lsrc (r : XRaw) : Option LSrc :=
  if r.gd == 0 && r.gb == 0 && r.scope == 0 then
    if fbit r.aux 23 then guardOpt (r.ga == 0) (.imm (r.aux.extractLsb' 5 18))
    else guardOpt (fld r.aux 22 5 == 0) (.reg r.ga)
  else none

/-- A layout entry or ring in vpl, whose bit 5 is reserved. -/
def XRaw.entry (r : XRaw) : Option (BitVec 5) := guardOpt (!fbit r.vpl 5) (r.vpl.extractLsb' 0 5)

/-- An integer atomic's fields (R193); gc is checked by its caller. -/
def XRaw.atomic (r : XRaw) : Option AForm := do
  let s ← Scope.ofCode r.scope.toNat
  guardOpt (r.vpl == 0 && fld r.aux 23 10 == 0 && !fbit r.aux 7 && fbit r.aux 6)
    ⟨r.gd, r.ga, r.gb, s, AOrd.ofCode (fld r.aux 9 8), fbit r.aux 5⟩

def XRaw.atomic0 (r : XRaw) : Option AForm := if fld r.aux 4 0 == 0 then r.atomic else none

/-- The barrier named by aux<6:0> (R188), with the rest of aux, gb and vpl as the caller says. -/
def XRaw.bar (r : XRaw) : Option (BitVec 7) := guardOpt (r.vpl == 0 && fld r.aux 23 7 == 0) (r.aux.extractLsb' 0 7)

def XRaw.ringGet (r : XRaw) : Option RingGet :=
  r.entry.bind (fun k => guardOpt (r.ga == 0 && r.gb == 0 && r.scope == 0) ⟨r.gd, k⟩)

def XRaw.ringPut (r : XRaw) : Option RingPut :=
  r.entry.bind (fun k => guardOpt (r.gd == 0 && r.gb == 0 && r.scope == 0 && r.aux == 0) ⟨k, r.ga⟩)

def XRaw.rg (r : XRaw) : Option RgForm := guardOpt (r.scope == 0 && r.vpl == 0) ⟨r.gd, r.ga, r.gb⟩

/-- R43, with `sems` at 0x34 and `semw` at 0x35 as R200, R201 and the printed syllable of R407 have them (log entry
10). -/
def XRaw.instr (r : XRaw) : Option Instr :=
  let g := r.guard
  match r.opc.toNat with
  | 0x01 =>
    guardOpt (r.gd == 0 && r.gb == 0 && r.scope == 0 && !fbit r.aux 23 && fld r.aux 21 5 == 0)
      (.vld g r.vpl (r.aux.extractLsb' 0 5) r.ga (fbit r.aux 22))
  | 0x02 =>
    guardOpt (r.gd == 0 && r.gb == 0 && r.scope == 0 && fld r.aux 21 5 == 0)
      (.vst g ⟨r.vpl, fbit r.aux 23⟩ (r.aux.extractLsb' 0 5) r.ga (fbit r.aux 22))
  | 0x08 => do
    let k ← r.entry
    let v ← r.lsrc
    some (.lset g k (r.aux.extractLsb' 0 5) v)
  | 0x09 => r.entry.bind (fun k =>
      guardOpt (r.ga == 0 && r.gb == 0 && r.scope == 0 && fld r.aux 23 5 == 0) (.lget g r.gd k (r.aux.extractLsb' 0 5)))
  | 0x0A => r.lsrc.map (fun v => .psetPattern g r.vpl (r.aux.extractLsb' 0 5) v)
  | 0x0B =>
    guardOpt (r.ga == 0 && r.gb == 0 && r.scope == 0 && fld r.aux 23 2 == 0) (.qstat g r.gd r.vpl (r.aux.extractLsb' 0 2))
  | 0x0C => guardOpt (r.gd == 0 && r.scope == 0 && r.aux == 0) (.qrew g r.vpl r.ga r.gb)
  | 0x10 => r.entry.bind (fun k =>
      guardOpt (r.gd == 0 && r.scope == 0 && fld r.aux 23 12 == 0) (.rinit g k r.ga r.gb (r.aux.extractLsb' 0 12)))
  | 0x11 => if r.aux == 0 then r.ringGet.map (.rclaim g) else none
  | 0x12 => r.ringPut.map (.rpub g)
  | 0x13 => if r.aux == 0 then r.ringGet.map (.rwaitf g) else none
  | 0x14 => if r.aux == 0 then r.ringGet.map (.rwaite g) else none
  | 0x15 => r.ringPut.map (.rrel g)
  | 0x16 => if fld r.aux 23 2 == 0 then r.ringGet.map (fun o => .rstat g o (r.aux.extractLsb' 0 2)) else none
  | 0x18 => r.bar.bind (fun b => guardOpt (r.gd == 0 && r.scope == 0) (.bset g b r.ga r.gb))
  | 0x19 => do
    let b ← r.bar
    let s ← Scope.ofCode r.scope.toNat
    guardOpt (r.gd == 0 && r.gb == 0) (.barr g s b r.ga)
  | 0x1A => do
    let b ← r.bar
    let s ← Scope.ofCode r.scope.toNat
    guardOpt (r.gb == 0) (.bwait g s r.gd b r.ga)
  | 0x1B => do
    let b ← r.bar
    let s ← Scope.ofCode r.scope.toNat
    guardOpt (r.gb == 0) (.barw g s r.gd b r.ga)
  | 0x1C =>
    guardOpt (r.ga == 0 && r.gb == 0 && r.scope == 0 && r.vpl == 0 && fld r.aux 23 9 == 0)
      (.bstat g r.gd (r.aux.extractLsb' 0 7) (r.aux.extractLsb' 7 2))
  | 0x20 => r.atomic0.map (.aadd g)
  | 0x21 => r.atomic0.map (.aand g)
  | 0x22 => r.atomic0.map (.aor g)
  | 0x23 => r.atomic0.map (.axor g)
  | 0x24 => r.atomic0.map (.amin g)
  | 0x25 => r.atomic0.map (.amax g)
  | 0x26 => r.atomic0.map (.aminu g)
  | 0x27 => r.atomic0.map (.amaxu g)
  | 0x28 => r.atomic0.map (.axchg g)
  | 0x29 => r.atomic.map (fun o => .acas g o (r.aux.extractLsb' 0 5))
  | 0x2A => (Scope.ofCode r.scope.toNat).bind (fun s =>
      guardOpt (r.vpl == 0 && fld r.aux 23 10 == 0 && fld r.aux 7 5 == 0)
        (.acas2 g r.gd r.ga r.gb (r.aux.extractLsb' 0 5) s (AOrd.ofCode (fld r.aux 9 8))))
  | 0x2B => r.atomic0.map (.afadd g)
  | 0x30 =>
    if r.gd == 0 && r.scope == 0 && fld r.aux 23 3 == 0 then
      if fbit r.aux 2 then guardOpt (r.gb == 0 && fld r.aux 1 0 == 0) (.redx g r.ga (.vector r.vpl))
      else guardOpt (r.vpl == 0) (.redx g r.ga (.scalar r.gb (r.aux.extractLsb' 0 2)))
    else none
  | 0x31 =>
    if r.gb == 0 && r.scope == 0 && r.vpl == 0 && fld r.aux 23 12 == 0 then
      match fld r.aux 1 0 with
      | 0 => guardOpt (r.gd == 0 && !fbit r.aux 2) (.redfOpen g r.ga (r.aux.extractLsb' 3 9))
      | 1 => guardOpt (fld r.aux 11 3 == 0) (.redfRd g r.gd r.ga (fbit r.aux 2))
      | 2 => guardOpt (fld r.aux 11 3 == 0) (.redfFin g r.gd r.ga (fbit r.aux 2))
      | _ => guardOpt (fld r.aux 11 2 == 0) (.redfSt g r.gd r.ga)
    else none
  | 0x34 => (Scope.ofCode r.scope.toNat).bind (fun s =>
      guardOpt (r.gd == 0 && r.vpl == 0 && r.aux == 0) (.sems g s r.ga r.gb))
  | 0x35 => (Scope.ofCode r.scope.toNat).bind (fun s =>
      guardOpt (r.vpl == 0 && fld r.aux 23 1 == 0) (.semw g s r.gd r.ga r.gb (fbit r.aux 0)))
  | 0x38 => (Scope.ofCode r.scope.toNat).bind (fun s =>
      guardOpt (r.gd == 0 && r.ga == 0 && r.gb == 0 && r.vpl == 0 && r.aux == 0) (.fence g s))
  | 0x39 => guardOpt (r.gd == 0 && r.ga == 0 && r.gb == 0 && r.scope == 0 && r.vpl == 0 && r.aux == 0) (.mark g)
  | 0x3A => (Scope.ofCode r.scope.toNat).bind (fun s =>
      guardOpt (r.gb == 0 && r.vpl == 0 && fld r.aux 9 8 == 0 && fld r.aux 4 0 == 0)
        (.ldacq g s r.gd r.ga (r.aux.extractLsb' 10 14) (Wd.ofCode (fld r.aux 6 5)) (fbit r.aux 7)))
  | 0x3B => (Scope.ofCode r.scope.toNat).bind (fun s =>
      guardOpt (r.gb == 0 && r.vpl == 0 && fld r.aux 9 7 == 0 && fld r.aux 4 0 == 0)
        (.strel g s r.gd r.ga (r.aux.extractLsb' 10 14) (Wd.ofCode (fld r.aux 6 5))))
  | 0x40 => if r.aux == 0 then r.rg.map (.rgsplit g) else none
  | 0x41 => if r.aux == 0 then r.rg.map (.rgmerge g) else none
  | 0x42 =>
    guardOpt (r.gd == 0 && r.vpl == 0 && (r.scope == 1 || r.scope == 4) && fld r.aux 23 1 == 0)
      (.rginv g (r.scope == 4) (fbit r.aux 0) r.ga r.gb)
  | 0x43 =>
    guardOpt (r.gb == 0 && r.scope == 0 && r.vpl == 0 && fld r.aux 23 2 == 0) (.rgprobe g r.gd r.ga (r.aux.extractLsb' 0 2))
  | 0x44 => guardOpt (r.gd == 0 && r.scope == 0 && r.vpl == 0 && r.aux == 0) (.rgfill g r.ga r.gb)
  | 0x45 => if fld r.aux 23 1 == 0 then r.rg.map (fun o => .rgpin g o (fbit r.aux 0)) else none
  | 0x48 =>
    guardOpt (r.gd == 0 && r.ga == 0 && r.gb == 0 && r.scope == 0 && r.vpl == 0 && fld r.aux 23 8 == 0)
      (.bankoff g (r.aux.extractLsb' 0 8))
  | 0x49 =>
    guardOpt (r.gd == 0 && r.ga == 0 && r.scope == 0 && r.vpl == 0 && fld r.aux 23 1 == 0) (.spdrop g r.gb (fbit r.aux 0))
  | 0x4A => guardOpt (r.gd == 0 && r.ga == 0 && r.scope == 0 && r.vpl == 0 && r.aux == 0) (.spwake g r.gb)
  | 0x50 => guardOpt (r.scope == 0 && r.vpl == 0 && r.aux == 0) (.launch g r.gd r.ga r.gb)
  | 0x51 =>
    guardOpt (r.gd == 0 && r.scope == 0 && r.vpl == 0 && fld r.aux 23 16 == 0) (.node g r.ga r.gb (r.aux.extractLsb' 0 16))
  | _ => none

/-! Whole syllables. -/

/-- The class of a syllable, 0 S, 1 V, 2 M, 3 X (R13). -/
def syllClass (w : Word) : Nat := (w.extractLsb' 61 2).toNat
/-- The end bit of a syllable (R13). -/
def syllEnd (w : Word) : Bool := w.getLsbD 63

/-- A syllable's fields as an instruction, before the checks of WellFormed. -/
def rawInstr (w : Word) : Option Instr :=
  match syllClass w with
  | 0 => (SRaw.ofWord w).instr
  | 1 => (VRaw.ofWord w).instr
  | 2 => (MRaw.ofWord w).instr
  | _ => (XRaw.ofWord w).instr

/-- R18, R37, R38: the instruction, or the first decode cause that applies. -/
def decodeSyllable (w : Word) : Except DecodeError Instr :=
  match rawInstr w with
  | none => .error .opcode
  | some i => if !opcodeOk i then .error .opcode else if !operandOk i then .error .operand else .ok i

/-! Near-memory words (R30, R44, R239 to R250). -/

/-- One word with bit 15 clear, `litx` apart: its opcode, bits 14:10, and operand, bits 9:0. -/
def nmPlain (w : NmWord) : Option Instr :=
  let o : BitVec 10 := w.extractLsb' 0 10
  let z := o == 0
  /- the immediate form of R240: operand<9> set -/
  let arith (a : Instr) (ai : BitVec 9 → Instr) : Option Instr :=
    if fbit o 9 then some (ai (o.extractLsb' 0 9)) else guardOpt z a
  match fld w 15 10 with
  | 0x02 => guardOpt z .dup
  | 0x03 => guardOpt z .drop
  | 0x04 => guardOpt z .swap
  | 0x05 => guardOpt z .nmOver
  | 0x06 => arith .nmAdd .nmAddImm
  | 0x07 => arith .nmSub .nmSubImm
  | 0x08 => arith .nmAnd .nmAndImm
  | 0x09 => arith .nmShl .nmShlImm
  | 0x0A => guardOpt (fld o 8 2 == 0) (if fbit o 9 then .nmLdMem (o.extractLsb' 0 2) else .nmLdWs (o.extractLsb' 0 2))
  | 0x0B => guardOpt (fld o 8 2 == 0) (if fbit o 9 then .nmStMem (o.extractLsb' 0 2) else .nmStWs (o.extractLsb' 0 2))
  | 0x0C =>
    guardOpt (!fbit o 8) (.mvx ⟨fbit o 9, fbit o 7, fbit o 6, fbit o 5, o.extractLsb' 3 2, o.extractLsb' 0 3⟩)
  | 0x0D => guardOpt z .mvwait
  | 0x0E => guardOpt z .red
  | 0x0F => guardOpt (fld o 9 3 == 0) (.racc (o.extractLsb' 0 2) (fbit o 2))
  | 0x10 => guardOpt (fld o 9 2 == 0) (.rfin (fbit o 0) (fbit o 1))
  | 0x11 => guardOpt z .vin
  | 0x12 => guardOpt z .vout
  | 0x13 => guardOpt z .rowclaim
  | 0x14 => guardOpt z .rowrel
  | 0x15 => guardOpt (fld o 9 1 == 0) (.nmSemw (fbit o 0))
  | 0x16 => guardOpt z .nmSems
  | 0x17 => guardOpt z .nmFence
  | 0x18 => some (.nmLoop o)
  | 0x19 => guardOpt z .next
  | 0x1A => some (.nmBr o)
  | 0x1B => some (.nmJmp o)
  | 0x1C => guardOpt z .nmEnd
  | 0x1D => some (.nmTrap o)
  | 0x1E => guardOpt z .nmNop
  | _ => none

/-- The value of the words after a `litx`, lowest first (R239). -/
def nmValue : List NmWord → Nat
  | [] => 0
  | w :: ws => w.toNat + 65536 * nmValue ws

/-- R44, R45: the next word and its literal words, and what follows them; none is an illegal word, or a `litx` whose
words do not all stand there. -/
def decodeNm : List NmWord → Option (Instr × List NmWord)
  | [] => none
  | w :: ws =>
    if w.getLsbD 15 then some (.lit (w.extractLsb' 0 15), ws)
    else if fld w 15 10 == 1 then
      let n : BitVec 2 := w.extractLsb' 0 2
      if fld w 9 3 == 0 && n.toNat + 1 ≤ ws.length then
        some (.litx n (w.getLsbD 2) (BitVec.ofNat 64 (nmValue (ws.take (n.toNat + 1)))), ws.drop (n.toNat + 1))
      else none
    else
      match nmPlain w with
      | some i => if opcodeOk i then some (i, ws) else none
      | none => none

/-- Words a near-memory instruction occupies (R239). -/
def nmLength : Instr → Nat
  | .litx n _ _ => n.toNat + 2
  | _ => 1

/-- What the decoder reads from a row of the opcode table: 16 bits are a near-memory word whose literal words are 0, 64
bits a syllable. -/
def decodeTableWord (nbits w : Nat) : Option Instr :=
  if nbits == 16 then
    (decodeNm [BitVec.ofNat 16 w, BitVec.ofNat 16 (w / 2 ^ 16), BitVec.ofNat 16 (w / 2 ^ 32), BitVec.ofNat 16 (w / 2 ^ 48), 0]).map (·.1)
  else if nbits == 64 then
    match decodeSyllable (BitVec.ofNat 64 w) with
    | .ok i => some i
    | .error _ => none
  else none

/-! The encoder (R21 to R25, R30), from the same layouts. -/

def sraw (g : Guard) (opc : Nat) : SRaw :=
  { e := true, opc := BitVec.ofNat 8 opc, p := g.p, neg := g.neg, gd := 0, ga := 0, gb := 0, i := false, imm := 0 }

/-- imm32 of an I = 0 form: gc above aux. -/
def gcAux (gc : GReg) (aux : Nat) : BitVec 32 := gc ++ BitVec.ofNat 27 aux

/-- A five-bit field that names a predicate. -/
def pfield (p : PRegNo) : BitVec 5 := 0#1 ++ p

def encBin (g : Guard) (opc : Nat) (o : SBin) : SRaw :=
  match o.b with
  | .reg gb => { sraw g opc with gd := o.gd, ga := o.ga, gb := gb }
  | .imm v => { sraw g opc with gd := o.gd, ga := o.ga, i := true, imm := v }

def encUn (g : Guard) (opc : Nat) (o : SUn) : SRaw := { sraw g opc with gd := o.gd, ga := o.ga }

def encPbin (g : Guard) (opc : Nat) (o : PBin) : SRaw :=
  { sraw g opc with gd := pfield o.pd, ga := pfield o.pa, gb := pfield o.pb }

def encFbin (g : Guard) (opc : Nat) (o : FBin) (gc : GReg) : SRaw :=
  { sraw g opc with gd := o.gd, ga := o.ga, gb := o.gb, imm := gcAux gc (o.ty.code + 16 * o.rnd.code + 128 * b2n o.sat) }

/-- A jump-like form: I = 1 and a displacement. -/
def encDisp (g : Guard) (opc : Nat) (imm : BitVec 32) : SRaw := { sraw g opc with i := true, imm := imm }

/-- S class (R40). -/
def encodeS : Instr → Option SRaw
  | .add g o => some (encBin g 0x01 o)
  | .sub g o => some (encBin g 0x02 o)
  | .addi g gd ga gb imm => some { sraw g 0x03 with gd := gd, ga := ga, gb := gb, i := true, imm := imm }
  | .mul g o => some (encBin g 0x04 o)
  | .mulh g o => some (encBin g 0x05 o)
  | .mulhu g o => some (encBin g 0x06 o)
  | .div g o => some (encBin g 0x07 o)
  | .divu g o => some (encBin g 0x08 o)
  | .rem g o => some (encBin g 0x09 o)
  | .remu g o => some (encBin g 0x0A o)
  | .and g o => some (encBin g 0x10 o)
  | .or g o => some (encBin g 0x11 o)
  | .xor g o => some (encBin g 0x12 o)
  | .andn g o => some (encBin g 0x13 o)
  | .shl g o => some (encBin g 0x14 o)
  | .shr g o => some (encBin g 0x15 o)
  | .sra g o => some (encBin g 0x16 o)
  | .rot g o => some (encBin g 0x17 o)
  | .min g o => some (encBin g 0x18 o)
  | .max g o => some (encBin g 0x19 o)
  | .minu g o => some (encBin g 0x1A o)
  | .maxu g o => some (encBin g 0x1B o)
  | .abs g o => some (encUn g 0x1C o)
  | .clz g o => some (encUn g 0x1D o)
  | .ctz g o => some (encUn g 0x1E o)
  | .popc g o => some (encUn g 0x1F o)
  | .bfx g gd ga pos len s => some (match pos with
      | .reg gb => { sraw g 0x20 with gd := gd, ga := ga, gb := gb, imm := gcAux 0 (len.toNat + 128 * b2n s) }
      | .imm v => { sraw g 0x20 with gd := gd, ga := ga, i := true, imm := 0#16 ++ b1 s ++ len ++ v })
  | .bfi g gd ga base pos len => some (match pos with
      | .reg gb => { sraw g 0x21 with gd := gd, ga := ga, gb := gb, imm := gcAux base len.toNat }
      | .imm v => { sraw g 0x21 with gd := gd, ga := ga, gb := base, i := true, imm := 0#17 ++ len ++ v })
  | .fsh g gd ga gb n => some (match n with
      | .reg gc => { sraw g 0x22 with gd := gd, ga := ga, gb := gb, imm := gcAux gc 0 }
      | .imm v => { sraw g 0x22 with gd := gd, ga := ga, gb := gb, i := true, imm := 0#24 ++ v })
  | .bswap g o w => some { encUn g 0x23 o with imm := gcAux 0 w.toNat }
  | .li g gd imm => some { sraw g 0x24 with gd := gd, i := true, imm := imm }
  | .lih g gd ga imm => some { sraw g 0x25 with gd := gd, ga := ga, i := true, imm := imm }
  | .cmp g pd ga b c => some (match b with
      | .reg gb => { sraw g 0x26 with gd := pfield pd, ga := ga, gb := gb, imm := gcAux 0 c.code }
      | .imm v => { sraw g 0x26 with gd := pfield pd, ga := ga, gb := BitVec.ofNat 5 c.code, i := true, imm := v })
  | .sel g o pc neg => some (match o.b with
      | .reg gb => { sraw g 0x27 with gd := o.gd, ga := o.ga, gb := gb, imm := gcAux 0 (pc.toNat + 16 * b2n neg) }
      | .imm v => { sraw g 0x27 with gd := o.gd, ga := o.ga, gb := b1 neg ++ pc, i := true, imm := v })
  | .movpToScalar g gd pa k => some { sraw g 0x28 with gd := gd, ga := pfield pa, i := true, imm := 0#28 ++ k }
  | .movpToPredicate g pd ga k =>
    some { sraw g 0x28 with gd := pfield pd, ga := ga, i := true, imm := 0#27 ++ 1#1 ++ k }
  | .lea g gd ga gb sh disp => some { sraw g 0x29 with gd := gd, ga := ga, gb := gb, imm := 0#5 ++ disp ++ sh }
  | .winq g o => some (encBin g 0x2A o)
  | .br g pa neg all d => some { encDisp g 0x30 d with ga := b1 neg ++ pa, gb := 0#4 ++ b1 all }
  | .jmp g d => some (encDisp g 0x31 d)
  | .call g gd d => some { encDisp g 0x32 d with gd := gd }
  | .ret g ga => some { sraw g 0x33 with ga := ga }
  | .jr g gd ga d => some { encDisp g 0x34 d with gd := gd, ga := ga }
  | .loop g gd s d => some { encDisp g 0x35 d with gd := gd, gb := 0#2 ++ s }
  | .brq g q c d => some { encDisp g 0x36 d with ga := 0#2 ++ q, gb := 0#4 ++ b1 c }
  | .halt g => some (sraw g 0x37)
  | .nop g => some (sraw g 0x38)
  | .wfe g gd ga mask => some { encDisp g 0x39 (0#16 ++ mask) with gd := gd, ga := ga }
  | .pand g o => some (encPbin g 0x40 o)
  | .por g o => some (encPbin g 0x41 o)
  | .pxor g o => some (encPbin g 0x42 o)
  | .pnot g pd pa => some { sraw g 0x43 with gd := pfield pd, ga := pfield pa }
  | .psetPredicate g pd n => some (match n with
      | .reg ga => { sraw g 0x44 with gd := pfield pd, ga := ga }
      | .imm v => { sraw g 0x44 with gd := pfield pd, i := true, imm := v })
  | .pcnt g gd pa => some { sraw g 0x45 with gd := gd, ga := pfield pa }
  | .pany g gd pa => some { sraw g 0x46 with gd := gd, ga := pfield pa }
  | .shset g sh f v => some (match v with
      | .reg ga => { sraw g 0x48 with gd := 0#3 ++ sh, ga := ga, imm := gcAux 0 f.toNat }
      | .imm v => { sraw g 0x48 with gd := 0#3 ++ sh, gb := f, i := true, imm := v })
  | .shget g gd sh f sd => some { sraw g 0x49 with gd := gd, ga := 0#3 ++ sh, imm := gcAux 0 (f.toNat + 32 * b2n sd) }
  | .ld g o w s => some (match o.b with
      | .reg gb => { sraw g 0x50 with gd := o.gd, ga := o.ga, gb := gb, imm := gcAux 0 (w.code + 4 * b2n s) }
      | .imm v => { sraw g 0x50 with gd := o.gd, ga := o.ga, gb := BitVec.ofNat 5 (w.code + 4 * b2n s), i := true, imm := v })
  | .st g o w => some (match o.b with
      | .reg gb => { sraw g 0x51 with gd := o.gd, ga := o.ga, gb := gb, imm := gcAux 0 w.code }
      | .imm v => { sraw g 0x51 with gd := o.gd, ga := o.ga, gb := BitVec.ofNat 5 w.code, i := true, imm := v })
  | .fadd g o => some (encFbin g 0x58 o 0)
  | .fsub g o => some (encFbin g 0x59 o 0)
  | .fmul g o => some (encFbin g 0x5A o 0)
  | .ffma g o gc => some (encFbin g 0x5B o gc)
  | .fcvt g gd ga d s rnd sat =>
    some { sraw g 0x5C with gd := gd, ga := ga, imm := gcAux 0 (s.code + 16 * rnd.code + 128 * b2n sat + 256 * d.code) }
  | .fcmp g pd ga gb ty c =>
    some { sraw g 0x5D with gd := pfield pd, ga := ga, gb := gb, imm := gcAux 0 (ty.code + 16 * c.code) }
  | .sysr g gd n => some { sraw g 0x60 with gd := gd, imm := gcAux 0 n.toNat }
  | .sysw g n ga => some { sraw g 0x61 with ga := ga, imm := gcAux 0 n.toNat }
  | .trap g c => some (encDisp g 0x62 c)
  | .eret g => some (sraw g 0x63)
  | .brk g t => some (encDisp g 0x64 t)
  | _ => none

def vraw (g : Guard) (opc : Nat) : VRaw :=
  { e := true, opc := BitVec.ofNat 8 opc, p := g.p, neg := g.neg, ty := 0, vd := 0, va := 0, vb := 0, vc := 0,
    lua := false, lub := false, luc := false, rnd := 0, sat := false, aux := 0 }

/-- The type field. -/
def tyField (t : Ty) : BitVec 4 := BitVec.ofNat 4 t.code
/-- The rounding field. -/
def rndField (r : Rnd) : BitVec 3 := BitVec.ofNat 3 r.code

def encVBin (g : Guard) (opc : Nat) (o : VBin) : VRaw :=
  { vraw g opc with
        ty := tyField o.ty, rnd := rndField o.rnd, sat := o.sat, vd := o.vd, va := o.va.o, lua := o.va.lu,
        vb := o.vb.o, lub := o.vb.lu }

def encVTer (g : Guard) (opc : Nat) (o : VTer) : VRaw :=
  { vraw g opc with
        ty := tyField o.ty, rnd := rndField o.rnd, sat := o.sat, vd := o.vd, va := o.va.o, lua := o.va.lu,
        vb := o.vb.o, lub := o.vb.lu, vc := o.vc.o, luc := o.vc.lu }

def encVUn (g : Guard) (opc : Nat) (o : VUn) : VRaw :=
  { vraw g opc with ty := tyField o.ty, rnd := rndField o.rnd, sat := o.sat, vd := o.vd, va := o.va.o, lua := o.va.lu }

def encVLog (g : Guard) (opc : Nat) (o : VLog) : VRaw :=
  { vraw g opc with vd := o.vd, va := o.va.o, lua := o.va.lu, vb := o.vb.o, lub := o.vb.lu }

/-- An untyped one-source form. -/
def encV1 (g : Guard) (opc : Nat) (vd : Opnd) (va : VSrc) : VRaw := { vraw g opc with vd := vd, va := va.o, lua := va.lu }

def encVShift (g : Guard) (opc : Nat) (o : VShift) : VRaw :=
  match o.n with
  | .vec v => { encV1 g opc o.vd o.va with ty := tyField o.ty, vb := v.o, lub := v.lu }
  | .imm n => { encV1 g opc o.vd o.va with ty := tyField o.ty, aux := 1#1 ++ 0#4 ++ n }

def encVMove (g : Guard) (opc : Nat) (o : VMove) : VRaw := { encV1 g opc o.vd o.va with aux := 0#7 ++ o.n }

def encVRed (g : Guard) (opc : Nat) (o : VRed) : VRaw :=
  { encV1 g opc o.vd o.va with ty := tyField o.ty, rnd := rndField o.rnd, sat := o.sat, aux := BitVec.ofNat 13 o.op.code }

/-- V class (R41). -/
def encodeV : Instr → Option VRaw
  | .vadd g o => some (encVBin g 0x01 o)
  | .vsub g o => some (encVBin g 0x02 o)
  | .vmul g o => some (encVBin g 0x03 o)
  | .vfma g o => some (encVTer g 0x04 o)
  | .vfms g o => some (encVTer g 0x05 o)
  | .vmin g o => some (encVBin g 0x06 o)
  | .vmax g o => some (encVBin g 0x07 o)
  | .vabs g o => some (encVUn g 0x08 o)
  | .vneg g o => some (encVUn g 0x09 o)
  | .vclamp g o => some (encVTer g 0x0A o)
  | .vand g o => some (encVLog g 0x10 o)
  | .vor g o => some (encVLog g 0x11 o)
  | .vxor g o => some (encVLog g 0x12 o)
  | .vnot g vd va => some (encV1 g 0x13 vd va)
  | .vshl g o => some (encVShift g 0x14 o)
  | .vshr g o => some (encVShift g 0x15 o)
  | .vsra g o => some (encVShift g 0x16 o)
  | .vrot g o => some (encVShift g 0x17 o)
  | .vpopc g o => some (encVUn g 0x18 o)
  | .vclz g o => some (encVUn g 0x19 o)
  | .vbfx g ty vd va pos s len => some (match pos with
      | .vec v => { encV1 g 0x1A vd va with ty := tyField ty, vb := v.o, lub := v.lu, aux := 0#5 ++ 0#1 ++ b1 s ++ len }
      | .imm n => { encV1 g 0x1A vd va with ty := tyField ty, aux := n.extractLsb' 0 5 ++ 1#1 ++ b1 s ++ len })
  | .vfsh g ty vd va vb n => some (match n with
      | .vec v => { encV1 g 0x1B vd va with ty := tyField ty, vb := vb.o, lub := vb.lu, vc := v.o, luc := v.lu }
      | .imm k => { encV1 g 0x1B vd va with ty := tyField ty, vb := vb.o, lub := vb.lu, aux := 1#1 ++ 0#4 ++ k })
  | .vcmp g ty c pd va vb =>
    some { encV1 g 0x20 (0#2 ++ pd) va with ty := tyField ty, vb := vb.o, lub := vb.lu, aux := BitVec.ofNat 13 c.code }
  | .vsel g o pc neg => some { encVLog g 0x21 o with vc := 0#1 ++ b1 neg ++ pc }
  | .vmov g vd va => some (encV1 g 0x22 vd va)
  | .vli g vd imm =>
    some { vraw g 0x23 with
        vd := vd, va := imm.extractLsb' 26 6, vb := imm.extractLsb' 20 6, vc := imm.extractLsb' 14 6,
        lua := imm.getLsbD 13, aux := imm.extractLsb' 0 13 }
  | .vbcs g ty vd ga => some { vraw g 0x24 with ty := tyField ty, vd := vd, va := 0#1 ++ ga }
  | .vmovpToVector g vd pa => some { vraw g 0x25 with vd := vd, va := 0#2 ++ pa }
  | .vmovpToPredicate g pd va => some { encV1 g 0x25 (0#2 ++ pd) va with aux := 1 }
  | .vptest g pd va => some (encV1 g 0x26 (0#2 ++ pd) va)
  | .vpclr g vd va => some (encV1 g 0x27 vd va)
  | .vcvt g o d p => some { encVUn g 0x30 o with aux := 0#5 ++ p ++ tyField d }
  | .vpack g ty sat o p => some { encVLog g 0x31 o with ty := tyField ty, sat := sat, aux := 0#11 ++ p }
  | .vunpk g ty vd va j => some { encV1 g 0x32 vd va with ty := tyField ty, aux := 0#10 ++ j }
  | .vquant g fmt scale rnd vd va p =>
    some { encV1 g 0x33 vd va with rnd := rndField rnd, aux := 0#6 ++ p ++ 0#1 ++ b1 scale ++ BitVec.ofNat 2 fmt.code }
  | .vdeq g fmt rnd sat o p =>
    some { encVLog g 0x34 o with rnd := rndField rnd, sat := sat, aux := 0#6 ++ p ++ 0#2 ++ BitVec.ofNat 2 fmt.code }
  | .vrcp g o => some (encVUn g 0x40 o)
  | .vrsq g o => some (encVUn g 0x41 o)
  | .vsqrt g o => some (encVUn g 0x42 o)
  | .vexp2 g o => some (encVUn g 0x43 o)
  | .vlog2 g o => some (encVUn g 0x44 o)
  | .vtanh g o => some (encVUn g 0x45 o)
  | .vrotr g o => some (encVMove g 0x50 o)
  | .vrotc g o => some (encVMove g 0x51 o)
  | .vbcr g o => some (encVMove g 0x52 o)
  | .vbcc g o => some (encVMove g 0x53 o)
  | .vredr g o => some (encVRed g 0x54 o)
  | .vredc g o => some (encVRed g 0x55 o)
  | .vscanr g o => some (encVRed g 0x56 o)
  | .vtrn g vd va => some (encV1 g 0x57 vd va)
  | .vgath g vd va gb sh => some { encV1 g 0x60 vd va with vb := 0#1 ++ gb, aux := 0#11 ++ sh }
  | .vscat g va vb gc sh => some { encV1 g 0x61 0 va with vb := vb.o, lub := vb.lu, vc := 0#1 ++ gc, aux := 0#11 ++ sh }
  | .vlut g ty vd va gb => some { encV1 g 0x62 vd va with ty := tyField ty, vb := 0#1 ++ gb }
  | _ => none

def mraw (h : MHead) (opc : Nat) : MRaw :=
  { e := true, opc := BitVec.ofNat 6 opc, p := h.g.p, neg := h.g.neg, tkw := h.tkw, tks := h.tks, swap := h.swap,
    sh := h.sh, opa := 0, opb := 0, acc := 0, fmt := 0, mode := 0, aux := 0 }

/-- M class (R42). -/
def encodeM : Instr → Option MRaw
  | .mma h f z acc a b =>
    some { mraw h 0x01 with acc := acc, opa := a, opb := b, fmt := BitVec.ofNat 4 f.code, mode := b1 z ++ 0#3 }
  | .mmai h i4 sa sb sat z acc a b =>
    some { mraw h 0x02 with acc := acc, opa := a, opb := b, fmt := 0#3 ++ b1 i4, mode := b1 z ++ b1 sat ++ b1 sa ++ b1 sb }
  | .mmax h f z acc a b sa sb =>
    some { mraw h 0x03 with
        acc := acc, opa := a, opb := b, fmt := BitVec.ofNat 4 f.code, mode := b1 z ++ 0#3,
        aux := 0#5 ++ sb ++ sa }
  | .mmaa h f rsr sat z acc a b =>
    some { mraw h 0x04 with
        acc := acc, opa := a, opb := b, fmt := BitVec.ofNat 4 f.code,
        mode := b1 z ++ 0#1 ++ b1 sat ++ b1 rsr }
  | .mzero h acc c => some { mraw h 0x05 with acc := acc, aux := 0#11 ++ c }
  | .mload h acc a all p => some { mraw h 0x06 with acc := acc, opa := a, aux := 0#12 ++ b1 all ++ p }
  | .mdrain h f rnd sat clr a acc b p =>
    some { mraw h 0x07 with
        acc := acc, opa := a, opb := b, fmt := BitVec.ofNat 4 f.code, mode := b1 sat ++ rndField rnd,
        aux := 0#12 ++ b1 clr ++ p }
  | .lease h n => some { mraw h 0x08 with aux := 0#8 ++ n }
  | .unlease h => some (mraw h 0x09)
  | .twait h e => some { mraw h 0x10 with aux := 0#11 ++ e }
  | .tsig h e => some { mraw h 0x11 with aux := 0#11 ++ e }
  | .copy h a b len exp lu k gc =>
    some { mraw h 0x18 with
        opa := 0#1 ++ a, opb := 0#1 ++ b, mode := BitVec.ofNat 2 k.code ++ b1 lu ++ b1 exp,
        aux := gc ++ 0#5 ++ len }
  | .copyt h cnt crc d s lu chk schk k gc =>
    some { mraw h 0x19 with
        opa := 0#1 ++ cnt, opb := 0#1 ++ crc, acc := 0#3 ++ b1 lu,
        mode := BitVec.ofNat 2 k.code ++ b1 schk ++ b1 chk, aux := gc ++ s ++ d }
  | .nlaunch h a b param arg => some { mraw h 0x1C with opa := 0#1 ++ a, opb := 0#1 ++ b, aux := 0#9 ++ b1 arg ++ param }
  | .pstart h q => some { mraw h 0x20 with opa := q }
  | .pstop h q => some { mraw h 0x21 with opa := q }
  | .psave h q b => some { mraw h 0x22 with opa := q, opb := 0#1 ++ b }
  | .pload h q b => some { mraw h 0x23 with opa := q, opb := 0#1 ++ b }
  | .qflush h e gd => some { mraw h 0x28 with opa := 0#1 ++ gd, aux := 0#11 ++ e }
  | .clkdiv h u d => some { mraw h 0x30 with aux := 0#8 ++ d ++ BitVec.ofNat 2 u.code }
  | .wake h u => some (match u with
      | .array => mraw h 0x31
      | .vbank k => { mraw h 0x31 with aux := 0#10 ++ k ++ 1#2 }
      | .spbank k => { mraw h 0x31 with aux := 0#5 ++ k ++ 0#3 ++ 2#2 })
  | _ => none

def xraw (g : Guard) (opc : Nat) : XRaw :=
  { e := true, opc := BitVec.ofNat 8 opc, p := g.p, neg := g.neg, gd := 0, ga := 0, gb := 0, scope := 0, vpl := 0, aux := 0 }

/-- The scope field. -/
def scopeField (s : Scope) : BitVec 3 := BitVec.ofNat 3 s.code

/-- `lset` and X `pset` (R159). -/
def encLsrc (r : XRaw) (f : BitVec 5) : LSrc → XRaw
  | .reg ga => { r with ga := ga, aux := 0#19 ++ f }
  | .imm v => { r with aux := 1#1 ++ v ++ f }

/-- Atomics (R193). -/
def encAtomic (g : Guard) (opc : Nat) (o : AForm) (gc : GReg) : XRaw :=
  { xraw g opc with
        gd := o.gd, ga := o.ga, gb := o.gb, scope := scopeField o.scope,
        aux := 0#14 ++ BitVec.ofNat 2 o.ord.code ++ 0#1 ++ 1#1 ++ b1 o.d ++ gc }

def encRingGet (g : Guard) (opc : Nat) (o : RingGet) : XRaw := { xraw g opc with gd := o.gd, vpl := 0#1 ++ o.ring }
def encRingPut (g : Guard) (opc : Nat) (o : RingPut) : XRaw := { xraw g opc with ga := o.ga, vpl := 0#1 ++ o.ring }
def encRg (g : Guard) (opc : Nat) (o : RgForm) : XRaw := { xraw g opc with gd := o.gd, ga := o.ga, gb := o.gb }

/-- X class (R43). -/
def encodeX : Instr → Option XRaw
  | .vld g vd k ga lu => some { xraw g 0x01 with vpl := vd, ga := ga, aux := 0#1 ++ b1 lu ++ 0#17 ++ k }
  | .vst g va k ga spl => some { xraw g 0x02 with vpl := va.o, ga := ga, aux := b1 va.lu ++ b1 spl ++ 0#17 ++ k }
  | .lset g k f v => some (encLsrc { xraw g 0x08 with vpl := 0#1 ++ k } f v)
  | .lget g gd k f => some { xraw g 0x09 with gd := gd, vpl := 0#1 ++ k, aux := 0#19 ++ f }
  | .psetPattern g q f v => some (encLsrc { xraw g 0x0A with vpl := q } f v)
  | .qstat g gd q w => some { xraw g 0x0B with gd := gd, vpl := q, aux := 0#22 ++ w }
  | .qrew g q ga gb => some { xraw g 0x0C with vpl := q, ga := ga, gb := gb }
  | .rinit g k ga gb sb => some { xraw g 0x10 with vpl := 0#1 ++ k, ga := ga, gb := gb, aux := 0#12 ++ sb }
  | .rclaim g o => some (encRingGet g 0x11 o)
  | .rpub g o => some (encRingPut g 0x12 o)
  | .rwaitf g o => some (encRingGet g 0x13 o)
  | .rwaite g o => some (encRingGet g 0x14 o)
  | .rrel g o => some (encRingPut g 0x15 o)
  | .rstat g o w => some { encRingGet g 0x16 o with aux := 0#22 ++ w }
  | .bset g b ga gb => some { xraw g 0x18 with ga := ga, gb := gb, aux := 0#17 ++ b }
  | .barr g s b ga => some { xraw g 0x19 with ga := ga, scope := scopeField s, aux := 0#17 ++ b }
  | .bwait g s gd b ga => some { xraw g 0x1A with gd := gd, ga := ga, scope := scopeField s, aux := 0#17 ++ b }
  | .barw g s gd b ga => some { xraw g 0x1B with gd := gd, ga := ga, scope := scopeField s, aux := 0#17 ++ b }
  | .bstat g gd b w => some { xraw g 0x1C with gd := gd, aux := 0#15 ++ w ++ b }
  | .aadd g o => some (encAtomic g 0x20 o 0)
  | .aand g o => some (encAtomic g 0x21 o 0)
  | .aor g o => some (encAtomic g 0x22 o 0)
  | .axor g o => some (encAtomic g 0x23 o 0)
  | .amin g o => some (encAtomic g 0x24 o 0)
  | .amax g o => some (encAtomic g 0x25 o 0)
  | .aminu g o => some (encAtomic g 0x26 o 0)
  | .amaxu g o => some (encAtomic g 0x27 o 0)
  | .axchg g o => some (encAtomic g 0x28 o 0)
  | .acas g o gc => some (encAtomic g 0x29 o gc)
  | .acas2 g gd ga gb gc s ord =>
    some { xraw g 0x2A with
        gd := gd, ga := ga, gb := gb, scope := scopeField s,
        aux := 0#14 ++ BitVec.ofNat 2 ord.code ++ 0#3 ++ gc }
  | .afadd g o => some (encAtomic g 0x2B o 0)
  | .redx g ga c => some (match c with
      | .scalar gb t => { xraw g 0x30 with ga := ga, gb := gb, aux := 0#22 ++ t }
      | .vector va => { xraw g 0x30 with ga := ga, vpl := va, aux := 4 })
  | .redfOpen g ga a => some { xraw g 0x31 with ga := ga, aux := 0#12 ++ a ++ 0#3 }
  | .redfRd g gd ga bf => some { xraw g 0x31 with gd := gd, ga := ga, aux := 0#21 ++ b1 bf ++ 1#2 }
  | .redfFin g gd ga bf => some { xraw g 0x31 with gd := gd, ga := ga, aux := 0#21 ++ b1 bf ++ 2#2 }
  | .redfSt g gd ga => some { xraw g 0x31 with gd := gd, ga := ga, aux := 3 }
  | .sems g s ga gb => some { xraw g 0x34 with ga := ga, gb := gb, scope := scopeField s }
  | .semw g s gd ga gb eq => some { xraw g 0x35 with gd := gd, ga := ga, gb := gb, scope := scopeField s, aux := 0#23 ++ b1 eq }
  | .fence g s => some { xraw g 0x38 with scope := scopeField s }
  | .mark g => some (xraw g 0x39)
  | .ldacq g s gd ga off w sx =>
    some { xraw g 0x3A with
        gd := gd, ga := ga, scope := scopeField s,
        aux := off ++ 0#2 ++ b1 sx ++ BitVec.ofNat 2 w.code ++ 0#5 }
  | .strel g s gd ga off w =>
    some { xraw g 0x3B with gd := gd, ga := ga, scope := scopeField s, aux := off ++ 0#3 ++ BitVec.ofNat 2 w.code ++ 0#5 }
  | .rgsplit g o => some (encRg g 0x40 o)
  | .rgmerge g o => some (encRg g 0x41 o)
  | .rginv g dv all ga gb =>
    some { xraw g 0x42 with ga := ga, gb := gb, scope := if dv then 4 else 1, aux := 0#23 ++ b1 all }
  | .rgprobe g gd ga w => some { xraw g 0x43 with gd := gd, ga := ga, aux := 0#22 ++ w }
  | .rgfill g ga gb => some { xraw g 0x44 with ga := ga, gb := gb }
  | .rgpin g o un => some { encRg g 0x45 o with aux := 0#23 ++ b1 un }
  | .bankoff g m => some { xraw g 0x48 with aux := 0#16 ++ m }
  | .spdrop g gb off => some { xraw g 0x49 with gb := gb, aux := 0#23 ++ b1 off }
  | .spwake g gb => some { xraw g 0x4A with gb := gb }
  | .launch g gd ga gb => some { xraw g 0x50 with gd := gd, ga := ga, gb := gb }
  | .node g ga gb t => some { xraw g 0x51 with ga := ga, gb := gb, aux := 0#8 ++ t }
  | _ => none

/-- The 64-bit syllable of a strand instruction, with its end bit (R13). -/
def encodeSyllable (e : Bool) (i : Instr) : Option Word :=
  match encodeS i with
  | some r => some { r with e := e }.toWord
  | none =>
    match encodeV i with
    | some r => some { r with e := e }.toWord
    | none =>
      match encodeM i with
      | some r => some { r with e := e }.toWord
      | none => (encodeX i).map (fun r => { r with e := e }.toWord)

/-- A word of opcode o and operand. -/
def nmw (o : Nat) (x : BitVec 10) : NmWord := 0#1 ++ BitVec.ofNat 5 o ++ x

/-- The 16-bit words of a near-memory instruction, first word first (R30, R239 to R250). -/
def encodeNm : Instr → List NmWord
  | .lit v => [1#1 ++ v]
  | .litx n x v =>
    nmw 0x01 (0#7 ++ b1 x ++ n) ::
      [v.extractLsb' 0 16, v.extractLsb' 16 16, v.extractLsb' 32 16, v.extractLsb' 48 16].take (n.toNat + 1)
  | .dup => [nmw 0x02 0]
  | .drop => [nmw 0x03 0]
  | .swap => [nmw 0x04 0]
  | .nmOver => [nmw 0x05 0]
  | .nmAdd => [nmw 0x06 0]
  | .nmAddImm v => [nmw 0x06 (1#1 ++ v)]
  | .nmSub => [nmw 0x07 0]
  | .nmSubImm v => [nmw 0x07 (1#1 ++ v)]
  | .nmAnd => [nmw 0x08 0]
  | .nmAndImm v => [nmw 0x08 (1#1 ++ v)]
  | .nmShl => [nmw 0x09 0]
  | .nmShlImm v => [nmw 0x09 (1#1 ++ v)]
  | .nmLdWs s => [nmw 0x0A (0#8 ++ s)]
  | .nmLdMem s => [nmw 0x0A (1#1 ++ 0#7 ++ s)]
  | .nmStWs s => [nmw 0x0B (0#8 ++ s)]
  | .nmStMem s => [nmw 0x0B (1#1 ++ 0#7 ++ s)]
  | .mvx o => [nmw 0x0C (b1 o.sat ++ 0#1 ++ b1 o.vi8 ++ b1 o.acc ++ b1 o.exp ++ o.b ++ o.wf)]
  | .mvwait => [nmw 0x0D 0]
  | .red => [nmw 0x0E 0]
  | .racc t one => [nmw 0x0F (0#7 ++ b1 one ++ t)]
  | .rfin bf keep => [nmw 0x10 (0#8 ++ b1 keep ++ b1 bf)]
  | .vin => [nmw 0x11 0]
  | .vout => [nmw 0x12 0]
  | .rowclaim => [nmw 0x13 0]
  | .rowrel => [nmw 0x14 0]
  | .nmSemw eq => [nmw 0x15 (0#9 ++ b1 eq)]
  | .nmSems => [nmw 0x16 0]
  | .nmFence => [nmw 0x17 0]
  | .nmLoop d => [nmw 0x18 d]
  | .next => [nmw 0x19 0]
  | .nmBr d => [nmw 0x1A d]
  | .nmJmp d => [nmw 0x1B d]
  | .nmEnd => [nmw 0x1C 0]
  | .nmTrap c => [nmw 0x1D c]
  | .nmNop => [nmw 0x1E 0]
  | _ => []

/-- The little-endian bytes of a number, n of them (R10). -/
def leBytes : Nat → Nat → List Byte
  | 0, _ => []
  | n + 1, x => BitVec.ofNat 8 x :: leBytes n (x / 256)

/-- The bytes of an instruction from its address upward: a bundle of one syllable, or near-memory words; none for an
event, which has no encoding. -/
def encode (i : Instr) : List Byte :=
  match encodeSyllable true i with
  | some w => leBytes 8 w.toNat
  | none => (encodeNm i).flatMap (fun w => leBytes 2 w.toNat)

end Sys2Proof
end

