-- ==== Sys2Proof/Config.lean ====
section
/-! DEFINITION. What one implementation of the OSK-4512 fixes, and the free values: constants without a body, so that
nothing can be proved of them but their type. Each is named in notes/assumptions. -/

namespace Sys2Proof

/-- One move of the part: one strand cycle of a strand, one word of a near-memory unit, or one of the part's own
events. -/
inductive Move where
  | strand (n : Nat)
  | nmu (u : Nat)
  | event (i : Instr)
  deriving DecidableEq, Repr, Inhabited

/-- The access tables of one master in decoded form (R479). -/
structure MasterRow where
  regR : BitVec 64
  regW : BitVec 64
  /-- per cluster SRAM: bit 0 read, bit 1 write -/
  sram : List (Nat × BitVec 2)
  /-- per core whose scratchpad is the target: bit 0 read, bit 1 write -/
  sp : List (Nat × BitVec 2)
  /-- per NMU: bit 0 read, bit 1 write, bit 2 launch -/
  nmu : List (Nat × BitVec 3)
  /-- read grant of the management space -/
  mgR : Bool
  /-- host window spans: base, length, read, write (at most 8) -/
  host : List (Nat × Nat × Bool × Bool)
  deriving DecidableEq, Repr, Inhabited

/-- FREE VALUE. The move made when the plan of moves is empty: the order in which strands, units and events act is the
part's (log entry 1). -/
opaque Config.freeMove : Nat → Move

/-- FREE VALUE. The byte form of the access tables is not given by R479: what a set of written management words grants
(log entry 2). -/
opaque Config.aclDecode : List (Nat × Word) → List (Nat × MasterRow)

/-- FREE VALUE. What a line of three or more wrong symbols is read as: detected as uncorrectable (none) or miscorrected
to the given 64 bytes; a fixed function of the 36 symbols as read (R427, log entry 3). -/
opaque Config.eccMany : List (BitVec 16) → Option (BitVec 512)

/-- FREE VALUE. Check symbol 0 to 2 of the 33 data and tag symbols of a line: R427 names the kind of code and not its generator (log
entry 3). -/
opaque Config.eccCheck : Nat → List (BitVec 16) → BitVec 16

/-- FREE VALUE. Which of the two neighbouring values a special function returns where R126 bounds its error and does not
fix its result: true for the upper one (log entry 4). -/
opaque Config.upper : Nat → Word → Bool

/-- FREE VALUE. The result of `vexp2`, `vlog2`, `vtanh` where R126 bounds the error and fixes no result: the last-place
offset from a reference, by function, type code and operand (log entry 4). -/
opaque Config.special : Nat → Nat → Word → Word

/-- FREE VALUE. Fused identity of the part: `mg.ident` stepping and serial (R470, log entry 5). -/
opaque Config.ident : BitVec 48

/-- FREE VALUE. Whether the monitor verifies an image staged at an address of device memory: whether it is a monitor image, and its
security version (R480, log entry 6). -/
opaque Config.imageVersion : Nat → List Host.Cell → Option (Bool × Nat)

/-- FREE VALUE. The bytes of an SPDM response, by request number and count of requests served (R481, log entry 7). -/
opaque Config.spdm : Nat → Nat → List Byte

/-- FREE VALUE. A byte the spec leaves open, by a running count (the data a lost load of a failed link delivers, R474;
result spans after a stopped product, R247). -/
opaque Config.freeByte : Nat → Byte

/-- FREE VALUE. A generator state that R64 does not give: of a stream installed by `pload`, by a running number, and of a stream
rewound to before its start, by its generator copy and the distance. -/
opaque Config.freeSeed : Nat → Nat → BitVec 32

end Sys2Proof
end

