-- ==== Sys2Proof/Machine/State.lean ====
section
/-! DEFINITION. The state of the OSK-4512 as plain data: 288 strands with their registers, ports, engine queues and
results in flight; 144 cores with rings, barriers, scratchpad banks, array, instruction-store rows and range table; 128
near-memory units; and the device: memories, requests on their way, dispatcher, fill engines, compactors, walks,
shootdowns, arbiters, budgets, management space, links, power, trust. Fields that are the model's own (the plan of moves,
running numbers) say so. -/

namespace Sys2Proof.Machine

/-- Memory: (address, byte) pairs with addresses strictly rising and no entry 0, which is what an unlisted address reads
as (log entry 8). -/
abbrev Mem := List Host.Cell
/-- A table keyed by number; an absent key stands for the item's reset value. -/
abbrev Tbl (α : Type) := List (Nat × α)

/-- A scalar register with its poison bit (R69). -/
structure SReg where
  val : Word
  poison : Bool
  deriving DecidableEq, Repr, Inhabited

/-- A predicate register with its one poison bit (R69). -/
structure PReg where
  val : Mask
  poison : Bool
  deriving DecidableEq, Repr, Inhabited

/-- A vector register or a port's block: 1,024 lanes and their poison bits (R69, R105). -/
structure Block where
  bits : Lanes
  poison : Mask
  deriving DecidableEq, Repr, Inhabited

/-- An accumulator tile; written is the live state a save follows (R69, R135, R360). -/
structure Tile where
  bits : TileBits
  poison : BitVec 4096
  written : Bool
  deriving DecidableEq, Repr, Inhabited

/-- A shape register (R139). -/
structure Shape where
  m : BitVec 7
  n : BitVec 7
  k : BitVec 24
  ta : Bool
  tb : Bool
  deriving DecidableEq, Repr, Inhabited

/-- A layout entry (R158). -/
structure Layout where
  base : Word
  fmt : BitVec 5
  rstr : BitVec 40
  lst : Vector (BitVec 40) 5
  bperm : BitVec 5
  xf : BitVec 2
  dfmt : BitVec 5
  rnd : BitVec 3
  sat : Bool
  deriving DecidableEq, Repr, Inhabited

/-- A pending or captured pattern program (R163). -/
structure Prog where
  lay : BitVec 5
  nlev : BitVec 3
  cnt : Vector (BitVec 21) 5
  sta : Vector (BitVec 20) 5
  eot : Bool
  deriving DecidableEq, Repr, Inhabited

/-- A block of a port: its scale plane with the scales that are poisoned, whether its format is MX (R161, R342), whether it is for an `mmax`
or a `copyt` only (R162), the position it was fetched at, and whether that is a position of the port's present stream (R166, R167). -/
structure PBlock where
  blk : Block
  scales : BitVec 2048
  spoison : BitVec 256
  mx : Bool
  mxOnly : Bool
  pos : Word × Word
  mine : Bool
  deriving DecidableEq, Repr, Inhabited

/-- The fault a pattern engine holds until a pop or claim reaches the missing block (R168); told: a `qstat`, `qrew` or `psave` of
an outbound port has raised it. -/
structure PFault where
  cause : BitVec 7
  tva : Word
  eoff : BitVec 13
  told : Bool
  deriving DecidableEq, Repr, Inhabited

/-- A stream port and its pattern engine (R163 to R172, R342 to R347). -/
structure Port where
  /-- a stream is captured (pos0 valid) -/
  captured : Bool
  lay : Layout
  prog : Prog
  /-- linear position of the next block to fetch (inbound) or to write (outbound) -/
  nextNo : Nat
  /-- blocks buffered, oldest first -/
  buf : List PBlock
  /-- outbound: linear position after the pushes accepted so far, those still in flight included -/
  accepted : Nat
  /-- a `pstop` ended the stream -/
  stopped : Bool
  fault : Option PFault
  /-- the running `pstart`'s issue number -/
  cmd : Option Nat
  /-- claims in order: issue number of the command, blocks it has yet to take -/
  claims : List (Nat × Nat)
  /-- the position a pending `qrew` goes to -/
  rew : Option (Word × Word)
  /-- commands that stood stopped at a restart point when the pending `qrew` issued: their claims go on with the rewound stream (R378) -/
  resume : List Nat
  /-- outbound: the writes of the oldest pushed block are on their way -/
  sent : Bool
  /-- the stream's generator copy, as it stands at the stream's start (R64) -/
  seed : BitVec 32
  /-- accesses of the strand with a lower number come before the stream's (R176) -/
  fork : Nat
  /-- addresses whose translations the stream holds, each with the running number at its access (R391) -/
  uses : List (Word × Nat)
  deriving DecidableEq, Repr, Inhabited

/-- Where a result lands: physical registers, a port, or nowhere (flags only). -/
inductive Dst where
  | g (i : Nat) | p (i : Nat) | v (i : Nat) | q (i : Nat) | gpair (i : Nat)
  deriving DecidableEq, Repr, Inhabited

/-- A value on its way to a register; a predicate carries the bits it writes and whether the register's poison stays, a vector
value the lanes it writes. -/
inductive FVal where
  | s (r : SReg)
  | p (r : PReg) (bits : Mask) (keep : Bool)
  | v (b : Block) (lanes : Mask)
  deriving DecidableEq, Repr, Inhabited

/-- How the bytes a load gathers become its value. -/
inductive LandForm where
  /-- the value stands already -/
  | ready
  /-- `ld`, `ldacq`, atomics of 4 and 8 bytes, `redf`: width in bytes, sign extension -/
  | scalar (w : Nat) (sx : Bool)
  /-- `acas2`: 16 bytes to a register pair -/
  | pair
  /-- `vld` through a layout with a generator copy -/
  | block (l : Layout) (seed : BitVec 32)
  /-- `vgath`, `vlut` -/
  | elems
  deriving DecidableEq, Repr, Inhabited

/-- A result in flight (R104, R291, R295). -/
structure Flight where
  tag : Nat
  /-- number of the bundle that issued it -/
  bundle : Nat
  dst : Dst
  val : FVal
  /-- flags ORed into sys.fflags when it lands (R68, R106) -/
  flags : BitVec 6
  /-- reference ticks of the strand clock at or after which it lands -/
  due : Nat
  /-- the tick by which a division has landed (R102); 0 for none -/
  last : Nat
  /-- lands by itself at due; otherwise scoreboarded -/
  fixed : Bool
  /-- parts of its memory data still to come -/
  need : Nat
  raw : Mem
  rawPoison : List Nat
  form : LandForm
  /-- scratchpad spans a `vld.lu` uses for the last time (R356) -/
  hint : List (Nat × Nat)
  deriving DecidableEq, Repr, Inhabited

/-- A range record (R383). -/
structure RangeRec where
  asid : BitVec 16
  base : Nat
  gen : BitVec 8
  zone : BitVec 4
  n : Bool
  a : Bool
  x : Bool
  w : Bool
  r : Bool
  partialRes : Bool
  moving : Bool
  pinned : Bool
  compactible : Bool
  mdie : Nat
  length : Nat
  offset : Word
  bidx : Nat
  map : Nat
  deriving DecidableEq, Repr, Inhabited

/-- The states of an engine command (R173, R452). -/
inductive CmdSt where
  | waiting | running | stopped | ending
  deriving DecidableEq, Repr, Inhabited

/-- An engine command in a queue (R24, R135, R173, R298, R459). -/
structure Cmd where
  /-- place in the strand's issue order over all queues -/
  id : Nat
  engine : Nat
  seq : BitVec 16
  tag : Word
  /-- number of the bundle that issued it -/
  bundle : Nat
  /-- the M syllable as issued, and its end bit -/
  op : Instr
  endBit : Bool
  st : CmdSt
  shape : Shape
  /-- captured scalar operands: opa, opb, aux<4:0>, aux<14:10> -/
  ops : Vector Word 4
  src : Layout
  dst : Layout
  prog : Prog
  /-- its generator copy (R64) -/
  seed : BitVec 32
  /-- the strand's s at its issue (R64) -/
  seed0 : BitVec 32
  /-- blocks or bytes done -/
  done : Nat
  /-- how far the end of a copy or image has come: 1 its record or image is on its way, 2 its completion object is -/
  fin : Nat
  crc : BitVec 32
  scrc : BitVec 32
  /-- physical vector registers it locks until they are read, in the order A, B, scale A, scale B; and the drain's destination -/
  locks : List Nat
  dstLock : Option Nat
  /-- its rounding code, `dyn` resolved at issue (log entry 13) -/
  md : BitVec 3
  /-- addresses whose translations it holds, each with the running number at its access (R391) -/
  uses : List (Word × Nat)
  deriving DecidableEq, Repr

/-- An engine fault pending at the strand (R448). -/
structure EFault where
  id : Nat
  cause : BitVec 7
  tva : Word
  tpos0 : Word
  tpos1 : Word
  ttag : Word
  /-- the port whose end of stream it is, whose `sys.qeos` bit trap entry sets (R344, R346) -/
  eos : Option Nat
  deriving DecidableEq, Repr, Inhabited

/-- A power state of a bank (R350, R355). -/
inductive BankSt where
  | full | ret | off
  deriving DecidableEq, Repr, Inhabited

/-- A vector bank: its state, the tick at which a wake under way is complete, the tick from which it counts idle, and the
lane pairs a soft error has struck since it entered retention (R350 to R354). -/
structure VBank where
  st : BankSt
  wake : Option Nat
  idleFrom : Nat
  /-- (register of the bank, lane pair) whose parity a soft error has broken since it entered retention -/
  struck : List (Nat × Nat)
  deriving DecidableEq, Repr, Inhabited

/-- A scratchpad bank: its state, a wake under way with the ticks of the clocks of the core's two strands at which it is complete
(R294), and drops waiting their turn (R355, R359). -/
structure SpBank where
  st : BankSt
  waking : Option (Nat × Nat)
  /-- drops waiting for earlier accesses: issuing strand, the running number at its issue, to off, the banks it names -/
  drops : List (Nat × Nat × Bool × BitVec 32)
  /-- aligned words whose parity a soft error has broken since the bank entered retention -/
  struck : List Nat
  deriving DecidableEq, Repr, Inhabited

/-- What a strand's slot is doing. -/
inductive Phase where
  /-- no strand -/
  | idle
  /-- placed, not yet started (R282) -/
  | placed
  | running
  /-- `halt` has issued (R98, R283) -/
  | halted
  /-- stopped for the host (R444) -/
  | hostStop
  /-- stopped by an eviction; its running commands go to their stops (R456) -/
  | evicting (node : Bool) (host : Bool)
  deriving DecidableEq, Repr, Inhabited

/-- What the last issue attempt of a strand did. -/
inductive Iss where
  | none | issued | held | trapped
  deriving DecidableEq, Repr, Inhabited

/-- A write that takes effect after every syllable of its bundle has issued (R16). -/
inductive Pend where
  /-- a system register -/
  | sys (n : Nat) (v : Word)
  /-- a field of a shape shadow -/
  | shadow (k field v : Nat)
  /-- rotation by `loop` -/
  | rotate
  | jump (target : Word) (cycles : Nat)
  | eret
  | halt
  | clkdiv (d : Nat)
  deriving DecidableEq, Repr, Inhabited

/-- The register files of a strand (R33, R69, R105, R135, R139, R158). -/
structure Regs where
  g : Vector SReg 32
  p : Vector PReg 16
  v : Vector Block 32
  /-- physical vector registers that are live (R351) -/
  live : BitVec 32
  banks : Vector VBank 8
  tiles : Vector Tile 16
  sh : Vector Shape 4
  shadow : Vector Shape 4
  lay : Vector Layout 32
  /-- pending pattern programs (R163) -/
  prog : Vector Prog 8
  deriving DecidableEq, Repr, Inhabited

/-- The system registers of a strand that hold state of their own (R233); the rest are computed. -/
structure SysRegs where
  il : Bool
  priv : Bool
  ppriv : Bool
  rot : BitVec 4
  fmode : BitVec 3
  fflags : BitVec 6
  seed : BitVec 32
  qeos : BitVec 8
  evt : BitVec 7
  deadline : Word
  barl : BitVec 24
  tkmap0 : Word
  tkmap1 : Word
  idle : BitVec 16
  kinfo : Word
  dom : Vector Word 5
  tcause : BitVec 8
  tpc : Word
  tva : Word
  tpos0 : Word
  tpos1 : Word
  tcut : Vector Word 3
  ttag : Word
  asid : BitVec 16
  dbg : BitVec 3
  bpa : Word
  deriving DecidableEq, Repr, Inhabited

/-- The engine side of a strand (R163, R173, R298, R299). -/
structure Engines where
  ports : Vector Port 8
  /-- tokens in tk0 (unused) to tk15 -/
  tk : Vector Nat 16
  /-- commands in issue order over all queues -/
  cmds : List Cmd
  /-- sequence counters by engine code 0 (unused) to 11 -/
  seq : Vector (BitVec 16) 12
  /-- run length N of the array lease (R153) -/
  leaseN : Nat
  /-- divisor requests for array and copy, and the strand's own divisor (R184) -/
  divA : Nat
  divC : Nat
  divS : Nat
  /-- engine faults pending (R448) -/
  faults : List EFault
  deriving DecidableEq, Repr, Inhabited

/-- A strand (R6, R16, R281, R442). -/
structure Strand where
  phase : Phase
  /-- the running kernel's number (0 none) and the strand's rank in it -/
  kernel : Nat
  rank : Nat
  pc : Word
  r : Regs
  sys : SysRegs
  e : Engines
  flights : List Flight
  /-- reference ticks of 2.4 GHz since launch (R303) -/
  clock : Nat
  /-- the tick before which the next bundle does not issue (R103, R184) -/
  readyAt : Nat
  /-- the tick from which the vector unit is free (R134) -/
  vuFree : Nat
  /-- number of the bundle about to issue, and of the last bundle whose results sys.mode.il waits for (R296) -/
  bundle : Nat
  ilUpTo : Nat
  /-- syllables of the bundle now issuing, more of them to come, and writes deferred to its end (R16) -/
  blen : Nat
  more : Bool
  pend : List Pend
  iss : Iss
  /-- the tick at which a waiting `wfe` times out, and its timeout seen (R98) -/
  wfeFrom : Option Nat
  wfeOut : Bool
  /-- sys.deadline has stepped from 1 to 0 (R234) -/
  dlHit : Bool
  /-- a step trap is due at the next boundary, after the commands of that bundle under drain (R463) -/
  stepDue : Option Nat
  /-- the bundle at which eret restarted is exempt from the breakpoint once (R464) -/
  bpSkip : Bool
  /-- trap pending while the handler table is read: the handler entry waits for a fill (R443) -/
  entering : Bool
  deriving DecidableEq, Repr, Inhabited

/-- A hardware ring (R205). -/
structure Ring where
  base : BitVec 22
  ns : Nat
  sb : Nat
  h : BitVec 16
  k : BitVec 16
  r : BitVec 16
  t : BitVec 16
  pub : BitVec 256
  rel : BitVec 256
  deriving DecidableEq, Repr, Inhabited

/-- A named barrier (R210): counts.(d) is the arrivals for phase P + d; kids are the children that have forwarded, with
their phases. -/
structure Barrier where
  c : BitVec 16
  a : BitVec 8
  ph : BitVec 16
  parent : Word
  counts : Tbl Nat
  up : Bool
  kids : List (Nat × Nat × BitVec 16)
  deriving DecidableEq, Repr, Inhabited

/-- A message between barriers of a tree (R212, R473): an arrival or a flip for phase ph. -/
structure BMsg where
  flip : Bool
  pkg : BitVec 16
  core : Nat
  bar : Nat
  fromCore : Nat
  fromBar : Nat
  ph : BitVec 16
  deriving DecidableEq, Repr, Inhabited

/-- An entry of a range table, tagged by the ASID of its directory, with the granules whose map bit is known 1 (R390, R393); dead: marked
invalid, with the running number at which it was (R221). -/
structure RtEntry where
  asid : BitVec 16
  r : RangeRec
  /-- the place in the directory it was read from -/
  idx : Nat
  kept : List Nat
  dead : Option Nat
  deriving DecidableEq, Repr, Inhabited

/-- A row of the instruction store: owner kernel, row number, bytes by offset, its place in fetch order, and the parts that are not
there (R280): offset, length, the cause of the load that failed (0: still to be loaded), address. -/
structure Row where
  kernel : Nat
  n : Nat
  code : Mem
  last : Nat
  fault : List (Nat × Nat × BitVec 7 × Word)
  deriving DecidableEq, Repr, Inhabited

/-- A core (R5, R205, R210, R280, R301, R355 to R358, R390). -/
structure Core where
  rings : Tbl Ring
  bars : Tbl Barrier
  banks : Vector SpBank 32
  /-- live bit of each aligned 128-byte line of the scratchpad -/
  live : BitVec 32768
  /-- marked 8-byte words of the scratchpad, by word number -/
  marked : List Nat
  /-- holder of the array (0 or 1), last holder, commands counted in the run -/
  holder : Option Nat
  lastHolder : Nat
  runCount : Nat
  gated : Bool
  /-- a wake of the gated array under way, with the ticks of the two strands' clocks at which it is complete (R185, R294) -/
  gateWake : Option (Nat × Nat)
  rows : List Row
  fetchNo : Nat
  rtab : List RtEntry
  deriving DecidableEq, Repr, Inhabited

/-- An exact-reduction accumulator (R73 to R75, R199). -/
structure Acc where
  t : Int
  status : BitVec 8
  anchor : Int
  count : Nat
  deriving DecidableEq, Repr, Inhabited

/-- A launch waiting at or running on an NMU (R236, R288): the strand and command of an `nlaunch`, or the number of a type N
kernel; the entry, the parameters to push, and for type N its code span. -/
structure NLaunch where
  fromCmd : Option (Nat × Nat)
  kernel : Nat
  asid : BitVec 16
  entry : Nat
  args : List Word
  code : Option (Word × Nat)
  deriving DecidableEq, Repr, Inhabited

/-- A running product of the matrix-vector engine (R245 to R247). -/
structure Mve where
  pc : Nat
  op : MvxForm
  wbase : Word
  rows : Nat
  cols : Nat
  rstr : Word
  xoff : Nat
  yoff : Nat
  xstr : Nat
  ystr : Nat
  /-- accesses of the unit with a lower number come before the product (R251) -/
  fork : Nat
  /-- rows computed -/
  done : Nat
  deriving DecidableEq, Repr

/-- A stop of a near-memory kernel: reason, word address, the word, detail, failing address (R252). -/
structure NmFault where
  reason : BitVec 8
  pc : Nat
  word : NmWord
  depth : Nat
  loops : Nat
  detail : BitVec 48
  va : Word
  deriving DecidableEq, Repr, Inhabited

/-- A near-memory unit (R235 to R252). -/
structure Nmu where
  ws : Mem
  stack : List SReg
  loops : List (Word × Nat)
  vbuf : Mem
  vpoison : BitVec 16384
  acc : Tbl Acc
  claims : BitVec 16
  run : Option NLaunch
  pc : Nat
  queue : List NLaunch
  mve : Option Mve
  /-- the reason and failing address of a stopped product, reported at the next word that meets it (R247) -/
  mveFault : Option (BitVec 8 × Word × Mve)
  flags : BitVec 6
  rtab : List RtEntry
  /-- answers the word now holding still waits for, and the bytes it has gathered -/
  wait : Option Nat
  got : Option (Mem × List Nat)
  /-- an abort is due (R254) -/
  abort : Bool
  /-- faults waiting for delivery, with the launch they end -/
  faults : List (NLaunch × NmFault)
  deriving DecidableEq, Repr, Inhabited

/-- A party of a shootdown or a translation (R221, R390): core, NMU, dispatcher, fill engine, compactor, by number; the
order is cores 0 to 143, NMUs 144 to 271, then 272 to 277. -/
abbrev Party := Nat

/-- A source of requests (R327): a strand for its own syllables, an NMU and its matrix-vector engine, a strand's pattern engine, a
running copy, the walker of a party for one walk (0: for its residency maps), a launch record at its dispatcher, a fill at its engine,
or another party: a dispatcher, fill engine or compactor; 278 the host port, from 279 on the Bandura ports; 300 + n the accesses a core
makes for strand n on the way (a directory's edit, a `launch`), 600 + n its loader's for that strand's rows. -/
inductive Src where
  | strand (n : Nat)
  | nmu (u : Nat)
  | mve (u : Nat)
  | port (n q : Nat)
  | copy (n id : Nat)
  | walker (p : Party) (walk : Nat)
  | record (d id : Nat)
  | fill (d id : Nat)
  | other (p : Party)
  deriving DecidableEq, Repr, Inhabited

/-- The homes of memory (R323). -/
inductive Space where
  | dram | chip | host | peer
  /-- the exact-reduction engine of NMU u, addressed by accumulator -/
  | red (u : Nat)
  deriving DecidableEq, Repr, Inhabited

/-- The operations of R194. -/
inductive AtomOp where
  | add | and | or | xor | min | max | minu | maxu | xchg | cas | fadd32 | fadd64
  deriving DecidableEq, Repr, Inhabited

/-- What a request does at its home. -/
inductive ReqOp where
  /-- read len bytes into the gather buffer of the flight from offset off -/
  | load (off : Nat)
  /-- write the bytes; keep tells which bits of the bytes stay (nibble merges of R186) -/
  | store (data : List Byte) (keep : List Byte)
  /-- operand b, compare value c; ret: returns the old value -/
  | atom (op : AtomOp) (b : BitVec 128) (c : BitVec 128) (ret : Bool)
  /-- add and release (R200) -/
  | sems (v : Word)
  /-- contributions: accumulator, value as an FP32, BF16 or FP16 code, its type 0 to 2, poison -/
  | redx (xs : List (Nat × BitVec 32 × Nat × Bool))
  | redfOpen (a : Int)
  | redfRd (bf fin : Bool)
  | redfSt
  /-- write poisoned data, from outside (R468) -/
  | poisoned (data : List Byte)
  /-- readouts of `rfin` into the vector buffer: offset, count, format, keep -/
  | rfin (off n : Nat) (bf keep : Bool)
  /-- a `semw`: its condition joins the waiter table of the word's home (R201) -/
  | semw (eq : Bool) (cmp : Word)
  /-- `mark`, `fence` or `spdrop`'s place in the queues; cum: cumulative (R202, R329) -/
  | order (cum : Bool)
  deriving DecidableEq, Repr, Inhabited

/-- A request on its way to its home, oldest first in State.net (R321, R327, R328). -/
structure Req where
  id : Nat
  src : Src
  op : ReqOp
  sp : Space
  pa : Nat
  len : Nat
  va : Word
  asid : BitVec 16
  /-- flight of the strand that the answer feeds -/
  flight : Nat
  scope : Scope
  acq : Bool
  rel : Bool
  /-- opcode, width, no return and relaxed: merging allowed (R196) -/
  mergeable : Bool
  /-- refusals so far, and refused but not yet sent again (R192) -/
  refusals : Nat
  away : Bool
  /-- number of its acceptance by an arbiter (R416) -/
  accept : Option Nat
  /-- it has reached the age cap (R417) -/
  capped : Bool
  /-- requests merged into this one: they are performed with it (R196, R334) -/
  merged : List Nat
  /-- the store of a whole line that this is a 16-byte chunk of, numbered by its source; 0: of none (R428, R333) -/
  whole : Nat
  /-- the `vst` or `vscat` it is a chunk or an element of, numbered by its source; 0: of none (R333) -/
  vec : Nat
  /-- one more than the number of the bundle that sent it, for a strand's own requests; else 0 -/
  bundle : Nat
  /-- a store of a core's party that a release at core scope or a fork has published (R328, R331) -/
  pub : Bool
  /-- a plain store performed on its acceptance, whose service is still to come (R423) -/
  done : Bool
  deriving DecidableEq, Repr

/-- The answers to one read of an engine or another party, as they come in from its home: kept until what it reads for is done. -/
structure Gather where
  id : Nat
  src : Src
  sp : Space
  pa : Nat
  len : Nat
  need : Nat
  raw : Mem
  bad : List Nat
  deriving DecidableEq, Repr, Inhabited

/-- Who waits at a semaphore word (R201). -/
inductive Who where
  | strand (n : Nat)
  | nmu (u : Nat)
  | record (d id : Nat)
  deriving DecidableEq, Repr, Inhabited

/-- A waiter at its home: the value that satisfied it, with poison, stands in sat from the write that did (R201); the address it
translated, for the counts of R222. -/
structure Waiter where
  id : Nat
  who : Who
  asid : BitVec 16
  va : Word
  sp : Space
  pa : Nat
  eq : Bool
  cmp : Word
  sat : Option (Word × Bool)
  woken : Bool
  deriving DecidableEq, Repr, Inhabited

/-- A translation that has missed its party's range table (R387, R388), with the sources that wait for it: ans is the host's answer,
late a deadline passed. -/
structure Walk where
  id : Nat
  party : Party
  asid : BitVec 16
  va : Word
  waiting : List Src
  asked : Bool
  ans : Option (BitVec 32)
  late : Bool
  deriving DecidableEq, Repr, Inhabited

/-- A residency fill (R395): the die whose engine does it, the sources that wait, the strands whose `rgfill` asked. -/
structure Fill where
  id : Nat
  die : Nat
  asid : BitVec 16
  /-- the granule's first address -/
  gva : Nat
  waiting : List Src
  rgfill : List Nat
  hostAsked : Bool
  /-- the running number at its translation, bytes written, and whether the map's atomic is on its way -/
  begun : Option Nat
  done : Nat
  set : Bool
  deriving DecidableEq, Repr, Inhabited

/-- What is left of a strand's `rgfill` (R224): the addresses from lo up to hi. -/
structure Want where
  id : Nat
  n : Nat
  asid : BitVec 16
  lo : Nat
  hi : Nat
  deriving DecidableEq, Repr, Inhabited

/-- A shootdown under way (R221, R222): parties still to acknowledge. -/
structure Shoot where
  id : Nat
  asid : BitVec 16
  /-- base and length of the span; none: every entry of the ASID -/
  span : Option (Nat × Nat)
  /-- the strand that waits, if one does -/
  strand : Option Nat
  todo : List Party
  /-- parties it has reached -/
  got : List Party
  deriving DecidableEq, Repr, Inhabited

/-- A compactor's request in progress (R399 to R403): stage 1 the first shootdown and the copying, 3 the last edit's shootdown, 4 over:
its range was removed meanwhile (R402). -/
structure Move' where
  retire : Bool
  asid : BitVec 16
  base : Nat
  oldOff : Word
  newOff : Word
  granule : Nat
  compl : Nat
  stage : Nat
  /-- the watermark M -/
  m : Nat
  shoot : Nat
  /-- the range's generation afterwards -/
  gen : Nat
  deriving DecidableEq, Repr, Inhabited

/-- What has become of an eviction of a kernel (R276, R454 to R457, R461): once saved, where its images lie and their size. -/
inductive Evict where
  | none | requested | forced | saved (at' size : Nat)
  deriving DecidableEq, Repr, Inhabited

/-- A launch record in the held table, and the kernel it becomes (R263 to R288). -/
structure Kernel where
  id : Nat
  queue : Nat
  index : BitVec 32
  /-- 1 type K, 2 type N -/
  typ : Nat
  /-- held, ready, placing or running, in the order 0 to 3 -/
  stage : Nat
  prio : Nat
  pcap : Nat
  age : Nat
  sbound : Nat
  weight : Nat
  ooo : Bool
  die : Nat
  asid : BitVec 16
  gang : Bool
  nodep : Bool
  nid : Bool
  codeBase : Word
  codeLen : Nat
  entry : Nat
  rows : Nat
  strands : Nat
  shape : Word
  spmask : BitVec 32
  ringmask : BitVec 32
  barmask : BitVec 128
  args : List Word
  link : Word
  dom4 : Word
  init : List (BitVec 64 × Word)
  /-- semaphore conditions: word address and value -/
  sems : List (Word × Word)
  /-- declared inputs: base and length -/
  inputs : List (Word × Word)
  /-- slots of the strands placed, in rank order, and those of them that have ended; the rank at each slot; strands that ended in slots
  that later ones have taken (R277) -/
  placed : List Nat
  ended : List Nat
  ranks : Tbl Nat
  gone : Nat
  /-- the running number as the last strand ended -/
  endNo : Nat
  /-- NMUs still running -/
  nmus : List Nat
  evict : Evict
  /-- the model's own: faults of near-memory launches that an evicted strand has yet to take, by slot -/
  owed : List (Nat × EFault)
  /-- the model's own: slots of evicted strands whose `node` has a step trap behind it (R463) -/
  steps : List Nat
  startNo : Nat
  hostEnd : Bool
  deriving DecidableEq, Repr, Inhabited

/-- A message for the host request ring (R471), and the barrier a flip answer belongs to: 128 times its core plus its number. -/
structure Ask where
  kind : Nat
  a : Word
  b : Word
  tag : Nat
  sent : Bool
  bar : Nat
  deriving DecidableEq, Repr, Inhabited

/-- Ownership of a DRAM bank (R418): the requests whose service ends the state. -/
inductive Own where
  | shared
  | pending (main : List Nat)
  | near
  | main (batch : List Nat)
  deriving DecidableEq, Repr, Inhabited

/-- DRAM error state and arbiters (R416 to R431). -/
structure Dram where
  /-- wrong symbols: line, symbol 0 to 35, pattern -/
  flips : List (Nat × Nat × BitVec 16)
  /-- lines whose carried-poison bit is set -/
  carried : List Nat
  own : Tbl Own
  /-- errors counted per 64 KiB granule: fresh uncorrectable errors, lines corrected in this patrol pass -/
  errs : Tbl (Nat × List Nat)
  /-- next line the patrol scrubber of a bank reads -/
  scrub : Tbl Nat
  /-- the open row of a bank -/
  row : Tbl Nat
  hot : BitVec 8
  /-- 64 KiB granules of the retired list (R403) -/
  retired : List Nat
  /-- bytes left of the allowance in this interval, by 8 * cluster + stack; 0xFFFFFFFF for no limit (R432, R433) -/
  budget : Tbl Nat
  /-- the budget watchdog has expired: the floor holds (R476) -/
  watchdog : Bool
  deriving DecidableEq, Repr, Inhabited

/-- The dispatcher (R261 to R288). -/
structure Dispatch where
  kernels : List Kernel
  nextId : Nat
  startNo : Nat
  /-- deficits by priority * 65536 + queue, and the queue served last by priority (R275) -/
  deficit : Tbl Nat
  served : Tbl Nat
  deriving DecidableEq, Repr, Inhabited

/-- Firmware, attestation and power (R477, R480, R481). -/
structure Trust where
  /-- security version of the running service firmware, fused counter, recovery image running -/
  version : Nat
  fused : Nat
  recovery : Bool
  /-- an update activated that has not reported ready -/
  starting : Bool
  /-- the running monitor's version, and one that takes effect at the next reset -/
  monitor : Nat
  monitorNext : Option Nat
  /-- the zone table the device booted with last, the words of one that the monitor is writing, and whether it has written one since the
  reset (R410, R412) -/
  zones : Tbl Word
  staged : Tbl Word
  booted : Bool
  tripped : Option (BitVec 4)
  spdmCount : Nat
  spdm : List (Nat × List Byte)
  droop : BitVec 2
  current : BitVec 2
  deriving DecidableEq, Repr, Inhabited

/-- Faults that stop the model. The spec gives every fault of the part an effect (a trap, a record, a refusal to a
requester), so no meaning of this model ends here; the one constructor is kept for a decoder or fetch that meets a state
no run of the part has. -/
inductive Fault where
  /-- Raised by nothing in a well-formed state; safe: the model stops where it would have no meaning. -/
  | malformed
  deriving DecidableEq, Repr

/-- Refusals. -/
inductive Refusal where
  /-- Raised by exec for an instruction that has no meaning yet; safe: the model stops. -/
  | notModelled (mnemonic : String)
  deriving DecidableEq, Repr

/-- The whole machine. -/
structure State where
  /-- the model's own: the plan of moves, the count of moves made, the strand and the unit an instruction acts for -/
  sched : List Move
  turn : Nat
  cur : Nat
  unit : Nat
  /-- the model's own: running number of requests, walks, fills, shootdowns, waiters and commands -/
  fresh : Nat
  strands : Tbl Strand
  cores : Tbl Core
  nmus : Tbl Nmu
  dram : Mem
  chip : Mem
  host : Mem
  peer : Mem
  net : List Req
  gathers : List Gather
  waiters : List Waiter
  walks : List Walk
  fills : List Fill
  /-- what strands' `rgfill`s have still to look at (R224) -/
  wants : List Want
  /-- causes returned to sources that wait, until they take them: source, ASID, address of the miss or of the granule, cause (R387, R395) -/
  denials : List (Src × BitVec 16 × Nat × BitVec 7)
  shoots : List Shoot
  /-- range tables of the dispatchers, fill engines and compactors (R390), by party -/
  rtabs : Tbl (List RtEntry)
  moves : Tbl Move'
  bmsgs : List BMsg
  asks : List Ask
  d : Dispatch
  m : Dram
  mg : Tbl Word
  acl : Tbl MasterRow
  /-- the first half of an answer at `mg.hans` (R471) -/
  hans : Option Word
  t : Trust
  /-- Bandura ports that work -/
  ports : BitVec 18
  /-- MSI-X pending bits -/
  msix : BitVec 8
  /-- completions sent to the host: bytes read and the poison mark, or none for Unsupported Request (R468, R469) -/
  hostOut : List (Option (List Byte × Bool))
  /-- responses and flips sent over the links -/
  linkOut : List (Nat × List Byte × Bool)
  /-- reports to the service firmware and entries of the driver's fault log: source, detail, address (R430, R467, R471) -/
  log : List (Word × Word × Word)
  deriving DecidableEq, Repr, Inhabited

/-- R139: m, n and k 64, neither operand transposed. -/
def Shape.reset : Shape := { m := 64, n := 64, k := 64, ta := false, tb := false }

/-- R158. -/
def Layout.reset : Layout :=
  { base := 0, fmt := 0, rstr := 0, lst := Vector.replicate 5 0, bperm := 0, xf := 0, dfmt := 0, rnd := 0, sat := false }

/-- R163. -/
def Prog.reset : Prog :=
  { lay := 0, nlev := 1, cnt := Vector.replicate 5 1, sta := Vector.replicate 5 0, eot := false }

/-- A port that has captured no stream (R171, R281). -/
def Port.reset : Port :=
  { captured := false, lay := Layout.reset, prog := Prog.reset, nextNo := 0, buf := [], accepted := 0,
    stopped := false, fault := none, cmd := none, claims := [], rew := none, resume := [], sent := false, seed := 1, fork := 0,
    uses := [] }

/-- The registers at launch (R281): scalars 0, p0 all ones, other predicates 0, vector registers dead in banks that are
off, tiles 0 and dead, shapes, layouts and programs at their resets. The bits of a dead vector register in an off bank
are 0 (log entry 9). -/
def Regs.reset : Regs :=
  { g := Vector.replicate 32 { val := 0, poison := false }
    p := (Vector.replicate 16 { val := 0, poison := false }).set 0 { val := BitVec.allOnes 1024, poison := false }
    v := Vector.replicate 32 { bits := 0, poison := 0 }
    live := 0
    banks := Vector.replicate 8 { st := .off, wake := none, idleFrom := 0, struck := [] }
    tiles := Vector.replicate 16 { bits := 0, poison := 0, written := false }
    sh := Vector.replicate 4 Shape.reset
    shadow := Vector.replicate 4 Shape.reset
    lay := Vector.replicate 32 Layout.reset
    prog := Vector.replicate 8 Prog.reset }

/-- R233; the fields that a launch sets (sys.kinfo, sys.dom0 to 4, sys.asid) hold 0 before any launch (log entry 9). -/
def SysRegs.reset : SysRegs :=
  { il := false, priv := false, ppriv := false, rot := 0, fmode := 0, fflags := 0, seed := 1, qeos := 0, evt := 0,
    deadline := 0, barl := 0, tkmap0 := 0, tkmap1 := 0, idle := 256, kinfo := 0, dom := Vector.replicate 5 0,
    tcause := 0, tpc := 0, tva := 0, tpos0 := 0, tpos1 := 0, tcut := Vector.replicate 3 0, ttag := 0, asid := 0,
    dbg := 0, bpa := 0 }

/-- R281: queues, token queues and ports empty, sequence counters 0, N = 1, clock requests 2. -/
def Engines.reset : Engines :=
  { ports := Vector.replicate 8 Port.reset, tk := Vector.replicate 16 0, cmds := [], seq := Vector.replicate 12 0,
    leaseN := 1, divA := 2, divC := 2, divS := 2, faults := [] }

/-- A strand slot with no strand. -/
def Strand.reset : Strand :=
  { phase := .idle, kernel := 0, rank := 0, pc := 0, r := Regs.reset, sys := SysRegs.reset, e := Engines.reset,
    flights := [], clock := 0, readyAt := 0, vuFree := 0, bundle := 0, ilUpTo := 0, blen := 1, more := false, pend := [],
    iss := .none, wfeFrom := none, wfeOut := false, dlHit := false, stepDue := none, bpSkip := false,
    entering := false }

/-- A ring that has not been configured (R205). -/
def Ring.reset : Ring :=
  { base := 0, ns := 0, sb := 0, h := 0, k := 0, r := 0, t := 0, pub := 0, rel := 0 }

/-- A barrier that has not been configured (R210). -/
def Barrier.reset : Barrier :=
  { c := 0, a := 0, ph := 0, parent := 0, counts := [], up := false, kids := [] }

/-- R233: sys.spst is 0 (full) at device reset; strand 1 counts as the last holder of the array (R154). -/
def Core.reset : Core :=
  { rings := [], bars := [], banks := Vector.replicate 32 { st := .full, waking := none, drops := [], struck := [] },
    live := 0, marked := [], holder := none, lastHolder := 1, runCount := 0, gated := false, gateWake := none,
    rows := [], fetchNo := 0, rtab := [] }

/-- R197: T = 0, status 0, anchor 0. -/
def Acc.reset : Acc := { t := 0, status := 0, anchor := 0, count := 0 }

/-- R235. -/
def Nmu.reset : Nmu :=
  { ws := [], stack := [], loops := [], vbuf := [], vpoison := 0, acc := [], claims := 0, run := none, pc := 0,
    queue := [], mve := none, mveFault := none, flags := 0, rtab := [], wait := none, got := none,
    abort := false, faults := [] }

/-- The machine right after device reset: no strand runs, every queue is empty, no access is granted (R470, R479), the
power budget's floor holds (R476). -/
def State.reset : State :=
  { sched := [], turn := 0, cur := 0, unit := 0, fresh := 0, strands := [], cores := [], nmus := [],
    dram := [], chip := [], host := [], peer := [], net := [], gathers := [], waiters := [], walks := [], fills := [], wants := [], denials := [], shoots := [],
    rtabs := [], moves := [], bmsgs := [], asks := [],
    d := { kernels := [], nextId := 1, startNo := 0, deficit := [], served := [] }
    m := { flips := [], carried := [], own := [], errs := [], scrub := [], row := [], hot := 0, retired := [],
           budget := (List.range 144).map (fun i => (i, 65536)),
           watchdog := true }
    mg := [], acl := [], hans := none
    t := { version := 0, fused := 0, recovery := false, starting := false, monitor := 0, monitorNext := none, zones := [], staged := [], booted := false, tripped := none,
           spdmCount := 0, spdm := [], droop := 0, current := 0 }
    ports := BitVec.allOnes 18, msix := 0, hostOut := [], linkOut := [], log := [] }

end Sys2Proof.Machine
end

