-- ==== Sys2Proof/Machine/Num.lean ====
section
/-! DEFINITION. Numbers (R47 to R76, R126, R151): the formats and their exact values, `Round` with its flags, conversions,
the operations on exact values, the stochastic generator, MX quantisation, the group of the array's arithmetic,
requantisation and exact reduction. Every operation computes exactly and narrows once at its end. -/

namespace Sys2Proof.Machine

/-! Flags (R68). -/

def fNone : BitVec 6 := 0
def fInexact : BitVec 6 := 1
def fUnderflow : BitVec 6 := 2
def fOverflow : BitVec 6 := 4
def fDivzero : BitVec 6 := 8
def fInvalid : BitVec 6 := 16
def fStale : BitVec 6 := 32

/-- A flag raised when a condition holds. -/
def flagIf (c : Bool) (f : BitVec 6) : BitVec 6 := if c then f else 0

/-! Rounding modes. -/

/-- A resolved rounding mode (R28, R56). -/
inductive RM where
  | rne | rtz | rdn | rup | rsr
  deriving DecidableEq, Repr

/-- `dyn` reads sys.fmode, which holds 0 to 4 (R56). -/
def RM.ofCode (n : Nat) : RM :=
  match n with
  | 0 => .rne | 1 => .rtz | 2 => .rdn | 3 => .rup | _ => .rsr

def rndResolve (r : Rnd) (fmode : BitVec 3) : RM :=
  match r with
  | .rne => .rne | .rtz => .rtz | .rdn => .rdn | .rup => .rup | .rsr => .rsr | .dyn => RM.ofCode fmode.toNat

/-! Formats (R49, R51). -/

/-- How a format marks NaN and infinity (R49). -/
inductive Special where
  | ieee | e4m3 | none
  deriving DecidableEq, Repr

/-- A floating-point format: exponent and fraction bits, bias. -/
structure Fmt where
  eb : Nat
  mb : Nat
  bias : Nat
  sp : Special
  deriving DecidableEq, Repr

def Fmt.f64 : Fmt := ⟨11, 52, 1023, .ieee⟩
def Fmt.f32 : Fmt := ⟨8, 23, 127, .ieee⟩
def Fmt.f16 : Fmt := ⟨5, 10, 15, .ieee⟩
def Fmt.bf16 : Fmt := ⟨8, 7, 127, .ieee⟩
def Fmt.e4m3 : Fmt := ⟨4, 3, 7, .e4m3⟩
def Fmt.e5m2 : Fmt := ⟨5, 2, 15, .ieee⟩
def Fmt.e2m1 : Fmt := ⟨2, 1, 1, .none⟩

/-- The float format of an element type; the integer types have none. -/
def tyFmt : Ty → Option Fmt
  | .f64 => some Fmt.f64 | .f32 => some Fmt.f32 | .f16 => some Fmt.f16 | .bf16 => some Fmt.bf16
  | .e4m3 => some Fmt.e4m3 | .e5m2 => some Fmt.e5m2 | .e2m1 => some Fmt.e2m1
  | _ => Option.none

/-- Width in bits. -/
def Fmt.width (f : Fmt) : Nat := 1 + f.eb + f.mb
/-- The all-ones exponent. -/
def Fmt.emax (f : Fmt) : Nat := 2 ^ f.eb - 1
/-- Exponent of the smallest normal. -/
def Fmt.emin (f : Fmt) : Int := 1 - (f.bias : Int)
/-- The sign bit's weight. -/
def Fmt.signW (f : Fmt) : Nat := 2 ^ (f.eb + f.mb)

/-- The code of the largest finite magnitude (R49). -/
def Fmt.maxCode (f : Fmt) : Nat :=
  match f.sp with
  | .ieee => f.emax * 2 ^ f.mb - 1
  | .e4m3 => 2 ^ (f.eb + f.mb) - 2
  | .none => 2 ^ (f.eb + f.mb) - 1

/-- The canonical NaN (R51); for E2M1 the element written in its place is 0 (R51, R60). -/
def Fmt.nan (f : Fmt) : Nat :=
  match f.sp with
  | .ieee => if f.mb ≤ 2 then 2 ^ (f.eb + f.mb) - 1 else f.emax * 2 ^ f.mb + 2 ^ (f.mb - 1)
  | .e4m3 => 2 ^ (f.eb + f.mb) - 1
  | .none => 0

/-- Infinity's code; only formats of kind ieee have one. -/
def Fmt.inf (f : Fmt) : Nat := f.emax * 2 ^ f.mb

/-- The exact value of a code: NaN (signalling or not), infinity, or (-1)^neg m 2^e with a signed zero. -/
inductive Val where
  | nan (sig : Bool)
  | inf (neg : Bool)
  | fin (neg : Bool) (m : Nat) (e : Int)
  deriving DecidableEq, Repr

/-- R49; only the low bits of the code are read (R92). A signalling NaN has its top fraction bit clear; E4M3 and E5M2 have
none (R51). -/
def Fmt.val (f : Fmt) (x : Nat) : Val :=
  let fr := x % 2 ^ f.mb
  let ex := x / 2 ^ f.mb % 2 ^ f.eb
  let neg := bit x (f.eb + f.mb)
  let number : Val :=
    if ex == 0 then .fin neg fr (f.emin - f.mb) else .fin neg (2 ^ f.mb + fr) ((ex : Int) - f.bias - f.mb)
  match f.sp with
  | .ieee =>
    if ex == f.emax then (if fr == 0 then .inf neg else .nan (f.mb > 2 && fr < 2 ^ (f.mb - 1))) else number
  | .e4m3 => if ex == f.emax && fr == 7 then .nan false else number
  | .none => number

/-- A code with the given sign. -/
def Fmt.signed (f : Fmt) (neg : Bool) (c : Nat) : Nat := if neg then f.signW + c else c

/-! Round (R56 to R59, R62). -/

/-- Whether the magnitude n + r / 2^s rounds away to n + 1; u is the 16 bits of a draw. -/
def roundUp (mode : RM) (u : Nat) (neg : Bool) (n r s : Nat) : Bool :=
  match mode with
  | .rne => 2 * r > 2 ^ s || (2 * r == 2 ^ s && n % 2 == 1)
  | .rtz => false
  | .rdn => neg && r != 0
  | .rup => !neg && r != 0
  | .rsr => 2 ^ 16 * r / 2 ^ s + u ≥ 2 ^ 16

/-- m 2^e rounded to a multiple of 2^q: the multiple, and whether it differs. -/
def roundAt (mode : RM) (u : Nat) (neg : Bool) (m : Nat) (e q : Int) : Nat × Bool :=
  if e ≥ q then (m * 2 ^ (e - q).toNat, false)
  else
    let s := (q - e).toNat
    let n := m / 2 ^ s
    let r := m % 2 ^ s
    (if roundUp mode u neg n r s then n + 1 else n, r != 0)

/-- n 2^q ≤ m 2^e for magnitudes. -/
def magLe (n : Nat) (q : Int) (m : Nat) (e : Int) : Bool :=
  if q ≥ e then n * 2 ^ (q - e).toNat ≤ m else n ≤ m * 2 ^ (e - q).toNat

/-- A code and the flags raised with it. -/
abbrev Coded := Nat × BitVec 6

/-- What replaces an overflowed result (R58). -/
def Fmt.overflow (f : Fmt) (mode : RM) (sat neg : Bool) : Nat :=
  let big := f.signed neg f.maxCode
  let infinite : Nat := match f.sp with
    | .ieee => f.signed neg f.inf
    | .e4m3 => f.nan
    | .none => big
  if sat then big
  else match mode with
    | .rtz => big
    | .rdn => if neg then infinite else big
    | .rup => if neg then big else infinite
    | _ => infinite

/-- `Round` of the finite value (-1)^neg m 2^e; a zero keeps its sign. -/
def Fmt.round (f : Fmt) (mode : RM) (sat : Bool) (u : Nat) (neg : Bool) (m : Nat) (e : Int) : Coded :=
  if m == 0 then (f.signed neg 0, 0)
  else
    let top : Int := e + Nat.log2 m
    let qU := top - f.mb
    let un := roundAt mode u neg m e qU
    let big := f.maxCode
    let bigM := 2 ^ f.mb + big % 2 ^ f.mb
    let bigE : Int := ((big / 2 ^ f.mb : Nat) : Int) - f.bias - f.mb
    if !magLe un.1 qU bigM bigE then (f.overflow mode sat neg, fOverflow ||| fInexact)
    else
      let q := max top f.emin - f.mb
      let r := roundAt mode u neg m e q
      let tiny := !magLe (2 ^ f.mb) (f.emin - f.mb) un.1 qU
      let code : Nat :=
        if r.1 < 2 ^ f.mb then r.1
        else if r.1 < 2 ^ (f.mb + 1) then (q + f.mb + f.bias).toNat * 2 ^ f.mb + (r.1 - 2 ^ f.mb)
        else (q + f.mb + f.bias + 1).toNat * 2 ^ f.mb
      (f.signed neg code, flagIf (tiny && r.2) fUnderflow ||| flagIf r.2 fInexact)

/-! Exact sums and products of finite values. -/

/-- A dyadic number m 2^e. -/
structure Dy where
  m : Int
  e : Int
  deriving DecidableEq, Repr

def Dy.zero : Dy := ⟨0, 0⟩
def Dy.add (a b : Dy) : Dy :=
  if a.m == 0 then b else if b.m == 0 then a
  else
    let e := min a.e b.e
    ⟨a.m * 2 ^ (a.e - e).toNat + b.m * 2 ^ (b.e - e).toNat, e⟩
def Dy.mul (a b : Dy) : Dy := ⟨a.m * b.m, a.e + b.e⟩
def Dy.neg (a : Dy) : Dy := ⟨-a.m, a.e⟩
/-- a < b. -/
def Dy.lt (a b : Dy) : Bool :=
  let e := min a.e b.e
  a.m * 2 ^ (a.e - e).toNat < b.m * 2 ^ (b.e - e).toNat
/-- a = b. -/
def Dy.eq (a b : Dy) : Bool :=
  let e := min a.e b.e
  a.m * 2 ^ (a.e - e).toNat == b.m * 2 ^ (b.e - e).toNat

/-- The value of a finite Val. -/
def dy (neg : Bool) (m : Nat) (e : Int) : Dy := ⟨if neg then -(m : Int) else m, e⟩

/-- `Round` of a dyadic number that is not an exact zero, or of a zero with the given sign. -/
def Fmt.roundDy (f : Fmt) (mode : RM) (sat : Bool) (u : Nat) (zneg : Bool) (x : Dy) : Coded :=
  if x.m == 0 then (f.signed zneg 0, 0) else f.round mode sat u (x.m < 0) x.m.natAbs x.e

/-- One addend of an exact sum: a value and its sign as a zero. -/
inductive Term where
  | nan (invalid : Bool)
  | inf (neg : Bool)
  | fin (neg : Bool) (x : Dy)
  deriving DecidableEq, Repr

def Val.term : Val → Term
  | .nan s => .nan s
  | .inf n => .inf n
  | .fin n m e => .fin n (dy n m e)

/-- The product of two values as an addend (R52, R66): a NaN factor, or infinity times zero, makes it NaN. -/
def mulTerm (a b : Val) : Term :=
  match a, b with
  | .nan s, .nan t => .nan (s || t)
  | .nan s, _ => .nan s
  | _, .nan t => .nan t
  | .inf n, .inf k => .inf (n != k)
  | .inf n, .fin k m _ => if m == 0 then .nan true else .inf (n != k)
  | .fin k m _, .inf n => if m == 0 then .nan true else .inf (n != k)
  | .fin n m e, .fin k m' e' => .fin (n != k) (dy (n != k) (m * m') (e + e'))

/-- What an exact sum of addends is: NaN with its invalid flag, an infinity, or a dyadic number with the sign R52 gives it
when it is zero. Opposite infinities among the addends are invalid, beside a NaN too (R66). -/
def sumTerms (rdn : Bool) (ts : List Term) : Term :=
  let isNan := ts.any (fun t => match t with | .nan _ => true | _ => false)
  let inv := ts.any (fun t => match t with | .nan i => i | _ => false)
  let pinf := ts.any (fun t => t == .inf false)
  let ninf := ts.any (fun t => t == .inf true)
  if pinf && ninf then .nan true
  else if isNan then .nan inv
  else if pinf then .inf false
  else if ninf then .inf true
  else
    let x := ts.foldl (fun a t => match t with | .fin _ y => a.add y | _ => a) Dy.zero
    let allNegZero := ts.all (fun t => match t with | .fin n y => n && y.m == 0 | _ => false)
    let allPosZero := ts.all (fun t => match t with | .fin n y => !n && y.m == 0 | _ => false)
    .fin (if allNegZero then true else if allPosZero then false else if x.m == 0 then rdn else x.m < 0) x

/-- A term put through `Round` (R51, R57, R58). -/
def Fmt.ofTerm (f : Fmt) (mode : RM) (sat : Bool) (u : Nat) : Term → Coded
  | .nan i => (f.nan, flagIf (i || f.sp == .none) fInvalid)
  | .inf n => (match f.sp with
      | .ieee => (f.signed n f.inf, 0)
      | .e4m3 => (f.nan, fInvalid)
      | .none => (f.signed n f.maxCode, fInvalid))
  | .fin n x => f.roundDy mode sat u n x

/-- a + b (R57). -/
def Fmt.add (f : Fmt) (mode : RM) (sat : Bool) (u : Nat) (a b : Nat) : Coded :=
  f.ofTerm mode sat u (sumTerms (mode == .rdn) [(f.val a).term, (f.val b).term])

/-- The value with its sign inverted. -/
def Val.neg : Val → Val
  | .nan s => .nan s
  | .inf n => .inf (!n)
  | .fin n m e => .fin (!n) m e

def Fmt.sub (f : Fmt) (mode : RM) (sat : Bool) (u : Nat) (a b : Nat) : Coded :=
  f.ofTerm mode sat u (sumTerms (mode == .rdn) [(f.val a).term, (f.val b).neg.term])

def Fmt.mul (f : Fmt) (mode : RM) (sat : Bool) (u : Nat) (a b : Nat) : Coded :=
  f.ofTerm mode sat u (mulTerm (f.val a) (f.val b))

/-- a b + c, or a b - c, rounded once. An infinity times zero beside a quiet NaN c makes no NaN of operands that are not NaN,
so it raises nothing (R68, log entry 11). -/
def Fmt.fma (f : Fmt) (mode : RM) (sat : Bool) (u : Nat) (negC : Bool) (a b c : Nat) : Coded :=
  let vc := if negC then (f.val c).neg else f.val c
  let p := mulTerm (f.val a) (f.val b)
  match p, vc with
  | .nan i, .nan s =>
    let sigs := i && (f.val a == .nan true || f.val b == .nan true)
    (f.nan, flagIf (sigs || s) fInvalid)
  | _, _ => f.ofTerm mode sat u (sumTerms (mode == .rdn) [p, vc.term])

/-- a < b of ordered values; zeros are equal. -/
def Val.lt : Val → Val → Bool
  | .inf true, .inf true => false
  | .inf true, .nan _ => false
  | .inf true, _ => true
  | .inf false, _ => false
  | .fin _ _ _, .inf n => !n
  | .fin n m e, .fin k m' e' => (dy n m e).lt (dy k m' e')
  | _, _ => false

/-- a = b of ordered values. -/
def Val.eqv : Val → Val → Bool
  | .inf n, .inf k => n == k
  | .fin n m e, .fin k m' e' => (dy n m e).eq (dy k m' e')
  | _, _ => false

def Val.isNan : Val → Bool
  | .nan _ => true
  | _ => false
def Val.isSig : Val → Bool
  | .nan s => s
  | _ => false
def Val.neg? : Val → Bool
  | .nan _ => false
  | .inf n => n
  | .fin n _ _ => n
def Val.isZero : Val → Bool
  | .fin _ m _ => m == 0
  | _ => false

/-- The conditions of R94 and R119 on floats: the result and the invalid flag. -/
def Fmt.cmp (f : Fmt) (c : FCond) (a b : Nat) : Bool × BitVec 6 :=
  let x := f.val a
  let y := f.val b
  let un := x.isNan || y.isNan
  let sig := x.isSig || y.isSig
  match c with
  | .eq => (!un && x.eqv y, flagIf sig fInvalid)
  | .ne => (un || !x.eqv y, flagIf sig fInvalid)
  | .lt => (!un && x.lt y, flagIf un fInvalid)
  | .le => (!un && (x.lt y || x.eqv y), flagIf un fInvalid)
  | .gt => (!un && y.lt x, flagIf un fInvalid)
  | .ge => (!un && (y.lt x || x.eqv y), flagIf un fInvalid)
  | .un => (un, flagIf sig fInvalid)
  | .ord => (!un, flagIf sig fInvalid)

/-- `vmin` (less) and `vmax` on floats (R112): -0 below +0, a lone NaN ignored; the result is an operand. -/
def Fmt.minmax (f : Fmt) (isMax : Bool) (a b : Nat) : Coded :=
  let x := f.val a
  let y := f.val b
  let fl := flagIf (x.isSig || y.isSig) fInvalid
  if x.isNan && y.isNan then (f.nan, fl)
  else if x.isNan then (b, fl)
  else if y.isNan then (a, fl)
  else
    let aLess := x.lt y || (x.isZero && y.isZero && x.neg? && !y.neg?)
    (if aLess != isMax then a else b, fl)

/-! Integers (R47, R48). -/

/-- Minimum and maximum of an integer of width w. -/
def intMin (w : Nat) (sg : Bool) : Int := if sg then -(2 ^ (w - 1) : Nat) else 0
def intMax (w : Nat) (sg : Bool) : Int := if sg then (2 ^ (w - 1) : Nat) - 1 else (2 ^ w : Nat) - 1

/-- `Sat` to an integer format (R48). -/
def satInt (w : Nat) (sg : Bool) (x : Int) : Int := max (intMin w sg) (min x (intMax w sg))

/-- The value of a w-bit code. -/
def intVal (w : Nat) (sg : Bool) (x : Nat) : Int := if sg then signed w x else ((x % 2 ^ w : Nat) : Int)

/-- An exact integer result, wrapped or clamped to w bits. -/
def intCode (w : Nat) (sg sat : Bool) (x : Int) : Nat := wrap w (if sat then satInt w sg x else x)

/-- (-1)^neg m 2^e rounded to an integer, and whether it differs. -/
def roundInt (mode : RM) (u : Nat) (neg : Bool) (m : Nat) (e : Int) : Int × Bool :=
  let r := roundAt mode u neg m e 0
  (if neg then -(r.1 : Int) else r.1, r.2)

/-- `Convert` between two element types (R60). -/
def convert (d s : Ty) (mode : RM) (sat : Bool) (u : Nat) (x : Nat) : Coded :=
  match tyFmt s, tyFmt d with
  | some fs, some fd =>
    (match fs.val x with
    | .nan sig => (fd.nan, flagIf (sig || fd.sp == .none) fInvalid)
    | .inf n => (match fd.sp with
        | .ieee => (fd.signed n fd.inf, 0)
        | .e4m3 => (if sat then fd.signed n fd.maxCode else fd.nan, fInvalid)
        | .none => (fd.signed n fd.maxCode, fInvalid))
    | .fin n m e => fd.round mode sat u n m e)
  | some fs, none =>
    (match fs.val x with
    | .nan _ => (0, fInvalid)
    | .inf n => (wrap d.width (if n then intMin d.width d.signed else intMax d.width d.signed), fInvalid)
    | .fin n m e =>
      let r := roundInt mode u n m e
      let c := satInt d.width d.signed r.1
      (wrap d.width c, if c == r.1 then flagIf r.2 fInexact else fInvalid))
  | none, some fd =>
    let v := intVal s.width s.signed x
    fd.roundDy mode sat u false ⟨v, 0⟩
  | none, none => (intCode d.width d.signed sat (intVal s.width s.signed x), 0)

/-! The stochastic generator (R61). -/

/-- One step of the Galois shift register; the new state is what the draw returns. -/
def drawStep (s : BitVec 32) : BitVec 32 :=
  let t := s >>> 1
  if s.getLsbD 0 then t ^^^ 0x80200003#32 else t

/-- n draws, binary in the count so that long runs are shallow. -/
def drawMany (fuel n : Nat) (s : BitVec 32) : BitVec 32 :=
  match fuel with
  | 0 => s
  | k + 1 => if n ≤ 1 then (if n == 0 then s else drawStep s) else drawMany k (n - n / 2) (drawMany k (n / 2) s)

/-- The state after n draws. -/
def drawN (n : Nat) (s : BitVec 32) : BitVec 32 := drawMany 128 n s

/-- The 16 bits u of a draw that returned s (R62). -/
def drawBits (s : BitVec 32) : Nat := (s.extractLsb' 16 16).toNat

/-- The u of draw number n, counting from 1, of a generator at s. -/
def drawAt (s : BitVec 32) (n : Nat) : Nat := drawBits (drawN n s)

/-! MX blocks (R53 to R55). -/

/-- 2^(X - 127) of an E8M0 scale; none for NaN (R53). -/
def scaleDy (x : Nat) : Option Dy := if x == 255 then none else some ⟨1, (x : Int) - 127⟩

/-- An MX element's value: E4M3, E5M2 or E2M1 code, or INT8 in units of 2^-6 (R54). -/
def mxVal (f : MxFmt) (x : Nat) : Val :=
  match f with
  | .e4m3 => Fmt.e4m3.val x
  | .e5m2 => Fmt.e5m2.val x
  | .e2m1 => Fmt.e2m1.val x
  | .i8 => let v := signed 8 x; .fin (v < 0) v.natAbs (-6)

/-- Width of an MX element. -/
def mxWidth : MxFmt → Nat
  | .e2m1 => 4
  | _ => 8

def mxEmax : MxFmt → Int
  | .e4m3 => 8 | .e5m2 => 15 | .e2m1 => 2 | .i8 => 0

/-- The scale byte of a block of FP32 codes, and whether it is written as all NaN or all zero (R55, steps 1 to 3). -/
def mxScale (f : MxFmt) (vs : List Nat) : Nat × Bool × Bool :=
  let ws := vs.map Fmt.f32.val
  if ws.any (fun v => match v with | .fin _ _ _ => false | _ => true) then (255, true, false)
  else
    let top := ws.foldl (fun (a : Option Int) v => match v with
      | .fin _ m e => if m == 0 then a else
          let t : Int := e + Nat.log2 m
          match a with | some b => some (max b t) | none => some t
      | _ => a) none
    match top with
    | none => (0, false, true)
    | some t => ((max 0 (t - mxEmax f + 127)).toNat, false, false)

/-- Element i of R55, step 4, for the scale byte x: clamped whatever the saturate bit holds. -/
def mxElem (f : MxFmt) (mode : RM) (u : Nat) (x : Nat) (v : Nat) : Coded :=
  match Fmt.f32.val v with
  | .fin n m e =>
    let e' := e - ((x : Int) - 127)
    match f with
    | .e4m3 => Fmt.e4m3.round mode true u n m e'
    | .e5m2 => Fmt.e5m2.round mode true u n m e'
    | .e2m1 => Fmt.e2m1.round mode true u n m e'
    | .i8 =>
      let r := roundInt mode u n m (e' + 6)
      if r.1.natAbs > 127 then (wrap 8 (if n then -127 else 127), fOverflow ||| fInexact)
      else (wrap 8 r.1, flagIf r.2 fInexact)
  | _ => (0, 0)

/-- An MX element with its scale byte as a term of a group (R66): a NaN scale makes NaN and sets invalid. -/
def mxTimes (f : MxFmt) (x : Nat) (scale : Nat) : Val :=
  if scale == 255 then .nan true
  else match mxVal f x with
    | .fin n m e => .fin n m (e + (scale : Int) - 127)
    | v => v

/-- `vdeq` of one element (R125). -/
def mxDequant (f : MxFmt) (mode : RM) (sat : Bool) (u x scale : Nat) : Coded :=
  Fmt.f32.ofTerm mode sat u (mxTimes f x scale).term

/-! The array's arithmetic (R65, R66). -/

/-- One group of a floating-point product: the accumulator's code and the factor pairs; rounded once under `rne`. -/
def groupFloat (f : Fmt) (acc : Nat) (ps : List (Val × Val)) : Coded :=
  f.ofTerm .rne false 0 (sumTerms false ((f.val acc).term :: ps.map (fun p => mulTerm p.1 p.2)))

/-- One group of an integer product into INT32 (R145). -/
def groupInt (sat : Bool) (acc : Nat) (ps : List (Int × Int)) : Nat :=
  intCode 32 true sat (ps.foldl (fun a p => a + p.1 * p.2) (signed 32 acc))

/-- The nearest integer to n / 2^s, ties to even. -/
def nearestShift (n : Int) (s : Nat) : Int :=
  let q := n / (2 ^ s : Nat)
  let r := n % (2 ^ s : Nat)
  if 2 * r > (2 ^ s : Nat) || (2 * r == (2 ^ s : Nat) && q % 2 == 1) then q + 1 else q

/-- R151: requantisation of a tile element. -/
def requant (w : Nat) (sg : Bool) (x m : Int) (s : Nat) (z lo hi : Int) : Int :=
  let t := nearestShift (x * m) (31 + s) + z
  satInt w sg (min (max t lo) hi)

/-! Exact reduction (R73 to R76). -/

def accMax : Int := (2 ^ 95 : Nat) - 1

/-- One contribution (R74): a code of FP32, BF16 or FP16 with its poison. -/
def Acc.contribute (a : Acc) (f : Fmt) (x : Nat) (poison : Bool) : Acc :=
  let c := if a.count + 1 ≥ 2 ^ 32 then 2 ^ 32 - 1 else a.count + 1
  let st := if a.count + 1 ≥ 2 ^ 32 then a.status ||| 32 else a.status
  if poison then { a with status := st ||| 16, count := c }
  else match f.val x with
    | .nan _ => { a with status := st ||| 2, count := c }
    | .inf n => { a with status := st ||| (if n then 8 else 4), count := c }
    | .fin n m e =>
      let k := (roundInt .rne 0 n m (e - a.anchor)).1
      if k.natAbs > accMax.toNat then
        { a with t := a.t + (if k < 0 then -accMax else accMax), status := st ||| 1, count := c }
      else { a with t := a.t + k, status := st, count := c }

/-- Readout (R75, R76): code, flags, poison, and the accumulator with sat set where the total is out of range. An out-of-range total that
is tiny in the format at a low anchor raises underflow beside the flags of its row, as R59 has it (log entry 98). -/
def Acc.readout (a : Acc) (f : Fmt) : Coded × Bool × Acc :=
  let p := a.status.getLsbD 4
  let a := if a.t.natAbs > accMax.toNat then { a with status := a.status ||| 1 } else a
  if a.status.getLsbD 5 || a.status.getLsbD 1 || (a.status.getLsbD 2 && a.status.getLsbD 3) then
    ((f.nan, fInvalid), p, a)
  else if a.status.getLsbD 2 then ((f.signed false f.inf, 0), p, a)
  else if a.status.getLsbD 3 then ((f.signed true f.inf, 0), p, a)
  else if a.t.natAbs > accMax.toNat then
    let c := f.roundDy .rne false 0 false ⟨if a.t < 0 then -accMax else accMax, a.anchor⟩
    ((c.1, c.2 ||| fOverflow ||| fInexact), p, a)
  else (f.roundDy .rne false 0 false ⟨a.t, a.anchor⟩, p, a)

/-- `redf.open` (R199). -/
def Acc.open (anchor : Int) : Acc := { t := 0, status := 0, anchor := anchor, count := 0 }

/-- The reset that `.fin` makes: the anchor stays (R199). -/
def Acc.finish (a : Acc) : Acc := { a with t := 0, status := 0, count := 0 }

/-! Special functions (R126, R127). -/

/-- The integer square root, by bits. -/
def isqrtLoop : Nat → Nat → Nat → Nat
  | 0, _, r => r
  | k + 1, n, r => let t := r + 2 ^ k; isqrtLoop k n (if t * t ≤ n then t else r)
/-- Floor of the square root of n. -/
def isqrt (n : Nat) : Nat := isqrtLoop (Nat.log2 n / 2 + 1) n 0

/-- √(m 2^e) as a magnitude with a sticky last bit, precise beyond FP64. -/
def sqrtMag (m : Nat) (e : Int) : Nat × Int :=
  let k : Nat := 140
  let e1 := if (e - k) % 2 == 0 then k else k + 1
  let n := m * 2 ^ e1
  let r := isqrt n
  (2 * r + (if r * r == n then 0 else 1), (e - e1) / 2 - 1)

/-- 1 / (m 2^e) as a magnitude with a sticky last bit. -/
def rcpMag (m : Nat) (e : Int) : Nat × Int :=
  let k := 140 + Nat.log2 m
  let q := 2 ^ k / m
  (2 * q + (if q * m == 2 ^ k then 0 else 1), -e - k - 1)

/-- 1 / √(m 2^e) as a magnitude with a sticky last bit. -/
def rsqMag (m : Nat) (e : Int) : Nat × Int :=
  let e1 : Nat := if e % 2 == 0 then 0 else 1
  let m' := m * 2 ^ e1
  let k := 2 * (140 + Nat.log2 m')
  let q := 2 ^ k / m'
  let r := isqrt q
  (2 * r + (if r * r * m' == 2 ^ k then 0 else 1), -((e - e1) / 2) - k / 2 - 1)

/-- Bits of the fixed-point numbers below. -/
def fxBits : Nat := 160
/-- ln 2 in fixed point of 160 bits. -/
def fxLn2 : Nat := 1013035739299659071135698605846798551586536899366
/-- log2 e in fixed point of 160 bits. -/
def fxLog2e : Nat := 2108501164428393954197770173035669514763056903505

/-- The sum 1 + t + t²/2! + ... for t below 1 in fixed point. -/
def fxExpLoop : Nat → Nat → Nat → Nat → Nat → Nat
  | 0, _, _, _, acc => acc
  | k + 1, i, t, term, acc =>
    let term' := term * t / 2 ^ fxBits / i
    fxExpLoop k (i + 1) t term' (acc + term')
/-- 2^f for f in [0, 1) in fixed point. -/
def fxExp2 (f : Nat) : Nat :=
  let t := f * fxLn2 / 2 ^ fxBits
  fxExpLoop 60 1 t (2 ^ fxBits) (2 ^ fxBits)

/-- The binary digits of log2 y for y in [1, 2) in fixed point, k of them. -/
def fxLog2Loop : Nat → Nat → Nat → Nat
  | 0, _, acc => acc
  | k + 1, y, acc =>
    let y2 := y * y / 2 ^ fxBits
    if y2 ≥ 2 ^ (fxBits + 1) then fxLog2Loop k (y2 / 2) (2 * acc + 1) else fxLog2Loop k y2 (2 * acc)

/-- 2^x for x = (-1)^neg m 2^e that is no integer, as a magnitude with sticky; x of 2^-60 or less in size gives a value next
to 1. -/
def exp2Mag (neg : Bool) (m : Nat) (e : Int) : Nat × Int :=
  if e + Nat.log2 m < -60 then
    (if neg then (2 ^ 100 - 1, -100) else (2 ^ 100 + 1, -100))
  else if e + Nat.log2 m > 12 then (if neg then (1, -5000) else (1, 5000))
  else
    let x : Int := if e ≥ 0 then m * 2 ^ (e.toNat + fxBits) else m * 2 ^ fxBits / 2 ^ (-e).toNat
    let x := if neg then -x else x
    let n := x / (2 ^ fxBits : Nat)
    let f := (x % (2 ^ fxBits : Nat)).toNat
    (2 * fxExp2 f + 1, n - fxBits - 1)

/-- log2 of m 2^e, no power of two: its sign and a magnitude with sticky. -/
def log2Mag (m : Nat) (e : Int) : Bool × Nat × Int :=
  let l := Nat.log2 m
  let y := m * 2 ^ fxBits / 2 ^ l
  let d := fxLog2Loop 120 y 0
  let x : Int := (e + l) * (2 ^ 120 : Nat) + d
  (x < 0, 2 * x.natAbs + 1, -121)

/-- tanh of the magnitude m 2^e: small arguments by their series, large ones next below 1. -/
def tanhMag (m : Nat) (e : Int) : Nat × Int :=
  let top := e + Nat.log2 m
  if top < -40 then (m * 2 ^ 60 - 1, e - 60)
  else if top > 6 then (2 ^ 100 - 1, -100)
  else
    let x : Nat := if e ≥ 0 then m * 2 ^ (e.toNat + fxBits) else m * 2 ^ fxBits / 2 ^ (-e).toNat
    if top < -10 then
      let x2 := x * x / 2 ^ fxBits
      let x3 := x2 * x / 2 ^ fxBits
      let x5 := x3 * x2 / 2 ^ fxBits
      let x7 := x5 * x2 / 2 ^ fxBits
      let x9 := x7 * x2 / 2 ^ fxBits
      (x + 2 * x5 / 15 + 62 * x9 / 2835 - x3 / 3 - 17 * x7 / 315, -fxBits)
    else
      let y := 2 * x * fxLog2e / 2 ^ fxBits
      let n := y / 2 ^ fxBits
      let p := fxExp2 (y % 2 ^ fxBits) * 2 ^ n
      (2 * ((p - 2 ^ fxBits) * 2 ^ fxBits / (p + 2 ^ fxBits)) + 1, -fxBits - 1)

/-- FP32 of a magnitude that is bounded and not fixed: k places above the value next below it, but no second place past a power of two,
where places are twice as wide. Flags as R126 has them for an inexact result. -/
def nearBy (sat neg : Bool) (m : Nat) (e : Int) (k : Int) : Coded :=
  let lo := Fmt.f32.round .rtz sat 0 false m e
  let k := if k == 2 && (lo.1 + 1) % 2 ^ 23 == 0 then 1 else k
  let c := ((lo.1 : Int) + k).toNat
  if lo.2 &&& fOverflow != 0 || c ≥ Fmt.f32.inf then
    (Fmt.f32.overflow .rne sat neg, fOverflow ||| fInexact)
  else (Fmt.f32.signed neg c, flagIf (c < 2 ^ 23) fUnderflow ||| fInexact)

/-- The last-place offset of a two-ulp function: -1, 0, 1 or 2 from the value next below the true one. -/
def specialOffset (fn ty : Nat) (x : Nat) : Int := ((Config.special fn ty (BitVec.ofNat 64 x)).toNat % 4 : Nat) - 1

/-- The FP32 result of a special function on an exact operand, fn 0 to 5 in the order of R126. -/
def specialF32 (fn : Nat) (sat : Bool) (mode : RM) (u : Nat) (x : Nat) (v : Val) : Coded :=
  let f := Fmt.f32
  match v with
  | .nan sig => (f.nan, flagIf sig fInvalid)
  | .inf n => (match fn, n with
      | 0, n => (f.signed n 0, 0)
      | 1, false => (0, 0)
      | 1, true => (f.nan, fInvalid)
      | 2, false => (f.inf, 0)
      | 2, true => (f.nan, fInvalid)
      | 3, false => (f.inf, 0)
      | 3, true => (0, 0)
      | 4, false => (f.inf, 0)
      | 4, true => (f.nan, fInvalid)
      | _, n => (f.signed n 0x3F800000, 0))
  | .fin n m e =>
    if m == 0 then (match fn with
      | 0 | 1 => (f.signed n f.inf, fDivzero)
      | 2 | 5 => (f.signed n 0, 0)
      | 3 => (0x3F800000, 0)
      | _ => (f.signed true f.inf, fDivzero))
    else match fn with
      | 0 =>
        let r := rcpMag m e
        if r.1 % 2 == 0 then f.round .rne sat 0 n r.1 r.2
        else nearBy sat n r.1 r.2 (if Config.upper 0 (BitVec.ofNat 64 x) then 1 else 0)
      | 1 =>
        if n then (f.nan, fInvalid)
        else
          let r := rsqMag m e
          if r.1 % 2 == 0 then f.round .rne sat 0 false r.1 r.2
          else nearBy sat false r.1 r.2 (if Config.upper 1 (BitVec.ofNat 64 x) then 1 else 0)
      | 2 =>
        if n then (f.nan, fInvalid)
        else let r := sqrtMag m e; f.round mode sat u false r.1 r.2
      | 3 =>
        let whole := e ≥ 0 || m % 2 ^ (-e).toNat == 0
        if whole then
          let k : Int := if e ≥ 0 then m * 2 ^ (min e 16).toNat else (m / 2 ^ (-e).toNat : Nat)
          f.round .rne sat 0 false 1 (max (-5000) (min 5000 (if n then -k else k)))
        else
          let r := exp2Mag n m e
          nearBy sat false r.1 r.2 (specialOffset 3 0 x)
      | 4 =>
        if n then (f.nan, fInvalid)
        else if m == 2 ^ Nat.log2 m then f.roundDy .rne sat 0 false ⟨e + Nat.log2 m, 0⟩
        else let r := log2Mag m e; nearBy sat r.1 r.2.1 r.2.2 (specialOffset 4 0 x)
      | _ => let r := tanhMag m e; nearBy sat n r.1 r.2 (specialOffset 5 0 x)

/-- A special function on an element of type t (R126): a 16-bit result is the FP32 result of the same operand, as an FP32 code, rounded to
t under `rne`; the FP32 result of `vsqrt` is the one rounded under its mode. -/
def special (fn : Nat) (t : Ty) (mode : RM) (sat : Bool) (u : Nat) (x : Nat) : Coded :=
  match tyFmt t with
  | none => (0, 0)
  | some f =>
    if t == .f32 then specialF32 fn sat mode u x (f.val x)
    else
      let r := specialF32 fn sat mode u (convert .f32 t .rne false 0 x).1 (f.val x)
      let c := convert t .f32 .rne sat 0 r.1
      (c.1, c.2 ||| r.2)

end Sys2Proof.Machine
end

