-- ==== Sys2Proof/Machine/Memory.lean ====
section
/-! DEFINITION. Tables, memory and the pieces of State: reading and writing one entry of a table, one byte and runs of
bytes of a memory in its canonical form, and the parts of the machine by number. -/

namespace Sys2Proof.Machine

/-! Tables. -/

/-- The item under key k. -/
def tget {α : Type} (t : Tbl α) (k : Nat) : Option α :=
  match t with
  | [] => none
  | (i, a) :: r => if i = k then some a else tget r k

/-- The table with a under key k, keys in rising order. -/
def tput {α : Type} (t : Tbl α) (k : Nat) (a : α) : Tbl α :=
  match t with
  | [] => [(k, a)]
  | (i, b) :: r => if k < i then (k, a) :: (i, b) :: r else if i = k then (k, a) :: r else (i, b) :: tput r k a

/-- The table without key k. -/
def tdel {α : Type} (t : Tbl α) (k : Nat) : Tbl α := t.filter (fun e => e.1 != k)

/-! Memory (R10): an unlisted byte is 0 (log entry 8). -/

/-- The byte at an address. -/
def memGet (m : Mem) (a : Nat) : Byte :=
  match m with
  | [] => 0
  | (i, b) :: r => if i = a then b else memGet r a

/-- Insert a byte that is not 0. -/
def memIns (m : Mem) (a : Nat) (b : Byte) : Mem :=
  match m with
  | [] => [(a, b)]
  | (i, c) :: r => if a < i then (a, b) :: (i, c) :: r else if i = a then (a, b) :: r else (i, c) :: memIns r a b

/-- Write a byte, keeping the canonical form: writing what an unlisted byte reads as removes the entry. -/
def memPut (m : Mem) (a : Nat) (b : Byte) : Mem :=
  if b = 0 then m.filter (fun c => c.1 != a) else memIns m a b

/-- The canonical form: addresses strictly rising, no entry 0. -/
def Memory.wf : Mem → Bool
  | [] => true
  | [(_, b)] => b != 0
  | (a, b) :: (a', b') :: r => b != 0 && decide (a < a') && Memory.wf ((a', b') :: r)

/-- n bytes from an address upward. -/
def readBytes (m : Mem) (a n : Nat) : List Byte := (List.range n).map (fun i => memGet m (a + i))

/-- Write bytes from an address upward. -/
def writeBytes (m : Mem) (a : Nat) : List Byte → Mem
  | [] => m
  | b :: bs => writeBytes (memPut m a b) (a + 1) bs

/-- The little-endian value of bytes (R10). -/
def ofBytes : List Byte → Nat
  | [] => 0
  | b :: bs => b.toNat + 256 * ofBytes bs

/-- The low n bytes of a value, little-endian. -/
def toBytes : Nat → Nat → List Byte
  | 0, _ => []
  | n + 1, v => BitVec.ofNat 8 v :: toBytes n (v / 256)

/-- The little-endian value of n bytes at an address. -/
def readNat (m : Mem) (a n : Nat) : Nat := ofBytes (readBytes m a n)

/-- n bytes of a memory from 0 upward, in one pass. -/
def denseFrom : Nat → Nat → Mem → List Byte
  | 0, _, _ => []
  | k + 1, i, [] => 0 :: denseFrom k (i + 1) []
  | k + 1, i, (a, b) :: m => if a == i then b :: denseFrom k (i + 1) m else 0 :: denseFrom k (i + 1) ((a, b) :: m)
def dense (m : Mem) (n : Nat) : List Byte := denseFrom n 0 m

/-! Parts of the machine by number. -/

def State.strand (s : State) (n : Nat) : Strand := (tget s.strands n).getD Strand.reset
def State.core (s : State) (c : Nat) : Core := (tget s.cores c).getD Core.reset
def State.nmu (s : State) (u : Nat) : Nmu := (tget s.nmus u).getD Nmu.reset
def State.setStrand (s : State) (n : Nat) (t : Strand) : State := { s with strands := tput s.strands n t }
def State.setCore (s : State) (c : Nat) (x : Core) : State := { s with cores := tput s.cores c x }
def State.setNmu (s : State) (u : Nat) (x : Nmu) : State := { s with nmus := tput s.nmus u x }
def State.modStrand (s : State) (n : Nat) (f : Strand → Strand) : State := s.setStrand n (f (s.strand n))
def State.modCore (s : State) (c : Nat) (f : Core → Core) : State := s.setCore c (f (s.core c))
def State.modNmu (s : State) (u : Nat) (f : Nmu → Nmu) : State := s.setNmu u (f (s.nmu u))

/-- The strand an instruction acts for. -/
def State.me (s : State) : Strand := s.strand s.cur
def State.setMe (s : State) (t : Strand) : State := s.setStrand s.cur t
/-- The core of a strand (R6). -/
def coreOf (n : Nat) : Nat := n / 2
/-- The other strand of its core. -/
def otherOf (n : Nat) : Nat := if n % 2 == 0 then n + 1 else n - 1
/-- The die of a core (R5). -/
def dieOf (c : Nat) : Nat := c / 72
/-- The cluster of a core (R5). -/
def clusterOf (c : Nat) : Nat := c / 8

/-- Strands, cores, units of the package (R1). -/
def numStrands : Nat := 288
def numCores : Nat := 144
def numNmus : Nat := 128

/-- The kernel with a number. -/
def State.kernel (s : State) (k : Nat) : Option Kernel := s.d.kernels.find? (fun x => x.id == k)
def State.setKernel (s : State) (k : Kernel) : State :=
  { s with d := { s.d with kernels := s.d.kernels.map (fun x => if x.id == k.id then k else x) } }

/-- A fresh running number. -/
def State.take (s : State) : Nat × State := (s.fresh, { s with fresh := s.fresh + 1 })

/-! Management registers (R470). -/

/-- Reset values that are not 0. -/
def mgReset (off : Nat) : Word :=
  if off = 0x1000 then 6
  else if off = 0x1008 then 2900
  else if 0x2000 ≤ off && off < 0x2040 then 0x00000C80A0000000
  else if 0x2100 ≤ off && off < 0x2140 then 4
  else if 0x3000 ≤ off && off < 0x3000 + 8 * 144 then 0xFFFFFFFF
  else if 0x4000 ≤ off && off < 0x4000 + 8 * 144 then 512
  else if off = 0 then 0x4512000000000000 ||| (Config.ident.zeroExtend 64)
  else 0

def State.mgr (s : State) (off : Nat) : Word := (tget s.mg off).getD (mgReset off)
def State.setMgr (s : State) (off : Nat) (v : Word) : State := { s with mg := tput s.mg off v }

/-- A bit range of a word, as a number. -/
def wbits (w : Word) (hi lo : Nat) : Nat := bits w.toNat hi lo
def wbit (w : Word) (n : Nat) : Bool := w.getLsbD n

end Sys2Proof.Machine
end

