-- ==== Sys2Proof/Machine/Homes.lean ====
section
/-! DEFINITION. The homes of memory: interleave zones and the place of a device physical address (R410 to R415), regions and
access tables (R479), the on-chip map (R313), device memory under its error code (R427 to R430), scratchpads with their
marks and live lines (R356, R358), host and peer memory, waiters at a word (R201), and the order in which requests on their
way may be performed (R325 to R329). -/

namespace Sys2Proof.Machine

/-! Zones (R411, R414). -/

structure Zone where
  mode : Nat
  zbase : Nat
  pc0 : Nat
  npc : Nat
  d : Nat
  lbase : Nat
  deriving DecidableEq, Repr

def Zone.size (z : Zone) : Nat := z.npc * (2 ^ 21 * z.d)

/-- The valid zone z of the zone table. -/
def State.zone (s : State) (z : Nat) : Option Zone :=
  let w0 := s.mgr (0x5000 + 16 * z)
  let w1 := s.mgr (0x5008 + 16 * z)
  if wbit w0 63 then
    some { mode := wbits w0 62 61, zbase := wbits w0 38 21 * 2 ^ 21, pc0 := wbits w1 47 39, npc := wbits w1 38 30 + 1,
           d := wbits w1 29 20, lbase := wbits w1 9 0 }
  else none

/-- Whether a span of device memory lies wholly in zone z. -/
def State.inZone (s : State) (z pa len : Nat) : Bool :=
  match s.zone z with
  | none => false
  | some q => q.zbase ≤ pa && pa + len ≤ q.zbase + q.size

/-- The zone that holds an address. -/
def State.zoneOf (s : State) (pa : Nat) : Option Zone :=
  ((List.range 16).filterMap (fun z => s.zone z)).find? (fun q => q.zbase ≤ pa && pa < q.zbase + q.size)

/-- Where an address lies: stack, channel, pseudo-channel, local address (R414). -/
structure Place where
  stack : Nat
  ch : Nat
  pch : Nat
  l : Nat
  deriving DecidableEq, Repr

def fold9 (t : Nat) : Nat := bits t 8 0 ^^^ bits t 17 9 ^^^ bits t 26 18

def Zone.locate (z : Zone) (pa : Nat) : Place :=
  let o := pa - z.zbase
  let dd := 2 ^ 21 * z.d
  let gi := o / 256
  let l (t : Nat) : Nat := 2 ^ 21 * z.lbase + 256 * t + o % 256
  match z.mode with
  | 0 =>
    let t := gi / 512
    let q := (gi % 512) ^^^ fold9 t
    ⟨bits q 2 0, bits q 7 3, bits q 8 8, l t⟩
  | 1 =>
    let t := gi / 64
    let q := gi % 64
    ⟨z.pc0 / 64, bits q 4 0, bits q 5 5, l t⟩
  | 2 =>
    let t := gi / 4
    let q := gi % 4
    ⟨z.pc0 / 64, (z.pc0 % 64) / 2 + bits q 1 1, bits q 0 0, l t⟩
  | _ =>
    let p := z.pc0 + o / dd
    ⟨p / 64, (p % 64) / 2, p % 2, 2 ^ 21 * z.lbase + o % dd⟩

/-- Bank group, bank within it, row. -/
def Place.bg (p : Place) : Nat := bits p.l 11 10 ^^^ bits p.l 21 20
def Place.bk (p : Place) : Nat := bits p.l 13 12 ^^^ bits p.l 23 22
def Place.row (p : Place) : Nat := bits p.l 29 14
/-- The package number of the pseudo-channel (R7). -/
def Place.pc (p : Place) : Nat := 64 * p.stack + 2 * p.ch + p.pch
/-- The package number of the bank: sixteen to a pseudo-channel. -/
def Place.bank (p : Place) : Nat := 16 * p.pc + 4 * p.bg + p.bk
/-- The NMU that is the home (R415). -/
def Place.nmu (p : Place) : Nat := 16 * p.stack + p.ch / 2

/-- The place of a device physical address. -/
def State.place (s : State) (pa : Nat) : Option Place := (s.zoneOf pa).map (fun z => z.locate pa)

/-! Access tables (R319, R479). -/

/-- A master that has been granted nothing. -/
def MasterRow.none : MasterRow := { regR := 0, regW := 0, sram := [], sp := [], nmu := [], mgR := false, host := [] }

def State.master (s : State) (m : Nat) : MasterRow := (tget s.acl m).getD MasterRow.none

/-- The region that holds an address. -/
def State.region (s : State) (pa : Nat) : Option Nat :=
  (List.range 64).find? (fun r =>
    let w := s.mgr (0x5200 + 8 * r)
    wbit w 63 && wbits w 38 21 * 2 ^ 21 ≤ pa && pa < wbits w 38 21 * 2 ^ 21 + (wbits w 57 40 + 1) * 2 ^ 21)

/-- Device memory: a zone holds the address (R413) and the master's mask has its region's bit. -/
def State.dramOk (s : State) (m : Nat) (wr : Bool) (pa : Nat) : Bool :=
  (s.zoneOf pa).isSome &&
  (match s.region pa with
   | none => false
   | some r => if wr then (s.master m).regW.getLsbD r else (s.master m).regR.getLsbD r)

/-- Host window: some span of the master grants the whole access. -/
def State.hostOk (s : State) (m : Nat) (wr : Bool) (pa len : Nat) : Bool :=
  (s.master m).host.any (fun e => e.1 ≤ pa && pa + len ≤ e.1 + e.2.1 && (if wr then e.2.2.2 else e.2.2.1))

/-- Reductions and launches at an NMU: bit 0 read, 1 write, 2 launch. -/
def State.nmuOk (s : State) (m u b : Nat) : Bool := ((tget (s.master m).nmu u).getD 0).getLsbD b

/-- Peer memory: the peer is in the table and a port of its mask works (R474). -/
def State.peerOk (s : State) (p : Nat) : Bool :=
  let w := readNat s.dram ((s.mgr 0x118).toNat + 16 * p) 8
  s.mgr 0x118 != 0 && bit w 63 && (BitVec.ofNat 18 (bits w 49 32) &&& s.ports) != 0

/-! The on-chip map (R313). -/

/-- What a global offset names. -/
inductive Target where
  | sp (core : Nat) (off : Nat)
  | sram (c : Nat) (off : Nat)
  | none
  deriving DecidableEq, Repr

def target (o : Nat) : Target :=
  if o < 0x24000000 then .sp (o / 0x400000) (o % 0x400000)
  else if o < 0x36000000 then .sram ((o - 0x24000000) / 0x1000000) ((o - 0x24000000) % 0x1000000)
  else .none

/-- The global offset of a core's scratchpad byte (R314). -/
def spBase (c : Nat) : Nat := 0x400000 * c

/-- The scratchpad bank of a local offset (R315). -/
def bankOf (off : Nat) : Nat := off / 0x20000 % 32

/-- The allotment of a strand's kernel (R279). -/
def State.spmask (s : State) (n : Nat) : BitVec 32 :=
  match s.kernel (s.strand n).kernel with
  | some k => k.spmask
  | none => 0

/-- A kernel of the ASID is resident on a core, from its placement there to its end, and its allotment holds the bank (R279, R319,
R320): the end of a strand of it changes nothing. -/
def State.resident (s : State) (c : Nat) (asid : BitVec 16) (bank : Nat) : Bool :=
  s.d.kernels.any (fun k => k.asid == asid && (match k.evict with | .saved _ _ => false | _ => true) &&
    k.placed.any (fun n => coreOf n == c) && k.spmask.getLsbD bank)

/-- On-chip memory as R319 checks it, for strand n (window S) of a master. -/
def State.chipOk (s : State) (m n : Nat) (asid : BitVec 16) (wr : Bool) (o : Nat) : Bool :=
  match target o with
  | .none => false
  | .sram c _ => ((tget (s.master m).sram c).getD 0).getLsbD (if wr then 1 else 0)
  | .sp c off =>
    if c == coreOf n then (s.spmask n).getLsbD (bankOf off)
    else s.resident c asid (bankOf off) && ((tget (s.master m).sp c).getD 0).getLsbD (if wr then 1 else 0)

/-! Device memory under its error code (R427 to R430). -/

/-- An entry of the driver's fault log: a request of kind 5 (R471). -/
def State.tellDriver (s : State) (src detail addr : Word) : State :=
  { s with asks := s.asks ++ [{ kind := 5, a := src, b := detail, tag := addr.toNat, sent := false, bar := 0 }] }

/-- Report to the service firmware; an error report (source 430) goes to the driver too in host-assisted scrubbing (R430, R471, R472). -/
def State.report (s : State) (src detail addr : Nat) : State :=
  let e : Word × Word × Word := (BitVec.ofNat 64 src, BitVec.ofNat 64 detail, BitVec.ofNat 64 addr)
  let s1 := { s with log := s.log ++ [e] }
  if src == 430 && !wbit (s.mgr 0x1000) 2 then s1.tellDriver e.1 e.2.1 e.2.2 else s1

/-- The wrong symbols of a line. -/
def State.wrong (s : State) (line : Nat) : List (Nat × BitVec 16) :=
  (s.m.flips.filter (fun f => f.1 == line)).map (fun f => f.2)

def State.clearFlips (s : State) (line : Nat) : State :=
  { s with m := { s.m with flips := s.m.flips.filter (fun f => f.1 != line) } }

def State.carried (s : State) (line : Nat) : Bool := s.m.carried.contains line

def State.setCarried (s : State) (line : Nat) (on : Bool) : State :=
  { s with m := { s.m with carried := if on then (if s.m.carried.contains line then s.m.carried else line :: s.m.carried)
                                      else s.m.carried.filter (fun l => l != line) } }

/-- Put the wrong bits of a line into its data: its bits as read. -/
def State.takeBits (s : State) (line : Nat) : State :=
  let d := (s.wrong line).foldl (fun (m : Mem) f =>
    if f.1 < 32 then
      let a := 64 * line + 2 * f.1
      writeBytes m a (toBytes 2 (readNat m a 2 ^^^ f.2.toNat))
    else m) s.dram
  { s with dram := d }.clearFlips line

/-- The 36 symbols of a line as read (R427): 32 data symbols, the tag symbol, and the check symbols that the code gives them, each
with its error. -/
def State.symbols (s : State) (line : Nat) : List (BitVec 16) :=
  let pat (i : Nat) : BitVec 16 := (((s.wrong line).find? (fun f => f.1 == i)).map (fun f => f.2)).getD 0
  let word := (List.range 32).map (fun i => BitVec.ofNat 16 (readNat s.dram (64 * line + 2 * i) 2)) ++ [if s.carried line then 1 else 0]
  let check := (List.range 3).map (fun j => Config.eccCheck j word)
  ((word ++ check).zip (List.range 36)).map (fun e => e.1 ^^^ pat e.2)

/-- Lines corrected in one patrol pass that pass the limits: 4, or as expert control sets for the stack (R430, R472). -/
def State.errLimit (s : State) (line : Nat) : Nat :=
  match s.place (64 * line) with
  | some p => if wbit (s.mgr 0x1000) 11 then (s.mgr (0x2100 + 8 * p.stack)).toNat else 4
  | none => 4

/-- Count of errors of a 64 KiB granule: fresh uncorrectable errors, lines corrected; the granule that passes the limits is reported
(detail 2), for its retirement (R430). -/
def State.countError (s : State) (line : Nat) (fresh : Bool) : State :=
  let g := line / 1024
  let e := (tget s.m.errs g).getD (0, [])
  let e' := if fresh then (e.1 + 1, e.2) else (e.1, if e.2.contains line then e.2 else line :: e.2)
  let s1 := { s with m := { s.m with errs := tput s.m.errs g e' } }
  let limit := s.errLimit line
  if (e.1 == 0 && e.2.length < limit) && (e'.1 != 0 || limit ≤ e'.2.length) then s1.report 430 2 (2 ^ 16 * g) else s1

/-- Read a line as R427 has it and rewrite it as R428 has it: the new state, and whether the data is delivered poisoned. -/
def State.readLine (s : State) (line : Nat) : State × Bool :=
  let ws := (s.wrong line).filter (fun f => f.2 != 0)
  let bad (s : State) : State × Bool :=
    if s.carried line then (s.takeBits line, true)
    else (((s.takeBits line).setCarried line true |>.countError line true).report 430 1 (64 * line), true)
  match ws.length with
  | 0 => (s, s.carried line)
  | 1 => (((s.clearFlips line).countError line false).report 430 0 (64 * line), s.carried line)
  | 2 => bad s
  | _ =>
    match Config.eccMany (s.symbols line) with
    | none => bad s
    | some d => ((({ s with dram := writeBytes s.dram (64 * line) (toBytes 64 d.toNat) }).clearFlips line).setCarried line false,
                 false)

/-- The lines that n bytes at an address touch. -/
def linesOf (pa n : Nat) : List Nat :=
  if n == 0 then [] else (List.range ((pa + n - 1) / 64 - pa / 64 + 1)).map (fun i => pa / 64 + i)

/-- Read each line of a span; the lines that delivered poison. -/
def State.readLines (s : State) : List Nat → State × List Nat
  | [] => (s, [])
  | l :: ls =>
    let r := s.readLine l
    let q := r.1.readLines ls
    (q.1, if r.2 then l :: q.2 else q.2)

/-- n bytes of device memory and the offsets of those that are poisoned. -/
def State.readDram (s : State) (pa n : Nat) : State × List Byte × List Nat :=
  let r := s.readLines (linesOf pa n)
  (r.1, readBytes r.1.dram pa n, if r.2.isEmpty then [] else (List.range n).filter (fun i => r.2.contains ((pa + i) / 64)))

/-- Store bytes: a whole line clears its carried poison unless the data is poisoned; a part is merged with the line (R428). -/
def State.writeDram (s : State) (pa : Nat) (bs : List Byte) (poison : Bool) : State :=
  let n := bs.length
  let s1 := (linesOf pa n).foldl (fun (s : State) l =>
    if pa ≤ 64 * l && 64 * l + 64 ≤ pa + n then (s.clearFlips l).setCarried l poison
    else
      let r := s.readLine l
      if poison then r.1.setCarried l true else r.1) s
  { s1 with dram := writeBytes s1.dram pa bs }

/-! Scratchpads and cluster SRAM (R356, R358). -/

/-- Bits in a 32,768-bit set of lines. -/
def setBits (b : BitVec 32768) (lo n : Nat) (on : Bool) : BitVec 32768 :=
  let m := BitVec.ofNat 32768 ((2 ^ n - 1) * 2 ^ lo)
  if on then b ||| m else b &&& ~~~m

/-- The marked 8-byte words among n bytes at a local offset: offsets that are poisoned. -/
def Core.poisonAt (c : Core) (off n : Nat) : List Nat :=
  if c.marked.isEmpty then [] else (List.range n).filter (fun i => c.marked.contains ((off + i) / 8))

/-- n bytes of on-chip memory at a global offset, and the offsets of those that are poisoned. -/
def State.readChip (s : State) (o n : Nat) : List Byte × List Nat :=
  (readBytes s.chip o n,
   match target o with
   | .sp c off => (s.core c).poisonAt off n
   | _ => [])

/-- The marks a write of n bytes at a local offset clears are those of words it covers whole. -/
def Core.written (c : Core) (off n : Nat) : Core :=
  { c with
    live := setBits c.live (off / 128) (if n == 0 then 0 else (off + n - 1) / 128 - off / 128 + 1) true
    marked := if c.marked.isEmpty then [] else c.marked.filter (fun w => !(off ≤ 8 * w && 8 * w + 8 ≤ off + n)) }

def State.writeChip (s : State) (o : Nat) (bs : List Byte) : State :=
  let s := { s with chip := writeBytes s.chip o bs }
  match target o with
  | .sp c off => s.modCore c (fun x => x.written off bs.length)
  | _ => s

/-! Any space. -/

/-- n bytes at a home, the offsets of poisoned ones, and the state after the error code has done its work. -/
def State.readAt (s : State) (sp : Space) (pa n : Nat) : State × List Byte × List Nat :=
  match sp with
  | .dram => s.readDram pa n
  | .chip => (s, s.readChip pa n)
  | .host => (s, readBytes s.host pa n, [])
  | .peer => (s, readBytes s.peer pa n, [])
  | .red _ => (s, [], [])

/-- Write at a home, without waking waiters. -/
def State.putAt (s : State) (sp : Space) (pa : Nat) (bs : List Byte) (poison : Bool) : State :=
  match sp with
  | .dram => s.writeDram pa bs poison
  | .chip => s.writeChip pa bs
  | .host => { s with host := writeBytes s.host pa bs }
  | .peer => { s with peer := writeBytes s.peer pa bs }
  | .red _ => s

/-! Waiters (R201). -/

/-- Test of a waiter against its word: the value that satisfies it, or poison (R429). -/
def Waiter.test (w : Waiter) (s : State) : Option (Word × Bool) :=
  let r := s.readAt w.sp w.pa 8
  let v := BitVec.ofNat 64 (ofBytes r.2.1)
  if !r.2.2.isEmpty then some (v, true)
  else if (if w.eq then v == w.cmp else w.cmp.toNat ≤ v.toNat) then some (v, false) else none

/-- Every waiter on a written span is tested again; a waiter once satisfied stays so. -/
def State.retest (s : State) (sp : Space) (pa n : Nat) : State :=
  if s.waiters.isEmpty then s
  else { s with waiters := s.waiters.map (fun w =>
    if w.sp == sp && w.pa < pa + n && pa < w.pa + 8 && w.sat.isNone then { w with sat := w.test s } else w) }

/-- Write at a home and test the waiters again. -/
def State.writeAt (s : State) (sp : Space) (pa : Nat) (bs : List Byte) (poison : Bool) : State :=
  (s.putAt sp pa bs poison).retest sp pa bs.length

/-! Requests on their way (R325 to R329). -/

/-- The strand whose syllables, pattern engines and copies a source belongs to: its requests draw on the strand's places (R322). -/
def Src.owner : Src → Option Nat
  | .strand n | .port n _ | .copy n _ => some n
  | _ => none

/-- The core whose party a source is (R325). -/
def Src.core : Src → Option Nat
  | .other p => if 300 ≤ p then some (coreOf ((p - 300) % 300)) else none
  | x => x.owner.map coreOf

/-- The party of a source. -/
def Src.party : Src → Party
  | .strand n | .port n _ | .copy n _ => coreOf n
  | .nmu u | .mve u => 144 + u
  | .record d _ => 272 + d
  | .fill d _ => 274 + d
  | .other p => if 300 ≤ p then coreOf ((p - 300) % 300) else p
  | .walker p _ => p

/-- A near-memory kernel's own words; the matrix-vector engine's fetch is apart. -/
def Src.isNmu : Src → Bool
  | .nmu _ => true
  | _ => false

/-- A request that writes. -/
def ReqOp.writes : ReqOp → Bool
  | .load _ => false
  | .order _ => false
  | .redfRd _ false => false
  | .redfSt => false
  | .semw _ _ => false
  | _ => true

/-- A plain store. -/
def ReqOp.plainStore : ReqOp → Bool
  | .store _ _ | .poisoned _ => true
  | _ => false

def ReqOp.isOrder : ReqOp → Bool
  | .order _ => true
  | _ => false

def ReqOp.isSemw : ReqOp → Bool
  | .semw _ _ => true
  | _ => false

/-- `acas` and `acas2`, which only load where the values are unequal (R194). -/
def ReqOp.isCas : ReqOp → Bool
  | .atom .cas _ _ _ => true
  | _ => false

/-- Operations that a near-memory kernel posts (R251). -/
def ReqOp.posted : ReqOp → Bool
  | .store _ _ | .sems _ | .redx _ => true
  | _ => false

/-- The spans of two requests share a byte. -/
def Req.overlaps (a b : Req) : Bool := a.sp == b.sp && a.pa < b.pa + b.len && b.pa < a.pa + a.len

/-- Requests to one 256-byte line; every request to one reduction engine counts as such (R328, R426). -/
def Req.sameLine (a b : Req) : Bool :=
  a.sp == b.sp && (match a.sp with | .red _ => true | _ => a.pa / 256 == b.pa / 256)

/-- The lane of a home's address (R327). -/
def lane (a : Nat) : Nat := (List.range 14).foldl (fun l j => l ^^^ bits a (8 + 4 * j + 3) (8 + 4 * j)) 0

/-- The lane of a request; one reduction engine is one lane (R426). -/
def laneNo (r : Req) : Nat := match r.sp with | .red _ => 0 | _ => lane r.pa

/-- The Bandura port that carries the requests of one lane to a peer: of the ports of the peer's mask that work, counted from the
lowest, the one with the lane's number (R474; log entry 95). -/
def State.peerPort (s : State) (p l : Nat) : Nat :=
  let w := readNat s.dram ((s.mgr 0x118).toNat + 16 * p) 8
  let ps := (List.range 18).filter (fun i => bit w (32 + i) && s.ports.getLsbD i)
  if ps.isEmpty then 18 else ps.getD (l % ps.length) 18

/-- A number for the home of a request (R323): NMU, core or cluster SRAM, host port, Bandura port, reduction engine. -/
def State.homeNo (s : State) (r : Req) : Nat :=
  match r.sp with
  | .dram => ((s.place r.pa).map (fun p => p.nmu)).getD 0
  | .chip => if r.pa < 0x24000000 then r.pa / 0x400000 else 144 + (r.pa - 0x24000000) / 0x1000000
  | .host => 0
  | .peer => s.peerPort (bits r.pa 51 40) (laneNo r)
  | .red u => u

/-- A request of a core's party to the scratchpad of its own core. -/
def Req.own (r : Req) : Bool :=
  match r.src.core with
  | some c => r.sp == .chip && r.pa < 0x24000000 && r.pa / 0x400000 == c
  | none => false

/-- An access through window L, which the fabric does not carry and which draws no place (R321, R322). -/
def Req.viaL (r : Req) : Bool := r.own && 0xFF00000000000000 ≤ r.va.toNat

/-- A scope no wider than the core (R324). -/
def inCore : Scope → Bool
  | .sd | .co => true
  | _ => false

/-- An earlier access counts as performed at a scope: at core scope a store once it has left the core (R325); a plain store once its
home has accepted it (R423). -/
def Req.performedAt (e : Req) (sc : Scope) : Bool := e.done || (inCore sc && e.op.writes && !e.own)

/-- A compare-and-swap whose word does not hold the value it compares with: it loads and does not store (R194). -/
def State.casFails (s : State) (r : Req) : Bool :=
  match r.op with
  | .atom .cas _ c _ =>
    let m := match r.sp with | .dram => s.dram | .chip => s.chip | .host => s.host | _ => s.peer
    readNat m r.pa r.len != c.toNat
  | _ => false

/-- The pairs of R328 in one 256-byte line: of two stores and of two loads the older is performed first. A compare-and-swap counts as
what it turns out to be: r as the word stands, the older e as either (log entry 96). The chunks of one `vst` and the elements of one
`vscat` have no order among them (R333). -/
def State.lineOrder (s : State) (e r : Req) : Bool :=
  e.sameLine r && !(e.vec != 0 && e.vec == r.vec) &&
  (let store := r.op.writes && !s.casFails r
   (store && e.op.writes) || (!store && (!e.op.writes || e.op.isCas)))

/-- The requests of one source to one home in one lane keep their order (R327). -/
def State.laneOrder (s : State) (e r : Req) : Bool :=
  !e.viaL && !r.viaL && !(e.vec != 0 && e.vec == r.vec) && e.sp == r.sp && laneNo e == laneNo r && s.homeNo e == s.homeNo r

/-- A store of r's core that a release at core scope has published, and that r must follow (R329, R331): its own bytes, or everything
where r is cumulative at a wider scope. -/
def Req.follows (r e : Req) : Bool :=
  e.pub && e.op.writes &&
  (e.overlaps r || (match r.op with | .order cum => cum | _ => false) || (r.rel && !inCore r.scope))

/-- Whether an older request e must be performed before r: the source's own order (R327, R328), what a near-memory kernel posts (R251), a
load behind a store its core has sent (R325), and what follows a published store (R331). -/
def State.blocks (s : State) (e r : Req) : Bool :=
  if e.done then false
  else if e.src == r.src then
    e.op.isOrder || r.op.isOrder || e.acq || (r.rel && !e.performedAt r.scope) ||
    (e.src.isNmu && e.op.posted && r.op.posted) ||
    (e.overlaps r && (e.op.writes || r.op.writes)) || s.lineOrder e r || s.laneOrder e r
  else
    e.src.core.isSome && e.src.core == r.src.core &&
    ((!r.op.writes && !r.op.isOrder && e.op.writes && e.overlaps r) || r.follows e)

/-- Of two requests to one line of device memory the one accepted first is served first (R424). -/
def Req.servedBefore (e r : Req) : Bool :=
  e.id != r.id && e.sp == .dram && r.sp == .dram && e.pa / 64 == r.pa / 64 &&
  (match e.accept, r.accept with
   | some a, some b => a < b
   | some _, none => true
   | _, _ => false)

/-- The requests older than a given one, oldest first. -/
def older (id : Nat) : List Req → List Req
  | [] => []
  | e :: es => if e.id == id then [] else e :: older id es

/-- The matrix-vector engine of a unit has still to fetch for a product begun before a releasing request of the unit (R251). -/
def State.fetches (s : State) (r : Req) : Bool :=
  match r.src with
  | .nmu u => r.rel && (match (s.nmu u).mve with | some m => m.fork ≤ r.id | none => false)
  | _ => false

/-- Every older request that must be performed before r has been. -/
def State.inTurn (s : State) (r : Req) : Bool :=
  (older r.id s.net).all (fun e => !s.blocks e r) && s.net.all (fun e => !e.merged.contains r.id) && !s.fetches r

/-- Whether a request may be performed now. -/
def State.free (s : State) (r : Req) : Bool := s.inTurn r && s.net.all (fun e => !e.servedBefore r)

def State.req (s : State) (id : Nat) : Option Req := s.net.find? (fun r => r.id == id)
def State.setReq (s : State) (r : Req) : State :=
  { s with net := s.net.map (fun e => if e.id == r.id then r else e) }

/-- An order entry has still to wait for x: an access of its own source, or a published store it is to carry (R202, R329). -/
def Req.awaits (e x : Req) : Bool := !x.done && (x.src == e.src || (e.src.core.isSome && x.src.core == e.src.core && e.follows x))

/-- Order entries with nothing before them that they wait for have done their work. -/
def settle (before : List Req) : List Req → List Req
  | [] => []
  | e :: es =>
    if e.op.isOrder && before.all (fun x => !e.awaits x) then settle before es else e :: settle (before ++ [e]) es

def State.dropReq (s : State) (id : Nat) : State :=
  { s with net := settle [] (s.net.filter (fun e => e.id != id)) }

/-- The mark of the bundle a source's own requests belong to. -/
def State.bundleOf (s : State) (src : Src) : Nat :=
  match src with
  | .strand n => (s.strand n).bundle + 1
  | _ => 0

/-- Put a request in the queues, numbered. -/
def State.send (s : State) (r : Req) : State :=
  { s with net := s.net ++ [{ r with id := s.fresh, bundle := s.bundleOf r.src }], fresh := s.fresh + 1 }

/-- A request of the bundle that is now issuing: its bundle is one step, so that no syllable of it waits for it (R16). -/
def State.issuing (s : State) (e : Req) : Bool := e.src.owner.isSome && e.bundle != 0 && e.bundle == s.bundleOf e.src

/-- What tells the access of a request, and its 64-byte line (R321). -/
def Req.part (r : Req) : Src × Nat × Nat × Nat × Bool × Space × Nat :=
  (r.src, r.flight, r.bundle, r.vec, r.op.plainStore, r.sp, r.pa / 64)

/-- Requests as R321 counts them: the parts of one access in one aligned 64-byte line are one; none through window L. -/
def countLines : Option (Src × Nat × Nat × Nat × Bool × Space × Nat) → List Req → Nat
  | _, [] => 0
  | last, r :: rs =>
    if r.op.isOrder || r.viaL then countLines last rs
    else if last == some r.part then countLines last rs else 1 + countLines (some r.part) rs

/-- Places in use that a source draws on, of 4,096: a strand's own requests, its pattern engines' and its copies' together (R322). -/
def State.places (s : State) (src : Src) : Nat :=
  countLines none (s.net.filter (fun r => !r.done && (r.src == src || (src.owner.isSome && r.src.owner == src.owner))))

/-- Earlier accesses of a source are performed at a scope, so that a release that is no memory access may act (R328); at a wider scope
than the core's, published stores of its core too (R329). -/
def State.released (s : State) (src : Src) (sc : Scope) : Bool :=
  s.net.all (fun e => e.done ||
    (if e.src == src then s.issuing e || e.performedAt sc else inCore sc || !e.pub || e.src.core.isNone || e.src.core != src.core))

/-- A release at core scope, or a fork, publishes what the source has sent before the running number no: what synchronises with it follows
those stores (R330, R331). -/
def State.publish (s : State) (src : Src) (no : Nat) : State :=
  { s with net := s.net.map (fun e => if e.src == src && e.id < no && e.op.writes && !s.issuing e then { e with pub := true } else e) }

/-- An older request of the source that holds back everything after it. -/
def State.barred (s : State) (src : Src) : Bool := s.net.any (fun e => e.src == src && !s.issuing e && (e.op.isOrder || e.acq))

/-- A request of the source to a span is still to be performed. -/
def State.pendingAt (s : State) (src : Src) (sp : Space) (pa n : Nat) (writesOnly : Bool) : Bool :=
  s.net.any (fun e => e.src == src && !e.done && e.sp == sp && e.pa < pa + n && pa < e.pa + e.len && (!writesOnly || e.op.writes))

end Sys2Proof.Machine
end

