-- ==== Sys2Proof/Machine/Gathers.lean ====
section
/-! DEFINITION. Reads and requests of any source: the parts of an access, its requests and their places (R321, R322), and the reads of
engines, walkers and other parties, which go through their homes' queues as a strand's do and are gathered until they are used. -/

namespace Sys2Proof.Machine

/-- A run of bytes at one home: off is its place in the access. -/
structure Seg where
  sp : Space
  pa : Nat
  len : Nat
  va : Word
  off : Nat
  deriving DecidableEq, Repr

/-- A request of a source. -/
def mkReq (src : Src) (op : ReqOp) (g : Seg) (asid : BitVec 16) (flight : Nat) : Req :=
  { id := 0, src := src, op := op, sp := g.sp, pa := g.pa, len := g.len, va := g.va, asid := asid, flight := flight, scope := .dv,
    acq := false, rel := false, mergeable := false, refusals := 0, away := false, accept := none, capped := false,
    merged := [], whole := 0, vec := 0, bundle := 0, pub := false, done := false }

/-- Cut a run at every multiple of n of its home's address. -/
def cutSeg (n : Nat) : Nat → Seg → List Seg
  | 0, g => [g]
  | k + 1, g =>
    let m := n - g.pa % n
    if g.len ≤ m then [g]
    else { g with len := m } :: cutSeg n k { g with pa := g.pa + m, len := g.len - m, va := g.va + BitVec.ofNat 64 m, off := g.off + m }
def cutAll (n : Nat) (gs : List Seg) : List Seg := gs.flatMap (fun g => cutSeg n (g.len / n + 1) g)

def State.sendAll (s : State) (rs : List Req) : State := rs.foldl (fun (s : State) r => s.send r) s

/-- Whether a source has places left for requests: those of a strand are limited (R322). -/
def State.room (s : State) (src : Src) (rs : List Req) : Bool := src.owner.isNone || s.places src + countLines none rs ≤ 4096

/-! Reads of engines and other parties. -/

/-- A read of a run by a source: its bytes and the places of poisoned ones once all of it has been answered, none while it is on its way.
The first such read sends its requests, one for each 64-byte line, where the source has places for them. -/
def State.getAt (s : State) (src : Src) (asid : BitVec 16) (g : Seg) : State × Option (List Byte × List Nat) :=
  if g.len == 0 then (s, some ([], []))
  else match s.gathers.find? (fun x => x.src == src && x.sp == g.sp && x.pa == g.pa && x.len == g.len) with
    | some x => (s, if x.need == 0 then some (dense x.raw g.len, x.bad) else none)
    | none =>
      let rs := (cutSeg 64 (g.len / 64 + 1) { g with off := 0 }).map (fun c => mkReq src (.load c.off) c asid s.fresh)
      if !s.room src rs then (s, none)
      else
        let x : Gather := { id := s.fresh, src := src, sp := g.sp, pa := g.pa, len := g.len, need := rs.length, raw := [], bad := [] }
        ({ s with gathers := s.gathers ++ [x], fresh := s.fresh + 1 }.sendAll rs, none)

/-- Reads of runs by a source, in their order: each byte with its poison, once all of them have come. -/
def State.getEach (s : State) (src : Src) (asid : BitVec 16) : List Seg → State × Option (List (Byte × Bool))
  | [] => (s, some [])
  | g :: gs =>
    let r := s.getAt src asid g
    let q := r.1.getEach src asid gs
    (q.1, match r.2, q.2 with
      | some x, some bs => some (x.1.zip ((List.range g.len).map (fun i => x.2.contains i)) ++ bs)
      | _, _ => none)

/-- The same, long runs in pieces of 4 KiB. -/
def State.getSegs (s : State) (src : Src) (asid : BitVec 16) (gs : List Seg) : State × Option (List (Byte × Bool)) :=
  s.getEach src asid (cutAll 4096 gs)

/-- A completion leaves by the host port, a response by a Bandura port; one without data says that the access was refused. -/
def State.respond (s : State) (src : Src) (c : Option (List Byte × Bool)) : State :=
  match src with
  | .other 278 => { s with hostOut := s.hostOut ++ [c] }
  | .other p => { s with linkOut := s.linkOut ++ [(p - 279, (c.map (fun x => x.1)).getD [], (c.map (fun x => x.2)).getD false)] }
  | _ => s

/-- The host port and the Bandura ports. -/
def Src.outside : Src → Bool
  | .other p => 278 ≤ p && p < 300
  | _ => false

/-- An answer to a gathered read; a complete one for the outside leaves at once. -/
def State.gathered (s : State) (id off : Nat) (bs : List Byte) (bad : List Nat) : State :=
  let gs := s.gathers.map (fun x =>
    if x.id == id then { x with need := x.need - 1, raw := writeBytes x.raw off bs, bad := x.bad ++ bad.map (fun i => off + i) } else x)
  match gs.find? (fun x => x.id == id && x.need == 0 && x.src.outside) with
  | some x => { s with gathers := gs.filter (fun y => y.id != id) }.respond x.src (some (dense x.raw x.len, !x.bad.isEmpty))
  | none => { s with gathers := gs }

/-- A source has done with what it has read and with the causes returned to it, and waits for no walk or fill. -/
def State.forget (s : State) (src : Src) : State :=
  { s with
    gathers := s.gathers.filter (fun x => x.src != src)
    denials := s.denials.filter (fun d => d.1 != src)
    walks := s.walks.map (fun w => { w with waiting := w.waiting.filter (fun x => x != src) })
    fills := s.fills.map (fun f => { f with waiting := f.waiting.filter (fun x => x != src) }) }

/-- What a source has read stands in memory still. -/
def State.intact (s : State) (src : Src) : Bool :=
  s.gathers.all (fun x => x.src != src || x.need != 0 ||
    readBytes (match x.sp with | .dram => s.dram | .chip => s.chip | .host => s.host | _ => s.peer) x.pa x.len == dense x.raw x.len)

/-- No request that has been accepted to the lines of a span of device memory is still to be served: what acts on them now comes after all
of those (R424). -/
def State.settledLines (s : State) (pa n : Nat) : Bool :=
  s.net.all (fun e => e.sp != .dram || e.accept.isNone || e.done || (e.pa + e.len - 1) / 64 < pa / 64 || (pa + n - 1) / 64 < e.pa / 64)

/-- What an untranslated read of device memory comes to: on its way; in no zone (R413); its bytes, and whether any is poisoned. -/
inductive Got where
  | wait
  | none
  | data (bs : List Byte) (bad : Bool)
  deriving DecidableEq, Repr

/-- Both ends of a span of device memory lie in a zone. -/
def State.zoned (s : State) (pa n : Nat) : Bool := (s.zoneOf pa).isSome && (s.zoneOf (pa + n - 1)).isSome

/-- An untranslated read of device memory by a source. -/
def State.readZoned (s : State) (src : Src) (pa n : Nat) : State × Got :=
  if s.zoned pa n then
    let r := s.getSegs src 0 [{ sp := .dram, pa := pa, len := n, va := 0, off := 0 }]
    (r.1, match r.2 with | some bs => .data (bs.map (fun b => b.1)) (bs.any (fun b => b.2)) | none => .wait)
  else (s, .none)

end Sys2Proof.Machine
end

