-- ==== Sys2Proof/Machine/Translate.lean ====
section
/-! DEFINITION. From a generic address to its homes: windows (R310 to R313), directories and the walk (R383 to R388), range
tables (R390), residency (R385, R392, R393), moving ranges (R401), and the checks of R189 in their order. -/

namespace Sys2Proof.Machine

/-! Windows (R310, R311). -/

inductive Win where
  | none | d | s | l
  deriving DecidableEq, Repr

def winOf (a : Word) : Win :=
  let n := a.toNat
  if n < 2 ^ 56 then .d
  else if 0xFE00000000000000 ≤ n && n < 0xFE00000040000000 then .s
  else if 0xFF00000000000000 ≤ n && n < 0xFF00000000400000 then .l
  else .none

/-- The window of an access, or the cause that stops it. -/
def classify (a : Word) (len : Nat) : Except (BitVec 7) Win :=
  match winOf a with
  | .none => .error 0x08
  | w => if winOf (a + BitVec.ofNat 64 (len - 1)) == w then .ok w else .error 0x09

/-! Directories (R383 to R387). -/

/-- A directory entry (R386). -/
structure DirEntry where
  cap : Nat
  dbase : Nat
  count : Nat
  bbase : Nat
  wdl : Nat
  hcomp : Bool
  hfill : Bool
  hwalk : Bool
  deriving DecidableEq, Repr

def word (bs : List Byte) (i : Nat) : Nat := ofBytes ((bs.drop (8 * i)).take 8)

/-- The entry of an ASID as a source reads it; an error is the cause an access then raises, or none while the read is on its way. -/
def State.dirEntry (s : State) (src : Src) (asid : BitVec 16) : State × Except (Option (BitVec 7)) DirEntry :=
  let r := s.readZoned src ((s.mgr 0x108).toNat + 32 * asid.toNat) 32
  match r.2 with
  | .wait => (r.1, .error none)
  | .none => (r.1, .error (some 0x10))
  | .data _ true => (r.1, .error (some 0x41))
  | .data bs false =>
    let w0 := word bs 0
    let w1 := word bs 1
    let w2 := word bs 2
    let e : DirEntry :=
      { cap := bits w0 63 40, dbase := bits w0 38 0, count := bits w1 63 40, bbase := bits w1 38 0, wdl := bits w2 31 16,
        hcomp := bit w2 3, hfill := bit w2 2, hwalk := bit w2 1 }
    if bit w2 0 && !bit w0 39 && !bit w1 39 && bits w2 63 32 == 0 && bits w2 15 4 == 0 && word bs 3 == 0 &&
        e.count ≤ e.cap then (r.1, .ok e)
    else (r.1, .error (some 0x10))

/-- The fields of a record; none where a reserved field is not 0 or it is not valid. -/
def parseRec (bs : List Byte) : Option RangeRec :=
  let w0 := word bs 0
  let w1 := word bs 1
  let w2 := word bs 2
  let w3 := word bs 3
  if bit w1 46 && bits w0 63 56 == 0 && !bit w3 39 then
    some { asid := BitVec.ofNat 16 w0, base := bits w0 55 16 * 2 ^ 16, gen := BitVec.ofNat 8 (bits w1 63 56),
           zone := BitVec.ofNat 4 (bits w1 55 52), n := bit w1 51, a := bit w1 50, x := bit w1 49, w := bit w1 48,
           r := bit w1 47, partialRes := bit w1 45, moving := bit w1 44, pinned := bit w1 43, compactible := bit w1 42,
           mdie := bits w1 41 41, length := bits w1 40 0, offset := BitVec.ofNat 64 w2, bidx := bits w3 63 40,
           map := bits w3 38 0 }
  else none

/-- Bytes a range covers. -/
def RangeRec.size (r : RangeRec) : Nat := r.length * 2 ^ 16
/-- Whether a range covers an address. -/
def RangeRec.covers (r : RangeRec) (va : Nat) : Bool := r.base ≤ va && va < r.base + r.size

/-- The translated address (R382) of va under an offset: its class and the address its home uses. -/
def translated (va : Nat) (off : Word) : Nat := (va + off.toNat) % 2 ^ 56

/-- R384, for a valid record: false when it translates nothing. -/
def State.recOk (s : State) (r : RangeRec) : Bool :=
  let t := translated r.base r.offset
  let cls := t / 2 ^ 52
  1 ≤ r.length && r.length ≤ 2 ^ 40 && r.offset.toNat % 2 ^ 16 == 0 && r.base + r.size ≤ 2 ^ 56 &&
  (!(r.partialRes || r.moving) || cls == 0) &&
  (if cls == 0 then t % 2 ^ 52 < 2 ^ 39 && s.inZone r.zone.toNat t r.size else true)

/-- Record i of a directory, read in one step by a source; an error is the cause, or none while the read is on its way. -/
def State.readRec (s : State) (src : Src) (e : DirEntry) (i : Nat) : State × Except (Option (BitVec 7)) (List Byte) :=
  let r := s.readZoned src (e.dbase + 32 * i) 32
  (r.1, match r.2 with
    | .wait => .error none
    | .none => .error (some 0x10)
    | .data _ true => .error (some 0x41)
    | .data bs false => .ok bs)

/-- The binary search of R387: the index it ends at. -/
def walkSearch (src : Src) (e : DirEntry) (va : Nat) : Nat → Nat → Nat → State → State × Except (Option (BitVec 7)) Nat
  | 0, lo, _, s => (s, .ok lo)
  | k + 1, lo, hi, s =>
    if hi - lo > 1 then
      let mid := (lo + hi) / 2
      let r := s.readRec src e mid
      match r.2 with
      | .error c => (r.1, .error c)
      | .ok bs =>
        if bits (word bs 0) 55 16 * 2 ^ 16 ≤ va then walkSearch src e va k mid hi r.1 else walkSearch src e va k lo mid r.1
    else (s, .ok lo)

/-- The last line of R387 for record i; a valid record that translates nothing is reported (R384). -/
def State.acceptRec (s : State) (src : Src) (e : DirEntry) (i va : Nat) : State × Except (Option (BitVec 7)) RangeRec :=
  let q := s.readRec src e i
  match q.2 with
  | .error c => (q.1, .error c)
  | .ok bs =>
    match parseRec bs with
    | none => (if bit (word bs 1) 46 then q.1.report 384 i va else q.1, .error (some 0x10))
    | some r =>
      if !q.1.recOk r then (q.1.report 384 i va, .error (some 0x10))
      else if r.covers va then (q.1, .ok r)
      else (q.1, .error (some 0x10))

/-- A hardware walk (R387) by a source; also the index of the record found. -/
def State.walk (s : State) (src : Src) (asid : BitVec 16) (va : Nat) :
    State × Except (Option (BitVec 7)) (DirEntry × RangeRec × Nat) :=
  let d := s.dirEntry src asid
  match d.2 with
  | .error c => (d.1, .error c)
  | .ok e =>
    if e.count == 0 then (d.1, .error (some 0x10))
    else
      let i := walkSearch src e va 25 0 e.count d.1
      match i.2 with
      | .error c => (i.1, .error c)
      | .ok i' =>
        let q := i.1.acceptRec src e i' va
        (q.1, q.2.map (fun r => (e, r, i')))

/-! Range tables (R390) and residency (R385, R392, R393). -/

def State.rtab (s : State) (p : Party) : List RtEntry :=
  if p < 144 then (s.core p).rtab else if p < 272 then (s.nmu (p - 144)).rtab else (tget s.rtabs p).getD []

def State.setRtab (s : State) (p : Party) (t : List RtEntry) : State :=
  if p < 144 then s.modCore p (fun c => { c with rtab := t })
  else if p < 272 then s.modNmu (p - 144) (fun u => { u with rtab := t })
  else { s with rtabs := tput s.rtabs p t }

/-- Entries a party's table holds (R390). -/
def rtabSize (p : Party) : Nat := if p < 144 then 64 else 16

def State.rtFind (s : State) (p : Party) (asid : BitVec 16) (va : Nat) : Option RtEntry :=
  (s.rtab p).find? (fun e => e.dead.isNone && e.asid == asid && e.r.covers va)

/-- Residency granule of an address, counted from the range's base. -/
def RangeRec.granule (r : RangeRec) (va : Nat) : Nat := (va - r.base) / 2 ^ 21
/-- First address of a granule. -/
def RangeRec.granuleVa (r : RangeRec) (g : Nat) : Nat := r.base + 2 ^ 21 * g

/-- A party reads map bit g (R385, R393); an error is the cause an access then raises, or none while the read is on its way. -/
def State.mapBit (s : State) (p : Party) (r : RangeRec) (g : Nat) : State × Except (Option (BitVec 7)) Bool :=
  let q := s.readZoned (.walker p 0) (r.map + g / 8) 1
  (q.1, match q.2 with
    | .wait => .error none
    | .none => .error (some 0x10)
    | .data _ true => .error (some 0x41)
    | .data bs false => .ok ((bs.headD 0).getLsbD (g % 8)))

/-- Where a range's granule of 64 KiB lies: a moving range is at its new place below the watermark (R401). -/
def State.offsetAt (s : State) (r : RangeRec) (va : Nat) : Word :=
  if r.moving then
    match s.moves.find? (fun (e : Nat × Move') =>
      e.1 % 2 == r.mdie && e.2.oldOff == r.offset && e.2.base ≤ va && va < e.2.base + 2 ^ 16 * e.2.m) with
    | some e => e.2.newOff
    | none => r.offset
  else r.offset

/-- The permissions an access needs. -/
structure Perm where
  r : Bool := false
  w : Bool := false
  x : Bool := false
  a : Bool := false
  n : Bool := false
  /-- an access through L that does not wake a bank that is off (R132) -/
  lit : Bool := false
  deriving DecidableEq, Repr

def Perm.ok (p : Perm) (r : RangeRec) : Bool :=
  (!p.r || r.r) && (!p.w || r.w) && (!p.x || r.x) && (!p.a || r.a) && (!p.n || r.n)

/-- What the checks of an access say. -/
inductive Chk where
  | ok (segs : List Seg)
  | fault (cause : BitVec 7) (tva : Word)
  | wait
  deriving DecidableEq, Repr

/-- The die of a party: of a core, of the stack of an NMU (R1, R7), else its own. -/
def partyDie (p : Party) : Nat := if p < 144 then p / 72 else if p < 272 then (p - 144) / 64 else p % 2

/-- A translation of an address at the running number no was made through an entry, which may have been marked invalid since. -/
def RtEntry.made (e : RtEntry) (asid : BitVec 16) (va : Word) (no : Nat) : Bool :=
  e.asid == asid && e.r.covers va.toNat && (match e.dead with | some m => no ≤ m | none => true)

/-- The entry a fill that has begun was translated through, be it invalid by now. -/
def State.fillVia (s : State) (f : Fill) : Option RtEntry :=
  match f.begun with
  | some no => (s.rtab (274 + f.die)).find? (fun e => e.made f.asid (BitVec.ofNat 64 f.gva) no)
  | none => none

/-- A fill that has not begun, or whose translation stands: one that goes into a place given up since is another fill's affair (R222). -/
def State.fillLive (s : State) (f : Fill) : Bool := f.begun.isNone || ((s.fillVia f).map (fun e => e.dead.isNone)).getD false

/-- A fill of a granule of a range under way for an ASID (R395). -/
def State.fillOf (s : State) (asid : BitVec 16) (gva : Nat) : Option Fill :=
  s.fills.find? (fun f => f.asid == asid && f.gva == gva && s.fillLive f)

/-- Join a source, or a strand's `rgfill`, to the fill of a granule, which is begun where there is none (R395). -/
def State.askFill (s : State) (src : Src) (asid : BitVec 16) (gva : Nat) (rgfill : Option Nat) : State :=
  let join (f : Fill) : Fill :=
    match rgfill with
    | some n => if f.rgfill.contains n then f else { f with rgfill := f.rgfill ++ [n] }
    | none => { f with waiting := f.waiting.filter (fun x => x != src) ++ [src] }
  let s := if rgfill.isSome then s else { s with fills := s.fills.map (fun f =>
    if f.asid == asid && f.gva == gva then { f with waiting := f.waiting.filter (fun x => x != src) } else f) }
  match s.fillOf asid gva with
  | some x => { s with fills := s.fills.map (fun f => if f.id == x.id then join f else f) }
  | none =>
    let f : Fill := { id := s.fresh, die := partyDie src.party, asid := asid, gva := gva, waiting := [], rgfill := [], hostAsked := false,
                      begun := none, done := 0, set := false }
    { s with fills := s.fills ++ [join f], fresh := s.fresh + 1 }

/-- A cause returned to a source that waited for an address (R387, R395). -/
def State.denied (s : State) (src : Src) (asid : BitVec 16) (va : Nat) : Option (BitVec 7) :=
  (s.denials.find? (fun d => d.1 == src && d.2.1 == asid && d.2.2.1 == va)).map (fun d => d.2.2.2)

/-- Return a cause to sources that wait for an address. -/
def State.deny (s : State) (srcs : List Src) (asid : BitVec 16) (va : Nat) (c : BitVec 7) : State :=
  { s with denials := s.denials ++ srcs.map (fun x => (x, asid, va, c)) }

/-- The party has used what it read of its maps and of their directory. -/
def State.mapped (s : State) (p : Party) : State := s.forget (.walker p 0)

/-- Residency of the granule of va in a range (R392, R393): resident, a cause, or (none) a wait. -/
def State.residency (s : State) (src : Src) (e : RtEntry) (va : Nat) : State × Except (Option (BitVec 7)) Unit :=
  let r := e.r
  let g := r.granule va
  let gva := r.granuleVa g
  let p := src.party
  if !r.partialRes || e.kept.contains g then (s, .ok ())
  else match s.denied src e.asid gva with
    | some c => (s, .error (some c))
    | none =>
      if ((s.fillOf e.asid gva).map (fun f => f.waiting.contains src)).getD false then (s, .error none)
      else
        let q := s.mapBit p r g
        match q.2 with
        | .error none => (q.1, .error none)
        | .error (some c) => (q.1.mapped p, .error (some c))
        | .ok true =>
          (q.1.mapped p |>.setRtab p ((q.1.rtab p).map (fun x => if x == e then { x with kept := g :: x.kept } else x)), .ok ())
        | .ok false =>
          let h := q.1.dirEntry (.walker p 0) e.asid
          match h.2 with
          | .error none => (h.1, .error none)
          | .error (some c) => (h.1.mapped p, .error (some c))
          | .ok de => if de.hfill then (h.1.mapped p |>.askFill src e.asid gva none, .error none) else (h.1.mapped p, .error (some 0x12))

/-- A range-table miss of a source: its cause, where its walk has failed; else it waits for the party's walk of that address, which is
begun where there is none (R387, R388). -/
def State.askWalk (s : State) (src : Src) (asid : BitVec 16) (va : Nat) : State × Option (BitVec 7) :=
  let p := src.party
  let mine (w : Walk) : Bool := w.party == p && w.asid == asid && w.va.toNat == va
  match s.denied src asid va with
  | some c => (s, some c)
  | none =>
    if s.walks.any mine then
      ({ s with walks := s.walks.map (fun w => if mine w && !w.waiting.contains src then { w with waiting := w.waiting ++ [src] } else w) }, none)
    else
      let w : Walk := { id := s.fresh, party := p, asid := asid, va := BitVec.ofNat 64 va, waiting := [src], asked := false, ans := none,
                        late := false }
      ({ s with walks := s.walks ++ [w], fresh := s.fresh + 1 }, none)

/-- The memory of a class, and how many bytes from address a on it takes (R382). -/
def classAt (cls a : Nat) : Option (Space × Nat) :=
  match cls with
  | 0 => if a < 2 ^ 39 then some (.dram, 2 ^ 39 - a) else none
  | 1 => some (.host, 2 ^ 52 - a)
  | 2 => if bit a 39 then none else some (.peer, 2 ^ 39 - a % 2 ^ 39)
  | _ => none

/-- The ranges of an access in window D, in ascending order, each part with its record: the first miss, residency fault (where res asks
for residency) or wait ends it. A part of a partial or moving range ends with its 64 KiB granule, and no part leaves its memory. -/
def State.ranges (s : State) (src : Src) (asid : BitVec 16) (res : Bool) : Nat → Nat → Nat → Nat →
    State × Except (Option (BitVec 7 × Nat)) (List (RangeRec × Seg))
  | 0, _, _, _ => (s, .error none)
  | k + 1, va, len, off =>
    match s.rtFind src.party asid va with
    | none =>
      let w := s.askWalk src asid va
      (w.1, .error (w.2.map (fun c => (c, va))))
    | some e =>
      let q := if res then s.residency src e va else (s, .ok ())
      match q.2 with
      | .error c => (q.1, .error (c.map (fun c => (c, va))))
      | .ok () =>
        let r := e.r
        let stop := r.base + r.size
        let stop := if r.partialRes || r.moving then min stop (r.base + ((va - r.base) / 2 ^ 16 + 1) * 2 ^ 16) else stop
        let t := translated va (q.1.offsetAt r va)
        match classAt (t / 2 ^ 52) (t % 2 ^ 52) with
        | none => (q.1, .error (some (0x10, va)))
        | some (sp, room) =>
          let n := min len (min (stop - va) room)
          let seg : Seg := { sp := sp, pa := t % 2 ^ 52, len := n, va := BitVec.ofNat 64 va, off := off }
          if len ≤ n then (q.1, .ok [(r, seg)])
          else
            let rest := q.1.ranges src asid res k (va + n) (len - n) (off + n)
            (rest.1, rest.2.map (fun l => (r, seg) :: l))

/-- The first byte of a part, counted from its start, that its home's table refuses a master (R319). -/
def State.refusedAt (s : State) (m n : Nat) (asid : BitVec 16) (wr : Bool) (g : Seg) : Option Nat :=
  match g.sp with
  | .dram => ((cutSeg (2 ^ 21) (g.len / 2 ^ 21 + 1) { g with off := 0 }).find? (fun c => !s.dramOk m wr c.pa)).map (fun c => c.off)
  | .chip => if s.chipOk m n asid wr g.pa then none else some 0
  | .host =>
    let reach := ((s.master m).host.filter (fun e => e.1 ≤ g.pa && (if wr then e.2.2.2 else e.2.2.1))).foldl
      (fun (a : Nat) e => max a (e.1 + e.2.1 - g.pa)) 0
    if g.len ≤ reach then none else some reach
  | .peer => if s.peerOk (bits g.pa 51 40) then none else some 0
  | .red _ => none

/-- The address of the first byte that a home's table refuses. -/
def State.refused (s : State) (m n : Nat) (asid : BitVec 16) (wr : Bool) : List Seg → Option Word
  | [] => none
  | g :: gs =>
    match s.refusedAt m n asid wr g with
    | some i => some (g.va + BitVec.ofNat 64 i)
    | none => s.refused m n asid wr gs

/-- Cut a run of on-chip bytes at every bank and target. -/
def chipSegs : Nat → Nat → Nat → Word → Nat → List Seg
  | 0, _, _, _, _ => []
  | k + 1, o, len, va, off =>
    let n := min len (0x20000 - o % 0x20000)
    let g : Seg := { sp := .chip, pa := o, len := n, va := va, off := off }
    if len ≤ n then [g] else g :: chipSegs k (o + n) (len - n) (va + BitVec.ofNat 64 n) (off + n)

/-- The state of the scratchpad bank of a global offset. -/
def State.spBank (s : State) (o : Nat) : Option SpBank :=
  match target o with
  | .sp c off => some (((s.core c).banks.toList.getD (bankOf off)) { st := .full, waking := none, drops := [], struck := [] })
  | _ => none

/-- An access through L that has to find its bytes (or, for a store, may not wake the bank) meets a bank that is off, and no wake of it
is under way (R189, R359). -/
def State.unlit (s : State) (p : Perm) (g : Seg) : Bool :=
  (p.r || p.a || p.lit) && ((s.spBank g.pa).map (fun b => b.st == .off && b.waking.isNone)).getD false

/-- The checks of R189 from the third on, for an access of a master with number m acting for strand n: window, crossing,
alignment, range or residency, permission, access table and allotment, bank. -/
def State.resolve (s : State) (src : Src) (m n : Nat) (asid : BitVec 16) (p : Perm) (align : Nat) (a : Word) (len : Nat) :
    State × Chk :=
  match classify a len with
  | .error c => (s, .fault c a)
  | .ok w =>
    if align > 1 && a.toNat % align != 0 then (s, .fault 0x0A a)
    else
      let wr := p.w || p.a
      match w with
      | .d =>
        let r := s.ranges src asid true (len / 2 ^ 16 + 66) a.toNat len 0
        (match r.2 with
         | .error none => (r.1, .wait)
         | .error (some (c, va)) => (r.1, .fault c (BitVec.ofNat 64 va))
         | .ok l =>
           let gs := l.map (fun e => e.2)
           match l.find? (fun e => !p.ok e.1), r.1.refused m n asid wr gs with
           | some e, _ => (r.1, .fault 0x11 e.2.va)
           | none, some va => (r.1, .fault 0x40 va)
           | none, none => (r.1, .ok gs))
      | .s =>
        let gs := chipSegs (len / 0x20000 + 2) (bits a.toNat 29 0) len a 0
        (match s.refused m n asid wr gs with
         | some va => (s, .fault 0x40 va)
         | none => (s, .ok gs))
      | .l =>
        let gs := chipSegs (len / 0x20000 + 2) (spBase (coreOf n) + bits a.toNat 21 0) len a 0
        (match gs.find? (fun g => !(s.spmask n).getLsbD (bankOf (g.pa % 0x400000))), gs.find? (s.unlit p) with
         | some g, _ => (s, .fault 0x40 g.va)
         | none, some g => (s, .fault 0x18 g.va)
         | none, none => (s, .ok gs))
      | .none => (s, .fault 0x08 a)

end Sys2Proof.Machine
end

