-- ==== Sys2Proof/Machine/Ops.lean ====
section
/-! DEFINITION. The named operations on a strand: registers under rotation (R96), results in flight and their landing (R104,
R295, R296), issue and hold (R290, R291), the end of a bundle (R16), taking a trap and returning from one (R442 to R450). -/

namespace Sys2Proof.Machine

/-! Vectors by number. -/

/-- Entry i of a vector. -/
def vAt {α : Type} [Inhabited α] {n : Nat} (v : Vector α n) (i : Nat) : α := if h : i < n then v[i] else default
/-- The vector with entry i replaced. -/
def vSet {α : Type} {n : Nat} (v : Vector α n) (i : Nat) (a : α) : Vector α n := if h : i < n then v.set i a else v

/-! Registers (R33, R96). -/

/-- The physical vector register a name reaches under rotation base b. -/
def mapV (b : BitVec 4) (i : Nat) : Nat := if 8 ≤ i && i ≤ 23 then 8 + (i - 8 + 16 - b.toNat) % 16 else i
/-- The physical predicate a name reaches under rotation base b. -/
def mapP (b : BitVec 4) (i : Nat) : Nat := if 8 ≤ i && i ≤ 15 then 8 + (i - 8 + 16 - b.toNat) % 8 else i

/-- A scalar register; g0 reads 0 and is never poisoned (R69). -/
def Strand.g (t : Strand) (r : GReg) : SReg := if r = 0 then { val := 0, poison := false } else vAt t.r.g r.toNat
/-- A predicate; p0 reads all ones and is never poisoned. -/
def Strand.p (t : Strand) (r : PRegNo) : PReg :=
  if r = 0 then { val := BitVec.allOnes 1024, poison := false } else vAt t.r.p (mapP t.sys.rot r.toNat)
/-- The physical register of a vector name, and of a predicate name. -/
def Strand.pv (t : Strand) (i : Nat) : Nat := mapV t.sys.rot i
def Strand.pp (t : Strand) (i : Nat) : Nat := mapP t.sys.rot i

/-- The effective mask of a guard (R19). -/
def Strand.mask (t : Strand) (g : Guard) : Mask := if g.neg then ~~~(t.p g.p).val else (t.p g.p).val
/-- Whether a syllable is active (R19). -/
def Strand.active (t : Strand) (g : Guard) : Bool := t.mask g != 0

/-- Write a scalar; writes to g0 are discarded (R21). -/
def Strand.setG (t : Strand) (i : Nat) (v : SReg) : Strand :=
  if i = 0 then t else { t with r := { t.r with g := vSet t.r.g i v } }
/-- Write a physical predicate; writes to p0 are discarded (R77). -/
def Strand.setP (t : Strand) (i : Nat) (v : PReg) : Strand :=
  if i = 0 then t else { t with r := { t.r with p := vSet t.r.p i v } }
def Strand.setV (t : Strand) (i : Nat) (b : Block) : Strand := { t with r := { t.r with v := vSet t.r.v i b } }

/-- Bits of lanes: each mask bit repeated 32 times. -/
def laneMaskLoop (m : Nat) : Nat → Nat → Nat → Nat
  | 0, _, acc => acc
  | k + 1, i, acc => laneMaskLoop m k (i + 1) (if m.testBit i then acc ||| ((2 ^ 32 - 1) <<< (32 * i)) else acc)
def laneMask (m : Mask) : Lanes :=
  if m == BitVec.allOnes 1024 then BitVec.allOnes 32768 else if m == 0 then 0 else BitVec.ofNat 32768 (laneMaskLoop m.toNat 1024 0 0)

/-- The lanes of new where the mask has a bit, of old elsewhere (R106). -/
def Block.merge (old new : Block) (m : Mask) : Block :=
  { bits := (old.bits &&& ~~~laneMask m) ||| (new.bits &&& laneMask m), poison := (old.poison &&& ~~~m) ||| (new.poison &&& m) }

/-- The bits of new where the mask has a bit, of old elsewhere; k: old poison stays. -/
def PReg.merge (old new : PReg) (m : Mask) (k : Bool) : PReg :=
  { val := (old.val &&& ~~~m) ||| (new.val &&& m), poison := new.poison || (k && old.poison) }

/-! Ticks: the strand clock counts the 2.4 GHz reference (R303). -/

/-- Ticks of n strand cycles. -/
def Strand.cyc (t : Strand) (n : Nat) : Nat := n * t.e.divS

/-- Core cycles that pass as the clock goes from a to b. -/
def coreCycles (a b : Nat) : Nat := b / 2 - a / 2

/-- Time passes: the clock, and `sys.deadline`, which counts core cycles and is reached when it steps to 0 (R234). -/
def Strand.pass (t : Strand) (ticks : Nat) : Strand :=
  let n := coreCycles t.clock (t.clock + ticks)
  let d := t.sys.deadline.toNat
  { t with
    clock := t.clock + ticks
    sys := { t.sys with deadline := BitVec.ofNat 64 (d - n) }
    dlHit := t.dlHit || (0 < d && d ≤ n) }

/-! Results in flight. -/

/-- Registers a result reaches. -/
def Dst.hits (d e : Dst) : Bool :=
  match d, e with
  | .gpair i, .g j => i == j || i + 1 == j
  | .g j, .gpair i => i == j || i + 1 == j
  | .gpair i, .gpair j => i == j
  | .g 0, .g 0 => false
  | .p 0, .p 0 => false
  | d, e => d == e

/-- A command locks vector register i against a write issued by bundle b or later (R137). -/
def Strand.locked (t : Strand) (i b : Nat) : Bool :=
  t.e.cmds.any (fun c => c.bundle ≤ b && (c.locks.contains i || c.dstLock == some i))

/-- The register is the destination of an earlier bundle's drain that has not yet written it: a read of it waits (R137). -/
def Strand.drains (t : Strand) (i : Nat) : Bool := t.e.cmds.any (fun c => c.dstLock == some i && c.bundle < t.bundle)

/-- A register the bundle reads or writes has a result outstanding that holds it (R104, R291, R296). -/
def Strand.busy (t : Strand) (ds : List Dst) : Bool :=
  ds.any (fun d => t.flights.any (fun f => f.bundle < t.bundle && f.dst.hits d && (!f.fixed || t.sys.il)))

/-- OR flags into `sys.fflags` (R68). -/
def Strand.raise (t : Strand) (f : BitVec 6) : Strand := { t with sys := { t.sys with fflags := t.sys.fflags ||| f } }

/-- Put a block into an outbound port's buffer (R109). -/
def Strand.pushBlock (t : Strand) (q : Nat) (b : Block) : Strand :=
  let p := vAt t.e.ports q
  let p := { p with buf := p.buf ++ [{ blk := b, scales := 0, spoison := 0, mx := false, mxOnly := false, pos := (0, 0), mine := true }] }
  { t with e := { t.e with ports := vSet t.e.ports q p } }

/-- The bank of a physical vector register has been used: its idle count starts again (R352). -/
def Strand.touch (t : Strand) (i : Nat) : Strand :=
  { t with r := { t.r with banks := vSet t.r.banks (i / 4) { vAt t.r.banks (i / 4) with idleFrom := t.clock } } }

/-- A result lands: the register it resolved at issue (R295), its flags, its bank now in use. -/
def Strand.land (t : Strand) (f : Flight) : Strand :=
  let t := { t with flights := t.flights.filter (fun x => x.tag != f.tag) }.raise f.flags
  match f.dst, f.val with
  | .g i, .s v => t.setG i v
  | .p i, .p v m k => t.setP i ((vAt t.r.p i).merge v m k)
  | .v i, .v b m => (t.setV i ((vAt t.r.v i).merge b m)).touch i
  | .gpair i, .v b _ =>
    let p := b.poison.getLsbD 0
    (t.setG i { val := b.bits.extractLsb' 0 64, poison := p }).setG (i + 1) { val := b.bits.extractLsb' 64 64, poison := p }
  | .q n, .v b m => t.pushBlock n ((⟨0, 0⟩ : Block).merge b m)
  | _, _ => t

/-- Insert a result by the time it is due; equal times keep the order of issue. -/
def insertDue (f : Flight) : List Flight → List Flight
  | [] => [f]
  | x :: xs => if f.due < x.due then f :: x :: xs else x :: insertDue f xs
def sortDue (fs : List Flight) : List Flight := fs.foldl (fun acc f => insertDue f acc) []

/-- Whether a lock holds a result back. -/
def Strand.heldBack (t : Strand) (f : Flight) : Bool :=
  match f.dst with
  | .v i => t.locked i f.bundle
  | _ => false

/-- `sys.mode.il` clears once every fixed result issued before the last event that set it has landed (R296). -/
def Strand.clearIl (t : Strand) : Strand :=
  if t.sys.il && t.flights.all (fun f => !(f.fixed && f.bundle < t.ilUpTo)) then { t with sys := { t.sys with il := false } } else t

/-- A result lands in this cycle: a fixed one that is due, and a division whose last cycle it is (R102). -/
def Strand.landsNow (t : Strand) (f : Flight) : Bool := (f.fixed && f.due ≤ t.clock) || (f.last != 0 && f.last ≤ t.clock)

/-- What lands in this cycle lands, earliest first; a result behind a lock becomes a held write (R137). -/
def Strand.landDue (t : Strand) : Strand :=
  (sortDue (t.flights.filter t.landsNow)).foldl (fun (t : Strand) f =>
    if t.heldBack f then { t with flights := t.flights.map (fun x => if x.tag == f.tag then { x with fixed := false } else x) }
    else t.land f) t

/-- A strand cycle in which no bundle issues: `sys.mode.il` as the cycle leaves it, and time. -/
def Strand.idleCycle (t : Strand) : Strand := t.clearIl.pass (t.cyc 1)

/-- A tag for a new result: unique among those in flight. -/
def Strand.newTag (t : Strand) : Nat := 1 + t.flights.foldl (fun n f => max n f.tag) 0

/-- A result goes on its way, to land lat strand cycles after its bundle issues. -/
def Strand.fly (t : Strand) (d : Dst) (v : FVal) (flags : BitVec 6) (lat : Nat) (fixed : Bool) : Strand :=
  { t with flights := t.flights ++
      [{ tag := t.newTag, bundle := t.bundle, dst := d, val := v, flags := flags, due := t.clock + t.cyc lat, last := 0,
         fixed := fixed, need := 0, raw := [], rawPoison := [], form := .ready, hint := [] }] }

/-! Issue. -/

/-- What a trap records (R446), and the port whose `sys.qeos` bit trap entry sets (R344). -/
structure TrapRec where
  cause : BitVec 8
  tva : Word := 0
  pos0 : Word := 0
  pos1 : Word := 0
  tag : Word := 0
  eos : Option Nat := none
  deriving DecidableEq, Repr

/-- What an issue attempt of a syllable comes to: it acts, its bundle holds, or it traps. -/
inductive Res where
  | ok (s : State)
  | hold (s : State)
  | trap (s : State) (r : TrapRec)
  deriving Repr

/-- A trap of a bundle with a cause and `sys.tva`. -/
def trapIf (s : State) (c : BitVec 7) (tva : Word) : Res := .trap s { cause := c.zeroExtend 8, tva := tva }

/-- Write one system register; the caller has checked the value. Fields that are read-only keep theirs (R232, R233). -/
def Strand.writeSys (t : Strand) (n : Nat) (v : Word) : Strand :=
  let y := t.sys
  match n with
  | 0x002 => { t with sys := { y with ppriv := v.getLsbD 1 } }
  | 0x003 => { t with sys := { y with rot := v.extractLsb' 0 4 } }
  | 0x004 => { t with sys := { y with fmode := v.extractLsb' 0 3 } }
  | 0x005 => { t with sys := { y with fflags := v.extractLsb' 0 6 } }
  | 0x006 => { t with sys := { y with seed := if v.extractLsb' 0 32 = 0 then 1 else v.extractLsb' 0 32 } }
  | 0x007 => { t with sys := { y with qeos := v.extractLsb' 0 8 } }
  | 0x008 => { t with sys := { y with evt := v.extractLsb' 0 7 } }
  | 0x00A => { t with sys := { y with deadline := v } }
  | 0x00B => { t with sys := { y with barl := v.extractLsb' 0 24 } }
  | 0x00C => { t with sys := { y with tkmap0 := v } }
  | 0x00D => { t with sys := { y with tkmap1 := v } }
  | 0x00E => { t with
      sys := { y with idle := v.extractLsb' 16 16 }
      r := { t.r with banks := t.r.banks.map (fun b => { b with idleFrom := t.clock }) } }
  | 0x018 | 0x019 | 0x01A | 0x01B | 0x01C => { t with sys := { y with dom := vSet y.dom (n - 0x018) v } }
  | 0x020 => { t with sys := { y with tcause := v.extractLsb' 0 8 } }
  | 0x021 => { t with sys := { y with tpc := v } }
  | 0x022 => { t with sys := { y with tva := v } }
  | 0x023 => { t with sys := { y with tpos0 := v } }
  | 0x024 => { t with sys := { y with tpos1 := v } }
  | 0x025 | 0x026 | 0x027 => { t with sys := { y with tcut := vSet y.tcut (n - 0x025) v } }
  | 0x028 => { t with sys := { y with ttag := v } }
  | 0x030 => { t with sys := { y with asid := v.extractLsb' 0 16 } }
  | 0x031 => { t with sys := { y with dbg := v.extractLsb' 0 3 } }
  | 0x032 => { t with sys := { y with bpa := v &&& ~~~7 } }
  | _ => t

/-- Return from an exception (R101, R296, R452): the pc, the privilege saved, interlocked mode from the next bundle, and
the bundle returned to exempt from a breakpoint once (R464). Stopped commands go on (R452), but for those whose fault the
strand has yet to take. -/
def Strand.returnFrom (t : Strand) : Strand :=
  let cmds := t.e.cmds.map (fun c =>
    if c.st == .stopped && t.e.faults.all (fun f => f.id != c.id) then { c with st := .running } else c)
  { t with
    e := { t.e with cmds := cmds }
    pc := t.sys.tpc
    sys := { t.sys with priv := t.sys.ppriv, il := true }
    ilUpTo := t.bundle
    bpSkip := true }

/-- A shape with one field written (R139). -/
def Shape.put (h : Shape) (field v : Nat) : Shape :=
  match field with
  | 0 => { h with m := BitVec.ofNat 7 v }
  | 1 => { h with n := BitVec.ofNat 7 v }
  | 2 => { h with k := BitVec.ofNat 24 v }
  | 3 => { h with ta := v == 1 }
  | _ => { h with tb := v == 1 }

/-- One deferred write (R16); the strand cycle of the bundle has passed, so that the first cycle of a delay is spent. A strand that has halted
stays at its `halt`, which a fault of a command still under way is taken at (log entry 90). -/
def Strand.apply (t : Strand) (p : Pend) : Strand :=
  match p with
  | .sys n v => t.writeSys n v
  | .shadow k f v => { t with r := { t.r with shadow := vSet t.r.shadow k ((vAt t.r.shadow k).put f v) } }
  | .rotate => { t with sys := { t.sys with rot := t.sys.rot + 1 } }
  | .jump a n => { t with pc := a, readyAt := t.clock + t.cyc (n - 1) }
  | .eret => { t.returnFrom with readyAt := t.clock + t.cyc 2 }
  | .halt => { t with phase := .halted, pc := t.pc - BitVec.ofNat 64 (8 * t.blen) }
  | .clkdiv d => { t with e := { t.e with divS := d }, readyAt := t.clock + 7 * d }

/-- Ticks of the cycle that a bundle takes: of the new clock where it sets the strand's divisor (R184). -/
def Strand.bundleTicks (t : Strand) : Nat :=
  (t.pend.findSome? (fun p => match p with | .clkdiv d => some d | _ => none)).getD (t.cyc 1)

/-- The end of a bundle that has issued: the pc, one strand cycle, the writes that wait for the next bundle, the step trap to come (R16, R463). -/
def Strand.endBundle (t : Strand) : Strand :=
  let next := t.pc + BitVec.ofNat 64 (8 * t.blen)
  let step := t.sys.dbg.getLsbD 0 && !t.sys.priv
  let b := t.bundle
  let t0 := { t.clearIl with pc := next, bundle := b + 1, iss := .issued, pend := [], wfeFrom := none, wfeOut := false, bpSkip := false }
  let t1 := t.pend.foldl (fun (x : Strand) p => x.apply p) (t0.pass t.bundleTicks)
  { t1 with stepDue := if step then some b else none }

/-- Causes returned to a strand's waiting access are no more of use: its bundle has issued or trapped. -/
def State.settled (s : State) (n : Nat) : State := if s.denials.isEmpty then s else s.forget (.strand n)

/-- A syllable has acted; the last of its bundle ends it. -/
def conclude (s : State) : State :=
  if s.me.more then s.setMe { s.me with iss := .issued } else (s.setMe s.me.endBundle).settled s.cur

/-- The bundle holds for one strand cycle. -/
def held (s : State) : State := s.setMe { s.me with iss := .held }.idleCycle

/-! Engine queues at a trap (R298, R449, R450). -/

/-- The sequence number of the oldest command of a queue that has not started, or the next one. -/
def Strand.cutOf (t : Strand) (e : Nat) : BitVec 16 :=
  match t.e.cmds.find? (fun c => c.engine == e && c.st == .waiting) with
  | some c => c.seq
  | none => vAt t.e.seq e

/-- The three cut registers (R233). -/
def Strand.cut (t : Strand) : Vector Word 3 :=
  let w (a b c d : Nat) : Word := (t.cutOf a ++ t.cutOf b ++ t.cutOf c ++ t.cutOf d).setWidth 64
  #v[w 4 3 2 1, w 8 7 6 5, ((0 : BitVec 16) ++ t.cutOf 11 ++ t.cutOf 10 ++ t.cutOf 9).setWidth 64]

/-- The newest commands that have not started, oldest first: the part a trap discards (R449). -/
def newestUnstarted (cs : List Cmd) : List Cmd :=
  (cs.reverse.takeWhile (fun c => c.st == .waiting)).reverse

/-- The registers a command has locked have been used, or it is gone: the idle counts of their banks start again (R352). -/
def Strand.unlock (t : Strand) (c : Cmd) : Strand := (c.locks ++ c.dstLock.toList).foldl (fun (u : Strand) i => u.touch i) t

/-- Remove commands: their locks and claims go with them, the counters wind back (R175, R449). -/
def Strand.discardCmds (t : Strand) (ds : List Cmd) : Strand :=
  let ids := ds.map (fun c => c.id)
  let seq := (ds.reverse).foldl (fun (v : Vector (BitVec 16) 12) c => vSet v c.engine c.seq) t.e.seq
  let t := ds.foldl (fun (u : Strand) c => u.unlock c) t
  { t with e := { t.e with
      cmds := t.e.cmds.filter (fun c => !ids.contains c.id)
      seq := seq
      ports := t.e.ports.map (fun p => { p with claims := p.claims.filter (fun c => !ids.contains c.1) }) } }

/-- Discard and rewind (R449): the pc becomes the tag of the oldest discarded command, the generator goes back (R64). -/
def Strand.discard (t : Strand) : Strand :=
  match newestUnstarted t.e.cmds with
  | [] => t
  | c :: cs => { t.discardCmds (c :: cs) with pc := c.tag, sys := { t.sys with seed := c.seed0 } }

/-! Trap entry. -/

/-- A request to the host (R471). -/
def State.ask (s : State) (kind : Nat) (a b : Word) : State :=
  { s with asks := s.asks ++ [{ kind := kind, a := a, b := b, tag := s.fresh, sent := false, bar := 0 }], fresh := s.fresh + 1 }

/-- A request to the host with a tag of its own. -/
def State.askTagged (s : State) (kind : Nat) (a b : Word) (tag : Nat) : State :=
  { s with asks := s.asks ++ [{ kind := kind, a := a, b := b, tag := tag, sent := false, bar := 0 }] }

/-- The strand stops for the host, which is told (R444). -/
def State.stopForHost (s : State) (n : Nat) : State :=
  ((s.settled n).modStrand n (fun t => { t with phase := .hostStop, entering := false })).ask 3 (BitVec.ofNat 64 n)
    ((s.strand n).sys.tcause.zeroExtend 64)

/-- Transfer to the handler named by the trap table, or to the host (R443). The reads are made in the trap's own step, behind the strand's
own stores (log entry 97); they may wait for a walk or a fill, and the strand is then still entering. -/
def State.enterHandler (s : State) (n : Nat) : State :=
  let t := s.strand n
  let at' := (s.mgr 0x110).toNat + 16 * t.sys.asid.toNat
  let wait (s : State) : State := s.modStrand n (fun t => { t with entering := true })
  if !s.zoned at' 16 then s.stopForHost n
  else
    let r := s.readDram at' 16
    let hta := word r.2.1 0
    if !r.2.2.isEmpty || hta == 0 || hta % 8 != 0 then r.1.stopForHost n
    else
      let a := BitVec.ofNat 64 (hta + 8 * (t.sys.tcause.toNat % 128))
      let q := r.1.resolve (.strand n) (coreOf n) n t.sys.asid { r := true } 8 a 8
      (match q.2 with
       | .wait => wait q.1
       | .ok [g] =>
         if q.1.pendingAt (.strand n) g.sp g.pa 8 true then wait q.1
         else
           let v := q.1.readAt g.sp g.pa 8
           let e := ofBytes v.2.1
           if !v.2.2.isEmpty || e == 0 || e % 8 != 0 || winOf a != .d then v.1.stopForHost n
           else (v.1.settled n).modStrand n (fun t => { t with pc := BitVec.ofNat 64 e, entering := false })
       | _ => q.1.stopForHost n)

/-- A strand's `semw` is withdrawn (R191): its waiter goes, and a request of it still on its way reads its word for nobody. -/
def State.withdraw (s : State) (n : Nat) : State :=
  { s with
    waiters := s.waiters.filter (fun (w : Waiter) => w.who != Who.strand n)
    net := s.net.map (fun e => if e.src == .strand n && e.op.isSemw then { e with op := .load 0, flight := 0 } else e) }

/-- Take a trap (R442): the record, discarding for a cause that discards, supervisor state, interlocked mode, and the
handler. The pc recorded is the strand's own, which a discard rewinds. A trap raised in supervisor state goes to the host
(R444). A wait at a home is withdrawn (R191). -/
def State.takeTrap (s : State) (n : Nat) (r : TrapRec) (discards : Bool) : State :=
  let t := s.strand n
  let cut := t.cut
  let t := if discards then t.discard else t
  let wasPriv := t.sys.priv
  let y := { t.sys with
    tcause := r.cause, tpc := t.pc, tva := r.tva, tpos0 := r.pos0, tpos1 := r.pos1, tcut := cut, ttag := r.tag,
    ppriv := t.sys.priv, priv := true, il := true
    qeos := match r.eos with | some q => t.sys.qeos ||| BitVec.ofNat 8 (2 ^ q) | none => t.sys.qeos }
  let t := { t with
    sys := y, ilUpTo := t.bundle, iss := .trapped, pend := [], more := false, blen := 1, wfeFrom := none, wfeOut := false,
    stepDue := none, bpSkip := false }
  let s := ((s.withdraw n).forget (.strand n)).forget (.other (300 + n))
  let s := { s with shoots := s.shoots.map (fun (h : Shoot) => if h.strand == some n then { h with strand := none } else h) }
  let s := s.setStrand n t
  if wasPriv then s.stopForHost n else s.enterHandler n

/-- A trap of the bundle about to issue. -/
def trapped (s : State) (r : TrapRec) : State := s.takeTrap s.cur r false

/-- The outcome of an issue attempt. -/
def finish (r : Res) : Host.Outcome State Fault Refusal :=
  match r with
  | .ok s => .next (conclude s)
  | .hold s => .next (held s)
  | .trap s t => .next (trapped s t)

/-- A syllable with a guard: its guard settled, active, the registers it names settled, then its effect (R19, R290). A
privileged syllable in user state traps whatever its guard holds (R18, R39). -/
def syllable (s : State) (priv : Bool) (g : Guard) (ds : Strand → List Dst) (k : Strand → Res) :
    Host.Outcome State Fault Refusal :=
  let t := s.me
  if priv && !t.sys.priv then finish (trapIf s 0x04 0)
  else if t.busy [.p (t.pp g.p.toNat)] then finish (.hold s)
  else if !t.active g then finish (.ok s)
  else if t.busy (ds t) then finish (.hold s)
  else finish (k t)

/-- An event: nothing happens where it is not enabled. -/
def event (s : State) (r : Option State) : Host.Outcome State Fault Refusal :=
  match r with
  | some t => .next t
  | none => .next s

end Sys2Proof.Machine
end

