-- ==== Sys2Proof/Machine/Flags.lean ====
section
/-! DEFINITION. Sticky bits of a strand that events set: `sys.evt` (R234), `sys.qeos` (R343, R345), and the draws that advance
`sys.seed` (R61, R63, R64). Floating-point flags are computed with each result in Num and ORed into `sys.fflags` where the
result lands (`Strand.raise`, R68). -/

namespace Sys2Proof.Machine

/-- Set an event bit (R234). -/
def Strand.setEvt (t : Strand) (b : Nat) : Strand :=
  { t with sys := { t.sys with evt := t.sys.evt ||| BitVec.ofNat 7 (2 ^ b) } }

/-- Set the end-of-stream bit of a port. -/
def Strand.setEos (t : Strand) (q : Nat) : Strand :=
  { t with sys := { t.sys with qeos := t.sys.qeos ||| BitVec.ofNat 8 (2 ^ q) } }

/-- Clear the end-of-stream bit of a port. -/
def Strand.clearEos (t : Strand) (q : Nat) : Strand :=
  { t with sys := { t.sys with qeos := t.sys.qeos &&& ~~~BitVec.ofNat 8 (2 ^ q) } }

/-- n draws of the strand's generator. -/
def Strand.draw (t : Strand) (n : Nat) : Strand := { t with sys := { t.sys with seed := drawN n t.sys.seed } }

/-- The rounding mode of a field under `sys.fmode`. -/
def Strand.mode (t : Strand) (r : Rnd) : RM := rndResolve r t.sys.fmode

end Sys2Proof.Machine
end

