-- ==== Sys2Proof/Machine/Operands.lean ====
section
/-! DEFINITION. The operand forms: elements of a block (R105), stream ports popped and pushed (R109, R342 to R347), vector
registers under their banks (R110, R350 to R353), and the scalar, predicate and second operands of the S forms. -/

namespace Sys2Proof.Machine

/-! Scalar operands. -/

/-- The second operand of a two-encoding S form (R78): a register or a sign-extended immediate. -/
def Strand.srcB (t : Strand) (b : SrcB) : SReg :=
  match b with
  | .reg r => t.g r
  | .imm v => { val := v.signExtend 64, poison := false }
/-- The register a second operand names. -/
def srcBReg (b : SrcB) : List Dst :=
  match b with
  | .reg r => [.g r.toNat]
  | .imm _ => []

/-- A position or amount (R83). -/
def Strand.amt (t : Strand) (a : Amt) : BitVec 8 × Bool :=
  match a with
  | .reg r => ((t.g r).val.extractLsb' 0 8, (t.g r).poison)
  | .imm v => (v, false)
def amtReg (a : Amt) : List Dst :=
  match a with
  | .reg r => [.g r.toNat]
  | .imm _ => []

/-! Engine commands. -/

/-- The fields above the operands of an M syllable. -/
def headOf : Instr → Option MHead
  | .mma h _ _ _ _ _ | .mmai h _ _ _ _ _ _ _ _ | .mmax h _ _ _ _ _ _ _ | .mmaa h _ _ _ _ _ _ _ | .mzero h _ _
  | .mload h _ _ _ _ | .mdrain h _ _ _ _ _ _ _ _ | .lease h _ | .unlease h | .twait h _ | .tsig h _
  | .copy h _ _ _ _ _ _ _ | .copyt h _ _ _ _ _ _ _ _ _ | .nlaunch h _ _ _ _ | .pstart h _ | .pstop h _ | .psave h _ _
  | .pload h _ _ | .qflush h _ _ | .clkdiv h _ _ | .wake h _ => some h
  | _ => none

/-- The token queues a command waits on and pushes to; 0 for none. -/
def Cmd.tkw (c : Cmd) : Nat := ((headOf c.op).map (fun h => h.tkw.toNat)).getD 0
def Cmd.tks (c : Cmd) : Nat := ((headOf c.op).map (fun h => h.tks.toNat)).getD 0

/-- The byte of `sys.tkmap` for token queue k, 1 to 15: producer above, consumer below (R233). -/
def SysRegs.tkEntry (y : SysRegs) (k : Nat) : Nat :=
  if k ≤ 8 then wbits y.tkmap0 (8 * (k - 1) + 7) (8 * (k - 1)) else wbits y.tkmap1 (8 * (k - 9) + 7) (8 * (k - 9))
def SysRegs.tkProd (y : SysRegs) (k : Nat) : Nat := y.tkEntry k / 16
def SysRegs.tkCons (y : SysRegs) (k : Nat) : Nat := y.tkEntry k % 16

/-- A token queue that holds a token or has a command waiting on it (R234). -/
def Strand.tkBusy (t : Strand) (k : Nat) : Bool :=
  vAt t.e.tk k != 0 || t.e.cmds.any (fun c => c.st == .waiting && c.tkw == k)

/-! Elements (R105). -/

/-- Element n of width w. -/
def elem (x : Nat) (w n : Nat) : Nat := (x >>> (n * w)) % 2 ^ w

/-- The first k elements of width w. -/
def elems : Nat → Nat → Nat → List Nat
  | 0, _, _ => []
  | k + 1, w, x => x % 2 ^ w :: elems k w (x >>> w)

/-- A number from its elements, the first lowest. -/
def pack (w : Nat) : List Nat → Nat
  | [] => 0
  | v :: vs => v % 2 ^ w + (pack w vs) <<< w

/-- The lane a sub-element of width w lies in; an FP64 element is named by its even lane. -/
def laneOf (w n : Nat) : Nat := n * w / 32

/-- The even lanes. -/
def evenLanes : Mask := BitVec.ofNat 1024 ((2 ^ 1024 - 1) / 3)

/-- The lanes a form of element type t writes under a mask: an FP64 pair follows its even lane (R106). -/
def typeMask (t : Ty) (m : Mask) : Mask :=
  if t == .f64 then let e := m &&& evenLanes; e ||| (e <<< 1) else m

/-- The poison of the elements of type t, on every lane of each: an FP64 pair is poisoned when either lane is (R69). -/
def typePoison (t : Ty) (p : Mask) : Mask :=
  if t == .f64 then let e := (p ||| (p >>> 1)) &&& evenLanes; e ||| (e <<< 1) else p

/-- A block with every lane poisoned or none. -/
def allPoison (b : Bool) : Mask := if b then BitVec.allOnes 1024 else 0

/-! Stream positions (R166, R167). -/

/-- Blocks of a program: the product of its trip counts. -/
def Prog.total (p : Prog) : Nat := p.cnt.toList.foldl (fun n c => n * c.toNat) 1

/-- The linear position of indices, level 0 fastest. -/
def linear : List (Nat × Nat) → Nat
  | [] => 0
  | (i, c) :: r => i + c * linear r

/-- The indices of a linear position. -/
def indices : Nat → List Nat → List Nat
  | _, [] => []
  | n, c :: cs => n % c :: indices (n / c) cs

def Prog.counts (p : Prog) : List Nat := p.cnt.toList.map (fun c => c.toNat)

/-- The linear position a program starts at. -/
def Prog.start (p : Prog) : Nat := linear ((p.sta.toList.map (fun c => c.toNat)).zip p.counts)

def inbound (q : Nat) : Bool := q < 6

/-- The two words of a port's position at a linear position (R167), with eoff. -/
def posWords (p : Port) (q lin eoff : Nat) : Word × Word :=
  if !p.captured then (BitVec.ofNat 64 (q * 2 ^ 60), 0)
  else
    let ix := indices lin p.prog.counts
    let i (k : Nat) : Nat := ix.getD k 0
    (BitVec.ofNat 64 (2 ^ 63 + q * 2 ^ 60 + i 2 * 2 ^ 40 + i 1 * 2 ^ 20 + i 0),
     BitVec.ofNat 64 (eoff * 2 ^ 40 + i 4 * 2 ^ 20 + i 3))

/-- Past the last block of the stream: its last block's indices, eoff 8,191. -/
def endWords (p : Port) (q : Nat) : Word × Word :=
  posWords p q (if p.stopped then max p.prog.start ((if inbound q then p.nextNo else p.accepted) - 1) else p.prog.total - 1) 8191

/-- The position of a port at this moment: the next block to be popped, or the oldest pushed block not yet written; the reset
value while no stream is captured (R167). -/
def Port.pos (p : Port) (q : Nat) : Word × Word :=
  if !p.captured then (0, 0)
  else if inbound q then
    match p.buf with
    | b :: _ => b.pos
    | [] => if p.captured && (p.stopped || p.prog.total ≤ p.nextNo) then endWords p q else posWords p q p.nextNo 0
  else if p.captured && (p.prog.total ≤ p.nextNo || (p.stopped && p.accepted ≤ p.nextNo)) then endWords p q
  else posWords p q p.nextNo 0

/-- A `pstart` stands queued at a port. -/
def Strand.startQueued (t : Strand) (q : Nat) : Bool :=
  t.e.cmds.any (fun c => c.engine == 3 + q && c.st == .waiting && (match c.op with | .pstart _ _ => true | _ => false))

/-- The stream has no block left to fetch, or to accept (R343, R345). -/
def Port.spent (p : Port) (q : Nat) : Bool :=
  !p.captured || p.stopped || (if inbound q then p.nextNo else p.accepted) ≥ p.prog.total

/-- An end-of-stream trap (R344). -/
def Port.endTrap (p : Port) (q : Nat) : TrapRec :=
  let w := endWords p q
  { cause := 0x21, tva := 0, pos0 := w.1, pos1 := w.2, eos := some q }

/-- The trap of a faulted port (R168). -/
def Port.faultTrap (p : Port) (q : Nat) (f : PFault) : TrapRec :=
  let w := posWords p q p.nextNo f.eoff.toNat
  { cause := f.cause.zeroExtend 8, tva := f.tva, pos0 := w.1, pos1 := w.2 }

/-- What a pop finds. -/
inductive Pop where
  | block (b : PBlock) (p : Port)
  | zero
  | wait
  | trap (r : TrapRec)
  deriving DecidableEq, Repr

/-- A pop of a port by a syllable (R109, R138, R168, R172, R343, R344). -/
def Strand.pop (t : Strand) (q : Nat) : Pop :=
  let p := vAt t.e.ports q
  if !p.claims.isEmpty || p.rew.isSome then .wait
  else match p.buf with
    | b :: r => .block b { p with buf := r }
    | [] =>
      match p.fault with
      | some f => .trap (p.faultTrap q f)
      | none =>
        if t.startQueued q then .wait
        else if !p.spent q then .wait
        else if p.captured && p.prog.eot then .trap (p.endTrap q)
        else .zero

/-- What a push finds: a slot, the end, a wait, a trap. -/
inductive Push where
  | slot | drop | wait
  | trap (r : TrapRec)
  deriving DecidableEq, Repr

/-- A push to an outbound port (R109, R168, R345). -/
def Strand.push (t : Strand) (q : Nat) : Push :=
  let p := vAt t.e.ports q
  let n := p.buf.length + (t.flights.filter (fun f => f.dst == .q q)).length
  if !p.claims.isEmpty || p.rew.isSome then .wait
  else if p.spent q then
    if t.startQueued q then .wait
    else if p.captured && p.prog.eot then .trap (p.endTrap q)
    else .drop
  else if n ≥ 4 then (match p.fault with | some f => .trap (p.faultTrap q f) | none => .wait)
  else .slot

/-- The failure of an outbound stream has been raised (R168). -/
def Strand.tellFault (t : Strand) (q : Nat) : Strand :=
  let p := vAt t.e.ports q
  { t with e := { t.e with ports := vSet t.e.ports q { p with fault := p.fault.map (fun f => { f with told := true }) } } }

/-- A push traps. -/
def pushTrap (s : State) (q : Nat) (r : TrapRec) : Res := .trap (s.setMe (s.me.tellFault q)) r

def Strand.setPort (t : Strand) (q : Nat) (p : Port) : Strand := { t with e := { t.e with ports := vSet t.e.ports q p } }

/-! Vector banks at operands (R110, R350 to R353). -/

def Strand.bank (t : Strand) (i : Nat) : VBank := vAt t.r.banks (i / 4)
/-- The register's bank is full and no wake is under way. -/
def Strand.bankFull (t : Strand) (i : Nat) : Bool := (t.bank i).st == .full
/-- The bank is off, and nothing wakes it. -/
def Strand.bankOff (t : Strand) (i : Nat) : Bool := (t.bank i).st == .off && (t.bank i).wake.isNone
/-- Begin the wake of a bank that is not full: 24 core cycles from retention, 96 from off. -/
def Strand.wakeBank (t : Strand) (k : Nat) : Strand :=
  let b := vAt t.r.banks k
  if b.st == .full || b.wake.isSome then t
  else
    let b := { b with wake := some (t.clock + (if b.st == .ret then 48 else 192)) }
    { t with r := { t.r with banks := vSet t.r.banks k b } }

def setBit32 (b : BitVec 32) (i : Nat) (on : Bool) : BitVec 32 :=
  if on then b ||| BitVec.ofNat 32 (2 ^ i) else b &&& ~~~BitVec.ofNat 32 (2 ^ i)

/-- A write to a vector register at issue: live, its bank woken (R351, R353). -/
def Strand.claimV (t : Strand) (i : Nat) : Strand :=
  let t := (t.wakeBank (i / 4)).touch i
  { t with r := { t.r with live := setBit32 t.r.live i true } }

/-- A last use: dead, unless the bundle writes the register (R23), be it by a drain (R351). -/
def Strand.killV (t : Strand) (i : Nat) : Strand :=
  if t.flights.any (fun f => f.bundle == t.bundle && f.dst == .v i) || t.e.cmds.any (fun c => c.bundle == t.bundle && c.dstLock == some i) then t
  else { t with r := { t.r with live := setBit32 t.r.live i false } }

/-- Registers named by vector operands. -/
def Strand.vRegs (t : Strand) (os : List Opnd) : List Dst :=
  os.filterMap (fun o => if o.isV then some (.v (t.pv o.toNat)) else none)

/-- Ports named by operands, each once. -/
def portsOf (os : List Opnd) : List Nat :=
  (os.filterMap (fun o => if o.port then some (o.toNat - 32) else none)).eraseDups

/-- What reading vector sources comes to. -/
inductive Srcs where
  | ok (bs : List Block) (t : Strand)
  | hold (t : Strand)
  | trap (r : TrapRec)
  deriving Repr

/-- The popped blocks of ports: the block of each, the strand after. An MX block that is not expanded is no operand of a V or X
syllable (R162). -/
def popAll (t : Strand) : List Nat → Except (Option TrapRec) (List (Nat × Block) × Strand)
  | [] => .ok ([], t)
  | q :: qs =>
    match t.pop q with
    | .wait => .error none
    | .trap r => .error (some r)
    | .zero => (popAll (t.setEos q) qs).map (fun r => ((q, ⟨0, 0⟩) :: r.1, r.2))
    | .block b p =>
      if b.mxOnly then .error (some { cause := 0x20, tva := 0 })
      else (popAll (t.setPort q p) qs).map (fun r => ((q, b.blk) :: r.1, r.2))

/-- Read vector sources, in the order va, vb, vc: drains to come (R137), banks (R110, R353), pops (R109), last uses (R23). -/
def Strand.readSrcs (t : Strand) (os : List VSrc) : Srcs :=
  let regs := os.filterMap (fun o => if o.o.isV then some (t.pv o.o.toNat) else none)
  if regs.any (fun i => t.drains i) then .hold t
  else match regs.find? (fun i => t.bankOff i) with
  | some i => .trap { cause := 0x18, tva := BitVec.ofNat 64 i }
  | none =>
    if regs.any (fun i => !t.bankFull i) then .hold (regs.foldl (fun t i => t.wakeBank (i / 4)) t)
    else
      match popAll t (portsOf (os.map (fun o => o.o))) with
      | .error none => .hold t
      | .error (some r) => .trap r
      | .ok (pb, t1) =>
        let get (o : VSrc) : Block :=
          if o.o.isV then vAt t.r.v (t.pv o.o.toNat) else ((pb.find? (fun e => e.1 == o.o.toNat - 32)).map (fun e => e.2)).getD ⟨0, 0⟩
        let t2 := regs.foldl (fun t i => t.touch i) t1
        let t3 := os.foldl (fun (t : Strand) o => if o.lu && o.o.isV then t.killV (t.pv o.o.toNat) else t) t2
        .ok (os.map get) t3

/-- Send a vector result: to a register, scoreboarded where its bank is not full, or into a port (R109, R353). The strand of a
push has been granted a slot. -/
def Strand.flyV (t : Strand) (vd : Opnd) (b : Block) (m : Mask) (flags : BitVec 6) (lat : Nat) : Strand :=
  if vd.isV then
    let i := t.pv vd.toNat
    let full := t.bankFull i
    (t.claimV i).fly (.v i) (.v b m) flags lat full
  else
    let q := vd.toNat - 32
    let p := vAt t.e.ports q
    (t.setPort q { p with accepted := p.accepted + 1 }).fly (.q q) (.v b m) flags lat true

/-- Deliver a vector result of a syllable: the checks of a push, a poisoned element first, then the flight (R72, R109); of a block that a
port at its end drops, the flags (R106). -/
def deliverV (s : State) (t : Strand) (vd : Opnd) (b : Block) (m : Mask) (flags : BitVec 6) (lat : Nat) : Res :=
  if vd.isV then .ok (s.setMe (t.flyV vd b m flags lat))
  else
    let q := vd.toNat - 32
    if b.poison &&& m != 0 then trapIf s 0x19 0
    else match t.push q with
    | .wait => .hold s
    | .trap r => pushTrap s q r
    | .drop => .ok (s.setMe ((t.setEos q).fly (.g 0) (.s { val := 0, poison := false }) flags lat true))
    | .slot => .ok (s.setMe (t.flyV vd b m flags lat))

/-- Destination registers of a vector operand, for the checks of R104. -/
def Strand.vDest (t : Strand) (o : Opnd) : List Dst := if o.isV then [.v (t.pv o.toNat)] else []

end Sys2Proof.Machine
end

