-- ==== Sys2Proof/Machine/Layouts.lean ====
section
/-! DEFINITION. Blocks in memory and in registers (R158 to R162): rows and their addresses, transforms, conversions, scale
planes. -/

namespace Sys2Proof.Machine

/-! Formats (R162). -/

/-- The MX format of a code. -/
def mxOf (f : Nat) : Option MxFmt :=
  match f with
  | 16 => some .e4m3
  | 17 => some .e5m2
  | 18 => some .e2m1
  | 19 => some .i8
  | _ => none

/-- Bits of one element of a code. -/
def fmtWidth (f : Nat) : Nat :=
  match Ty.ofCode f with
  | some t => t.width
  | none => if f == 16 || f == 17 || f == 19 then 8 else 4

def isMx (f : Nat) : Bool := 16 ≤ f && f ≤ 19
/-- A code R162 admits. -/
def fmtOk (f : Nat) : Bool := f ≤ 12 || (16 ≤ f && f ≤ 21)

/-- The register-side type of a converting layout. -/
def Layout.dty (l : Layout) : Ty := (Ty.ofCode l.dfmt.toNat).getD .f32

/-- R161, R368: whether a transform is allowed in a direction. -/
def Layout.allowed (l : Layout) (inb : Bool) : Bool :=
  let f := l.fmt.toNat
  let d := l.dfmt.toNat
  match l.xf.toNat with
  | 1 => inb && (f == 1 || f == 2 || (7 ≤ f && f ≤ 10) || f == 12 || (16 ≤ f && f ≤ 21))
  | 3 => if isMx f then (if inb then d ≤ 2 else d == 0) else if 20 ≤ f then d == 3 || d == 5 || d == 7 else true
  | _ => true

/-- A layout with its rounding resolved, as a command captures it (log entry 13). -/
def Layout.capture (l : Layout) (fmode : BitVec 3) : Layout := if l.rnd == 5 then { l with rnd := fmode } else l
def Layout.mode (l : Layout) : RM := RM.ofCode l.rnd.toNat
/-- A captured layout that draws (R165, R179, R186). -/
def Layout.draws (l : Layout) : Bool := l.xf == 3 && l.rnd == 4

/-- Bits of one element on the register side. -/
def Layout.regWidth (l : Layout) : Nat := if l.xf == 3 then l.dty.width else fmtWidth l.fmt.toNat
/-- Elements of a block on the register side. -/
def Layout.capacity (l : Layout) : Nat := 32768 / l.regWidth
/-- The layout's blocks carry a scale plane on the register side. -/
def Layout.plane (l : Layout) : Bool := isMx l.fmt.toNat && l.xf != 3

/-- Elements of a row in memory, and its bytes (R160). -/
def Layout.rowElems (l : Layout) : Nat := 2048 / l.regWidth
def Layout.rowBytes (l : Layout) : Nat :=
  let e := l.rowElems
  let w := fmtWidth l.fmt.toNat
  e * w / 8 + (if isMx l.fmt.toNat then e / 32 else 0)

/-- The byte of row r's access at generic address a: banks of a scratchpad are permuted (R160, R316). -/
def Layout.permute (l : Layout) (r : Nat) (a : Word) : Word :=
  let x := a ^^^ ((l.bperm &&& BitVec.ofNat 5 r).zeroExtend 64 <<< 17)
  match winOf a with
  | .l => x
  | .s => if bits a.toNat 29 0 < 0x24000000 then x else a
  | _ => a

/-- A run of bytes cut at every bank of a scratchpad: address, length, place in the run. -/
def cutBanks : Nat → Word → Nat → Nat → List (Word × Nat × Nat)
  | 0, _, _, _ => []
  | k + 1, a, len, off =>
    let n := min len (0x20000 - a.toNat % 0x20000)
    if len ≤ n then [(a, len, off)] else (a, n, off) :: cutBanks k (a + BitVec.ofNat 64 n) (len - n) (off + n)

/-- The bytes of row r, n from a upward, as they are accessed: every byte's bank permuted (R316). -/
def Layout.parts (l : Layout) (r : Nat) (a : Word) (n : Nat) : List (Word × Nat × Nat) :=
  if l.bperm == 0 || winOf a == .d then [(a, n, 0)]
  else (cutBanks (n / 0x20000 + 2) a n 0).map (fun e => (l.permute r e.1, e.2))

/-- The generic address of row r of a block with its origin at o, before permutation. -/
def Layout.rowAddr (l : Layout) (o : Word) (r : Nat) : Word := o + BitVec.ofNat 64 r * l.rstr.signExtend 64

/-- The origin of the block at loop indices. -/
def Layout.origin (l : Layout) (ix : List Nat) : Word :=
  ((l.lst.toList.zip ix).foldl (fun (a : Word) p => a + p.1.signExtend 64 * BitVec.ofNat 64 p.2) l.base)

/-! Lists of elements. -/

/-- Pieces of n. -/
def chunks {α : Type} (n : Nat) : Nat → List α → List (List α)
  | 0, _ => []
  | k + 1, l => l.take n :: chunks n k (l.drop n)

/-- A set of lanes from booleans, the first lowest. -/
def bitsOf : List Bool → Nat
  | [] => 0
  | b :: bs => b2n b + 2 * bitsOf bs

/-- The lanes of a block, lane n taken from lane f n. -/
def permLanes (f : Nat → Nat) (b : Block) : Block :=
  let x := b.bits.toNat
  { bits := BitVec.ofNat 32768 (pack 32 ((List.range 1024).map (fun n => elem x 32 (f n))))
    poison := if b.poison == 0 then 0
              else BitVec.ofNat 1024 (bitsOf ((List.range 1024).map (fun n => b.poison.getLsbD (f n)))) }

/-- The exchange of `vtrn` (R128): lane (r, 16b + c) takes lane (c, 16b + r). -/
def trnIdx (n : Nat) : Nat := 64 * (n % 16) + 16 * (n / 16 % 4) + n / 64
def Block.transpose (b : Block) : Block := permLanes trnIdx b
/-- A set of lanes after the exchange. -/
def maskTranspose (m : Mask) : Mask :=
  if m == BitVec.allOnes 1024 then m else BitVec.ofNat 1024 (bitsOf ((List.range 1024).map (fun n => m.getLsbD (trnIdx n))))

/-- Lanes that hold an element, by element poison: for element i of width w. -/
def lanePoison (w : Nat) : Nat → List Bool → Nat → Nat
  | _, [], acc => acc
  | i, b :: bs, acc =>
    let l := i * w / 32
    lanePoison w (i + 1) bs (if b then acc ||| (2 ^ l + (if w == 64 then 2 ^ (l + 1) else 0)) else acc)

/-! From memory to register. -/

/-- A block as read. -/
structure InBlock where
  blk : PBlock
  flags : BitVec 6
  deriving DecidableEq, Repr

/-- Element bytes and scale bytes of MX rows: a scale after every n element bytes (R54). -/
def splitScales (n : Nat) : Nat → List (Byte × Bool) → List (Byte × Bool) × List (Byte × Bool)
  | 0, _ => ([], [])
  | k + 1, l =>
    let r := splitScales n k (l.drop (n + 1))
    (l.take n ++ r.1, (l.drop n).take 1 ++ r.2)

/-- Codes and poison of elements of width w from bytes and their poison. -/
def elemsOf (w : Nat) (bs : List (Byte × Bool)) : List (Nat × Bool) :=
  if w == 4 then bs.flatMap (fun b => [(b.1.toNat % 16, b.2), (b.1.toNat / 16, b.2)])
  else (chunks (w / 8) (bs.length / (w / 8)) bs).map (fun c => (ofBytes (c.map (fun b => b.1)), c.any (fun b => b.2)))

/-- One element converted on the way in (R161). -/
def Layout.convIn (l : Layout) (u x scale : Nat) : Coded :=
  let d := l.dty
  match mxOf l.fmt.toNat with
  | some f => (fmtOfTy d).ofTerm l.mode l.sat u (mxTimes f x scale).term
  | none =>
    match Ty.ofCode l.fmt.toNat with
    | some s => convert d s l.mode l.sat u x
    | none => (if l.fmt == 20 then wrap d.width (signed 4 x) else x, 0)
where
  fmtOfTy (t : Ty) : Fmt := (tyFmt t).getD Fmt.f32

/-- Elements converted on the way in, drawing from g where the mode is stochastic; sel tells whether an element's flags count. -/
def Layout.convAll (l : Layout) (sel : Nat → Bool) : Nat → BitVec 32 → List ((Nat × Bool) × Nat) → List Nat × BitVec 6
  | _, _, [] => ([], 0)
  | i, g, (e, sc) :: r =>
    let g' := drawStep g
    let c := l.convIn (drawBits g') e.1 sc
    let q := l.convAll sel (i + 1) g' r
    (c.1 :: q.1, if sel i then c.2 ||| q.2 else q.2)

/-- The scale of each of n elements: one byte to 32. -/
def spread : List Nat → List Nat
  | [] => []
  | s :: ss => List.replicate 32 s ++ spread ss

/-- The block whose memory bytes, row after row, are given with their poison; the generator stands at seed; flags count for the
elements of the lanes in m (R68). -/
def Layout.toBlock (l : Layout) (seed : BitVec 32) (m : Mask) (bs : List (Byte × Bool)) : InBlock :=
  let f := l.fmt.toNat
  let w := fmtWidth f
  let n := 4 * w
  let q := if isMx f then splitScales n (bs.length / (n + 1)) bs else (bs, [])
  let es := elemsOf w q.1
  if l.xf == 3 then
    let scs := spread (q.2.map (fun b => b.1.toNat))
    let bad := (q.2.map (fun b => List.replicate 32 b.2)).flatten
    let dw := l.dty.width
    let r := l.convAll (fun i => m.getLsbD (i * dw / 32)) 0 seed (es.zip (if isMx f then scs else List.replicate es.length 0))
    let p := if isMx f then (es.zip bad).map (fun e => e.1.2 || e.2) else es.map (fun e => e.2)
    { blk := { blk := { bits := BitVec.ofNat 32768 (pack dw r.1), poison := BitVec.ofNat 1024 (lanePoison dw 0 p 0) }
               scales := 0, spoison := 0, mx := false, mxOnly := false, pos := (0, 0), mine := true }
      flags := r.2 }
  else
    let b : Block :=
      { bits := BitVec.ofNat 32768 (ofBytes (q.1.map (fun b => b.1)))
        poison := BitVec.ofNat 1024 (lanePoison 8 0 (q.1.map (fun b => b.2)) 0) }
    { blk := { blk := if l.xf == 2 then b.transpose else b
               scales := BitVec.ofNat 2048 (ofBytes (q.2.map (fun b => b.1)))
               spoison := BitVec.ofNat 256 (bitsOf (q.2.map (fun b => b.2)))
               mx := isMx f, mxOnly := isMx f && l.xf != 1, pos := (0, 0), mine := true }
      flags := 0 }

/-! From register to memory. -/

/-- A byte to store with the bits of it that stay. -/
abbrev OutByte := Byte × Byte

/-- Bytes of elements of width w, each written or not. -/
def bytesOf (w : Nat) (es : List (Nat × Bool)) : List OutByte :=
  if w == 4 then
    (chunks 2 (es.length / 2) es).map (fun c =>
      match c with
      | [a, b] => (BitVec.ofNat 8 (a.1 % 16 + 16 * (b.1 % 16)), BitVec.ofNat 8 ((if a.2 then 0 else 15) + (if b.2 then 0 else 240)))
      | _ => (0, 255))
  else es.flatMap (fun e => (toBytes (w / 8) e.1).map (fun b => (b, if e.2 then (0 : Byte) else 255)))

/-- Scale bytes put back after every n element bytes. -/
def joinScales (n : Nat) : List OutByte → List OutByte → List OutByte
  | _, [] => []
  | bs, s :: ss => bs.take n ++ [s] ++ joinScales n (bs.drop n) ss

/-- A block as written: its bytes row after row, flags, and whether poisoned data is among what is written. -/
structure OutBlock where
  bytes : List OutByte
  flags : BitVec 6
  poison : Bool
  deriving DecidableEq, Repr

/-- One element converted on the way out (R161). -/
def Layout.convOut (l : Layout) (u x : Nat) : Coded :=
  match Ty.ofCode l.fmt.toNat with
  | some d => convert d l.dty l.mode l.sat u x
  | none => (intCode 4 (l.fmt == 20) l.sat (intVal l.dty.width l.dty.signed x), 0)

def Layout.convOutAll (l : Layout) : BitVec 32 → List (Nat × Bool) → List (Nat × Bool) × BitVec 6
  | _, [] => ([], 0)
  | g, e :: r =>
    let g' := drawStep g
    let c := l.convOut (drawBits g') e.1
    let q := l.convOutAll g' r
    ((c.1, e.2) :: q.1, if e.2 then c.2 ||| q.2 else q.2)

/-- One MX block of 32 values (R55): elements and the scale, written where some element is. -/
def quantGroup (f : MxFmt) (mode : RM) (g : BitVec 32) (es : List (Nat × Bool)) : List (Nat × Bool) × (Nat × Bool) × BitVec 6 :=
  let sc := mxScale f (es.map (fun e => e.1))
  let on := es.any (fun e => e.2)
  if sc.2.1 then (es.map (fun e => (0, e.2)), (255, on), flagIf on fInvalid)
  else if sc.2.2 then (es.map (fun e => (0, e.2)), (0, on), 0)
  else
    let r := es.foldl (fun (a : List (Nat × Bool) × BitVec 32 × BitVec 6) e =>
      let g' := drawStep a.2.1
      let c := mxElem f mode (drawBits g') sc.1 e.1
      ((c.1, e.2) :: a.1, g', if e.2 then a.2.2 ||| c.2 else a.2.2)) ([], g, 0)
    (r.1.reverse, (sc.1, on), r.2.2)

def quantAll (f : MxFmt) (mode : RM) : Nat → BitVec 32 → List (Nat × Bool) → List (Nat × Bool) × List (Nat × Bool) × BitVec 6
  | 0, _, _ => ([], [], 0)
  | k + 1, g, es =>
    let q := quantGroup f mode g (es.take 32)
    let r := quantAll f mode k (drawN 32 g) (es.drop 32)
    (q.1 ++ r.1, q.2.1 :: r.2.1, q.2.2 ||| r.2.2)

/-- The bytes of a block for the lanes in m (R161, R186): an FP64 element follows its even lane. -/
def Layout.fromBlock (l : Layout) (seed : BitVec 32) (b : PBlock) (m : Mask) : OutBlock :=
  let f := l.fmt.toNat
  let w := fmtWidth f
  if l.xf == 3 then
    let dw := l.dty.width
    let n := 32768 / dw
    let es := (elems n dw b.blk.bits.toNat).zip ((List.range n).map (fun i => m.getLsbD (i * dw / 32)))
    let pz := typePoison l.dty b.blk.poison
    match mxOf f with
    | some x =>
      let r := quantAll x l.mode (n / 32) seed es
      -- a poisoned value reaches the scale and so every element of its group
      let groups := chunks 32 (n / 32) (es.zip (List.range n))
      let bad := groups.any (fun g => g.any (fun e => e.1.2) && g.any (fun e => pz.getLsbD (e.2 * dw / 32)))
      { bytes := joinScales (4 * w) (bytesOf w r.1) (bytesOf 8 r.2.1), flags := r.2.2, poison := bad }
    | none =>
      let r := l.convOutAll seed es
      { bytes := bytesOf w r.1, flags := r.2, poison := pz &&& typeMask l.dty m != 0 }
  else
    let blk := if l.xf == 2 then b.blk.transpose else b.blk
    let mm := if l.xf == 2 then maskTranspose m else m
    let lanes := (elems 1024 32 blk.bits.toNat).zip ((List.range 1024).map (fun i => mm.getLsbD i))
    let bs := bytesOf 32 lanes
    let sc := toBytes (4096 / (4 * w)) b.scales.toNat
    { bytes := if isMx f then joinScales (4 * w) bs (sc.map (fun x => (x, (0 : Byte)))) else bs
      flags := 0, poison := blk.poison &&& mm != 0 || (isMx f && b.spoison != 0) }

/-! Rows a masked access needs (R186). -/

/-- Whether memory row r holds a byte that the lanes in m use. -/
def Layout.rowUsed (l : Layout) (m : Mask) (r : Nat) : Bool :=
  let mm := if l.xf == 2 then maskTranspose m else m
  mm.extractLsb' (64 * r) 64 != 0

/-- The size whose multiple a row's address is (R186). -/
def Layout.align (l : Layout) : Nat := max 1 (if isMx l.fmt.toNat then 1 else fmtWidth l.fmt.toNat / 8)

end Sys2Proof.Machine
end

