-- ==== Sys2Proof/Machine/Scratch.lean ====
section
/-! DEFINITION. Scratchpad banks (R355 to R359): waking, retention, going off, last-use hints. -/

namespace Sys2Proof.Machine

def SpBank.reset : SpBank := { st := .full, waking := none, drops := [], struck := [] }
def Core.bank (c : Core) (k : Nat) : SpBank := c.banks.toList.getD k SpBank.reset
def Core.setBank (c : Core) (k : Nat) (b : SpBank) : Core := { c with banks := vSet c.banks k b }

/-- The ticks of the clocks of a core's two strands n core cycles from now. -/
def State.ticksFrom (s : State) (c n : Nat) : Nat × Nat := ((s.strand (2 * c)).clock + 2 * n, (s.strand (2 * c + 1)).clock + 2 * n)

/-- Whether a wake of n core cycles begun at such ticks is over for both strands of a core (R294): each that runs has reached its tick,
or has been launched since. -/
def State.ticksOver (s : State) (c n : Nat) (w : Nat × Nat) : Bool :=
  let past (t : Strand) (k : Nat) : Bool := t.phase != .running || k ≤ t.clock || t.clock + 2 * n < k
  past (s.strand (2 * c)) w.1 && past (s.strand (2 * c + 1)) w.2

/-- Core cycles of the wake of a scratchpad bank: 24 from retention, 96 from off (R294, R355). -/
def BankSt.wakeCycles : BankSt → Nat
  | .off => 96
  | _ => 24

/-- Begin a wake of bank k of a core, unless it is full or waking (R355, R359). -/
def State.wakeSp (s : State) (c k : Nat) : State :=
  let b := (s.core c).bank k
  if b.st == .full || b.waking.isSome then s
  else s.modCore c (fun x => x.setBank k { b with waking := some (s.ticksFrom c b.st.wakeCycles) })

/-- The bank's bytes are lost: they read 0, no line is live, no word is marked (R355, R356). -/
def State.eraseBank (s : State) (c k : Nat) : State :=
  let lo := spBase c + 0x20000 * k
  let s := { s with chip := s.chip.filter (fun e => !(lo ≤ e.1 && e.1 < lo + 0x20000)) }
  s.modCore c (fun x => { x with
    live := setBits x.live (1024 * k) 1024 false
    marked := x.marked.filter (fun w => w / 16384 != k) })

/-- A bank goes off. -/
def State.spOff (s : State) (c k : Nat) : State :=
  (s.eraseBank c k).modCore c (fun x => x.setBank k { x.bank k with st := .off, struck := [] })

/-- A full bank goes to retention; one that is off is left off (R359). -/
def State.spRetain (s : State) (c k : Nat) : State :=
  s.modCore c (fun x => let b := x.bank k; if b.st == .full then x.setBank k { b with st := .ret, struck := [] } else x)

/-- The on-chip span is ready at its home: cluster SRAM has no power states, a scratchpad bank is full and no drop waits at it (R227,
R317, R355). -/
def State.chipReady (s : State) (pa : Nat) : Bool :=
  match target pa with
  | .sp c off => let b := (s.core c).bank (bankOf off); b.st == .full && b.drops.isEmpty
  | _ => true

/-- The on-chip span lies in a full bank. -/
def State.chipFull (s : State) (pa : Nat) : Bool :=
  match target pa with
  | .sp c off => ((s.core c).bank (bankOf off)).st == .full
  | _ => true

/-- A drop of strand n itself waits at the bank of an on-chip address: an access that n issues later finds what the drop leaves (R227). -/
def State.ownDrop (s : State) (n pa : Nat) : Bool :=
  match target pa with
  | .sp c off => ((s.core c).bank (bankOf off)).drops.any (fun d => d.1 == n)
  | _ => false

/-- As `chipReady`, for a request on its way with number id: drops that came later wait for it. -/
def State.chipReadyFor (s : State) (pa id : Nat) : Bool :=
  match target pa with
  | .sp c off => let b := (s.core c).bank (bankOf off); b.st == .full && b.drops.all (fun d => id < d.2.1)
  | _ => true

/-- Wake the bank of an on-chip address where it is not full. -/
def State.chipWake (s : State) (pa : Nat) : State :=
  match target pa with
  | .sp c off => s.wakeSp c (bankOf off)
  | _ => s

/-! Last-use hints (R356, R357). -/

/-- Insert a span by its start. -/
def insertSpan (x : Nat × Nat) : List (Nat × Nat) → List (Nat × Nat)
  | [] => [x]
  | y :: ys => if x.1 ≤ y.1 then x :: y :: ys else y :: insertSpan x ys

/-- Spans in rising order, those that touch joined. -/
def joinSpans : List (Nat × Nat) → List (Nat × Nat)
  | [] => []
  | x :: xs =>
    match joinSpans xs with
    | [] => [x]
    | y :: ys => if y.1 ≤ x.1 + x.2 then (x.1, max x.2 (y.1 + y.2 - x.1)) :: ys else x :: y :: ys

/-- Whole lines of a span of local offsets: first line, count. -/
def wholeLines (sp : Nat × Nat) : Nat × Nat :=
  let a := (sp.1 + 127) / 128
  let b := (sp.1 + sp.2) / 128
  (a, b - a)

/-! Drops (R227, R359). -/

/-- A request stands on its way to bank k of core c; below a running number. -/
def State.toBank (s : State) (c k no : Nat) : Bool :=
  s.net.any (fun e => e.id < no && e.sp == .chip && !e.op.isOrder && e.pa / 0x20000 == 32 * c + k)

/-- An access of strand n below a running number to some bank of the mask has still to be performed. -/
def State.toBanks (s : State) (n no : Nat) (mask : BitVec 32) : Bool :=
  s.net.any (fun e => e.id < no && e.src == .strand n && e.sp == .chip && !e.op.isOrder && e.pa / 0x20000 / 32 == coreOf n &&
    mask.getLsbD (e.pa / 0x20000 % 32))

/-- Drops of a bank take effect in their order of arrival, each once the strand's accesses before it to every bank it names, and every
access before it to this bank, have been performed and no wake is under way. -/
def applyDrops (c k : Nat) : List (Nat × Nat × Bool × BitVec 32) → State → State
  | [], s => s
  | (n, no, off, mask) :: ds, s =>
    let b := (s.core c).bank k
    if b.waking.isSome || s.toBank c k no || s.toBanks n no mask then s
    else
      let s1 := s.modCore c (fun x => x.setBank k { b with drops := ds })
      applyDrops c k ds (if off then s1.spOff c k else s1.spRetain c k)

/-- Drops that wait at a bank. -/
def State.settleBank (s : State) (c k : Nat) : State :=
  let ds := ((s.core c).bank k).drops
  if ds.isEmpty then s else applyDrops c k ds s

/-! Ownership of a bank of device memory (R415, R418). -/

/-- The bank of a request to device memory. -/
def State.bankOfReq (s : State) (r : Req) : Option Nat := if r.sp == .dram && !r.op.isOrder then (s.place r.pa).map (fun p => p.bank) else none

/-- A main-die request: any but those of the unit that serves the bank, its words' and its matrix-vector engine's (R415). -/
def State.isMain (s : State) (r : Req) : Bool :=
  match r.src with
  | .nmu u | .mve u => ((s.place r.pa).map (fun p => p.nmu)) != some u
  | _ => true

/-- A claim waits for the main requests accepted before it; then the bank is near-owned (R418). -/
def State.settleOwn (s : State) (b : Nat) : State :=
  let put (o : Own) : State := { s with m := { s.m with own := tput s.m.own b o } }
  match tget s.m.own b with
  | some (.pending ids) => if ids.any (fun i => s.net.any (fun r => r.id == i)) then s else put .near
  | some (.main ids) => if ids.any (fun i => s.net.any (fun r => r.id == i)) then s else put .near
  | _ => s

/-- A request to a home has gone: drops that wait at the core, or the owner of the bank that waits for it, go on. -/
def State.settleAt (s : State) (sp : Space) (pa : Nat) : State :=
  match sp with
  | .chip => (match target pa with
    | .sp c _ => (List.range 32).foldl (fun (s : State) k => s.settleBank c k) s
    | _ => s)
  | .dram => if s.m.own.isEmpty then s else (match s.place pa with | some p => s.settleOwn p.bank | none => s)
  | _ => s

end Sys2Proof.Machine
end

