-- ==== Sys2Proof/Machine/Requests.lean ====
section
/-! DEFINITION. Requests: putting the parts of an access on their way (R292, R321, R322), performing one at its home (R194, R198
to R200, R325, R434), and returning its answer. -/

namespace Sys2Proof.Machine

/-! Answers. -/

/-- Every part of a load has come: its value (R90, R105, R186, R194). -/
def Flight.finish (f : Flight) : Flight :=
  let bad := !f.rawPoison.isEmpty
  match f.form, f.val with
  | .ready, _ => f
  | .scalar w sx, .s v =>
    let x := ofBytes (dense f.raw w)
    { f with form := .ready, val := .s { val := BitVec.ofNat 64 (if sx then wrap 64 (signed (8 * w) x) else x), poison := v.poison || bad } }
  | .pair, .v b m =>
    { f with form := .ready
             val := .v { bits := BitVec.ofNat 32768 (ofBytes (dense f.raw 16)), poison := if bad then 1 else b.poison } m }
  | .block l seed, .v b m =>
    let n := 16 * l.rowBytes
    let ps := dense (f.rawPoison.foldl (fun (x : Mem) i => memPut x i 1) []) n
    let r := l.toBlock seed m ((dense f.raw n).zip (ps.map (fun p => p != 0)))
    { f with form := .ready, val := .v { bits := r.blk.blk.bits, poison := r.blk.blk.poison ||| b.poison } m
             flags := f.flags ||| r.flags }
  | .elems, .v b m =>
    let p := f.rawPoison.foldl (fun (a : Mask) i => a ||| BitVec.ofNat 1024 (2 ^ (i / 4))) b.poison
    { f with form := .ready, val := .v { bits := BitVec.ofNat 32768 (ofBytes (dense f.raw 4096)), poison := p } m }
  | _, _ => f

/-- A part of a flight's data. -/
def Flight.part (f : Flight) (off : Nat) (bs : List Byte) (bad : List Nat) (flags : BitVec 6) : Flight :=
  let f := { f with raw := writeBytes f.raw off bs, rawPoison := f.rawPoison ++ bad.map (fun i => off + i), need := f.need - 1,
                    flags := f.flags ||| flags }
  if f.need == 0 then f.finish else f

/-- Return an answer to its requester: bytes at an offset of the access, the offsets of poisoned ones within them, flags. -/
def State.deliver (s : State) (r : Req) (off : Nat) (bs : List Byte) (bad : List Nat) (flags : BitVec 6) : State :=
  match r.src with
  | .strand n =>
    s.modStrand n (fun t => { t with flights := t.flights.map (fun f => if f.tag == r.flight then f.part off bs bad flags else f) })
  | .nmu u =>
    if r.flight == 0 then s
    else s.modNmu u (fun m =>
      let g := m.got.getD ([], [])
      { m with wait := m.wait.map (fun k => k - 1), got := some (writeBytes g.1 off bs, g.2 ++ bad.map (fun i => off + i)),
               flags := m.flags ||| flags })
  | _ => s.gathered r.flight off bs bad

/-- The last-use hint that takes effect as a request is answered: a `vld.lu` has been performed with its last part (R356). -/
def State.hintOf (s : State) (r : Req) : Option (Nat × List (Nat × Nat)) :=
  match r.src with
  | .strand n =>
    ((s.strand n).flights.find? (fun f => f.tag == r.flight && f.need == 1 && !f.hint.isEmpty)).map (fun f => (n, f.hint))
  | _ => none

/-- Loads on their way to a bank that a hint takes off read its bytes (R359); with the hints that take effect so. -/
def State.serveReads (s : State) (c k : Nat) : State × List (Nat × List (Nat × Nat)) :=
  (s.net.filter (fun e => e.sp == .chip && e.pa / 0x20000 == 32 * c + k)).foldl (fun (x : State × List (Nat × List (Nat × Nat))) r =>
    match r.op with
    | .load off =>
      let q := x.1.readChip r.pa r.len
      ((x.1.deliver r off q.1 q.2 0).dropReq r.id, x.2 ++ (x.1.hintOf r).toList)
    | _ => x) (s, [])

/-- The part of a span of global offsets that lies in the scratchpad of a core, as local offsets. -/
def clipSpan (c : Nat) (x : Nat × Nat) : Option (Nat × Nat) :=
  let lo := max x.1 (spBase c)
  let hi := min (x.1 + x.2) (spBase c + 0x400000)
  if lo < hi then some (lo - spBase c, hi - lo) else none

/-- Last use of spans of global offsets by strand n's core: lines wholly covered and allotted become dead; a full bank that so
loses its last live line goes off. The hints of loads that this serves take effect with it, to the given depth. -/
def lastUseFrom : Nat → State → Nat → List (Nat × Nat) → State
  | 0, s, _, _ => s
  | d + 1, s, n, spans =>
    let c := coreOf n
    let mask := s.spmask n
    let sp := joinSpans ((spans.filterMap (clipSpan c)).foldl (fun l x => insertSpan x l) [])
    let dead := (sp.map wholeLines).foldl (fun (b : BitVec 32768) l => setBits b l.1 l.2 true) 0
    let dead := (List.range 32).foldl (fun (b : BitVec 32768) k => if mask.getLsbD k then b else setBits b (1024 * k) 1024 false) dead
    let before := (s.core c).live
    let after := before &&& ~~~dead
    let s1 := s.modCore c (fun x => { x with live := after })
    (List.range 32).foldl (fun (s : State) k =>
      if before.extractLsb' (1024 * k) 1024 != 0 && after.extractLsb' (1024 * k) 1024 == 0 && ((s.core c).bank k).st == .full then
        let q := s.serveReads c k
        q.2.foldl (fun (s : State) h => lastUseFrom d s h.1 h.2) (q.1.spOff c k)
      else s) s1

/-- A hint takes effect (R356, R357); each load that waits can add one. -/
def State.lastUse (s : State) (n : Nat) (spans : List (Nat × Nat)) : State := lastUseFrom (s.net.length + 1) s n spans

/-- An answer, with the hint that takes effect by it. -/
def State.answer (s : State) (r : Req) (off : Nat) (bs : List Byte) (bad : List Nat) (flags : BitVec 6) : State :=
  let s1 := s.deliver r off bs bad flags
  match s.hintOf r with
  | some h => s1.lastUse h.1 h.2
  | none => s1

/-! Performing. -/

/-- Maximal runs of bytes that are written: offset and bytes with the bits that stay. -/
def writtenRuns : Nat → List OutByte → List (Nat × List OutByte)
  | _, [] => []
  | i, b :: bs =>
    if b.2 == 255 then writtenRuns (i + 1) bs
    else match writtenRuns (i + 1) bs with
      | (j, l) :: r => if j == i + 1 then (i, b :: l) :: r else (i, [b]) :: (j, l) :: r
      | [] => [(i, [b])]

/-- The aligned 8-byte words, by number, of a run of bytes at an address in which some byte is written in part. -/
def partWords (a : Nat) (run : List OutByte) : List Nat :=
  ((List.range run.length).zip run).filterMap (fun b => if b.2.2 == 0 then none else some ((a + b.1) / 8))

/-- Store bytes of which some bits stay (R186): each written run; a word with a byte written in part keeps its mark (R358). -/
def State.storeBytes (s : State) (sp : Space) (pa : Nat) (bs : List OutByte) : State :=
  (writtenRuns 0 bs).foldl (fun (s : State) run =>
    let a := pa + run.1
    if run.2.all (fun b => b.2 == 0) then s.writeAt sp a (run.2.map (fun b => b.1)) false
    else
      let q := s.readAt sp a run.2.length
      let d := (run.2.zip q.2.1).map (fun b => (b.2 &&& b.1.2) ||| (b.1.1 &&& ~~~b.1.2))
      let w := q.1.writeAt sp a d false
      (match sp, target a with
       | .chip, .sp c off =>
         let kept := ((q.1.core c).marked).filter (fun k => (partWords off run.2).contains k)
         w.modCore c (fun x => { x with marked := kept.filter (fun k => !x.marked.contains k) ++ x.marked })
       | _, _ => w)) s

/-- The new value of an atomic on w bytes, or none where nothing is written (R194), and its flags. -/
def atomNew (op : AtomOp) (w : Nat) (old b c : Nat) : Option Nat × BitVec 6 :=
  let sg (x : Nat) : Int := signed (8 * w) x
  match op with
  | .add => (some ((old + b) % 2 ^ (8 * w)), 0)
  | .and => (some (old &&& b), 0)
  | .or => (some (old ||| b), 0)
  | .xor => (some (old ^^^ b), 0)
  | .min => (some (if sg b < sg old then b else old), 0)
  | .max => (some (if sg old < sg b then b else old), 0)
  | .minu => (some (min old b), 0)
  | .maxu => (some (max old b), 0)
  | .xchg => (some b, 0)
  | .cas => (if old == c then some b else none, 0)
  | .fadd32 => let r := Fmt.f32.add .rne false 0 old b; (some r.1, r.2)
  | .fadd64 => let r := Fmt.f64.add .rne false 0 old b; (some r.1, r.2)

/-- An accumulator of a unit (R197). -/
def State.acc (s : State) (u k : Nat) : Acc := (tget (s.nmu u).acc k).getD Acc.reset
def State.setAcc (s : State) (u k : Nat) (a : Acc) : State := s.modNmu u (fun m => { m with acc := tput m.acc k a })

/-- The format of a contribution (R198). -/
def redFmt (t : Nat) : Fmt := if t == 0 then Fmt.f32 else if t == 1 then Fmt.bf16 else Fmt.f16

/-- Readouts of n accumulators from k upward, mod 64 (R76, R199, R248): codes, poison, flags. -/
def State.readouts (s : State) (u : Nat) (f : Fmt) (fin : Bool) : Nat → Nat → State × List (Nat × Bool) × BitVec 6
  | 0, _ => (s, [], 0)
  | n + 1, k =>
    let r := (s.acc u (k % 64)).readout f
    let s1 := s.setAcc u (k % 64) (if fin then r.2.2.finish else r.2.2)
    let q := s1.readouts u f fin n (k + 1)
    (q.1, (r.1.1, r.2.1) :: q.2.1, r.1.2 ||| q.2.2)

/-- A chunk of a store of a whole line of device memory (R333, R428): no byte of the line is merged, so its errors are not found
and counted; its last chunk writes the carried-poison bit as 0. -/
def State.storeChunk (s : State) (r : Req) (bs : List OutByte) : State :=
  let line := r.pa / 64
  let s0 := if ((s.wrong line).filter (fun f => f.2 != 0)).length < 2 then s.clearFlips line else (s.takeBits line).setCarried line true
  let s1 := s0.storeBytes r.sp r.pa bs
  if s.net.any (fun e => e.id != r.id && e.src == r.src && e.whole == r.whole && !e.done && e.sp == .dram && e.pa / 64 == line) then s1
  else s1.setCarried line false

/-- The waiter of a source. -/
def State.waiterOf (s : State) (w : Who) : Option Waiter := s.waiters.find? (fun (x : Waiter) => x.who == w)
def State.dropWaiter (s : State) (w : Who) : State := { s with waiters := s.waiters.filter (fun (x : Waiter) => x.who != w) }

/-- A `semw` joins the waiter table of its word's home, which tests its condition (R201). -/
def State.addWaiter (s : State) (r : Req) (eq : Bool) (cmp : Word) : State :=
  let q := s.readAt r.sp r.pa 8
  let join (who : Who) : State :=
    let w : Waiter := { id := r.id, who := who, asid := r.asid, va := r.va, sp := r.sp, pa := r.pa, eq := eq, cmp := cmp, sat := none,
                        woken := false }
    { q.1 with waiters := q.1.waiters ++ [{ w with sat := w.test s }] }
  match r.src with
  | .strand n => join (.strand n)
  | .nmu u => join (.nmu u)
  | .record d id => join (.record d id)
  | _ => q.1

/-- What a request does at its home (R325). -/
def State.perform (s : State) (r : Req) : State :=
  let u : Nat := match r.sp with | .red u => u | _ => 0
  match r.op with
  | .load off =>
    let q := s.readAt r.sp r.pa r.len
    q.1.answer r off q.2.1 q.2.2 0
  | .store d k => if r.whole != 0 && r.sp == .dram then s.storeChunk r (d.zip k) else s.storeBytes r.sp r.pa (d.zip k)
  | .poisoned d => s.writeAt r.sp r.pa d true
  | .atom op b c ret =>
    let q := s.readAt r.sp r.pa r.len
    if !q.2.2.isEmpty then (if ret then q.1.answer r 0 q.2.1 q.2.2 0 else q.1)
    else
      let n := atomNew op r.len (ofBytes q.2.1) b.toNat c.toNat
      let s1 := match n.1 with | some v => q.1.writeAt r.sp r.pa (toBytes r.len v) false | none => q.1
      if ret then s1.answer r 0 q.2.1 [] n.2 else s1
  | .sems v =>
    let q := s.readAt r.sp r.pa 8
    if !q.2.2.isEmpty then q.1 else q.1.writeAt r.sp r.pa (toBytes 8 (ofBytes q.2.1 + v.toNat)) false
  | .redx xs => xs.foldl (fun (s : State) x => s.setAcc u x.1 ((s.acc u x.1).contribute (redFmt x.2.2.1) x.2.1.toNat x.2.2.2)) s
  | .redfOpen a => s.setAcc u r.pa (Acc.open a)
  | .redfRd bf fin =>
    let q := s.readouts u (if bf then Fmt.bf16 else Fmt.f32) fin 1 r.pa
    let x := (q.2.1.head?).getD (0, false)
    q.1.answer r 0 (toBytes 8 x.1) (if x.2 then [0] else []) q.2.2
  | .redfSt =>
    let a := s.acc u r.pa
    s.answer r 0 (toBytes 8 (a.status.toNat + wrap 9 a.anchor * 2 ^ 16 + a.count % 2 ^ 32 * 2 ^ 32)) [] 0
  | .rfin off n bf keep =>
    let q := s.readouts u (if bf then Fmt.bf16 else Fmt.f32) (!keep) n r.pa
    let w := if bf then 2 else 4
    q.1.answer r off (q.2.1.flatMap (fun x => toBytes w x.1))
      ((List.range (w * n)).filter (fun i => ((q.2.1.getD (i / w) (0, false)).2))) q.2.2
  | .semw eq cmp => s.addWaiter r eq cmp
  | .order _ => s

/-- A release at core scope that has been performed publishes its source's stores before it (R330). -/
def State.releases (s : State) (r : Req) : State := if r.rel && inCore r.scope then s.publish r.src r.id else s

/-- Take a request, with those merged into it, off the queues. -/
def State.retire (s : State) (r : Req) : State :=
  ((r.merged.foldl (fun (s : State) i => s.dropReq i) s).dropReq r.id).settleAt r.sp r.pa

/-- Requests are withdrawn; what waits for them goes on. -/
def State.withdrawAll (s : State) (rs : List Req) : State := rs.foldl (fun (s : State) r => (s.dropReq r.id).settleAt r.sp r.pa) s

/-- Perform a request and take it off the queues. -/
def State.complete (s : State) (r : Req) : State := ((s.perform r).releases r).retire r

/-! Sending. -/

/-- Begin the wakes that the scratchpad banks of an access need (R355). -/
def State.wakeSegs (s : State) (gs : List Seg) : State :=
  gs.foldl (fun (s : State) g => if g.sp == .chip then s.chipWake g.pa else s) s

/-- How a load of the strand reads its bytes. -/
inductive LWay where
  /-- at issue, with a fixed latency (R91, R292) -/
  | fixed
  /-- by requests, scoreboarded -/
  | queued
  /-- after an access of the strand's own that has to come first -/
  | hold
  deriving DecidableEq, Repr

/-- An earlier request of the strand that a load of some bytes has to follow (R202, R326, R328); its own plain stores it sees at once. -/
def Req.before (e : Req) (gs : List Seg) : Bool :=
  e.op.isOrder || e.acq || gs.any (fun g => e.sp == g.sp &&
    ((e.op.writes && !e.op.plainStore && e.pa < g.pa + g.len && g.pa < e.pa + e.len) ||
     ((!e.op.writes || e.op.isCas) && g.pa / 256 ≤ (e.pa + e.len - 1) / 256 && e.pa / 256 ≤ (g.pa + g.len - 1) / 256)))

/-- A load of strand n (l: through L): in full banks it keeps its fixed latency, whatever other parties have on their way
(R292, R293); its bundle holds until what the strand itself has before it is performed (log entry 14). -/
def State.wayL (s : State) (n : Nat) (l : Bool) (gs : List Seg) : LWay :=
  if !(l && gs.all (fun g => s.chipFull g.pa)) then .queued
  else
    let es := s.net.filter (fun e => e.src == .strand n && e.before gs)
    if gs.any (fun g => s.ownDrop n g.pa) || es.any (fun e => !s.issuing e) then .hold
    else if es.isEmpty then .fixed else .queued

/-- n bytes of on-chip memory as the strand sees them, its own stores included (R90, R314). -/
def State.peek (s : State) (n : Nat) (g : Seg) : List Byte × List Nat :=
  let own := s.net.filter (fun e => e.src == .strand n && e.op.plainStore && e.sp == .chip && e.pa < g.pa + g.len && g.pa < e.pa + e.len)
  ((own.foldl (fun (s : State) r => s.perform r) { s with waiters := [] }).readChip g.pa g.len)

/-- The bytes of an access in window L and their poison, of which `wayL` says that they are read at issue. -/
def State.peekAll (s : State) (n : Nat) (gs : List Seg) : Mem × List Nat :=
  gs.foldl (fun (a : Mem × List Nat) g =>
    let r := s.peek n g
    (writeBytes a.1 g.off r.1, a.2 ++ r.2.map (fun i => g.off + i))) ([], [])

/-! Stores of engines and other parties. -/

/-- The lines of device memory that bytes write whole, row by row (R428). -/
def wholeRows (bs : List OutByte) (gs : List Seg) : List Nat :=
  gs.flatMap (fun g => ((cutAll 64 [g]).filter (fun c =>
    c.sp == .dram && c.len == 64 && ((bs.drop c.off).take 64).all (fun x => x.2 == 0))).map (fun c => c.pa / 64))

/-- The requests of a store of bytes in chunks of 16 (R333), those without a written byte left out; no numbers the store. -/
def storeReqs (src : Src) (asid : BitVec 16) (no : Nat) (bs : List OutByte) (gs : List Seg) : List Req :=
  let lines := wholeRows bs gs
  ((cutAll 16 gs).map (fun c => (c, (bs.drop c.off).take c.len))).filterMap (fun c =>
    if c.2.all (fun x => x.2 == 255) then none
    else
      let r := mkReq src (.store (c.2.map (fun b => b.1)) (c.2.map (fun b => b.2))) c.1 asid 0
      some { r with vec := no, whole := if r.sp == .dram && lines.contains (r.pa / 64) then no else 0 })

/-- Send the stores of an engine or another party; none where it has no places. -/
def State.putSegs (s : State) (src : Src) (asid : BitVec 16) (bs : List OutByte) (gs : List Seg) : Option State :=
  let rs := storeReqs src asid (s.fresh + 1) bs gs
  if s.room src rs then some (s.sendAll rs) else none

/-! Events of homes on the compute dies and of the reduction engines. -/

/-- A request that a home may perform now. -/
def State.due (s : State) (id : Nat) : Option Req :=
  match s.req id with
  | some r => if s.free r && !r.away && !r.op.isOrder then some r else none
  | none => none

/-- An on-chip home performs an access; one that meets a bank that is not full wakes it (R325, R355). -/
def execHomeAccess (id : Nat) (s : State) : Host.Outcome State Fault Refusal :=
  event s (match s.due id with
    | some r =>
      if r.sp != .chip then none
      else if s.chipReadyFor r.pa r.id then some (s.complete r)
      else some (s.chipWake r.pa)
    | none => none)

/-- Requests that stand in the arrival buffer of a reduction engine (R434). -/
def State.arrivals (s : State) (u : Nat) : Nat := (s.net.filter (fun e => e.sp == .red u && e.accept.isSome)).length

/-- A request is refused (R192). -/
def Req.refuse (r : Req) : Req := { r with away := true, refusals := r.refusals + 1 }

/-- A home has refused a request twice: its third sending is accepted (R192). -/
def Req.kept (r : Req) : Bool := 2 ≤ r.refusals

/-- A request reaches its reduction engine, whose arrival buffer of 32 may refuse it; one that stands there is applied, of a vector of
contributions one at a time (R192, R434). -/
def execReductionApply (id : Nat) (s : State) : Host.Outcome State Fault Refusal :=
  event s (match s.due id with
    | some r =>
      (match r.sp, r.op with
       | .red u, op =>
         if r.accept.isNone then
           if s.arrivals u < 32 || r.kept then some { s.setReq { r with accept := some s.fresh } with fresh := s.fresh + 1 }
           else some (s.setReq r.refuse)
         else (match op with
           | .redx (x :: y :: xs) => some ((s.perform { r with op := .redx [x] }).setReq { r with op := .redx (y :: xs) })
           | _ => some (s.complete r))
       | _, _ => none)
    | none => none)

end Sys2Proof.Machine
end

