-- ==== Sys2Proof/Machine/Product.lean ====
section
/-! DEFINITION. What the matrix array computes (R65, R66, R71, R141, R143 to R151): the elements of a K-block, its groups applied to
a tile, the down-converter, loads and drains of tile rows. -/

namespace Sys2Proof.Machine

/-! Formats of products. -/

/-- The operand and accumulator side of a product: how codes of A and B are read, their width, the size of a group, whether the
accumulator is a pair of tiles holding FP64. -/
structure ProdFmt where
  fa : Fmt
  fb : Fmt
  w : Nat
  f64 : Bool
  deriving DecidableEq, Repr

/-- R144. -/
def mmaFmt : MmaFmt → ProdFmt
  | .f64 => ⟨.f64, .f64, 64, true⟩
  | .f32 => ⟨.f32, .f32, 32, false⟩
  | .bf16 => ⟨.bf16, .bf16, 16, false⟩
  | .f16 => ⟨.f16, .f16, 16, false⟩
  | .e4m3 => ⟨.e4m3, .e4m3, 8, false⟩
  | .e4m3e5m2 => ⟨.e4m3, .e5m2, 8, false⟩
  | .e5m2e4m3 => ⟨.e5m2, .e4m3, 8, false⟩
  | .e5m2 => ⟨.e5m2, .e5m2, 8, false⟩
  | .e2m1 => ⟨.e2m1, .e2m1, 4, false⟩

/-- R146: the element formats of A and B. -/
def mmaxFmt : MmaxFmt → MxFmt × MxFmt
  | .mxe4m3 => (.e4m3, .e4m3)
  | .mxe4m3e5m2 => (.e4m3, .e5m2)
  | .mxe5m2e4m3 => (.e5m2, .e4m3)
  | .mxe5m2 => (.e5m2, .e5m2)
  | .mxe2m1 => (.e2m1, .e2m1)
  | .mxi8 => (.i8, .i8)

/-- R147: the type A is converted to, the format of B. -/
def mmaaFmt : MmaaFmt → Ty × Fmt
  | .bf16 => (.bf16, .bf16)
  | .e4m3 => (.e4m3, .e4m3)
  | .e4m3e5m2 => (.e4m3, .e5m2)
  | .e5m2e4m3 => (.e5m2, .e4m3)
  | .e5m2 => (.e5m2, .e5m2)

/-- Width of an operand element. -/
def prodWidth : Instr → Nat
  | .mma _ f _ _ _ _ => (mmaFmt f).w
  | .mmai _ i4 _ _ _ _ _ _ _ => if i4 then 4 else 8
  | .mmax _ f _ _ _ _ _ _ => mxWidth (mmaxFmt f).1
  | .mmaa _ f _ _ _ _ _ _ => (mmaaFmt f).1.width
  | _ => 32

/-- Depth of a K-block (R141). -/
def prodKb (i : Instr) : Nat := 512 / prodWidth i

/-- Blocks of each operand (R141). -/
def prodBlocks (i : Instr) (sh : Shape) : Nat := (sh.k.toNat + prodKb i - 1) / prodKb i

/-! Elements of a block. -/

/-- Columns of equal rows. -/
def transposeL {α : Type} (n : Nat) (rows : List (List α)) : List (List α) :=
  rows.foldr (fun r acc => (r.zip acc).map (fun p => p.1 :: p.2)) (List.replicate n [])

/-- The elements of an operand block by row of A or column of B (R141): 64 lists of kb codes, each with its lane's poison. direct: the
block holds them so; else it holds the exchange. -/
def prodRows (w kb : Nat) (direct : Bool) (b : Block) : List (List (Nat × Bool)) :=
  let n := 32768 / w
  let ps : List Bool := if b.poison == 0 then List.replicate n false else
    (List.range n).map (fun i => b.poison.getLsbD (laneOf w i) || (w == 64 && b.poison.getLsbD (laneOf w i + 1)))
  let es := (elems n w b.bits.toNat).zip ps
  if direct then chunks kb 64 es else transposeL 64 (chunks 64 kb es)

/-- Scales of 64 rows, spread over their elements: codes with the poison of the scale. -/
def scaleRows (kb : Nat) (ss : List (Nat × Bool)) : List (List (Nat × Bool)) :=
  (chunks (kb / 32) 64 ss).map (fun r => r.flatMap (fun s => List.replicate 32 s))

/-! Groups (R65). -/

/-- An accumulator element and the groups of one row of A with one column of B. -/
def dotGroups {α : Type} (f : Nat → List (α × α) → Coded) : Nat × Bool → List (List (α × Bool)) → List (List (α × Bool)) →
    (Nat × Bool) × BitVec 6
  | e, a :: as, b :: bs =>
    let c := f e.1 ((a.map (fun x => x.1)).zip (b.map (fun x => x.1)))
    let p := e.2 || a.any (fun x => x.2) || b.any (fun x => x.2)
    let r := dotGroups f (c.1, p) as bs
    (r.1, c.2 ||| r.2)
  | e, _, _ => (e, 0)

/-- One row of a tile with one row of A: the columns of B that there are. -/
def dotRow {α : Type} (f : Nat → List (α × α) → Coded) (z : Bool) (a : List (List (α × Bool))) :
    List (Nat × Bool) → List (List (List (α × Bool))) → List (Nat × Bool) × BitVec 6
  | e :: es, b :: bs =>
    let c := dotGroups f (if z then (0, false) else e) a b
    let r := dotRow f z a es bs
    (c.1 :: r.1, c.2 ||| r.2)
  | es, _ => (es, 0)

/-- The rows of a tile with the rows of A that there are. -/
def dotTile {α : Type} (f : Nat → List (α × α) → Coded) (z : Bool) (bs : List (List (List (α × Bool)))) :
    List (List (Nat × Bool)) → List (List (List (α × Bool))) → List (List (Nat × Bool)) × BitVec 6
  | e :: es, a :: as =>
    let c := dotRow f z a e bs
    let r := dotTile f z bs es as
    (c.1 :: r.1, c.2 ||| r.2)
  | es, _ => (es, 0)

/-- A K-block of depth kk, in groups of g, on an m x n corner (R143). -/
def kBlock {α : Type} (m n kk g : Nat) (f : Nat → List (α × α) → Coded) (z : Bool) (tile : List (List (Nat × Bool)))
    (a b : List (List (α × Bool))) : List (List (Nat × Bool)) × BitVec 6 :=
  let grp (l : List (α × Bool)) : List (List (α × Bool)) := chunks g ((kk + g - 1) / g) (l.take kk)
  dotTile f z ((b.take n).map grp) tile ((a.take m).map grp)

/-! Tiles. -/

def Tile.zero : Tile := { bits := 0, poison := 0, written := false }
def Strand.tile (t : Strand) (i : Nat) : Tile := t.r.tiles.toList.getD i Tile.zero
def Strand.setTile (t : Strand) (i : Nat) (x : Tile) : Strand := { t with r := { t.r with tiles := vSet t.r.tiles i x } }

/-- The rows of a tile, codes with poison. -/
def Tile.rows (x : Tile) : List (List (Nat × Bool)) :=
  chunks 64 64 ((elems 4096 32 x.bits.toNat).zip
    (if x.poison == 0 then List.replicate 4096 false else (List.range 4096).map (fun i => x.poison.getLsbD i)))

/-- A tile from its rows. -/
def tileOf (rows : List (List (Nat × Bool))) : Tile :=
  let es := rows.flatten
  { bits := BitVec.ofNat 131072 (pack 32 (es.map (fun e => e.1)))
    poison := BitVec.ofNat 4096 (bitsOf (es.map (fun e => e.2)))
    written := true }

/-- Two tiles as FP64 elements, and back: outside the m x n corner each tile keeps what it held (R143). -/
def pairRows (lo hi : Tile) : List (List (Nat × Bool)) :=
  (lo.rows.zip hi.rows).map (fun r => (r.1.zip r.2).map (fun e => (e.1.1 + e.2.1 <<< 32, e.1.2 || e.2.2)))
def splitPair (m n : Nat) (lo hi : Tile) (rows : List (List (Nat × Bool))) : Tile × Tile :=
  let half (x : Tile) (f : Nat → Nat) : Tile :=
    tileOf (((rows.take m).zip x.rows).map (fun r => (r.1.take n).map (fun e => (f e.1, e.2)) ++ r.2.drop n) ++ x.rows.drop m)
  (half lo (fun v => v % 2 ^ 32), half hi (fun v => v >>> 32))

/-- The z bit and the tile of a product. -/
def prodZ : Instr → Bool
  | .mma _ _ z _ _ _ => z
  | .mmai _ _ _ _ _ z _ _ _ => z
  | .mmax _ _ z _ _ _ _ _ => z
  | .mmaa _ _ _ _ z _ _ _ => z
  | _ => false
def prodAcc : Instr → Nat
  | .mma _ _ _ a _ _ => a.toNat
  | .mmai _ _ _ _ _ _ a _ _ => a.toNat
  | .mmax _ _ _ a _ _ _ _ => a.toNat
  | .mmaa _ _ _ _ _ a _ _ => a.toNat
  | _ => 0

/-- Values of codes. -/
def readVals {α : Type} (f : Nat → α) (rows : List (List (Nat × Bool))) : List (List (α × Bool)) :=
  rows.map (fun r => r.map (fun e => (f e.1, e.2)))

/-- Values of MX elements with their scales. -/
def readMx (f : MxFmt) (rows sc : List (List (Nat × Bool))) : List (List (Val × Bool)) :=
  (rows.zip sc).map (fun r => (r.1.zip r.2).map (fun e => (mxTimes f e.1.1 e.2.1, e.1.2 || e.2.2)))

/-- The rows of A that `mmaa` converts from a tile (R147): element (i, k) uses draw 64 i + k + 1; flags of the elements within m and
the depth. -/
def convertA (ty : Ty) (md : RM) (sat ta : Bool) (m k : Nat) (seed : BitVec 32) (tile : List (List (Nat × Bool))) :
    List (List (Nat × Bool)) × BitVec 6 :=
  let rows := if ta then transposeL 64 tile else tile
  let one (i : Nat) (r : List (Nat × Bool)) : List (Nat × Bool) × BitVec 6 :=
    let q := r.foldl (fun (a : List (Nat × Bool) × BitVec 32 × BitVec 6 × Nat) e =>
      let g := drawStep a.2.1
      let c := convert ty .f32 md sat (drawBits g) e.1
      ((c.1, e.2) :: a.1, g, (if a.2.2.2 < k then a.2.2.1 ||| c.2 else a.2.2.1), a.2.2.2 + 1)) ([], drawN (64 * i) seed, 0, 0)
    (q.1.reverse, if i < m then q.2.2.1 else 0)
  let rs := ((List.range 64).zip rows).map (fun p => one p.1 p.2)
  (rs.map (fun r => r.1), rs.foldl (fun a r => a ||| r.2) 0)

/-- An operand as a product reads it: a block, and its scales where it is block-scaled. -/
structure ProdOpnd where
  blk : Block
  scales : List (Nat × Bool)

/-- The strand after K-block b of a product (R143), with the flags raised (R67). -/
def Strand.applyBlock (t : Strand) (i : Instr) (sh : Shape) (seed : BitVec 32) (b : Nat) (oa ob : ProdOpnd) : Strand :=
  let kb := prodKb i
  let w := prodWidth i
  let m := sh.m.toNat
  let n := sh.n.toNat
  let kk := min kb (sh.k.toNat - kb * b)
  let z := prodZ i && b == 0
  let k := prodAcc i
  let ra := prodRows w kb (!sh.ta) oa.blk
  let rb := prodRows w kb sh.tb ob.blk
  let one (r : List (List (Nat × Bool)) × BitVec 6) : Strand := (t.setTile k (tileOf r.1)).raise r.2
  match i with
  | .mma _ f _ _ _ _ =>
    let p := mmaFmt f
    let a := readVals p.fa.val ra
    let b := readVals p.fb.val rb
    if p.f64 then
      let r := kBlock m n kk 2 (groupFloat Fmt.f64) z (pairRows (t.tile k) (t.tile (k + 1))) a b
      let q := splitPair m n (t.tile k) (t.tile (k + 1)) r.1
      ((t.setTile k q.1).setTile (k + 1) q.2).raise r.2
    else one (kBlock m n kk 8 (groupFloat Fmt.f32) z (t.tile k).rows a b)
  | .mmai _ _ sa sb sat _ _ _ _ =>
    one (kBlock m n kk 8 (fun e ps => (groupInt sat e ps, 0)) z (t.tile k).rows (readVals (intVal w sa) ra) (readVals (intVal w sb) rb))
  | .mmax _ f _ _ _ _ _ _ =>
    let p := mmaxFmt f
    one (kBlock m n kk 8 (groupFloat Fmt.f32) z (t.tile k).rows (readMx p.1 ra (scaleRows kb oa.scales))
      (readMx p.2 rb (scaleRows kb ob.scales)))
  | .mmaa _ f rsr sat _ _ opa _ =>
    let p := mmaaFmt f
    let q := convertA p.1 (if rsr then .rsr else .rne) sat sh.ta m sh.k.toNat seed (t.tile (opa.toNat - 40)).rows
    let fa : Fmt := (tyFmt p.1).getD Fmt.f32
    let r := kBlock m n kk 8 (groupFloat Fmt.f32) z (t.tile k).rows (readVals fa.val (q.1.map (fun r => r.drop (kb * b))))
      (readVals p.2.val rb)
    one (r.1, if b == 0 then r.2 ||| q.2 else r.2)
  | _ => t

/-! Transfers. -/

/-- R148. -/
def Strand.zeroTiles (t : Strand) (k c : Nat) : Strand :=
  (List.range c).foldl (fun (t : Strand) i => t.setTile (k + i) { Tile.zero with written := true }) t

/-- R149: rows 16p to 16p + 15 of a tile from a block. -/
def Tile.load (x : Tile) (p : Nat) (b : Block) : Tile :=
  let mb : TileBits := BitVec.ofNat 131072 ((2 ^ 32768 - 1) <<< (32768 * p))
  let mp : BitVec 4096 := BitVec.ofNat 4096 ((2 ^ 1024 - 1) <<< (1024 * p))
  { bits := (x.bits &&& ~~~mb) ||| (b.bits.zeroExtend 131072 <<< (32768 * p))
    poison := (x.poison &&& ~~~mp) ||| (b.poison.zeroExtend 4096 <<< (1024 * p))
    written := true }

/-- The destination type of a drain, and the tile rows it covers (R150). -/
def drainTy : DrainFmt → Ty × Nat
  | .raw => (.u32, 16)
  | .bf16 => (.bf16, 32)
  | .f16 => (.f16, 32)
  | .e4m3 => (.e4m3, 64)
  | .e5m2 => (.e5m2, 64)
  | .i8 => (.i8, 64)
  | .u8 => (.u8, 64)
  | .i16 => (.i16, 32)
  | .u16 => (.u16, 32)
  | .i32 => (.i32, 16)

/-- Drains that requantise, and drains that convert. -/
def drainRequants : DrainFmt → Bool
  | .i8 | .u8 | .i16 | .u16 | .i32 => true
  | _ => false
def drainConverts : DrainFmt → Bool
  | .bf16 | .f16 | .e4m3 | .e5m2 => true
  | _ => false

/-- Elements of a drain (R150). -/
def drainCount (f : DrainFmt) : Nat := 64 * (drainTy f).2

/-- The block a drain writes (R150, R151), and its flags. -/
def drainBlock (f : DrainFmt) (md : RM) (sat : Bool) (seed : BitVec 32) (p : Nat) (x : Tile) (par : Block) : Block × BitVec 6 :=
  let ty := (drainTy f).1
  let n := drainCount f
  let es := (elems n 32 (x.bits.toNat >>> (32 * n * p))).zip ((List.range n).map (fun i => x.poison.getLsbD (n * p + i)))
  let lanes := elems 320 32 par.bits.toNat
  let cols := (List.range 64).map (fun j =>
    let l (r : Nat) : Nat := lanes.getD (64 * r + j) 0
    (signed 32 (l 0), l 1 % 64, signed 32 (l 2), signed 32 (l 3), signed 32 (l 4),
     (List.range 5).any (fun r => par.poison.getLsbD (64 * r + j))))
  let out : List (Nat × Bool) × BitVec 6 :=
    if drainRequants f then
      (((List.replicate (drainTy f).2 cols).flatten.zip es).map (fun e =>
        let c := e.1
        (wrap ty.width (requant ty.width ty.signed (signed 32 e.2.1) c.1 c.2.1 c.2.2.1 c.2.2.2.1 c.2.2.2.2.1), e.2.2 || c.2.2.2.2.2)), 0)
    else if drainConverts f then
      let q := es.foldl (fun (a : List (Nat × Bool) × BitVec 32 × BitVec 6) e =>
        let g := drawStep a.2.1
        let c := convert ty .f32 md sat (drawBits g) e.1
        ((c.1, e.2) :: a.1, g, a.2.2 ||| c.2)) ([], seed, 0)
      (q.1.reverse, q.2.2)
    else (es, 0)
  ({ bits := BitVec.ofNat 32768 (pack ty.width (out.1.map (fun e => e.1)))
     poison := BitVec.ofNat 1024 (lanePoison ty.width 0 (out.1.map (fun e => e.2)) 0) }, out.2)

/-- The rows a drain read, zeroed and cleared of poison (`.clr`). -/
def Tile.clearRows (x : Tile) (n p : Nat) : Tile :=
  let mb : TileBits := BitVec.ofNat 131072 ((2 ^ (32 * n) - 1) <<< (32 * n * p))
  let mp : BitVec 4096 := BitVec.ofNat 4096 ((2 ^ n - 1) <<< (n * p))
  { x with bits := x.bits &&& ~~~mb, poison := x.poison &&& ~~~mp, written := true }

end Sys2Proof.Machine
end

