-- ==== Sys2Proof/Machine/ScalarInt.lean ====
section
/-! DEFINITION. Scalar integer instructions (R77 to R84, R102): arithmetic, logic, shifts, division, fields, constants and
addresses. -/

namespace Sys2Proof.Machine

/-- A scalar result of fixed latency. -/
def sendG (s : State) (t : Strand) (gd : GReg) (v : Word) (poison : Bool) (lat : Nat) : Res :=
  .ok (s.setMe (t.fly (.g gd.toNat) (.s { val := v, poison := poison }) 0 lat true))

/-- The binary forms (R78): gd := f(ga, b); poison follows the sources and the guard (R71). -/
def sBin (s : State) (g : Guard) (o : SBin) (lat : Nat) (f : Word → Word → Word) : Host.Outcome State Fault Refusal :=
  syllable s false g (fun _ => .g o.gd.toNat :: .g o.ga.toNat :: srcBReg o.b) (fun t =>
    sendG s t o.gd (f (t.g o.ga).val (t.srcB o.b).val)
      ((t.g o.ga).poison || (t.srcB o.b).poison || (t.p g.p).poison) lat)

/-- The unary forms (R82). -/
def sUn (s : State) (g : Guard) (gd ga : GReg) (lat : Nat) (f : Word → Word) : Host.Outcome State Fault Refusal :=
  syllable s false g (fun _ => [.g gd.toNat, .g ga.toNat]) (fun t =>
    sendG s t gd (f (t.g ga).val) ((t.g ga).poison || (t.p g.p).poison) lat)

/-! The functions of R78 to R83. -/

/-- R78: bits 127 to 64 of the exact product. -/
def mulHigh (sg : Bool) (a b : Word) : Word :=
  if sg then BitVec.ofInt 64 (a.toInt * b.toInt / 2 ^ 64) else BitVec.ofNat 64 (a.toNat * b.toNat / 2 ^ 64)

/-- R81. -/
def quot (sg : Bool) (a b : Word) : Word :=
  if b = 0 then BitVec.allOnes 64
  else if sg then BitVec.ofInt 64 (a.toInt.tdiv b.toInt) else BitVec.ofNat 64 (a.toNat / b.toNat)

/-- R81. -/
def remn (sg : Bool) (a b : Word) : Word :=
  if b = 0 then a
  else if sg then BitVec.ofInt 64 (a.toInt.tmod b.toInt) else BitVec.ofNat 64 (a.toNat % b.toNat)

/-- R80: the amount of a shift. -/
def shAmt (b : Word) : Nat := (b.extractLsb' 0 8).toNat

def shlW (a b : Word) : Word := if shAmt b ≥ 64 then 0 else a <<< shAmt b
def shrW (a b : Word) : Word := if shAmt b ≥ 64 then 0 else a >>> shAmt b
def sraW (a b : Word) : Word := a.sshiftRight (min (shAmt b) 64)
def rotW (a b : Word) : Word := a.rotateLeft (shAmt b % 64)

/-- Leading zero bits of a w-bit number. -/
def clzN (w x : Nat) : Nat := if x == 0 then w else w - 1 - Nat.log2 x
/-- Trailing zero bits of a 64-bit word. -/
def ctzLoop (x : Word) : Nat → Nat → Nat
  | 0, i => i
  | k + 1, i => if x.getLsbD i then i else ctzLoop x k (i + 1)
def ctzW (a : Word) : Word := BitVec.ofNat 64 (ctzLoop a 64 0)
def clzW (a : Word) : Word := BitVec.ofNat 64 (clzN 64 a.toNat)
/-- Set bits of a number of w bits. -/
def popN : Nat → Nat → Nat
  | 0, _ => 0
  | k + 1, x => x % 2 + popN k (x / 2)
def popW (a : Word) : Word := BitVec.ofNat 64 (popN 64 a.toNat)
/-- R82: -2^63 stays itself. -/
def absW (a : Word) : Word := if a.msb then 0 - a else a

/-- The bytes of the low n bytes reversed, zero-extended. -/
def bswapN (n : Nat) (a : Word) : Word := BitVec.ofNat 64 (ofBytes (toBytes n a.toNat).reverse)

/-- R83, for width w: bits beyond the width read as 0. -/
def bfxN (w a pos len : Nat) (sx : Bool) : Nat :=
  let f := ((a % 2 ^ w) >>> pos) % 2 ^ len
  if sx then wrap w (signed len f) else f

/-- R83: bits beyond 63 are dropped. -/
def bfiW (a base : Word) (pos len : Nat) : Word :=
  if pos ≥ 64 then base
  else
    let m : Word := BitVec.ofNat 64 ((2 ^ len - 1) <<< pos)
    (base &&& ~~~m) ||| (BitVec.ofNat 64 (a.toNat <<< pos) &&& m)

/-- R83, for width w: the 2w bits hi:lo shifted right by n. -/
def fshN (w hi lo n : Nat) : Nat := ((hi % 2 ^ w * 2 ^ w + lo % 2 ^ w) >>> n) % 2 ^ w

/-! The instructions. -/

def execAdd (g : Guard) (o : SBin) (s : State) : Host.Outcome State Fault Refusal := sBin s g o 1 (fun a b => a + b)
def execSub (g : Guard) (o : SBin) (s : State) : Host.Outcome State Fault Refusal := sBin s g o 1 (fun a b => a - b)
def execMul (g : Guard) (o : SBin) (s : State) : Host.Outcome State Fault Refusal := sBin s g o 3 (fun a b => a * b)
def execMulh (g : Guard) (o : SBin) (s : State) : Host.Outcome State Fault Refusal := sBin s g o 4 (mulHigh true)
def execMulhu (g : Guard) (o : SBin) (s : State) : Host.Outcome State Fault Refusal := sBin s g o 4 (mulHigh false)
def execAnd (g : Guard) (o : SBin) (s : State) : Host.Outcome State Fault Refusal := sBin s g o 1 (fun a b => a &&& b)
def execOr (g : Guard) (o : SBin) (s : State) : Host.Outcome State Fault Refusal := sBin s g o 1 (fun a b => a ||| b)
def execXor (g : Guard) (o : SBin) (s : State) : Host.Outcome State Fault Refusal := sBin s g o 1 (fun a b => a ^^^ b)
def execAndn (g : Guard) (o : SBin) (s : State) : Host.Outcome State Fault Refusal := sBin s g o 1 (fun a b => a &&& ~~~b)
def execShl (g : Guard) (o : SBin) (s : State) : Host.Outcome State Fault Refusal := sBin s g o 1 shlW
def execShr (g : Guard) (o : SBin) (s : State) : Host.Outcome State Fault Refusal := sBin s g o 1 shrW
def execSra (g : Guard) (o : SBin) (s : State) : Host.Outcome State Fault Refusal := sBin s g o 1 sraW
def execRot (g : Guard) (o : SBin) (s : State) : Host.Outcome State Fault Refusal := sBin s g o 1 rotW
def execMin (g : Guard) (o : SBin) (s : State) : Host.Outcome State Fault Refusal :=
  sBin s g o 1 (fun a b => if b.slt a then b else a)
def execMax (g : Guard) (o : SBin) (s : State) : Host.Outcome State Fault Refusal :=
  sBin s g o 1 (fun a b => if a.slt b then b else a)
def execMinu (g : Guard) (o : SBin) (s : State) : Host.Outcome State Fault Refusal :=
  sBin s g o 1 (fun a b => if b.ult a then b else a)
def execMaxu (g : Guard) (o : SBin) (s : State) : Host.Outcome State Fault Refusal :=
  sBin s g o 1 (fun a b => if a.ult b then b else a)

/-- R79. -/
def execAddi (g : Guard) (gd ga gb : GReg) (imm : BitVec 32) (s : State) : Host.Outcome State Fault Refusal :=
  syllable s false g (fun _ => [.g gd.toNat, .g ga.toNat, .g gb.toNat]) (fun t =>
    sendG s t gd ((t.g ga).val + (t.g gb).val + imm.signExtend 64)
      ((t.g ga).poison || (t.g gb).poison || (t.p g.p).poison) 1)

/-- Division (R81, R102): the divider takes one at a time; the result is scoreboarded and lands 12 to 40 cycles after issue,
where in that span is the part's (`resultLanding`). -/
def sDiv (s : State) (g : Guard) (o : SBin) (f : Word → Word → Word) : Host.Outcome State Fault Refusal :=
  syllable s false g (fun _ => .g o.gd.toNat :: .g o.ga.toNat :: srcBReg o.b) (fun t =>
    if t.flights.any (fun x => x.last != 0) then .hold s
    else
      let v : SReg := { val := f (t.g o.ga).val (t.srcB o.b).val
                        poison := (t.g o.ga).poison || (t.srcB o.b).poison || (t.p g.p).poison }
      let x : Flight :=
        { tag := t.newTag, bundle := t.bundle, dst := .g o.gd.toNat, val := .s v, flags := 0, due := t.clock + t.cyc 12,
          last := t.clock + t.cyc 40, fixed := false, need := 0, raw := [], rawPoison := [], form := .ready, hint := [] }
      .ok (s.setMe { t with flights := t.flights ++ [x] }))

def execDiv (g : Guard) (o : SBin) (s : State) : Host.Outcome State Fault Refusal := sDiv s g o (quot true)
def execDivu (g : Guard) (o : SBin) (s : State) : Host.Outcome State Fault Refusal := sDiv s g o (quot false)
def execRem (g : Guard) (o : SBin) (s : State) : Host.Outcome State Fault Refusal := sDiv s g o (remn true)
def execRemu (g : Guard) (o : SBin) (s : State) : Host.Outcome State Fault Refusal := sDiv s g o (remn false)

def execAbs (g : Guard) (o : SUn) (s : State) : Host.Outcome State Fault Refusal := sUn s g o.gd o.ga 1 absW
def execClz (g : Guard) (o : SUn) (s : State) : Host.Outcome State Fault Refusal := sUn s g o.gd o.ga 2 clzW
def execCtz (g : Guard) (o : SUn) (s : State) : Host.Outcome State Fault Refusal := sUn s g o.gd o.ga 2 ctzW
def execPopc (g : Guard) (o : SUn) (s : State) : Host.Outcome State Fault Refusal := sUn s g o.gd o.ga 2 popW

/-- R82: code 0 eight bytes, 1 four, 2 two. -/
def execBswap (g : Guard) (o : SUn) (w : BitVec 2) (s : State) : Host.Outcome State Fault Refusal :=
  sUn s g o.gd o.ga 1 (bswapN (8 / 2 ^ w.toNat))

/-- R83. -/
def execBfx (g : Guard) (gd ga : GReg) (pos : Amt) (len : BitVec 7) (sx : Bool) (s : State) : Host.Outcome State Fault Refusal :=
  syllable s false g (fun _ => .g gd.toNat :: .g ga.toNat :: amtReg pos) (fun t =>
    sendG s t gd (BitVec.ofNat 64 (bfxN 64 (t.g ga).val.toNat (t.amt pos).1.toNat len.toNat sx))
      ((t.g ga).poison || (t.amt pos).2 || (t.p g.p).poison) 1)

/-- R83. -/
def execBfi (g : Guard) (gd ga base : GReg) (pos : Amt) (len : BitVec 7) (s : State) : Host.Outcome State Fault Refusal :=
  syllable s false g (fun _ => .g gd.toNat :: .g ga.toNat :: .g base.toNat :: amtReg pos) (fun t =>
    sendG s t gd (bfiW (t.g ga).val (t.g base).val (t.amt pos).1.toNat len.toNat)
      ((t.g ga).poison || (t.g base).poison || (t.amt pos).2 || (t.p g.p).poison) 1)

/-- R83. -/
def execFsh (g : Guard) (gd ga gb : GReg) (n : Amt) (s : State) : Host.Outcome State Fault Refusal :=
  syllable s false g (fun _ => .g gd.toNat :: .g ga.toNat :: .g gb.toNat :: amtReg n) (fun t =>
    sendG s t gd (BitVec.ofNat 64 (fshN 64 (t.g ga).val.toNat (t.g gb).val.toNat (t.amt n).1.toNat))
      ((t.g ga).poison || (t.g gb).poison || (t.amt n).2 || (t.p g.p).poison) 1)

/-- R84. -/
def execLi (g : Guard) (gd : GReg) (imm : BitVec 32) (s : State) : Host.Outcome State Fault Refusal :=
  syllable s false g (fun _ => [.g gd.toNat]) (fun t => sendG s t gd (imm.signExtend 64) (t.p g.p).poison 1)

/-- R84. -/
def execLih (g : Guard) (gd ga : GReg) (imm : BitVec 32) (s : State) : Host.Outcome State Fault Refusal :=
  sUn s g gd ga 1 (fun a => imm ++ a.extractLsb' 0 32)

/-- R84. -/
def execLea (g : Guard) (gd ga gb : GReg) (sh : BitVec 3) (disp : BitVec 24) (s : State) : Host.Outcome State Fault Refusal :=
  syllable s false g (fun _ => [.g gd.toNat, .g ga.toNat, .g gb.toNat]) (fun t =>
    sendG s t gd ((t.g ga).val + ((t.g gb).val <<< sh.toNat) + disp.signExtend 64)
      ((t.g ga).poison || (t.g gb).poison || (t.p g.p).poison) 1)

/-- R89: the classification of R311 as a value. -/
def winqOf (a : Word) (len : Nat) : Word :=
  let w := winOf a
  let cross := winOf (a + BitVec.ofNat 64 (len - 1)) != w
  let off := match w with
    | .d => bits a.toNat 55 0
    | .s => bits a.toNat 29 0
    | .l => bits a.toNat 21 0
    | .none => 0
  let c := match w with | .none => 0 | .d => 1 | .s => 2 | .l => 3
  BitVec.ofNat 64 (off * 256 + b2n cross * 4 + c)

/-- R89: a length of 0 is 1; the immediate is zero-extended. -/
def execWinq (g : Guard) (o : SBin) (s : State) : Host.Outcome State Fault Refusal :=
  syllable s false g (fun _ => .g o.gd.toNat :: .g o.ga.toNat :: srcBReg o.b) (fun t =>
    let len : SReg := match o.b with | .reg r => t.g r | .imm v => { val := v.zeroExtend 64, poison := false }
    let n := if len.val = 0 then 1 else len.val.toNat
    sendG s t o.gd (winqOf (t.g o.ga).val n) ((t.g o.ga).poison || len.poison || (t.p g.p).poison) 1)

end Sys2Proof.Machine
end

