-- ==== Sys2Proof/Machine/ScalarPred.lean ====
section
/-! DEFINITION. Compares, selection and predicates of the S class (R85 to R88). -/

namespace Sys2Proof.Machine

/-- Whether a compare under a mask leaves bits unwritten, so that the register's poison stays (R71, R85; log entry 12). -/
def partMask (m : Mask) : Bool := m != BitVec.allOnes 1024

/-- A predicate result of fixed latency 2 (R102), written where m has a bit; k: the register's poison stays. -/
def sendP (s : State) (t : Strand) (i : Nat) (v : Mask) (poison : Bool) (m : Mask) (k : Bool) : Res :=
  .ok (s.setMe (t.fly (.p i) (.p { val := v, poison := poison } m k) 0 2 true))

/-- All bits alike. -/
def uniform (b : Bool) : Mask := if b then BitVec.allOnes 1024 else 0

/-- R85. -/
def condHolds (c : Cond) (a b : Word) : Bool :=
  match c with
  | .eq => a == b
  | .ne => a != b
  | .lt => a.slt b
  | .ge => !a.slt b
  | .ltu => a.ult b
  | .geu => !a.ult b
  | .gt => b.slt a
  | .le => !b.slt a
  | .gtu => b.ult a
  | .leu => !b.ult a
  | .tst => (a &&& b) != 0

/-- R85: the active bits of pd become the result. -/
def execCmp (g : Guard) (pd : PRegNo) (ga : GReg) (b : SrcB) (c : Cond) (s : State) : Host.Outcome State Fault Refusal :=
  syllable s false g (fun t => .p (t.pp pd.toNat) :: .g ga.toNat :: srcBReg b) (fun t =>
    sendP s t (t.pp pd.toNat) (uniform (condHolds c (t.g ga).val (t.srcB b).val))
      ((t.g ga).poison || (t.srcB b).poison || (t.p g.p).poison) (t.mask g) (partMask (t.mask g)))

/-- The value of a predicate under a negate bit. -/
def Strand.pneg (t : Strand) (p : PRegNo) (neg : Bool) : Mask := if neg then ~~~(t.p p).val else (t.p p).val

/-- R86. The result depends on the source selected (R71). -/
def execSel (g : Guard) (o : SBin) (pc : PRegNo) (neg : Bool) (s : State) : Host.Outcome State Fault Refusal :=
  syllable s false g (fun t => .g o.gd.toNat :: .g o.ga.toNat :: .p (t.pp pc.toNat) :: srcBReg o.b) (fun t =>
    if (t.p pc).poison then trapIf s 0x1A 0
    else
      let v := if t.pneg pc neg != 0 then t.g o.ga else t.srcB o.b
      sendG s t o.gd v.val (v.poison || (t.p g.p).poison) 1)

/-- R87: row k of a predicate. -/
def predRow (m : Mask) (k : Nat) : Word := m.extractLsb' (64 * k) 64
/-- The bits of row k. -/
def rowMask (k : Nat) : Mask := BitVec.ofNat 1024 ((2 ^ 64 - 1) * 2 ^ (64 * k))

/-- R87. -/
def execMovpToScalar (g : Guard) (gd : GReg) (pa : PRegNo) (k : BitVec 4) (s : State) : Host.Outcome State Fault Refusal :=
  syllable s false g (fun t => [.g gd.toNat, .p (t.pp pa.toNat)]) (fun t =>
    sendG s t gd (predRow (t.p pa).val k.toNat) ((t.p pa).poison || (t.p g.p).poison) 1)

/-- R87: the other rows and the register's poison stay. -/
def execMovpToPredicate (g : Guard) (pd : PRegNo) (ga : GReg) (k : BitVec 4) (s : State) : Host.Outcome State Fault Refusal :=
  syllable s false g (fun t => [.p (t.pp pd.toNat), .g ga.toNat]) (fun t =>
    sendP s t (t.pp pd.toNat) (BitVec.ofNat 1024 ((t.g ga).val.toNat * 2 ^ (64 * k.toNat)))
      ((t.g ga).poison || (t.p g.p).poison) (rowMask k.toNat) true)

/-- Predicate logic (R88): all bits, whatever the guard's lanes. -/
def pLogic (s : State) (g : Guard) (o : PBin) (f : Mask → Mask → Mask) : Host.Outcome State Fault Refusal :=
  syllable s false g (fun t => [.p (t.pp o.pd.toNat), .p (t.pp o.pa.toNat), .p (t.pp o.pb.toNat)]) (fun t =>
    sendP s t (t.pp o.pd.toNat) (f (t.p o.pa).val (t.p o.pb).val)
      ((t.p o.pa).poison || (t.p o.pb).poison || (t.p g.p).poison) (BitVec.allOnes 1024) false)

def execPand (g : Guard) (o : PBin) (s : State) : Host.Outcome State Fault Refusal := pLogic s g o (fun a b => a &&& b)
def execPor (g : Guard) (o : PBin) (s : State) : Host.Outcome State Fault Refusal := pLogic s g o (fun a b => a ||| b)
def execPxor (g : Guard) (o : PBin) (s : State) : Host.Outcome State Fault Refusal := pLogic s g o (fun a b => a ^^^ b)

/-- R88. -/
def execPnot (g : Guard) (pd pa : PRegNo) (s : State) : Host.Outcome State Fault Refusal :=
  syllable s false g (fun t => [.p (t.pp pd.toNat), .p (t.pp pa.toNat)]) (fun t =>
    sendP s t (t.pp pd.toNat) (~~~(t.p pa).val) ((t.p pa).poison || (t.p g.p).poison) (BitVec.allOnes 1024) false)

/-- The first n bits. -/
def firstBits (n : Nat) : Mask := BitVec.ofNat 1024 (2 ^ min n 1024 - 1)

/-- R88: n unsigned and saturated at 1,024; an immediate is zero-extended. -/
def execPsetPredicate (g : Guard) (pd : PRegNo) (n : SrcB) (s : State) : Host.Outcome State Fault Refusal :=
  syllable s false g (fun t => .p (t.pp pd.toNat) :: srcBReg n) (fun t =>
    let v : Nat × Bool := match n with | .reg r => ((t.g r).val.toNat, (t.g r).poison) | .imm v => (v.toNat, false)
    sendP s t (t.pp pd.toNat) (firstBits v.1) (v.2 || (t.p g.p).poison) (BitVec.allOnes 1024) false)

/-- R88. -/
def execPcnt (g : Guard) (gd : GReg) (pa : PRegNo) (s : State) : Host.Outcome State Fault Refusal :=
  syllable s false g (fun t => [.g gd.toNat, .p (t.pp pa.toNat)]) (fun t =>
    sendG s t gd (BitVec.ofNat 64 (popN 1024 (t.p pa).val.toNat)) ((t.p pa).poison || (t.p g.p).poison) 2)

/-- R88. -/
def execPany (g : Guard) (gd : GReg) (pa : PRegNo) (s : State) : Host.Outcome State Fault Refusal :=
  syllable s false g (fun t => [.g gd.toNat, .p (t.pp pa.toNat)]) (fun t =>
    sendG s t gd (BitVec.ofNat 64 (b2n ((t.p pa).val != 0))) ((t.p pa).poison || (t.p g.p).poison) 2)

end Sys2Proof.Machine
end

