-- ==== Sys2Proof/Machine/Control.lean ====
section
/-! DEFINITION. Control transfer (R95 to R98) and the trap forms (R101). -/

namespace Sys2Proof.Machine

/-- A syllable that transfers control: its guard may not be poisoned (R72). -/
def control (s : State) (g : Guard) (ds : Strand → List Dst) (k : Strand → Res) : Host.Outcome State Fault Refusal :=
  syllable s false g ds (fun t => if (t.p g.p).poison then trapIf s 0x1A 0 else k t)

/-- A write that waits for the end of the bundle (R16). -/
def Strand.defer (t : Strand) (p : Pend) : Strand := { t with pend := t.pend ++ [p] }

/-- Transfer, n strand cycles after issue; a target that is not a bundle address faults at the transferring bundle (R15). -/
def transfer (s : State) (t : Strand) (target : Word) (n : Nat) : Res :=
  if target.toNat % 8 != 0 then trapIf s 0x0A target else .ok (s.setMe (t.defer (.jump target n)))

/-- The target of a displacement, in syllables from the bundle's address (R77, R95). -/
def Strand.target (t : Strand) (disp : BitVec 32) : Word := t.pc + (disp.signExtend 64) * 8

/-- The address of the next bundle in sequence. -/
def Strand.link (t : Strand) : Word := t.pc + BitVec.ofNat 64 (8 * t.blen)

/-- R95. -/
def execBr (g : Guard) (pa : PRegNo) (neg all : Bool) (disp : BitVec 32) (s : State) : Host.Outcome State Fault Refusal :=
  control s g (fun t => [.p (t.pp pa.toNat)]) (fun t =>
    if (t.p pa).poison then trapIf s 0x1A 0
    else
      let m := t.pneg pa neg
      if (if all then m == BitVec.allOnes 1024 else m != 0) then transfer s t (t.target disp) 3 else .ok s)

/-- R95. -/
def execJmp (g : Guard) (disp : BitVec 32) (s : State) : Host.Outcome State Fault Refusal :=
  control s g (fun _ => []) (fun t => transfer s t (t.target disp) 3)

/-- R95. -/
def execCall (g : Guard) (gd : GReg) (disp : BitVec 32) (s : State) : Host.Outcome State Fault Refusal :=
  control s g (fun _ => [.g gd.toNat]) (fun t =>
    transfer s (t.fly (.g gd.toNat) (.s { val := t.link, poison := false }) 0 1 true) (t.target disp) 3)

/-- R95: a poisoned target address raises 0x1A (R72). -/
def execRet (g : Guard) (ga : GReg) (s : State) : Host.Outcome State Fault Refusal :=
  control s g (fun _ => [.g ga.toNat]) (fun t =>
    if (t.g ga).poison then trapIf s 0x1A 0 else transfer s t (t.g ga).val 3)

/-- R95. -/
def execJr (g : Guard) (gd ga : GReg) (imm : BitVec 32) (s : State) : Host.Outcome State Fault Refusal :=
  control s g (fun _ => [.g gd.toNat, .g ga.toNat]) (fun t =>
    if (t.g ga).poison then trapIf s 0x1A 0
    else transfer s (t.fly (.g gd.toNat) (.s { val := t.link, poison := false }) 0 1 true) ((t.g ga).val + imm.signExtend 64) 3)

/-- Physical predicates p8 to p(8+s-1) under the base after the rotation, but for the new p8 itself. -/
def loopTests (b : BitVec 4) (s : Nat) : List Nat := (List.range (s - 1)).map (fun j => mapP (b + 1) (9 + j))

/-- R96: s - 1 is encoded. -/
def execLoop (g : Guard) (gd : GReg) (sm : BitVec 3) (disp : BitVec 32) (s : State) : Host.Outcome State Fault Refusal :=
  control s g (fun t => .g gd.toNat :: .p (mapP (t.sys.rot + 1) 8) :: (loopTests t.sys.rot (sm.toNat + 1)).map Dst.p) (fun t =>
    let ps := (loopTests t.sys.rot (sm.toNat + 1)).map (fun i => vAt t.r.p i)
    if (t.g gd).poison || ps.any (fun p => p.poison) then trapIf s 0x1A 0
    else
      let n := (t.g gd).val - 1
      let p8 := uniform ((0 : Word).slt n)
      let t0 := t.fly (.g gd.toNat) (.s { val := n, poison := false }) 0 1 true
      let all : Mask := BitVec.allOnes 1024
      let t1 := (t0.fly (.p (mapP (t.sys.rot + 1) 8)) (.p { val := p8, poison := false } all false) 0 1 true).defer .rotate
      if p8 != 0 || ps.any (fun p => p.val != 0) then transfer s t1 (t.target disp) 1 else .ok (s.setMe t1))

/-- R97: the bit is cleared before the pops and pushes of the bundle, which may set it again. -/
def execBrq (g : Guard) (q : BitVec 3) (c : Bool) (disp : BitVec 32) (s : State) : Host.Outcome State Fault Refusal :=
  control s g (fun _ => []) (fun t =>
    if t.sys.qeos.getLsbD q.toNat then transfer s (if c then t.clearEos q.toNat else t) (t.target disp) 3 else .ok s)

/-- R98: no further bundle issues. R72 names no `halt`: a poisoned guard counts by its bits alone (log entry 31). -/
def execHalt (g : Guard) (s : State) : Host.Outcome State Fault Refusal :=
  syllable s false g (fun _ => []) (fun t => .ok (s.setMe (t.defer .halt)))

/-- R98. -/
def execNop (g : Guard) (s : State) : Host.Outcome State Fault Refusal := syllable s false g (fun _ => []) (fun _ => .ok s)

/-- R98: waits for an event of the mask, or ga core cycles when ga is not 0; a poisoned count raises 0x1A (R72). -/
def execWfe (g : Guard) (gd ga : GReg) (mask : BitVec 16) (s : State) : Host.Outcome State Fault Refusal :=
  syllable s false g (fun _ => [.g gd.toNat, .g ga.toNat]) (fun t =>
    let got : BitVec 7 := t.sys.evt &&& mask.setWidth 7
    let n := (t.g ga).val.toNat
    let done (t : Strand) : Res :=
      let t := { t with sys := { t.sys with evt := t.sys.evt &&& ~~~got } }
      .ok (s.setMe (t.fly (.g gd.toNat) (.s { val := got.zeroExtend 64, poison := (t.p g.p).poison }) 0 2 true))
    if (t.g ga).poison then trapIf s 0x1A 0
    else if got != 0 then done t
    else if n == 0 then .hold s
    else match t.wfeFrom with
      | none => .hold (s.setMe { t with wfeFrom := some (t.clock + 2 * n) })
      | some d => if t.wfeOut || d ≤ t.clock then done t else .hold s)

/-- The time of a waiting `wfe` is over (R98). -/
def execWfeTimeout (n : Nat) (s : State) : Host.Outcome State Fault Refusal :=
  let t := s.strand n
  event s (match t.wfeFrom with
    | some d => if t.phase == .running && d ≤ t.clock && !t.wfeOut then some (s.setStrand n { t with wfeOut := true }) else none
    | none => none)

/-- R101: cause 0x3F, `sys.tva` the code; a poisoned guard, which R72 does not name here, counts by its bits alone (log entry 31). -/
def execTrap (g : Guard) (code : BitVec 32) (s : State) : Host.Outcome State Fault Refusal :=
  syllable s false g (fun _ => []) (fun _ => trapIf s 0x3F (code.zeroExtend 64))

/-- R101: cause 0x39, `sys.tva` the tag; a poisoned guard counts by its bits alone (log entry 31). -/
def execBrk (g : Guard) (tag : BitVec 32) (s : State) : Host.Outcome State Fault Refusal :=
  syllable s false g (fun _ => []) (fun _ => trapIf s 0x39 (tag.zeroExtend 64))

/-- R101: privileged; the return takes effect when the bundle ends (R16). -/
def execEret (g : Guard) (s : State) : Host.Outcome State Fault Refusal :=
  syllable s true g (fun _ => []) (fun t =>
    if (t.p g.p).poison then trapIf s 0x1A 0
    else if t.sys.tpc.toNat % 8 != 0 then trapIf s 0x0A t.sys.tpc
    else .ok (s.setMe (t.defer .eret)))

end Sys2Proof.Machine
end

