-- ==== Sys2Proof/Machine/System.lean ====
section
/-! DEFINITION. System registers and shape registers (R99, R100, R139, R232 to R234). -/

namespace Sys2Proof.Machine

/-- System registers user state may read (R233). -/
def userReads (n : Nat) : Bool := n < 0x020
/-- System registers user state may write (R233). DESIGN CHOICE (log entry 104): `sys.bankst`, of whose fields user state may write `idle`
alone, takes a user's write; the fields it may only read keep their values. -/
def userWrites (n : Nat) : Bool :=
  n == 0x003 || n == 0x004 || n == 0x005 || n == 0x006 || n == 0x007 || n == 0x008 || n == 0x009 || n == 0x00A || n == 0x00C ||
  n == 0x00D || n == 0x00E

/-- The two bits of a bank's state. -/
def BankSt.code : BankSt → Nat
  | .full => 0
  | .ret => 1
  | .off => 2

/-- Two bits for each bank, bank 0 lowest. -/
def codes : List BankSt → Nat
  | [] => 0
  | b :: bs => b.code + 4 * codes bs

/-- A system register of strand n as it reads (R233). -/
def State.sysRead (s : State) (n r : Nat) : Word :=
  let t := s.strand n
  let y := t.sys
  match r with
  | 0x000 => BitVec.ofNat 64 (coreOf n * 256 + n % 2)
  | 0x001 => BitVec.ofNat 64 (b2n y.il)
  | 0x002 => BitVec.ofNat 64 (b2n y.priv + 2 * b2n y.ppriv)
  | 0x003 => y.rot.zeroExtend 64
  | 0x004 => y.fmode.zeroExtend 64
  | 0x005 => y.fflags.zeroExtend 64
  | 0x006 => y.seed.zeroExtend 64
  | 0x007 => y.qeos.zeroExtend 64
  | 0x008 => y.evt.zeroExtend 64
  | 0x00A => y.deadline
  | 0x00B => y.barl.zeroExtend 64
  | 0x00C => y.tkmap0
  | 0x00D => y.tkmap1
  | 0x00E => BitVec.ofNat 64 (t.r.live.toNat * 2 ^ 32 + y.idle.toNat * 2 ^ 16 + codes (t.r.banks.toList.map (fun b => b.st)))
  | 0x00F => BitVec.ofNat 64 (codes ((s.core (coreOf n)).banks.toList.map (fun b => b.st)))
  | 0x010 => BitVec.ofNat 64 (t.clock / 2)
  | 0x011 => y.kinfo
  | 0x018 | 0x019 | 0x01A | 0x01B | 0x01C => vAt y.dom (r - 0x018)
  | 0x020 => y.tcause.zeroExtend 64
  | 0x021 => y.tpc
  | 0x022 => y.tva
  | 0x023 => y.tpos0
  | 0x024 => y.tpos1
  | 0x025 | 0x026 | 0x027 => vAt y.tcut (r - 0x025)
  | 0x028 => y.ttag
  | 0x030 => y.asid.zeroExtend 64
  | 0x031 => y.dbg.zeroExtend 64
  | 0x032 => y.bpa
  | _ => 0

/-- The bits of a system register that are not reserved (R233). -/
def sysDefined (r : Nat) : Word :=
  match r with
  | 0x000 => 0xFF01
  | 0x001 => 1
  | 0x002 => 3
  | 0x003 => 0xF
  | 0x004 => 7
  | 0x005 => 0x3F
  | 0x006 => 0xFFFFFFFF
  | 0x007 => 0xFF
  | 0x008 => 0x7F
  | 0x009 => 1
  | 0x00B => 0xFFFFFF
  | 0x00D => 0x00FFFFFFFFFFFFFF
  | 0x011 => 0xFFFFFFFF003FFFFF
  | 0x018 | 0x019 | 0x01A | 0x01B | 0x01C => 0x8000FFFFFFFFFF7F
  | 0x020 => 0xFF
  | 0x027 => 0x0000FFFFFFFFFFFF
  | 0x028 => 0xF0FFFFFFFFFFFFFF
  | 0x030 => 0xFFFF
  | 0x031 => 7
  | 0x032 => 0xFFFFFFFFFFFFFFF8
  | _ => BitVec.allOnes 64

/-- R234: the value for `sys.tkmap0` (first queue 1) or `sys.tkmap1` (first queue 9) names an engine code of 12 to 15, or changes
the entry of a queue in use. -/
def Strand.tkmapBad (t : Strand) (first n : Nat) (v : Word) : Bool :=
  (List.range n).any (fun i =>
    let b := wbits v (8 * i + 7) (8 * i)
    11 < b / 16 || 11 < b % 16 || (b != t.sys.tkEntry (first + i) && t.tkBusy (first + i)))

/-- A value a write of the register may not hold (R56, R232, R234). -/
def Strand.sysBad (t : Strand) (r : Nat) (v : Word) : Bool :=
  v &&& ~~~sysDefined r != 0 ||
  (r == 0x004 && 4 < v.toNat) ||
  (r == 0x00C && t.tkmapBad 1 8 v) ||
  (r == 0x00D && t.tkmapBad 9 7 v)

/-- R100: a supervisor register in user state raises 0x04. -/
def execSysr (g : Guard) (gd : GReg) (n : BitVec 12) (s : State) : Host.Outcome State Fault Refusal :=
  syllable s (!userReads n.toNat) g (fun _ => [.g gd.toNat]) (fun t =>
    sendG s t gd (s.sysRead s.cur n.toNat) (t.p g.p).poison 2)

/-- R100, R232: the write takes effect for the next bundle; `sys.evtp` pokes the other strand (R233). A write of `sys.evt` comes before the
events that the bundle's later syllables set (R234). DESIGN CHOICE (log entry 103): a bundle may write `sys.seed`, `sys.fflags` or
`sys.qeos` beside syllables that draw, raise flags or meet an end, and the written value stands at its end. -/
def execSysw (g : Guard) (n : BitVec 12) (ga : GReg) (s : State) : Host.Outcome State Fault Refusal :=
  syllable s (!userWrites n.toNat) g (fun _ => [.g ga.toNat]) (fun t =>
    let v := (t.g ga).val
    if (t.g ga).poison then trapIf s 0x1A 0
    else if t.sysBad n.toNat v then trapIf s 0x03 0
    else if n = 0x009 then
      .ok (if v.getLsbD 0 then s.modStrand (otherOf s.cur) (fun o => o.setEvt 6) else s)
    else if n = 0x008 then .ok (s.setMe (t.writeSys 0x008 v))
    else .ok (s.setMe (t.defer (.sys n.toNat v))))

/-! Shape registers (R99, R139). -/

/-- Whether a value fits a shape field. -/
def shapeFits (field : Nat) (v : Nat) : Bool :=
  match field with
  | 0 | 1 => 1 ≤ v && v ≤ 64
  | 2 => 1 ≤ v && v ≤ 16777215
  | _ => v ≤ 1

def Shape.get (h : Shape) (field : Nat) : Nat :=
  match field with
  | 0 => h.m.toNat
  | 1 => h.n.toNat
  | 2 => h.k.toNat
  | 3 => b2n h.ta
  | _ => b2n h.tb

/-- R99: the field of the shadow that stands after the bundle's swap, if an M syllable makes one (R16). -/
def execShset (g : Guard) (sh : ShReg) (field : BitVec 5) (v : SrcB) (s : State) : Host.Outcome State Fault Refusal :=
  syllable s false g (fun _ => srcBReg v) (fun t =>
    let x : Nat × Bool := match v with | .reg r => ((t.g r).val.toNat, (t.g r).poison) | .imm v => (v.toNat, false)
    if x.2 then trapIf s 0x1A 0
    else if !shapeFits field.toNat x.1 then trapIf s 0x03 0
    else .ok (s.setMe (t.defer (.shadow sh.toNat field.toNat x.1))))

/-- R99. -/
def execShget (g : Guard) (gd : GReg) (sh : ShReg) (field : BitVec 5) (shadow : Bool) (s : State) :
    Host.Outcome State Fault Refusal :=
  syllable s false g (fun _ => [.g gd.toNat]) (fun t =>
    let h := if shadow then vAt t.r.shadow sh.toNat else vAt t.r.sh sh.toNat
    sendG s t gd (BitVec.ofNat 64 (h.get field.toNat)) (t.p g.p).poison 1)

end Sys2Proof.Machine
end

