-- ==== Sys2Proof/Machine/ScalarFp.lean ====
section
/-! DEFINITION. Scalar floating point (R92 to R94). -/

namespace Sys2Proof.Machine

/-- The u of a scalar rounding, and the strand after its draw (R63). -/
def Strand.drawS (t : Strand) (m : RM) : Nat × Strand := if m == .rsr then (drawAt t.sys.seed 1, t.draw 1) else (0, t)

/-- A floating-point result: zero-extended, its flags raised when it lands (R68). -/
def sendF (s : State) (t : Strand) (gd : GReg) (c : Coded) (poison : Bool) (lat : Nat) : Res :=
  .ok (s.setMe (t.fly (.g gd.toNat) (.s { val := BitVec.ofNat 64 c.1, poison := poison }) c.2 lat true))

/-- The float format of a type that R92 admits. -/
def fmtOf (t : Ty) : Fmt := (tyFmt t).getD Fmt.f32

/-- The binary forms of R92. -/
def fBin (s : State) (g : Guard) (o : FBin) (f : Fmt → RM → Bool → Nat → Nat → Nat → Coded) :
    Host.Outcome State Fault Refusal :=
  syllable s false g (fun _ => [.g o.gd.toNat, .g o.ga.toNat, .g o.gb.toNat]) (fun t =>
    let m := t.mode o.rnd
    let d := t.drawS m
    let w := 2 ^ o.ty.width
    sendF s d.2 o.gd (f (fmtOf o.ty) m o.sat d.1 ((t.g o.ga).val.toNat % w) ((t.g o.gb).val.toNat % w))
      ((t.g o.ga).poison || (t.g o.gb).poison || (t.p g.p).poison) 4)

def execFadd (g : Guard) (o : FBin) (s : State) : Host.Outcome State Fault Refusal := fBin s g o Fmt.add
def execFsub (g : Guard) (o : FBin) (s : State) : Host.Outcome State Fault Refusal := fBin s g o Fmt.sub
def execFmul (g : Guard) (o : FBin) (s : State) : Host.Outcome State Fault Refusal := fBin s g o Fmt.mul

/-- R92: a b + c with one rounding. -/
def execFfma (g : Guard) (o : FBin) (gc : GReg) (s : State) : Host.Outcome State Fault Refusal :=
  syllable s false g (fun _ => [.g o.gd.toNat, .g o.ga.toNat, .g o.gb.toNat, .g gc.toNat]) (fun t =>
    let m := t.mode o.rnd
    let d := t.drawS m
    let w := 2 ^ o.ty.width
    sendF s d.2 o.gd
      ((fmtOf o.ty).fma m o.sat d.1 false ((t.g o.ga).val.toNat % w) ((t.g o.gb).val.toNat % w) ((t.g gc).val.toNat % w))
      ((t.g o.ga).poison || (t.g o.gb).poison || (t.g gc).poison || (t.p g.p).poison) 5)

/-- R93: an integer result is extended by its sign, every other by zeros. -/
def execFcvt (g : Guard) (gd ga : GReg) (d src : Ty) (rnd : Rnd) (sat : Bool) (s : State) : Host.Outcome State Fault Refusal :=
  syllable s false g (fun _ => [.g gd.toNat, .g ga.toNat]) (fun t =>
    let m := t.mode rnd
    let u := t.drawS m
    let c := convert d src m sat u.1 ((t.g ga).val.toNat % 2 ^ src.width)
    let v := if d.isI && d.signed then wrap 64 (Sys2Proof.signed d.width c.1) else c.1
    sendF s u.2 gd (v, c.2) ((t.g ga).poison || (t.p g.p).poison) 4)

/-- R94: pd as `cmp` writes it; the flags are raised with it. -/
def execFcmp (g : Guard) (pd : PRegNo) (ga gb : GReg) (ty : Ty) (c : FCond) (s : State) : Host.Outcome State Fault Refusal :=
  syllable s false g (fun t => [.p (t.pp pd.toNat), .g ga.toNat, .g gb.toNat]) (fun t =>
    let w := 2 ^ ty.width
    let r := (fmtOf ty).cmp c ((t.g ga).val.toNat % w) ((t.g gb).val.toNat % w)
    let v : PReg := { val := uniform r.1, poison := (t.g ga).poison || (t.g gb).poison || (t.p g.p).poison }
    .ok (s.setMe (t.fly (.p (t.pp pd.toNat)) (.p v (t.mask g) (partMask (t.mask g))) r.2 2 true)))

end Sys2Proof.Machine
end

