-- ==== Sys2Proof/Machine/ScalarMem.lean ====
section
/-! DEFINITION. Scalar memory (R90, R91), and the shape shared with `ldacq` and `strel` (R203): the access checked, its pieces
sent or read at once, the result on its way. -/

namespace Sys2Proof.Machine

/-- Bytes of a width. -/
def wdBytes : Wd → Nat
  | .b => 1
  | .h => 2
  | .w => 4
  | .d => 8

/-- What becomes of the checks of an access by the strand: go on with the segments, hold, or trap. -/
def checked (r : State × Chk) (k : State → List Seg → Res) : Res :=
  match r.2 with
  | .ok gs => k r.1 gs
  | .fault c a => trapIf r.1 c a
  | .wait => .hold r.1

/-- The checks of an access of the strand `cur` (R189, R292). -/
def State.check (s : State) (p : Perm) (align : Nat) (a : Word) (len : Nat) : State × Chk :=
  s.resolve (.strand s.cur) (coreOf s.cur) s.cur s.me.sys.asid p align a len

/-- A flight that gathers n parts. -/
def Strand.gather (t : Strand) (d : Dst) (v : FVal) (n : Nat) (form : LandForm) : Strand × Nat :=
  ({ t with flights := t.flights ++
      [{ tag := t.newTag, bundle := t.bundle, dst := d, val := v, flags := 0, due := t.clock, last := 0, fixed := false, need := n,
         raw := [], rawPoison := [], form := form, hint := [] }] }, t.newTag)

/-- Send the requests of a load, made of the segments, that feed a new flight; the bundle holds while places lack (R322). -/
def sendLoad (s : State) (gs : List Seg) (d : Dst) (v : FVal) (form : LandForm) (mk : Req → Req) : Res :=
  let t := s.me
  let f := t.gather d v gs.length form
  let rs := gs.map (fun g => mk (mkReq (.strand s.cur) (.load g.off) g t.sys.asid f.2))
  if !s.room (.strand s.cur) rs then .hold s else .ok (((s.setMe f.1).wakeSegs gs).sendAll rs)

/-- Send the requests of a store of the bytes. -/
def sendStore (s : State) (gs : List Seg) (bs : List OutByte) (mk : Req → Req) : Res :=
  let rs := gs.map (fun g =>
    let l := (bs.drop g.off).take g.len
    mk (mkReq (.strand s.cur) (.store (l.map (fun b => b.1)) (l.map (fun b => b.2))) g s.me.sys.asid 0))
  if !s.room (.strand s.cur) rs then .hold s else .ok ((s.wakeSegs gs).sendAll rs)

/-- Send the chunks of a `vst` or the elements of a `vscat`, in no order among themselves (R333). -/
def sendBlock (s : State) (gs : List Seg) (bs : List OutByte) : Res :=
  let rs := storeReqs (.strand s.cur) s.me.sys.asid (s.fresh + 1) bs gs
  if !s.room (.strand s.cur) rs then .hold s else .ok ((s.wakeSegs gs).sendAll rs)

/-- Bytes written whole. -/
def whole (bs : List Byte) : List OutByte := bs.map (fun b => (b, 0))

/-- A scalar load of w bytes at a. Through L and full banks it has its fixed latency (R91); acq and scope are those of `ldacq`. -/
def scalarLoad (s : State) (gd : GReg) (a : Word) (w : Nat) (sx : Bool) (align : Nat) (poison acq : Bool) (sc : Scope) : Res :=
  checked (s.check { r := true } align a w) (fun s gs =>
    let v : FVal := .s { val := 0, poison := poison }
    let queued : Res := sendLoad s (cutAll 8 gs) (.g gd.toNat) v (.scalar w sx) (fun r => { r with acq := acq, scope := sc })
    match (if acq then .queued else s.wayL s.cur (winOf a == .l) gs) with
    | .hold => .hold s
    | .queued => queued
    | .fixed =>
      let r := s.peekAll s.cur gs
      let t := s.me
      let f : Flight :=
        { tag := t.newTag, bundle := t.bundle, dst := .g gd.toNat, val := v, flags := 0, due := t.clock + t.cyc 8, last := 0, fixed := true,
          need := 0, raw := r.1, rawPoison := r.2, form := .scalar w sx, hint := [] }
      .ok (s.setMe { t with flights := t.flights ++ [f.finish] }))

/-- A scalar store of the low w bytes of a value. -/
def scalarStore (s : State) (v a : Word) (w align : Nat) (rel : Bool) (sc : Scope) : Res :=
  checked (s.check { w := true } align a w) (fun s gs =>
    sendStore s (cutAll 8 gs) (whole (toBytes w v.toNat)) (fun r => { r with rel := rel, scope := sc }))

/-- R90, R91. -/
def execLd (g : Guard) (o : SBin) (w : Wd) (sx : Bool) (s : State) : Host.Outcome State Fault Refusal :=
  syllable s false g (fun _ => .g o.gd.toNat :: .g o.ga.toNat :: srcBReg o.b) (fun t =>
    if (t.g o.ga).poison || (t.srcB o.b).poison then trapIf s 0x1A 0
    else scalarLoad s o.gd ((t.g o.ga).val + (t.srcB o.b).val) (wdBytes w) sx 1 (t.p g.p).poison false .sd)

/-- R90: gd is the source. -/
def execSt (g : Guard) (o : SBin) (w : Wd) (s : State) : Host.Outcome State Fault Refusal :=
  syllable s false g (fun _ => .g o.gd.toNat :: .g o.ga.toNat :: srcBReg o.b) (fun t =>
    if (t.g o.ga).poison || (t.srcB o.b).poison then trapIf s 0x1A 0
    else if (t.g o.gd).poison || (t.p g.p).poison then trapIf s 0x19 0
    else scalarStore s (t.g o.gd).val ((t.g o.ga).val + (t.srcB o.b).val) (wdBytes w) 1 false .sd)

end Sys2Proof.Machine
end

