-- ==== Sys2Proof/Machine/Engine.lean ====
section
/-! DEFINITION. The engine side of a strand: M syllables at issue (R24, R136, R137, R140, R173), claims on ports (R138, R346), tokens
(R299), and how a command stops on a fault or leaves its queue (R136, R155, R448). -/

namespace Sys2Proof.Machine

/-! Commands. -/

def Strand.cmd (t : Strand) (id : Nat) : Option Cmd := t.e.cmds.find? (fun c => c.id == id)
def Strand.setCmd (t : Strand) (c : Cmd) : Strand :=
  { t with e := { t.e with cmds := t.e.cmds.map (fun x => if x.id == c.id then c else x) } }

/-- The commands of a queue, oldest first. -/
def Strand.queue (t : Strand) (e : Nat) : List Cmd := t.e.cmds.filter (fun c => c.engine == e)
/-- Entries of a queue (R173). -/
def queueDepth (e : Nat) : Nat := if 3 ≤ e && e ≤ 10 then 4 else 16
/-- The command at the head of its queue. -/
def Strand.isHead (t : Strand) (c : Cmd) : Bool := ((t.queue c.engine).head?.map (fun x => x.id)) == some c.id
/-- The engine queue of a port. -/
def portEngine (q : Nat) : Nat := 3 + q
/-- The engine code and address tag of a command, as `sys.ttag` has them. -/
def Cmd.ttag (c : Cmd) : Word := BitVec.ofNat 64 (c.engine * 2 ^ 60) + c.tag
/-- The strand's engines go on: not for a strand that is being evicted or has gone. -/
def Strand.engines (t : Strand) : Bool := t.phase == .running || t.phase == .halted || t.phase == .hostStop
/-- The strand is being evicted. -/
def Strand.leaving (t : Strand) : Bool := match t.phase with | .evicting _ _ => true | _ => false
/-- A command takes nothing more before its strand returns from supervisor state (R452). -/
def Cmd.live (c : Cmd) : Bool := c.st == .running

/-! Tokens. -/

/-- A token can be taken, or none is asked for. -/
def Strand.hasTk (t : Strand) (k : Nat) : Bool := k == 0 || vAt t.e.tk k != 0
def Strand.takeTk (t : Strand) (k : Nat) : Strand :=
  if k == 0 then t else { t with e := { t.e with tk := vSet t.e.tk k (vAt t.e.tk k - 1) } }
/-- A token can be pushed, or none is. -/
def Strand.roomTk (t : Strand) (k : Nat) : Bool := k == 0 || vAt t.e.tk k < 16
/-- Push a token; one for the strand itself sets bit 0 of `sys.evt` (R234). -/
def Strand.pushTk (t : Strand) (k : Nat) : Strand :=
  if k == 0 then t
  else
    let t := { t with e := { t.e with tk := vSet t.e.tk k (vAt t.e.tk k + 1) } }
    if t.sys.tkCons k == 0 then t.setEvt 0 else t

/-! Issue. -/

/-- `sys.tkmap` names the engine as the consumer of tkw and the producer of tks (R136). -/
def Strand.tkOk (t : Strand) (h : MHead) (e : Nat) : Bool :=
  (h.tkw == 0 || t.sys.tkCons h.tkw.toNat == e) && (h.tks == 0 || t.sys.tkProd h.tks.toNat == e)

/-- The swap of a shape register (R140). -/
def Strand.swapIn (t : Strand) (h : MHead) : Strand :=
  if h.swap then { t with r := { t.r with sh := vSet t.r.sh h.sh.toNat (vAt t.r.shadow h.sh.toNat) } } else t

/-- An M syllable (R72, R140): its guard may not be poisoned, of a `copy` or `copyt` as data, of another as what decides; the strand its
effect starts from has the swap made. -/
def guardedM (cause : BitVec 7) (s : State) (h : MHead) (ds : Strand → List Dst) (k : Strand → Res) : Host.Outcome State Fault Refusal :=
  syllable s false h.g ds (fun t => if (t.p h.g.p).poison then trapIf s cause 0 else k (t.swapIn h))
def mSyllable (s : State) (h : MHead) (ds : Strand → List Dst) (k : Strand → Res) : Host.Outcome State Fault Refusal := guardedM 0x1A s h ds k

/-- A command as it enters queue e with its captures still to be made. -/
def Strand.newCmd (t : Strand) (id e : Nat) (h : MHead) (op : Instr) : Cmd :=
  { id := id, engine := e, seq := vAt t.e.seq e, tag := t.pc &&& 0x00FFFFFFFFFFFFFF, bundle := t.bundle, op := op, endBit := !t.more, st := .waiting,
    shape := vAt t.r.sh h.sh.toNat, ops := Vector.replicate 4 0, src := Layout.reset, dst := Layout.reset, prog := Prog.reset,
    seed := t.sys.seed, seed0 := t.sys.seed, done := 0, fin := 0, crc := 0xFFFFFFFF, scrc := 0xFFFFFFFF, locks := [], dstLock := none, md := 0, uses := [] }

/-- What a command brings with it into its queue: physical registers it reads and is checked against (R137), ports it names, claims it
makes (port, blocks), its captures, its draws (R64). -/
structure Entry where
  regs : List Nat := []
  ports : List Nat := []
  claims : List (Nat × Nat) := []
  fill : Cmd → Cmd := id
  draws : Nat := 0

/-- Add a claim to a port. -/
def Strand.claim (t : Strand) (id : Nat) (c : Nat × Nat) : Strand :=
  let p := vAt t.e.ports c.1
  t.setPort c.1 { p with claims := p.claims ++ [(id, c.2)] }

/-- A command enters queue e, or its bundle holds or traps. t is the strand after the swap. A register that a drain is still to write is read
behind it, once its bank is full (R137, R353). What accesses memory is forked here (R176). -/
def enqueue (s : State) (t : Strand) (h : MHead) (e : Nat) (op : Instr) (x : Entry) : Res :=
  if !t.tkOk h e then trapIf s 0x03 0
  else if (t.queue e).length ≥ queueDepth e then .hold s
  else if x.ports.any (fun q => (vAt t.e.ports q).rew.isSome) then .hold s
  else if x.regs.any (fun i => t.drains i && !t.bankFull i) then .hold s
  else match x.regs.find? (fun i => t.bankOff i) with
  | some i => trapIf s 0x18 (BitVec.ofNat 64 i)
  | none =>
    if x.regs.any (fun i => !t.bankFull i) then .hold (s.setMe (x.regs.foldl (fun (u : Strand) i => u.wakeBank (i / 4)) s.me))
    else
      let c := x.fill { (t.newCmd s.fresh e h op) with locks := x.regs }
      let t := x.regs.foldl (fun (u : Strand) i => u.touch i) t
      let t := x.claims.foldl (fun (u : Strand) k => u.claim c.id k) t
      let t := { t with e := { t.e with cmds := t.e.cmds ++ [c], seq := vSet t.e.seq e (vAt t.e.seq e + 1) } }
      let s := if e == 1 then s else s.publish (.strand s.cur) s.fresh
      .ok ({ s with fresh := s.fresh + 1 }.setMe (t.draw x.draws))

/-! Leaving the queue. -/

/-- A command leaves its queue, its locks and claims with it. -/
def Strand.dropCmd (t : Strand) (id : Nat) : Strand :=
  let t := ((t.cmd id).map t.unlock).getD t
  { t with e := { t.e with
      cmds := t.e.cmds.filter (fun c => c.id != id)
      ports := t.e.ports.map (fun p => { p with claims := p.claims.filter (fun c => c.1 != id) }) } }

/-- A command finishes (R136): its token pushed when the queue has room; until then it has ended and keeps its place. -/
def Strand.finishCmd (t : Strand) (c : Cmd) : Strand :=
  if t.roomTk c.tks then (t.dropCmd c.id).pushTk c.tks
  else (t.unlock c).setCmd { c with st := .ending, locks := [], dstLock := none }

/-- A command stops on a fault, which waits for the strand (R448); it keeps its place, and no translation (R391). -/
def Strand.stopCmd (t : Strand) (c : Cmd) (r : TrapRec) : Strand :=
  let t := t.setCmd { c with st := .stopped, uses := [] }
  { t with e := { t.e with
      faults := t.e.faults ++ [{ id := c.id, cause := r.cause.setWidth 7, tva := r.tva, tpos0 := r.pos0, tpos1 := r.pos1, ttag := c.ttag,
                                 eos := r.eos }] } }

/-! Claims (R138, R346). -/

/-- What a command that claims a port finds next. -/
inductive Take where
  | block (b : PBlock) (t : Strand)
  | wait
  | fault (r : TrapRec)

/-- One claimed block less for the oldest claim of a port. -/
def Port.taken (p : Port) : Port :=
  match p.claims with
  | (id, n) :: cs => { p with claims := if n ≤ 1 then cs else (id, n - 1) :: cs }
  | [] => p

/-- A command has the port's oldest claim, and a `qrew` that goes before it is not pending: one that issued after the command waits until
the claim is at rest, unless the command stood stopped (R378). -/
def Strand.owns (t : Strand) (q id : Nat) : Bool :=
  let p := vAt t.e.ports q
  (p.claims.head?.map (fun c => c.1)) == some id && !(p.rew.isSome && p.resume.contains id)

/-- The next claimed block of an inbound port: mx tells whether the command is an `mmax`, which takes the blocks of an MX format only; the
others take none that is for an `mmax` or a `copyt` only (R146, R162). A block past the end is a zero block (R343). -/
def Strand.takeClaim (t : Strand) (q id : Nat) (mx : Bool) : Take :=
  let p := vAt t.e.ports q
  if !t.owns q id then .wait
  else match p.buf with
    | b :: r =>
      if (if mx then !b.mx else b.mxOnly) then let w := p.pos q; .fault { cause := 0x20, pos0 := w.1, pos1 := w.2 }
      else .block b (t.setPort q { p.taken with buf := r })
    | [] =>
      match p.fault with
      | some f => .fault (p.faultTrap q f)
      | none =>
        if t.startQueued q then .wait
        else if !p.spent q then .wait
        else if p.captured && p.prog.eot then .fault (p.endTrap q)
        else .block { blk := ⟨0, 0⟩, scales := 0, spoison := 0, mx := mx, mxOnly := false, pos := (0, 0), mine := true } ((t.setPort q p.taken).setEos q)

/-- A register named as an operand has every write issued before the bundle (R137). -/
def Strand.settledV (t : Strand) (i bundle : Nat) : Bool := !t.flights.any (fun f => f.bundle < bundle && f.dst == .v i)

end Sys2Proof.Machine
end

