-- ==== Sys2Proof/Machine/Boundary.lean ====
section
/-! DEFINITION. The boundary before a bundle (R18, R234, R448, R463, R464): which trap is due there, and the events that take it. -/

namespace Sys2Proof.Machine

/-- The fault of the command issued first among those pending (R448). -/
def firstFault : List EFault → Option EFault
  | [] => none
  | f :: fs => match firstFault fs with
    | some x => if x.id < f.id then some x else some f
    | none => some f

/-- A command of bundle b has neither finished nor stopped (R463). -/
def Strand.draining (t : Strand) (b : Nat) : Bool :=
  t.e.cmds.any (fun c => c.bundle == b && (c.st == .waiting || c.st == .running || c.st == .ending))

/-- A pending fault is taken (R448, R449). -/
def State.takeFault (s : State) (n : Nat) (f : EFault) : State :=
  (s.modStrand n (fun t => { t with phase := .running, e := { t.e with faults := t.e.faults.filter (fun x => x.id != f.id) } })).takeTrap n
    { cause := f.cause.zeroExtend 8, tva := f.tva, pos0 := f.tpos0, pos1 := f.tpos1, tag := f.ttag, eos := f.eos } true

/-- The failure of an outbound stream that keeps a strand from its end (R168). -/
def Strand.outFault (t : Strand) : Option TrapRec :=
  [6, 7].findSome? (fun q =>
    let p := vAt t.e.ports q
    if p.captured then p.fault.map (fun f => p.faultTrap q f) else none)

/-- What is due at a `halt` that has issued: a fault of a command, or of an outbound stream (R168, R448). -/
def haltBoundary (s : State) (n : Nat) : Option State :=
  let t := s.strand n
  match (if t.sys.priv then none else firstFault t.e.faults) with
  | some f => some (s.takeFault n f)
  | none => t.outFault.map (fun r => (s.setStrand n ({ t with phase := .running }.tellFault 6 |>.tellFault 7)).takeTrap n r false)

/-- What is due at the boundary before a bundle issues, in the order the deadline, an engine fault, the step trap, the
breakpoint; none where the bundle issues. -/
def boundary (s : State) : Option State :=
  let t := s.me
  if t.dlHit then some ((s.setMe { t with dlHit := false }).takeTrap s.cur { cause := 0x38 } false)
  else match (if t.sys.priv then none else firstFault t.e.faults) with
  | some f => some (s.takeFault s.cur f)
  | none =>
    match t.stepDue with
    | some b =>
      if t.sys.dbg.getLsbD 1 && t.draining b then some (held s)
      else some (s.takeTrap s.cur { cause := 0x3A } false)
    | none =>
      if t.sys.dbg.getLsbD 2 && !t.sys.priv && !t.bpSkip && t.pc == (t.sys.bpa &&& ~~~7) then
        some (trapped s { cause := 0x39, tva := 0x100000000 })
      else none

/-- Trap entry at a boundary, or the transfer to a handler whose table had to be waited for (R442, R443). -/
def execTrapEntry (n : Nat) (s : State) : Host.Outcome State Fault Refusal :=
  event s (
    if (s.strand n).phase == .halted then haltBoundary s n
    else if (s.strand n).phase != .running then none
    else if (s.strand n).entering then some (s.enterHandler n)
    else boundary { s with cur := n })

/-- `sys.deadline` has stepped to 0: the trap at the bundle held or about to issue (R234, R437, R465). -/
def execDeadlineExpiry (n : Nat) (s : State) : Host.Outcome State Fault Refusal :=
  event s (
    let t := s.strand n
    if t.phase == .running && t.dlHit && !t.entering then some ((s.setStrand n { t with dlHit := false }).takeTrap n { cause := 0x38 } false)
    else none)

/-- A scoreboarded or held result lands (R104, R137, R216, R353): its data has come, no lock holds it, its bank is full, its time is
past; a division may land early (R102). A fixed one of a strand that issues nothing lands when it is due (R296). -/
def execResultLanding (n k : Nat) (s : State) : Host.Outcome State Fault Refusal :=
  let t := s.strand n
  event s (match t.flights.find? (fun f => f.tag == k) with
    | some f =>
      let bank := match f.dst with | .v i => t.bankFull i | _ => true
      let ready := f.need == 0 && (match f.form with | .ready => true | _ => false)
      let now := if f.fixed then t.phase != .running && t.flights.all (fun x => !x.fixed || f.due ≤ x.due) else f.due ≤ t.clock || t.phase != .running
      if ready && bank && now && !t.heldBack f then some (s.setStrand n (t.land f).clearIl) else none
    | none => none)

/-- An engine fault reaches the strand (R448): one of a near-memory kernel ends its command (R466); one that stands first is taken at
the boundary. -/
def execEngineFaultDelivery (n id : Nat) (s : State) : Host.Outcome State Fault Refusal :=
  event s (
    let t := s.strand n
    let from' (u : Nat) : Option (NLaunch × NmFault) := (s.nmu u).faults.find? (fun f => f.1.fromCmd == some (n, id))
    match (List.range numNmus).findSome? (fun u => (from' u).map (fun f => (u, f.2))), t.cmd id with
    | some (u, f), some c =>
      let w0 := BitVec.ofNat 64 (f.reason.toNat * 2 ^ 56 + u * 2 ^ 40 + f.pc * 2 ^ 16 + f.word.toNat)
      let w1 := BitVec.ofNat 64 (f.depth * 2 ^ 60 + f.loops * 2 ^ 57 + f.detail.toNat)
      let r := f.reason.toNat
      let e : EFault := { id := id, cause := if 2 ≤ r && r ≤ 5 then 0x30 else 0x31, tva := f.va, tpos0 := w0, tpos1 := w1, ttag := c.ttag, eos := none }
      let t := t.dropCmd id
      let s1 := s.modNmu u (fun m => { m with faults := m.faults.filter (fun f => f.1.fromCmd != some (n, id)) })
      some (s1.setStrand n { t with e := { t.e with faults := t.e.faults ++ [e] } })
    | _, _ =>
      if t.phase == .running && !t.sys.priv && !t.dlHit && !t.entering && (firstFault t.e.faults).map (fun f => f.id) == some id then
        boundary { s with cur := n }
      else if t.phase == .halted && !t.sys.priv && (firstFault t.e.faults).map (fun f => f.id) == some id then haltBoundary s n
      else none)

end Sys2Proof.Machine
end

