-- ==== Sys2Proof/Machine/Array.lean ====
section
/-! DEFINITION. The matrix array: its commands at issue (R135 to R152), the lease of the array (R153, R154, R156, R301), K-blocks, stops
(R155) and the effects a command has when it finishes. -/

namespace Sys2Proof.Machine

/-! Issue. -/

/-- The vector registers, by name, that a command reads and locks (R137), in the order A, B, scale A, scale B. -/
def lockNames : Instr → List Nat
  | .mma _ _ _ _ a b | .mmai _ _ _ _ _ _ _ a b => names [a, b]
  | .mmax _ _ _ _ a b sa sb =>
    names [a, b] ++ (if a.isV then [sa.toNat] else []) ++ (if b.isV then [sb.toNat] else [])
  | .mmaa _ _ _ _ _ _ _ b => names [b]
  | .mload _ _ a _ _ => names [a]
  | .mdrain _ f _ _ _ _ _ b _ => if drainRequants f then names [b] else []
  | _ => []
where names (os : List Opnd) : List Nat := (os.filter (fun o => o.isV)).map (fun o => o.toNat)

/-- The claims a command makes (R138): port and blocks. -/
def claimsOf (i : Instr) (sh : Shape) : List (Nat × Nat) :=
  match i with
  | .mma _ _ _ _ a b | .mmai _ _ _ _ _ _ _ a b | .mmax _ _ _ _ a b _ _ => (portsOf [a, b]).map (fun q => (q, prodBlocks i sh))
  | .mmaa _ _ _ _ _ _ _ b => (portsOf [b]).map (fun q => (q, prodBlocks i sh))
  | .mload _ _ a all _ => (portsOf [a]).map (fun q => (q, if all then 4 else 1))
  | .mdrain _ f _ _ _ a _ b _ => (portsOf (if drainRequants f then [a, b] else [a])).map (fun q => (q, 1))
  | _ => []

/-- Counted commands use the array (R153). -/
def counted : Instr → Bool
  | .mma _ _ _ _ _ _ | .mmai _ _ _ _ _ _ _ _ _ | .mmax _ _ _ _ _ _ _ _ | .mmaa _ _ _ _ _ _ _ _ => true
  | _ => false

/-- Entry of an array command: its locks, claims and draws. -/
def arrayEntry (t : Strand) (h : MHead) (i : Instr) (draws : Nat) (fill : Cmd → Cmd) : Entry :=
  let cs := claimsOf i (vAt t.r.sh h.sh.toNat)
  { regs := (lockNames i).map (fun r => t.pv r), ports := cs.map (fun c => c.1), claims := cs, fill := fill, draws := draws }

/-- The physical registers a command reads, for the checks of R291. -/
def sourceRegs (i : Instr) (t : Strand) : List Dst := (lockNames i).map (fun r => .v (t.pv r))

/-- A product at issue: a register operand carries one K-block only (R142). -/
def product (s : State) (h : MHead) (i : Instr) (draws : Nat) : Host.Outcome State Fault Refusal :=
  mSyllable s h (sourceRegs i) (fun t =>
    let sh := vAt t.r.sh h.sh.toNat
    if !(lockNames i).isEmpty && prodBlocks i sh > 1 then trapIf s 0x03 0
    else enqueue s t h 1 i (arrayEntry t h i draws id))

/-- R144. -/
def execMma (h : MHead) (fmt : MmaFmt) (z : Bool) (acc : BitVec 4) (opa opb : Opnd) (s : State) : Host.Outcome State Fault Refusal :=
  product s h (.mma h fmt z acc opa opb) 0
/-- R145. -/
def execMmai (h : MHead) (i4 sa sb sat z : Bool) (acc : BitVec 4) (opa opb : Opnd) (s : State) : Host.Outcome State Fault Refusal :=
  product s h (.mmai h i4 sa sb sat z acc opa opb) 0
/-- R146. -/
def execMmax (h : MHead) (fmt : MmaxFmt) (z : Bool) (acc : BitVec 4) (opa opb : Opnd) (sa sb : BitVec 5) (s : State) :
    Host.Outcome State Fault Refusal :=
  product s h (.mmax h fmt z acc opa opb sa sb) 0

/-- R147; its depth is at most 64 (R142). -/
def execMmaa (h : MHead) (fmt : MmaaFmt) (rsr sat z : Bool) (acc : BitVec 4) (opa opb : Opnd) (s : State) :
    Host.Outcome State Fault Refusal :=
  let i := Instr.mmaa h fmt rsr sat z acc opa opb
  mSyllable s h (sourceRegs i) (fun t =>
    let sh := vAt t.r.sh h.sh.toNat
    if 64 < sh.k.toNat || (!(lockNames i).isEmpty && prodBlocks i sh > 1) then trapIf s 0x03 0
    else enqueue s t h 1 i (arrayEntry t h i (if rsr then 4096 else 0) id))

/-- R148. -/
def execMzero (h : MHead) (acc c : BitVec 4) (s : State) : Host.Outcome State Fault Refusal :=
  mSyllable s h (fun _ => []) (fun t => enqueue s t h 1 (.mzero h acc c) {})

/-- R149. -/
def execMload (h : MHead) (acc : BitVec 4) (opa : Opnd) (all : Bool) (p : BitVec 2) (s : State) : Host.Outcome State Fault Refusal :=
  let i := Instr.mload h acc opa all p
  mSyllable s h (sourceRegs i) (fun t =>
    enqueue s t h 1 i (arrayEntry t h i 0 id))

/-- The code of a rounding mode (R28). -/
def RM.code : RM → BitVec 3
  | .rne => 0 | .rtz => 1 | .rdn => 2 | .rup => 3 | .rsr => 4

/-- R150: the destination register is live from issue (R351) and locked until the drain writes it (R137). -/
def execMdrain (h : MHead) (fmt : DrainFmt) (rnd : Rnd) (sat clr : Bool) (opa : Opnd) (acc : BitVec 4) (opb : Opnd) (p : BitVec 2)
    (s : State) : Host.Outcome State Fault Refusal :=
  let i := Instr.mdrain h fmt rnd sat clr opa acc opb p
  mSyllable s h (fun t => t.vDest opa ++ sourceRegs i t) (fun t =>
    let md := t.mode rnd
    let dst := if opa.isV then some (t.pv opa.toNat) else none
    let t' := if opa.isV then { t with r := { t.r with live := setBit32 t.r.live (t.pv opa.toNat) true } } else t
    enqueue s t' h 1 i (arrayEntry t h i (if drainConverts fmt && md == .rsr then drainCount fmt else 0)
      (fun c => { c with dstLock := dst, md := md.code })))

/-- R152. -/
def execLease (h : MHead) (n : BitVec 7) (s : State) : Host.Outcome State Fault Refusal :=
  mSyllable s h (fun _ => []) (fun t => enqueue s t h 1 (.lease h n) {})
def execUnlease (h : MHead) (s : State) : Host.Outcome State Fault Refusal :=
  mSyllable s h (fun _ => []) (fun t => enqueue s t h 1 (.unlease h) {})

/-! The lease (R153, R154, R156, R301, R454). -/

/-- K-blocks of a command. -/
def Cmd.blocks (c : Cmd) : Nat := prodBlocks c.op c.shape

/-- A strand has a product under way that has K-blocks to send. -/
def Strand.sendingProduct (t : Strand) : Bool :=
  t.engines && t.e.cmds.any (fun c => c.engine == 1 && c.live && counted c.op && c.done < c.blocks)

/-- Strand n requests the array. -/
def State.requests (s : State) (n : Nat) : Bool :=
  (s.strand n).sendingProduct && (s.core (coreOf n)).holder != some (n % 2)

/-- The effective priority of a kernel (R274). -/
def Kernel.eff (k : Kernel) : Nat := min 47 (min k.prio k.pcap + min 4 k.age)

/-- The effective priority of a strand's kernel. -/
def State.prioOf (s : State) (n : Nat) : Nat := ((s.kernel (s.strand n).kernel).map Kernel.eff).getD 0

/-- The flip condition against strand n: the other strand, of another kernel of strictly higher effective priority, requests the
array (R454). -/
def State.flipDue (s : State) (n : Nat) : Bool :=
  let m := otherOf n
  s.requests m && (s.strand m).kernel != (s.strand n).kernel && s.prioOf n < s.prioOf m

/-- The array goes to a strand of a core, or to none; a new run begins with a count of 0. -/
def State.giveArray (s : State) (c : Nat) (h : Option Nat) : State :=
  s.modCore c (fun x => { x with holder := h, lastHolder := h.getD x.lastHolder, runCount := 0 })

/-- The run that strand n holds ends: the array passes to the other strand if it requests (R153). -/
def State.endRun (s : State) (n : Nat) : State :=
  let c := coreOf n
  if (s.core c).holder == some (n % 2) then s.giveArray c (if s.requests (otherOf n) then some (otherOf n % 2) else none) else s

/-- The array queue of a strand beyond a finished product is empty, or its head waits on a token. -/
def Strand.arrayIdle (t : Strand) : Bool :=
  match (t.queue 1).find? (fun c => !(counted c.op && c.live && c.done ≥ c.blocks) && c.st != .ending) with
  | none => true
  | some c => c.st == .waiting && !t.hasTk c.tkw

/-- The last K-block of a product has entered (R301): it counts, and the run ends at its length, or with nothing to follow when the
other strand requests. -/
def State.countBlock (s : State) (n : Nat) : State :=
  let k := (s.core (coreOf n)).runCount + 1
  let t := s.strand n
  if t.e.leaseN ≤ k || (s.requests (otherOf n) && t.arrayIdle) then s.endRun n
  else s.modCore (coreOf n) (fun x => { x with runCount := k })

/-- The array is granted (R153, R154): a free one to a strand that requests, of two to the one that did not hold the last run; or from a
holder with nothing to send, early, to the other. -/
def execArrayGrant (c : Nat) (s : State) : Host.Outcome State Fault Refusal :=
  event s (
    let x := s.core c
    let r0 := s.requests (2 * c)
    let r1 := s.requests (2 * c + 1)
    if x.gated then none
    else match x.holder with
    | none =>
      if r0 && r1 then some (s.giveArray c (some (1 - x.lastHolder)))
      else if r0 then some (s.giveArray c (some 0))
      else if r1 then some (s.giveArray c (some 1))
      else none
    | some h =>
      let n := 2 * c + h
      if !(s.strand n).sendingProduct && (s.strand n).arrayIdle && s.requests (otherOf n) then some (s.endRun n) else none)

/-- A strand has an array command under way. -/
def Strand.onArray (t : Strand) : Bool := (t.engines || t.leaving) && t.e.cmds.any (fun c => c.engine == 1 && c.live)

/-- An idle array gates itself (R475). -/
def execArrayGate (c : Nat) (s : State) : Host.Outcome State Fault Refusal :=
  event s (
    if c < numCores && !(s.core c).gated && !(s.strand (2 * c)).onArray && !(s.strand (2 * c + 1)).onArray then
      some (s.modCore c (fun x => { x with gated := true, gateWake := none }))
    else none)

/-- A wake of a core's gated array begins: 32 core cycles (R185, R294). -/
def State.wakeArray (s : State) (c : Nat) : State :=
  if (s.core c).gated && (s.core c).gateWake.isNone then s.modCore c (fun x => { x with gateWake := some (s.ticksFrom c 32) }) else s

/-- The array's wake from gating (R185, R475): a command's use begins it, where no `wake.array` has, and it completes. -/
def execArrayWake (c : Nat) (s : State) : Host.Outcome State Fault Refusal :=
  event s (
    if !(s.core c).gated then none
    else match (s.core c).gateWake with
    | some w => if s.ticksOver c 32 w then some (s.modCore c (fun x => { x with gated := false, gateWake := none })) else none
    | none => if (s.strand (2 * c)).onArray || (s.strand (2 * c + 1)).onArray then some (s.wakeArray c) else none)

/-! Blocks of a running command. -/

/-- What an attempt of a command to go on comes to. -/
inductive Go where
  | ok (t : Strand)
  | wait
  | fault (r : TrapRec)

/-- Scale entries of a register (R146) and of a scale plane (R161). -/
def regScales (b : Block) : List (Nat × Bool) := (elems 256 8 b.bits.toNat).zip ((List.range 256).map (fun e => b.poison.getLsbD (e / 4)))
def planeScales (b : PBlock) : List (Nat × Bool) := (elems 256 8 b.scales.toNat).zip ((List.range 256).map (fun e => b.spoison.getLsbD e))

/-- One operand of a product: a locked register with its scale register, or the next claimed block. -/
def Strand.opnd (t : Strand) (c : Cmd) (o : Opnd) (reg sreg : Nat) (mx : Bool) : Except (Option TrapRec) (ProdOpnd × Strand) :=
  if o.isV then
    if !t.settledV reg c.bundle || (mx && !t.settledV sreg c.bundle) then .error none
    else .ok ({ blk := vAt t.r.v reg, scales := if mx then regScales (vAt t.r.v sreg) else [] }, t)
  else match t.takeClaim (o.toNat - 32) c.id mx with
    | .block b u => .ok ({ blk := b.blk, scales := if mx then planeScales b else [] }, u)
    | .wait => .error none
    | .fault r => .error (some r)

/-- Both operands; one port named twice gives both the same block. -/
def Strand.opnds (t : Strand) (c : Cmd) (a b : Opnd) (mx : Bool) : Except (Option TrapRec) (ProdOpnd × ProdOpnd × Strand) :=
  let na := b2n a.isV
  let nb := b2n b.isV
  let l (i : Nat) : Nat := c.locks.getD i 0
  match t.opnd c a (l 0) (l (na + nb)) mx with
  | .error r => .error r
  | .ok (x, u) =>
    if a == b && a.port then .ok (x, x, u)
    else match u.opnd c b (l na) (l (na + nb + na)) mx with
      | .error r => .error r
      | .ok (y, v) => .ok (x, y, v)

/-- The operands of a product command. -/
def Strand.prodOpnds (t : Strand) (c : Cmd) : Except (Option TrapRec) (ProdOpnd × ProdOpnd × Strand) :=
  match c.op with
  | .mma _ _ _ _ a b | .mmai _ _ _ _ _ _ _ a b => t.opnds c a b false
  | .mmax _ _ _ _ a b _ _ => t.opnds c a b true
  | .mmaa _ _ _ _ _ _ _ b => (t.opnd c b (c.locks.getD 0 0) 0 false).map (fun r => ({ blk := ⟨0, 0⟩, scales := [] }, r.1, r.2))
  | _ => .error none

/-- One K-block of a product (R143). -/
def Strand.goProduct (t : Strand) (c : Cmd) : Go :=
  match t.prodOpnds c with
  | .error none => .wait
  | .error (some r) => .fault r
  | .ok (a, b, u) => .ok (((u.unlock { c with dstLock := none }).applyBlock c.op c.shape c.seed c.done a b).setCmd { c with done := c.done + 1, locks := [] })

/-- One block of a load; the last finishes it (R149). -/
def Strand.goLoad (t : Strand) (c : Cmd) (acc : Nat) (a : Opnd) (all : Bool) (p : Nat) : Go :=
  match t.opnd c a (c.locks.getD 0 0) 0 false with
  | .error none => .wait
  | .error (some r) => .fault r
  | .ok (x, u) =>
    let v := u.setTile acc ((u.tile acc).load (if all then c.done else p) x.blk)
    if all && c.done < 3 then .ok (v.setCmd { c with done := c.done + 1 }) else .ok (v.finishCmd c)

/-- Where a drain's block goes: a register whose bank is full, or a slot of the port it has claimed (R137, R138, R345); to a port, a poisoned
element before all else (R109, R150). -/
def Strand.drainTo (t : Strand) (c : Cmd) (o : Opnd) (b : Block) : Go :=
  if o.isV then
    let i := c.dstLock.getD 0
    if !t.settledV i c.bundle || !t.bankFull i then .wait
    else .ok ((t.setV i b).touch i)
  else
    let q := o.toNat - 32
    let p := vAt t.e.ports q
    if !t.owns q c.id || t.flights.any (fun f => f.dst == .q q) then .wait
    else if b.poison != 0 then let w := p.pos q; .fault { cause := 0x19, pos0 := w.1, pos1 := w.2 }
    else if p.spent q then
      if t.startQueued q then .wait
      else if p.captured && p.prog.eot then .fault (p.endTrap q)
      else .ok ((t.setPort q p.taken).setEos q)
    else if p.buf.length ≥ 4 then (match p.fault with | some f => .fault (p.faultTrap q f) | none => .wait)
    else .ok ((t.setPort q { p.taken with accepted := p.accepted + 1 }).pushBlock q b)

/-- A drain (R150): nothing of it happens where it faults. -/
def Strand.goDrain (t : Strand) (c : Cmd) (f : DrainFmt) (sat clr : Bool) (a : Opnd) (acc : Nat) (b : Opnd) (p : Nat) : Go :=
  let par : Except (Option TrapRec) (ProdOpnd × Strand) :=
    if drainRequants f then t.opnd c b (c.locks.getD 0 0) 0 false else .ok ({ blk := ⟨0, 0⟩, scales := [] }, t)
  match par with
  | .error none => .wait
  | .error (some r) => .fault r
  | .ok (x, u) =>
    let r := drainBlock f (RM.ofCode c.md.toNat) sat c.seed p (u.tile acc) x.blk
    match u.drainTo c a r.1 with
    | .ok v =>
      let n := drainCount f
      let v := if clr then v.setTile acc ((v.tile acc).clearRows n p) else v
      .ok ((v.raise r.2).finishCmd c)
    | g => g

/-- What a running array command does next: a K-block, a block, or its end. -/
def Strand.goArray (t : Strand) (c : Cmd) : Go :=
  if counted c.op && c.done < c.blocks then t.goProduct c
  else match c.op with
    | .mload _ acc a all p => t.goLoad c acc.toNat a all p.toNat
    | .mdrain _ f _ sat clr a acc b p => t.goDrain c f sat clr a acc.toNat b p.toNat
    | .mzero _ acc n => .ok ((t.zeroTiles acc.toNat (n.toNat + 1)).finishCmd c)
    | _ => .ok (t.finishCmd c)

/-- The command runs on its engine, in the array's order; what an eviction finds running, but for products, runs to its end (R456). -/
def Strand.runs (t : Strand) (c : Cmd) : Bool := (t.engines || t.leaving) && c.live && c.engine == 1 && t.isHead c

/-- A K-block of the holder's running product; at a restart point the array may pass to the other strand (R143, R156, R301). -/
def execProductKBlock (n id : Nat) (s : State) : Host.Outcome State Fault Refusal :=
  let t := s.strand n
  event s (match t.cmd id with
    | some c =>
      if !t.runs c || !counted c.op || c.blocks ≤ c.done || (s.core (coreOf n)).holder != some (n % 2) || (s.core (coreOf n)).gated then none
      else if s.flipDue n then some (s.endRun n)
      else match t.goProduct c with
        | .ok u =>
          let s1 := s.setStrand n u
          if c.blocks ≤ c.done + 1 then some (s1.countBlock n)
          else if s1.flipDue n then some (s1.endRun n) else some s1
        | _ => none
    | none => none)

/-- A product, load or drain that cannot go on stops at its restart point; a product's run ends with it (R155, R452). -/
def execProductStop (n id : Nat) (s : State) : Host.Outcome State Fault Refusal :=
  let t := s.strand n
  event s (match t.cmd id with
    | some c =>
      if !t.runs c || (counted c.op && (s.core (coreOf n)).holder != some (n % 2)) then none
      else match t.goArray c with
        | .fault r => 
            let s1 := s.setStrand n (t.stopCmd c r)
            some (if counted c.op then s1.endRun n else s1)
        | _ => none
    | none => none)

/-- The end of an array command (R135, R136), or one more block of a load; a drain into a bank that is not full wakes it first. -/
def State.arrayFinish (s : State) (n : Nat) (c : Cmd) : Option State :=
  let t := s.strand n
  if !t.runs c || (counted c.op && c.done < c.blocks) || (s.core (coreOf n)).gated then none
  else match c.op with
    | .lease _ k => some (let s1 := s.endRun n; s1.modStrand n (fun u => { u with e := { u.e with leaseN := k.toNat } }.finishCmd c))
    | .unlease _ => some (let s1 := s.endRun n; s1.modStrand n (fun u => u.finishCmd c))
    | .clkdiv _ _ d => some (s.setStrand n ({ t with e := { t.e with divA := d.toNat } }.finishCmd c))
    | _ =>
      match t.goArray c with
      | .ok u => some (s.setStrand n u)
      | .fault _ => none
      | .wait =>
        match c.dstLock with
        | some i => if t.bankFull i || (t.bank i).wake.isSome then none else some (s.setStrand n (t.wakeBank (i / 4)))
        | none => none

end Sys2Proof.Machine
end

