-- ==== Sys2Proof/Machine/Expander.lean ====
section
/-! DEFINITION. Packed weights (R362 to R373, R483): chunks, their code tables, slices, and a span of a decoded stream, with the error
that stops it. -/

namespace Sys2Proof.Machine

/-- What reading a span of stored bytes gives: the bytes up to the first that could not be read, the places of poisoned ones, and the
cause and address of the first that could not. -/
structure Span where
  bytes : List Byte
  bad : List Nat
  stop : Option (BitVec 7 × Word)
  deriving DecidableEq, Repr

/-- A way of reading stored bytes: it may have to wait. -/
abbrev Reader := State → Word → Nat → State × Option Span

/-- A failure of an expander: cause, `sys.tva`, kind (0 for bytes that could not be read), sub-stream, bit position. -/
structure Bad where
  cause : BitVec 7
  tva : Word
  kind : Nat
  sub : Nat
  bit : Nat
  deriving DecidableEq, Repr

/-- A decode error of a chunk at address a. -/
def Bad.decode (a : Word) (kind sub bit : Nat) : Bad := { cause := 0x22, tva := a, kind := kind, sub := sub, bit := bit }

/-- The 0x22 record (R372). -/
def Bad.record (b : Bad) : Word := BitVec.ofNat 64 (b.sub * 2 ^ 60 + b.kind * 2 ^ 56 + b.bit % 2 ^ 40)

/-- A span that has to be whole: its bytes, or why not. -/
def Span.whole (x : Span) (a : Word) : Except Bad (List Byte) :=
  match x.bad.head?, x.stop with
  | some i, _ => .error { cause := 0x41, tva := a + BitVec.ofNat 64 i, kind := 0, sub := 0, bit := 0 }
  | none, some (c, va) => .error { cause := c, tva := va, kind := 0, sub := 0, bit := 0 }
  | none, none => .ok x.bytes

/-! Headers and tables (R363, R364). -/

def roundUp16 (n : Nat) : Nat := (n + 15) / 16 * 16

/-- A chunk's fixed header. -/
structure ChunkHead where
  n : Nat
  blk : Nat
  /-- bits of a symbol -/
  w : Nat
  clen : Nat
  dsize : Nat
  deriving DecidableEq, Repr

/-- Symbols of the table. -/
def ChunkHead.syms (h : ChunkHead) : Nat := 2 ^ h.w + 25
/-- Bytes before the sub-streams. -/
def ChunkHead.h (h : ChunkHead) : Nat := roundUp16 (16 + 4 * h.n + (h.syms + 1) / 2)
/-- Decoded bytes of a slice. -/
def ChunkHead.slice (h : ChunkHead) : Nat := h.dsize / h.n

def parseHead (bs : List Byte) : Option ChunkHead :=
  let w0 := word bs 0
  let w1 := word bs 1
  let h : ChunkHead :=
    { n := bits w0 51 48 + 1, blk := bits w0 43 40, w := if bit w0 39 then 8 else 4, clen := bits w1 63 32, dsize := bits w1 31 0 }
  if bits w0 63 56 == 0xC4 && bits w0 55 52 == 1 && bits w0 47 44 == 0 && h.blk ≤ 8 && bits w0 38 0 == 0 && h.dsize != 0 &&
      h.dsize % (h.n * (256 * 2 ^ h.blk)) == 0 then some h
  else none

/-- Code lengths of a table: none where it is refused. -/
def parseTable (h : ChunkHead) (bs : List Byte) : Option (List Nat) :=
  let ls := bs.flatMap (fun b => [b.toNat % 16, b.toNat / 16])
  let ns := ls.take h.syms
  if ls.all (fun l => l ≤ 12) && (ls.drop h.syms).all (fun l => l == 0) && ns.any (fun l => l != 0) &&
      ns.foldl (fun a l => if l == 0 then a else a + 2 ^ (12 - l)) 0 ≤ 4096 then some ns
  else none

/-- A code word: length, word, symbol. -/
abbrev Code := Nat × Nat × Nat

/-- The symbols of length n in ascending order, with code words from a first one. -/
def codesOfLen (ls : List Nat) (n : Nat) : Nat → Nat → List Nat → List Code
  | _, _, [] => []
  | c, s, l :: r => if l == n then (n, c, s) :: codesOfLen ls n (c + 1) (s + 1) r else codesOfLen ls n c (s + 1) r

/-- The canonical assignment of R364, length by length. -/
def codesFrom (ls : List Nat) : Nat → Nat → Nat → Nat → List Code
  | 0, _, _, _ => []
  | k + 1, n, code, prev =>
    let first := (code + prev) * 2
    codesOfLen ls n first 0 ls ++ codesFrom ls k (n + 1) first ((ls.filter (fun l => l == n)).length)
def codeTable (ls : List Nat) : List Code := codesFrom ls 12 1 0 0

/-! Slices (R365 to R367). -/

/-- Extra bits and base length of a match token (R366). -/
def matchLen (j : Nat) : Nat × Nat :=
  if j < 8 then (0, 3 + j)
  else if j < 12 then (2, 11 + 4 * (j - 8))
  else if j < 16 then (3, 27 + 8 * (j - 12))
  else if j < 20 then (4, 59 + 16 * (j - 16))
  else if j < 24 then (5, 123 + 32 * (j - 20))
  else (3, 251)

/-- A code word at bit p, most significant bit first: the symbol, or none, and the bit after those read. -/
def readCode (cs : List Code) (x len : Nat) : Nat → Nat → Nat → Nat → Option Nat × Nat
  | 0, _, _, p => (none, p)
  | k + 1, n, c, p =>
    if p ≥ len then (none, p)
    else
      let c' := 2 * c + b2n (x.testBit p)
      match cs.find? (fun e => e.1 == n + 1 && e.2.1 == c') with
      | some e => (some e.2.2, p + 1)
      | none => readCode cs x len k (n + 1) c' (p + 1)

/-- A token: a literal, a match (length, distance), or an absent word; and the bit after it. -/
inductive Token where
  | lit (s : Nat)
  | copy (l d : Nat)
  | absent
  deriving DecidableEq, Repr

def readToken (cs : List Code) (w x len p : Nat) : Token × Nat :=
  let r := readCode cs x len 12 0 0 p
  match r.1 with
  | none => (.absent, r.2)
  | some t =>
    if t < 2 ^ w then (.lit t, r.2)
    else
      let m := matchLen (t - 2 ^ w)
      let q := r.2 + m.1 + 12
      if len < q then (.absent, len)
      else (.copy (m.2 + (x >>> r.2) % 2 ^ m.1) ((x >>> (r.2 + m.1)) % 4096 + 1), q)

/-- Copy symbols of the output, the newest first, from distance d. -/
def copyBack (d : Nat) : Nat → List Nat → List Nat
  | 0, out => out
  | k + 1, out => copyBack d k (out.getD (d - 1) 0 :: out)

/-- A slice of n symbols from a sub-stream of len bits with value x: the symbols, newest first, and the failure, if one stops it: its kind
(0: bytes that could not be read) and its token's bit. lost: the first byte that could not be read, and bytes read poisoned. -/
def decodeSlice (cs : List Code) (w x len n : Nat) (lost : Nat → Nat → Bool) : Nat → Nat → Nat → List Nat → List Nat × Option (Nat × Nat)
  | 0, _, _, out => (out, none)
  | k + 1, pos, p, out =>
    if n ≤ pos then (out, none)
    else
      let t := readToken cs w x len p
      if lost (p / 8) ((max t.2 (p + 1) - 1) / 8) then (out, some (0, p))
      else match t.1 with
        | .absent => (out, some (1, p))
        | .lit s => decodeSlice cs w x len n lost k (pos + 1) t.2 (s :: out)
        | .copy l d =>
          if pos < d then (out, some (2, p))
          else if n < pos + l then (out, some (3, p))
          else decodeSlice cs w x len n lost k (pos + l) t.2 (copyBack d l out)

/-- Symbols as bytes (R365); of 4-bit symbols an odd last one makes no byte. -/
def symBytes (w : Nat) (ss : List Nat) : List Byte :=
  if w == 8 then ss.map (fun s => BitVec.ofNat 8 s)
  else (chunks 2 (ss.length / 2) ss).map (fun c => BitVec.ofNat 8 (c.getD 0 0 + 16 * c.getD 1 0))

/-- What a slice decodes to: its bytes before the failure, and the failure. -/
def sliceOf (h : ChunkHead) (cs : List Code) (i : Nat) (a : Word) (chunk : Word) (len : Nat) (x : Span) : List Byte × Option Bad :=
  let n := h.slice * 8 / h.w
  let m := x.bytes.length
  let lost (lo hi : Nat) : Bool := (x.stop.isSome && m ≤ hi) || x.bad.any (fun b => lo ≤ b && b ≤ hi)
  let r := decodeSlice cs h.w (ofBytes x.bytes) (8 * len) n lost n 0 0 []
  let bs := symBytes h.w r.1.reverse
  (bs, r.2.map (fun e =>
    if e.1 != 0 then Bad.decode chunk e.1 i e.2
    else
      let lo := e.2 / 8
      match x.bad.find? (fun b => lo ≤ b), x.stop with
      | some b, some (c, va) =>
        if b < m then { cause := 0x41, tva := a + BitVec.ofNat 64 b, kind := 0, sub := i, bit := e.2 }
        else { cause := c, tva := va, kind := 0, sub := 0, bit := 0 }
      | some b, none => { cause := 0x41, tva := a + BitVec.ofNat 64 b, kind := 0, sub := i, bit := e.2 }
      | none, some (c, va) => { cause := c, tva := va, kind := 0, sub := 0, bit := 0 }
      | none, none => Bad.decode chunk 1 i e.2))

/-! A span of the decoded stream. -/

/-- A chunk whose header, lengths and table have been read. -/
structure Chunk where
  head : ChunkHead
  lens : List Nat
  codes : List Code
  deriving DecidableEq, Repr

/-- The header, lengths and table of the chunk at a (R362 to R364, R369). -/
def readChunk (rd : Reader) (s : State) (a : Word) : State × Option (Except Bad Chunk) :=
  let r := rd s a 16
  match r.2 with
  | none => (r.1, none)
  | some x =>
    match x.whole a with
    | .error b => (r.1, some (.error b))
    | .ok bs =>
      match (if a.toNat % 16 == 0 then parseHead bs else none) with
      | none => (r.1, some (.error (Bad.decode a 4 0 0)))
      | some h =>
        let q := rd r.1 (a + 16) (h.h - 16)
        (match q.2 with
         | none => (q.1, none)
         | some y =>
           match y.whole (a + 16) with
           | .error b => (q.1, some (.error b))
           | .ok cs =>
             let lens := (List.range h.n).map (fun i => ofBytes ((cs.drop (4 * i)).take 4))
             let tb := (cs.drop (4 * h.n)).take ((h.syms + 1) / 2)
             let rest := cs.drop (4 * h.n + (h.syms + 1) / 2)
             (match parseTable h tb with
              | some ls =>
                if lens.all (fun l => l != 0) && rest.all (fun b => b == 0) && h.clen == roundUp16 (h.h + lens.foldl (fun a b => a + b) 0) then
                  (q.1, some (.ok { head := h, lens := lens, codes := codeTable ls }))
                else (q.1, some (.error (Bad.decode a 4 0 0)))
              | none => (q.1, some (.error (Bad.decode a 4 0 0)))))

/-- Slices of a chunk from number i on, each with the place of its sub-stream: those that hold bytes of [lo, hi) of the chunk's decoded
bytes are decoded; bytes from lo on, and the first failure. -/
def readSlices (rd : Reader) (a : Word) (c : Chunk) (lo hi : Nat) : Nat → Nat → State → List Nat →
    State × Option (List Byte × Option (Nat × Bad))
  | _, _, s, [] => (s, some ([], none))
  | i, off, s, len :: ls =>
    let b := c.head.slice * i
    let e := b + c.head.slice
    if hi ≤ b then (s, some ([], none))
    else if e ≤ lo then readSlices rd a c lo hi (i + 1) (off + len) s ls
    else
      let p := a + BitVec.ofNat 64 off
      let r := rd s p len
      match r.2 with
      | none => (r.1, none)
      | some x =>
        let d := sliceOf c.head c.codes i p a len x
        let got := (d.1.drop (lo - b)).take (hi - max lo b)
        match d.2 with
        | some f =>
          let at' := b + d.1.length
          if at' < hi then (r.1, some (got, some (at', f)))
          else (r.1, some (got, none))
        | none =>
          let q := readSlices rd a c lo hi (i + 1) (off + len) r.1 ls
          match q.2 with
          | none => (q.1, none)
          | some (bs, f) => (q.1, some (got ++ bs, f))

/-- What an expander gives for a span [lo, hi) of a decoded stream: the bytes from lo to the first failure, the failure with its place
in the decoded stream, and the chunks met: address, length, first decoded byte, decoded bytes. -/
structure Expanded where
  bytes : List Byte
  fail : Option (Nat × Bad)
  chunks : List (Word × Nat × Nat × Nat)
  deriving Repr

/-- From the chunk at a, whose first decoded byte is number d of the stream. -/
def expandFrom (rd : Reader) (lo hi : Nat) : Nat → State → Word → Nat → State × Option Expanded
  | 0, s, _, _ => (s, some { bytes := [], fail := none, chunks := [] })
  | k + 1, s, a, d =>
    if hi ≤ d then (s, some { bytes := [], fail := none, chunks := [] })
    else
      let r := readChunk rd s a
      match r.2 with
      | none => (r.1, none)
      | some (.error b) => (r.1, some { bytes := [], fail := some (d, b), chunks := [] })
      | some (.ok c) =>
        let n := c.head.dsize
        let me : Word × Nat × Nat × Nat := (a, c.head.clen, d, n)
        let q := if d + n ≤ lo then (r.1, some ([], none))
                 else readSlices rd a c (lo - d) (hi - d) 0 c.head.h r.1 c.lens
        match q.2 with
        | none => (q.1, none)
        | some (bs, some (i, b)) => (q.1, some { bytes := bs, fail := some (d + i, b), chunks := [me] })
        | some (bs, none) =>
          let z := expandFrom rd lo hi k q.1 (a + BitVec.ofNat 64 c.head.clen) (d + n)
          match z.2 with
          | none => (z.1, none)
          | some y => (z.1, some { y with bytes := bs ++ y.bytes, chunks := me :: y.chunks })

/-- The span [lo, hi) of the stream whose first chunk is at a; every chunk decodes to at least 256 bytes. -/
def expand (rd : Reader) (s : State) (a : Word) (lo hi : Nat) : State × Option Expanded := expandFrom rd lo hi (hi / 256 + 1) s a 0

end Sys2Proof.Machine
end

