-- ==== Sys2Proof/Machine/VecOps.lean ====
section
/-! DEFINITION. The shape of a V syllable (R105, R106, R109, R110, R133, R134): its sources read, the unit free, its result sent
under the mask; and loops over elements. -/

namespace Sys2Proof.Machine

/-- What a V syllable computes: the block, the lanes it writes, its flags, and its draws. -/
structure VOut where
  bits : Nat
  poison : Mask
  mask : Mask
  flags : BitVec 6
  draws : Nat

/-- A V syllable with sources os and destination vd. keep: it keeps part of vd, which it so reads (R110). pg: a poisoned guard
poisons what it writes (R71). f64: two cycles later and twice the occupancy (R133, R134). -/
def vForm (s : State) (g : Guard) (vd : Opnd) (keep : Bool) (os : List VSrc) (ds : Strand → List Dst) (f64 pg : Bool) (lat : Nat)
    (k : Strand → List Block → VOut) : Host.Outcome State Fault Refusal :=
  syllable s false g (fun t => t.vDest vd ++ t.vRegs (os.map (fun o => o.o)) ++ ds t) (fun t =>
    if t.clock < t.vuFree then .hold s
    else
      match t.readSrcs (if keep && vd.isV then os ++ [{ o := vd, lu := false }] else os) with
      | .hold u => .hold (s.setMe u)
      | .trap r => .trap s r
      | .ok bs u =>
        let r := k t bs
        let v := { u.draw r.draws with vuFree := t.clock + t.cyc (if f64 then 4 else 2) }
        let b : Block := { bits := BitVec.ofNat 32768 r.bits, poison := r.poison ||| allPoison (pg && (t.p g.p).poison) }
        deliverV s v vd b r.mask r.flags (if f64 then lat + 2 else lat))

/-- A V syllable that writes a predicate: value, poison, flags; keep: the register's poison stays. -/
def vPred (s : State) (g : Guard) (pd : PRegNo) (os : List VSrc) (f64 : Bool)
    (k : Strand → List Block → Mask × Bool × Mask × Bool × BitVec 6) : Host.Outcome State Fault Refusal :=
  syllable s false g (fun t => .p (t.pp pd.toNat) :: t.vRegs (os.map (fun o => o.o))) (fun t =>
    if t.clock < t.vuFree then .hold s
    else
      match t.readSrcs os with
      | .hold u => .hold (s.setMe u)
      | .trap r => .trap s r
      | .ok bs u =>
        let r := k t bs
        let v := { u with vuFree := t.clock + t.cyc (if f64 then 4 else 2) }
        .ok (s.setMe (v.fly (.p (t.pp pd.toNat)) (.p { val := r.1, poison := r.2.1 } r.2.2.1 r.2.2.2.1) r.2.2.2.2 (if f64 then 6 else 4) true)))

/-- Source number i of a syllable. -/
def nth (bs : List Block) (i : Nat) : Block := bs.getD i ⟨0, 0⟩

/-- A function on k elements of width w of three registers, from element i on, for the lanes in m; the generator advances with each
element where the rounding draws. -/
def elemLoop (w : Nat) (m : Mask) (rsr : Bool) (f : Nat → Nat → Nat → Nat → Coded) :
    Nat → Nat → BitVec 32 → Nat → Nat → Nat → List Nat × BitVec 6
  | 0, _, _, _, _, _ => ([], 0)
  | k + 1, i, g, a, b, c =>
    let g' := if rsr then drawStep g else g
    let r := elemLoop w m rsr f k (i + 1) g' (a >>> w) (b >>> w) (c >>> w)
    if m.getLsbD (i * w / 32) then
      let v := f (drawBits g') (a % 2 ^ w) (b % 2 ^ w) (c % 2 ^ w)
      (v.1 :: r.1, v.2 ||| r.2)
    else (0 :: r.1, r.2)

/-- An elementwise form of type ty over up to three sources (R106, R111). -/
def elementwise (t : Strand) (g : Guard) (ty : Ty) (rsr : Bool) (bs : List Block) (f : Nat → Nat → Nat → Nat → Coded) : VOut :=
  let m := typeMask ty (t.mask g)
  let r := elemLoop ty.width m rsr f ty.capacity 0 t.sys.seed (nth bs 0).bits.toNat (nth bs 1).bits.toNat (nth bs 2).bits.toNat
  { bits := pack ty.width r.1
    poison := typePoison ty ((bs.map (fun b => b.poison)).foldl (fun a b => a ||| b) 0)
    mask := m, flags := r.2, draws := if rsr then ty.capacity else 0 }

end Sys2Proof.Machine
end

