-- ==== Sys2Proof/Machine/VecMem.lean ====
section
/-! DEFINITION. Vector memory: indexed scratchpad access (R131, R132), blocks through a layout (R186, R187). -/

namespace Sys2Proof.Machine

/-! Indexed access. -/

/-- The elements of width w that lie in lanes of the mask, ascending. -/
def activeElems (w : Nat) (m : Mask) : List Nat := (List.range (32768 / w)).filter (fun n => m.getLsbD (laneOf w n))

/-- The checks of R132 for elements in ascending order, each of k bytes at its address; the segments, each with its place n k in
the elements' bytes. -/
def State.elemSegs (s : State) (p : Perm) (k : Nat) (addr : Nat → Word) (badIdx badData : Nat → Bool) :
    List Nat → Except TrapRec (List Seg)
  | [] => .ok []
  | n :: ns =>
    if badIdx n then .error { cause := 0x1A }
    else if badData n then .error { cause := 0x19 }
    else if winOf (addr n) == .d then .error { cause := 0x08, tva := addr n }
    else match (s.check p k (addr n) k).2 with
      | .fault c a => .error { cause := c.zeroExtend 8, tva := a }
      | .wait => .ok []
      | .ok gs => (s.elemSegs p k addr badIdx badData ns).map (fun r => gs.map (fun g => { g with off := n * k + g.off }) ++ r)

/-- A hold leaves the strand as it was before its sources were read. -/
def orHold (s : State) (r : Res) : Res := match r with | .hold _ => .hold s | r => r

/-- The vector unit is busy while the accesses of an indexed form are sent: the spec's least time for it, 32 cycles, is what the model
takes (R134, log entry 100). -/
def Strand.sending (t : Strand) : Strand := { t with vuFree := t.clock + t.cyc 32 }

/-- A gather of elements of width w at addresses computed from an index element of the same width. Poisoned words that a push would
carry stop the bundle, which first waits for the banks that hold them (R109, R358). -/
def vLoadElems (s : State) (g : Guard) (vd : Opnd) (va : VSrc) (gb : GReg) (w : Nat) (addr : Word → Nat → Word) :
    Host.Outcome State Fault Refusal :=
  syllable s false g (fun t => t.vDest vd ++ t.vRegs [va.o] ++ [.g gb.toNat]) (fun t =>
    if t.clock < t.vuFree then .hold s
    else match t.readSrcs [va] with
      | .hold u => .hold (s.setMe u)
      | .trap r => .trap s r
      | .ok bs u =>
        let b := nth bs 0
        let m := t.mask g
        let ns := activeElems w m
        let a (n : Nat) : Word := addr (t.g gb).val (elem b.bits.toNat w n)
        match s.elemSegs { r := true } (w / 8) a (fun n => (t.g gb).poison || b.poison.getLsbD (laneOf w n)) (fun _ => false) ns with
        | .error r => .trap s r
        | .ok gs =>
          let v : FVal := .v { bits := 0, poison := allPoison (t.p g.p).poison } m
          if vd.isV then
            let i := t.pv vd.toNat
            orHold s (sendLoad (s.setMe (u.claimV i).sending) gs (.v i) v .elems id)
          else
            let q := vd.toNat - 32
            if !gs.all (fun x => s.chipFull x.pa) then .hold (s.wakeSegs gs)
            else if (t.p g.p).poison || gs.any (fun x => !(s.readChip x.pa x.len).2.isEmpty) then trapIf s 0x19 0
            else match t.push q with
            | .wait => .hold s
            | .trap r => pushTrap s q r
            | .drop => .ok (s.setMe (u.setEos q).sending)
            | .slot =>
              let p := vAt u.e.ports q
              orHold s (sendLoad (s.setMe (u.setPort q { p with accepted := p.accepted + 1 }).sending) gs (.q q) v .elems id))

/-- R131: the index is a lane, shifted. -/
def execVgath (g : Guard) (vd : Opnd) (va : VSrc) (gb : GReg) (sh : BitVec 2) (s : State) : Host.Outcome State Fault Refusal :=
  vLoadElems s g vd va gb 32 (fun b i => b + BitVec.ofNat 64 (i <<< sh.toNat))

/-- R131: the index is the sub-element itself, in entries. -/
def execVlut (g : Guard) (ty : Ty) (vd : Opnd) (va : VSrc) (gb : GReg) (s : State) : Host.Outcome State Fault Refusal :=
  vLoadElems s g vd va gb ty.width (fun b i => b + BitVec.ofNat 64 (i * (ty.width / 8)))

/-- R131: va is the data, vb the index; a poisoned guard poisons the data (R72). -/
def execVscat (g : Guard) (va vb : VSrc) (gc : GReg) (sh : BitVec 2) (s : State) : Host.Outcome State Fault Refusal :=
  syllable s false g (fun t => t.vRegs [va.o, vb.o] ++ [.g gc.toNat]) (fun t =>
    if t.clock < t.vuFree then .hold s
    else match t.readSrcs [va, vb] with
      | .hold u => .hold (s.setMe u)
      | .trap r => .trap s r
      | .ok bs u =>
        let d := nth bs 0
        let x := nth bs 1
        let ns := activeElems 32 (t.mask g)
        let a (n : Nat) : Word := (t.g gc).val + BitVec.ofNat 64 (elem x.bits.toNat 32 n <<< sh.toNat)
        match s.elemSegs { w := true, lit := true } 4 a (fun n => (t.g gc).poison || x.poison.getLsbD n)
            (fun n => d.poison.getLsbD n || (t.p g.p).poison) ns with
        | .error r => .trap s r
        | .ok gs => orHold s (sendBlock (s.setMe u.sending) gs (whole (toBytes 4096 d.bits.toNat))))

/-! Blocks. -/

/-- The checks of the rows of a block, each of them before any byte moves: window and alignment of the row, then its parts; the
segments, each with its place in the rows' bytes. -/
def State.rowSegs (s : State) (src : Src) (m n : Nat) (asid : BitVec 16) (p : Perm) (l : Layout) (o : Word) : List Nat → State × Chk
  | [] => (s, .ok [])
  | r :: rs =>
    let a := l.rowAddr o r
    match classify a l.rowBytes with
    | .error c => (s, .fault c a)
    | .ok _ =>
      if a.toNat % l.align != 0 then (s, .fault 0x0A a)
      else
        let q := (l.parts r a l.rowBytes).foldl (fun (x : State × Chk) e =>
          match x.2 with
          | .ok gs =>
            let y := x.1.resolve src m n asid p 1 e.1 e.2.1
            (match y.2 with
             | .ok hs => (y.1, .ok (gs ++ hs.map (fun h => { h with off := r * l.rowBytes + e.2.2 + h.off })))
             | c => (y.1, c))
          | _ => x) (s, .ok [])
        match q.2 with
        | .ok gs =>
          let z := q.1.rowSegs src m n asid p l o rs
          (match z.2 with
           | .ok hs => (z.1, .ok (gs ++ hs))
           | c => (z.1, c))
        | c => (q.1, c)

/-- Of the segments of a block's rows, all of which have passed their checks, those of rows in which the mask selects a lane. -/
def Layout.used (l : Layout) (m : Mask) (gs : List Seg) : List Seg := gs.filter (fun g => l.rowUsed m (g.off / l.rowBytes))

/-- A layout that neither a `vld` nor a `vst` takes. -/
def Layout.noBlock (l : Layout) (inb : Bool) : Bool := !l.allowed inb || l.plane || l.xf == 1

/-- The lanes a block writes: an FP64 element of a conversion follows its even lane. -/
def Layout.lanes (l : Layout) (m : Mask) : Mask := if l.xf == 3 then typeMask l.dty m else m

/-- R186, R187. -/
def execVld (g : Guard) (vd : Opnd) (k : LayNo) (ga : GReg) (lu : Bool) (s : State) : Host.Outcome State Fault Refusal :=
  syllable s false g (fun t => t.vDest vd ++ [.g ga.toNat]) (fun t =>
    let l := (vAt t.r.lay k.toNat).capture t.sys.fmode
    let m := t.mask g
    let o := l.base + (t.g ga).val
    if l.noBlock true then trapIf s 0x20 0
    else if (t.g ga).poison then trapIf s 0x1A 0
    else checked (s.rowSegs (.strand s.cur) (coreOf s.cur) s.cur t.sys.asid { r := true } l o (List.range 16)) (fun s all =>
      let gs := l.used m all
      let i := t.pv vd.toNat
      let v : FVal := .v { bits := 0, poison := allPoison (t.p g.p).poison } (l.lanes m)
      let u := (s.me.claimV i).draw (if l.draws then l.capacity else 0)
      let hint := if lu then (gs.filter (fun g => g.sp == .chip)).map (fun g => (g.pa, g.len)) else []
      let form := LandForm.block l t.sys.seed
      match s.wayL s.cur (gs.all (fun g => winOf g.va == .l)) gs with
      | .hold => .hold s
      | .fixed =>
        let r := s.peekAll s.cur gs
        let f : Flight :=
          { tag := u.newTag, bundle := u.bundle, dst := .v i, val := v, flags := 0, due := u.clock + u.cyc 10, last := 0,
            fixed := t.bankFull i, need := 0, raw := r.1, rawPoison := r.2, form := form, hint := [] }
        .ok ((s.setMe { u with flights := u.flights ++ [f.finish] }).lastUse s.cur hint)
      | .queued =>
        let cs := cutAll 16 gs
        orHold s (match sendLoad (s.setMe u) cs (.v i) v form id with
          | .ok x => .ok (x.modStrand s.cur (fun y => { y with flights := y.flights.map (fun (f : Flight) =>
              if f.tag == u.newTag then { f with hint := hint } else f) }))
          | r => r)))

/-- R186: the chunks of which some byte is written are sent. -/
def execVst (g : Guard) (va : VSrc) (k : LayNo) (ga : GReg) (spl : Bool) (s : State) : Host.Outcome State Fault Refusal :=
  syllable s false g (fun t => t.vRegs [va.o] ++ [.g ga.toNat]) (fun t =>
    let l := (vAt t.r.lay k.toNat).capture t.sys.fmode
    let m := t.mask g
    if l.noBlock false then trapIf s 0x20 0
    else match t.readSrcs [va] with
      | .hold u => .hold (s.setMe u)
      | .trap r => .trap s r
      | .ok bs u =>
        let b := l.fromBlock t.sys.seed { blk := nth bs 0, scales := 0, spoison := 0, mx := false, mxOnly := false, pos := (0, 0), mine := true } m
        if (t.g ga).poison then trapIf s 0x1A 0
        else if b.poison || (t.p g.p).poison then trapIf s 0x19 0
        else checked (s.rowSegs (.strand s.cur) (coreOf s.cur) s.cur t.sys.asid { w := true } l (l.base + (t.g ga).val)
            (List.range 16)) (fun s gs =>
          let u := (u.raise b.flags).draw (if l.draws then l.capacity else 0)
          let u := if spl then (List.range 4).foldl (fun (u : Strand) i => u.killV (4 * (u.pv va.o.toNat / 4) + i)) u else u
          orHold s (sendBlock (s.setMe u) (l.used m gs) b.bytes)))

end Sys2Proof.Machine
end

