-- ==== Sys2Proof/Machine/Streams.lean ====
section
/-! DEFINITION. Layout entries and stream ports (R158, R159, R163 to R172, R342, R347, R348): their X and M forms at issue, the blocks a
pattern engine fetches and writes, rewinds, and the image of an engine. -/

namespace Sys2Proof.Machine

/-! Layout entries (R158, R159). -/

/-- A signed field takes a 64-bit value that fits 40 bits. -/
def fits40 (v : Word) : Bool := (v.setWidth 40).signExtend 64 == v

/-- A layout with one field written; none where the value lies outside the field's range. -/
def Layout.put (l : Layout) (field : Nat) (v : Word) : Option Layout :=
  let n := v.toNat
  match field with
  | 0 => some { l with base := v }
  | 1 => if fmtOk n then some { l with fmt := BitVec.ofNat 5 n } else none
  | 2 => if fits40 v then some { l with rstr := v.setWidth 40 } else none
  | 3 | 4 | 5 | 6 | 7 => if fits40 v then some { l with lst := vSet l.lst (field - 3) (v.setWidth 40) } else none
  | 8 => if n ≤ 31 then some { l with bperm := BitVec.ofNat 5 n } else none
  | 9 => if n ≤ 3 then some { l with xf := BitVec.ofNat 2 n } else none
  | 10 => if n ≤ 12 then some { l with dfmt := BitVec.ofNat 5 n } else none
  | 11 => if n ≤ 5 then some { l with rnd := BitVec.ofNat 3 n } else none
  | 12 => if n ≤ 1 then some { l with sat := n == 1 } else none
  | _ => none

/-- A field of a layout as `lget` returns it. -/
def Layout.get (l : Layout) (field : Nat) : Word :=
  match field with
  | 0 => l.base
  | 1 => l.fmt.zeroExtend 64
  | 2 => l.rstr.signExtend 64
  | 3 | 4 | 5 | 6 | 7 => (vAt l.lst (field - 3)).signExtend 64
  | 8 => l.bperm.zeroExtend 64
  | 9 => l.xf.zeroExtend 64
  | 10 => l.dfmt.zeroExtend 64
  | 11 => l.rnd.zeroExtend 64
  | 12 => BitVec.ofNat 64 (b2n l.sat)
  | _ => 0

/-- The value operand of `lset` and X `pset`, with its poison, and the register it names. -/
def Strand.lsrc (t : Strand) (v : LSrc) : SReg :=
  match v with
  | .reg r => t.g r
  | .imm n => { val := n.zeroExtend 64, poison := false }
def lsrcReg (v : LSrc) : List Dst :=
  match v with
  | .reg r => [.g r.toNat]
  | .imm _ => []

/-- R158, R159. -/
def execLset (g : Guard) (k : LayNo) (field : BitVec 5) (v : LSrc) (s : State) : Host.Outcome State Fault Refusal :=
  syllable s false g (fun _ => lsrcReg v) (fun t =>
    if (t.lsrc v).poison then trapIf s 0x1A 0
    else match (vAt t.r.lay k.toNat).put field.toNat (t.lsrc v).val with
      | some l => .ok (s.setMe { t with r := { t.r with lay := vSet t.r.lay k.toNat l } })
      | none => trapIf s 0x03 0)

/-- R159. -/
def execLget (g : Guard) (gd : GReg) (k : LayNo) (field : BitVec 5) (s : State) : Host.Outcome State Fault Refusal :=
  syllable s false g (fun _ => [.g gd.toNat]) (fun t =>
    sendG s t gd ((vAt t.r.lay k.toNat).get field.toNat) (t.p g.p).poison 2)

/-! Pattern programs (R163, R164). -/

/-- A program with one field written; none where the value lies outside the field's range. -/
def Prog.put (p : Prog) (field n : Nat) : Option Prog :=
  match field with
  | 0 => if n ≤ 31 then some { p with lay := BitVec.ofNat 5 n } else none
  | 1 => if 1 ≤ n && n ≤ 5 then some { p with nlev := BitVec.ofNat 3 n } else none
  | 2 | 3 | 4 | 5 | 6 => if 1 ≤ n && n ≤ 1048576 then some { p with cnt := vSet p.cnt (field - 2) (BitVec.ofNat 21 n) } else none
  | 7 | 8 | 9 | 10 | 11 => if n ≤ 1048575 then some { p with sta := vSet p.sta (field - 7) (BitVec.ofNat 20 n) } else none
  | 12 => if n ≤ 1 then some { p with eot := n == 1 } else none
  | _ => none

/-- The port number of an operand (R164). -/
def portNo (q : Opnd) : Nat := q.toNat - 32

/-- R164: waits while the port is rewound (R172). -/
def execPsetPattern (g : Guard) (q : Opnd) (field : BitVec 5) (v : LSrc) (s : State) : Host.Outcome State Fault Refusal :=
  syllable s false g (fun _ => lsrcReg v) (fun t =>
    let k := portNo q
    if (vAt t.e.ports k).rew.isSome then .hold s
    else if (t.lsrc v).poison then trapIf s 0x1A 0
    else match (vAt t.r.prog k).put field.toNat (t.lsrc v).val.toNat with
      | some p => .ok (s.setMe { t with r := { t.r with prog := vSet t.r.prog k p } })
      | none => trapIf s 0x03 0)

/-! Streams at issue (R165, R169, R170). -/

/-- The captured program and layout of a `pstart` pass R165. -/
def Prog.startOk (p : Prog) (l : Layout) (q : Nat) : Bool :=
  (List.range 5).all (fun i =>
    (vAt p.sta i).toNat < (vAt p.cnt i).toNat &&
    (i < p.nlev.toNat || (vAt p.cnt i == 1 && vAt p.sta i == 0))) &&
  l.allowed (inbound q)

/-- Blocks of a stream from its start (R166). -/
def Prog.length (p : Prog) : Nat := p.total - p.start

/-- R165. -/
def execPstart (h : MHead) (q : Opnd) (s : State) : Host.Outcome State Fault Refusal :=
  mSyllable s h (fun _ => []) (fun t =>
    let k := portNo q
    let p := vAt t.r.prog k
    let l := (vAt t.r.lay p.lay.toNat).capture t.sys.fmode
    if !p.startOk l k then trapIf s 0x20 0
    else enqueue s t h (portEngine k) (.pstart h q)
      { ports := [k], fill := fun c => { c with src := l, prog := p }, draws := if l.draws then p.length * l.capacity else 0 })

/-- R169. -/
def execPstop (h : MHead) (q : Opnd) (s : State) : Host.Outcome State Fault Refusal :=
  mSyllable s h (fun _ => []) (fun t => enqueue s t h (portEngine (portNo q)) (.pstop h q) { ports := [portNo q] })

/-- The address of an image at issue (R170): poison, window and crossing, alignment. -/
def imageEntry (s : State) (t : Strand) (h : MHead) (q : Opnd) (gb : GReg) (i : Instr) : Res :=
  let a := t.g gb
  if a.poison then trapIf s 0x1A 0
  else match classify a.val 128 with
    | .error c => trapIf s c a.val
    | .ok _ =>
      if a.val.toNat % 8 != 0 then trapIf s 0x0A a.val
      else enqueue s t h (portEngine (portNo q)) i { ports := [portNo q], fill := fun c => { c with ops := vSet c.ops 1 a.val } }

/-- The failure of an outbound stream is raised by the next `qstat`, `qrew` or `psave` of the port, where nothing has raised it yet
(R168). -/
def outward (s : State) (t : Strand) (q : Nat) (r : Res) : Res :=
  let p := vAt t.e.ports q
  match p.fault with
  | some f => if inbound q || f.told then r else pushTrap s q (p.faultTrap q f)
  | none => r

/-- R170. -/
def execPsave (h : MHead) (q : Opnd) (gb : GReg) (s : State) : Host.Outcome State Fault Refusal :=
  mSyllable s h (fun _ => [.g gb.toNat]) (fun t =>
    outward s t (portNo q) (imageEntry s t h q gb (.psave h q gb)))
/-- R170. -/
def execPload (h : MHead) (q : Opnd) (gb : GReg) (s : State) : Host.Outcome State Fault Refusal :=
  mSyllable s h (fun _ => [.g gb.toNat]) (fun t => imageEntry s t h q gb (.pload h q gb))

/-! The state of a port (R171). -/

/-- Pushes on their way to a port. -/
def Strand.pushes (t : Strand) (q : Nat) : Nat := (t.flights.filter (fun f => f.dst == .q q)).length

/-- The stream has brought all its blocks: an inbound one into the port, an outbound one to memory. -/
def Strand.streamDone (t : Strand) (q : Nat) : Bool :=
  let p := vAt t.e.ports q
  if inbound q then p.spent q else p.spent q && p.buf.isEmpty && t.pushes q == 0

/-- State 0 idle, 1 running, 2 ended, 3 faulted. -/
def Strand.portState (t : Strand) (q : Nat) : Nat :=
  let p := vAt t.e.ports q
  if p.fault.isSome then 3
  else if !p.captured then 0
  else if p.buf.isEmpty && t.streamDone q && !t.startQueued q then 2
  else 1

/-- The status word. -/
def Strand.portStatus (t : Strand) (q : Nat) : Word :=
  let p := vAt t.e.ports q
  BitVec.ofNat 64 ((match p.fault with | some f => f.cause.toNat * 256 | none => 0) + b2n (!p.claims.isEmpty) * 128 +
    b2n (t.sys.qeos.getLsbD q) * 64 + b2n (p.captured && p.prog.eot) * 32 + p.buf.length * 4 + t.portState q)

/-- R171: waits while the port is rewound (R172). DEDUCED (log entry 101): it reads the port at issue, after the bundle's pops (R16). -/
def execQstat (g : Guard) (gd : GReg) (q : Opnd) (w : BitVec 2) (s : State) : Host.Outcome State Fault Refusal :=
  syllable s false g (fun _ => [.g gd.toNat]) (fun t =>
    let k := portNo q
    let p := vAt t.e.ports k
    if p.rew.isSome then .hold s
    else outward s t k <|
      let v := match w.toNat with
        | 0 => (p.pos k).1
        | 1 => (p.pos k).2
        | _ => t.portStatus k
      sendG s t gd v (t.p g.p).poison 4)

/-! Rewinds (R172). -/

/-- The indices of a position. -/
def posIndices (w : Word × Word) : List Nat :=
  [wbits w.1 19 0, wbits w.1 39 20, wbits w.1 59 40, wbits w.2 19 0, wbits w.2 39 20]

/-- A position of port q of its captured program. -/
def Port.posOk (p : Port) (q : Nat) (w : Word × Word) : Bool :=
  wbit w.1 63 && wbits w.1 62 60 == q && ((posIndices w).zip p.prog.counts).all (fun e => e.1 < e.2)

/-- R172. -/
def execQrew (g : Guard) (q : Opnd) (ga gb : GReg) (s : State) : Host.Outcome State Fault Refusal :=
  syllable s false g (fun _ => [.g ga.toNat, .g gb.toNat]) (fun t =>
    let k := portNo q
    let p := vAt t.e.ports k
    let w := ((t.g ga).val, (t.g gb).val)
    if p.rew.isSome then .hold s
    else outward s t k <|
      if (t.g ga).poison || (t.g gb).poison then trapIf s 0x1A 0
      else if !p.captured || !p.posOk k w then trapIf s 0x03 0
      else
        let rest := (t.e.cmds.filter (fun c => c.st == .stopped)).map (fun c => c.id)
        .ok ((s.publish (.strand s.cur) s.fresh).setMe (t.setPort k { p with rew := some w, resume := rest, fork := s.fresh })))

/-- No command holds a claim on the port but those stopped at a restart point, and those that were as the `qrew` issued (R172, R378). -/
def Strand.claimsRest (t : Strand) (q : Nat) : Bool :=
  let p := vAt t.e.ports q
  p.claims.all (fun k => p.resume.contains k.1 || (match t.cmd k.1 with | some c => c.st == .stopped | none => true))

/-- A `pstop` has acted on the stream, whose command has not finished. -/
def Strand.stopActs (t : Strand) (q : Nat) : Bool :=
  t.e.cmds.any (fun c => c.engine == portEngine q && c.st == .running && (match c.op with | .pstop _ _ => true | _ => false))

/-- A rewind is done (R172): buffer, fault and end bit cleared, the stream at the given position; one that a `pstop` has ended stays
ended. -/
def execRewind (n q : Nat) (s : State) : Host.Outcome State Fault Refusal :=
  let t := s.strand n
  let p := vAt t.e.ports q
  event s (match p.rew with
    | some w =>
      if q < 8 && t.claimsRest q && (inbound q || (t.pushes q == 0 && (p.buf.isEmpty || p.fault.isSome))) then
        let lin := linear ((posIndices w).zip p.prog.counts)
        let p1 := { p with rew := none, resume := [], buf := [], sent := false, fault := none, nextNo := lin, accepted := lin, stopped := t.stopActs q }
        some ((s.setStrand n ((t.setPort q p1).clearEos q)).forget (.port n q))
      else none
    | none => none)

/-! Accesses of engines. -/

/-- The strand's accesses before a fork are performed at core scope (R176, R325). -/
def State.forkOk (s : State) (n fork : Nat) : Bool :=
  s.net.all (fun e => fork ≤ e.id || e.src != .strand n || e.performedAt .co)

/-- An access that failed: cause, address, and its place in the span. -/
abbrev Fail := BitVec 7 × Word × Nat

/-- What the checks of an engine's span or rows come to: the segments up to the first that fails, and how it does; none: a wait. -/
abbrev Checked := Option (List Seg × Option Fail)

/-- The checks of an engine's access to a span of consecutive bytes. -/
def State.engineSpan (s : State) (src : Src) (n : Nat) (p : Perm) (align : Nat) (a : Word) (len : Nat) : State × Checked :=
  let q := s.resolve src (coreOf n) n (s.strand n).sys.asid p align a len
  (q.1, match q.2 with
    | .wait => none
    | .fault c va => some ([], some (c, va, (va - a).toNat))
    | .ok gs => some (gs, none))

/-- The place in row r's bytes of an address at which its access failed. -/
def Layout.failOff (l : Layout) (o : Word) (r : Nat) (va : Word) : Nat :=
  let a := l.rowAddr o r
  if a.toNat % l.align != 0 || (match classify a l.rowBytes with | .error _ => true | .ok _ => false) then 0
  else match (l.parts r a l.rowBytes).find? (fun e => (va - e.1).toNat < e.2.1) with
    | some e => e.2.2 + (va - e.1).toNat
    | none => 0

/-- The checks of an engine's access to rows of a block with its origin at o, in their order. -/
def State.engineRows (s : State) (src : Src) (n : Nat) (p : Perm) (l : Layout) (o : Word) : List Nat → State × Checked
  | [] => (s, some ([], none))
  | r :: rs =>
    let q := s.rowSegs src (coreOf n) n (s.strand n).sys.asid p l o [r]
    match q.2 with
    | .wait => (q.1, none)
    | .fault c va => (q.1, some ([], some (c, va, r * l.rowBytes + l.failOff o r va)))
    | .ok gs =>
      let y := q.1.engineRows src n p l o rs
      (y.1, y.2.map (fun x => (gs ++ x.1, x.2)))

/-- The marked scratchpad byte that comes first in the bytes of segments (R358). -/
def markedIn : List Seg → List (Byte × Bool) → Option Fail
  | [], _ => none
  | g :: gs, bs =>
    match (if g.sp == .chip then (List.range g.len).find? (fun i => (bs.getD i (0, false)).2) else none) with
    | some i => some (0x19, g.va + BitVec.ofNat 64 i, g.off + i)
    | none => markedIn gs (bs.drop g.len)

/-- What an engine reads: what passes its checks is read before a failure behind it counts, and a marked word is one (R358, R168). -/
def State.engineRead (s : State) (src : Src) (n fork : Nat) (x : List Seg × Option Fail) :
    State × Option (Except Fail (List (Byte × Bool))) :=
  if !s.forkOk n fork then (s, none)
  else
    let r := s.getSegs src (s.strand n).sys.asid x.1
    (r.1, r.2.map (fun bs =>
      match markedIn x.1 bs, x.2 with
      | some f, _ => .error f
      | none, some f => .error f
      | none, none => .ok bs))

/-- An engine sends its stores of bytes to segments; none while it has to wait. -/
def State.engineWrite (s : State) (src : Src) (n fork : Nat) (bs : List OutByte) (gs : List Seg) : Option State :=
  if s.forkOk n fork then s.putSegs src (s.strand n).sys.asid bs gs else none

/-- An engine waits for a residency fill, and so holds no translation (R391). -/
def State.filling (s : State) (src : Src) : Bool := s.fills.any (fun f => f.waiting.contains src)

/-- The address of the last part of a block with its origin at o. -/
def Layout.lastVa (l : Layout) (o : Word) : Word :=
  (((l.parts 15 (l.rowAddr o 15) l.rowBytes).getLast?).map (fun e => e.1)).getD o

/-- The reader of a strand's expander (R373, R483): up to the first byte that is refused. -/
def engineReader (src : Src) (n fork : Nat) : Reader := fun s a len =>
  let got (q : State × Checked) (stop : Option (BitVec 7 × Word)) : State × Option Span :=
    match q.2 with
    | some (gs, none) =>
      if !q.1.forkOk n fork then (q.1, none)
      else
        let y := q.1.getSegs src (q.1.strand n).sys.asid gs
        (y.1, y.2.map (fun bs =>
          { bytes := bs.map (fun b => b.1)
            bad := (List.range bs.length).filter (fun i => (bs.getD i (0, false)).2), stop := stop }))
    | some (_, some f) => (q.1, some { bytes := [], bad := [], stop := some (f.1, f.2.1) })
    | none => (q.1, none)
  let q := s.engineSpan src n { r := true } 1 a len
  match q.2 with
  | some (_, some (c, va, k)) =>
    if k == 0 || len ≤ k then got q none else got (q.1.engineSpan src n { r := true } 1 a k) (some (c, va))
  | _ => got q none

/-- The cause of an expander's failure: a poisoned scratchpad word is poison (R358), not an uncorrectable line. -/
def Bad.causeAt (b : Bad) : BitVec 7 := if b.cause == 0x41 && winOf b.tva != .d then 0x19 else b.cause

/-! Blocks of a pattern engine (R160, R161, R166, R168, R342). -/

/-- The element of the register-side block that holds byte x of the block's memory bytes; for a scale, the first it covers (R167). -/
def Layout.elemAt (l : Layout) (x : Nat) : Nat :=
  let w := fmtWidth l.fmt.toNat
  let g := 4 * w
  let e := if isMx l.fmt.toNat then (x / (g + 1)) * g + (if x % (g + 1) < g then x % (g + 1) else 0) else x
  let b := 8 * e
  (if l.xf == 2 then trnIdx (b / 32) * 32 + b % 32 else b) / w

/-- The generator of the block at linear position lin. -/
def Port.seedAt (p : Port) (lin : Nat) : BitVec 32 :=
  if !p.lay.draws then p.seed
  else if p.prog.start ≤ lin then drawN ((lin - p.prog.start) * p.lay.capacity) p.seed
  else Config.freeSeed p.seed.toNat (p.prog.start - lin)

/-- Clear bits 15:0 (R168). -/
def clear16 (a : Word) : Word := a &&& ~~~0xFFFF

/-- The engine of a port may go on: its strand's engines go on, and its command, if one runs, is not stopped. -/
def Strand.portLive (t : Strand) (q : Nat) : Bool :=
  match (vAt t.e.ports q).cmd with
  | some id => (match t.cmd id with | some c => c.live | none => true)
  | none => true

/-- The port's engine meets a failure, which waits for the pop, claim or push that reaches it (R168). -/
def Strand.portFault (t : Strand) (q : Nat) (f : Fail) : Strand :=
  t.setPort q { vAt t.e.ports q with
    fault := some { cause := f.1, tva := clear16 f.2.1, eoff := BitVec.ofNat 13 f.2.2, told := false }, uses := [] }
def State.portFails (s : State) (n q : Nat) (f : Fail) : State := (s.modStrand n (fun t => t.portFault q f)).forget (.port n q)

/-- A port whose engine waits for a fill holds no translation (R391). -/
def State.portWaits (s : State) (n q : Nat) : State :=
  if s.filling (.port n q) then s.modStrand n (fun t => t.setPort q { vAt t.e.ports q with uses := [] }) else s

/-- A fetched block enters the buffer. -/
def Strand.enter (t : Strand) (q : Nat) (b : InBlock) (uses : List (Word × Nat)) : Strand :=
  let p := vAt t.e.ports q
  let w := posWords p q p.nextNo 0
  (t.setPort q { p with buf := p.buf ++ [{ b.blk with pos := w, mine := true }], nextNo := p.nextNo + 1, uses := uses }).raise b.flags

/-- A block fetched, or the failure that stands in its place, or progress of the reads, walks and fills it waits for. -/
def State.fetchBlock (s : State) (n q : Nat) : State :=
  let p := vAt (s.strand n).e.ports q
  let l := p.lay
  let src : Src := .port n q
  let seed := p.seedAt p.nextNo
  let enter (s : State) (bs : List (Byte × Bool)) (uses : List (Word × Nat)) : State :=
    (s.modStrand n (fun t => t.enter q (l.toBlock seed (BitVec.allOnes 1024) bs) uses)).forget src
  if l.xf == 1 then
    let k := 16 * l.rowBytes
    let lo := k * p.nextNo
    let r := expand (engineReader src n p.fork) s l.base lo (lo + k)
    match r.2 with
    | none => r.1.portWaits n q
    | some x =>
      match x.fail with
      | some (off, b) => r.1.portFails n q (b.causeAt, b.tva, l.elemAt (off - lo))
      | none => enter r.1 (x.bytes.map (fun b => (b, false))) (((x.chunks.getLast?).map (fun c => (c.1, s.fresh))).toList)
  else
    let o := l.origin (indices p.nextNo p.prog.counts)
    let r := s.engineRows src n { r := true } l o (List.range 16)
    match r.2 with
    | none => r.1.portWaits n q
    | some x =>
      let y := r.1.engineRead src n p.fork x
      match y.2 with
      | none => y.1
      | some (.error f) => y.1.portFails n q (f.1, f.2.1, l.elemAt f.2.2)
      | some (.ok bs) => enter y.1 bs [(l.lastVa o, s.fresh)]

/-- A command that an eviction lets run to its end takes blocks from port q (R456). -/
def Strand.feeds (t : Strand) (q : Nat) : Bool :=
  t.leaving && (vAt t.e.ports q).claims.any (fun k =>
    match t.cmd k.1 with | some c => c.st == .running && !counted c.op | none => false)

/-- An inbound engine fetches a block (R342). -/
def execPatternBlockFetch (n q : Nat) (s : State) : Host.Outcome State Fault Refusal :=
  let t := s.strand n
  let p := vAt t.e.ports q
  event s (
    if q < 6 && (t.engines || t.feeds q) && t.portLive q && p.captured && !p.spent q && p.fault.isNone && (p.rew.isNone || !t.claimsRest q) &&
        p.buf.length < 4 then
      some (s.fetchBlock n q)
    else none)

/-- The stores of a source have been performed. -/
def State.stored (s : State) (src : Src) : Bool := s.net.all (fun e => e.src != src || !e.op.writes || e.done)

/-- The oldest pushed block is sent, or the failure that stops it met; once its stores are performed its slot is free. -/
def State.writeBlock (s : State) (n q : Nat) (b : PBlock) : State :=
  let p := vAt (s.strand n).e.ports q
  let l := p.lay
  let src : Src := .port n q
  let o := l.origin (indices p.nextNo p.prog.counts)
  let x := l.fromBlock (p.seedAt p.nextNo) b (BitVec.allOnes 1024)
  if p.sent then
    if s.stored src then
      (s.modStrand n (fun t =>
        let p := vAt t.e.ports q
        (t.setPort q { p with buf := p.buf.drop 1, sent := false, nextNo := p.nextNo + 1 }).raise x.flags)).forget src
    else s
  else
    let r := s.engineRows src n { w := true } l o (List.range 16)
    match r.2 with
    | none => r.1.portWaits n q
    | some (_, some f) => r.1.portFails n q (f.1, f.2.1, l.elemAt f.2.2)
    | some (gs, none) =>
      match r.1.engineWrite src n p.fork x.bytes gs with
      | none => r.1
      | some u => u.modStrand n (fun t => t.setPort q { vAt t.e.ports q with sent := true, uses := [(l.lastVa o, s.fresh)] })

/-- An outbound engine writes the oldest block pushed (R342); an eviction lets it write what has been pushed (R348). -/
def execPatternBlockWrite (n q : Nat) (s : State) : Host.Outcome State Fault Refusal :=
  let t := s.strand n
  let p := vAt t.e.ports q
  event s (
    if (q == 6 || q == 7) && (t.engines || t.leaving) && (t.portLive q || t.leaving) && p.captured && p.fault.isNone then
      p.buf.head?.map (fun b => s.writeBlock n q b)
    else none)

/-! Commands of the P queues. -/

/-- A `pstart` begins its stream (R165); blocks of an earlier stream stay in the buffer. -/
def Strand.beginStream (t : Strand) (q : Nat) (c : Cmd) : Strand :=
  let p := vAt t.e.ports q
  (t.setPort q { p with
    captured := true, lay := c.src, prog := c.prog, nextNo := c.prog.start, accepted := c.prog.start, stopped := false, fault := none,
    cmd := some c.id, buf := p.buf.map (fun b => { b with mine := false }), seed := c.seed, fork := c.id, uses := [], sent := false }).clearEos q

/-- A stream that a `qrew` has started again without its command still goes on: a `pstart` behind it waits. -/
def Strand.mayBegin (t : Strand) (q : Nat) : Bool :=
  let p := vAt t.e.ports q
  p.rew.isNone && p.fault.isNone && t.streamDone q

/-- The stream of a running `pstart` has brought its last block, or was ended (R165, R169). -/
def Strand.streamOver (t : Strand) (q : Nat) : Bool := (vAt t.e.ports q).rew.isNone && t.streamDone q

/-- Drop an inbound buffer: the next block to fetch is the first dropped one of the present stream (R170). -/
def Port.dropBuf (p : Port) (q : Nat) : Port :=
  if inbound q then { p with buf := [], nextNo := p.nextNo - (p.buf.filter (fun b => b.mine)).length } else p

/-! The image of an engine (R170). -/

/-- Offsets 0x00 to 0x3F: a layout. -/
def Layout.image (l : Layout) : List Byte :=
  toBytes 8 l.base.toNat ++ toBytes 8 (l.rstr.signExtend 64).toNat ++
  l.lst.toList.flatMap (fun x => toBytes 8 (x.signExtend 64).toNat) ++
  toBytes 8 (l.fmt.toNat + l.xf.toNat * 2 ^ 8 + l.dfmt.toNat * 2 ^ 16 + l.rnd.toNat * 2 ^ 24 + b2n l.sat * 2 ^ 28 +
    l.bperm.toNat * 2 ^ 32)

/-- Offsets 0x40 to 0x7F: a program, a position, and the fields above nlev and eot in the last word. -/
def Prog.image (p : Prog) (w : Word × Word) (rest : Nat) : List Byte :=
  p.cnt.toList.flatMap (fun x => toBytes 4 x.toNat) ++ p.sta.toList.flatMap (fun x => toBytes 4 x.toNat) ++
  toBytes 8 w.1.toNat ++ toBytes 8 w.2.toNat ++
  toBytes 8 (p.lay.toNat + p.nlev.toNat * 2 ^ 8 + b2n p.eot * 2 ^ 12 + rest)

/-- The image of port q of a strand, with the position it is to have. -/
def Strand.portImage (t : Strand) (q : Nat) (w : Word × Word) : List Byte :=
  let p := vAt t.e.ports q
  p.lay.image ++ p.prog.image w (t.portState q * 2 ^ 16 + b2n (t.sys.qeos.getLsbD q) * 2 ^ 20)

/-- Apply field writes in their order; none where one is out of range. -/
def putAll {α : Type} (put : α → Nat → Nat → Option α) : List (Nat × Nat) → α → Option α
  | [], a => some a
  | (f, v) :: r, a => match put a f v with | some b => putAll put r b | none => none

/-- A layout from offsets 0x00 to 0x3F. -/
def layoutOf (bs : List Byte) : Option Layout :=
  let w := word bs 7
  putAll (fun (l : Layout) f v => l.put f (BitVec.ofNat 64 v))
    ([(0, word bs 0), (2, word bs 1)] ++ (List.range 5).map (fun i => (3 + i, word bs (2 + i))) ++
     [(1, bits w 4 0), (9, bits w 9 8), (10, bits w 20 16), (11, bits w 26 24), (12, bits w 28 28), (8, bits w 36 32)]) Layout.reset

/-- A program from offsets 0x40 to 0x7F. -/
def progOf (bs : List Byte) : Option Prog :=
  let w := word bs 7
  let half (i : Nat) : Nat := ofBytes ((bs.drop (4 * i)).take 4)
  putAll Prog.put
    ((List.range 5).map (fun i => (2 + i, half i)) ++ (List.range 5).map (fun i => (7 + i, half (5 + i))) ++
     [(0, bits w 4 0), (1, bits w 10 8), (12, bits w 12 12)]) Prog.reset

/-- The port an image installs, none where a field is out of range; and the end bit of `sys.qeos`. A running or faulted stream goes on at
its position; an ended one stays at its end. -/
def imagePort (t : Strand) (q : Nat) (seed : BitVec 32) (fork : Nat) (bs : List Byte) : Option (Port × Bool) :=
  match layoutOf bs, progOf (bs.drop 64) with
  | some l, some g =>
    let w := (BitVec.ofNat 64 (word bs 13), BitVec.ofNat 64 (word bs 14))
    let p : Port := { vAt t.e.ports q with
      captured := wbit w.1 63, lay := l.capture t.sys.fmode, prog := g, buf := [], fault := none, seed := seed, fork := fork, cmd := none, uses := [], sent := false }
    let lin := linear ((posIndices w).zip g.counts)
    let st := bits (word bs 15) 17 16
    let go := st == 1 || st == 3
    let at' := if go then lin else lin + 1
    if !p.captured then some ({ p with nextNo := 0, accepted := 0, stopped := false }, bit (word bs 15) 20)
    else if !p.posOk q w || !l.allowed (inbound q) then none
    else some ({ p with nextNo := at', accepted := at', stopped := !go }, bit (word bs 15) 20)
  | _, _ => none

/-- A command of a P queue stops on a fault (R170). -/
def State.stopPort (s : State) (n q : Nat) (c : Cmd) (cause : BitVec 7) (tva : Word) : State :=
  (s.modStrand n (fun t =>
    let w := (vAt t.e.ports q).pos q
    t.stopCmd c { cause := cause.zeroExtend 8, tva := tva, pos0 := w.1, pos1 := w.2 })).forget (.port n q)

/-- A running `psave` drops the inbound buffer, sends its image and is done once it is written (R170). -/
def State.savePort (s : State) (n q : Nat) (c : Cmd) : State :=
  let src : Src := .port n q
  if c.fin == 1 then
    if s.stored src then (s.modStrand n (fun t => t.finishCmd c)).forget src else s
  else
    let r := s.engineSpan src n { w := true } 1 (vAt c.ops 1) 128
    let t := r.1.strand n
    let p := vAt t.e.ports q
    let u := t.setPort q (p.dropBuf q)
    match r.2 with
    | none => r.1
    | some (_, some f) => (r.1.setStrand n u).stopPort n q c f.1 f.2.1
    | some (gs, none) =>
      match r.1.engineWrite src n c.id (whole (u.portImage q (p.pos q))) gs with
      | none => r.1
      | some x => x.setStrand n (u.setCmd { c with fin := 1 })

/-- A running `pload` reads and installs its image (R170); data it cannot trust stops it (R447, R358). -/
def State.loadPort (s : State) (n q : Nat) (c : Cmd) : State :=
  let src : Src := .port n q
  let r := s.engineSpan src n { r := true } 1 (vAt c.ops 1) 128
  match r.2 with
  | none => r.1
  | some x =>
    let y := r.1.engineRead src n c.id x
    match y.2 with
    | none => y.1
    | some (.error f) => y.1.stopPort n q c f.1 f.2.1
    | some (.ok bs) =>
      match (List.range 128).find? (fun i => (bs.getD i (0, false)).2) with
      | some i => y.1.stopPort n q c 0x41 (vAt c.ops 1 + BitVec.ofNat 64 i)
      | none =>
        let t := y.1.strand n
        match imagePort t q (Config.freeSeed y.1.fresh 0) c.id (bs.map (fun b => b.1)) with
        | none => y.1.stopPort n q c 0x20 0
        | some (p, eos) =>
          let u := t.setPort q p
          ({ y.1 with fresh := y.1.fresh + 1 }.setStrand n ((if eos then u.setEos q else u.clearEos q).finishCmd c)).forget src

end Sys2Proof.Machine
end

