-- ==== Sys2Proof/Machine/Copies.lean ====
section
/-! DEFINITION. Copies (R177 to R182, R208, R374): `copy` and `copyt` at issue, their granules and blocks, checksums, last-use spans, and
what their completion signals. -/

namespace Sys2Proof.Machine

/-! Issue. -/

/-- The completion register or ring of a copy (R181). -/
def compReg (kind : CompKind) (gc : BitVec 5) : List Dst := if kind == .sem then [.g gc.toNat] else []

/-- What the bundle's checks say of a completion object: a poisoned address, and its window; every other fault of it is the command's
(R177, R181). -/
def Strand.compCheck (t : Strand) (kind : CompKind) (gc : BitVec 5) : Option (BitVec 7 × Word) :=
  if kind == .sem then
    let a := t.g gc
    if a.poison then some (0x1A, 0)
    else match classify a.val 8 with
      | .error c => some (c, a.val)
      | .ok _ => none
  else none

/-- The first of some checks that fails. -/
def firstTrap (s : State) : List (Option (BitVec 7 × Word)) → Res → Res
  | [], r => r
  | some (c, a) :: _, _ => trapIf s c a
  | none :: xs, r => firstTrap s xs r

/-- A span's first and last byte (R177); none of an empty span. -/
def spanCheck (a : Word) (len : Nat) : Option (BitVec 7 × Word) :=
  if len == 0 then none
  else match classify a len with
    | .error c => some (c, a)
    | .ok _ => none

/-- A span of the strand's own scratchpad, reached through L or S (R178). -/
def ownSpad (n : Nat) (a : Word) (len : Nat) : Bool :=
  winOf a == .l || (winOf a == .s && spBase (coreOf n) ≤ bits a.toNat 29 0 && bits a.toNat 29 0 + len ≤ spBase (coreOf n) + 0x400000)

/-- R178; a poisoned guard is poisoned data (R72). DESIGN CHOICE (log entry 102): a `.exp` copy of no bytes names no destination that could lie
elsewhere, and raises nothing. -/
def execCopy (h : MHead) (opa opb len : GReg) (exp lu : Bool) (kind : CompKind) (gc : BitVec 5) (s : State) :
    Host.Outcome State Fault Refusal :=
  guardedM 0x19 s h (fun _ => [.g opa.toNat, .g opb.toNat, .g len.toNat] ++ compReg kind gc) (fun t =>
    let d := t.g opa
    let a := t.g opb
    let n := t.g len
    let k := n.val.toNat
    firstTrap s
      [ if d.poison || a.poison || n.poison then some (0x1A, 0) else none,
        if 2 ^ 40 < k then some (0x03, 0) else none,
        spanCheck d.val k, spanCheck a.val (if exp then min k 1 else k),
        if exp && k != 0 && !ownSpad s.cur d.val k then some (0x20, 0) else none,
        t.compCheck kind gc ]
      (enqueue s t h 2 (.copy h opa opb len exp lu kind gc)
        { fill := fun c => { c with ops := #v[d.val, a.val, n.val, if kind == .sem then (t.g gc).val else 0] } }))

/-- The register-side format of a layout's blocks, as a code of R162. -/
def Layout.regFmt (l : Layout) : Nat := if l.xf == 3 then l.dfmt.toNat else l.fmt.toNat

/-- R179; a poisoned guard is poisoned data (R72). -/
def execCopyt (h : MHead) (cnt crc : GReg) (dst src : LayNo) (lu chk schk : Bool) (kind : CompKind) (gc : BitVec 5) (s : State) :
    Host.Outcome State Fault Refusal :=
  guardedM 0x19 s h (fun _ => .g cnt.toNat :: (if chk then [.g crc.toNat] else []) ++ compReg kind gc) (fun t =>
    let n := t.g cnt
    let r := t.g crc
    let ld := (vAt t.r.lay dst.toNat).capture t.sys.fmode
    let ls := (vAt t.r.lay src.toNat).capture t.sys.fmode
    firstTrap s
      [ if n.poison || (chk && r.poison) then some (0x1A, 0) else none,
        if 2 ^ 24 < n.val.toNat then some (0x03, 0) else none,
        if chk then spanCheck r.val 8 else none,
        if chk && r.val.toNat % 8 != 0 then some (0x0A, r.val) else none,
        if !ld.allowed false || !ls.allowed true || ld.regFmt != ls.regFmt || ld.plane != ls.plane then some (0x20, 0) else none,
        t.compCheck kind gc ]
      (enqueue s t h 2 (.copyt h cnt crc dst src lu chk schk kind gc)
        { fill := fun c => { c with
            src := ls, dst := ld, ops := #v[n.val, if chk then r.val else 0, 0, if kind == .sem then (t.g gc).val else 0] }
          draws := if ld.draws || ls.draws then n.val.toNat * ld.capacity else 0 }))

/-! Checksums (R180). -/

/-- One bit of the reflected CRC-32C. -/
def crcBit (c : BitVec 32) : BitVec 32 := if c.getLsbD 0 then (c >>> 1) ^^^ 0x82F63B78#32 else c >>> 1
/-- One byte. -/
def crcByte (c : BitVec 32) (b : Byte) : BitVec 32 :=
  crcBit (crcBit (crcBit (crcBit (crcBit (crcBit (crcBit (crcBit (c ^^^ b.zeroExtend 32))))))))
/-- Bytes, from a running value. -/
def crcBytes (c : BitVec 32) (bs : List Byte) : BitVec 32 := bs.foldl crcByte c
/-- The value a record holds of a running value. -/
def crcFinal (c : BitVec 32) : BitVec 32 := c ^^^ 0xFFFFFFFF#32

/-! Granules and blocks. -/

/-- Bytes or blocks of a copy. -/
def Cmd.whole (c : Cmd) : Nat :=
  match c.op with
  | .copy _ _ _ _ _ _ _ _ => (vAt c.ops 2).toNat
  | _ => (vAt c.ops 0).toNat

/-- A copy stops at its boundary (R182), once everything before it has been written. -/
def State.stopCopy (s : State) (n : Nat) (c : Cmd) (cause : BitVec 7) (tva pos1 : Word) : State :=
  if !s.stored (.copy n c.id) then s
  else (s.modStrand n (fun t => t.stopCmd { c with fin := 0 }
    { cause := cause.zeroExtend 8, tva := tva, pos0 := BitVec.ofNat 64 c.done, pos1 := pos1 })).forget (.copy n c.id)

/-- A copy that waits for a fill holds no translation (R391). -/
def State.copyWaits (s : State) (n : Nat) (c : Cmd) : State :=
  if s.filling (.copy n c.id) then s.modStrand n (fun t => t.setCmd { c with uses := [] }) else s

/-- The record word of an expander's failure (R372, R483): none for an access that failed. -/
def Bad.copyRecord (b : Bad) : Word := if b.causeAt == 0x22 || b.causeAt == 0x41 then b.record else 0

/-- The address of byte i of segments. -/
def segVa (gs : List Seg) (i : Nat) : Word :=
  match gs.find? (fun g => g.off ≤ i && i < g.off + g.len) with
  | some g => g.va + BitVec.ofNat 64 (i - g.off)
  | none => 0

/-- The first poisoned byte. -/
def firstBad : Nat → List (Byte × Bool) → Option Nat
  | _, [] => none
  | i, b :: bs => if b.2 then some i else firstBad (i + 1) bs

/-- Source bytes of a step of a copy, with the addresses of their failures: progress, a stop, or the bytes. -/
inductive Source where
  | wait (s : State)
  | stop (s : State) (cause : BitVec 7) (tva pos1 : Word)
  | ok (s : State) (bs : List (Byte × Bool)) (chunks : List (Word × Nat × Nat × Nat))

/-- Bytes lo to hi of the decoded stream at a. -/
def State.expandSource (s : State) (n id : Nat) (a : Word) (lo hi : Nat) : Source :=
  let r := expand (engineReader (.copy n id) n id) s a lo hi
  match r.2 with
  | none => .wait r.1
  | some x =>
    match x.fail with
    | some (_, b) => .stop r.1 b.causeAt b.tva b.copyRecord
    | none => .ok r.1 (x.bytes.map (fun b => (b, false))) x.chunks

/-- Bytes whose checks stand; poison among them stops the copy (R72, R429). -/
def State.segSource (n id : Nat) (r : State × Checked) : Source :=
  match r.2 with
  | none => .wait r.1
  | some x =>
    let y := r.1.engineRead (.copy n id) n id x
    match y.2 with
    | none => .wait y.1
    | some (.error f) => .stop y.1 f.1 f.2.1 0
    | some (.ok bs) =>
      match firstBad 0 bs with
      | some i => .stop y.1 0x19 (segVa x.1 i) 0
      | none => .ok y.1 bs []

/-- Bytes are written to where their checks allow, and the copy goes on as given. -/
def State.copyOut (r : State × Checked) (n : Nat) (c : Cmd) (bs : List OutByte) (k : State → State) : State :=
  match r.2 with
  | none => r.1.copyWaits n c
  | some (_, some f) => r.1.stopCopy n c f.1 f.2.1 0
  | some (gs, none) =>
    match r.1.engineWrite (.copy n c.id) n c.id bs gs with
    | none => r.1
    | some u => (k u).forget (.copy n c.id)

/-- A granule of a `copy` (R178). -/
def State.copyBytes (s : State) (n : Nat) (c : Cmd) (exp : Bool) : State :=
  let k := min 256 (c.whole - c.done)
  let a := vAt c.ops 1
  let d := vAt c.ops 0
  let src := if exp then s.expandSource n c.id a c.done (c.done + k)
             else State.segSource n c.id (s.engineSpan (.copy n c.id) n { r := true } 1 (a + BitVec.ofNat 64 c.done) k)
  match src with
  | .wait s => s.copyWaits n c
  | .stop s cause tva p => s.stopCopy n c cause tva p
  | .ok s bs cs =>
    let from' := (cs.getLast?.map (fun x => x.1)).getD (a + BitVec.ofNat 64 (c.done + k - 1))
    State.copyOut (s.engineSpan (.copy n c.id) n { w := true } 1 (d + BitVec.ofNat 64 c.done) k) n c (whole (bs.map (fun b => b.1)))
      (fun u => u.modStrand n (fun t => t.setCmd { c with
        done := c.done + k
        uses := [(from', s.fresh), (d + BitVec.ofNat 64 (c.done + k - 1), s.fresh)] }))

/-- The origin of block b of a captured entry (R179). -/
def Layout.blockOrigin (l : Layout) (b : Nat) : Word := l.base + BitVec.ofNat 64 b * (vAt l.lst 0).signExtend 64

/-- Decoded bytes of a block of an expanded entry. -/
def Layout.blockBytes (l : Layout) : Nat := 16 * l.rowBytes

/-- Chunks whose needed part ends with the decoded bytes lo to hi, of a copy of all bytes. -/
def chunksDone (lo hi all : Nat) (cs : List (Word × Nat × Nat × Nat)) : List (Word × Nat) :=
  (cs.filter (fun k => let e := min (k.2.2.1 + k.2.2.2) all; lo < e && e ≤ hi)).map (fun k => (k.1, k.2.1))

/-- The stored bytes of chunks, for the source checksum (R374); a marked scratchpad word among them stops the copy (R358). -/
def State.chunkBytes (s : State) (n id : Nat) : List (Word × Nat) → Source
  | [] => .ok s [] []
  | k :: ks =>
    let r := engineReader (.copy n id) n id s k.1 k.2
    match r.2 with
    | none => .wait r.1
    | some x =>
      match (if winOf k.1 == .d then none else x.bad.head?), x.stop with
      | some i, _ => .stop r.1 0x19 (k.1 + BitVec.ofNat 64 i) 0
      | none, some (c, va) => .stop r.1 c va 0
      | none, none =>
        match r.1.chunkBytes n id ks with
        | .ok s bs _ => .ok s (x.bytes.map (fun b => (b, false)) ++ bs) []
        | y => y

/-- The destination bytes of a block without scales, in destination linear order (R180). -/
def Layout.crcPart (l : Layout) (bs : List Byte) : List Byte :=
  if isMx l.fmt.toNat then
    let g := 4 * fmtWidth l.fmt.toNat
    (splitScales g (bs.length / (g + 1)) (bs.map (fun b => (b, false)))).1.map (fun b => b.1)
  else bs

/-- A block of a `copyt` (R179, R180, R374). -/
def State.copyBlock (s : State) (n : Nat) (c : Cmd) (chk schk : Bool) : State :=
  let b := c.done
  let ls := c.src
  let ld := c.dst
  let k := ls.blockBytes
  let exp := ls.xf == 1
  let rows := List.range 16
  let src := if exp then s.expandSource n c.id ls.base (k * b) (k * b + k)
             else State.segSource n c.id (s.engineRows (.copy n c.id) n { r := true } ls (ls.blockOrigin b) rows)
  match src with
  | .wait s => s.copyWaits n c
  | .stop s cause tva p => s.stopCopy n c cause tva p
  | .ok s bs cs =>
    let stored := if exp && schk then s.chunkBytes n c.id (chunksDone (k * b) (k * b + k) (k * c.whole) cs) else .ok s bs []
    match stored with
    | .wait s => s.copyWaits n c
    | .stop s cause tva p => s.stopCopy n c cause tva p
    | .ok s raw _ =>
      let all : Mask := BitVec.allOnes 1024
      let seed := if ld.draws || ls.draws then drawN (b * ld.capacity) c.seed else c.seed
      let x := ls.toBlock seed all bs
      let y := ld.fromBlock seed x.blk all
      let c' := { c with
        done := b + 1
        crc := if chk then crcBytes c.crc (ld.crcPart (y.bytes.map (fun e => e.1))) else c.crc
        scrc := if schk then crcBytes c.scrc (raw.map (fun e => e.1)) else c.scrc
        uses := [((cs.getLast?.map (fun e => e.1)).getD (ls.lastVa (ls.blockOrigin b)), s.fresh), (ld.lastVa (ld.blockOrigin b), s.fresh)] }
      State.copyOut (s.engineRows (.copy n c.id) n { w := true } ld (ld.blockOrigin b) rows) n c y.bytes
        (fun u => u.modStrand n (fun t => (t.setCmd c').raise (x.flags ||| y.flags)))

/-- A copy may go on: it runs, and its strand's engines do. -/
def Strand.copyRuns (t : Strand) (c : Cmd) : Bool := t.engines && c.live && c.engine == 2

/-- One granule of a `copy`, one block of a `copyt` (R178, R179, R182). -/
def execCopyGranule (n id : Nat) (s : State) : Host.Outcome State Fault Refusal :=
  let t := s.strand n
  event s (match t.cmd id with
    | some c =>
      if !t.copyRuns c || c.whole ≤ c.done then none
      else match c.op with
        | .copy _ _ _ _ exp _ _ _ => some (s.copyBytes n c exp)
        | .copyt _ _ _ _ _ _ chk schk _ _ => some (s.copyBlock n c chk schk)
        | _ => none
    | none => none)

/-! Completion. -/

/-- The global offsets of a span on chip (R356). -/
def chipSpan (n : Nat) (a : Word) (len : Nat) : List (Nat × Nat) :=
  match winOf a with
  | .l => [(spBase (coreOf n) + bits a.toNat 21 0, len)]
  | .s => [(bits a.toNat 29 0, len)]
  | _ => []

/-- From the first of some chunks to the end of the last. -/
def chunkSpan (a : Word) (cs : List (Word × Nat × Nat × Nat)) : Nat :=
  match cs.getLast? with
  | some k => (k.1 - a).toNat + k.2.1
  | none => 0

/-- The spans a copy's last-use hint names (R178, R356); none while the chunks that name them cannot be read yet. -/
def State.lastSpans (s : State) (n : Nat) (c : Cmd) : State × Option (List (Nat × Nat)) :=
  let chunks (a : Word) (all : Nat) : State × Option (List (Nat × Nat)) :=
    if winOf a == .d || all == 0 then (s, some [])
    else match s.expandSource n c.id a (all - 1) all with
      | .wait s => (s, none)
      | .stop s _ _ _ => (s, some [])
      | .ok s _ cs => (s, some (chipSpan n a (chunkSpan a cs)))
  match c.op with
  | .copy _ _ _ _ exp true _ _ => if exp then chunks (vAt c.ops 1) c.whole else (s, some (chipSpan n (vAt c.ops 1) c.whole))
  | .copyt _ _ _ _ _ true _ _ _ _ =>
    let l := c.src
    if l.xf == 1 then chunks l.base (l.blockBytes * c.whole)
    else (s, some ((List.range c.whole).flatMap (fun b => (List.range 16).flatMap (fun r =>
      (l.parts r (l.rowAddr (l.blockOrigin b) r) l.rowBytes).flatMap (fun e => chipSpan n e.1 e.2.1)))))
  | _ => (s, some [])

/-- The slot of counter value x of a ring, as a local offset (R205). -/
def Ring.slot (r : Ring) (x : BitVec 16) : Nat := r.base.toNat + (x.toNat % r.ns) * r.sb
/-- T − H = ns. -/
def Ring.full (r : Ring) : Bool := (r.t - r.h).toNat == r.ns
/-- Ready slots in claim order advance R. -/
def Ring.advanceR : Nat → Ring → Ring
  | 0, r => r
  | k + 1, r =>
    let i := r.r.toNat % r.ns
    if r.r != r.t && r.pub.getLsbD i then Ring.advanceR k { r with r := r.r + 1, pub := r.pub &&& ~~~BitVec.ofNat 256 (2 ^ i) } else r
/-- Publish slot i (R207). -/
def Ring.publish (r : Ring) (i : Nat) : Ring := Ring.advanceR 256 { r with pub := r.pub ||| BitVec.ofNat 256 (2 ^ i) }

/-- A core's event sets a bit of `sys.evt` of both its strands (R234). -/
def State.ringEvent (s : State) (c b : Nat) : State :=
  (s.modStrand (2 * c) (fun t => t.setEvt b)).modStrand (2 * c + 1) (fun t => t.setEvt b)

/-- A copy has finished: its hint takes effect, `sys.evt` and its token (R136, R234, R356). -/
def State.endCopy (s : State) (n : Nat) (c : Cmd) (spans : List (Nat × Nat)) : State :=
  ((if spans.isEmpty then s else s.lastUse n spans).modStrand n (fun t => (t.finishCmd c).setEvt 3)).forget (.copy n c.id)

/-- The bytes of a checksum record, of a copy that has one (R180). -/
def Cmd.record (c : Cmd) : Option (List Byte) :=
  match c.op with
  | .copyt _ _ _ _ _ _ true schk _ _ =>
    some (toBytes 8 ((crcFinal c.crc).toNat + (if schk then (crcFinal c.scrc).toNat else 0) * 2 ^ 32))
  | _ => none

/-- A copy's next stage, reached by sending what it sends. -/
def State.toStage (s : State) (n : Nat) (c : Cmd) (k : Nat) : State := s.modStrand n (fun t => t.setCmd { c with fin := k })

/-- The completion word is incremented, as a `sems` with release semantics at device scope (R181, R200). -/
def State.signalSem (s : State) (n : Nat) (c : Cmd) : State :=
  let r := s.engineSpan (.copy n c.id) n { a := true } 8 (vAt c.ops 3) 8
  match r.2 with
  | none => r.1
  | some (_, some f) => r.1.stopCopy n c f.1 f.2.1 0
  | some (gs, none) =>
    let rs := gs.map (fun g => { mkReq (.copy n c.id) (.sems 1) g (r.1.strand n).sys.asid 0 with scope := .dv, rel := true })
    if r.1.room (.copy n c.id) rs then (r.1.sendAll rs).toStage n c 2 else r.1

/-- A ring slot is claimed, once the ring is not full, and its tag sent there; a ring outside the allotment or not configured stops the copy
(R177, R208, R279). -/
def State.claimSlot (s : State) (n : Nat) (c : Cmd) (k : Nat) : Option State :=
  let core := coreOf n
  let g := (tget (s.core core).rings k).getD Ring.reset
  if !((s.kernel (s.strand n).kernel).map (fun x => x.ringmask.getLsbD k)).getD false then some (s.stopCopy n c 0x40 0 0)
  else if g.ns == 0 then some (s.stopCopy n c 0x03 0 0)
  else if g.full then none
  else
    let a := BitVec.ofNat 64 (0xFF00000000000000 + g.slot g.t)
    let r := s.engineSpan (.copy n c.id) n { w := true } 1 a 8
    match r.2 with
    | none => some r.1
    | some (_, some f) => some (r.1.stopCopy n c f.1 f.2.1 0)
    | some (gs, none) =>
      match r.1.engineWrite (.copy n c.id) n c.id (whole (toBytes 8 c.tag.toNat)) gs with
      | none => some r.1
      | some u =>
        some ((u.modCore core (fun x => { x with rings := tput x.rings k { g with t := g.t + 1 } })).toStage n
          { c with ops := vSet c.ops 3 (g.t.zeroExtend 64) } 2)

/-- The claimed slot is published (R207, R208). -/
def State.publishSlot (s : State) (n : Nat) (c : Cmd) (k : Nat) : State :=
  let core := coreOf n
  let g := (tget (s.core core).rings k).getD Ring.reset
  (s.modCore core (fun x => { x with rings := tput x.rings k (g.publish ((vAt c.ops 3).toNat % g.ns)) })).ringEvent core 1

/-- The end of a copy, all of whose bytes are written: the record, then the completion object, then its leaving, each once what went before
has been performed (R180, R181, R208). One whose completion is on its way ends even as its strand is evicted. -/
def State.finishCopy (s : State) (n : Nat) (c : Cmd) (kind : CompKind) (gc : Nat) : Option State :=
  let t := s.strand n
  if !(t.engines || (t.leaving && c.fin == 2)) || !c.live || c.engine != 2 || c.done < c.whole || !s.stored (.copy n c.id) then none
  else
    let l := s.lastSpans n c
    match l.2 with
    | none => some l.1
    | some spans =>
      let s := l.1
      match c.record, c.fin with
      | some bs, 0 =>
        let r := s.engineSpan (.copy n c.id) n { w := true } 1 (vAt c.ops 1) 8
        (match r.2 with
         | none => some r.1
         | some (_, some f) => some (r.1.stopCopy n c f.1 f.2.1 0)
         | some (gs, none) =>
           some (match r.1.engineWrite (.copy n c.id) n c.id (whole bs) gs with
             | none => r.1
             | some u => u.toStage n c 1))
      | _, 2 => some ((if kind == .ring then s.publishSlot n c gc else s).endCopy n c spans)
      | _, _ =>
        match kind with
        | .none => some (s.endCopy n c spans)
        | .sem => some (s.signalSem n c)
        | .ring => s.claimSlot n c gc

/-- R208. -/
def execCopyRingCompletion (n id : Nat) (s : State) : Host.Outcome State Fault Refusal :=
  event s (match (s.strand n).cmd id with
    | some c =>
      (match c.op with
       | .copy _ _ _ _ _ _ .ring gc => s.finishCopy n c .ring gc.toNat
       | .copyt _ _ _ _ _ _ _ _ .ring gc => s.finishCopy n c .ring gc.toNat
       | _ => none)
    | none => none)

end Sys2Proof.Machine
end

