-- ==== Sys2Proof/Machine/Rings.lean ====
section
/-! DEFINITION. Hardware rings and barriers (R205 to R215, R279, R473): the ring forms, `bset`, `barr`, `bwait`, `barw`, `bstat`, and the
messages between barriers of a tree. -/

namespace Sys2Proof.Machine

/-! Rings. -/

def Core.ring (c : Core) (k : Nat) : Ring := (tget c.rings k).getD Ring.reset
def State.ring (s : State) (k : Nat) : Ring := (s.core (coreOf s.cur)).ring k
def State.setRing (s : State) (k : Nat) (r : Ring) : State :=
  s.modCore (coreOf s.cur) (fun c => { c with rings := tput c.rings k r })

/-- The ring lies in the allotment of the strand's kernel (R279). -/
def State.ringOk (s : State) (k : Nat) : Bool := ((s.kernel s.me.kernel).map (fun x => x.ringmask.getLsbD k)).getD false
/-- The barrier lies in the allotment of the strand's kernel (R279). -/
def State.barOk (s : State) (k : Nat) : Bool := ((s.kernel s.me.kernel).map (fun x => x.barmask.getLsbD k)).getD false

/-- The window-L address of the slot of counter value x (R205). -/
def Ring.addr (r : Ring) (x : BitVec 16) : Word := BitVec.ofNat 64 (0xFF00000000000000 + r.slot x)

/-- The slot at an address whose counter value is the one of d, counted from a counter, and d itself; none where no slot stands there. -/
def Ring.slotAt (r : Ring) (a : Word) (frm : BitVec 16) : Option (Nat × Nat) :=
  let o := a.toNat - (0xFF00000000000000 + r.base.toNat)
  if winOf a == .l && 0xFF00000000000000 + r.base.toNat ≤ a.toNat && o % r.sb == 0 && o / r.sb < r.ns then
    some (o / r.sb, (o / r.sb + r.ns - frm.toNat % r.ns) % r.ns)
  else none

/-- A power of two from 1 to 256. -/
def ringCount (n : Nat) : Bool := [1, 2, 4, 8, 16, 32, 64, 128, 256].contains n

/-- The local offset of an address of the strand's own scratchpad (R206). -/
def ownOffset (n : Nat) (a : Word) : Option Nat :=
  match winOf a with
  | .l => some (bits a.toNat 21 0)
  | .s => if bits a.toNat 29 0 / 0x400000 == coreOf n && bits a.toNat 29 0 < 0x24000000 then some (bits a.toNat 29 0 % 0x400000) else none
  | _ => none

/-- R206. -/
def execRinit (g : Guard) (ring : BitVec 5) (ga gb : GReg) (sb : BitVec 12) (s : State) : Host.Outcome State Fault Refusal :=
  syllable s false g (fun _ => [.g ga.toNat, .g gb.toNat]) (fun t =>
    if (t.g ga).poison || (t.g gb).poison then trapIf s 0x1A 0
    else if !s.ringOk ring.toNat then trapIf s 0x40 0
    else
      let n := (t.g gb).val.toNat
      let b := 16 * (sb.toNat + 1)
      match ownOffset s.cur (t.g ga).val with
      | none => trapIf s 0x03 0
      | some o =>
        if o % 16 != 0 || !ringCount n || 0x400000 < o + n * b then trapIf s 0x03 0
        else .ok (s.setRing ring.toNat { Ring.reset with base := BitVec.ofNat 22 o, ns := n, sb := b }))

/-- The forms that name a configured ring of the allotment. -/
def ringForm (s : State) (g : Guard) (ring : BitVec 5) (ds : List Dst) (k : Strand → Ring → Res) : Host.Outcome State Fault Refusal :=
  syllable s false g (fun _ => ds) (fun t =>
    if !s.ringOk ring.toNat then trapIf s 0x40 0
    else if (s.ring ring.toNat).ns == 0 then trapIf s 0x03 0
    else k t (s.ring ring.toNat))

/-- The value a ring or barrier form returns. -/
def sendBack (s : State) (g : Guard) (gd : GReg) (v : Word) (flags : BitVec 6) (lat : Nat) : Res :=
  let t := s.me
  .ok (s.setMe (t.fly (.g gd.toNat) (.s { val := v, poison := (t.p g.p).poison }) flags lat true))

/-- R207: slot T is claimed. -/
def execRclaim (g : Guard) (o : RingGet) (s : State) : Host.Outcome State Fault Refusal :=
  ringForm s g o.ring [.g o.gd.toNat] (fun _ r =>
    if r.full then .hold s
    else sendBack (s.setRing o.ring.toNat { r with t := r.t + 1 }) g o.gd (r.addr r.t) 0 4)

/-- R207: a claimed slot is published, once the strand's earlier accesses are performed at core scope; `sys.evt` bit 1 (R234). -/
def execRpub (g : Guard) (o : RingPut) (s : State) : Host.Outcome State Fault Refusal :=
  ringForm s g o.ring [.g o.ga.toNat] (fun t r =>
    if (t.g o.ga).poison then trapIf s 0x1A 0
    else match r.slotAt (t.g o.ga).val r.r with
      | none => trapIf s 0x03 0
      | some (i, d) =>
        if (r.t - r.r).toNat ≤ d || r.pub.getLsbD i then trapIf s 0x03 0
        else if !s.released (.strand s.cur) .co then .hold s
        else .ok (((s.publish (.strand s.cur) s.fresh).setRing o.ring.toNat (r.publish i)).ringEvent (coreOf s.cur) 1))

/-- R207: slot K is taken. -/
def execRwaitf (g : Guard) (o : RingGet) (s : State) : Host.Outcome State Fault Refusal :=
  ringForm s g o.ring [.g o.gd.toNat] (fun _ r =>
    if r.k == r.r then .hold s
    else sendBack (s.setRing o.ring.toNat { r with k := r.k + 1 }) g o.gd (r.addr r.k) 0 4)

/-- R207: free slots, once there is one. -/
def execRwaite (g : Guard) (o : RingGet) (s : State) : Host.Outcome State Fault Refusal :=
  ringForm s g o.ring [.g o.gd.toNat] (fun _ r =>
    if r.full then .hold s else sendBack s g o.gd (BitVec.ofNat 64 (r.ns - (r.t - r.h).toNat)) 0 4)

/-- Released slots in order advance H. -/
def Ring.advanceH : Nat → Ring → Ring
  | 0, r => r
  | k + 1, r =>
    let i := r.h.toNat % r.ns
    if r.h != r.k && r.rel.getLsbD i then Ring.advanceH k { r with h := r.h + 1, rel := r.rel &&& ~~~BitVec.ofNat 256 (2 ^ i) } else r
/-- Release slot i. -/
def Ring.free (r : Ring) (i : Nat) : Ring := Ring.advanceH 256 { r with rel := r.rel ||| BitVec.ofNat 256 (2 ^ i) }

/-- R207: a taken slot is released, once the strand's earlier accesses are performed at core scope. -/
def execRrel (g : Guard) (o : RingPut) (s : State) : Host.Outcome State Fault Refusal :=
  ringForm s g o.ring [.g o.ga.toNat] (fun t r =>
    if (t.g o.ga).poison then trapIf s 0x1A 0
    else match r.slotAt (t.g o.ga).val r.h with
      | none => trapIf s 0x03 0
      | some (i, d) =>
        if (r.k - r.h).toNat ≤ d || r.rel.getLsbD i then trapIf s 0x03 0
        else if !s.released (.strand s.cur) .co then .hold s
        else .ok ((s.publish (.strand s.cur) s.fresh).setRing o.ring.toNat (r.free i)))

/-- The words of R209. -/
def Ring.stat (r : Ring) (w : Nat) : Word :=
  match w with
  | 0 => r.t ++ r.r ++ r.k ++ r.h
  | 1 => BitVec.ofNat 64 ((r.sb / 16 - 1) * 2 ^ 32 + (r.ns - 1) * 2 ^ 24 + r.base.toNat)
  | _ => BitVec.ofNat 64 ((r.k - r.h).toNat * 2 ^ 32 + (r.r - r.k).toNat * 2 ^ 16 + (r.t - r.r).toNat)

/-- R209. -/
def execRstat (g : Guard) (o : RingGet) (w : BitVec 2) (s : State) : Host.Outcome State Fault Refusal :=
  syllable s false g (fun _ => [.g o.gd.toNat]) (fun _ =>
    if !s.ringOk o.ring.toNat then trapIf s 0x40 0 else sendBack s g o.gd ((s.ring o.ring.toNat).stat w.toNat) 0 4)

/-! Barriers. -/

def Core.bar (c : Core) (k : Nat) : Barrier := (tget c.bars k).getD Barrier.reset
def State.setBar (s : State) (c k : Nat) (b : Barrier) : State := s.modCore c (fun x => { x with bars := tput x.bars k b })

/-- Arrivals counted for phase P + d. -/
def Barrier.count (b : Barrier) (d : Nat) : Nat := (tget b.counts d).getD 0

/-- The fields of a parent descriptor (R211). -/
def parentPkg (w : Word) : BitVec 16 := w.extractLsb' 32 16
def parentCore (w : Word) : Nat := wbits w 15 8
def parentBar (w : Word) : Nat := wbits w 6 0

/-- A child's number in `kids` when it lies in another package: the port its arrival came by. -/
def remoteKid (port : Nat) : Nat := 1000 + port

/-- A full phase goes up (R212, R473): to a barrier of this package, over the links, or to the host driver. -/
def State.forward (s : State) (c k : Nat) (b : Barrier) : State :=
  let w := b.parent
  if parentPkg w == 0xFFFF || wbit (s.mgr 0x1000) 0 then
    { s with bmsgs := s.bmsgs ++ [{ flip := false, pkg := parentPkg w, core := parentCore w, bar := parentBar w, fromCore := c,
                                    fromBar := k, ph := b.ph }] }
  else { s with asks := s.asks ++ [{ kind := 4, a := w, b := b.ph.zeroExtend 64, tag := s.fresh, sent := false, bar := 128 * c + k }],
                fresh := s.fresh + 1 }

/-- A barrier flips (R212): the next phase, counts one phase down, the flip sent to the children that have forwarded the phase, and
`sys.evt` bit 2 of the core's strands (R234). -/
def State.flip (s : State) (c k : Nat) : State :=
  let b := (s.core c).bar k
  let down := b.kids.filter (fun x => x.2.2 == b.ph)
  let b' := { b with
    ph := b.ph + 1, up := false
    counts := (b.counts.filter (fun e => e.1 != 0)).map (fun e => (e.1 - 1, e.2))
    kids := b.kids.filter (fun x => x.2.2 != b.ph) }
  let s1 := (s.setBar c k b').ringEvent c 2
  { s1 with bmsgs := s1.bmsgs ++ down.map (fun x => { flip := true, pkg := 0xFFFF, core := x.1, bar := x.2.1, fromCore := c, fromBar := k,
                                                      ph := b.ph }) }

/-- While the present phase is complete: a root flips, another forwards it and waits. -/
def State.settleBar (s : State) (c k : Nat) : Nat → State
  | 0 => s
  | n + 1 =>
    let b := (s.core c).bar k
    if b.c == 0 || b.up || b.count 0 < b.c.toNat then s
    else if wbit b.parent 63 then (s.setBar c k { b with up := true }).forward c k b
    else (s.flip c k).settleBar c k n

/-- An arrival for phase P + d counts, d at most A. -/
def State.arriveAt (s : State) (c k d : Nat) : State :=
  let b := (s.core c).bar k
  (s.setBar c k { b with counts := tput b.counts d (b.count d + 1) }).settleBar c k 257

/-- R211. -/
def execBset (g : Guard) (bar : BitVec 7) (ga gb : GReg) (s : State) : Host.Outcome State Fault Refusal :=
  syllable s false g (fun _ => [.g ga.toNat, .g gb.toNat]) (fun t =>
    let a := (t.g ga).val
    let b := (t.g gb).val
    let c := a.extractLsb' 0 16
    let pkg := (parentPkg b).toNat
    if (t.g ga).poison || (t.g gb).poison then trapIf s 0x1A 0
    else if !s.barOk bar.toNat then trapIf s 0x40 0
    else if c == 0 || a &&& ~~~0x0000FFFF00FFFFFF != 0 || b &&& ~~~0x8000FFFF0000FF7F != 0 || (!wbit b 63 && b != 0) ||
        143 < parentCore b || (0x1000 ≤ pkg && pkg < 0xFFFF) then trapIf s 0x03 0
    else .ok (s.setBar (coreOf s.cur) bar.toNat
      { Barrier.reset with c := c, a := a.extractLsb' 16 8, ph := a.extractLsb' 32 16, parent := b }))

/-- The forms that name a configured barrier of the allotment, with a phase or token. -/
def barForm (s : State) (g : Guard) (bar : BitVec 7) (ga : GReg) (ds : List Dst) (k : Barrier → BitVec 16 → Res) :
    Host.Outcome State Fault Refusal :=
  syllable s false g (fun _ => .g ga.toNat :: ds) (fun t =>
    if (t.g ga).poison then trapIf s 0x1A 0
    else if !s.barOk bar.toNat then trapIf s 0x40 0
    else
      let b := (s.core (coreOf s.cur)).bar bar.toNat
      if b.c == 0 then trapIf s 0x03 0 else k b ((t.g ga).val.extractLsb' 0 16))

/-- R212: an arrival is a release at its scope; one beyond the lead allowance holds, one for a complete phase is stale. -/
def execBarr (g : Guard) (scope : Scope) (bar : BitVec 7) (ga : GReg) (s : State) : Host.Outcome State Fault Refusal :=
  barForm s g bar ga [] (fun b q =>
    let d := (q - b.ph).toNat
    if d < 2 ^ 15 then
      if b.a.toNat < d || !s.released (.strand s.cur) scope then .hold s
      else .ok ((s.publish (.strand s.cur) s.fresh).arriveAt (coreOf s.cur) bar.toNat d)
    else .ok (s.setMe (s.me.raise fStale)))

/-- The wait of R213 on a barrier as it stands: the result and the stale flag, or a hold. -/
def waitOn (s : State) (g : Guard) (gd : GReg) (b : Barrier) (q : BitVec 16) : Res :=
  if (q - b.ph).toNat < 2 ^ 15 then .hold s
  else
    let e := (b.ph - 1 - q).toNat
    sendBack (if e == 0 then s else s.setMe (s.me.raise fStale)) g gd (BitVec.ofNat 64 (min e 255)) 0 2

/-- R213. -/
def execBwait (g : Guard) (scope : Scope) (gd : GReg) (bar : BitVec 7) (ga : GReg) (s : State) : Host.Outcome State Fault Refusal :=
  let _ := scope
  barForm s g bar ga [.g gd.toNat] (fun b q => waitOn s g gd b q)

/-- What `sys.barl` holds of an arrival (R214). -/
def barLatch (bar : BitVec 7) (q : BitVec 16) : BitVec 24 := (1 : BitVec 1) ++ bar ++ q

/-- R214: it arrives once, which `sys.barl` remembers while it waits. -/
def execBarw (g : Guard) (scope : Scope) (gd : GReg) (bar : BitVec 7) (ga : GReg) (s : State) : Host.Outcome State Fault Refusal :=
  barForm s g bar ga [.g gd.toNat] (fun b q =>
    let c := coreOf s.cur
    let d := (q - b.ph).toNat
    let latch := barLatch bar q
    let wait (s : State) : Res :=
      match waitOn s g gd ((s.core c).bar bar.toNat) q with
      | .ok u => .ok (u.setMe { u.me with sys := { u.me.sys with barl := 0 } })
      | r => r
    if s.me.sys.barl == latch then wait s
    else if d < 2 ^ 15 then
      if b.a.toNat < d || !s.released (.strand s.cur) scope then .hold s
      else
        let u := s.setMe { s.me with sys := { s.me.sys with barl := latch } }
        wait ((u.publish (.strand s.cur) s.fresh).arriveAt c bar.toNat d)
    else wait (s.setMe (s.me.raise fStale)))

/-- R215. -/
def execBstat (g : Guard) (gd : GReg) (bar : BitVec 7) (w : BitVec 2) (s : State) : Host.Outcome State Fault Refusal :=
  syllable s false g (fun _ => [.g gd.toNat]) (fun _ =>
    if !s.barOk bar.toNat then trapIf s 0x40 0
    else
      let b := (s.core (coreOf s.cur)).bar bar.toNat
      let v := if w == 0 then BitVec.ofNat 64 (b2n b.up * 2 ^ 63 + b.a.toNat * 2 ^ 48 + b.c.toNat * 2 ^ 32 + b.count 0 % 2 ^ 16 * 2 ^ 16 + b.ph.toNat)
               else b.parent
      sendBack s g gd v 0 4)

/-! Messages of a tree. -/

/-- Bytes of a message as it goes over a link. -/
def BMsg.bytes (m : BMsg) : List Byte :=
  let k := if 1000 ≤ m.core then m.bar else 128 * m.core + m.bar
  toBytes 1 (b2n m.flip) ++ toBytes 2 k ++ toBytes 2 m.ph.toNat ++ toBytes 2 (128 * m.fromCore + m.fromBar)

/-- An arrival reaches its parent (R212), or leaves for another package (R473). DESIGN CHOICE (log entry 74): one that finds the parent not
configured is dropped. -/
def execBarrierParentArrival (k : Nat) (s : State) : Host.Outcome State Fault Refusal :=
  event s (match s.bmsgs[k]? with
    | some m =>
      if m.flip then none
      else
        let s1 := { s with bmsgs := s.bmsgs.eraseIdx k }
        if m.pkg != 0xFFFF then some { s1 with linkOut := s1.linkOut ++ [(m.pkg.toNat, m.bytes, false)] }
        else
          let b := (s.core m.core).bar m.bar
          let d := (m.ph - b.ph).toNat
          if b.c == 0 || 2 ^ 15 ≤ d then some s1
          else if b.a.toNat < d then none
          else
            let s2 := s1.setBar m.core m.bar { b with kids := b.kids ++ [(m.fromCore, m.fromBar, m.ph)] }
            some (s2.arriveAt m.core m.bar d)
    | none => none)

/-- A flip reaches a barrier that waits for it (R212): it flips, and what it has counted since may go up at once. -/
def State.flipDown (s : State) (c k : Nat) (ph : BitVec 16) : State :=
  let b := (s.core c).bar k
  if b.up && b.ph == ph then (s.flip c k).settleBar c k 257 else s

/-- A flip comes down to a child, or leaves for another package. -/
def execBarrierFlipDown (k : Nat) (s : State) : Host.Outcome State Fault Refusal :=
  event s (match s.bmsgs[k]? with
    | some m =>
      if !m.flip then none
      else
        let s1 := { s with bmsgs := s.bmsgs.eraseIdx k }
        if 1000 ≤ m.core then some { s1 with linkOut := s1.linkOut ++ [(m.core - 1000, m.bytes, false)] }
        else some (s1.flipDown m.core m.bar m.ph)
    | none => none)

end Sys2Proof.Machine
end

