-- ==== Sys2Proof/Machine/Sync.lean ====
section
/-! DEFINITION. Atomics, reductions, semaphores and ordering (R189 to R203): their checks and requests at issue, merging on the way (R196),
refused requests sent again (R192), waiters woken (R201). -/

namespace Sys2Proof.Machine

/-! Atomics. -/

/-- The order bits of an atomic (R195). -/
def ordAcq : AOrd → Bool
  | .acq | .ar => true
  | _ => false
def ordRel : AOrd → Bool
  | .rel | .ar => true
  | _ => false

/-- The operations a router may merge (R196). -/
def AtomOp.merges : AtomOp → Bool
  | .xchg | .cas => false
  | _ => true

/-- One request to one home that may feed a flight: places and banks (R292, R322, R355). -/
def sendOne (s : State) (r : Req) (f : Option (Dst × FVal × LandForm)) : Res :=
  if !s.room (.strand s.cur) [r] then .hold s
  else
    let s1 := if r.sp == .chip then s.chipWake r.pa else s
    match f with
    | none => .ok (s1.send r)
    | some (d, v, form) =>
      let t := s1.me.gather d v 1 form
      .ok ((s1.setMe t.1).send { r with flight := t.2 })

/-- The checks of R189 from the third on, for one object of n bytes at a. -/
def object (s : State) (p : Perm) (a : Word) (n : Nat) (k : State → Seg → Res) : Res :=
  checked (s.check p n a n) (fun s gs => match gs with | g :: _ => k s g | [] => .hold s)

/-- An atomic on n bytes at a: operand b, compare value c, its result. -/
def atomic (s : State) (op : AtomOp) (a : Word) (n : Nat) (b c : BitVec 128) (sc : Scope) (ord : AOrd) (f : Option (Dst × FVal × LandForm)) :
    Res :=
  object s { a := true } a n (fun s g =>
    let r := mkReq (.strand s.cur) (.atom op b c f.isSome) g s.me.sys.asid 0
    sendOne s { r with scope := sc, acq := ordAcq ord, rel := ordRel ord, mergeable := f.isNone && ord == .rlx && op.merges } f)

/-- The integer and floating-point forms of R193 (gc: the compare register). -/
def atomicForm (s : State) (g : Guard) (op : AtomOp) (o : AForm) (gc : Option GReg) : Host.Outcome State Fault Refusal :=
  syllable s false g (fun _ => [.g o.gd.toNat, .g o.ga.toNat, .g o.gb.toNat] ++ (match gc with | some r => [.g r.toNat] | none => []))
    (fun t =>
      let c : SReg := match gc with | some r => t.g r | none => { val := 0, poison := false }
      let n := if o.d then 8 else 4
      if (t.g o.ga).poison then trapIf s 0x1A 0
      else if (t.g o.gb).poison || c.poison || (t.p g.p).poison then trapIf s 0x19 0
      else
        let w (v : Word) : BitVec 128 := BitVec.ofNat 128 (v.toNat % 2 ^ (8 * n))
        atomic s op (t.g o.ga).val n (w (t.g o.gb).val) (w c.val) o.scope o.ord
          (if o.gd = 0 then none else some (.g o.gd.toNat, .s { val := 0, poison := false }, .scalar n false)))

/-- R194. -/
def execAadd (g : Guard) (o : AForm) (s : State) : Host.Outcome State Fault Refusal := atomicForm s g .add o none
def execAand (g : Guard) (o : AForm) (s : State) : Host.Outcome State Fault Refusal := atomicForm s g .and o none
def execAor (g : Guard) (o : AForm) (s : State) : Host.Outcome State Fault Refusal := atomicForm s g .or o none
def execAxor (g : Guard) (o : AForm) (s : State) : Host.Outcome State Fault Refusal := atomicForm s g .xor o none
def execAmin (g : Guard) (o : AForm) (s : State) : Host.Outcome State Fault Refusal := atomicForm s g .min o none
def execAmax (g : Guard) (o : AForm) (s : State) : Host.Outcome State Fault Refusal := atomicForm s g .max o none
def execAminu (g : Guard) (o : AForm) (s : State) : Host.Outcome State Fault Refusal := atomicForm s g .minu o none
def execAmaxu (g : Guard) (o : AForm) (s : State) : Host.Outcome State Fault Refusal := atomicForm s g .maxu o none
def execAxchg (g : Guard) (o : AForm) (s : State) : Host.Outcome State Fault Refusal := atomicForm s g .xchg o none
def execAfadd (g : Guard) (o : AForm) (s : State) : Host.Outcome State Fault Refusal :=
  atomicForm s g (if o.d then .fadd64 else .fadd32) o none
def execAcas (g : Guard) (o : AForm) (gc : GReg) (s : State) : Host.Outcome State Fault Refusal := atomicForm s g .cas o (some gc)

/-- R193, R194: register pairs, the even register lower. -/
def execAcas2 (g : Guard) (gd ga gb gc : GReg) (scope : Scope) (ord : AOrd) (s : State) : Host.Outcome State Fault Refusal :=
  syllable s false g (fun _ => [.gpair gd.toNat, .g ga.toNat, .gpair gb.toNat, .gpair gc.toNat]) (fun t =>
    let two (r : GReg) : BitVec 128 := (t.g (r + 1)).val ++ (t.g r).val
    let bad (r : GReg) : Bool := (t.g r).poison || (t.g (r + 1)).poison
    if (t.g ga).poison then trapIf s 0x1A 0
    else if bad gb || bad gc || (t.p g.p).poison then trapIf s 0x19 0
    else atomic s .cas (t.g ga).val 16 (two gb) (two gc) scope ord (some (.gpair gd.toNat, .v ⟨0, 0⟩ 0, .pair)))

/-! Exact reduction. -/

/-- The checks of a handle (R197): poison, the bits above, the unit's table; wr: the write grant. DESIGN CHOICE (log entry 106): they come in
this order, and before the poison of a value or guard, as the checks of R189 do. -/
def handle (s : State) (h : SReg) (wr : Bool) (k : Nat → Nat → Res) : Res :=
  if h.poison then trapIf s 0x1A 0
  else if 2 ^ 13 ≤ h.val.toNat then trapIf s 0x03 0
  else
    let u := wbits h.val 12 6
    if !s.nmuOk (coreOf s.cur) u (if wr then 1 else 0) then trapIf s 0x40 0 else k u (wbits h.val 5 0)

/-- A request to accumulator k of unit u. -/
def redReq (s : State) (op : ReqOp) (u k : Nat) : Req :=
  mkReq (.strand s.cur) op { sp := .red u, pa := k, len := 1, va := 0, off := 0 } s.me.sys.asid 0

/-- R198: one contribution, or one for each lane of the mask. -/
def execRedx (g : Guard) (ga : GReg) (c : RedSrc) (s : State) : Host.Outcome State Fault Refusal :=
  match c with
  | .scalar gb ty =>
    syllable s false g (fun _ => [.g ga.toNat, .g gb.toNat]) (fun t =>
      handle s (t.g ga) true (fun u k =>
        if (t.g gb).poison || (t.p g.p).poison then trapIf s 0x19 0
        else
          let v := if ty == 0 then (t.g gb).val.setWidth 32 else ((t.g gb).val.setWidth 16).setWidth 32
          sendOne s (redReq s (.redx [(k, v, ty.toNat, false)]) u k) none))
  | .vector va =>
    syllable s false g (fun t => t.vRegs [va] ++ [.g ga.toNat]) (fun t =>
      handle s (t.g ga) true (fun u k =>
        match t.readSrcs [{ o := va, lu := false }] with
        | .hold x => .hold (s.setMe x)
        | .trap r => .trap s r
        | .ok bs x =>
          let b := bs.headD ⟨0, 0⟩
          let m := t.mask g
          if b.poison &&& m != 0 || (t.p g.p).poison then trapIf s 0x19 0
          else
            let xs := (activeElems 32 m).map (fun n => ((k + n % 64) % 64, BitVec.ofNat 32 (elem b.bits.toNat 32 n), 0, false))
            orHold s (sendOne (s.setMe x) (redReq s (.redx xs) u k) none)))

/-- R199. -/
def execRedfOpen (g : Guard) (ga : GReg) (anchor : BitVec 9) (s : State) : Host.Outcome State Fault Refusal :=
  syllable s false g (fun _ => [.g ga.toNat]) (fun t =>
    handle s (t.g ga) true (fun u k =>
      if (t.p g.p).poison then trapIf s 0x19 0 else sendOne s (redReq s (.redfOpen anchor.toInt) u k) none))

/-- A form of `redf` that returns a value. -/
def redfForm (s : State) (g : Guard) (gd ga : GReg) (wr : Bool) (op : ReqOp) : Host.Outcome State Fault Refusal :=
  syllable s false g (fun _ => [.g gd.toNat, .g ga.toNat]) (fun t =>
    handle s (t.g ga) wr (fun u k =>
      sendOne s (redReq s op u k) (some (.g gd.toNat, .s { val := 0, poison := (t.p g.p).poison }, .scalar 8 false))))

/-- R199. -/
def execRedfRd (g : Guard) (gd ga : GReg) (bf : Bool) (s : State) : Host.Outcome State Fault Refusal := redfForm s g gd ga false (.redfRd bf false)
/-- R199. -/
def execRedfFin (g : Guard) (gd ga : GReg) (bf : Bool) (s : State) : Host.Outcome State Fault Refusal := redfForm s g gd ga true (.redfRd bf true)
/-- R199. -/
def execRedfSt (g : Guard) (gd ga : GReg) (s : State) : Host.Outcome State Fault Refusal := redfForm s g gd ga false .redfSt

/-! Semaphores. -/

/-- R200. -/
def execSems (g : Guard) (scope : Scope) (ga gb : GReg) (s : State) : Host.Outcome State Fault Refusal :=
  syllable s false g (fun _ => [.g ga.toNat, .g gb.toNat]) (fun t =>
    if (t.g ga).poison then trapIf s 0x1A 0
    else if (t.g gb).poison || (t.p g.p).poison then trapIf s 0x19 0
    else object s { a := true } (t.g ga).val 8 (fun s x =>
      sendOne s { mkReq (.strand s.cur) (.sems (t.g gb).val) x s.me.sys.asid 0 with scope := scope, rel := true } none))

/-- R201: a request brings the condition to the word's home; the bundle holds until its waiter has been woken. -/
def execSemw (g : Guard) (scope : Scope) (gd ga gb : GReg) (eq : Bool) (s : State) : Host.Outcome State Fault Refusal :=
  syllable s false g (fun _ => [.g gd.toNat, .g ga.toNat, .g gb.toNat]) (fun t =>
    if (t.g ga).poison || (t.g gb).poison then trapIf s 0x1A 0
    else match s.waiterOf (.strand s.cur) with
      | some w =>
        (match w.sat, w.woken with
         | some (v, bad), true =>
           let u := s.dropWaiter (.strand s.cur)
           .ok (u.setMe (u.me.fly (.g gd.toNat) (.s { val := v, poison := bad || (t.p g.p).poison }) 0 2 true))
         | _, _ => .hold s)
      | none =>
        if s.net.any (fun e => e.src == .strand s.cur && e.op.isSemw) then .hold s
        else object s { r := true } (t.g ga).val 8 (fun s x =>
          match sendOne s { mkReq (.strand s.cur) (.semw eq (t.g gb).val) x s.me.sys.asid 0 with scope := scope, acq := true } none with
          | .ok u => .hold u
          | r => r))

/-- A home wakes a satisfied waiter: those of one word in the order in which they came (R201). -/
def execSemaphoreWaiterWake (id : Nat) (s : State) : Host.Outcome State Fault Refusal :=
  event s (match s.waiters.find? (fun (w : Waiter) => w.id == id) with
    | some w =>
      let first := s.waiters.all (fun (x : Waiter) => x.id == id || x.woken || x.sat.isNone || x.sp != w.sp || x.pa != w.pa || id < x.id)
      if w.sat.isNone || w.woken || !first then none
      else some { s with waiters := s.waiters.map (fun (x : Waiter) => if x.id == id then { x with woken := true } else x) }
    | none => none)

/-! Order. -/

/-- An order entry stands in the queues while the strand has accesses before it, or its core published stores that it carries (R329). -/
def State.sendOrder (s : State) (cum : Bool) : State :=
  if s.net.any (fun e => !e.done && (e.src == .strand s.cur || (cum && e.pub && e.src.core == some (coreOf s.cur)))) then
    s.send (mkReq (.strand s.cur) (.order cum) { sp := .dram, pa := 0, len := 0, va := 0, off := 0 } s.me.sys.asid 0)
  else s

/-- R202. -/
def execFence (g : Guard) (scope : Scope) (s : State) : Host.Outcome State Fault Refusal :=
  syllable s false g (fun _ => []) (fun _ => .ok (s.sendOrder (scope != .sd)))
/-- R202. -/
def execMark (g : Guard) (s : State) : Host.Outcome State Fault Refusal :=
  syllable s false g (fun _ => []) (fun _ => .ok (s.sendOrder false))

/-- R203. -/
def execLdacq (g : Guard) (scope : Scope) (gd ga : GReg) (off : BitVec 14) (w : Wd) (sx : Bool) (s : State) :
    Host.Outcome State Fault Refusal :=
  syllable s false g (fun _ => [.g gd.toNat, .g ga.toNat]) (fun t =>
    if (t.g ga).poison then trapIf s 0x1A 0
    else scalarLoad s gd ((t.g ga).val + off.signExtend 64) (wdBytes w) sx (wdBytes w) (t.p g.p).poison true scope)

/-- R203: gd is the source. -/
def execStrel (g : Guard) (scope : Scope) (gd ga : GReg) (off : BitVec 14) (w : Wd) (s : State) : Host.Outcome State Fault Refusal :=
  syllable s false g (fun _ => [.g gd.toNat, .g ga.toNat]) (fun t =>
    if (t.g ga).poison then trapIf s 0x1A 0
    else if (t.g gd).poison || (t.p g.p).poison then trapIf s 0x19 0
    else scalarStore s (t.g gd).val ((t.g ga).val + off.signExtend 64) (wdBytes w) (wdBytes w) true scope)

/-! On the way. -/

/-- Two requests a router may merge (R196). -/
def Req.mergesWith (a b : Req) : Bool :=
  a.id != b.id && a.mergeable && b.mergeable && a.sp == b.sp && a.pa == b.pa && a.len == b.len && a.scope == b.scope &&
  a.accept.isNone && b.accept.isNone && !a.away && !b.away

/-- b might be performed now but for a itself and requests merged into it: two of one source merge while nothing stands between them. -/
def State.freeBut (s : State) (a b : Req) : Bool := { s with net := s.net.filter (fun e => e.id != a.id && !a.merged.contains e.id) }.free b

/-- R196, R334: the second is performed with the first, whose operand is their combination. -/
def execRouterMerge (id id' : Nat) (s : State) : Host.Outcome State Fault Refusal :=
  event s (match s.req id, s.req id' with
    | some a, some b =>
      (match a.op, b.op with
       | .atom op x c false, .atom op' y _ false =>
         if op == op' && a.mergesWith b && s.free a && s.freeBut a b then
           let v := (atomNew op a.len x.toNat y.toNat 0).1.getD 0
           some (s.setReq { a with op := .atom op (BitVec.ofNat 128 v) c false, merged := a.merged ++ [b.id] ++ b.merged })
         else none
       | _, _ => none)
    | _, _ => none)

/-- A home whose table or buffer may be full, with a size that the spec does not give: on-chip, host and peer homes of the accesses of
R192. -/
def Req.refusable (r : Req) : Bool :=
  r.accept.isNone && !r.away && !r.kept && (match r.sp with | .chip | .host | .peer => true | _ => false) &&
  (match r.op with | .atom _ _ _ _ | .sems _ | .semw _ _ => true | _ => false)

/-- A refused request is sent again (R192). Of a request that has not been refused, its home refuses it: which of the homes without a
stated capacity are full is the part's, in the order of its events (log entries 1 and 99). -/
def execRequestResend (id : Nat) (s : State) : Host.Outcome State Fault Refusal :=
  event s (match s.req id with
    | some r =>
      if r.away then some (s.setReq { r with away := false })
      else if r.refusable then (s.due id).map (fun r => s.setReq r.refuse)
      else none
    | none => none)

end Sys2Proof.Machine
end

