-- ==== Sys2Proof/Machine/Ranges.lean ====
section
/-! DEFINITION. Ranges (R217 to R224, R387 to R393): directory edits, invalidation and its parties, walks, `rgprobe` and `rgfill`. -/

namespace Sys2Proof.Machine

/-! Records and directories written (R383, R386). -/

/-- A record in its 32 bytes (R383). -/
def RangeRec.bytes (r : RangeRec) : List Byte :=
  toBytes 8 (r.asid.toNat + r.base) ++
  toBytes 8 (r.length + r.mdie * 2 ^ 41 + b2n r.compactible * 2 ^ 42 + b2n r.pinned * 2 ^ 43 + b2n r.moving * 2 ^ 44 +
    b2n r.partialRes * 2 ^ 45 + 2 ^ 46 + b2n r.r * 2 ^ 47 + b2n r.w * 2 ^ 48 + b2n r.x * 2 ^ 49 + b2n r.a * 2 ^ 50 +
    b2n r.n * 2 ^ 51 + r.zone.toNat * 2 ^ 52 + r.gen.toNat * 2 ^ 56) ++
  toBytes 8 r.offset.toNat ++ toBytes 8 (r.map + r.bidx * 2 ^ 40)

/-- An untranslated write of device memory; the fabric takes none outside every zone (R413). -/
def State.writeZoned (s : State) (pa : Nat) (bs : List Byte) : State :=
  if s.zoned pa bs.length then s.writeAt .dram pa bs false else s

/-- The address of an ASID's directory entry. -/
def State.dirAt (s : State) (asid : BitVec 16) : Nat := (s.mgr 0x108).toNat + 32 * asid.toNat

/-- Record i of a directory rewritten. -/
def State.putRec (s : State) (e : DirEntry) (i : Nat) (r : RangeRec) : State := s.writeZoned (e.dbase + 32 * i) r.bytes

/-- The record count of a directory. -/
def State.putCount (s : State) (asid : BitVec 16) (e : DirEntry) (n : Nat) : State :=
  s.writeZoned (s.dirAt asid + 8) (toBytes 8 (n * 2 ^ 40 + e.bbase))

/-- The walks under way in a directory begin again: each sees it whole before or after an edit (R220). -/
def State.rewalk (s : State) (asid : BitVec 16) : State :=
  (s.walks.filter (fun w => w.asid == asid)).foldl (fun (s : State) w => s.forget (.walker w.party (w.id + 1))) s

/-- What a source has read for an edit of record i and those above it stands still, and no request is on its way to their lines: the edit
may be made as one (R220, R424). -/
def State.mayEdit (s : State) (src : Src) (asid : BitVec 16) (e : DirEntry) (i : Nat) : Bool :=
  s.intact src && s.settledLines (e.dbase + 32 * i) (32 * (e.count + 2 - i)) && s.settledLines (s.dirAt asid) 32

/-- What an edit comes to: a status; a wait for what it reads; poison in what it has read; the directory edited. -/
inductive Edited where
  | status (n : Nat)
  | wait (s : State)
  | poison (s : State)
  | done (s : State)

/-- Record i and those behind it, drop in all, replaced by records; those above them move to their places. -/
def State.splice (s : State) (src : Src) (asid : BitVec 16) (e : DirEntry) (i drop : Nat) (rs : List RangeRec) : Edited :=
  let n := e.count - i - drop
  let q := if n == 0 then (s, .data [] false) else s.readZoned src (e.dbase + 32 * (i + drop)) (32 * n)
  match q.2 with
  | .wait => .wait q.1
  | .none => .status 1
  | .data _ true => .poison q.1
  | .data above false =>
    if !q.1.mayEdit src asid e i then .wait (if q.1.intact src then q.1 else q.1.forget src)
    else
      let s := (q.1.rewalk asid).writeZoned (e.dbase + 32 * i) (rs.flatMap RangeRec.bytes)
      let s := if above.isEmpty then s else s.writeZoned (e.dbase + 32 * (i + rs.length)) above
      .done (s.putCount asid e (e.count - drop + rs.length))

/-- The part of a record from a (in bytes above its base) up to b (R219). -/
def RangeRec.part (r : RangeRec) (a b : Nat) : RangeRec :=
  { r with base := r.base + a, length := (b - a) / 2 ^ 16, map := r.map + a / 2 ^ 24 }

/-! Directory edits (R218 to R220). -/

/-- A directory edit by the walker, after the accesses of the strand that come before it (R220): its reads, and then its writes as one act. -/
def editForm (s : State) (g : Guard) (o : RgForm) (k : State → Src → BitVec 16 → Nat → DirEntry → RangeRec → Nat → Edited) :
    Host.Outcome State Fault Refusal :=
  syllable s true g (fun _ => [.g o.gd.toNat, .g o.ga.toNat, .g o.gb.toNat]) (fun t =>
    let va := (t.g o.ga).val
    let asid := (t.g o.gb).val
    if (t.g o.ga).poison || (t.g o.gb).poison then trapIf s 0x1A 0
    else if 2 ^ 16 ≤ asid.toNat then trapIf s 0x03 0
    else if (t.p g.p).poison then trapIf s 0x19 0
    else if !s.released (.strand s.cur) .dv then .hold s
    else
      let a := asid.setWidth 16
      let src : Src := .other (300 + s.cur)
      let ret (s : State) (n : Nat) : Res :=
        let s := s.forget src
        .ok (s.setMe (s.me.fly (.g o.gd.toNat) (.s { val := BitVec.ofNat 64 n, poison := false }) 0 1 false))
      if winOf va != .d then ret s 1
      else
        let w := s.walk src a va.toNat
        match w.2 with
        | .error none => .hold w.1
        | .error (some c) => if c == 0x41 then trapIf w.1 c va else ret w.1 1
        | .ok (e, r, i) =>
          match k w.1 src a va.toNat e r i with
          | .status n => if w.1.intact src then ret w.1 n else .hold (w.1.forget src)
          | .wait s => .hold s
          | .poison s => trapIf s 0x41 va
          | .done s => ret s 0)

/-- R218, R219. -/
def execRgsplit (g : Guard) (o : RgForm) (s : State) : Host.Outcome State Fault Refusal :=
  editForm s g o (fun s src asid va e r i =>
    let d := va - r.base
    if r.moving then .status 5
    else if e.count == e.cap then .status 2
    else if va % 2 ^ 16 != 0 || d == 0 || (r.partialRes && d % 2 ^ 24 != 0) then .status 3
    else s.splice src asid e i 1 [r.part 0 d, r.part d r.size])

/-- R218, R219: the record above begins at the lower one's end and agrees with it. -/
def execRgmerge (g : Guard) (o : RgForm) (s : State) : Host.Outcome State Fault Refusal :=
  editForm s g o (fun s src asid _ e r i =>
    if r.moving then .status 5
    else
      let q := if i + 1 < e.count then s.readRec src e (i + 1) else (s, .error (some 0x10))
      match q.2 with
      | .error none => .wait q.1
      | .error (some c) => if c == 0x41 then .poison q.1 else .status 4
      | .ok bs =>
        match parseRec bs with
        | none => .status 4
        | some u =>
          if u.base != r.base + r.size then .status 4
          else if u.moving then .status 5
          else
            let same := { r with asid := u.asid, base := u.base, length := u.length, mdie := u.mdie, map := u.map } == u
            let maps := !r.partialRes || (r.size % 2 ^ 24 == 0 && u.map == r.map + r.size / 2 ^ 24)
            if !same || !maps || !q.1.recOk u then .status 4
            else q.1.splice src asid e i 2 [{ r with length := r.length + u.length }])

/-- R219. -/
def execRgpin (g : Guard) (o : RgForm) (un : Bool) (s : State) : Host.Outcome State Fault Refusal :=
  editForm s g o (fun s src asid _ e r i =>
    if r.moving then .status 5
    else if !s.mayEdit src asid e i then .wait (if s.intact src then s else s.forget src)
    else .done ((s.rewalk asid).putRec e i { r with pinned := !un }))

/-! Invalidation (R221, R222). -/

/-- An entry matches a shootdown: its ASID, and its span meets the given one. -/
def Shoot.hits (h : Shoot) (e : RtEntry) : Bool :=
  e.asid == h.asid && (match h.span with | none => true | some (a, n) => e.r.base < a + n && a < e.r.base + e.r.size)

/-- The translations a strand's engines hold (R391): those of running copies and of pattern streams. -/
def Strand.engineUses (t : Strand) : List (Word × Nat) :=
  (t.e.cmds.filter (fun c => c.st == .running)).flatMap (fun c => c.uses) ++
  (List.range 8).flatMap (fun q =>
    let p := vAt t.e.ports q
    let ended := if inbound q then p.prog.total ≤ p.nextNo else p.prog.total ≤ p.nextNo || (p.stopped && p.buf.isEmpty)
    let stopped : Bool := match p.cmd with | some id => t.e.cmds.any (fun c => c.id == id && c.st == .stopped) | none => false
    if p.captured && !ended && (!p.stopped || !inbound q) && p.fault.isNone && !stopped then p.uses else [])

/-- The party of a waiter's translation. -/
def Who.party : Who → Party
  | .strand n => coreOf n
  | .nmu u => 144 + u
  | .record d _ => 272 + d

/-- An entry's in-flight count at its party is not 0 (R391): requests on their way, `semw`s not yet performed, engines, and at a fill
engine the fills begun through it (R222). -/
def State.inFlight (s : State) (p : Party) (e : RtEntry) : Bool :=
  s.net.any (fun r => r.src.party == p && !r.op.isOrder && !r.done && (match r.sp with | .red _ => false | _ => true) &&
    e.made r.asid r.va r.id) ||
  s.waiters.any (fun w => w.who.party == p && e.made w.asid w.va w.id) ||
  (p < 144 && [2 * p, 2 * p + 1].any (fun n =>
    let t := s.strand n
    t.phase != .idle && t.engineUses.any (fun u => e.made t.sys.asid u.1 u.2))) ||
  s.fills.any (fun f => p == 274 + f.die && (match f.begun with | some no => e.made f.asid (BitVec.ofNat 64 f.gva) no | none => false))

/-- A dispatcher drops the fills and the waiters that its held records have under matching entries; they ask again (R222, R272). -/
def State.dropAsked (s : State) (h : Shoot) (p : Party) : State :=
  if p == 272 || p == 273 then
    let under (asid : BitVec 16) (va : Nat) : Bool :=
      asid == h.asid && (s.rtab p).any (fun e => e.dead.isNone && h.hits e && e.r.covers va)
    let hit (f : Fill) : Bool := under f.asid f.gva
    let fs := s.fills.map (fun f => if hit f then { f with waiting := f.waiting.filter (fun x => x.party != p) } else f)
    let s1 := { s with
      fills := fs.filter (fun f => !hit f || f.begun.isSome || f.hostAsked || !f.waiting.isEmpty || !f.rgfill.isEmpty)
      waiters := s.waiters.filter (fun (w : Waiter) => !(w.who.party == p && under w.asid w.va.toNat)) }
    s1.withdrawAll (s1.net.filter (fun e => e.src.party == p && e.op.isSemw && under e.asid e.va.toNat))
  else s

/-- A party receives a shootdown: its matching entries are invalid from now on, and its walks in the directory begin again. -/
def State.receive (s : State) (h : Shoot) (p : Party) : State :=
  let s := s.dropAsked h p
  let s := (s.walks.filter (fun w => w.party == p && w.asid == h.asid)).foldl
    (fun (s : State) w => s.forget (.walker p (w.id + 1))) (s.forget (.walker p 0))
  let s := s.setRtab p ((s.rtab p).map (fun e => if e.dead.isNone && h.hits e then { e with dead := some s.fresh } else e))
  { s with
    fresh := s.fresh + 1
    shoots := s.shoots.map (fun (x : Shoot) => if x.id == h.id then { x with got := p :: x.got } else x) }

/-- A party that a shootdown has reached acknowledges it once nothing uses a matching entry; it keeps none of them. -/
def State.acknowledge (s : State) (h : Shoot) (p : Party) : State :=
  if (s.rtab p).any (fun e => e.dead.isSome && h.hits e && s.inFlight p e) then s
  else
    let s := s.setRtab p ((s.rtab p).filter (fun e => !(e.dead.isSome && h.hits e)))
    { s with shoots := s.shoots.map (fun (x : Shoot) => if x.id == h.id then { x with todo := x.todo.filter (fun q => q != p) } else x) }

/-- R222: cores, NMUs, dispatchers, fill engines, compactors. -/
def parties : List Party := List.range 278

/-- A shootdown goes out. -/
def State.shoot (s : State) (asid : BitVec 16) (span : Option (Nat × Nat)) (strand : Option Nat) (todo : List Party) : State :=
  { s with
    shoots := s.shoots ++ [{ id := s.fresh, asid := asid, span := span, strand := strand, todo := todo, got := [] }]
    fresh := s.fresh + 1 }

/-- R221: the bundle holds until the parties have acknowledged; within the core only its own table is a party. -/
def execRginv (g : Guard) (dv all : Bool) (ga gb : GReg) (s : State) : Host.Outcome State Fault Refusal :=
  syllable s true g (fun _ => [.g ga.toNat, .g gb.toNat]) (fun t =>
    let asid := (t.g gb).val
    if (!all && (t.g ga).poison) || (t.g gb).poison then trapIf s 0x1A 0
    else if 2 ^ 16 ≤ asid.toNat then trapIf s 0x03 0
    else if !s.released (.strand s.cur) (if dv then .dv else .co) then .hold s
    else
      let core := coreOf s.cur
      match s.shoots.find? (fun (h : Shoot) => h.strand == some s.cur) with
      | some h =>
        let s := if dv then s else s.acknowledge h core
        if s.shoots.any (fun (x : Shoot) => x.id == h.id && !x.todo.isEmpty) then .hold s
        else .ok { s with shoots := s.shoots.filter (fun (x : Shoot) => x.id != h.id) }
      | none =>
        let s1 := s.shoot (asid.setWidth 16) (if all then none else some ((t.g ga).val.toNat, 1)) (some s.cur) (if dv then parties else [core])
        match s1.shoots.getLast? with
        | some h => .hold (if dv then s1 else s1.receive h core)
        | none => .hold s1)

/-- A party drops its matching entries and acknowledges once drained (R222). -/
def execShootdown (id party : Nat) (s : State) : Host.Outcome State Fault Refusal :=
  event s (match s.shoots.find? (fun (h : Shoot) => h.id == id) with
    | some h =>
      if !h.todo.contains party then none
      else
        let s1 := if h.got.contains party then s else s.receive h party
        let s2 := s1.acknowledge h party
        some { s2 with shoots := s2.shoots.filter (fun (x : Shoot) => !(x.todo.isEmpty && x.strand.isNone)) }
    | none => none)

/-! Walks (R387, R388). -/

/-- A walk's record enters the party's table: in a free place, or in a slot whose entry nothing uses; none where it has to wait. -/
def State.fillEntry (s : State) (p : Party) (slot : Nat) (asid : BitVec 16) (i : Nat) (r : RangeRec) : Option State :=
  let t := (s.rtab p).filter (fun e => e.dead.isNone || s.inFlight p e)
  let e : RtEntry := { asid := asid, r := r, idx := i, kept := [], dead := none }
  if t.length < rtabSize p then some (s.setRtab p (t ++ [e]))
  else match t[slot]? with
    | some x => if x.dead.isSome || s.inFlight p x then none else some (s.setRtab p (t.set slot e))
    | none => none

/-- A walk is over. -/
def State.endWalk (s : State) (w : Walk) : State :=
  { s with walks := s.walks.filter (fun (x : Walk) => x.id != w.id) }.forget (.walker w.party (w.id + 1))

/-- A range-table miss walks the directory, or asks the host, whose answer names the record to read; what it comes to fills an entry or is
returned to the sources that wait. -/
def State.goWalk (s : State) (w : Walk) (slot : Nat) : Option State :=
  let src : Src := .walker w.party (w.id + 1)
  let va := w.va.toNat
  let fin (s : State) : Except (Option (BitVec 7)) (RangeRec × Nat) → State
    | .error none => s
    | .error (some c) => (s.endWalk w).deny w.waiting w.asid va c
    | .ok (r, i) =>
      match s.fillEntry w.party slot w.asid i r with
      | some s1 => s1.endWalk w
      | none => s
  if w.asked && w.ans.isNone then (if w.late then some (fin s (.error (some 0x10))) else none)
  else
    let d := s.dirEntry src w.asid
    match d.2 with
    | .error c => some (fin d.1 (.error c))
    | .ok e =>
      match w.ans with
      | some i =>
        let q := d.1.acceptRec src e i.toNat va
        some (fin q.1 (q.2.map (fun r => (r, i.toNat))))
      | none =>
        if e.hwalk then
          let q := d.1.walk src w.asid va
          some (fin q.1 (q.2.map (fun x => x.2)))
        else
          let s1 := { d.1 with walks := d.1.walks.map (fun (x : Walk) => if x.id == w.id then { x with asked := true } else x) }
          some ((s1.forget src).askTagged 1 (w.asid.setWidth 64) w.va w.id)

/-- The host has not answered a walk within its deadline (R388). -/
def execWalkDeadline (id : Nat) (s : State) : Host.Outcome State Fault Refusal :=
  event s (match s.walks.find? (fun (w : Walk) => w.id == id) with
    | some w =>
      if w.asked && w.ans.isNone && !w.late then
        some { s with walks := s.walks.map (fun (x : Walk) => if x.id == id then { x with late := true } else x)
                      asks := s.asks.filter (fun a => !(a.kind == 1 && a.tag == id)) }
      else none
    | none => none)

/-! Queries (R223, R224). -/

/-- R223. -/
def execRgprobe (g : Guard) (gd ga : GReg) (w : BitVec 2) (s : State) : Host.Outcome State Fault Refusal :=
  syllable s false g (fun _ => [.g gd.toNat, .g ga.toNat]) (fun t =>
    let a := (t.g ga).val
    let p := coreOf s.cur
    let ret (s : State) (v : Nat) : Res :=
      .ok (s.setMe (s.me.fly (.g gd.toNat) (.s { val := BitVec.ofNat 64 v, poison := (t.p g.p).poison }) 0 1 false))
    if (t.g ga).poison then trapIf s 0x1A 0
    else if winOf a != .d then ret s 0
    else match s.rtFind p t.sys.asid a.toNat with
      | none =>
        let q := s.askWalk (.strand s.cur) t.sys.asid a.toNat
        (match q.2 with
         | some c => if c == 0x41 then trapIf q.1 c a else ret q.1 0
         | none => .hold q.1)
      | some e =>
        let r := e.r
        if w == 1 then ret s (translated a.toNat (s.offsetAt r a.toNat))
        else if w == 2 then ret s r.base
        else if w == 3 then ret s r.length
        else
          let gr := r.granule a.toNat
          let word (s : State) (res : Bool) : Res :=
            ret s (2 ^ 63 + b2n res * 2 ^ 62 + b2n r.partialRes * 2 ^ 61 + b2n r.moving * 2 ^ 60 + b2n r.pinned * 2 ^ 59 +
              b2n r.compactible * 2 ^ 58 + b2n r.r * 2 ^ 52 + b2n r.w * 2 ^ 51 + b2n r.x * 2 ^ 50 + b2n r.a * 2 ^ 49 + b2n r.n * 2 ^ 48 +
              r.zone.toNat * 2 ^ 44 + r.gen.toNat * 2 ^ 36)
          if !r.partialRes || e.kept.contains gr then word s true
          else
            let q := s.mapBit p r gr
            match q.2 with
            | .error none => .hold q.1
            | .error (some c) => if c == 0x41 then trapIf (q.1.mapped p) c a else word (q.1.mapped p) false
            | .ok b => word (q.1.mapped p) b)

/-- A strand is told that its `rgfill` requests have no granule left (R224, R234). -/
def State.filled (s : State) (n : Nat) : State :=
  if s.wants.any (fun w => w.n == n) || s.fills.any (fun f => f.rgfill.contains n) then s else s.modStrand n (fun t => t.setEvt 5)

/-- R224: the request is left with the walker. -/
def execRgfill (g : Guard) (ga gb : GReg) (s : State) : Host.Outcome State Fault Refusal :=
  syllable s false g (fun _ => [.g ga.toNat, .g gb.toNat]) (fun t =>
    if (t.g ga).poison || (t.g gb).poison then trapIf s 0x1A 0
    else
      let lo := (t.g ga).val.toNat
      let hi := min (2 ^ 56) (lo + (t.g gb).val.toNat)
      .ok ((if lo < hi then
        { s with wants := s.wants ++ [{ id := s.fresh, n := s.cur, asid := t.sys.asid, lo := lo, hi := hi }], fresh := s.fresh + 1 }
      else s).filled s.cur))

/-- A granule that is not resident is asked for: of the die's fill engine, or of the host (R224, R396). -/
def State.wantGranule (s : State) (src : Src) (w : Want) (hfill : Bool) (gva : Nat) : State :=
  let known := (s.fillOf w.asid gva).isSome
  let s1 := s.askFill src w.asid gva (some w.n)
  if hfill || known then s1
  else
    { s1 with fills := s1.fills.map (fun (f : Fill) =>
      if f.asid == w.asid && f.gva == gva && s1.fillLive f then { f with hostAsked := true } else f) }.ask 2 (w.asid.setWidth 64) (BitVec.ofNat 64 gva)

/-- The next granule of an `rgfill`: through the core's range table, under the walk mode of the ASID; what no range covers, and a range
without r, is passed over (R224). -/
def State.goWant (s : State) (w : Want) : State :=
  let p := coreOf w.n
  let src : Src := .walker p (w.id + 1)
  let on (s : State) (lo : Nat) : State :=
    let s := (s.forget src).mapped p
    if lo < w.hi then { s with wants := s.wants.map (fun (x : Want) => if x.id == w.id then { x with lo := lo } else x) }
    else { s with wants := s.wants.filter (fun (x : Want) => x.id != w.id) }.filled w.n
  match s.rtFind p w.asid w.lo with
  | none =>
    let q := s.askWalk src w.asid w.lo
    (match q.2 with
     | some _ => on q.1 ((w.lo / 2 ^ 16 + 1) * 2 ^ 16)
     | none => q.1)
  | some e =>
    let r := e.r
    if !r.r || !r.partialRes then on s (r.base + r.size)
    else
      let gr := r.granule w.lo
      let next := min (r.base + r.size) (r.granuleVa (gr + 1))
      if e.kept.contains gr then on s next
      else
        let q := s.mapBit p r gr
        match q.2 with
        | .error none => q.1
        | .error (some _) => on q.1 next
        | .ok true => on q.1 next
        | .ok false =>
          let h := q.1.dirEntry (.walker p 0) w.asid
          match h.2 with
          | .error none => h.1
          | .error (some _) => on h.1 next
          | .ok de => on (h.1.wantGranule src w de.hfill (r.granuleVa gr)) next

/-- A walker goes on with a walk (R387, R388), or with what an `rgfill` has left with it (R224). -/
def execRangeWalk (id slot : Nat) (s : State) : Host.Outcome State Fault Refusal :=
  event s (match s.walks.find? (fun (w : Walk) => w.id == id) with
    | some w => s.goWalk w slot
    | none => (s.wants.find? (fun (w : Want) => w.id == id)).map (fun w => s.goWant w))

end Sys2Proof.Machine
end

