-- ==== Sys2Proof/Machine/Fills.lean ====
section
/-! DEFINITION. Residency fills (R394 to R396): backing descriptors, the granule's bytes read and written in parts, its map bit, and the
end of a fill. -/

namespace Sys2Proof.Machine

/-! Backing (R394). -/

/-- Bytes at a translated address (R382) that a source reads as master m: none where they cannot be had whole. -/
def State.readTranslated (s : State) (src : Src) (m ta len : Nat) : State × Got :=
  match classAt (ta / 2 ^ 52) (ta % 2 ^ 52) with
  | none => (s, .none)
  | some (sp, room) =>
    let g : Seg := { sp := sp, pa := ta % 2 ^ 52, len := len, va := 0, off := 0 }
    if room < len || (s.refused m 0 0 false [g]).isSome then (s, .none)
    else
      let r := s.getAt src 0 g
      (r.1, match r.2 with | some (bs, bad) => .data bs (!bad.isEmpty) | none => .wait)

/-- The expander's reader over translated addresses: up to the first byte that master m may not read, with the places of the bytes of
uncorrectable lines (R483). -/
def translatedReader (src : Src) (m : Nat) : Reader := fun s a len =>
  match classAt (a.toNat / 2 ^ 52) (a.toNat % 2 ^ 52) with
  | none => (s, some { bytes := [], bad := [], stop := some (0x10, a) })
  | some (sp, room) =>
    let g : Seg := { sp := sp, pa := a.toNat % 2 ^ 52, len := min len room, va := a, off := 0 }
    let n := match s.refusedAt m 0 0 false g with | some i => i | none => g.len
    let r := s.getSegs src 0 [{ g with len := n }]
    (r.1, r.2.map (fun bs =>
      { bytes := bs.map (fun b => b.1), bad := (List.range n).filter (fun i => (bs.getD i (0, false)).2)
        stop := if n == len then none else some (0x40, a + BitVec.ofNat 64 n) }))

/-- The backing bytes of n bytes from va under descriptor words (R394); none where the fill fails. -/
def State.backing (s : State) (src : Src) (m : Nat) (bs : List Byte) (va n : Nat) : State × Got :=
  let base := word bs 0
  let w1 := word bs 1
  let w2 := word bs 2
  let vbase := bits w1 55 16 * 2 ^ 16
  let form := bits w2 51 48
  let legal := bits w1 63 56 == 0 && bits w1 15 0 == 0 && bits w2 63 52 == 0 && bits (word bs 3) 63 16 == 0 && form ≤ 2 &&
    (form != 1 || base == 0)
  if !legal || va < vbase || vbase + bits w2 47 0 < va + n then (s, .none)
  else if form == 0 then s.readTranslated src m ((base + (va - vbase)) % 2 ^ 56) n
  else if form == 1 then (s, .data (List.replicate n 0) false)
  else
    let x := expand (translatedReader src m) s (BitVec.ofNat 64 base) (va - vbase) (va - vbase + n)
    (x.1, match x.2 with
      | some y => if y.fail.isSome || y.bytes.length != n then .none else .data y.bytes false
      | none => .wait)

/-! The course of a fill (R395). -/

/-- A fill leaves: the sources that waited go on, with a cause where it failed; a strand with no granule left is told (R224). -/
def State.endFill (s : State) (f : Fill) (cause : Option (BitVec 7)) : State :=
  let s := { s with
    fills := s.fills.filter (fun x => x.id != f.id)
    asks := s.asks.filter (fun a => !(a.kind == 2 && a.a == f.asid.setWidth 64 && a.b.toNat == f.gva)) }.forget (.fill f.die f.id)
  let s := match cause with
    | some c => (s.deny f.waiting f.asid f.gva c).report 395 f.asid.toNat f.gva
    | none => s
  f.rgfill.foldl (fun (s : State) n => s.filled n) s

/-- One of the 64 fills in flight at its die (R395). -/
def State.fillRuns (s : State) (f : Fill) : Bool :=
  ((s.fills.filter (fun x => x.die == f.die && !x.hostAsked && x.id < f.id)).length) < 64

def State.setFill (s : State) (f : Fill) : State := { s with fills := s.fills.map (fun x => if x.id == f.id then f else x) }

/-- The entry a fill goes by: the one it was begun through, or one of its engine's table; an error is the cause of a failed walk, or none
while it waits. -/
def State.fillRange (s : State) (f : Fill) : State × Except (Option (BitVec 7)) RtEntry :=
  match s.fillVia f with
  | some e => (s, .ok e)
  | none =>
    match s.rtFind (274 + f.die) f.asid f.gva with
    | some e => (s, .ok e)
    | none =>
      let q := s.askWalk (.fill f.die f.id) f.asid f.gva
      (q.1, .error q.2)

/-- The descriptor of a fill's range; an error is the cause its accesses get, or none while it is on its way. -/
def State.descriptor (s : State) (f : Fill) (r : RangeRec) : State × Except (Option (BitVec 7)) (List Byte) :=
  let src : Src := .fill f.die f.id
  if r.bidx == 0xFFFFFF then (s, .error (some 0x12))
  else
    let d := s.dirEntry src f.asid
    match d.2 with
    | .error none => (d.1, .error none)
    | .error (some c) => (d.1, .error (some (if c == 0x10 then 0x10 else 0x12)))
    | .ok e =>
      let a := e.bbase + 32 * r.bidx
      if !d.1.zoned a 32 then (d.1, .error (some 0x10))
      else
        let q := d.1.readTranslated src (274 + f.die) a 32
        (q.1, match q.2 with
          | .wait => .error none
          | .none => .error (some 0x12)
          | .data _ true => .error (some 0x12)
          | .data bs false => .ok bs)

/-- The next part of a fill, at most 4 KiB, read and sent to where the range has it (R395, R401). -/
def State.fillPart (s : State) (f : Fill) (r : RangeRec) (n : Nat) : State :=
  let src : Src := .fill f.die f.id
  let d := s.descriptor f r
  match d.2 with
  | .error none => d.1
  | .error (some c) => d.1.endFill f (some c)
  | .ok desc =>
    let va := f.gva + f.done
    let k := min 4096 (n - f.done)
    let b := d.1.backing src (274 + f.die) desc va k
    match b.2 with
    | .wait => b.1
    | .none => b.1.endFill f (some 0x12)
    | .data _ true => b.1.endFill f (some 0x12)
    | .data bs false =>
      let g : Seg := { sp := .dram, pa := translated va (b.1.offsetAt r va), len := k, va := BitVec.ofNat 64 va, off := 0 }
      if (b.1.refused (274 + f.die) 0 f.asid true [g]).isSome then b.1.endFill f (some 0x12)
      else match b.1.putSegs src f.asid (whole bs) [g] with
        | some s1 => (s1.forget src).setFill { f with done := f.done + k }
        | none => b.1

/-- Every byte is performed: the atomic that sets the map bit goes to the map's home (R395). -/
def State.fillMap (s : State) (f : Fill) (r : RangeRec) : State :=
  let gr := r.granule f.gva
  let at' := r.map + gr / 8
  let pa := at' / 4 * 4
  if !s.zoned pa 4 then s.endFill f (some 0x10)
  else if !s.dramOk (274 + f.die) true pa then s.endFill f (some 0x12)
  else
    let g : Seg := { sp := .dram, pa := pa, len := 4, va := 0, off := 0 }
    let r : Req := mkReq (.fill f.die f.id) (.atom .or (BitVec.ofNat 128 (2 ^ (8 * (at' % 4) + gr % 8))) 0 false) g 0 0
    (s.send { r with rel := true }).setFill { f with set := true }

/-- A step of a hardware fill (R395): it is translated, its bytes go out part by part, and then its map bit; it ends once that is set. -/
def State.goFill (s : State) (f : Fill) : State :=
  let src : Src := .fill f.die f.id
  let q := s.fillRange f
  match q.2 with
  | .error none => q.1
  | .error (some c) => q.1.endFill f (some c)
  | .ok e =>
    if f.begun.isNone then
      if !e.r.partialRes then s.endFill f none else { s with fresh := s.fresh + 1 }.setFill { f with begun := some s.fresh }
    else
      let n := min (2 ^ 21) (e.r.base + e.r.size - f.gva)
      if f.done < n then s.fillPart f e.r n
      else if !s.stored src then s
      else if f.set then s.endFill f none
      else s.fillMap f e.r

/-- A hardware fill goes on (R395). -/
def execFillComplete (id : Nat) (s : State) : Host.Outcome State Fault Refusal :=
  event s (match s.fills.find? (fun f => f.id == id) with
    | some f => if f.hostAsked || !s.fillRuns f then none else some (s.goFill f)
    | none => none)

/-- A fill's deadline passes: the descriptor gives one, which counts while the expert bit of walks and fills is set (R394, R395, R472). -/
def execFillDeadline (id : Nat) (s : State) : Host.Outcome State Fault Refusal :=
  event s (match s.fills.find? (fun f => f.id == id) with
    | some f =>
      if !wbit (s.mgr 0x1000) 8 || f.set || (f.begun.isNone && !f.hostAsked) then none
      else
        let q := s.fillRange f
        (match q.2 with
         | .error _ => some q.1
         | .ok e =>
           let d := q.1.descriptor f e.r
           match d.2 with
           | .error _ => some d.1
           | .ok bs => if bits (word bs 3) 15 0 == 0 then some d.1 else some (d.1.endFill f (some 0x12)))
    | none => none)

end Sys2Proof.Machine
end

