-- ==== Sys2Proof/Machine/Moves.lean ====
section
/-! DEFINITION. The compactors (R399 to R404): move and retire requests, granules copied under the watermark, spare pools and the retired
list. -/

namespace Sys2Proof.Machine

/-- Registers of compactor d's queue. -/
def cqReg (d k : Nat) : Nat := 0x200 + 32 * d + 8 * k

/-- The source and master of compactor d. -/
def compactor (d : Nat) : Src := .other (276 + d)

/-- The request at the head of compactor d's queue; one that is poisoned reads as ones. -/
def State.moveHead (s : State) (d : Nat) : State × Option (List Byte) :=
  if (s.mgr (cqReg d 2)) == (s.mgr (cqReg d 3)) then (s, none)
  else
    let q := s.readZoned (compactor d) ((s.mgr (cqReg d 0)).toNat + 32 * ((s.mgr (cqReg d 3)).toNat % 2 ^ ((s.mgr (cqReg d 1)).toNat % 64))) 32
    (q.1, match q.2 with
      | .data bs bad => some (if bad then List.replicate 32 255 else bs)
      | _ => none)

/-- The request has been dealt with: the consumer index advances, and what was read for it is let go. -/
def State.moveTaken (s : State) (d : Nat) : State := (s.setMgr (cqReg d 3) (s.mgr (cqReg d 3) + 1)).forget (compactor d)

/-- The completion word is sent (R399), to a place that the compactor may write. -/
def State.moveStatus (s : State) (d compl status gen : Nat) : State :=
  if compl % 8 == 0 && s.zoned compl 8 && s.dramOk (276 + d) true compl then
    s.sendAll (storeReqs (compactor d) 0 (s.fresh + 1) (whole (toBytes 8 (status + 256 * gen)))
      [{ sp := .dram, pa := compl, len := 8, va := 0, off := 0 }])
  else s

/-- The list of retired granules: the part's own, and that in memory which `mg.retl` names (R403, R470; log entry 108). -/
def State.retiredList (s : State) (src : Src) : State × Option (List Nat) :=
  let w := s.mgr 0x5100
  let n := wbits w 63 40
  if n == 0 then (s, some s.m.retired)
  else
    let q := s.readZoned src (wbits w 38 0) (8 * n)
    (q.1, match q.2 with
      | .wait => none
      | .none => some s.m.retired
      | .data bs _ => some (s.m.retired ++ (List.range n).map (fun i => word bs i / 2 ^ 16)))

/-- The failing granule joins the list (R403). -/
def State.retireGranule (s : State) (g : Nat) : State :=
  let w := s.mgr 0x5100
  let at' := wbits w 38 0 + 8 * wbits w 63 40
  let s := if w == 0 then s else (s.writeZoned at' (toBytes 8 (g * 2 ^ 16))).setMgr 0x5100 (w + BitVec.ofNat 64 (2 ^ 40))
  { s with m := { s.m with retired := s.m.retired ++ [g] } }

/-- A place of device memory that a compactor may move a range of zone z to (R399, R404). -/
def State.placeOk (s : State) (gs : List Nat) (z ta size : Nat) : Bool :=
  ta / 2 ^ 52 == 0 && ta % 2 ^ 16 == 0 && ta < 2 ^ 39 && s.inZone z ta size &&
  gs.all (fun g => (g + 1) * 2 ^ 16 ≤ ta || ta + size ≤ g * 2 ^ 16)

/-- A compactor may read the old place and write the new one (R479; log entry 109). -/
def State.moveGranted (s : State) (d old new size : Nat) : Bool :=
  let at' (a : Nat) : Seg := { sp := .dram, pa := a, len := size, va := 0, off := 0 }
  (s.refused (276 + d) 0 0 false [at' old]).isNone && (s.refused (276 + d) 0 0 true [at' new]).isNone

/-- The record that covers an address, found through a compactor's range table (R390), and as it stands in its directory: an entry whose
place there holds another record by now is given up. -/
def State.dirRec (s : State) (d : Nat) (asid : BitVec 16) (va : Nat) : State × Except (Option (BitVec 7)) (DirEntry × RangeRec × Nat) :=
  let p := 276 + d
  let src := compactor d
  match s.rtFind p asid va with
  | none =>
    let q := s.askWalk src asid va
    (q.1, .error q.2)
  | some x =>
    let h := s.dirEntry src asid
    match h.2 with
    | .error c => (h.1, .error c)
    | .ok e =>
      let q := h.1.readRec src e x.idx
      match q.2 with
      | .error c => (q.1, .error c)
      | .ok bs =>
        if x.idx < e.count && parseRec bs == some x.r then (q.1, .ok (e, x.r, x.idx))
        else ((q.1.forget src).setRtab p ((q.1.rtab p).filter (fun y => y != x)), .error none)

/-- What the checks of a request come to: the range it names, or its status and the generation to report; or (none) a wait. -/
def State.moveCheck (s : State) (d : Nat) (bs : List Byte) (exact : Bool) : State × Except (Option (Nat × Nat)) (DirEntry × RangeRec × Nat) :=
  let w0 := word bs 0
  let asid := BitVec.ofNat 16 w0
  let va := word bs 1
  if 2 ≤ bits w0 63 62 || bits w0 61 16 != 0 || word bs 3 % 8 != 0 then (s, .error (some (7, 0)))
  else if 2 ^ 56 ≤ va then (s, .error (some (1, 0)))
  else
    let w := s.dirRec d asid va
    (w.1, match w.2 with
      | .error none => .error none
      | .error (some _) => .error (some (1, 0))
      | .ok (e, r, i) =>
        if exact && r.base != va then .error (some (1, 0))
        else if r.moving then .error (some (4, r.gen.toNat))
        else if r.pinned || !r.compactible || !e.hcomp then .error (some (2, r.gen.toNat))
        else .ok (e, r, i))

/-- The record has become moving: every party learns it, and then the copying begins (R400). What an earlier move of the range's addresses
has left behind (R402) is of no use to anyone now. -/
def State.startMove (s : State) (d : Nat) (retire : Bool) (asid : BitVec 16) (r : RangeRec) (newOff : Word) (granule compl : Nat) : State :=
  let id := s.fresh
  let s1 := s.shoot asid (some (r.base, r.size)) none parties
  let old := s1.moves.filter (fun (e : Nat × Move') => !(e.2.stage == 4 && e.2.asid == asid && e.2.base == r.base))
  { s1 with moves := tput old d { retire := retire, asid := asid, base := r.base, oldOff := r.offset, newOff := newOff, granule := granule,
                                  compl := compl, stage := 1, m := 0, shoot := id, gen := r.gen.toNat } }

/-- A request that ends at once (R399). -/
def State.moveEnds (s : State) (d compl status gen : Nat) : State := (s.moveTaken d).moveStatus d compl status gen

/-- A compactor takes a move request and marks the range moving (R399, R400). -/
def State.goMoveRequest (s : State) (d : Nat) (bs : List Byte) : State :=
  let src := compactor d
  let compl := word bs 3
  let q := s.moveCheck d bs true
  match q.2 with
  | .error none => q.1
  | .error (some (st, gen)) => q.1.moveEnds d compl st gen
  | .ok (e, r, i) =>
    let asid := BitVec.ofNat 16 (word bs 0)
    let newOff := BitVec.ofNat 64 (word bs 2)
    let old := translated r.base r.offset
    let ta := translated r.base newOff
    let l := q.1.retiredList src
    match l.2 with
    | none => l.1
    | some gs =>
      if old / 2 ^ 52 != 0 || newOff.toNat % 2 ^ 16 != 0 || !l.1.placeOk gs r.zone.toNat ta r.size || (ta < old + r.size && old < ta + r.size) ||
          !l.1.moveGranted d old ta r.size then
        l.1.moveEnds d compl 3 r.gen.toNat
      else if !l.1.mayEdit src asid e i then (if l.1.intact src then l.1 else l.1.forget src)
      else
        let r' := { r with moving := true, mdie := d }
        (((l.1.rewalk asid).putRec e i r').moveTaken d).startMove d false asid r' newOff 0 compl

/-- A new place of n granules of 64 KiB in the spare pool of zone z (R404): its address, and the descriptor's second word and its new
value; none: the pool has none. -/
def State.spare (s : State) (src : Src) (z n : Nat) : State × Except Unit (Option (Nat × Nat × List Byte)) :=
  let sp := if wbit (s.mgr 0x1000) 9 then (s.mgr 0x130).toNat else 0
  if sp == 0 then (s, .ok none)
  else
    let q := s.readZoned src (sp + 16 * z) 16
    (q.1, match q.2 with
      | .wait => .error ()
      | .none => .ok none
      | .data _ true => .ok none
      | .data bs false =>
        let w0 := word bs 0
        let w1 := word bs 1
        let used := bits w1 63 32
        if bit w0 63 && bits w0 62 39 == 0 && bits w0 15 0 == 0 && used + n ≤ bits w1 31 0 then
          .ok (some (bits w0 38 16 * 2 ^ 16 + 2 ^ 16 * used, sp + 16 * z + 8, toBytes 8 (bits w1 31 0 + (used + n) * 2 ^ 32)))
        else .ok none)

/-- A compactor takes a retire request: the span, the splits, the new place, and the move begins (R403). -/
def State.goRetireRequest (s : State) (d : Nat) (bs : List Byte) : State :=
  let src := compactor d
  let compl := word bs 3
  let asid := BitVec.ofNat 16 (word bs 0)
  let q := s.moveCheck d bs false
  match q.2 with
  | .error none => q.1
  | .error (some (st, gen)) => q.1.moveEnds d compl st gen
  | .ok (e, r, i) =>
    let gen := r.gen.toNat
    let pa := word bs 2 / 2 ^ 16 * 2 ^ 16
    let old := translated r.base r.offset
    if old / 2 ^ 52 != 0 || pa < old || old + r.size ≤ pa then q.1.moveEnds d compl 1 gen
    else
      let x := pa - old
      let a := if r.partialRes then x / 2 ^ 24 * 2 ^ 24 else x
      let b := if r.partialRes then min (a + 2 ^ 24) r.size else x + 2 ^ 16
      let mid := { r.part a b with moving := true, mdie := d }
      let parts := (if a == 0 then [] else [r.part 0 a]) ++ [mid] ++ (if b == r.size then [] else [r.part b r.size])
      if e.cap < e.count + parts.length - 1 then q.1.moveEnds d compl 5 gen
      else
        let l := q.1.retiredList src
        let p := l.1.spare src r.zone.toNat ((b - a) / 2 ^ 16)
        match l.2, p.2 with
        | none, _ => p.1
        | _, .error _ => p.1
        | _, .ok none => p.1.moveEnds d compl 6 gen
        | some gs, .ok (some (ta, at', used)) =>
          if !p.1.intact src || !p.1.settledLines at' 8 then (if p.1.intact src then p.1 else p.1.forget src)
          else if !p.1.placeOk gs r.zone.toNat ta (b - a) || (ta < old + b && old + a < ta + (b - a)) ||
              !p.1.moveGranted d (old + a) ta (b - a) then
            (p.1.writeZoned at' used).moveEnds d compl 3 gen
          else match p.1.splice src asid e i 1 parts with
            | .status n => p.1.moveEnds d compl n gen
            | .wait s => s
            | .poison s => s.moveEnds d compl 1 gen
            | .done s =>
              ((s.writeZoned at' used).moveTaken d).startMove d true asid mid (BitVec.ofNat 64 ta - BitVec.ofNat 64 mid.base) (pa / 2 ^ 16) compl

/-- A request of a kind (1: retire, else move) at the head of a compactor's queue, the compactor being free. -/
def State.moveNext (s : State) (d : Nat) (retire : Bool) : Option State :=
  if 2 ≤ d || (tget s.moves d).isSome then none
  else
    let h := s.moveHead d
    match h.2 with
    | none => some h.1
    | some bs =>
      if (bits (word bs 0) 63 62 == 1) != retire then none
      else some (if retire then h.1.goRetireRequest d bs else h.1.goMoveRequest d bs)

/-- R399, R400. -/
def execMoveRequest (d : Nat) (s : State) : Host.Outcome State Fault Refusal := event s (s.moveNext d false)
/-- R399, R403. -/
def execRetireRequest (d : Nat) (s : State) : Host.Outcome State Fault Refusal := event s (s.moveNext d true)

/-- Copy lines of device memory, their poison with them (R400, R428). -/
def State.copyLines (s : State) (src dst : Nat) : Nat → State
  | 0 => s
  | k + 1 =>
    let q := s.readDram (64 * src) 64
    (q.1.writeAt .dram (64 * dst) q.2.1 (!q.2.2.isEmpty)).copyLines (src + 1) (dst + 1) k

/-- The move of compactor d that runs, its shootdown complete. -/
def State.moveAt (s : State) (d : Nat) : Option Move' :=
  match tget s.moves d with
  | some v => if s.shoots.any (fun (h : Shoot) => h.id == v.shoot) then none else some v
  | none => none

/-- Software has removed the range: the move ends, and what it has moved stays where it is for those that hold the range still (R402). -/
def State.moveStops (s : State) (d : Nat) (v : Move') : State :=
  let s := (s.forget (compactor d)).moveStatus d v.compl 1 0
  { s with moves := tput (tdel s.moves d) (2 * s.fresh + 2 + d) { v with stage := 4 }, fresh := s.fresh + 1 }

/-- The record of a move as it stands now; none where it has been removed. -/
def State.moveRec (s : State) (d : Nat) (v : Move') : State × Except Unit (Option (DirEntry × RangeRec × Nat)) :=
  let w := s.dirRec d v.asid v.base
  (w.1, match w.2 with
    | .error none => .error ()
    | .error (some _) => .ok none
    | .ok x => .ok (if x.2.1.base == v.base && x.2.1.moving then some x else none))

/-- Requests and waiters that hold a translation of a granule go on at its new place (R401): those on their way have not been performed. -/
def State.redirect (s : State) (asid : BitVec 16) (va old new : Nat) : State :=
  let here (sp : Space) (pa : Nat) (a : BitVec 16) (x : Word) : Bool :=
    sp == .dram && old ≤ pa && pa < old + 2 ^ 16 && a == asid && va ≤ x.toNat && x.toNat < va + 2 ^ 16
  { s with
    net := s.net.map (fun e =>
      if !e.op.isOrder && !e.done && here e.sp e.pa e.asid e.va then { e with pa := e.pa - old + new, accept := none, capped := false } else e)
    waiters := s.waiters.map (fun (w : Waiter) => if here w.sp w.pa w.asid w.va then { w with pa := w.pa - old + new } else w) }

/-- The banks of a granule no longer wait for requests that have left it. -/
def State.settleGranule (s : State) (pa : Nat) : State :=
  (List.range 256).foldl (fun (s : State) i => s.settleAt .dram (pa + 256 * i)) s

/-- One 64 KiB granule: a resident one is copied, ahead of every request (R421), once no fill is in flight into it (R400 to R402). -/
def State.goGranule (s : State) (d : Nat) (v : Move') : Option State :=
  let p := 276 + d
  let q := s.moveRec d v
  match q.2 with
  | .error () => some q.1
  | .ok none => some (q.1.moveStops d v)
  | .ok (some (_, r, _)) =>
    if r.length ≤ v.m then none
    else
      let va := r.base + 2 ^ 16 * v.m
      let gr := r.granule va
      let on (s : State) : State := { (s.mapped p).forget (compactor d) with moves := tput s.moves d { v with m := v.m + 1 } }
      if q.1.fills.any (fun f => f.asid == v.asid && f.gva == r.granuleVa gr && (f.begun.isSome || f.hostAsked)) then some (q.1.mapped p)
      else
        let b := if r.partialRes then q.1.mapBit p r gr else (q.1, .ok true)
        match b.2 with
        | .error none => some b.1
        | .ok false => some (on b.1)
        | _ =>
          let old := translated va r.offset
          let new := translated va v.newOff
          some (on (((b.1.copyLines (old / 64) (new / 64) 1024).redirect v.asid va old new).settleGranule old))

/-- A move goes on by one granule. -/
def execCompactorGranule (d : Nat) (s : State) : Host.Outcome State Fault Refusal :=
  event s (match s.moveAt d with
    | some v => if v.stage == 1 then s.goGranule d v else none
    | none => none)

/-- The record gets its new place, every party learns it, and the completion word is written (R400). -/
def execMoveFinish (d : Nat) (s : State) : Host.Outcome State Fault Refusal :=
  event s (match s.moveAt d with
    | some v =>
      if v.stage == 3 then
        let s1 := { s.moveStatus d v.compl 0 v.gen with moves := tdel s.moves d }
        some (if v.retire then s1.retireGranule v.granule else s1)
      else
        let src := compactor d
        let q := s.moveRec d v
        match q.2 with
        | .error () => some q.1
        | .ok none => some (q.1.moveStops d v)
        | .ok (some (e, r, i)) =>
          if v.m < r.length then none
          else if !q.1.mayEdit src v.asid e i then some (if q.1.intact src then q.1 else q.1.forget src)
          else
            let r' := { r with offset := v.newOff, moving := false, mdie := 0, gen := r.gen + 1 }
            let s1 := ((q.1.rewalk v.asid).putRec e i r').forget src
            let id := s1.fresh
            let s2 := s1.shoot v.asid (some (r.base, r.size)) none parties
            some { s2 with moves := tput s2.moves d { v with stage := 3, m := r.length, shoot := id, gen := r'.gen.toNat } }
    | none => none)

end Sys2Proof.Machine
end

