-- ==== Sys2Proof/Machine/Banks.lean ====
section
/-! DEFINITION. Bank power (R225 to R228, R350 to R359): `bankoff`, `spdrop`, `spwake`, idle banks and wakes, soft errors; the
graph-node boundary (R230) and `launch` (R229). -/

namespace Sys2Proof.Machine

/-! Vector banks. -/

/-- The registers of vector bank k. -/
def bankRegs (k : Nat) : List Nat := [4 * k, 4 * k + 1, 4 * k + 2, 4 * k + 3]

/-- A vector bank goes off: its contents are lost, its registers dead; it holds zeros when it wakes (R226, R350). -/
def Strand.offV (t : Strand) (k : Nat) : Strand :=
  let t := (bankRegs k).foldl (fun (t : Strand) i =>
    { t.setV i ⟨0, 0⟩ with r := { (t.setV i ⟨0, 0⟩).r with live := setBit32 t.r.live i false } }) t
  { t with r := { t.r with banks := vSet t.r.banks k { st := .off, wake := none, idleFrom := t.clock, struck := [] } } }

/-- Results of the bundle that issues now wake their bank again (R226). -/
def Strand.rewake (t : Strand) : Strand :=
  (t.flights.filter (fun f => f.bundle == t.bundle)).foldl (fun (u : Strand) f =>
    match f.dst with
    | .v i =>
      if u.bankFull i then u
      else
        let u := u.claimV i
        { u with flights := u.flights.map (fun x => if x.tag == f.tag then { x with fixed := false } else x) }
    | _ => u) t

/-- Nothing issued before the bundle is still to come to a register of bank k, and no command of an earlier bundle locks one. -/
def Strand.bankQuiet (t : Strand) (k : Nat) : Bool :=
  t.flights.all (fun f => t.bundle ≤ f.bundle || (match f.dst with | .v i => i / 4 != k | _ => true)) &&
  t.e.cmds.all (fun c => t.bundle ≤ c.bundle ||
    (c.locks.all (fun i => i / 4 != k) && (match c.dstLock with | some i => i / 4 != k | none => true)))

/-- Bits of a mask, rising. -/
def maskBits (n m : Nat) : List Nat := (List.range n).filter (fun i => m.testBit i)

/-- R226. -/
def execBankoff (g : Guard) (m : BitVec 8) (s : State) : Host.Outcome State Fault Refusal :=
  syllable s false g (fun _ => []) (fun t =>
    let ks := maskBits 8 m.toNat
    if ks.any (fun k => !t.bankQuiet k) then .hold s
    else .ok (s.setMe (ks.foldl (fun (u : Strand) k => u.offV k) t).rewake))

/-- A full vector bank has been idle long enough: it goes to retention (R350, R352). -/
def execBankIdle (n k : Nat) (s : State) : Host.Outcome State Fault Refusal :=
  let t := s.strand n
  event s (
    let b := vAt t.r.banks k
    let quiet := t.flights.all (fun f => match f.dst with | .v i => i / 4 != k | _ => true) &&
      t.e.cmds.all (fun c => c.locks.all (fun i => i / 4 != k) && (match c.dstLock with | some i => i / 4 != k | none => true))
    if k < 8 && t.phase == .running && b.st == .full && t.sys.idle != 0 && (bankRegs k).all (fun i => !t.r.live.getLsbD i) && quiet &&
        b.idleFrom + 2 * t.sys.idle.toNat ≤ t.clock then
      some (s.setStrand n { t with r := { t.r with banks := vSet t.r.banks k { b with st := .ret, wake := none, struck := [] } } })
    else none)

/-- The lanes of the struck pairs of register j of a bank. -/
def struckLanes (b : VBank) (j : Nat) : Mask :=
  (b.struck.filter (fun e => e.1 == j)).foldl (fun (m : Mask) e => m ||| BitVec.ofNat 1024 (3 * 2 ^ (2 * e.2))) 0

/-- A vector bank is full: parity is checked on leaving retention (R350, R354). -/
def Strand.wokenV (t : Strand) (k : Nat) : Strand :=
  let b := vAt t.r.banks k
  let t := if b.st == .ret then (List.range 4).foldl (fun (u : Strand) j =>
      let i := 4 * k + j
      let x := vAt u.r.v i
      u.setV i { x with poison := x.poison ||| struckLanes b j }) t else t
  { t with r := { t.r with banks := vSet t.r.banks k { st := .full, wake := none, idleFrom := t.clock, struck := [] } } }

/-- A wake is complete, after its time (R294): of a vector bank, or of a scratchpad bank with its parity checked and the drops that waited for
it (R350, R354, R355, R358, R359). -/
def execBankWake (b : BankRef) (s : State) : Host.Outcome State Fault Refusal :=
  event s (match b with
    | .vec n k =>
      let t := s.strand n
      (match (if k < 8 then (vAt t.r.banks k).wake else none) with
       | some w => if w ≤ t.clock || t.phase != .running then some (s.setStrand n (t.wokenV k)) else none
       | none => none)
    | .sp c k =>
      let x := (s.core c).bank k
      (match (if k < 32 then x.waking else none) with
       | some w =>
         if !s.ticksOver c x.st.wakeCycles w then none
         else
           let s1 := s.modCore c (fun y =>
             { y.setBank k { x with st := .full, waking := none, struck := [] } with
               marked := if x.st == .ret then y.marked ++ x.struck.filter (fun w => !y.marked.contains w) else y.marked })
           some (s1.settleBank c k)
       | none => none))

/-! Scratchpad banks. -/

/-- The checks of a bank mask (R72, R225). -/
def maskForm (s : State) (g : Guard) (gb : GReg) (k : List Nat → Res) : Host.Outcome State Fault Refusal :=
  syllable s false g (fun _ => [.g gb.toNat]) (fun t =>
    let m := t.g gb
    if m.poison then trapIf s 0x1A 0
    else if 2 ^ 32 ≤ m.val.toNat then trapIf s 0x03 0
    else if m.val.setWidth 32 &&& ~~~s.spmask s.cur != 0 then trapIf s 0x40 0
    else k (maskBits 32 m.val.toNat))

/-- R227: the drop enters the strand's queues and takes effect once what comes before it, to any of the banks it names, is performed. -/
def execSpdrop (g : Guard) (gb : GReg) (off : Bool) (s : State) : Host.Outcome State Fault Refusal :=
  maskForm s g gb (fun ks =>
    if ks.isEmpty then .ok s
    else
      let c := coreOf s.cur
      let no := s.fresh
      let m := ks.foldl (fun (m : BitVec 32) k => setBit32 m k true) 0
      let s := s.sendOrder false
      .ok (ks.foldl (fun (s : State) k =>
        (s.modCore c (fun x => let b := x.bank k; x.setBank k { b with drops := b.drops ++ [(s.cur, no, off, m)] })).settleBank c k) s))

/-- R228: the bundle holds until every named bank is full. -/
def execSpwake (g : Guard) (gb : GReg) (s : State) : Host.Outcome State Fault Refusal :=
  maskForm s g gb (fun ks =>
    let c := coreOf s.cur
    if ks.all (fun k => ((s.core c).bank k).st == .full) then .ok s else .hold (ks.foldl (fun (s : State) k => s.wakeSp c k) s))

/-! Graph nodes (R230, R454). -/

/-- A pending eviction that takes effect at a `node`. -/
def State.nodeEvicts (s : State) (n : Nat) : Bool :=
  match s.kernel (s.strand n).kernel with
  | some k => k.nodep && (k.evict == .requested || k.evict == .forced)
  | none => false

/-- An access to bank k of core c from before the bundle is still to be performed. -/
def State.busyBank (s : State) (c k : Nat) : Bool :=
  s.net.any (fun e => !s.issuing e && e.sp == .chip && !e.op.isOrder && e.pa / 0x20000 == 32 * c + k)

/-- R230. -/
def execNode (g : Guard) (ga gb : GReg) (tiles : BitVec 16) (s : State) : Host.Outcome State Fault Refusal :=
  syllable s false g (fun _ => [.g ga.toNat, .g gb.toNat]) (fun t =>
    let a := t.g ga
    let b := t.g gb
    if a.poison || b.poison then trapIf s 0x1A 0
    else if 2 ^ 32 ≤ a.val.toNat || 2 ^ 32 ≤ b.val.toNat then trapIf s 0x03 0
    else
      let c := coreOf s.cur
      let offs := maskBits 32 ((s.spmask s.cur) &&& ~~~(b.val.setWidth 32)).toNat
      if t.flights.any (fun f => f.bundle < t.bundle) || t.e.cmds.any (fun x => x.engine == 1 && x.bundle < t.bundle) ||
          offs.any (fun k => let x := (s.core c).bank k; x.waking.isSome || !x.drops.isEmpty || s.busyBank c k) then .hold s
      else
        let keep := (maskBits 32 a.val.toNat).map (fun i => t.pv i)
        let live := (List.range 32).foldl (fun (l : BitVec 32) i => if keep.contains i then l else setBit32 l i false) t.r.live
        let t := { t with r := { t.r with
          live := live
          tiles := Vector.ofFn (fun (i : Fin 16) => let x := t.r.tiles[i]; { x with written := x.written && tiles.getLsbD i }) } }
        let t := ((List.range 8).foldl (fun (u : Strand) k =>
          if (bankRegs k).any (fun i => u.r.live.getLsbD i) then u else u.offV k) t).rewake
        let t := if s.nodeEvicts s.cur then { t with phase := .evicting true false } else t
        .ok (offs.foldl (fun (s : State) k => s.spOff c k) (s.setMe t)))

/-! `launch` (R229). -/

/-- The address of the descriptor of a work queue (R261). -/
def State.queueAt (s : State) (q : Nat) : Nat := (s.mgr 0x100).toNat + 32 * q

/-- The descriptor of a work queue as a source reads it for a master: none where the home refuses it or no zone holds it. -/
def State.queueDesc (s : State) (src : Src) (m q : Nat) : State × Got :=
  if s.dramOk m false (s.queueAt q) then s.readZoned src (s.queueAt q) 32 else (s, .none)

/-- R229: after everything the strand did before, the record and the descriptor are read, and then, as one step, the index is reserved, the
record copied and the slot marked written. -/
def execLaunch (g : Guard) (gd ga gb : GReg) (s : State) : Host.Outcome State Fault Refusal :=
  syllable s false g (fun _ => [.g gd.toNat, .g ga.toNat, .g gb.toNat]) (fun t =>
    let a := t.g ga
    let q := t.g gb
    let src : Src := .other (300 + s.cur)
    let ret (s : State) (v : Nat) (bad : Bool) : Res :=
      let s := s.forget src
      .ok (s.setMe (s.me.fly (.g gd.toNat) (.s { val := BitVec.ofNat 64 v, poison := bad }) 0 1 false))
    if a.poison || q.poison then trapIf s 0x1A 0
    else if 2 ^ 16 ≤ q.val.toNat then trapIf s 0x03 0
    else if (t.p g.p).poison then trapIf s 0x19 0
    else checked (s.check { r := true } 64 a.val 64) (fun s gs =>
      if !s.released (.strand s.cur) .dv then .hold s
      else
        let r := s.getSegs src t.sys.asid gs
        match r.2 with
        | none => .hold r.1
        | some rec =>
        if rec.any (fun b => b.2) then trapIf r.1 0x19 a.val
        else
          let m := 272 + dieOf (coreOf s.cur)
          let d := r.1.queueDesc src m q.val.toNat
          match d.2 with
          | .wait => .hold d.1
          | .none => trapIf d.1 0x40 0
          | .data _ true => ret d.1 0 true
          | .data bs false =>
            let cfg := word bs 1
            let lg := bits cfg 4 0
            let prod := bits (word bs 2) 31 0
            let cons := bits (word bs 2) 63 32
            let da := s.queueAt q.val.toNat
            let slot := word bs 0 + 64 * (prod % 2 ^ lg)
            if !bit cfg 9 || 20 < lg || !d.1.dramOk m true da || !d.1.dramOk m true slot then trapIf d.1 0x40 0
            else if !d.1.intact src then .hold (d.1.forget src)
            else if 2 ^ lg ≤ (prod + 2 ^ 32 - cons) % 2 ^ 32 then ret d.1 (2 ^ 63) false
            else if !d.1.settledLines da 32 || !d.1.settledLines slot 64 then .hold d.1
            else
              let rec' := ofBytes (rec.map (fun b => b.1))
              let w0 := rec' % 2 ^ 64
              let ctl := w0 % 2 ^ 16 + prod % 2 ^ 16 * 2 ^ 16 + bits w0 56 32 * 2 ^ 32 + prod / 2 ^ 16 % 2 ^ 7 * 2 ^ 57
              let s1 := d.1.writeAt .dram (da + 16) (toBytes 4 (prod + 1)) false
              let s2 := s1.writeAt .dram slot (toBytes 64 (rec' - w0 + ctl)) false
              ret s2 prod false))

/-! Soft errors (R354, R358, R427, R436). -/

/-- A soft error: in a full bank it changes bits unseen, in a retained one it also breaks parity; a line of device memory has a wrong
symbol more; the check code of an accumulator detects it. -/
def execSoftError (site : ErrSite) (s : State) : Host.Outcome State Fault Refusal :=
  event s (match site with
    | .vec n reg lane flip =>
      let t := s.strand n
      let b := vAt t.r.banks (reg / 4)
      if reg < 32 && lane < 1024 && b.st != .off && flip != 0 then
        let x := vAt t.r.v reg
        let t := t.setV reg { x with bits := x.bits ^^^ BitVec.ofNat 32768 (flip.toNat * 2 ^ (32 * lane)) }
        let e := (reg % 4, lane / 2)
        let hit := b.st == .ret && !b.struck.contains e
        some (s.setStrand n { t with r := { t.r with banks := vSet t.r.banks (reg / 4) (if hit then { b with struck := e :: b.struck } else b) } })
      else none
    | .sp off flip =>
      (match target off with
       | .sp c o =>
         let b := (s.core c).bank (bankOf o)
         if b.st != .off && flip != 0 then
           let s1 := { s with chip := memPut s.chip off (memGet s.chip off ^^^ flip) }
           let hit := b.st == .ret && !b.struck.contains (o / 8)
           some (if hit then s1.modCore c (fun x => x.setBank (bankOf o) { b with struck := (o / 8) :: b.struck }) else s1)
         else none
       | _ => none)
    | .dram line sym flip =>
      if line < 2 ^ 33 && sym < 36 then
        let old := (s.m.flips.find? (fun f => f.1 == line && f.2.1 == sym)).map (fun f => f.2.2)
        let rest := s.m.flips.filter (fun f => !(f.1 == line && f.2.1 == sym))
        let new := old.getD 0 ^^^ flip
        some { s with m := { s.m with flips := if new == 0 then rest else rest ++ [(line, sym, new)] } }
      else none
    | .acc u k =>
      if u < numNmus && k < 64 then
        let a := s.acc u k
        some ((s.setAcc u k { a with status := a.status ||| 16 }).report 436 u k)
      else none)

end Sys2Proof.Machine
end

