-- ==== Sys2Proof/Machine/NmuWords.lean ====
section
/-! DEFINITION. Near-memory words (R235 to R255): checks, the stacks, control, memory and the vector buffer, the matrix-vector engine,
reductions, claims, order; launch and end of a kernel, its faults and its abort. -/

namespace Sys2Proof.Machine

/-! Faults and ends (R237, R252). -/

/-- Banks of group g (0 to 15) of unit u (R249). -/
def groupBanks (u g : Nat) : List Nat := (List.range 4).map (fun b => 16 * (4 * u + g / 4) + 4 * (g % 4) + b)

/-- Groups return to shared (R249, R418). -/
def State.release (s : State) (u : Nat) (gs : List Nat) : State :=
  let s1 := { s with m := { s.m with own := s.m.own.filter (fun e => !gs.any (fun g => (groupBanks u g).contains e.1)) } }
  s1.modNmu u (fun m => { m with claims := m.claims &&& ~~~BitVec.ofNat 16 (gs.foldl (fun a g => a + 2 ^ g) 0) })

/-- Write bytes of the buffer: a word written whole takes the data's poison, one written in part can only gain it (R235). -/
def Nmu.putBuf (m : Nmu) (off : Nat) (bs : List Byte) (bad : List Nat) : Nmu :=
  let n := bs.length
  let ws := if n == 0 then [] else (List.range ((off + n - 1) / 4 - off / 4 + 1)).map (fun i => off / 4 + i)
  let p := ws.foldl (fun (p : BitVec 16384) w =>
    let hit := bad.any (fun i => (off + i) / 4 == w)
    let full := off ≤ 4 * w && 4 * w + 4 ≤ off + n
    let b : BitVec 16384 := BitVec.ofNat 16384 (2 ^ w)
    if hit then p ||| b else if full then p &&& ~~~b else p) m.vpoison
  { m with vbuf := writeBytes m.vbuf off bs, vpoison := p }

def Mve.results (v : Mve) : List (Nat × Nat) := (List.range (v.op.b.toNat + 1)).map (fun b => (v.yoff + b * v.ystr, 4 * v.rows))

/-- Result spans after a stopped product: values that no program may rely on (R247). -/
def State.mveLost (s : State) (u : Nat) (v : Mve) : State :=
  v.results.foldl (fun (s : State) e =>
    { s with fresh := s.fresh + e.2 }.modNmu u (fun m =>
      m.putBuf e.1 ((List.range e.2).map (fun i => Config.freeByte (s.fresh + i))) [])) s

/-- The unit runs no kernel: its stacks, its engine (a product cut short leaves its result spans open, R247), its claims, its waits are
over; what it has posted stays on its way. -/
def State.clearUnit (s : State) (u : Nat) : State :=
  let s0 := match (s.nmu u).mve with | some v => s.mveLost u v | none => s
  let s1 := (((s0.release u (List.range 16)).dropWaiter (Who.nmu u)).forget (.nmu u)).forget (.mve u)
  let s2 := s1.withdrawAll (s1.net.filter (fun (r : Req) => (r.src == Src.nmu u && !r.op.posted) || r.src == Src.mve u))
  s2.modNmu u (fun m =>
    { m with run := none, stack := [], loops := [], mve := none, mveFault := none, wait := none, got := none, abort := false, flags := 0 })

/-- A type N kernel has ended on a unit (R284). -/
def State.unitEnded (s : State) (k u : Nat) : State :=
  { s with d := { s.d with kernels := s.d.kernels.map (fun x => if x.id == k then { x with nmus := x.nmus.filter (fun v => v != u) } else x) } }

/-- The fault of a near-memory kernel as its two record words (R252). -/
def NmFault.words (f : NmFault) (u : Nat) : Word × Word :=
  (BitVec.ofNat 64 (f.reason.toNat * 2 ^ 56 + u * 2 ^ 40 + f.pc * 2 ^ 16 + f.word.toNat),
   BitVec.ofNat 64 (f.depth * 2 ^ 60 + f.loops * 2 ^ 57 + f.detail.toNat))

/-- The failing address that a record gives: of reasons 0x09 to 0x0C and 0x0F (R252). -/
def nmTva (reason : Nat) (va : Word) : Word := if (9 ≤ reason && reason ≤ 0x0C) || reason == 0x0F then va else 0

/-- The kernel of unit u stops (R252): a strand's `nlaunch` gets its fault, a type N kernel reports to the fault log (R466, R467). -/
def State.stopUnit (s : State) (u reason pc : Nat) (word : NmWord) (detail : Nat) (va : Word) : State :=
  let m := s.nmu u
  match m.run with
  | none => s
  | some l =>
    let f : NmFault :=
      { reason := BitVec.ofNat 8 reason, pc := pc, word := word, depth := m.stack.length, loops := m.loops.length,
        detail := BitVec.ofNat 48 detail, va := nmTva reason va }
    let va := f.va
    let s1 := s.clearUnit u
    match l.fromCmd with
    | some _ => s1.modNmu u (fun x => { x with faults := x.faults ++ [(l, f)] })
    | none =>
      let k := s.kernel l.kernel
      let src := BitVec.ofNat 64 ((k.map (fun k => k.queue * 2 ^ 32 + k.index.toNat)).getD 0)
      let w := f.words u
      let s2 := { s1 with log := s1.log ++ [(src, w.1, va), (src, w.2, va)] }
      ((s2.tellDriver src w.1 va).tellDriver src w.2 va).unitEnded l.kernel u

/-- The kernel of unit u ends (R237): an `nlaunch` finishes, its flags with it. -/
def State.endUnit (s : State) (u : Nat) : State :=
  let m := s.nmu u
  match m.run with
  | none => s
  | some l =>
    let s1 := s.clearUnit u
    match l.fromCmd with
    | some (n, id) =>
      (match (s1.strand n).cmd id with
       | some c => s1.modStrand n (fun t => ((t.finishCmd c).setEvt 4).raise m.flags)
       | none => s1)
    | none => s1.unitEnded l.kernel u

/-! A word (R238). -/

/-- What a word comes to: it acts, pushing entries, the next word at an address or in sequence; it holds; it stops the kernel; it
reports the fault of a stopped product; it ends the kernel. -/
inductive NmRes where
  | go (s : State) (push : List SReg) (pc : Option Int)
  | hold (s : State)
  | stop (s : State) (reason detail : Nat) (va : Word)
  | stopMve (s : State)
  | fin (s : State)

/-- The word at a word address. -/
def Nmu.wordAt (m : Nmu) (a : Nat) : NmWord := BitVec.ofNat 16 (readNat m.ws (2 * a) 2)

/-- Words of a unit's word store from its word address on, up to the longest word (R30, R239). -/
def Nmu.nextWords (m : Nmu) : List NmWord :=
  (List.range 5).filterMap (fun i => if m.pc + i < 8192 then some (m.wordAt (m.pc + i)) else none)

/-- The fault of a stopped product, at its `mvx` (R247). -/
def State.reportMve (s : State) (u : Nat) : State :=
  match (s.nmu u).mveFault with
  | some (r, va, v) => s.stopUnit u r.toNat v.pc ((encodeNm (.mvx v.op)).headD 0) 0 va
  | none => s

/-- A word of n words that pops and pushes entries: its stack checks, its effect, the next word (R238, R241). -/
def nmWord (s : State) (pops pushes n : Nat) (k : Nmu → NLaunch → NmRes) : Host.Outcome State Fault Refusal :=
  let u := s.unit
  let m := s.nmu u
  let w := m.wordAt m.pc
  match m.run with
  | none => .next s
  | some l =>
    if m.stack.length < pops then .next (s.stopUnit u 3 m.pc w 0 0)
    else if 8 < m.stack.length - pops + pushes then .next (s.stopUnit u 2 m.pc w 0 0)
    else match k m l with
      | .go s1 push pc =>
        let a : Int := pc.getD ((m.pc + n : Nat) : Int)
        let s2 := s1.modNmu u (fun x => { x with stack := push ++ m.stack.drop pops, wait := none, got := none })
        if a < 0 || 8191 < a then .next (s2.stopUnit u 6 m.pc w 0 0)
        else .next (s2.modNmu u (fun x => { x with pc := a.toNat }))
      | .hold s1 => .next s1
      | .stop s1 r d va => .next (s1.stopUnit u r m.pc w d va)
      | .stopMve s1 => .next (s1.reportMve u)
      | .fin s1 => .next (s1.endUnit u)

/-- Entry i of the stack, the top first. -/
def Nmu.top (m : Nmu) (i : Nat) : SReg := m.stack.getD i { val := 0, poison := false }
/-- An entry. -/
def ent (v : Nat) (p : Bool) : SReg := { val := BitVec.ofNat 64 v, poison := p }

/-! Literals, stack and arithmetic (R239, R240). -/

def execLit (v : BitVec 15) (s : State) : Host.Outcome State Fault Refusal :=
  nmWord s 0 1 1 (fun _ _ => .go s [{ val := v.setWidth 64, poison := false }] none)

/-- R239: the value of the n + 1 words that follow, zero- or sign-extended. -/
def execLitx (n : BitVec 2) (x : Bool) (v : Word) (s : State) : Host.Outcome State Fault Refusal :=
  let w := 16 * (n.toNat + 1)
  nmWord s 0 1 (n.toNat + 2) (fun _ _ =>
    .go s [ent (if x then wrap 64 (signed w (v.toNat % 2 ^ w)) else v.toNat % 2 ^ w) false] none)

def execDup (s : State) : Host.Outcome State Fault Refusal := nmWord s 1 2 1 (fun m _ => .go s [m.top 0, m.top 0] none)
def execDrop (s : State) : Host.Outcome State Fault Refusal := nmWord s 1 0 1 (fun _ _ => .go s [] none)
def execSwap (s : State) : Host.Outcome State Fault Refusal := nmWord s 2 2 1 (fun m _ => .go s [m.top 1, m.top 0] none)
def execNmOver (s : State) : Host.Outcome State Fault Refusal := nmWord s 2 3 1 (fun m _ => .go s [m.top 1, m.top 0, m.top 1] none)

/-- Two entries, a below b. -/
def nmBin (s : State) (f : Word → Word → Word) : Host.Outcome State Fault Refusal :=
  nmWord s 2 1 1 (fun m _ => .go s [{ val := f (m.top 1).val (m.top 0).val, poison := (m.top 0).poison || (m.top 1).poison }] none)
/-- An entry and an immediate. -/
def nmImm (s : State) (v : BitVec 9) (f : Word → Word → Word) : Host.Outcome State Fault Refusal :=
  nmWord s 1 1 1 (fun m _ => .go s [{ val := f (m.top 0).val (v.setWidth 64), poison := (m.top 0).poison }] none)
/-- A shift left by b<7:0>: 64 or more gives 0 (R240). -/
def nmShift (a b : Word) : Word := let n := b.toNat % 256; if 64 ≤ n then 0 else a <<< n

def execNmAdd (s : State) : Host.Outcome State Fault Refusal := nmBin s (fun a b => a + b)
def execNmAddImm (v : BitVec 9) (s : State) : Host.Outcome State Fault Refusal := nmImm s v (fun a b => a + b)
def execNmSub (s : State) : Host.Outcome State Fault Refusal := nmBin s (fun a b => a - b)
def execNmSubImm (v : BitVec 9) (s : State) : Host.Outcome State Fault Refusal := nmImm s v (fun a b => a - b)
def execNmAnd (s : State) : Host.Outcome State Fault Refusal := nmBin s (fun a b => a &&& b)
def execNmAndImm (v : BitVec 9) (s : State) : Host.Outcome State Fault Refusal := nmImm s v (fun a b => a &&& b)
def execNmShl (s : State) : Host.Outcome State Fault Refusal := nmBin s nmShift
def execNmShlImm (v : BitVec 9) (s : State) : Host.Outcome State Fault Refusal := nmImm s v nmShift

/-! Control (R241). -/

def execNmLoop (d : BitVec 10) (s : State) : Host.Outcome State Fault Refusal :=
  nmWord s 1 0 1 (fun m _ =>
    let n := m.top 0
    if n.val != 0 && 4 ≤ m.loops.length then .stop s 4 0 0
    else if n.poison then .stop s 0x0F 0 0
    else if d.toNat < 2 then .stop s 0x11 d.toNat 0
    else if n.val == 0 then .go s [] (some ((m.pc + d.toNat : Nat) : Int))
    else .go (s.modNmu s.unit (fun x => { x with loops := (n.val, m.pc + 1) :: m.loops })) [] none)

def execNext (s : State) : Host.Outcome State Fault Refusal :=
  nmWord s 0 0 1 (fun m _ =>
    match m.loops with
    | [] => .stop s 5 0 0
    | (c, a) :: r =>
      if c - 1 == 0 then .go (s.modNmu s.unit (fun x => { x with loops := r })) [] none
      else .go (s.modNmu s.unit (fun x => { x with loops := (c - 1, a) :: r })) [] (some (a : Int)))

def execNmBr (d : BitVec 10) (s : State) : Host.Outcome State Fault Refusal :=
  nmWord s 1 0 1 (fun m _ =>
    let f := m.top 0
    if f.poison then .stop s 0x0F 0 0
    else .go s [] (if f.val == 0 then none else some ((m.pc : Int) + d.toInt)))

def execNmJmp (d : BitVec 10) (s : State) : Host.Outcome State Fault Refusal :=
  nmWord s 0 0 1 (fun m _ => .go s [] (some ((m.pc : Int) + d.toInt)))

def execNmTrap (c : BitVec 10) (s : State) : Host.Outcome State Fault Refusal := nmWord s 0 0 1 (fun _ _ => .stop s 0x12 c.toNat 0)

def execNmNop (s : State) : Host.Outcome State Fault Refusal := nmWord s 0 0 1 (fun _ _ => .go s [] none)

/-! Memory (R242, R244). -/

/-- What the checks of R244 say. -/
inductive NmChk where
  | ok (gs : List Seg)
  | stop (reason : Nat) (va : Word)
  | wait

/-- The reason of a cause (R244, R253; log entry 15). -/
def nmReason (c : BitVec 7) : Nat :=
  if c == 0x11 then 0x0A else if c == 0x12 then 0x0B else if c == 0x40 then 0x0C else if c == 0x41 then 0x0D else 0x09

/-- The checks of R244, in their order, for an access of unit u: ranges, permissions, residency, access. -/
def State.nmCheck (s : State) (src : Src) (u : Nat) (asid : BitVec 16) (p : Perm) (a : Word) (len : Nat) : State × NmChk :=
  if winOf a != .d || winOf (a + BitVec.ofNat 64 (len - 1)) != .d then (s, .stop 0x09 a)
  else
    let bad (c : BitVec 7 × Nat) : NmChk := .stop (nmReason c.1) (BitVec.ofNat 64 c.2)
    let r := s.ranges src asid false (len / 2 ^ 16 + 66) a.toNat len 0
    match r.2 with
    | .error none => (r.1, .wait)
    | .error (some c) => (r.1, bad c)
    | .ok l =>
      match l.find? (fun e => e.2.sp != .dram), l.find? (fun e => !p.ok e.1) with
      | some e, _ => (r.1, .stop 0x09 e.2.va)
      | none, some e => (r.1, .stop 0x0A e.2.va)
      | none, none =>
        let q := r.1.ranges src asid true (len / 2 ^ 16 + 66) a.toNat len 0
        match q.2 with
        | .error none => (q.1, .wait)
        | .error (some c) => (q.1, bad c)
        | .ok l =>
          let gs := l.map (fun e => e.2)
          (q.1, match q.1.refused (144 + u) 0 asid (p.w || p.a) gs with
            | some va => .stop 0x0C va
            | none => .ok gs)

/-- The checks of a word of the unit that acts. -/
def State.nmWordCheck (s : State) (l : NLaunch) (p : Perm) (a : Word) (len : Nat) : State × NmChk :=
  s.nmCheck (.nmu s.unit) s.unit l.asid { p with n := true } a len

/-- After the checks. -/
def nmChecked (r : State × NmChk) (k : State → List Seg → NmRes) : NmRes :=
  match r.2 with
  | .ok gs => k r.1 gs
  | .stop c va => .stop r.1 c 0 va
  | .wait => .hold r.1

/-- Requests whose answers the word waits for. -/
def State.nmAsk (s : State) (n : Nat) (rs : List Req) : State :=
  (s.modNmu s.unit (fun m => { m with wait := some n, got := none })).sendAll rs

/-- The word's answers: it starts, waits for them, or has them. -/
def nmAwait (m : Nmu) (s : State) (start : NmRes) (done : Mem → List Nat → NmRes) : NmRes :=
  match m.wait with
  | none => start
  | some 0 => let g := m.got.getD ([], []); done g.1 g.2
  | some _ => .hold s

/-- A request of the unit. -/
def nmReq (s : State) (op : ReqOp) (g : Seg) (l : NLaunch) (ask : Bool) : Req := mkReq (.nmu s.unit) op g l.asid (if ask then 1 else 0)

def execNmLdWs (z : NmSize) (s : State) : Host.Outcome State Fault Refusal :=
  nmWord s 1 1 1 (fun m _ =>
    let a := m.top 0
    let n := 2 ^ z.toNat
    if a.poison then .stop s 0x0F 0 0
    else if 0x4000 ≤ a.val.toNat || a.val.toNat % n != 0 then .stop s 0x07 0 0
    else .go s [ent (readNat m.ws a.val.toNat n) false] none)

def execNmStWs (z : NmSize) (s : State) : Host.Outcome State Fault Refusal :=
  nmWord s 2 0 1 (fun m _ =>
    let a := m.top 0
    let v := m.top 1
    let n := 2 ^ z.toNat
    if a.poison || v.poison then .stop s 0x0F 0 0
    else if 0x4000 ≤ a.val.toNat || a.val.toNat % n != 0 then .stop s 0x07 0 0
    else .go (s.modNmu s.unit (fun x => { x with ws := writeBytes x.ws a.val.toNat (toBytes n v.val.toNat) })) [] none)

/-- R242: holds until the data has come; uncorrectable data pushes a poisoned entry. -/
def execNmLdMem (z : NmSize) (s : State) : Host.Outcome State Fault Refusal :=
  nmWord s 1 1 1 (fun m l =>
    let a := m.top 0
    let n := 2 ^ z.toNat
    if a.poison then .stop s 0x0F 0 a.val
    else if a.val.toNat % n != 0 then .stop s 0x11 a.val.toNat 0
    else nmAwait m s
      (nmChecked (s.nmWordCheck l { r := true } a.val n) (fun s gs =>
        .hold (s.nmAsk gs.length (gs.map (fun g => nmReq s (.load g.off) g l true)))))
      (fun d bad => .go s [ent (ofBytes (dense d n)) (!bad.isEmpty)] none))

/-- R242, R251: posted. -/
def execNmStMem (z : NmSize) (s : State) : Host.Outcome State Fault Refusal :=
  nmWord s 2 0 1 (fun m l =>
    let a := m.top 0
    let v := m.top 1
    let n := 2 ^ z.toNat
    if a.poison || v.poison then .stop s 0x0F 0 a.val
    else if a.val.toNat % n != 0 then .stop s 0x11 a.val.toNat 0
    else nmChecked (s.nmWordCheck l { w := true } a.val n) (fun s gs =>
      .go (s.sendAll (gs.map (fun g => nmReq s (.store ((toBytes n v.val.toNat).drop g.off |>.take g.len) (List.replicate g.len 0)) g l false)))
        [] none))

/-! The vector buffer (R235, R243, R247). -/

/-- Poisoned bytes among n bytes of the buffer. -/
def Nmu.bufBad (m : Nmu) (off n : Nat) : List Nat :=
  if m.vpoison == 0 then [] else (List.range n).filter (fun i => m.vpoison.getLsbD ((off + i) / 4))

/-- Vector and result spans of a product: offset, bytes (R245). -/
def Mve.vecs (v : Mve) : List (Nat × Nat) :=
  (List.range (v.op.b.toNat + 1)).map (fun b => (v.xoff + b * v.xstr, v.cols * (if v.op.vi8 then 1 else 2)))

def meets (a b : Nat × Nat) : Bool := a.1 < b.1 + b.2 && b.1 < a.1 + a.2

/-- A word that uses a span of the buffer waits for a product that uses it too, and meets its fault (R247). -/
def nmSpan (m : Nmu) (s : State) (off n : Nat) (k : NmRes) : NmRes :=
  let hits (v : Mve) : Bool := (v.vecs ++ v.results).any (meets (off, n))
  match m.mve, m.mveFault with
  | some v, _ => if hits v then .hold s else k
  | none, some (_, _, v) => if hits v then .stopMve s else k
  | none, none => k

/-- Operands of `vin` and `vout`: ( addr off n -- ). -/
def nmMove (s : State) (k : Nmu → NLaunch → Word → Nat → Nat → NmRes) : Host.Outcome State Fault Refusal :=
  nmWord s 3 0 1 (fun m l =>
    let a := m.top 2
    let off := m.top 1
    let n := m.top 0
    let o := off.val.toNat
    let c := n.val.toNat
    if a.poison || off.poison || n.poison then .stop s 0x0F 0 a.val
    else if a.val.toNat % 4 != 0 || o % 4 != 0 || c % 4 != 0 || c < 4 || 65536 < c || 0x10000 < o + c then .stop s 0x08 0 0
    else nmSpan m s o c (k m l a.val o c))

/-- R243. -/
def execVin (s : State) : Host.Outcome State Fault Refusal :=
  nmMove s (fun m l a off n => nmAwait m s
    (nmChecked (s.nmWordCheck l { r := true } a n) (fun s gs =>
      let rs := cutAll 64 gs
      .hold (s.nmAsk rs.length (rs.map (fun g => nmReq s (.load g.off) g l true)))))
    (fun d bad => .go (s.modNmu s.unit (fun x => x.putBuf off (dense d n) bad)) [] none))

/-- Every access of a unit's kernel before the word has been performed: its words', and its engine's fetches (R250, R251). -/
def State.nmDone (s : State) (u : Nat) : Bool := (s.nmu u).mve.isNone && s.net.all (fun r => r.src != .nmu u || r.done)

/-- The first address of `vout` in the line of its first poisoned word. -/
def Nmu.badLine (m : Nmu) (a : Word) (off n : Nat) : Option Word :=
  (m.bufBad off n).head?.map (fun i => BitVec.ofNat 64 (max a.toNat ((a.toNat + i) / 64 * 64)))

/-- R243: lines in ascending order, up to one that holds a poisoned word, at which the kernel stops once they have been written. -/
def execVout (s : State) : Host.Outcome State Fault Refusal :=
  nmMove s (fun m l a off n =>
    match m.badLine a off n with
    | some va =>
      if m.wait.isSome then
        if s.net.any (fun r => r.src == .nmu s.unit && !r.done) then .hold s else .stop s 0x0F 0 va
      else nmChecked (s.nmWordCheck l { w := true } a n) (fun s gs =>
        let rs := (cutAll 64 gs).filter (fun g => g.va.toNat < va.toNat)
        .hold (s.nmAsk 0 (rs.map (fun g => nmReq s (.store (readBytes m.vbuf (off + g.off) g.len) (List.replicate g.len 0)) g l false))))
    | none =>
      nmChecked (s.nmWordCheck l { w := true } a n) (fun s gs =>
        .go (s.sendAll ((cutAll 64 gs).map (fun g =>
          nmReq s (.store (readBytes m.vbuf (off + g.off) g.len) (List.replicate g.len 0)) g l false))) [] none))

/-! The matrix-vector engine (R245 to R247). -/

/-- Width of a weight, and whether its rows carry scales. -/
def mvWidth (wf : Nat) : Nat := if wf == 3 || wf == 6 then 4 else if wf == 4 then 16 else 8
def mvScaled (wf : Nat) : Bool := wf == 5 || wf == 6
/-- Bytes of a row. -/
def Mve.rowBytes (v : Mve) : Nat := v.cols * mvWidth v.op.wf.toNat / 8 + (if mvScaled v.op.wf.toNat then v.cols / 32 else 0)

/-- The limits of a descriptor: none, or the value that breaks one (R245). -/
def mveLimit (v : Mve) : Option Nat :=
  let wf := v.op.wf.toNat
  let one := v.op.b == 0
  if (wf == 2) != v.op.vi8 then some (((encodeNm (.mvx v.op)).headD 0).toNat % 1024)
  else if v.rows < 1 || 65536 < v.rows then some v.rows
  else if v.cols < 1 || 65536 < v.cols || (wf == 3 && v.cols % 2 != 0) || (mvScaled wf && v.cols % 32 != 0) then some v.cols
  else if v.op.exp && v.rstr != 0 then some v.rstr.toNat
  else if v.xoff % 2 != 0 then some v.xoff
  else if v.yoff % 4 != 0 then some v.yoff
  else if v.xstr % 2 != 0 || (one && v.xstr != 0) then some v.xstr
  else if v.ystr % 4 != 0 || (one && v.ystr != 0) then some v.ystr
  else none

/-- The product a descriptor names. -/
def Nmu.mveOf (m : Nmu) (o : MvxForm) (d fork : Nat) : Mve :=
  let h (i n : Nat) : Nat := readNat m.ws (d + i) n
  { pc := m.pc, op := o, wbase := BitVec.ofNat 64 (h 0 8), rows := h 8 4, cols := h 12 4, rstr := BitVec.ofNat 64 (h 16 8), xoff := h 24 2,
    yoff := h 26 2, xstr := h 28 2, ystr := h 30 2, fork := fork, done := 0 }

/-- R245, R246: starts the product. -/
def execMvx (o : MvxForm) (s : State) : Host.Outcome State Fault Refusal :=
  nmWord s 1 0 1 (fun m _ =>
    let d := m.top 0
    if m.mve.isSome then .hold s
    else if m.mveFault.isSome then .stopMve s
    else if d.poison then .stop s 0x0F 0 0
    else if d.val.toNat % 8 != 0 || 0x4000 < d.val.toNat + 32 then .stop s 0x11 d.val.toNat 0
    else
      let v := m.mveOf o d.val.toNat s.fresh
      match mveLimit v with
      | some x => .stop s 0x11 x 0
      | none =>
        let inside (e : Nat × Nat) : Bool := e.1 + e.2 ≤ 0x10000
        if !(v.vecs ++ v.results).all inside || v.results.any (fun r => v.vecs.any (meets r)) then .stop s 0x08 0 0
        else .go ({ s with fresh := s.fresh + 1 }.modNmu s.unit (fun x => { x with mve := some v })) [] none)

/-- R246. -/
def execMvwait (s : State) : Host.Outcome State Fault Refusal :=
  nmWord s 0 0 1 (fun m _ => if m.mve.isSome then .hold s else if m.mveFault.isSome then .stopMve s else .go s [] none)

/-- What a weight fetch gives: the bytes with poison, a wait, or the reason and address of its fault. -/
inductive Weights where
  | ok (s : State) (bs : List (Byte × Bool))
  | wait (s : State)
  | stop (s : State) (reason : Nat) (va : Word)

/-- Bytes of memory as the unit's engine reads them. -/
def State.nmRead (s : State) (u : Nat) (asid : BitVec 16) (p : Perm) (a : Word) (n : Nat) : Weights :=
  let r := s.nmCheck (.mve u) u asid p a n
  match r.2 with
  | .wait => .wait r.1
  | .stop c va => .stop r.1 c va
  | .ok gs =>
    let y := r.1.getSegs (.mve u) asid gs
    match y.2 with
    | some bs => .ok y.1 bs
    | none => .wait y.1

/-- What a product's fetch needs. -/
def fetchPerm : Perm := { r := true, n := true }

/-- The reader of a unit's expander. -/
def nmReader (u : Nat) (asid : BitVec 16) : Reader := fun s a len =>
  let cut (s : State) (k : Nat) (c : BitVec 7) (va : Word) : State × Option Span :=
    match s.nmRead u asid fetchPerm a k with
    | .ok s bs => (s, some { bytes := bs.map (fun b => b.1), bad := (List.range k).filter (fun i => (bs.getD i (0, false)).2), stop := some (c, va) })
    | .wait s => (s, none)
    | .stop s _ _ => (s, some { bytes := [], bad := [], stop := some (c, va) })
  match s.nmRead u asid fetchPerm a len with
  | .ok s bs => (s, some { bytes := bs.map (fun b => b.1), bad := (List.range len).filter (fun i => (bs.getD i (0, false)).2), stop := none })
  | .wait s => (s, none)
  | .stop s c va =>
    let k := (va - a).toNat
    if k == 0 || len ≤ k then (s, some { bytes := [], bad := [], stop := some (BitVec.ofNat 7 c, va) }) else cut s k (BitVec.ofNat 7 c) va

/-- The bytes of row i of the weights; with exp out of the decoded stream (R245). The cause of a stop is a reason of R253. -/
def State.mveRow (s : State) (u : Nat) (asid : BitVec 16) (v : Mve) (i : Nat) : Weights :=
  let n := v.rowBytes
  if v.op.exp then
    let r := expand (nmReader u asid) s v.wbase (n * i) (n * i + n)
    match r.2 with
    | none => .wait r.1
    | some x =>
      match x.fail with
      | some (_, b) => .stop r.1 (if b.cause == 0x22 then 0x0E else if b.cause == 0x41 then 0x0D else b.cause.toNat)
          (if b.cause == 0x22 || b.cause == 0x41 then 0 else b.tva)
      | none => .ok r.1 (x.bytes.map (fun b => (b, false)))
  else s.nmRead u asid fetchPerm (v.wbase + BitVec.ofNat 64 i * v.rstr) n

/-- Elements of width w of bytes, each with the poison of its byte. -/
def byteElems (w : Nat) (bs : List (Byte × Bool)) : List (Nat × Bool) :=
  if w == 4 then bs.flatMap (fun b => [(b.1.toNat % 16, b.2), (b.1.toNat / 16, b.2)])
  else (chunks (w / 8) (bs.length / (w / 8)) bs).map (fun c => (ofBytes (c.map (fun b => b.1)), c.any (fun b => b.2)))

/-- The format of plain float weights. -/
def mvFmt (wf : Nat) : Fmt := if wf == 0 then .e4m3 else if wf == 1 then .e5m2 else if wf == 3 then .e2m1 else .bf16

/-- The weights of a row as values with poison; after every 32 MX elements stands their scale (R54). -/
def mveWeights (wf : Nat) (bs : List (Byte × Bool)) : List (Val × Bool) :=
  if mvScaled wf then
    let f : MxFmt := if wf == 5 then .e4m3 else .e2m1
    let g := 4 * mvWidth wf
    (chunks (g + 1) (bs.length / (g + 1)) bs).flatMap (fun c =>
      let sc := c.getD g (0, false)
      (byteElems (mvWidth wf) (c.take g)).map (fun e => (mxTimes f e.1 sc.1.toNat, e.2 || sc.2)))
  else (byteElems (mvWidth wf) bs).map (fun e => ((mvFmt wf).val e.1, e.2))

/-- The bytes of a buffer span with poison. -/
def Nmu.buf (m : Nmu) (off n : Nat) : List (Byte × Bool) :=
  let bad := m.bufBad off n
  (readBytes m.vbuf off n).zip ((List.range n).map (fun i => bad.contains i))

/-- One element of a result: groups of 8 in ascending k, each rounded or wrapped once (R65, R66, R246). -/
def mveDot (v : Mve) (row : List (Byte × Bool)) (x : List (Byte × Bool)) (y : Nat × Bool) : (Nat × Bool) × BitVec 6 :=
  let n := (v.cols + 7) / 8
  if v.op.vi8 then
    let f (l : List (Nat × Bool)) : List (Int × Bool) := l.map (fun e => (signed 8 e.1, e.2))
    dotGroups (fun e ps => (groupInt v.op.sat e ps, 0)) y (chunks 8 n (f (byteElems 8 row))) (chunks 8 n (f (byteElems 8 x)))
  else
    dotGroups (groupFloat Fmt.f32) y (chunks 8 n (mveWeights v.op.wf.toNat row))
      (chunks 8 n ((byteElems 16 x).map (fun e => (Fmt.bf16.val e.1, e.2))))

/-- Row i for every vector of the batch. -/
def Nmu.mveStep (m : Nmu) (v : Mve) (i : Nat) (row : List (Byte × Bool)) : Nmu :=
  (v.vecs.zip v.results).foldl (fun (m : Nmu) e =>
    let at' := e.2.1 + 4 * i
    let y0 := m.buf at' 4
    let y := if v.op.acc then (ofBytes (y0.map (fun b => b.1)), y0.any (fun b => b.2)) else (0, false)
    let r := mveDot v row (m.buf e.1.1 e.1.2) y
    { m.putBuf at' (toBytes 4 r.1.1) (if r.1.2 then [0] else []) with flags := m.flags ||| r.2 }) m

/-- A product goes on by a row, and is done with its last one, or stops (R246, R247): the accesses before its `mvx` come first. -/
def execMveProductEnd (u : Nat) (s : State) : Host.Outcome State Fault Refusal :=
  event s (match (s.nmu u).mve, (s.nmu u).run with
    | some v, some l =>
      if s.net.any (fun r => r.src == .nmu u && !r.done && r.id < v.fork) then none
      else match s.mveRow u l.asid v v.done with
        | .ok s1 row =>
          let next := if v.done + 1 < v.rows then some { v with done := v.done + 1 } else none
          some ((s1.modNmu u (fun m => { m.mveStep v v.done row with mve := next })).forget (.mve u))
        | .wait s1 => some s1
        | .stop s1 r va =>
          some (((s1.mveLost u v).modNmu u (fun m => { m with mve := none, mveFault := some (BitVec.ofNat 8 r, va, v) })).forget (.mve u))
    | _, _ => none)

/-! Reductions (R248). -/

/-- The checks of a handle: its range, the grant of its unit. -/
def nmHandle (s : State) (h : SReg) (b : Nat) (k : Nat → Nat → NmRes) : NmRes :=
  if 2 ^ 13 ≤ h.val.toNat then .stop s 0x11 h.val.toNat 0
  else
    let v := wbits h.val 12 6
    if !s.nmuOk (144 + s.unit) v b then .stop s 0x0C 0 0 else k v (wbits h.val 5 0)

/-- A request to accumulator k of unit v. -/
def nmRed (s : State) (op : ReqOp) (l : NLaunch) (v k : Nat) (ask : Bool) : Req :=
  nmReq s op { sp := .red v, pa := k, len := 1, va := 0, off := 0 } l ask

/-- R248: holds until the accumulator is open. -/
def execRed (s : State) : Host.Outcome State Fault Refusal :=
  nmWord s 2 0 1 (fun m l =>
    let h := m.top 1
    let a := m.top 0
    if h.poison || a.poison then .stop s 0x0F 0 0
    else if 2 ^ 13 ≤ h.val.toNat then .stop s 0x11 h.val.toNat 0
    else if a.val.toInt < -256 || 255 < a.val.toInt then .stop s 0x11 a.val.toNat 0
    else nmHandle s h 1 (fun v k =>
      if m.wait.isNone then .hold (s.nmAsk 1 [nmRed s (.redfOpen a.val.toInt) l v k true])
      else if s.net.any (fun r => r.src == .nmu s.unit && !r.op.posted) then .hold s
      else .go s [] none))

/-- Operands of `racc` and `rfin`: ( h off n -- ), elements of w bytes, at most top of them. -/
def nmElems (s : State) (w top b align : Nat) (k : Nmu → NLaunch → Nat → Nat → Nat → Nat → NmRes) : Host.Outcome State Fault Refusal :=
  nmWord s 3 0 1 (fun m l =>
    let h := m.top 2
    let off := m.top 1
    let n := m.top 0
    let o := off.val.toNat
    let c := n.val.toNat
    if h.poison || off.poison || n.poison then .stop s 0x0F 0 0
    else if 2 ^ 13 ≤ h.val.toNat then .stop s 0x11 h.val.toNat 0
    else if c < 1 || top < c then .stop s 0x11 c 0
    else if o % align != 0 || 0x10000 < o + c * w then .stop s 0x08 0 0
    else nmSpan m s o (c * w) (nmHandle s h b (fun v a => k m l v a o c)))

/-- R248, R251: posted contributions. -/
def execRacc (t : BitVec 2) (one : Bool) (s : State) : Host.Outcome State Fault Refusal :=
  let w := if t == 0 then 4 else 2
  nmElems s w 16384 1 w (fun m l v a off n =>
    let xs := (chunks w n (m.buf off (w * n))).zip (List.range n)
    let cs := xs.map (fun e => (if one then a else (a + e.2) % 64, BitVec.ofNat 32 (ofBytes (e.1.map (fun b => b.1))), t.toNat, e.1.any (fun b => b.2)))
    .go (s.sendAll [nmRed s (.redx cs) l v a false]) [] none)

/-- R248: holds until every readout is in the buffer. -/
def execRfin (bf keep : Bool) (s : State) : Host.Outcome State Fault Refusal :=
  let w := if bf then 2 else 4
  nmElems s w 64 (if keep then 0 else 1) w (fun m l v a off n => nmAwait m s
    (.hold (s.nmAsk 1 [nmRed s (.rfin 0 n bf keep) l v a true]))
    (fun d bad => .go (s.modNmu s.unit (fun x => (List.range n).foldl (fun (x : Nmu) i =>
      x.putBuf (off + w * i) (((dense d (w * n)).drop (w * i)).take w) ((bad.filter (fun j => j / w == i)).map (fun j => j - w * i))) x)) [] none))

/-! Claims (R249, R418). -/

/-- The arbiter control word of stack k that applies: the default unless the expert bit is set (R422, R472). -/
def State.arb (s : State) (k : Nat) : Word := if wbit (s.mgr 0x1000) 11 then s.mgr (0x2000 + 8 * k) else mgReset 0x2000

/-- A claim of a shared bank takes effect. -/
def State.claimBank (s : State) (b : Nat) : State :=
  match tget s.m.own b with
  | some .shared | none =>
    let ids := (s.net.filter (fun r => s.bankOfReq r == some b && s.isMain r && r.accept.isSome)).map (fun r => r.id)
    { s with m := { s.m with own := tput s.m.own b (.pending ids) } }
  | _ => s

/-- R249: holds until every bank of the groups has been near-owned; with noclaim set it holds no longer (R422). -/
def execRowclaim (s : State) : Host.Outcome State Fault Refusal :=
  nmWord s 1 0 1 (fun m _ =>
    let x := m.top 0
    let u := s.unit
    if x.poison then .stop s 0x0F 0 0
    else if 2 ^ 16 ≤ x.val.toNat then .stop s 0x11 x.val.toNat 0
    else if wbit (s.arb (u / 16)) 0 then .go s [] none
    else
      let gs := maskBits 16 x.val.toNat
      let bs := gs.flatMap (groupBanks u)
      let s1 := (bs.foldl (fun (s : State) b => (s.claimBank b).settleOwn b) s).modNmu u (fun y => { y with claims := y.claims ||| x.val.setWidth 16 })
      if bs.all (fun b => match tget s1.m.own b with | some .near | some (.main _) => true | _ => false) then .go s1 [] none else .hold s1)

/-- R249. -/
def execRowrel (s : State) : Host.Outcome State Fault Refusal :=
  nmWord s 1 0 1 (fun m _ =>
    let x := m.top 0
    if x.poison then .stop s 0x0F 0 0
    else if 2 ^ 16 ≤ x.val.toNat then .stop s 0x11 x.val.toNat 0
    else .go (s.release s.unit (maskBits 16 x.val.toNat)) [] none)

/-! Order (R250). -/

/-- R250, R201: holds until its waiter has been woken; the word lies in the unit's own stack. -/
def execNmSemw (eq : Bool) (s : State) : Host.Outcome State Fault Refusal :=
  nmWord s 2 1 1 (fun m l =>
    let a := m.top 1
    let v := m.top 0
    let u := s.unit
    let me : Who := .nmu u
    if a.poison || v.poison then .stop s 0x0F 0 a.val
    else if a.val.toNat % 8 != 0 then .stop s 0x11 a.val.toNat 0
    else if m.wait.isSome then
      match (s.waiterOf me).map (fun w => (w.sat, w.woken)) with
      | some (some (x, bad), true) => .go (s.dropWaiter me) [{ val := x, poison := bad }] none
      | _ => .hold s
    else nmChecked (s.nmWordCheck l { r := true } a.val 8) (fun s gs =>
      match gs with
      | g :: _ =>
        if ((s.place g.pa).map (fun p => p.stack)) != some (u / 16) then .stop s 0x10 0 0
        else .hold (s.nmAsk 1 [{ nmReq s (.semw eq v.val) g l false with acq := true }])
      | [] => .hold s))

/-- R250, R200: posted. -/
def execNmSems (s : State) : Host.Outcome State Fault Refusal :=
  nmWord s 2 0 1 (fun m l =>
    let a := m.top 1
    let v := m.top 0
    if a.poison || v.poison then .stop s 0x0F 0 a.val
    else if a.val.toNat % 8 != 0 then .stop s 0x11 a.val.toNat 0
    else nmChecked (s.nmWordCheck l { a := true } a.val 8) (fun s gs =>
      .go (s.sendAll (gs.map (fun g => { nmReq s (.sems v.val) g l false with rel := true }))) [] none))

/-- R250. -/
def execNmFence (s : State) : Host.Outcome State Fault Refusal :=
  nmWord s 0 0 1 (fun _ _ => if s.nmDone s.unit then .go s [] none else .hold s)

/-- R237: holds until the engine is idle and every posted access performed. -/
def execNmEnd (s : State) : Host.Outcome State Fault Refusal :=
  nmWord s 0 0 1 (fun m _ =>
    if !s.nmDone s.unit then .hold s
    else if m.mveFault.isSome then .stopMve s
    else .fin s)

/-! Launch, abort, words that are none (R236, R254, R288, R45). -/

/-- The kernel of a launch begins at its entry. -/
def State.beginUnit (s : State) (u : Nat) (l : NLaunch) (q : List NLaunch) : State :=
  s.modNmu u (fun m =>
    { m with run := some l, queue := q, pc := l.entry, stack := (l.args.map (fun v => { val := v, poison := false })).reverse, loops := [],
             wait := none, got := none, abort := false, flags := 0, mveFault := none })

/-- The ASID of a launch, fixed at acceptance: of an `nlaunch` its strand's (R236). -/
def State.launchAsid (s : State) (l : NLaunch) : BitVec 16 :=
  match l.fromCmd with
  | some (n, id) => if ((s.strand n).cmd id).isSome then (s.strand n).sys.asid else l.asid
  | none => l.asid

/-- A unit accepts its next launch (R236, R288); a code image that cannot be had stops the kernel at its first word. -/
def execNmuLaunchAccept (u : Nat) (s : State) : Host.Outcome State Fault Refusal :=
  event s (
    let m := s.nmu u
    if m.run.isSome then none
    else match m.queue with
      | [] => none
      | l :: q =>
        let l := { l with asid := s.launchAsid l }
        let first (s : State) (r : Nat) (va : Word) : State :=
          let s1 := (s.beginUnit u l q).forget (.mve u)
          s1.stopUnit u r l.entry ((s1.nmu u).wordAt l.entry) 0 va
        match l.code with
        | none => some (s.beginUnit u l q)
        | some (a, n) =>
          match s.nmRead u l.asid { r := true } a n with
          | .wait s1 => some s1
          | .stop s1 r va => some (first s1 r va)
          | .ok s1 bs =>
            let s2 := s1.modNmu u (fun x => { x with ws := writeBytes x.ws 0 (bs.map (fun b => b.1)) })
            if bs.any (fun b => b.2) then some (first s2 0x0D 0) else some ((s2.beginUnit u l q).forget (.mve u)))

/-- A word that is none stops the kernel (R45); a `litx` whose words pass the end of the word store leaves it (R252). -/
def execIllegalWord (u : Nat) (s : State) : Host.Outcome State Fault Refusal :=
  event s (
    let m := s.nmu u
    let w := m.wordAt m.pc
    if m.run.isNone || (decodeNm m.nextWords).isSome then none
    else
      let short := w.toNat / 2 ^ 10 == 1 && bits w.toNat 9 3 == 0
      some (s.stopUnit u (if short then 6 else 1) m.pc w 0 0))

/-- A `red` or `rfin` whose request has been performed already: it completes, and an abort comes after it. -/
def State.redDone (s : State) (u : Nat) : Bool :=
  let m := s.nmu u
  m.wait.isSome && s.net.all (fun r => r.src != .nmu u || r.op.posted) &&
  (match decodeNm m.nextWords with
   | some (.red, _) | some (.rfin _ _, _) => true
   | _ => false)

/-- An abort takes effect at a word boundary or in a hold (R254); an `end` whose conditions hold completes. -/
def execNmuAbort (u : Nat) (s : State) : Host.Outcome State Fault Refusal :=
  event s (
    let m := s.nmu u
    if m.run.isNone || !m.abort || s.redDone u then none
    else
      let w := m.wordAt m.pc
      if w == 0x7000 && m.mveFault.isNone && s.nmDone u then some (s.endUnit u)
      else some (s.stopUnit u 0x13 m.pc w 0 0))

end Sys2Proof.Machine
end

