-- ==== Sys2Proof/Machine/Arbiter.lean ====
section
/-! DEFINITION. The arbiters of device memory (R416 to R426): acceptance, the choice of R417, ownership of banks, refresh with its patrol
scrub (R420, R431), byte budgets (R432, R433, R476); and the homes outside the part: host memory and peers (R325, R468, R474). -/

namespace Sys2Proof.Machine

/-! Budgets (R432, R433). -/

/-- The budget counter a request draws on: those of a core's strands, their pattern engines and copies only. -/
def State.budgetKey (s : State) (r : Req) : Option Nat :=
  match r.src.owner with
  | some n => (s.place r.pa).map (fun p => 8 * clusterOf (coreOf n) + p.stack)
  | none => none

/-- What a counter still holds; 0xFFFFFFFF: no limit. -/
def State.budgetLeft (s : State) (k : Nat) : Nat := (tget s.m.budget k).getD 0xFFFFFFFF

/-- R416, R432: eligible once accepted and admitted by the budget. -/
def State.eligible (s : State) (r : Req) : Bool :=
  r.accept.isSome && (match s.budgetKey r with | some k => 64 ≤ s.budgetLeft k | none => true)

/-- Service takes 64 bytes for a request (R321, R432): with the last of its parts. -/
def State.charge (s : State) (r : Req) : State :=
  match s.budgetKey r with
  | none => s
  | some k =>
    let v := s.budgetLeft k
    if v == 0xFFFFFFFF || s.net.any (fun e => e.id != r.id && e.part == r.part && !e.op.isOrder) then s
    else { s with m := { s.m with budget := tput s.m.budget k (v - 64) } }

/-- The allowance of counter k in force: the programmed one under expert control (R472), no more than the floor once the watchdog has
expired (R476). -/
def State.allowance (s : State) (k : Nat) : Nat :=
  let a := if wbit (s.mgr 0x1000) 10 then (s.mgr (0x3000 + 8 * k)).toNat else 0xFFFFFFFF
  if s.m.watchdog then min a 65536 else a

/-- Every counter is loaded at the start of an interval (R432). -/
def execBudgetInterval (s : State) : Host.Outcome State Fault Refusal :=
  event s (some { s with m := { s.m with budget := (List.range 144).map (fun k => (k, s.allowance k)) } })

/-- 10 ms have passed with no write to `mg.bref` (R476). -/
def execBudgetWatchdogExpiry (s : State) : Host.Outcome State Fault Refusal :=
  event s (some { s with m := { s.m with watchdog := true } })

/-! Ownership (R418). -/

/-- The stack of a bank. -/
def bankStack (b : Nat) : Nat := b / 1024

/-- Whether a bank's state lets a request be served; with noclaim set every bank is shared (R422). -/
def State.serves (s : State) (b : Nat) (r : Req) : Bool :=
  wbit (s.arb (bankStack b)) 0 ||
  (match tget s.m.own b with
   | some (.pending ids) => !s.isMain r || ids.contains r.id
   | some .near => !s.isMain r
   | some (.main ids) => ids.contains r.id
   | _ => true)

/-- The requests waiting for a bank. -/
def State.bankQueue (s : State) (b : Nat) : List Req := s.net.filter (fun r => r.accept.isSome && s.bankOfReq r == some b)

/-- A main request has been eligible for the yield bound: the eligible main requests are the batch (R418). -/
def execYieldBoundExpiry (b : Nat) (s : State) : Host.Outcome State Fault Refusal :=
  event s (match tget s.m.own b with
    | some .near =>
      let ids := ((s.bankQueue b).filter (fun r => s.isMain r && s.eligible r)).map (fun r => r.id)
      if ids.isEmpty then none else some { s with m := { s.m with own := tput s.m.own b (.main ids) } }
    | _ => none)

/-- A request has been eligible for the age cap (R417). -/
def execAgeCapExpiry (id : Nat) (s : State) : Host.Outcome State Fault Refusal :=
  event s (match s.req id with
    | some r => if s.eligible r then some (s.setReq { r with capped := true }) else none
    | none => none)

/-! Acceptance (R416). -/

/-- The queue of a request at its pseudo-channel is full. -/
def State.queueFull (s : State) (r : Req) : Bool :=
  match s.place r.pa with
  | none => true
  | some p =>
    let main := s.isMain r
    let q := s.net.filter (fun e => e.accept.isSome && s.isMain e == main && (s.place e.pa).map (fun x => x.pc) == some p.pc)
    (if main then 128 else 64) ≤ countLines none q

/-- Older requests that must come before this one are on their way in the arbiters' queues. -/
def State.mayEnter (s : State) (r : Req) : Bool :=
  (older r.id s.net).all (fun e => !s.blocks e r || (e.sp == .dram && e.accept.isSome)) && s.net.all (fun e => !e.merged.contains r.id)

/-- A plain store that is performed on its acceptance: any but a fill engine's (R423). -/
def Req.early (r : Req) : Bool :=
  r.op.plainStore && (match r.src with | .fill _ _ => false | _ => true)

/-- A request accepted before r is still to write r's line: what r performs on its acceptance comes after it (R424). -/
def State.lineWrites (s : State) (r : Req) : Bool := s.net.any (fun e => e.servedBefore r && !e.done && e.op.writes)

/-- A plain store is performed (R423); its service is still to come. -/
def State.takeStore (s : State) (r : Req) : State :=
  let s1 := r.merged.foldl (fun (s : State) i => s.dropReq i) ((s.perform r).releases r)
  let s2 := s1.setReq { r with accept := some s1.fresh, merged := [], done := true }
  { s2 with net := settle [] s2.net, fresh := s2.fresh + 1 }

/-- A request enters its queue, or is refused for want of room and sent again, the third time for certain (R192, R416); a plain store
is performed on acceptance (R423). -/
def execArbiterAccept (id : Nat) (s : State) : Host.Outcome State Fault Refusal :=
  event s (match s.req id with
    | some r =>
      if r.sp != .dram || r.op.isOrder || r.accept.isSome || r.away || (s.place r.pa).isNone then none
      else if !(if r.early then s.inTurn r && !s.lineWrites r else s.mayEnter r) then none
      else if s.queueFull r && !r.kept then some (s.setReq r.refuse)
      else if r.early then some (s.takeStore r)
      else some { s.setReq { r with accept := some s.fresh } with fresh := s.fresh + 1 }
    | none => none)

/-! Service. -/

/-- R424's exception: a request to the line that came later, and could otherwise be served or performed, waits behind this one. -/
def State.pressed (s : State) (b : Nat) (r : Req) : Bool :=
  s.net.any (fun e => r.servedBefore e && !e.op.isOrder && !e.away &&
    (if e.accept.isSome then s.serves b e && s.eligible e else e.early))

/-- The order of its line and of its source lets a request be served: one already performed has no more to wait for than its line. -/
def State.ripe (s : State) (r : Req) : Bool := if r.done then s.net.all (fun e => !e.servedBefore r) else s.free r

/-- A request that the bank's state and the budget let be served, and the order of its source too. -/
def State.candidate (s : State) (b : Nat) (r : Req) : Bool := s.serves b r && s.eligible r && s.ripe r

/-- Accepted before. -/
def Req.acceptedBefore (a b : Req) : Bool :=
  match a.accept, b.accept with
  | some x, some y => x < y
  | _, _ => false

/-- The request hits the open row of its bank. -/
def State.rowHit (s : State) (b : Nat) (r : Req) : Bool :=
  match s.place r.pa, tget s.m.row b with
  | some p, some w => p.row == w
  | _, _ => false

/-- The choice of R417 among candidates: the oldest that has reached the age cap, else the oldest that hits the open row, else the
oldest. -/
def State.chosen (s : State) (b : Nat) (r : Req) : Bool :=
  let cs := (s.bankQueue b).filter (fun e => s.candidate b e)
  let best := if cs.any (fun e => e.capped) then cs.filter (fun e => e.capped)
    else if cs.any (fun e => s.rowHit b e) then cs.filter (fun e => s.rowHit b e) else cs
  best.any (fun e => e.id == r.id) && best.all (fun e => !e.acceptedBefore r)

/-- A bank serves a request: it is performed, where it has not been, and charged, its row is the open one, and the bank's state moves on
(R417, R418, R423). -/
def execArbiterServe (id : Nat) (s : State) : Host.Outcome State Fault Refusal :=
  event s (match s.req id with
    | some r =>
      (match r.accept, s.place r.pa with
       | some _, some p =>
         if r.sp != .dram || !s.ripe r then none
         else if s.pressed p.bank r || (s.candidate p.bank r && s.chosen p.bank r) then
           let s1 := (if r.done then s.retire r else s.complete r).charge r
           some { s1 with m := { s1.m with row := tput s1.m.row p.bank p.row } }
         else none
       | _, _ => none)
    | none => none)

/-! Refresh and scrub (R420, R431). -/

/-- The address in a zone of local address l of a pseudo-channel: `Locate` read backwards. -/
def Zone.addr (z : Zone) (pc l : Nat) : Option Nat :=
  let lo := 2 ^ 21 * z.lbase
  if pc < z.pc0 || z.pc0 + z.npc ≤ pc || l < lo || lo + 2 ^ 21 * z.d ≤ l then none
  else
    let x := l - lo
    let t := x / 256
    let stack := pc / 64
    let ch := pc % 64 / 2
    let pch := pc % 2
    let o := match z.mode with
      | 0 => 256 * (512 * t + ((stack + 8 * ch + 256 * pch) ^^^ fold9 t)) + x % 256
      | 1 => 256 * (64 * t + ch + 32 * pch) + x % 256
      | 2 => 256 * (4 * t + 2 * (ch - z.pc0 % 64 / 2) + pch) + x % 256
      | _ => (pc - z.pc0) * (2 ^ 21 * z.d) + x
    some (z.zbase + o)

/-- The device physical address of line i of a bank, of 2^20; none outside every zone. -/
def State.lineOfBank (s : State) (b i : Nat) : Option Nat :=
  let row := i / 16
  let bg := b / 4 % 4 ^^^ bits row 7 6
  let bk := b % 4 ^^^ bits row 9 8
  let l := 2 ^ 14 * row + 2 ^ 12 * bk + 2 ^ 10 * bg + 64 * (i % 16)
  ((List.range 16).filterMap (fun z => s.zone z)).findSome? (fun z => z.addr (b / 16) l)

/-- The patrol scrubber reads the bank's next line; a new pass forgets the lines corrected in the last one (R430, R431). -/
def State.scrubNext (s : State) (b : Nat) : State :=
  let i := (tget s.m.scrub b).getD 0
  let s1 := match s.lineOfBank b i with
    | some a => (s.readLine (a / 64)).1
    | none => s
  let s2 := { s1 with m := { s1.m with scrub := tput s1.m.scrub b ((i + 1) % 2 ^ 20) } }
  if i + 1 == 2 ^ 20 then
    { s2 with m := { s2.m with errs := s2.m.errs.map (fun e =>
        (e.1, (e.2.1, e.2.2.filter (fun l => (s2.place (64 * l)).map (fun p => p.bank) != some b)))) } }
  else s2

/-- R420: the bank's row is closed, with a scrub read before it (R431). -/
def execRefresh (b : Nat) (s : State) : Host.Outcome State Fault Refusal :=
  event s (if b < 8192 then
      let s1 := s.scrubNext b
      some { s1 with m := { s1.m with row := tdel s1.m.row b } }
    else none)

/-! Host memory and peers. -/

/-- Bytes that the outside world has written to its own memory. -/
def State.outsideWrites (s : State) (sp : Space) (cs : List Host.Cell) : State :=
  cs.foldl (fun (s : State) c => s.writeAt sp c.1 [c.2] false) s

/-- A request is performed outside the part; with a poison mark, the data it brings back is poisoned and an atomic writes nothing. -/
def State.performOutside (s : State) (r : Req) (poison : Bool) : State :=
  if !poison then s.complete r
  else
    let all := List.range r.len
    let s1 := match r.op with
      | .load off => s.answer r off (s.readAt r.sp r.pa r.len).2.1 all 0
      | .atom _ _ _ true => s.answer r 0 (s.readAt r.sp r.pa r.len).2.1 all 0
      | .atom _ _ _ false | .sems _ => s
      | _ => s.perform r
    s1.retire r

/-- The host port completes a request to host memory (R325, R468); `outside` is what the host has written since. -/
def execHostPortCompletion (id : Nat) (outside : List Host.Cell) (poison : Bool) (s : State) : Host.Outcome State Fault Refusal :=
  event s (match s.due id with
    | some r => if r.sp == .host then some ((s.outsideWrites .host outside).performOutside r poison) else none
    | none => none)

/-- A peer acknowledges a request (R474); `outside` is what has been written in the peers since. -/
def execPeerAcknowledgement (id : Nat) (outside : List Host.Cell) (poison : Bool) (s : State) : Host.Outcome State Fault Refusal :=
  event s (match s.due id with
    | some r =>
      if r.sp == .peer && s.peerOk (bits r.pa 51 40) then some ((s.outsideWrites .peer outside).performOutside r poison) else none
    | none => none)

end Sys2Proof.Machine
end

