-- ==== Sys2Proof/Machine/Commands.lean ====
section
/-! DEFINITION. Commands of every engine queue (R136, R173 to R175, R183 to R185, R299): tokens, near-memory launches, flushes, clocks and
wake hints at issue; a command's start and its finish. -/

namespace Sys2Proof.Machine

/-! Issue. -/

/-- R174: with `.strand` the bundle holds until a token is popped. -/
def execTwait (h : MHead) (e : BitVec 4) (s : State) : Host.Outcome State Fault Refusal :=
  mSyllable s h (fun _ => []) (fun t =>
    if e != 0 then enqueue s t h e.toNat (.twait h e) {}
    else if !t.tkOk h 0 then trapIf s 0x03 0
    else if !t.hasTk h.tkw.toNat then .hold s
    else .ok (s.setMe (t.takeTk h.tkw.toNat)))

/-- R174: with `.strand` the bundle holds while the token queue is full. -/
def execTsig (h : MHead) (e : BitVec 4) (s : State) : Host.Outcome State Fault Refusal :=
  mSyllable s h (fun _ => []) (fun t =>
    if e != 0 then enqueue s t h e.toNat (.tsig h e) {}
    else if !t.tkOk h 0 then trapIf s 0x03 0
    else if !t.roomTk h.tks.toNat then .hold s
    else .ok (s.setMe (t.pushTk h.tks.toNat)))

/-- R183. -/
def execNlaunch (h : MHead) (opa opb param : GReg) (arg : Bool) (s : State) : Host.Outcome State Fault Refusal :=
  mSyllable s h (fun _ => [.g opa.toNat, .g opb.toNat] ++ (if arg then [.g param.toNat] else [])) (fun t =>
    let u := t.g opa
    let e := t.g opb
    let p := t.g param
    if u.poison || e.poison || (arg && p.poison) then trapIf s 0x1A 0
    else if 127 < u.val.toNat || 8191 < e.val.toNat then trapIf s 0x03 0
    else enqueue s t h 11 (.nlaunch h opa opb param arg)
      { fill := fun c => { c with ops := #v[u.val, e.val, if arg then p.val else 0, 0] } })

/-- R175: the commands of one queue that have not started are discarded; gd takes the oldest one's address tag. -/
def execQflush (h : MHead) (e : BitVec 4) (gd : GReg) (s : State) : Host.Outcome State Fault Refusal :=
  mSyllable s h (fun _ => [.g gd.toNat]) (fun t =>
    let ds := (t.queue e.toNat).filter (fun c => c.st == .waiting)
    let tag := (ds.head?.map (fun c => c.tag)).getD 0
    .ok (s.setMe ((t.discardCmds ds).fly (.g gd.toNat) (.s { val := tag, poison := false }) 0 4 true)))

/-- R184: the strand form waits until every result issued before it has landed. -/
def execClkdiv (h : MHead) (u : ClkUnit) (d : BitVec 5) (s : State) : Host.Outcome State Fault Refusal :=
  mSyllable s h (fun _ => []) (fun t =>
    match u with
    | .array => enqueue s t h 1 (.clkdiv h u d) {}
    | .copy => enqueue s t h 2 (.clkdiv h u d) {}
    | .strand =>
      if t.flights.any (fun f => f.bundle < t.bundle) then .hold s
      else .ok (s.setMe { t with pend := t.pend ++ [.clkdiv d.toNat] }))

/-- R185: a hint; a bank outside the allotment is ignored, a full bank's idle count starts again. -/
def execWake (h : MHead) (u : WakeUnit) (s : State) : Host.Outcome State Fault Refusal :=
  mSyllable s h (fun _ => []) (fun t =>
    let s := s.setMe t
    match u with
    | .array => .ok (s.wakeArray (coreOf s.cur))
    | .vbank k => .ok (s.setMe ((t.wakeBank k.toNat).touch (4 * k.toNat)))
    | .spbank k => .ok (if (s.spmask s.cur).getLsbD k.toNat then s.wakeSp (coreOf s.cur) k.toNat else s))

/-! Start (R136, R165, R169, R173, R181, R183). -/

def isCopy : Instr → Bool
  | .copy _ _ _ _ _ _ _ _ | .copyt _ _ _ _ _ _ _ _ _ _ => true
  | _ => false
def isPstart : Instr → Bool
  | .pstart _ _ => true
  | _ => false
def isPstop : Instr → Bool
  | .pstop _ _ => true
  | _ => false

/-- Copies of a strand that run. -/
def Strand.copies (t : Strand) : Nat := (t.e.cmds.filter (fun c => isCopy c.op && c.st == .running)).length

/-- The command of a queue that starts next: the head; a `pstop` behind a running `pstart`; in the copy and near queues the first that
has not started. -/
def Strand.nextToStart (t : Strand) (e : Nat) : Option Cmd :=
  if e == 2 || e == 11 then (t.queue e).find? (fun c => c.st == .waiting)
  else match t.queue e with
    | c :: d :: _ =>
      if c.st == .waiting then some c
      else if c.st == .running && isPstart c.op && d.st == .waiting && isPstop d.op then some d else none
    | [c] => if c.st == .waiting then some c else none
    | [] => none

/-- What a start needs beyond its token: of a launch, that every access before its fork, and every store of its core published before it, is
performed (R176, R331). -/
def State.mayStart (s : State) (n : Nat) (c : Cmd) : Bool :=
  let t := s.strand n
  match c.op with
  | .pstart _ q => t.mayBegin (portNo q)
  | .copy _ _ _ _ _ _ _ _ | .copyt _ _ _ _ _ _ _ _ _ _ => t.copies < 12 && t.copies + (s.strand (otherOf n)).copies < 16
  | .nlaunch _ _ _ _ _ =>
    s.net.all (fun e => c.id ≤ e.id || e.done || (e.src != .strand n && !(e.pub && e.src.core == some (coreOf n))))
  | _ => true

/-- A command starts: its token is taken, and it runs. A launch joins its unit's queue; those behind the sixteenth are refused and sent again
in their order (R192, R236; log entry 99). -/
def State.startCmd (s : State) (n : Nat) (c : Cmd) : State :=
  let t := ((s.strand n).takeTk c.tkw).setCmd { c with st := .running }
  match c.op with
  | .pstart _ q => (s.setStrand n (t.beginStream (portNo q) c)).forget (.port n (portNo q))
  | .pstop _ q =>
    let k := portNo q
    let p := vAt t.e.ports k
    let ahead : Bool := match t.queue c.engine with | d :: _ => d.id != c.id && isPstart d.op && d.st == .running | [] => false
    s.setStrand n (if ahead then t.setPort k { p with stopped := true } else t)
  | .nlaunch _ _ _ _ arg =>
    let u := (vAt c.ops 0).toNat
    if !s.nmuOk (coreOf n) u 2 then
      -- refused by the unit's table (R183): the command ends with 0x40
      let t := t.stopCmd c { cause := 0x40 }
      s.setStrand n (t.dropCmd c.id)
    else
      let l : NLaunch := { fromCmd := some (n, c.id), kernel := t.kernel, asid := t.sys.asid, entry := (vAt c.ops 1).toNat,
                           args := if arg then [vAt c.ops 2] else [], code := none }
      (s.setStrand n t).modNmu u (fun m => { m with queue := m.queue ++ [l] })
  | _ => s.setStrand n t

/-- A command starts (R136, R173); before a counted one of the holder a flip may fall (R156). -/
def execEngineCommandStart (n e : Nat) (s : State) : Host.Outcome State Fault Refusal :=
  let t := s.strand n
  event s (match t.nextToStart e with
    | some c =>
      if !t.engines || !t.hasTk c.tkw || !s.mayStart n c then none
      else if counted c.op && (s.core (coreOf n)).holder == some (n % 2) && s.flipDue n then some (s.endRun n)
      else some (s.startCmd n c)
    | none => none)

/-! Finish. -/

/-- A command that has ended leaves its queue once its token has room (R136). -/
def Strand.leave (t : Strand) (c : Cmd) : Option Strand := if t.roomTk c.tks then some ((t.dropCmd c.id).pushTk c.tks) else none

/-- Commands of the P queues: streams that are over, stops, images, tokens. -/
def State.portFinish (s : State) (n : Nat) (c : Cmd) : Option State :=
  let t := s.strand n
  let q := c.engine - 3
  if !(t.engines || t.leaving) || !t.isHead c then none
  else match c.op with
    | .pstart _ _ =>
      if t.engines && t.streamOver q then
        let p := vAt t.e.ports q
        some (s.setStrand n ((t.setPort q { p with cmd := none }).finishCmd c))
      else none
    | .psave _ _ _ => some (s.savePort n q c)
    | .pload _ _ _ => some (s.loadPort n q c)
    | _ => some (s.setStrand n (t.finishCmd c))

/-- Commands of the copy queue: copies; tokens, a `tsig` behind every earlier command; the divisor request. -/
def State.copyFinish (s : State) (n : Nat) (c : Cmd) : Option State :=
  let t := s.strand n
  if !(t.engines || t.leaving) then none
  else match c.op with
    | .copy _ _ _ _ _ _ kind _ => if kind == .ring then none else s.finishCopy n c kind 0
    | .copyt _ _ _ _ _ _ _ _ kind _ => if kind == .ring then none else s.finishCopy n c kind 0
    | .tsig _ _ => if t.isHead c then some (s.setStrand n (t.finishCmd c)) else none
    | .clkdiv _ _ d => some (s.setStrand n ({ t with e := { t.e with divC := d.toNat } }.finishCmd c))
    | _ => some (s.setStrand n (t.finishCmd c))

/-- Commands of the near queue but launches, which their unit finishes (R237). -/
def State.nearFinish (s : State) (n : Nat) (c : Cmd) : Option State :=
  let t := s.strand n
  if !(t.engines || t.leaving) then none
  else match c.op with
    | .nlaunch _ _ _ _ _ => none
    | .tsig _ _ => if t.isHead c then some (s.setStrand n (t.finishCmd c)) else none
    | _ => some (s.setStrand n (t.finishCmd c))

/-- A command finishes and pushes its token (R136, R173). -/
def execEngineCommandFinish (n id : Nat) (s : State) : Host.Outcome State Fault Refusal :=
  let t := s.strand n
  event s (match t.cmd id with
    | some c =>
      (match c.st with
       | .ending => (t.leave c).map (fun u => s.setStrand n u)
       | .running =>
         if c.engine == 1 then s.arrayFinish n c
         else if c.engine == 2 then s.copyFinish n c
         else if c.engine == 11 then s.nearFinish n c
         else s.portFinish n c
       | _ => none)
    | none => none)

end Sys2Proof.Machine
end

