-- ==== Sys2Proof/Machine/Fetch.lean ====
section
/-! DEFINITION. Fetching a bundle from the instruction store (R15, R103, R280), framing it (R14), and the registers and ports its
syllables write, pop and push, which R17 compares. -/

namespace Sys2Proof.Machine

/-- What a fetch finds. -/
inductive Fetched where
  | ok (ws : List Word)
  /-- the row that has to be loaded -/
  | miss (row : Nat)
  | fault (cause : BitVec 8) (tva : Word)
  deriving DecidableEq, Repr

/-- The code range of a strand's kernel. -/
def State.codeRange (s : State) (n : Nat) : Nat × Nat :=
  match s.kernel (s.strand n).kernel with
  | some k => (k.codeBase.toNat, k.codeLen)
  | none => (0, 0)

/-- The loaded row of a strand's kernel. -/
def State.rowOf (s : State) (n row : Nat) : Option Row :=
  (s.core (coreOf n)).rows.find? (fun r => r.kernel == (s.strand n).kernel && r.n == row)

/-- Parts of a row are still to be loaded. -/
def Row.loading (r : Row) : Bool := r.fault.any (fun f => f.2.2.1 == 0)

/-- One syllable at an address: the word, a row to load, or a cause. -/
def State.fetchOne (s : State) (n : Nat) (a : Word) : Except (Nat ⊕ (BitVec 7 × Word)) Word :=
  let c := s.codeRange n
  let o := a.toNat - c.1
  if winOf a != .d then .error (.inr (0x08, a))
  else if a.toNat < c.1 || c.1 + c.2 < a.toNat + 8 then .error (.inr (0x10, a))
  else match s.rowOf n (o / 4096) with
    | none => .error (.inl (o / 4096))
    | some r =>
      if r.loading then .error (.inl (o / 4096))
      else match r.fault.find? (fun f => f.1 < o % 4096 + 8 && o % 4096 < f.1 + f.2.1) with
      | some f => .error (.inr f.2.2)
      | none => .ok (BitVec.ofNat 64 (readNat r.code (o % 4096) 8))

/-- Syllables from an address up to the end of their bundle, which begins at pc, four at most; a part that is missing after the first
raises its cause with the straddle flag and its own first byte (R15). Poison in the bundle's first 64-byte line is no missing part. -/
def State.fetchFrom (s : State) (n : Nat) (pc : Word) : Nat → Word → Fetched
  | 0, _ => .ok []
  | k + 1, a =>
    match s.fetchOne n a with
    | .error (.inl row) => .miss row
    | .error (.inr (c, va)) =>
      if a == pc || (c == 0x41 && a.toNat / 64 == pc.toNat / 64) then .fault (c.zeroExtend 8) va
      else .fault (BitVec.ofNat 8 (128 + c.toNat)) a
    | .ok w =>
      if syllEnd w then .ok [w]
      else match s.fetchFrom n pc k (a + 8) with
        | .ok ws => .ok (w :: ws)
        | r => r

/-- The rows that len syllables at a strand's pc touch, first and last. -/
def State.rowsAt (s : State) (n len : Nat) : Nat × Nat :=
  let o := (s.strand n).pc.toNat - (s.codeRange n).1
  (o / 4096, (o + 8 * len - 1) / 4096)

/-- The cause and address of a fault met while a row was loaded. -/
def State.rowFault (s : State) (n row : Nat) : Option (BitVec 7 × Word) := (s.rowOf n row).bind (fun r => r.fault.head?.map (fun f => f.2.2))

/-- The bundle at the strand's pc; a row of its that could not be loaded whole faults it, wherever in the row that was (R280). -/
def State.fetch (s : State) (n : Nat) : Fetched :=
  match s.fetchFrom n (s.strand n).pc 4 (s.strand n).pc with
  | .ok ws =>
    let r := s.rowsAt n ws.length
    (match s.rowFault n r.1, s.rowFault n r.2 with
     | some f, _ => .fault (f.1.zeroExtend 8) f.2
     | none, some f => .fault (BitVec.ofNat 8 (128 + f.1.toNat)) (BitVec.ofNat 64 ((s.codeRange n).1 + 4096 * r.2))
     | none, none => .ok ws)
  | r => r

/-- Note the rows of a bundle as fetched now (R280). -/
def State.noteFetch (s : State) (n : Nat) (len : Nat) : State :=
  let r := s.rowsAt n len
  s.modCore (coreOf n) (fun x => { x with
    fetchNo := x.fetchNo + 1
    rows := x.rows.map (fun y => if y.kernel == (s.strand n).kernel && (y.n == r.1 || y.n == r.2) then { y with last := x.fetchNo } else y) })

/-- A load that failed has been reported: what needs the row again loads it again (R280). -/
def State.reported (s : State) (n : Nat) : State :=
  let r := s.rowsAt n 4
  s.modCore (coreOf n) (fun x => { x with
    rows := x.rows.filter (fun y => y.fault.isEmpty || y.kernel != (s.strand n).kernel || (y.n != r.1 && y.n != r.2)) })

/-- R14: classes strictly rising, and the fourth syllable ends. -/
def framed : List Word → Bool
  | [] => false
  | [w] => syllEnd w
  | w :: v :: ws => syllClass w < syllClass v && framed (v :: ws)

/-! R17. -/

/-- What a syllable writes, pops or pushes. -/
inductive Eff where
  | reg (d : Dst) | sys (n : Nat) | shape (k : Nat) | pop (q : Nat) | push (q : Nat)
  deriving DecidableEq, Repr

def effG (r : GReg) : List Eff := if r = 0 then [] else [.reg (.g r.toNat)]
def effP (t : Strand) (p : PRegNo) : List Eff := [.reg (.p (t.pp p.toNat))]
def effD (t : Strand) (o : Opnd) : List Eff := if o.isV then [.reg (.v (t.pv o.toNat))] else if o.isOut then [.push (o.toNat - 32)] else []
def effS (os : List Opnd) : List Eff := ((portsOf os).filter inbound).map (fun q => .pop q)

/-- The effects R17 compares, by syllable; registers resolved through the base before the bundle. -/
def effects (t : Strand) (i : Instr) : List Eff :=
  let bin (o : VBin) : List Eff := effD t o.vd ++ effS [o.va.o, o.vb.o]
  let ter (o : VTer) : List Eff := effD t o.vd ++ effS [o.va.o, o.vb.o, o.vc.o]
  let un (o : VUn) : List Eff := effD t o.vd ++ effS [o.va.o]
  let log (o : VLog) : List Eff := effD t o.vd ++ effS [o.va.o, o.vb.o]
  let amt (a : VAmt) : List Opnd := match a with | .vec v => [v.o] | .imm _ => []
  match i with
  | .add _ o | .sub _ o | .mul _ o | .mulh _ o | .mulhu _ o | .div _ o | .divu _ o | .rem _ o | .remu _ o | .and _ o | .or _ o
  | .xor _ o | .andn _ o | .shl _ o | .shr _ o | .sra _ o | .rot _ o | .min _ o | .max _ o | .minu _ o | .maxu _ o
  | .winq _ o => effG o.gd
  | .sel _ o _ _ => effG o.gd
  | .ld _ o _ _ => effG o.gd
  | .addi _ gd _ _ _ => effG gd
  | .abs _ o | .clz _ o | .ctz _ o | .popc _ o => effG o.gd
  | .bswap _ o _ => effG o.gd
  | .bfx _ gd _ _ _ _ | .bfi _ gd _ _ _ _ | .fsh _ gd _ _ _ | .li _ gd _ | .lih _ gd _ _ | .lea _ gd _ _ _ _
  | .movpToScalar _ gd _ _ | .call _ gd _ | .jr _ gd _ _ | .wfe _ gd _ _ | .pcnt _ gd _ | .pany _ gd _ | .shget _ gd _ _ _
  | .sysr _ gd _ => effG gd
  | .loop _ gd _ _ => effG gd ++ [.reg (.p (mapP (t.sys.rot + 1) 8)), .sys 3]
  | .cmp _ pd _ _ _ | .movpToPredicate _ pd _ _ | .psetPredicate _ pd _ | .pnot _ pd _ => effP t pd
  | .pand _ o | .por _ o | .pxor _ o => effP t o.pd
  | .fcmp _ pd _ _ _ _ => effP t pd
  | .fadd _ o | .fsub _ o | .fmul _ o => effG o.gd
  | .ffma _ o _ => effG o.gd
  | .fcvt _ gd _ _ _ _ _ => effG gd
  | .shset _ k _ _ => [.shape k.toNat]
  | .sysw _ n _ => [.sys n.toNat]
  | .vadd _ o | .vsub _ o | .vmul _ o | .vmin _ o | .vmax _ o => bin o
  | .vfma _ o | .vfms _ o | .vclamp _ o => ter o
  | .vabs _ o | .vneg _ o | .vpopc _ o | .vclz _ o | .vrcp _ o | .vrsq _ o | .vsqrt _ o | .vexp2 _ o | .vlog2 _ o
  | .vtanh _ o => un o
  | .vcvt _ o _ _ => un o
  | .vand _ o | .vor _ o | .vxor _ o => log o
  | .vsel _ o _ _ => log o
  | .vpack _ _ _ o _ => log o
  | .vdeq _ _ _ _ o _ => log o
  | .vnot _ vd va | .vmov _ vd va | .vpclr _ vd va | .vtrn _ vd va => effD t vd ++ effS [va.o]
  | .vunpk _ _ vd va _ => effD t vd ++ effS [va.o]
  | .vshl _ o | .vshr _ o | .vsra _ o | .vrot _ o => effD t o.vd ++ effS (o.va.o :: amt o.n)
  | .vbfx _ _ vd va pos _ _ => effD t vd ++ effS (va.o :: amt pos)
  | .vfsh _ _ vd va vb n => effD t vd ++ effS (va.o :: vb.o :: amt n)
  | .vcmp _ _ _ pd va vb => effP t pd ++ effS [va.o, vb.o]
  | .vli _ vd _ | .vbcs _ _ vd _ | .vmovpToVector _ vd _ => effD t vd
  | .vmovpToPredicate _ pd va | .vptest _ pd va => effP t pd ++ effS [va.o]
  | .vquant _ _ _ _ vd va _ => effD t vd ++ effS [va.o]
  | .vrotr _ o | .vrotc _ o | .vbcr _ o | .vbcc _ o => effD t o.vd ++ effS [o.va.o]
  | .vredr _ o | .vredc _ o | .vscanr _ o => effD t o.vd ++ effS [o.va.o]
  | .vgath _ vd va _ _ => effD t vd ++ effS [va.o]
  | .vlut _ _ vd va _ => effD t vd ++ effS [va.o]
  | .vscat _ va vb _ _ => effS [va.o, vb.o]
  | .mma _ _ _ _ a b => effS [a, b]
  | .mmai _ _ _ _ _ _ _ a b => effS [a, b]
  | .mmax _ _ _ _ a b _ _ => effS [a, b]
  | .mmaa _ _ _ _ _ _ a b => effS [a, b]
  | .mload _ _ a _ _ => effS [a]
  | .mdrain _ _ _ _ _ a _ b _ => effD t a ++ effS [b]
  | .qflush _ _ gd => effG gd
  | .vld _ vd _ _ _ => effD t vd
  | .vst _ va _ _ _ => effS [va.o]
  | .redx _ _ (.vector va) => effS [va]
  | .lget _ gd _ _ | .qstat _ gd _ _ => effG gd
  | .rclaim _ o | .rwaitf _ o | .rwaite _ o => effG o.gd
  | .rstat _ o _ => effG o.gd
  | .bwait _ _ gd _ _ => effG gd
  | .barw _ _ gd _ _ => effG gd ++ [.sys 0x00B]
  | .bstat _ gd _ _ => effG gd
  | .aadd _ o | .aand _ o | .aor _ o | .axor _ o | .amin _ o | .amax _ o | .aminu _ o | .amaxu _ o | .axchg _ o
  | .afadd _ o => effG o.gd
  | .acas _ o _ => effG o.gd
  | .acas2 _ gd _ _ _ _ _ => [.reg (.g gd.toNat), .reg (.g (gd.toNat + 1))]
  | .redfRd _ gd _ _ | .redfFin _ gd _ _ => effG gd
  | .redfSt _ gd _ => effG gd
  | .semw _ _ gd _ _ _ => effG gd
  | .ldacq _ _ gd _ _ _ _ => effG gd
  | .rgsplit _ o | .rgmerge _ o => effG o.gd
  | .rgpin _ o _ => effG o.gd
  | .rgprobe _ gd _ _ => effG gd
  | .launch _ gd _ _ => effG gd
  | _ => []

/-- Some two of a list of lists share an item. -/
def clash : List (List Eff) → Bool
  | [] => false
  | e :: es => es.any (fun f => e.any (fun x => f.contains x)) || clash es

/-- R17, for the syllables of a bundle whose opcodes are legal: an illegal bundle comes before an illegal operand (R18). -/
def conflicts (t : Strand) (ws : List Word) : Bool :=
  clash (ws.map (fun w => match (rawInstr w).filter opcodeOk with | some i => effects t i | none => []))

end Sys2Proof.Machine
end

