-- ==== Sys2Proof/Machine/Records.lean ====
section
/-! DEFINITION. Work queues and launch records (R261 to R272, R274): taking a slot, the checks of a record with its extension and init
table, readiness, ageing. Dispatcher 272 acts for both (log entry 40). -/

namespace Sys2Proof.Machine

/-- The dispatcher as a party and a master. -/
def dispatcher : Party := 272

/-- The source of what a record is taken by, and of what it does once it is held: its reads, its waiters, its queue's counts. -/
def takeSrc (q : Nat) : Src := .record 0 (2 * q + 1)
def Kernel.src (k : Kernel) : Src := .record 0 (2 * k.id)
def Kernel.who (k : Kernel) : Who := .record 0 (2 * k.id)

/-! Reading. -/

/-- What a read of the dispatcher comes to: progress of what it waits for, an error code, or a result. -/
inductive Disp (α : Type) where
  | wait (s : State)
  | fail (s : State) (code : Nat)
  | ok (s : State) (a : α)

/-- n bytes in window D under an ASID; error 0x05 where they cannot be had (R271). -/
def State.dispRead (s : State) (src : Src) (asid : BitVec 16) (a : Word) (n : Nat) : Disp (List Byte) :=
  if winOf a != .d then .fail s 5
  else
    let q := s.resolve src dispatcher 0 asid { r := true } 1 a n
    match q.2 with
    | .wait => .wait q.1
    | .fault _ _ => .fail q.1 5
    | .ok gs =>
      let r := q.1.getSegs src asid gs
      match r.2 with
      | none => .wait r.1
      | some bs => if bs.any (fun b => b.2) then .fail r.1 5 else .ok r.1 (bs.map (fun b => b.1))

/-- The entries of an init table (R270) up to the first of kind 0; more than 256 are an illegal table. -/
def State.initTable (s : State) (src : Src) (asid : BitVec 16) : Nat → Word → Disp (List (BitVec 64 × Word))
  | 0, _ => .fail s 4
  | k + 1, a =>
    match s.dispRead src asid a 16 with
    | .wait s1 => .wait s1
    | .fail s1 c => .fail s1 c
    | .ok s1 bs =>
      let w := BitVec.ofNat 64 (word bs 0)
      if w.setWidth 8 == 0 then .ok s1 []
      else match s1.initTable src asid k (a + 16) with
        | .ok s2 es => .ok s2 ((w, BitVec.ofNat 64 (word bs 1)) :: es)
        | r => r

/-! Shapes (R268, R286). -/

/-- The counts n0 to n4 of a shape word, and its lead allowance. -/
def shapeN (w : Word) (j : Nat) : Nat :=
  match j with
  | 0 => wbits w 3 0
  | 1 => wbits w 11 4
  | 2 => wbits w 19 12
  | 3 => wbits w 31 20
  | _ => wbits w 47 32
def shapeA (w : Word) : BitVec 8 := w.extractLsb' 48 8

/-- Levels used: none with n0 = 0, else up to the last before a count of 0. -/
def shapeLevels (w : Word) : Nat := ((List.range 5).takeWhile (fun j => shapeN w j != 0)).length

/-- S(L). -/
def shapeS (w : Word) : Nat → Nat
  | 0 => shapeN w 0
  | l + 1 => shapeS w l * shapeN w (l + 1)

/-- Barriers that a shape needs. -/
def shapeBars (w : Word) : Nat :=
  match shapeLevels w with
  | 0 => 0
  | 1 => 1
  | 2 => 3
  | 3 => 6
  | 4 => 10
  | _ => 14

/-- Set bits of a mask, ascending. -/
def setBitsOf (n m : Nat) : List Nat := (List.range n).filter (fun i => m.testBit i)

/-- The barrier of node j of tree L: its set bit of barmask, counted from the highest (R286). -/
def nodeBar (barmask : BitVec 128) (l j : Nat) : Nat := (setBitsOf 128 barmask.toNat).reverse.getD (l * (l + 1) / 2 + j) 0

/-- A parent descriptor that `bset` takes (R211). -/
def parentOk (w : Word) : Bool :=
  let pkg := (parentPkg w).toNat
  w &&& ~~~0x8000FFFF0000FF7F == 0 && (wbit w 63 || w == 0) && parentCore w ≤ 143 && !(0x1000 ≤ pkg && pkg < 0xFFFF)

/-- R268. -/
def shapeOk (w : Word) (strands : Nat) (barmask : BitVec 128) (link : Word) : Bool :=
  let l := shapeLevels w
  (List.range 5).all (fun j => j < l || shapeN w j == 0) &&
  shapeN w 0 ≤ 2 && shapeN w 1 ≤ 16 && shapeN w 2 ≤ 144 && shapeN w 3 ≤ 288 &&
  (l == 0 || strands == shapeS w (min (l - 1) 3)) &&
  (l < 2 || shapeS w 1 ≤ 16) && (l < 3 || shapeS w 2 ≤ 144) && (l < 4 || shapeS w 3 ≤ 288) &&
  (l < 5 || (wbit link 63 && parentOk link)) &&
  shapeBars w ≤ (setBitsOf 128 barmask.toNat).length

/-! Init tables (R270). -/

/-- The parts of an entry's first word. -/
def entKind (e : BitVec 64 × Word) : Nat := wbits e.1 7 0
def entIndex (e : BitVec 64 × Word) : Nat := wbits e.1 15 8
def entField (e : BitVec 64 × Word) : Nat := wbits e.1 23 16

/-- One ring field written; none where `rinit` would refuse it or the base lies outside the allotment. -/
def ringPut (spmask : BitVec 32) (r : Ring) (field : Nat) (v : Word) : Option Ring :=
  let n := v.toNat
  match field with
  | 0 => if n < 0x400000 && n % 16 == 0 && spmask.getLsbD (bankOf n) then some { r with base := BitVec.ofNat 22 n } else none
  | 1 => if ringCount n then some { r with ns := n } else none
  | 2 => if n % 16 == 0 && 16 ≤ n && n ≤ 65536 then some { r with sb := n } else none
  | _ => none

/-- One barrier field written; none where `bset` would refuse it. -/
def barPut (b : Barrier) (field : Nat) (v : Word) : Option Barrier :=
  match field with
  | 0 => if 1 ≤ v.toNat && v.toNat < 2 ^ 16 then some { b with c := v.setWidth 16 } else none
  | 1 => if parentOk v then some { b with parent := v } else none
  | _ => none

/-- The barriers of a core after entries, from those that stand there: each with the shape's lead allowance and phase 0. -/
def applyBars (a : BitVec 8) : List (BitVec 64 × Word) → Tbl Barrier → Option (Tbl Barrier)
  | [], t => some t
  | e :: es, t =>
    if entKind e == 3 then
      match barPut ((tget t (entIndex e)).getD Barrier.reset) (entField e) e.2 with
      | some b => applyBars a es (tput t (entIndex e) { b with a := a, ph := 0 })
      | none => none
    else applyBars a es t

/-- The rings of a core after entries. -/
def applyRings (spmask : BitVec 32) : List (BitVec 64 × Word) → Tbl Ring → Option (Tbl Ring)
  | [], t => some t
  | e :: es, t =>
    if entKind e == 2 then
      match ringPut spmask ((tget t (entIndex e)).getD Ring.reset) (entField e) e.2 with
      | some r => applyRings spmask es (tput t (entIndex e) r)
      | none => none
    else applyRings spmask es t

/-- The layouts after entries. -/
def applyLayouts : List (BitVec 64 × Word) → Vector Layout 32 → Option (Vector Layout 32)
  | [], t => some t
  | e :: es, t =>
    if entKind e == 1 then
      match (vAt t (entIndex e)).put (entField e) e.2 with
      | some l => applyLayouts es (vSet t (entIndex e) l)
      | none => none
    else applyLayouts es t

/-- The domain barriers of a shape with their counts on the core whose first strand has rank r, as `applyBars` finds them (R286). -/
def shapeBarTable (w : Word) (barmask : BitVec 128) (r : Nat) : Tbl Barrier :=
  (List.range (shapeLevels w)).foldl (fun (t : Tbl Barrier) l =>
    (List.range (min l 3 + 1)).foldl (fun (t : Tbl Barrier) j =>
      if r % shapeS w j != 0 then t else tput t (nodeBar barmask l j) { Barrier.reset with c := BitVec.ofNat 16 (shapeN w j) }) t) []

/-- A legal init table for the allotment, on every core that a kernel of so many strands holds. -/
def initOk (spmask ringmask : BitVec 32) (barmask : BitVec 128) (shape : Word) (strands : Nat) (es : List (BitVec 64 × Word)) : Bool :=
  es.all (fun e =>
    wbits e.1 63 24 == 0 &&
    (match entKind e with
     | 1 => decide (entIndex e < 32)
     | 2 => decide (entIndex e < 32) && ringmask.getLsbD (entIndex e)
     | 3 => decide (entIndex e < 128) && barmask.getLsbD (entIndex e)
     | _ => false)) &&
  (applyLayouts es (Vector.replicate 32 Layout.reset)).isSome &&
  (match applyRings spmask es [] with
   | some t => t.all (fun e =>
      e.2.ns != 0 && e.2.sb != 0 && spmask.getLsbD (bankOf e.2.base.toNat) && e.2.base.toNat + e.2.ns * e.2.sb ≤ 0x400000)
   | none => false) &&
  ((List.range (max 1 strands)).filter (fun r => r % max 1 (shapeS shape 0) == 0)).all (fun r =>
    match applyBars (shapeA shape) es (shapeBarTable shape barmask r) with
    | some t => t.all (fun e => e.2.c != 0)
    | none => false)

/-! Records (R265, R267, R271). -/

/-- Type K. -/
def isK (typ : Nat) : Bool := typ == 1

/-- Checks 0x02 and 0x03 of a record's 64 bytes. -/
def recordCode (bs : List Byte) : Option Nat :=
  let w := word bs 0
  let typ := bits w 3 0
  let k := isK typ
  let nargs := bits w 51 48
  let rows := bits w 46 41 + 1
  let strands := bits w 40 32
  let base := BitVec.ofNat 64 (word bs 1)
  let len := bits (word bs 2) 31 0
  let entry := bits (word bs 2) 63 32
  let masks := word bs 4
  if 2 < typ then some 1
  else if bit w 47 || bits w 15 14 != 0 || bit w 7 || bits (word bs 3) 63 56 != 0 || 8 < nargs || 2 < bits w 53 52 || 4 < bits w 56 54 ||
      (if k then bit w 6 || strands == 0 || 288 < strands
       else bit w 4 || bits w 46 41 != 0 || strands != 0 || masks != 0 || 8 < nargs + bits w 6 6) then some 2
  else if winOf base != .d then some 3
  else if (if k then base.toNat % 8 != 0 || len < 8 || len % 8 != 0 || entry % 8 != 0 || 4096 * rows ≤ entry || (rows < 2 && 4096 * rows < len)
      else base.toNat % 2 != 0 || len < 2 || 16384 < len || len % 2 != 0 || entry % 2 != 0 || len ≤ entry) then some 3
  else match classify base len with
    | .ok _ => none
    | .error _ => some 3

/-- Whether the code range of a type N record translates to device memory alone; a part that no range covers says nothing here (R288). -/
def State.codeClass (s : State) (src : Src) (asid : BitVec 16) : Nat → Nat → Nat → Disp Unit
  | 0, _, _ => .ok s ()
  | k + 1, va, len =>
    match s.rtFind dispatcher asid va with
    | none =>
      let w := s.askWalk src asid va
      (match w.2 with
       | some _ => .ok w.1 ()
       | none => .wait w.1)
    | some e =>
      let n := min len (e.r.base + e.r.size - va)
      if translated va e.r.offset / 2 ^ 52 != 0 || translated (va + n - 1) e.r.offset / 2 ^ 52 != 0 then .fail s 3
      else if len ≤ n then .ok s () else s.codeClass src asid k (va + n) (len - n)

/-- What a record's extension and init table give. -/
structure Ext where
  bytes : List Byte
  init : List (BitVec 64 × Word)
  deriving DecidableEq, Repr

/-- R269 to R271: the extension with its init table. -/
def State.readExt (s : State) (src : Src) (asid : BitVec 16) (bs : List Byte) : Disp Ext :=
  let w := word bs 0
  let a := BitVec.ofNat 64 (word bs 7)
  let needs := bits w 56 48 != 0 || shapeN (BitVec.ofNat 64 (word bs 3)) 4 != 0
  if a == 0 then (if needs then .fail s 5 else .ok s { bytes := List.replicate 192 0, init := [] })
  else if a.toNat % 64 != 0 then .fail s 5
  else match s.dispRead src asid a 192 with
    | .wait s1 => .wait s1
    | .fail s1 c => .fail s1 c
    | .ok s1 x =>
      if x.drop 0xB4 != List.replicate 12 0 then .fail s1 2
      else
        let t := BitVec.ofNat 64 (word x 21)
        if t == 0 then .ok s1 { bytes := x, init := [] }
        else if t.toNat % 16 != 0 then .fail s1 4
        else match s1.initTable src asid 257 t with
          | .wait s2 => .wait s2
          | .fail s2 c => .fail s2 c
          | .ok s2 es => .ok s2 { bytes := x, init := es }

/-- The held record that a slot's bytes, its extension and its queue's configuration make. -/
def mkKernel (id q : Nat) (index : BitVec 32) (cfg : Nat) (bs : List Byte) (x : Ext) : Kernel :=
  let w := word bs 0
  let k := isK (bits w 3 0)
  let e := x.bytes
  let bar := BitVec.ofNat 128 (ofBytes ((bs.drop 0x28).take 16))
  let pair (i : Nat) : Word × Word := (BitVec.ofNat 64 (word e i), BitVec.ofNat 64 (word e (i + 1)))
  { id := id, queue := q, index := index, typ := bits w 3 0, stage := 0, prio := bits w 13 8, pcap := bits cfg 45 40, age := 0,
    sbound := bits cfg 39 32, weight := bits cfg 15 12 + 1, ooo := bit cfg 11, die := bits cfg 8 7, asid := BitVec.ofNat 16 (bits cfg 31 16),
    gang := bit w 4, nodep := bit w 5, nid := bit w 6, codeBase := BitVec.ofNat 64 (word bs 1), codeLen := bits (word bs 2) 31 0,
    entry := bits (word bs 2) 63 32, rows := if k then bits w 46 41 + 1 else 0, strands := bits w 40 32,
    shape := BitVec.ofNat 64 (word bs 3), spmask := BitVec.ofNat 32 (bits (word bs 4) 31 0),
    ringmask := BitVec.ofNat 32 (bits (word bs 4) 63 32), barmask := bar,
    args := (List.range (bits w 51 48)).map (fun i => BitVec.ofNat 64 (word e i)), link := BitVec.ofNat 64 (word e 20),
    dom4 := BitVec.ofNat 64 (word e 22), init := x.init, sems := (List.range (bits w 53 52)).map (fun i => pair (8 + 2 * i)),
    inputs := (List.range (bits w 56 54)).map (fun i => pair (12 + 2 * i)), placed := [], ended := [], ranks := [], gone := 0, endNo := 0,
    nmus := if k then [] else setBitsOf 128 bar.toNat, evict := .none, owed := [], steps := [], startNo := 0, hostEnd := false }

/-- Check 0x04 of a record. -/
def State.shapeCode (s : State) (k : Kernel) : Option Nat :=
  if !shapeOk k.shape k.strands k.barmask k.link then some 4
  else if !initOk k.spmask k.ringmask k.barmask k.shape k.strands k.init then some 4
  else if !isK k.typ && (k.barmask == 0 || k.nmus.any (fun u => !s.nmuOk dispatcher u 2)) then some 4
  else none

/-- The checks of a type K or N record, in the order of their codes as far as its parts can be read (R271). -/
def State.admission (s : State) (q : Nat) (index : BitVec 32) (cfg : Nat) (bs : List Byte) : Disp Kernel :=
  let asid := BitVec.ofNat 16 (bits cfg 31 16)
  match recordCode bs with
  | some c => .fail s c
  | none =>
    let code : Disp Unit := if isK (bits (word bs 0) 3 0) then .ok s ()
      else s.codeClass (takeSrc q) asid 16 (word bs 1) (bits (word bs 2) 31 0)
    match code with
    | .wait s1 => .wait s1
    | .fail s1 c => .fail s1 c
    | .ok s1 _ =>
      match s1.readExt (takeSrc q) asid bs with
      | .wait s2 => .wait s2
      | .fail s2 c => .fail s2 c
      | .ok s2 x =>
        let k := mkKernel s2.d.nextId q index cfg bs x
        match s2.shapeCode k with
        | some c => .fail s2 c
        | none => .ok s2 k

/-! Taking (R263, R271). -/

/-- A write of the dispatcher to the descriptor of a queue, as its home admits it. -/
def State.queueWrite (s : State) (src : Src) (q off : Nat) (op : ReqOp) : State :=
  let pa := s.queueAt q + off
  if s.dramOk dispatcher true pa then
    s.send { mkReq src op { sp := .dram, pa := pa, len := 4, va := 0, off := 0 } 0 0 with rel := true }
  else s
def storeOp (n v : Nat) : ReqOp := .store (toBytes n v) (List.replicate n 0)

/-- The error word (R261). -/
def State.queueError (s : State) (src : Src) (q code : Nat) (index : BitVec 32) : State :=
  s.queueWrite src q 28 (storeOp 4 (code * 2 ^ 24 + index.toNat % 2 ^ 24))

/-- One record more is done (R261, R284). -/
def State.queueDone (s : State) (src : Src) (q : Nat) : State := s.queueWrite src q 24 (.atom .add 1 0 false)

/-- A record retired unrun; code 0: with no error. -/
def State.retireRecord (s : State) (src : Src) (q code : Nat) (index : BitVec 32) : State :=
  if code == 0 then s.queueDone src q else (s.queueError src q code index).queueDone src q

/-- Records in the held table (R263). -/
def State.heldCount (s : State) : Nat := (s.d.kernels.filter (fun k => k.stage < 3)).length

/-- The slot at the consumer index, under its descriptor's bytes (R263, R271). -/
def State.takeSlot (s : State) (q : Nat) (bs : List Byte) : State :=
  let src := takeSrc q
  let cfg := word bs 1
  let cons := bits (word bs 2) 63 32
  let idx := BitVec.ofNat 32 cons
  let slot := word bs 0 + 64 * (cons % 2 ^ bits cfg 4 0)
  let took (s : State) : State := (s.forget src).queueWrite src q 20 (storeOp 4 (cons + 1))
  let r := if s.dramOk dispatcher false slot then s.readZoned src slot 64 else (s, .none)
  match r.2 with
  | .wait => r.1
  | .none => (took r.1).retireRecord src q 5 idx
  | .data _ true => (took r.1).retireRecord src q 5 idx
  | .data w false =>
    let c := word w 0
    if bits c 31 16 != cons % 2 ^ 16 || bits c 63 57 != cons / 2 ^ 16 % 2 ^ 7 then r.1.forget src
    else if bits c 3 0 == 0 then (took r.1).retireRecord src q 0 idx
    else match r.1.admission q idx cfg w with
      | .wait s1 => s1
      | .fail s1 code => (took s1).retireRecord src q code idx
      | .ok s1 k =>
        let s2 := took s1
        { s2 with d := { s2.d with kernels := s2.d.kernels ++ [k], nextId := s2.d.nextId + 1 } }

/-- The dispatcher reads a queue's descriptor, and takes its next slot or retires it (R263, R271). -/
def execQueueTake (q : Nat) (s : State) : Host.Outcome State Fault Refusal :=
  event s (
    let src := takeSrc q
    if 65536 ≤ q then none
    else
      let d := s.queueDesc src dispatcher q
      match d.2 with
      | .wait => some d.1
      | .none => some (d.1.forget src)
      | .data _ true => some (d.1.forget src)
      | .data bs false =>
        let cfg := word bs 1
        let prod := bits (word bs 2) 31 0
        let cons := bits (word bs 2) 63 32
        let lg := bits cfg 4 0
        let n := (prod + 2 ^ 32 - cons) % 2 ^ 32
        if n == 0 || !d.1.dramOk dispatcher true (d.1.queueAt q) then some (d.1.forget src)
        else if bits cfg 63 46 != 0 || bits cfg 6 5 != 0 || bits cfg 8 7 == 3 || 20 < lg then some ((d.1.forget src).queueError src q 9 0)
        else if !bit cfg 10 then some (d.1.forget src)
        else if 2 ^ lg < n then some ((d.1.forget src).queueError src q 8 (BitVec.ofNat 32 cons))
        else if 4096 ≤ d.1.heldCount then some (d.1.forget src)
        else some (d.1.takeSlot q bs))

/-! Readiness (R272). -/

/-- A condition of a held record: an error that retires it, a wait, or whether it holds now. -/
abbrev Cond := Disp Bool

/-- A semaphore condition: its waiter stands at the word's home, where the word meets it now or does not; one that is poisoned or not
resident does not. -/
def State.semCond (s : State) (k : Kernel) (x : Word × Word) : Cond :=
  if winOf x.1 != .d || x.1.toNat % 8 != 0 then .fail s 7
  else match s.waiters.find? (fun (w : Waiter) => w.who == k.who && w.va == x.1 && w.cmp == x.2) with
    | some w => .ok s (match w.test s with | some (_, false) => true | _ => false)
    | none =>
      if s.net.any (fun e => e.src == k.src && e.va == x.1 && (match e.op with | .semw _ c => c == x.2 | _ => false)) then .ok s false
      else
        let q := s.resolve k.src dispatcher 0 k.asid { r := true } 8 x.1 8
        match q.2 with
        | .wait => .ok q.1 false
        | .fault c _ => if c == 0x12 || c == 0x41 then .ok (q.1.forget k.src) false else .fail q.1 7
        | .ok gs => .ok (q.1.sendAll (gs.map (fun g => { mkReq k.src (.semw false x.2) g k.asid 0 with acq := true }))) false

/-- One granule of a declared input: resident, or its fill asked for, of the fill engine or of the host driver. -/
def State.inputGranule (s : State) (k : Kernel) (e : RtEntry) (va : Nat) : Cond :=
  let g := e.r.granule va
  let gva := e.r.granuleVa g
  if e.kept.contains g then .ok s true
  else match s.denied k.src e.asid gva with
    | some _ => .fail s 6
    | none =>
      let q := s.mapBit dispatcher e.r g
      match q.2 with
      | .error none => .ok q.1 false
      | .error (some c) => .fail q.1 (if c == 0x10 then 5 else 6)
      | .ok true =>
        .ok ((q.1.mapped dispatcher).setRtab dispatcher ((q.1.rtab dispatcher).map (fun x => if x == e then { x with kept := g :: x.kept } else x)))
          true
      | .ok false =>
        let h := q.1.dirEntry (.walker dispatcher 0) e.asid
        match h.2 with
        | .error none => .ok h.1 false
        | .error (some _) => .fail h.1 5
        | .ok de =>
          let s := h.1.mapped dispatcher
          match s.fillOf e.asid gva with
          | some f => .ok (if f.waiting.contains k.src then s else s.askFill k.src e.asid gva none) false
          | none =>
            let s1 := s.askFill k.src e.asid gva none
            if de.hfill then .ok s1 false
            else
              .ok ({ s1 with fills := s1.fills.map (fun (f : Fill) =>
                if f.asid == e.asid && f.gva == gva && s1.fillLive f then { f with hostAsked := true } else f) }.ask 2 (e.asid.setWidth 64)
                (BitVec.ofNat 64 gva)) false

/-- A declared input from va: every granule resident; fills for those that are not. -/
def State.inputCond (s : State) (kn : Kernel) : Nat → Nat → Nat → Cond
  | 0, _, _ => .fail s 7
  | k + 1, va, len =>
    match s.rtFind dispatcher kn.asid va with
    | none =>
      let w := s.askWalk kn.src kn.asid va
      (match w.2 with
       | some _ => .fail w.1 7
       | none => .wait w.1)
    | some e =>
      let r := e.r
      if !r.r then .fail s 7
      else
        let stop := if r.partialRes then min (r.base + r.size) (r.granuleVa (r.granule va + 1)) else r.base + r.size
        let n := min len (stop - va)
        let c : Cond := if r.partialRes then s.inputGranule kn e va else .ok s true
        match c with
        | .ok s1 b =>
          if len ≤ n then .ok s1 b
          else (match s1.inputCond kn k (va + n) (len - n) with
            | .ok s2 b2 => .ok s2 (b && b2)
            | r => r)
        | r => r

/-- Every condition, one after another. -/
def allCond : List (State → Cond) → State → Cond
  | [], s => .ok s true
  | f :: fs, s =>
    match f s with
    | .ok s1 b => (match allCond fs s1 with | .ok s2 b2 => .ok s2 (b && b2) | r => r)
    | r => r

/-- The conditions of a record. -/
def Kernel.conds (k : Kernel) : List (State → Cond) :=
  k.sems.map (fun x s => s.semCond k x) ++
  k.inputs.map (fun x s =>
    if winOf x.1 != .d || x.2 == 0 || 2 ^ 40 < x.2.toNat then .fail s 7
    else s.inputCond k (x.2.toNat / 2 ^ 21 + 66) x.1.toNat x.2.toNat)

/-- A record is held no longer: it waits for nothing. -/
def State.unhold (s : State) (k : Kernel) : State :=
  ((s.withdrawAll (s.net.filter (fun e => e.src == k.src && e.op.isSemw))).dropWaiter k.who).forget k.src

/-- A held record walks its inputs and tests its conditions: it is ready when all hold at this moment (R272). -/
def execRecordReady (h : Nat) (s : State) : Host.Outcome State Fault Refusal :=
  event s (match s.kernel h with
    | some k =>
      if k.stage != 0 then none
      else match allCond k.conds s with
        | .wait s1 => some s1
        | .fail s1 code =>
          let s2 := (s1.unhold k).retireRecord k.src k.queue code k.index
          some { s2 with d := { s2.d with kernels := s2.d.kernels.filter (fun x => x.id != h) } }
        | .ok s1 b => some (if b then (s1.unhold k).setKernel { k with stage := 1 } else s1)
    | none => none)

/-- A record has waited for its starvation bound once more (R274). -/
def execPriorityAgeing (h : Nat) (s : State) : Host.Outcome State Fault Refusal :=
  event s (match s.kernel h with
    | some k => if k.stage < 2 && k.sbound != 0 && k.age < 4 then some (s.setKernel { k with age := k.age + 1 }) else none
    | none => none)

end Sys2Proof.Machine
end

