-- ==== Sys2Proof/Machine/Placement.lean ====
section
/-! DEFINITION. Order of dispatch, placement, pre-emption requests, instruction-store rows, start and end (R273 to R288). -/

namespace Sys2Proof.Machine

/-! What a kernel may share a core with (R278, R279). -/

def Kernel.isSaved (k : Kernel) : Bool := match k.evict with | .saved _ _ => true | _ => false

/-- The kernel holds core c. -/
def Kernel.holds (k : Kernel) (c : Nat) : Bool := !k.isSaved && k.placed.any (fun n => coreOf n == c)

/-- The kernel has a strand on core c that has not ended. -/
def State.livesOn (s : State) (k : Kernel) (c : Nat) : Bool :=
  [2 * c, 2 * c + 1].any (fun n => (s.strand n).phase != .idle && (s.strand n).kernel == k.id)

/-- Core c's allotment for kernel k next to the kernels there, but for those in freed: disjoint masks, at most 64 rows, scratchpad
granted by the core's table (log entry 41). -/
def State.compatible (s : State) (k : Kernel) (freed : List Nat) (c : Nat) : Bool :=
  let there := s.d.kernels.filter (fun x => x.id != k.id && !freed.contains x.id)
  there.all (fun x => !x.holds c || (x.spmask &&& k.spmask == 0 && x.ringmask &&& k.ringmask == 0 && x.barmask &&& k.barmask == 0)) &&
  ((there.filter (fun x => s.livesOn x c)).foldl (fun a x => a + x.rows) k.rows) ≤ 64 &&
  (k.spmask == 0 || ((tget (s.master c).sp c).getD 0) == 3)

/-- Slot n is open to a unit of kernel k. -/
def State.fits (s : State) (k : Kernel) (freed : List Nat) (n : Nat) : Bool :=
  let t := s.strand n
  n < numStrands && (t.phase == .idle || freed.contains t.kernel) &&
  (match k.die with | 0 => dieOf (coreOf n) == 0 | 1 => dieOf (coreOf n) == 1 | _ => true) &&
  s.compatible k freed (coreOf n)

/-- Strands of a unit (R277). -/
def Kernel.unit (k : Kernel) : Nat := if shapeLevels k.shape == 0 then 1 else shapeN k.shape 0

/-- Members of one level-L domain have the same f. -/
def together (slots : List Nat) (size : Nat) (f : Nat → Nat) : Bool :=
  (slots.zip (List.range slots.length)).all (fun e => f e.1 == f (slots.getD (e.2 / size * size) 0))

/-- R278 for slots that the next ranks take: no slot twice, each level-0 domain on one core of its own (log entry 42), rank 0 on strand 0;
without levels a slot is free again once its strand has ended (R277). -/
def Kernel.shapeFits (k : Kernel) (at' : List Nat) : Bool :=
  let l := shapeLevels k.shape
  let slots := k.placed ++ at'
  let s (j : Nat) := shapeS k.shape j
  let cores := (List.range ((slots.length + k.unit - 1) / k.unit)).map (fun u => coreOf (slots.getD (u * k.unit) 0))
  (if l == 0 then at'.Nodup else slots.Nodup) &&
  (l == 0 || (cores.Nodup && together slots (s 0) coreOf &&
    (s 0 != 2 || (slots.zip (List.range slots.length)).all (fun e => e.1 % 2 == e.2 % 2)))) &&
  (l < 2 || together slots (s 1) (fun n => clusterOf (coreOf n))) &&
  (l < 3 || together slots (s 2) (fun n => dieOf (coreOf n)))

/-- A whole level-0 domain fits core c. -/
def State.coreFits (s : State) (k : Kernel) (freed : List Nat) (c : Nat) : Bool :=
  if shapeN k.shape 0 == 2 then s.fits k freed (2 * c) && s.fits k freed (2 * c + 1)
  else s.fits k freed (2 * c) || s.fits k freed (2 * c + 1)

/-- Cores of a cluster that take a level-0 domain. -/
def State.clusterCap (s : State) (k : Kernel) (freed : List Nat) (cl : Nat) : Nat :=
  ((List.range 8).filter (fun i => s.coreFits k freed (8 * cl + i))).length
/-- Level-1 domains that a die takes. -/
def State.dieCap (s : State) (k : Kernel) (freed : List Nat) (d : Nat) : Nat :=
  (List.range 9).foldl (fun a i => a + s.clusterCap k freed (9 * d + i) / shapeN k.shape 1) 0

/-- Some place exists for what a record wants next: every unit of a gang record, one unit of another. The launches of a type N record
enter their units' queues as there is room (R236, R288). -/
def State.placeable (s : State) (k : Kernel) (freed : List Nat) : Bool :=
  let n (j : Nat) := shapeN k.shape j
  if !isK k.typ then true
  else if !k.gang then
    if k.unit == 2 then (List.range numCores).any (fun c => s.coreFits k freed c && k.shapeFits [2 * c, 2 * c + 1])
    else (List.range numStrands).any (fun m => s.fits k freed m && k.shapeFits [m])
  else match shapeLevels k.shape with
    | 0 => k.strands ≤ ((List.range numStrands).filter (fun m => s.fits k freed m)).length
    | 1 => (List.range numCores).any (fun c => s.coreFits k freed c)
    | 2 => (List.range 18).any (fun cl => n 1 ≤ s.clusterCap k freed cl)
    | 3 => (List.range 2).any (fun d => n 2 ≤ s.dieCap k freed d)
    | _ => n 3 ≤ s.dieCap k freed 0 / n 2 + s.dieCap k freed 1 / n 2

/-! Order (R273 to R275). -/

/-- The kernels before k in the order in which they were taken. -/
def beforeIn (id : Nat) : List Kernel → List Kernel
  | [] => []
  | x :: xs => if x.id == id then [] else x :: beforeIn id xs

/-- R273: no earlier record of the queue has yet to start. -/
def State.turnOf (s : State) (k : Kernel) : Bool :=
  k.ooo || (beforeIn k.id s.d.kernels).all (fun x => x.queue != k.queue || 3 ≤ x.stage)

/-- Waits for placement: a ready record whose turn has come, one placed in part, an evicted kernel (R276, R461). -/
def State.waits (s : State) (k : Kernel) : Bool :=
  !k.hostEnd && (k.isSaved || (k.evict == .none && (k.stage == 2 || (k.stage == 1 && s.turnOf k))))

/-- Nothing of higher effective priority waits (R276). -/
def State.isTop (s : State) (k : Kernel) : Bool := s.d.kernels.all (fun x => !s.waits x || x.eff ≤ k.eff)

/-- The NMU or strand count (R275). -/
def Kernel.cost (k : Kernel) : Nat := if isK k.typ then k.strands else k.nmus.length

/-- The oldest ready record of queue q at a level. -/
def State.oldest (s : State) (p q : Nat) : Option Kernel :=
  s.d.kernels.find? (fun k => k.queue == q && k.stage == 1 && k.evict == .none && s.turnOf k && k.eff == p)

/-- Queues with a ready record at a level, ascending. -/
def insertNo (q : Nat) : List Nat → List Nat
  | [] => [q]
  | x :: xs => if q < x then q :: x :: xs else if q == x then x :: xs else x :: insertNo q xs
def State.readyQueues (s : State) (p : Nat) : List Nat :=
  (s.d.kernels.filter (fun k => k.stage == 1 && k.evict == .none && s.turnOf k && k.eff == p)).foldl (fun l k => insertNo k.queue l) []

/-- Deficit round-robin at level p from the queue served last: the next record to place, the deficits, its queue (R275). -/
def State.robin (s : State) (p : Nat) (qs : List Nat) : Nat → Tbl Nat → Option Nat → Option (Kernel × Tbl Nat × Nat)
  | 0, _, _ => none
  | f + 1, t, cur =>
    let d (q : Nat) : Nat := (tget t (65536 * p + q)).getD 0
    let here : Option Kernel := cur.bind (fun q => (s.oldest p q).bind (fun h => if h.cost ≤ d q && s.placeable h [] then some h else none))
    match here, cur with
    | some h, some q => some (h, t, q)
    | _, _ =>
      let t1 := match cur with
        | some q => if qs.contains q then t else tput t (65536 * p + q) 0
        | none => t
      match (qs.find? (fun q => cur.all (fun c => c < q))).orElse (fun _ => qs.head?) with
      | none => none
      | some q =>
        let w := ((s.oldest p q).map (fun h => h.weight)).getD 1
        s.robin p qs f (tput t1 (65536 * p + q) ((tget t1 (65536 * p + q)).getD 0 + 16 * w)) (some q)

/-- The record that level p places next. -/
def State.nextRecord (s : State) (p : Nat) : Option (Kernel × Tbl Nat × Nat) :=
  let qs := s.readyQueues p
  s.robin p qs (20 * qs.length + 2) s.d.deficit (tget s.d.served p)

/-! Setting up a core (R270, R281, R286). -/

/-- The descriptor of a barrier of this package (R211). -/
def barDesc (c k : Nat) : Word := BitVec.ofNat 64 (2 ^ 63 + 0xFFFF * 2 ^ 32 + c * 2 ^ 8 + k)

/-- The nodes that stand on the core whose first strand has rank r (R286). -/
def Kernel.nodes (k : Kernel) (slots : List Nat) (r : Nat) : Tbl Barrier :=
  (List.range (shapeLevels k.shape)).foldl (fun (t : Tbl Barrier) l =>
    (List.range (min l 3 + 1)).foldl (fun (t : Tbl Barrier) j =>
      if r % shapeS k.shape j != 0 then t
      else
        let up := shapeS k.shape (j + 1)
        let parent : Word := if j < min l 3 then barDesc (coreOf (slots.getD (r / up * up) 0)) (nodeBar k.barmask l (j + 1))
          else if l == 4 then k.link else 0
        tput t (nodeBar k.barmask l j) { Barrier.reset with c := BitVec.ofNat 16 (shapeN k.shape j), a := shapeA k.shape, parent := parent }) t) []

/-- A kernel's allotment on a core: rings unconfigured, barriers too, banks off. -/
def State.clearAllot (s : State) (k : Kernel) (c : Nat) : State :=
  let s1 := (setBitsOf 32 k.spmask.toNat).foldl (fun (s : State) b =>
    (s.eraseBank c b).modCore c (fun x => x.setBank b { st := .off, waking := none, drops := [], struck := [] })) s
  let s2 := s1.modCore c (fun x => { x with
    rings := x.rings.filter (fun e => !k.ringmask.getLsbD e.1), bars := x.bars.filter (fun e => !k.barmask.getLsbD e.1) })
  { s2 with bmsgs := s2.bmsgs.filter (fun m => m.pkg != 0xFFFF || m.core != c || !k.barmask.getLsbD m.bar) }

/-- The first strand of a kernel, of rank r, is placed on core c; slots holds the slots of the ranks where the kernel has levels. -/
def State.setUp (s : State) (k : Kernel) (slots : List Nat) (r c : Nat) : State :=
  let nodes := k.nodes slots r
  let bars := (applyBars (shapeA k.shape) k.init nodes).getD nodes
  let rings := (applyRings k.spmask k.init []).getD []
  (s.clearAllot k c).modCore c (fun x => { x with
    bars := bars.foldl (fun (t : Tbl Barrier) e => tput t e.1 e.2) x.bars
    rings := rings.foldl (fun (t : Tbl Ring) e => tput t e.1 e.2) x.rings })

/-- Ranks that a kernel's strands have taken so far. -/
def Kernel.taken (k : Kernel) : Nat := k.placed.length + k.gone

/-- The slots are taken by the next ranks, some of them in the place of strands that have ended (R277), and new cores are set up. -/
def State.takeSlots (s : State) (k : Kernel) (at' : List Nat) : State :=
  let base := k.taken
  let slots := k.placed ++ at'
  let kept := k.placed.filter (fun n => !at'.contains n)
  let s1 := (at'.zip (List.range at'.length)).foldl (fun (s : State) e =>
    s.setStrand e.1 { Strand.reset with phase := .placed, kernel := k.id, rank := base + e.2 }) s
  let fresh := (List.range at'.length).filter (fun i =>
    (k.placed ++ at'.take i).all (fun n => coreOf n != coreOf (at'.getD i 0)))
  let s2 := fresh.foldl (fun (s : State) i => s.setUp k slots (base + i) (coreOf (at'.getD i 0))) s1
  let first := k.placed.isEmpty
  let s3 := if first then { s2 with d := { s2.d with startNo := s2.d.startNo + 1 } } else s2
  s3.setKernel { k with
    placed := kept ++ at', ended := k.ended.filter (fun n => !at'.contains n), gone := k.gone + (k.placed.length - kept.length)
    ranks := (at'.zip (List.range at'.length)).foldl (fun (t : Tbl Nat) e => tput t e.1 (base + e.2)) k.ranks
    stage := if base + at'.length == k.strands then 3 else 2, startNo := if first then s3.d.startNo else k.startNo }

/-! Placement (R275 to R277, R288). -/

/-- Insert a victim by effective priority, then the one started last first. -/
def insertVictim (k : Kernel) : List Kernel → List Kernel
  | [] => [k]
  | x :: xs => if k.eff < x.eff || (k.eff == x.eff && x.startNo < k.startNo) then k :: x :: xs else x :: insertVictim k xs

/-- As many more victims, in their order, as make room. -/
def enough (ok : List Nat → Bool) : List Nat → List Nat → List Nat → Option (List Nat)
  | freed, new, [] => if ok freed then some new else none
  | freed, new, v :: vs => if ok freed then some new else enough ok (freed ++ [v]) (new ++ [v]) vs

/-- A waiting record for which there is no room asks for pre-emption (R276, R455): `ok` tells whether freeing kernels suffices. -/
def State.preempt (s : State) (k : Kernel) (ok : List Nat → Bool) : Option State :=
  let vs := (s.d.kernels.filter (fun x => isK x.typ && 2 ≤ x.stage && x.evict == .none && x.eff < k.eff && shapeLevels x.shape < 5)).foldl
    (fun l x => insertVictim x l) []
  let going := (s.d.kernels.filter (fun x => x.evict == .requested || x.evict == .forced)).map (fun x => x.id)
  match enough ok going [] (vs.map (fun x => x.id)) with
  | none | some [] => none
  | some ids => some { s with d := { s.d with kernels := s.d.kernels.map (fun x => if ids.contains x.id then { x with evict := .requested } else x) } }

/-- The launches of a type N record enter their units' queues (R288). -/
def State.startUnits (s : State) (k : Kernel) : State :=
  let l (u : Nat) : NLaunch :=
    { fromCmd := none, kernel := k.id, asid := k.asid, entry := k.entry / 2, args := k.args ++ (if k.nid then [BitVec.ofNat 64 u] else []),
      code := some (k.codeBase, k.codeLen) }
  let s1 := k.nmus.foldl (fun (s : State) u => s.modNmu u (fun m => { m with queue := m.queue ++ [l u] })) s
  s1.setKernel { k with stage := 3 }

/-- A queue with no ready record left at a level has no deficit there (R275). -/
def State.endTurn (s : State) (k : Kernel) : State :=
  if (s.oldest k.eff k.queue).isSome then s else { s with d := { s.d with deficit := tput s.d.deficit (65536 * k.eff + k.queue) 0 } }

/-- A ready record is placed on slots that keep R278 and R279, a gang record whole; with no slot given, and none to be had, it asks for
pre-emption (R275 to R277). -/
def execPlacement (h : Nat) (at' : List Nat) (s : State) : Host.Outcome State Fault Refusal :=
  event s (match s.kernel h with
    | none => none
    | some k =>
      if !s.waits k || k.isSaved || !s.isTop k then none
      else if at'.isEmpty && isK k.typ then (if s.placeable k [] then none else s.preempt k (fun freed => s.placeable k freed))
      else
        let partly := s.d.kernels.any (fun x => x.stage == 2 && x.id != h && x.eff == k.eff && s.placeable x [])
        let turn : Option State :=
          if k.stage == 2 then some s
          else if partly then none
          else match s.nextRecord k.eff with
            | some (x, t, q) =>
              if x.id == h then some { s with d := { s.d with
                deficit := tput t (65536 * k.eff + q) ((tget t (65536 * k.eff + q)).getD 0 - k.cost), served := tput s.d.served k.eff q } }
              else none
            | none => none
        match turn with
        | none => none
        | some s1 =>
          if !isK k.typ then (if at'.isEmpty then some ((s1.startUnits k).endTurn k) else none)
          else if at'.length % k.unit == 0 && k.taken + at'.length ≤ k.strands && (!k.gang || at'.length == k.strands) &&
              at'.all (fun n => s.fits k [] n) && k.shapeFits at' then some ((s1.takeSlots k at').endTurn k)
          else none)

/-! Rows (R280). -/

/-- Kernels with a strand on a core that has bundles to issue. -/
def State.onCore (s : State) (c : Nat) : List Kernel :=
  s.d.kernels.filter (fun k => [2 * c, 2 * c + 1].any (fun n =>
    let t := s.strand n
    t.kernel == k.id && t.phase != .idle && t.phase != .halted))

/-- The record designated for slot n: the first that waits for placement and could be placed there, once the strand there has ended. -/
def State.designated (s : State) (n : Nat) : Option Kernel :=
  let here := (s.strand n).kernel
  let freed := if (s.strand (n ^^^ 1)).kernel == here then [] else [here]
  s.d.kernels.find? (fun k => isK k.typ && s.waits k && !k.isSaved && s.isTop k && k.id != here && s.fits k freed n)

/-- The records designated for the slots of core c that have no strand there with bundles to issue: rows are reserved for them. -/
def State.booked (s : State) (c : Nat) : List Kernel :=
  ([2 * c, 2 * c + 1].filterMap (fun n => s.designated n)).filter (fun k => (s.onCore c).all (fun x => x.id != k.id))

/-- Rows of kernel k on a core. -/
def Core.rowsOf (x : Core) (k : Nat) : List Row := x.rows.filter (fun r => r.kernel == k)

/-- The row fetched least recently. -/
def leastRecent : List Row → Option Row
  | [] => none
  | r :: rs => match leastRecent rs with
    | some x => if x.last < r.last then some x else some r
    | none => some r

def Core.dropRow (x : Core) (r : Row) : Core := { x with rows := x.rows.filter (fun y => !(y.kernel == r.kernel && y.n == r.n)) }

/-- Make room for a row of kernel k. Reserved rows of a kernel there first take what nobody owns, then what is lent or reserved for a
designated record; those of a designated record leave the others their own. A later row takes a free row, or the kernel's own least recently
fetched but the one at the pc. -/
def State.rowRoom (s : State) (c : Nat) (k : Kernel) (row pcRow : Nat) : Option Core :=
  let x := s.core c
  let there := s.onCore c
  let booked := s.booked c
  let runs := there.any (fun y => y.id == k.id)
  let others := (there ++ booked).filter (fun y => y.id != k.id)
  let loaded (y : Kernel) : Nat := (x.rowsOf y.id).length
  let stale := x.rows.find? (fun r => r.kernel != k.id && others.all (fun y => y.id != r.kernel))
  let mine := loaded k
  let roomy : Option Core := if x.rows.length < 64 then some x else stale.map (fun r => x.dropRow r)
  if row < k.rows || mine < k.rows then
    if !runs && 64 ≤ there.foldl (fun a y => a + y.rows) mine then none
    else match roomy with
    | some y => some y
    | none =>
      let lent (y : Kernel) : Bool := if there.any (fun z => z.id == y.id) then y.rows < loaded y else runs && y.id != k.id
      (leastRecent (x.rows.filter (fun r => (there ++ booked).any (fun y => y.id == r.kernel && lent y)))).map (fun r => x.dropRow r)
  else
    let used := others.foldl (fun a y => a + max y.rows (loaded y)) (max k.rows mine)
    if used < 64 then roomy else (leastRecent ((x.rowsOf k.id).filter (fun r => r.n != pcRow))).map (fun r => x.dropRow r)

/-- The code that row n of a kernel holds: its address and length. -/
def Kernel.rowSpan (k : Kernel) (row : Nat) : Word × Nat := (k.codeBase + BitVec.ofNat 64 (4096 * row), min 4096 (k.codeLen - 4096 * row))

/-- A row reserved, none of it loaded: in parts at the 64 KiB granules of its addresses, which ranges are made of (R383). -/
def Kernel.newRow (k : Kernel) (row fetchNo : Nat) : Row :=
  let a := k.rowSpan row
  let n := min a.2 (0x10000 - a.1.toNat % 0x10000)
  { kernel := k.id, n := row, code := [], last := fetchNo
    fault := (0, n, 0, a.1) :: (if n < a.2 then [(n, a.2 - n, 0, a.1 + BitVec.ofNat 64 n)] else []) }

/-- The 8-byte words of a part that are poisoned, as parts that are not there (R429). -/
def poisonedParts (off : Nat) (a : Word) (bs : List (Byte × Bool)) : List (Nat × Nat × BitVec 7 × Word) :=
  (List.range (bs.length / 8)).filterMap (fun i =>
    if ((bs.drop (8 * i)).take 8).any (fun b => b.2) then some (off + 8 * i, 8, 0x41, a + BitVec.ofNat 64 (8 * i)) else none)

/-- The loader of slot n's core brings a part of a row, or notes the cause for which it cannot. -/
def State.loadPart (s : State) (n : Nat) (k : Kernel) (row : Nat) (f : Nat × Nat × BitVec 7 × Word) : State :=
  let src : Src := .other (600 + n)
  let c := coreOf n
  let a := f.2.2.2
  let q := s.resolve src c n k.asid { x := true } 1 a f.2.1
  let put (s : State) (bs : List (Byte × Bool)) (bad : List (Nat × Nat × BitVec 7 × Word)) : State :=
    (s.forget src).modCore c (fun x => { x with rows := x.rows.map (fun r =>
      if r.kernel == k.id && r.n == row then
        { r with code := writeBytes r.code f.1 (bs.map (fun b => b.1)), fault := r.fault.filter (fun e => e != f) ++ bad }
      else r) })
  match q.2 with
  | .wait => q.1
  | .fault cause va => put q.1 [] [(f.1, f.2.1, cause, va)]
  | .ok gs =>
    let r := q.1.getSegs src k.asid gs
    match r.2 with
    | none => r.1
    | some bs => put r.1 bs (poisonedParts f.1 a bs)

/-- The kernel that a row of slot n's core is loaded for: that of the strand there, whose reserved rows and whose fetches come first, or the
record designated for the slot. -/
def State.rowFor (s : State) (n row : Nat) : Option Kernel :=
  let t := s.strand n
  let miss : Bool := match s.fetch n with | .miss r => r == row | _ => false
  let lacks (k : Kernel) : Bool :=
    isK k.typ && 4096 * row < k.codeLen &&
    (match ((s.core (coreOf n)).rowsOf k.id).find? (fun r => r.n == row) with
     | some r => r.loading
     | none => true)
  let own := if t.phase != .idle && t.phase != .halted then (s.kernel t.kernel).filter (fun k => lacks k && (row < k.rows || miss)) else none
  own.orElse (fun _ => (s.designated n).filter (fun k => lacks k && row < k.rows))

/-- A row of a kernel's code is reserved on the core of slot n, or a part of it is loaded: a reserved row for the strand placed or designated
there, a later one that the strand's fetch needs. -/
def execRowLoad (n row : Nat) (s : State) : Host.Outcome State Fault Refusal :=
  event s (
    let c := coreOf n
    if numStrands ≤ n then none
    else match s.rowFor n row with
      | none => none
      | some k =>
        match ((s.core c).rowsOf k.id).find? (fun r => r.n == row) with
        | some r => (r.fault.find? (fun f => f.2.2.1 == 0)).map (fun f => s.loadPart n k row f)
        | none =>
          (s.rowRoom c k row (((s.strand n).pc.toNat - k.codeBase.toNat) / 4096)).map (fun x =>
            s.modCore c (fun y => { y with rows := x.rows ++ [k.newRow row y.fetchNo] })))

/-! Start (R281, R282, R285). -/

/-- `sys.dom`L of rank r on core c. -/
def Kernel.domWord (k : Kernel) (r c l : Nat) : Word :=
  let n := shapeLevels k.shape
  if l < n then
    let d := if l == 4 then wbits k.dom4 15 0 else r / shapeS k.shape l
    let m := if l == 4 then wbits k.dom4 31 16 else r % shapeS k.shape l
    BitVec.ofNat 64 (2 ^ 63 + d * 2 ^ 32 + m * 2 ^ 16 + c * 2 ^ 8 + nodeBar k.barmask l 0)
  else if n == 0 && l == 0 then BitVec.ofNat 64 (r * 2 ^ 16)
  else 0

/-- `sys.kinfo`. -/
def Kernel.info (k : Kernel) : Word := BitVec.ofNat 64 (k.index.toNat * 2 ^ 32 + k.eff * 2 ^ 16 + k.queue)

/-- A strand at its first bundle. -/
def Kernel.fresh (k : Kernel) (n r : Nat) : Strand :=
  let g := (k.args.zip (List.range k.args.length)).foldl (fun (v : Vector SReg 32) e => vSet v (e.2 + 1) { val := e.1, poison := false }) Regs.reset.g
  { Strand.reset with
    phase := .running, kernel := k.id, rank := r, pc := k.codeBase + BitVec.ofNat 64 k.entry
    r := { Regs.reset with g := g, lay := (applyLayouts k.init Regs.reset.lay).getD Regs.reset.lay }
    sys := { SysRegs.reset with
      asid := k.asid, kinfo := k.info, dom := Vector.ofFn (fun (l : Fin 5) => k.domWord r (coreOf n) l.val) } }

/-- Every reserved row of the kernel's code is in the core's store, each part of it loaded or found not to be there. -/
def State.rowsIn (s : State) (k : Kernel) (c : Nat) : Bool :=
  (List.range k.rows).all (fun i => k.codeLen ≤ 4096 * i ||
    ((s.core c).rowsOf k.id).any (fun r => r.n == i && !r.loading))

/-- A strand holds what R281 gives it at its first bundle. -/
def State.start (s : State) (k : Kernel) (n : Nat) : State :=
  (s.setStrand n (k.fresh n (s.strand n).rank)).modCore (coreOf n) (fun c => if c.holder.isNone then { c with lastHolder := 1 } else c)

/-- A placed strand starts once the rows are loaded, on every core of a gang, whose strands on one die start together (R277, R282);
strand 1 counts as the array's last holder (R154). -/
def execStrandStart (n : Nat) (s : State) : Host.Outcome State Fault Refusal :=
  event s (
    let t := s.strand n
    match s.kernel t.kernel with
    | none => none
    | some k =>
      if t.phase != .placed || !s.rowsIn k (coreOf n) || (k.gang && !k.placed.all (fun m => s.rowsIn k (coreOf m))) then none
      else if k.gang then
        some ((k.placed.filter (fun m => dieOf (coreOf m) == dieOf (coreOf n) && (s.strand m).phase == .placed &&
          (s.strand m).kernel == k.id)).foldl (fun s m => s.start k m) s)
      else some (s.start k n))

/-! End (R283, R284). -/

/-- A source of strand n: its own, its engines', its core's accesses for it. -/
def Src.of (x : Src) (n : Nat) : Bool := x.owner == some n || x == .other (300 + n) || x == .other (600 + n)

/-- Strand n waits for nothing any more and asks for nothing: its slot is free for another. -/
def State.quit (s : State) (n : Nat) : State :=
  let others (l : List Src) : List Src := l.filter (fun x => !x.of n)
  { s with
    gathers := s.gathers.filter (fun g => !g.src.of n)
    denials := s.denials.filter (fun d => !d.1.of n)
    walks := s.walks.map (fun (w : Walk) => { w with waiting := others w.waiting })
    fills := s.fills.map (fun (f : Fill) => { f with waiting := others f.waiting, rgfill := f.rgfill.filter (fun m => m != n) })
    wants := s.wants.filter (fun w => w.n != n)
    shoots := s.shoots.map (fun (h : Shoot) => if h.strand == some n then { h with strand := none } else h) }

/-- What a strand loses as it ends: its vector banks, accumulators and tokens; its slot is free (R283). -/
def Strand.ends (t : Strand) : Strand :=
  { t with
    phase := .idle, kernel := 0
    r := { t.r with v := Regs.reset.v, live := 0, banks := Regs.reset.banks, tiles := Regs.reset.tiles }
    e := { t.e with tk := Vector.replicate 16 0 } }

/-- A halted strand ends: results landed, queues empty, no fault to take. -/
def execStrandEnd (n : Nat) (s : State) : Host.Outcome State Fault Refusal :=
  event s (
    let t := s.strand n
    if t.phase != .halted || !t.flights.isEmpty || !t.e.cmds.isEmpty || !(t.e.faults.isEmpty || t.sys.priv) then none
    else
      let s1 := ((s.endRun n).quit n).modStrand n (fun t => t.ends)
      match s1.kernel t.kernel with
      | some k => some (s1.setKernel { k with ended := k.ended ++ [n], endNo := s1.fresh })
      | none => some s1)

/-- The cores a kernel holds. -/
def Kernel.held (k : Kernel) : List Nat := (List.range numCores).filter (fun c => k.holds c)

/-- Accesses of a kernel that has ended are still to be performed: those of its strands and their engines, and of its units; or what the
dispatcher has written for it. -/
def State.pending (s : State) (k : Kernel) : Bool :=
  s.net.any (fun e => !e.done && (e.src == k.src ||
    if isK k.typ then e.id < k.endNo && k.placed.any (fun n => e.src.of n)
    else (match e.src with | .nmu u | .mve u => k.barmask.getLsbD u | _ => false)))

/-- A request that a scratchpad has accepted stands before a bank of the kernel's allotment (R320). -/
def State.accepted (s : State) (k : Kernel) : Bool :=
  s.net.any (fun e => e.sp == .chip && !e.op.isOrder &&
    (match target e.pa with | .sp c off => k.holds c && k.spmask.getLsbD (bankOf off) | _ => false))

/-- A kernel ends with its last strand or unit: its allotments are cleared and the queue's done count goes up, after every access of the
kernel and every access to its banks (R284, R320). -/
def execKernelEnd (id : Nat) (s : State) : Host.Outcome State Fault Refusal :=
  event s (match s.kernel id with
    | none => none
    | some k =>
      let done : Bool := if isK k.typ then (k.hostEnd || k.taken == k.strands) && k.ended.length == k.placed.length else k.nmus.isEmpty
      if k.stage < 2 || !done || s.pending k || s.accepted k then none
      else
        let s1 := k.held.foldl (fun (s : State) c =>
          (s.clearAllot k c).modCore c (fun x => { x with rows := x.rows.filter (fun r => r.kernel != id) })) s
        let s2 := (s1.forget k.src).queueDone k.src k.queue
        some { s2 with d := { s2.d with kernels := s2.d.kernels.filter (fun x => x.id != id) } })

end Sys2Proof.Machine
end

