-- ==== Sys2Proof/Machine/Save.lean ====
section
/-! DEFINITION. Eviction and resumption (R348, R360, R361, R454 to R462): strands stop, their images and the cores' are written to the save
area, and read back. -/

namespace Sys2Proof.Machine

/-! Stopping (R455, R456). -/

/-- A running product, copy or pattern stream stops at its restart point; what else runs goes on to its end. -/
def Strand.stopsNow (t : Strand) (c : Cmd) : Bool :=
  match c.st with
  | .running => (counted c.op && c.done < c.blocks) || (isCopy c.op && c.fin != 2) || (isPstart c.op && !t.feeds (c.engine - 3)) || (isPstop c.op && !t.isHead c)
  | .ending => counted c.op || isPstart c.op
  | _ => false

/-- What is left for a leaving strand to do at once: the newest unstarted commands discarded, commands stopped. -/
def Strand.mustSettle (t : Strand) : Bool :=
  t.leaving && (!(newestUnstarted t.e.cmds).isEmpty || t.e.cmds.any (fun c => t.stopsNow c))

/-- That done (R449, R456). A deadline that has expired and not been taken stands at 1 in the image, so that it expires again. A step trap to
come goes with the bundle that a discard takes back. -/
def Strand.settle (t : Strand) : Strand :=
  let step := if (newestUnstarted t.e.cmds).isEmpty then t.stepDue else none
  let t := t.discard
  { t with
    e := { t.e with cmds := t.e.cmds.map (fun c => if t.stopsNow c then { c with st := .stopped, fin := 0 } else c) }
    sys := if t.dlHit then { t.sys with deadline := 1 } else t.sys
    dlHit := false, wfeFrom := none, wfeOut := false, iss := .none, stepDue := step }

/-- A strand stops for an eviction: a wait at a home is withdrawn (R191). One that has halted and has nothing left to do ends. -/
def State.evictStrand (s : State) (k : Kernel) (n : Nat) : State :=
  let t := s.strand n
  let stop (t : Strand) (host : Bool) : State :=
    let s1 := ((s.withdraw n).forget (.strand n)).forget (.other (300 + n))
    let s2 := { s1 with shoots := s1.shoots.map (fun (h : Shoot) => if h.strand == some n then { h with strand := none } else h) }
    s2.setStrand n { t with phase := .evicting false host }.settle
  match t.phase with
  | .running => stop t false
  | .hostStop => stop t true
  | .placed => stop (k.fresh n t.rank) false
  | .halted => if t.e.cmds.isEmpty && (t.e.faults.isEmpty || t.sys.priv) then s else stop t false
  | _ => s

/-- The grace period of a kernel's eviction ends: its strands stop at a bundle boundary, with no handler being entered and no step trap to
come (R454 to R456). -/
def execGracePeriodExpiry (id : Nat) (s : State) : Host.Outcome State Fault Refusal :=
  event s (match s.kernel id with
    | none => none
    | some k =>
      let mine := k.placed.filter (fun n => (s.strand n).kernel == id)
      if k.evict != .requested || mine.any (fun n => let t := s.strand n; t.phase == .running && (t.entering || t.stepDue.isSome)) then none
      else
        let s1 := mine.foldl (fun (s : State) n => s.evictStrand k n) s
        some (s1.setKernel { k with evict := .forced }))

/-! Images (R458 to R460). -/

/-- A shape, as at offset 0x0B20. -/
def Shape.image (h : Shape) : Nat :=
  h.m.toNat + h.n.toNat * 2 ^ 7 + h.k.toNat * 2 ^ 14 + b2n h.ta * 2 ^ 38 + b2n h.tb * 2 ^ 39

/-- The live state of R360: vector banks, tiles. -/
def Strand.vecMask (t : Strand) : Nat :=
  (List.range 8).foldl (fun a k => if (vAt t.r.banks k).st == .full && (bankRegs k).any (fun i => t.r.live.getLsbD i) then a + 2 ^ k else a) 0
def Strand.accMask (t : Strand) : Nat := (List.range 16).foldl (fun a i => if (vAt t.r.tiles i).written then a + 2 ^ i else a) 0

/-- A bit for each entry that is poisoned. -/
def bitList (bs : List Bool) : Nat := bs.foldr (fun b a => b2n b + 2 * a) 0

/-- The slot of a system register. -/
def State.sysSlot (s : State) (n r : Nat) : Word :=
  match r with
  | 0x000 | 0x001 | 0x00F | 0x011 => 0
  | _ => s.sysRead n r

/-- A command record (R459). -/
def Cmd.image (c : Cmd) : List Byte :=
  let stopped : Bool := match c.st with | .waiting => false | _ => true
  toBytes 8 ((encodeSyllable c.endBit c.op).getD 0).toNat ++
  toBytes 8 (c.engine * 2 ^ 60 + b2n stopped * 2 ^ 56 + c.tag.toNat % 2 ^ 56) ++
  toBytes 8 c.seq.toNat ++
  toBytes 8 (if counted c.op || isCopy c.op then c.done else 0) ++
  toBytes 8 c.seed.toNat ++
  toBytes 8 (c.crc.toNat + c.scrc.toNat * 2 ^ 32) ++
  c.ops.toList.flatMap (fun x => toBytes 8 x.toNat) ++
  toBytes 8 c.shape.image ++ List.replicate 40 0 ++
  (match c.op with
   | .copyt _ _ _ _ _ _ _ _ _ _ => c.src.image ++ c.dst.image
   | _ => List.replicate 128 0)

/-- A port's engine state, an inbound buffer dropped (R348). -/
def Strand.engineImage (t : Strand) (q : Nat) : List Byte :=
  let p := vAt t.e.ports q
  (t.setPort q (p.dropBuf q)).portImage q (p.pos q)

/-- The image of a strand (R458). -/
def State.strandImage (s : State) (n : Nat) (node host : Bool) : List Byte :=
  let t := s.strand n
  let vm := t.vecMask
  let am := t.accMask
  toBytes 8 (2 ^ 56 + b2n node * 2 ^ 55 + b2n host * 2 ^ 54 + t.e.cmds.length * 2 ^ 40 + am * 2 ^ 16 + vm) ++
  toBytes 8 t.pc.toNat ++
  t.r.g.toList.flatMap (fun x => toBytes 8 x.val.toNat) ++
  toBytes 8 (bitList (t.r.g.toList.map (fun x => x.poison))) ++
  toBytes 8 (bitList (t.r.p.toList.map (fun x => x.poison))) ++
  t.r.p.toList.flatMap (fun x => toBytes 128 x.val.toNat) ++
  (List.range 64).flatMap (fun r => toBytes 8 (s.sysSlot n r).toNat) ++
  t.r.sh.toList.flatMap (fun h => toBytes 8 h.image) ++ t.r.shadow.toList.flatMap (fun h => toBytes 8 h.image) ++
  t.r.lay.toList.flatMap (fun l => l.image) ++
  t.r.prog.toList.flatMap (fun p => p.image (0, 0) 0) ++
  (List.range 8).flatMap (fun q => t.engineImage q) ++
  (0 :: (List.range 15).flatMap (fun i => toBytes 1 (vAt t.e.tk (i + 1)))) ++ List.replicate 16 0 ++
  t.e.cmds.flatMap (fun c => c.image) ++
  (setBitsOf 8 vm).flatMap (fun k =>
    (bankRegs k).flatMap (fun i => toBytes 4096 (vAt t.r.v i).bits.toNat) ++
    (bankRegs k).flatMap (fun i => toBytes 128 (vAt t.r.v i).poison.toNat) ++
    toBytes 64 (bitList ((bankRegs k).map (fun i => t.r.live.getLsbD i)))) ++
  (setBitsOf 16 am).flatMap (fun i => toBytes 16384 (vAt t.r.tiles i).bits.toNat ++ toBytes 512 (vAt t.r.tiles i).poison.toNat)

/-- A ring's 128 bytes, a barrier's 528. -/
def Ring.image (r : Ring) : List Byte :=
  toBytes 8 (r.stat 1).toNat ++ toBytes 8 (r.stat 0).toNat ++ toBytes 32 r.pub.toNat ++ toBytes 32 r.rel.toNat ++ List.replicate 48 0
def Barrier.image (b : Barrier) : List Byte :=
  toBytes 8 (b2n b.up * 2 ^ 63 + b.a.toNat * 2 ^ 48 + b.c.toNat * 2 ^ 32 + b.count 0 % 2 ^ 16 * 2 ^ 16 + b.ph.toNat) ++ toBytes 8 b.parent.toNat ++
  (List.range 255).flatMap (fun d => toBytes 2 (b.count (d + 1))) ++ [0, 0]

/-- The words of a scratchpad bank that are marked once parity has been checked (R354, R358). -/
def Core.marksOf (x : Core) (k : Nat) : List Nat :=
  let b := x.bank k
  (List.range 16384).filter (fun w => x.marked.contains (16384 * k + w) || (b.st == .ret && b.struck.contains (16384 * k + w)))

/-- The scratchpad mask of a core image (R360). -/
def Core.spMask (x : Core) (spmask : BitVec 32) : Nat :=
  (setBitsOf 32 spmask.toNat).foldl (fun a k => if (x.bank k).st != .off && x.live.extractLsb' (1024 * k) 1024 != 0 then a + 2 ^ k else a) 0

/-- Bytes filled up with zeros to a multiple of 64. -/
def pad64 (bs : List Byte) : List Byte := bs ++ List.replicate ((64 - bs.length % 64) % 64) 0

/-- The image of a core (R460). -/
def State.coreImage (s : State) (k : Kernel) (c : Nat) : List Byte :=
  let x := s.core c
  let m := x.spMask k.spmask
  pad64 (toBytes 4 m ++ toBytes 4 k.ringmask.toNat ++ toBytes 16 k.barmask.toNat ++ toBytes 8 0 ++
    (setBitsOf 32 k.ringmask.toNat).flatMap (fun r => (x.ring r).image) ++
    (setBitsOf 128 k.barmask.toNat).flatMap (fun b => (x.bar b).image) ++
    (setBitsOf 32 m).flatMap (fun b =>
      readBytes s.chip (spBase c + 0x20000 * b) 0x20000 ++
      toBytes 2048 ((x.marksOf b).foldl (fun a w => a ||| 2 ^ w) 0) ++
      toBytes 128 (x.live.extractLsb' (1024 * b) 1024).toNat))

/-- The cores that a kernel has held, ascending. -/
def Kernel.cores (k : Kernel) : List Nat := (List.range numCores).filter (fun c => k.placed.any (fun n => coreOf n == c))
/-- The slots of its strands that have not ended, in rank order. -/
def Kernel.leftSlots (k : Kernel) : List Nat := k.placed.filter (fun n => !k.ended.contains n)

/-- The lowest place in the save area for a size. -/
def State.saveSpace (s : State) (size : Nat) : Option Nat :=
  let base := (s.mgr 0x120).toNat
  let len := (s.mgr 0x128).toNat
  let used := s.d.kernels.filterMap (fun k => match k.evict with | .saved a n => some (a, n) | _ => none)
  let up (a : Nat) : Nat := (a + 63) / 64 * 64
  let ok (a : Nat) : Bool := base ≤ a && a + size ≤ base + len && used.all (fun u => u.1 + u.2 ≤ a || a + size ≤ u.1)
  let cands := (up base :: used.map (fun u => up (u.1 + u.2))).filter ok
  cands.foldl (fun (b : Option Nat) a => match b with | some x => some (min x a) | none => some a) none

/-- The dispatcher's access to a span of device memory. -/
def State.dispSpan (s : State) (wr : Bool) (a n : Nat) : Bool :=
  n == 0 || ((List.range ((n + 2 ^ 21 - 1) / 2 ^ 21 + 1)).all (fun i => s.dramOk dispatcher wr (min (a + i * 2 ^ 21) (a + n - 1))))

/-- A strand has come to rest: results landed, nothing running, no rewind under way, pushed blocks written. -/
def Strand.rests (t : Strand) : Bool :=
  t.flights.isEmpty && t.e.cmds.all (fun c => c.st == .waiting || c.st == .stopped) &&
  (List.range 8).all (fun q => let p := vAt t.e.ports q; p.rew.isNone && (inbound q || p.buf.isEmpty || p.fault.isSome))

/-- Something that a strand has asked for is still on its way: an access of it or of its engines, an `rgfill`. -/
def State.awaited (s : State) (n : Nat) : Bool :=
  s.net.any (fun e => !e.done && e.src.of n) || s.wants.any (fun w => w.n == n) || s.fills.any (fun f => f.rgfill.contains n)

/-- The images of a kernel's strands and cores, in their order (R457). -/
def State.images (s : State) (k : Kernel) : List Byte :=
  k.leftSlots.flatMap (fun n =>
    match (s.strand n).phase with
    | .evicting node host => s.strandImage n node host
    | _ => []) ++ k.cores.flatMap (fun c => s.coreImage k c)

/-- Images on their way to the save area: the kernel's slots and allotments are free. What an image has no place for, the record keeps. -/
def State.saveAt (s : State) (k : Kernel) (a size : Nat) (sent : State) : State :=
  let left := k.leftSlots
  let owed := left.flatMap (fun n =>
    ((s.strand n).e.faults.filter (fun f => ((s.strand n).cmd f.id).isNone)).map (fun f => (n, f)))
  let steps := left.filter (fun n => (s.strand n).stepDue.isSome)
  let s2 := left.foldl (fun (s : State) n => (s.quit n).setStrand n Strand.reset) sent
  let s3 := k.cores.foldl (fun (s : State) c =>
    (s.clearAllot k c).modCore c (fun x => { x with rows := x.rows.filter (fun r => r.kernel != k.id) })) s2
  s3.setKernel { k with evict := .saved a size, owed := owed, steps := steps }

/-- A leaving strand settles, and gives up the array once it rests; when all strands of a kernel rest, their images are written where there
is room, and their slots and allotments are free (R456, R457, R360). -/
def execSaveImageWrite (id : Nat) (s : State) : Host.Outcome State Fault Refusal :=
  event s (match s.kernel id with
    | none => none
    | some k =>
      let left := k.leftSlots
      match left.find? (fun n => (s.strand n).mustSettle) with
      | some n => some (s.setStrand n (s.strand n).settle)
      | none =>
        match left.find? (fun n => (s.strand n).leaving && (s.strand n).rests && (s.core (coreOf n)).holder == some (n % 2)) with
        | some n => some (s.endRun n)
        | none =>
          let quiet := k.cores.all (fun c =>
            (setBitsOf 32 k.spmask.toNat).all (fun b => let x := (s.core c).bank b; x.waking.isNone && x.drops.isEmpty) &&
            s.bmsgs.all (fun m => m.pkg != 0xFFFF || m.core != c || !k.barmask.getLsbD m.bar))
          if (left.isEmpty && k.stage == 3) || !(k.evict == .requested || k.evict == .forced) ||
              !left.all (fun n => (s.strand n).leaving && (s.strand n).rests) || !quiet || left.any (fun n => s.awaited n) || s.accepted k then none
          else
            let bytes := s.images k
            match s.saveSpace bytes.length with
            | none => none
            | some a =>
              if !s.dispSpan true a bytes.length then none
              else (s.putSegs k.src 0 (whole bytes) [{ sp := .dram, pa := a, len := bytes.length, va := 0, off := 0 }]).map (s.saveAt k a bytes.length))

/-! Reading back (R361, R461). -/

def shapeOf (w : Nat) : Shape :=
  { m := BitVec.ofNat 7 w, n := BitVec.ofNat 7 (w / 2 ^ 7), k := BitVec.ofNat 24 (w / 2 ^ 14), ta := bit w 38, tb := bit w 39 }

/-- The command of a record; its registers are found anew from its names. What a record does not hold, the captures of a `pstart` and the
rounding of a drain, is captured again (log entry 43). -/
def cmdOf (t : Strand) (id : Nat) (bs : List Byte) : Option Cmd :=
  match decodeSyllable (BitVec.ofNat 64 (word bs 0)) with
  | .error _ => none
  | .ok op =>
    let w := word bs 1
    let st : CmdSt := if bit w 56 then .stopped else .waiting
    let prog : Prog := match op with | .pstart _ q => vAt t.r.prog (portNo q) | _ => Prog.reset
    let md : BitVec 3 := match op with | .mdrain _ _ r _ _ _ _ _ _ => (t.mode r).code | _ => 0
    let dst : Option Nat := match op with | .mdrain _ _ _ _ _ a _ _ _ => if a.isV then some (t.pv a.toNat) else none | _ => none
    let src : Layout := match op with
      | .pstart _ _ => (vAt t.r.lay prog.lay.toNat).capture t.sys.fmode
      | _ => (layoutOf ((bs.drop 0x80).take 64)).getD Layout.reset
    let done := word bs 3
    let seed := BitVec.ofNat 32 (word bs 4)
    some {
      id := id, engine := bits w 63 60, seq := BitVec.ofNat 16 (word bs 2), tag := BitVec.ofNat 64 (bits w 55 0), bundle := 0, op := op
      endBit := bit (word bs 0) 63, st := st, shape := shapeOf (word bs 10)
      ops := Vector.ofFn (fun (i : Fin 4) => BitVec.ofNat 64 (word bs (6 + i.val))), src := src
      dst := (layoutOf ((bs.drop 0xC0).take 64)).getD Layout.reset, prog := prog, seed := seed, seed0 := seed, done := done
      crc := BitVec.ofNat 32 (word bs 5), scrc := BitVec.ofNat 32 (word bs 5 / 2 ^ 32)
      fin := 0, locks := if done == 0 then (lockNames op).map (fun r => t.pv r) else [], dstLock := dst, md := md, uses := [] }

/-- The commands of records, numbered from no. -/
def cmdsOf (t : Strand) (no : Nat) : Nat → List Byte → List Cmd
  | 0, _ => []
  | k + 1, bs =>
    match cmdOf t no bs with
    | some c => c :: cmdsOf t (no + 1) k (bs.drop 256)
    | none => cmdsOf t (no + 1) k (bs.drop 256)

/-- Commands come back to their queues: sequence numbers, claims, a stream's command (R461). -/
def Strand.requeue (t : Strand) (c : Cmd) : Strand :=
  let t := { t with e := { t.e with cmds := t.e.cmds ++ [c], seq := vSet t.e.seq c.engine (c.seq + 1) } }
  let t := (claimsOf c.op c.shape).foldl (fun (u : Strand) k => if c.done < k.2 then u.claim c.id (k.1, k.2 - c.done) else u) t
  if isPstart c.op && c.st == .stopped then
    let q := c.engine - 3
    t.setPort q { vAt t.e.ports q with cmd := some c.id, seed := c.seed }
  else t

/-- The registers, system registers and ports of an image, on a strand of kernel k; no: the first free running number. -/
def restoreRegs (k : Kernel) (n no : Nat) (bs : List Byte) : Strand :=
  let at' (o len : Nat) : List Byte := (bs.drop o).take len
  let w (o : Nat) : Nat := ofBytes (at' o 8)
  let g := Vector.ofFn (fun (i : Fin 32) => ({ val := BitVec.ofNat 64 (w (0x10 + 8 * i.val)), poison := bit (w 0x110) i.val && i.val != 0 } : SReg))
  let p := Vector.ofFn (fun (i : Fin 16) =>
    ({ val := BitVec.ofNat 1024 (ofBytes (at' (0x120 + 128 * i.val) 128)), poison := bit (w 0x118) i.val && i.val != 0 } : PReg))
  let slot (r : Nat) : Word := BitVec.ofNat 64 (w (0x920 + 8 * r))
  let r0 : Regs := { Regs.reset with
    g := g.set 0 { val := 0, poison := false }
    p := p.set 0 { val := BitVec.allOnes 1024, poison := false }
    sh := Vector.ofFn (fun (i : Fin 4) => shapeOf (w (0xB20 + 8 * i.val)))
    shadow := Vector.ofFn (fun (i : Fin 4) => shapeOf (w (0xB40 + 8 * i.val)))
    lay := Vector.ofFn (fun (i : Fin 32) => (layoutOf (at' (0xB60 + 64 * i.val) 64)).getD Layout.reset)
    prog := Vector.ofFn (fun (i : Fin 8) => (progOf (at' (0x1360 + 64 * i.val) 64)).getD Prog.reset) }
  let t0 : Strand := { Strand.reset with kernel := k.id, rank := (tget k.ranks n).getD 0, pc := BitVec.ofNat 64 (w 8), clock := 2 * w (0x920 + 8 * 0x10), bundle := 1, r := r0 }
  let t1 := (List.range 64).foldl (fun (t : Strand) r => t.writeSys r (slot r)) t0
  let t2 := { t1 with
    sys := { t1.sys with
      priv := (slot 2).getLsbD 0, barl := (slot 0x00B).setWidth 24, asid := k.asid, kinfo := k.info, il := true }
    ilUpTo := 1
    e := { t1.e with tk := Vector.ofFn (fun (i : Fin 16) => if i.val == 0 then 0 else ((bs.getD (0x1960 + i.val) 0).toNat)) } }
  (List.range 8).foldl (fun (t : Strand) q =>
    match imagePort t q (Config.freeSeed no q) no (at' (0x1560 + 128 * q) 128) with
    | some x => t.setPort q x.1
    | none => t) t2

/-- Vector bank k of an image. -/
def Strand.restoreBank (t : Strand) (k : Nat) (bs : List Byte) : Strand :=
  let live := (bs.getD (4 * 4096 + 512) 0).toNat
  let t := (List.range 4).foldl (fun (t : Strand) j =>
    let i := 4 * k + j
    let b : Block := { bits := BitVec.ofNat 32768 (ofBytes ((bs.drop (4096 * j)).take 4096))
                       poison := BitVec.ofNat 1024 (ofBytes ((bs.drop (4 * 4096 + 128 * j)).take 128)) }
    let t := t.setV i b
    { t with r := { t.r with live := setBit32 t.r.live i (live.testBit j) } }) t
  { t with r := { t.r with banks := vSet t.r.banks k { st := .full, wake := none, idleFrom := t.clock, struck := [] } } }

/-- Tile i of an image. -/
def Strand.restoreTile (t : Strand) (i : Nat) (bs : List Byte) : Strand :=
  let x : Tile := { bits := BitVec.ofNat 131072 (ofBytes (bs.take 16384)), poison := BitVec.ofNat 4096 (ofBytes ((bs.drop 16384).take 512)), written := true }
  { t with r := { t.r with tiles := vSet t.r.tiles i x } }

/-- Sections of a size, one for each number. -/
def sections (size : Nat) : List Nat → List Byte → List (Nat × List Byte)
  | [], _ => []
  | k :: ks, bs => (k, bs.take size) :: sections size ks (bs.drop size)

/-- A strand from the head of the bytes, and the bytes after it. A queue with no record has a sequence counter of no stated value (log
entry 43). -/
def restoreStrand (k : Kernel) (n no : Nat) (bs : List Byte) : Strand × List Byte :=
  let h := word bs 0
  let nc := bits h 46 40
  let t0 := restoreRegs k n no bs
  let t1 := { t0 with e := { t0.e with seq := Vector.ofFn (fun (e : Fin 12) => (Config.freeSeed no (16 + e.val)).setWidth 16) } }
  let t2 := (cmdsOf t1 no nc (bs.drop 0x1980)).foldl (fun (t : Strand) c => t.requeue c) t1
  let b1 := bs.drop (0x1980 + 256 * nc)
  let vs := setBitsOf 8 (bits h 7 0)
  let t3 := (sections 16960 vs b1).foldl (fun (t : Strand) e => t.restoreBank e.1 e.2) t2
  let b2 := b1.drop (16960 * vs.length)
  let ts := setBitsOf 16 (bits h 31 16)
  let t4 := (sections 16896 ts b2).foldl (fun (t : Strand) e => t.restoreTile e.1 e.2) t3
  let owed := (k.owed.filter (fun e => e.1 == n)).map (fun e => e.2)
  let t5 := { t4 with e := { t4.e with faults := owed } }
  let host := bit h 54
  -- stopped commands go on, unless the strand is in supervisor state or stopped for the host (R452)
  let t6 := if t5.sys.priv || host then t5
    else { t5 with e := { t5.e with cmds := t5.e.cmds.map (fun (c : Cmd) => if c.st == .stopped then { c with st := .running } else c) } }
  ({ t6 with phase := if host then .hostStop else .running, stepDue := if k.steps.contains n then some 1 else none },
   b2.drop (16896 * ts.length))

/-- A ring and a barrier from their images; a ring whose image is all zeros has not been configured. -/
def ringOf (bs : List Byte) : Ring :=
  let a := word bs 0
  let b := word bs 1
  if bs.all (fun x => x == 0) then Ring.reset
  else { base := BitVec.ofNat 22 a, ns := bits a 31 24 + 1, sb := 16 * (bits a 43 32 + 1), h := BitVec.ofNat 16 b, k := BitVec.ofNat 16 (b / 2 ^ 16)
         r := BitVec.ofNat 16 (b / 2 ^ 32), t := BitVec.ofNat 16 (b / 2 ^ 48), pub := BitVec.ofNat 256 (ofBytes ((bs.drop 16).take 32))
         rel := BitVec.ofNat 256 (ofBytes ((bs.drop 48).take 32)) }
def barrierOf (bs : List Byte) : Barrier :=
  let a := word bs 0
  let cnt (d : Nat) : Nat := ofBytes ((bs.drop (14 + 2 * d)).take 2)
  { c := BitVec.ofNat 16 (bits a 47 32), a := BitVec.ofNat 8 (bits a 55 48), ph := BitVec.ofNat 16 a, parent := BitVec.ofNat 64 (word bs 1)
    counts := ((0, bits a 31 16) :: (List.range 255).map (fun d => (d + 1, cnt (d + 1)))).filter (fun e => e.2 != 0), up := bit a 63, kids := [] }

/-- Bytes of a core image. -/
def coreSize (k : Kernel) (m : Nat) : Nat :=
  let n := 32 + 128 * (setBitsOf 32 k.ringmask.toNat).length + 528 * (setBitsOf 128 k.barmask.toNat).length + 133248 * (setBitsOf 32 m).length
  (n + 63) / 64 * 64

/-- A core's allotment from the head of the bytes. -/
def State.restoreCore (s : State) (k : Kernel) (c : Nat) (bs : List Byte) : State :=
  let m := ofBytes (bs.take 4)
  let rs := setBitsOf 32 k.ringmask.toNat
  let ks := setBitsOf 128 k.barmask.toNat
  let b1 := bs.drop 32
  let b2 := b1.drop (128 * rs.length)
  let b3 := b2.drop (528 * ks.length)
  let s1 := (s.clearAllot k c).modCore c (fun x => { x with
    rings := (sections 128 rs b1).foldl (fun (t : Tbl Ring) e => tput t e.1 (ringOf e.2)) x.rings
    bars := (sections 528 ks b2).foldl (fun (t : Tbl Barrier) e => tput t e.1 (barrierOf e.2)) x.bars })
  (sections 133248 (setBitsOf 32 m) b3).foldl (fun (s : State) e =>
    let marks := ofBytes ((e.2.drop 0x20000).take 2048)
    let live := ofBytes ((e.2.drop (0x20000 + 2048)).take 128)
    { s with chip := writeBytes s.chip (spBase c + 0x20000 * e.1) (e.2.take 0x20000) }.modCore c (fun x =>
      { x.setBank e.1 { st := .full, waking := none, drops := [], struck := [] } with
        live := setBits x.live (1024 * e.1) 1024 false ||| BitVec.ofNat 32768 (live * 2 ^ (1024 * e.1))
        marked := x.marked ++ (setBitsOf 16384 marks).map (fun w => 16384 * e.1 + w) })) s1

/-- Children that have forwarded a phase stand again at their parents. -/
def State.rejoin (s : State) (k : Kernel) : State :=
  k.cores.foldl (fun (s : State) c => (setBitsOf 128 k.barmask.toNat).foldl (fun (s : State) b =>
    let x := (s.core c).bar b
    if x.up && parentPkg x.parent == 0xFFFF then
      let p := (s.core (parentCore x.parent)).bar (parentBar x.parent)
      s.setBar (parentCore x.parent) (parentBar x.parent) { p with kids := p.kids ++ [(c, b, x.ph)] }
    else s) s) s

/-- The strands of an image, in rank order. -/
def State.restoreStrands (s : State) (k : Kernel) : List Nat → List Byte → State × List Byte
  | [], bs => (s, bs)
  | n :: ns, bs =>
    let r := restoreStrand k n s.fresh bs
    ({ s.setStrand n r.1 with fresh := s.fresh + 1 + r.1.e.cmds.length }).restoreStrands k ns r.2
/-- The cores of an image. -/
def State.restoreCores (s : State) (k : Kernel) : List Nat → List Byte → State
  | [], _ => s
  | c :: cs, bs => (s.restoreCore k c bs).restoreCores k cs (bs.drop (coreSize k (ofBytes (bs.take 4))))

/-- An evicted kernel resumes on its own slots once they are free and nothing of higher effective priority waits; while they are held by
lower work it asks for pre-emption (R276, R461). -/
def execKernelResume (id : Nat) (s : State) : Host.Outcome State Fault Refusal :=
  event s (match s.kernel id with
    | none => none
    | some k =>
      match k.evict with
      | .saved a size =>
        let left := k.leftSlots
        let open' (freed : List Nat) : Bool :=
          left.all (fun n => let t := s.strand n; t.phase == .idle || freed.contains t.kernel) && k.cores.all (fun c => s.compatible k freed c)
        if k.hostEnd || !s.isTop k then none
        else if !open' [] then s.preempt k open'
        else if !s.dispSpan false a size then none
        else
          let r := s.getSegs k.src 0 [{ sp := .dram, pa := a, len := size, va := 0, off := 0 }]
          match r.2 with
          | none => some r.1
          | some bs =>
            if bs.any (fun b => b.2) then some (r.1.forget k.src)
            else
            let q := ((r.1.forget k.src).setKernel { k with evict := .none, owed := [], steps := [] }).restoreStrands k left (bs.map (fun b => b.1))
            some ((q.1.restoreCores k k.cores q.2).rejoin k)
      | _ => none)

end Sys2Proof.Machine
end

