-- ==== Sys2Proof/Machine/Manage.lean ====
section
/-! DEFINITION. The management space (R470): who writes what, the legal values (R411, R412, R422, R433, R472, R479), the answer port
(R471), the windows of stopped strands (R444), and the host's control of strands and kernels (R444, R445). -/

namespace Sys2Proof.Machine

/-! Legal values. -/

/-- A zone descriptor's reserved fields are 0 (R411). -/
def zoneReserved (w0 w1 : Word) : Bool := w0 &&& 0x1FFFFF80001FFFFF == 0 && w1 &&& 0xFFFF0000000FFC00 == 0

/-- R412 for one descriptor. -/
def Zone.ok (z : Zone) : Bool :=
  (match z.mode with
   | 0 => z.pc0 == 0 && z.npc == 512
   | 1 => z.pc0 % 64 == 0 && z.npc == 64
   | 2 => z.pc0 % 4 == 0 && z.npc == 4
   | _ => z.npc ≤ 512 - z.pc0) &&
  1 ≤ z.d && z.d ≤ 512 && z.lbase ≤ 511 && z.lbase + z.d ≤ 512 && z.zbase + z.size ≤ 2 ^ 39

/-- Spans or footprints of two zones overlap. -/
def Zone.overlaps (a b : Zone) : Bool :=
  (a.zbase < b.zbase + b.size && b.zbase < a.zbase + a.size) ||
  (a.pc0 < b.pc0 + b.npc && b.pc0 < a.pc0 + a.npc && a.lbase < b.lbase + b.d && b.lbase < a.lbase + a.d)

/-- No two of a list meet. -/
def apart {α : Type} (f : α → α → Bool) : List α → Bool
  | [] => true
  | x :: xs => xs.all (fun y => !f x y) && apart f xs

/-- The zone table keeps R412. -/
def State.zonesOk (s : State) : Bool :=
  let zs := (List.range 16).filterMap (fun z => s.zone z)
  zs.all (fun z => z.ok) && apart (fun a b => a.overlaps b) zs &&
  (List.range 16).all (fun z => zoneReserved (s.mgr (0x5000 + 16 * z)) (s.mgr (0x5008 + 16 * z)))

/-- The span of a region descriptor. -/
def regionSpan (w : Word) : Nat × Nat := (wbits w 38 21 * 2 ^ 21, (wbits w 57 40 + 1) * 2 ^ 21)

/-- The region table keeps R479. -/
def State.regionsOk (s : State) : Bool :=
  let ws := (List.range 64).map (fun r => s.mgr (0x5200 + 8 * r))
  let spans := (ws.filter (fun w => wbit w 63)).map regionSpan
  ws.all (fun w => w &&& 0x3C000080001FFFFF == 0) && spans.all (fun a => a.1 + a.2 ≤ 2 ^ 39) &&
  apart (fun a b => a.1 < b.1 + b.2 && b.1 < a.1 + a.2) spans

/-- R422. -/
def arbOk (v : Word) : Bool :=
  v &&& 0xFFFF000003FFFFFE == 0 && 50 ≤ wbits v 47 36 && wbits v 47 36 ≤ 3200 && 10 ≤ wbits v 35 26 && wbits v 35 26 ≤ 1000

/-- A register of an array of n at a base, with a stride. -/
def inArray (off base stride n : Nat) : Bool := base ≤ off && off < base + stride * n && (off - base) % stride == 0

/-- Offset of the access tables. -/
def inTables (off : Nat) : Bool := 0x10000 ≤ off && off < 0x100000 && off % 8 == 0

/-- Whether a register's writer and value are those of R470; other registers, and read-only ones, take no write. -/
def State.mgTakes (s : State) (m : MgMaster) (off : Nat) (v : Word) : Bool :=
  let h := m == .host
  let fw := m == .service
  if off == 0x100 || off == 0x108 then h && v.toNat % 32 == 0
  else if off == 0x110 || off == 0x130 then h && v.toNat % 16 == 0
  else if off == 0x118 || off == 0x120 || off == 0x128 || off == 0x140 || off == 0x148 || off == 0x158 then h
  else if inArray off 0x200 8 8 then h
  else if off == 0x1000 then h && v &&& 0xFFFFFFFFFFFFF0F8 == 0
  else if off == 0x1008 then fw && 600 ≤ v.toNat && v.toNat ≤ 3000
  else if off == 0x1010 then fw || (h && !wbit (s.mgr 0x1000) 1)
  else if inArray off 0x2000 8 8 then fw && arbOk v
  else if inArray off 0x2100 8 8 then fw && 4 ≤ v.toNat && v.toNat ≤ 64
  else if inArray off 0x3000 8 144 then (fw || h) && v.toNat < 2 ^ 32
  else if inArray off 0x4000 8 144 then fw && (v == 0 || (32 ≤ v.toNat && v.toNat ≤ 65535))
  else if off == 0x5100 || inTables off then m == .monitor
  else if inArray off 0x5200 8 64 then m == .monitor && (s.setMgr off v).regionsOk
  else false

/-- Registers of the zone table. -/
def inZones (off : Nat) : Bool := inArray off 0x5000 8 32

/-- The part with the words of a zone table in its registers. -/
def State.putZones (s : State) (t : Tbl Word) : State :=
  (List.range 32).foldl (fun (s : State) i => s.setMgr (0x5000 + 8 * i) ((tget t (0x5000 + 8 * i)).getD 0)) s

/-- The monitor writes a word of the zone table; the table is written once after a reset, and with its last word it is the table the device
runs on (R410). One that breaks R412 is refused: the device runs on the table it booted with last (log entry 110). -/
def State.zoneWrite (s : State) (m : MgMaster) (off : Nat) (v : Word) : Option State :=
  if m != .monitor || s.t.booted then none
  else
    let t := tput s.t.staged off v
    let put (zs st : Tbl Word) (on : Bool) : State := { s with t := { s.t with zones := zs, staged := st, booted := on } }
    if off != 0x50F8 then some (put s.t.zones t false)
    else if (s.putZones t).zonesOk then some ((put t [] true).putZones t)
    else some (((put s.t.zones [] true).putZones s.t.zones).report 470 off v.toNat)

/-- What follows from a register's new value: decoded access tables (R479), banks that stay shared under noclaim (R422), the watchdog
(R476). -/
def State.mgFollow (s : State) (off : Nat) : State :=
  let s1 := if inTables off then { s with acl := Config.aclDecode (s.mg.filter (fun e => inTables e.1)) } else s
  let s2 := { s1 with m := { s1.m with own := s1.m.own.filter (fun e => !wbit (s1.arb (bankStack e.1)) 0) } }
  if off == 0x1010 then { s2 with m := { s2.m with watchdog := false } } else s2

/-! The answer port (R471). -/

/-- The open request that an answer's tag names. -/
def State.openAsk (s : State) (kind tag : Nat) : Option Ask :=
  s.asks.find? (fun a => a.kind == kind && a.sent && a.tag % 2 ^ 48 == tag % 2 ^ 48)

def State.closeAsk (s : State) (a : Ask) : State := { s with asks := s.asks.filter (fun b => !(b.kind == a.kind && b.tag == a.tag)) }

/-- A walk's record index, which the walker reads and checks, or none: the walk comes to nothing (R388). -/
def State.answeredWalk (s : State) (tag : Nat) (idx : BitVec 32) : State :=
  match s.openAsk 1 tag with
  | none => s
  | some a => { s.closeAsk a with walks := s.walks.map (fun (w : Walk) => 
    if w.id == a.tag then (if idx == 0xFFFFFFFF then { w with late := true } else { w with ans := some idx }) else w) }

/-- A fill is done or has failed (R396). -/
def State.answeredFill (s : State) (tag : Nat) (v : Word) : State :=
  match s.openAsk 2 tag with
  | none => s
  | some a =>
    match s.fills.find? (fun (f : Fill) => f.hostAsked && f.asid.setWidth 64 == a.a && f.gva == a.b.toNat) with
    | none => s.closeAsk a
    | some f => (s.closeAsk a).endFill f (if v == 0 then none else some 0x12)

/-- A barrier that waits for the driver flips (R473). -/
def State.answeredFlip (s : State) (tag : Nat) : State :=
  match s.openAsk 4 tag with
  | none => s
  | some a => (s.closeAsk a).flipDown (a.bar / 128) (a.bar % 128) (a.b.setWidth 16)

/-- The second write at `mg.hans`. -/
def State.answered (s : State) (head v : Word) : State :=
  let tag := wbits head 47 0
  match wbits head 63 56 with
  | 1 => s.answeredWalk tag (v.setWidth 32)
  | 2 => s.answeredFill tag v
  | 3 => s.answeredFlip tag
  | _ => s

def execAnswerWalk (tag : Nat) (idx : BitVec 32) (s : State) : Host.Outcome State Fault Refusal := event s (some (s.answeredWalk tag idx))
def execAnswerFill (tag : Nat) (v : Word) (s : State) : Host.Outcome State Fault Refusal := event s (some (s.answeredFill tag v))
def execAnswerFlip (tag : Nat) (s : State) : Host.Outcome State Fault Refusal := event s (some (s.answeredFlip tag))

/-! Windows of stopped strands (R444, R470). -/

/-- System registers that exist (R233). -/
def sysThere (n : Nat) : Bool := n ≤ 0x011 || (0x018 ≤ n && n ≤ 0x01C) || (0x020 ≤ n && n ≤ 0x028) || (0x030 ≤ n && n ≤ 0x032)

/-- A write to the window of strand n, none where it is refused: its system registers as a write of `sysw` has them, g0 to g31, their
poison bits. -/
def State.window (s : State) (n off : Nat) (v : Word) : Option State :=
  let t := s.strand n
  let r := off / 8
  if numStrands ≤ n || t.phase != .hostStop || off % 8 != 0 then none
  else if off < 0x200 then
    if !sysThere r || t.sysBad r v then none
    else if r == 0x009 then some (if v.getLsbD 0 then s.modStrand (otherOf n) (fun o => o.setEvt 6) else s)
    else some (s.setStrand n (t.writeSys r v))
  else if off < 0x300 then some (s.setStrand n (t.setG (r - 0x40) { val := v, poison := (vAt t.r.g (r - 0x40)).poison }))
  else if off == 0x300 && v.toNat < 2 ^ 32 then
    some (s.setStrand n ((List.range 31).foldl (fun (t : Strand) i =>
      t.setG (i + 1) { val := (vAt t.r.g (i + 1)).val, poison := v.getLsbD (i + 1) }) t))
  else none

/-- The abort of a kernel by `mg.nabort`u (R254): a unit that runs none is left alone. -/
def State.nabort (s : State) (u : Nat) (v : Word) : State :=
  if v == 1 && (s.nmu u).run.isSome then s.modNmu u (fun m => { m with abort := true }) else s

/-- A write to the management space: none where it is refused. -/
def State.mgWrite (s : State) (m : MgMaster) (off : Nat) (v : Word) : Option State :=
  if off == 0x160 then
    if m != .host then none
    else match s.hans with
      | some h => some ({ s with hans := none }.answered h v)
      | none => if wbits v 55 48 != 0 then none else some { s with hans := some v }
  else if inArray off 0x6000 8 128 then (if m == .host || m == .service then some (s.nabort ((off - 0x6000) / 8) v) else none)
  else if 0x100000 ≤ off && off < 0x100000 + 0x1000 * 288 then
    (if m == .host then s.window ((off - 0x100000) / 0x1000) (off % 0x1000) v else none)
  else if inZones off then s.zoneWrite m off v
  else if s.mgTakes m off v then some ((s.setMgr off v).mgFollow off)
  else none

/-- A write that is refused leaves the register unchanged and is logged (R470); the recovery image writes nothing (R480), and new
firmware that writes has reported ready (log entry 50). -/
def State.mgEvent (s : State) (m : MgMaster) (off : Nat) (v : Word) : Option State :=
  if m == .service && s.t.recovery then none
  else
    let s1 := if m == .service then { s with t := { s.t with starting := false } } else s
    match s1.mgWrite m off v with
    | some s2 => some s2
    | none => some (s1.report 470 off v.toNat)

def execManagementRegisterWrite (m : MgMaster) (off : Nat) (v : Word) (s : State) : Host.Outcome State Fault Refusal :=
  event s (s.mgEvent m off v)
/-- R476: the watchdog starts again; the programmed allowances come back with the next interval. -/
def execBudgetRefresh (m : MgMaster) (v : Word) (s : State) : Host.Outcome State Fault Refusal := event s (s.mgEvent m 0x1010 v)
/-- R254. -/
def execNabortWrite (m : MgMaster) (u : Nat) (v : Word) (s : State) : Host.Outcome State Fault Refusal :=
  event s (s.mgEvent m (0x6000 + 8 * u) v)
/-- R444: strand n's window. -/
def execStrandWindowWrite (m : MgMaster) (n off : Nat) (v : Word) (s : State) : Host.Outcome State Fault Refusal :=
  event s (if off < 0x1000 then s.mgEvent m (0x100000 + 0x1000 * n + off) v else none)

/-! Resuming and ending (R444, R445). -/

/-- The driver resumes a stopped strand, as `eret` would. -/
def execHostResume (n : Nat) (s : State) : Host.Outcome State Fault Refusal :=
  event s (if (s.strand n).phase == .hostStop then some (s.modStrand n (fun t => { t.returnFrom with phase := .running })) else none)

/-- The NMUs that run, or have waiting, the launches of strand n: aborted, or forgotten (R254, R445). -/
def State.dropLaunches (s : State) (n : Nat) : State :=
  let mine (l : NLaunch) : Bool := l.fromCmd.any (fun e => e.1 == n)
  (List.range numNmus).foldl (fun (s : State) u =>
    let m := s.nmu u
    let s1 := if m.run.any mine then s.clearUnit u else s
    if m.queue.any mine || m.faults.any (fun f => mine f.1) then
      s1.modNmu u (fun x => { x with queue := x.queue.filter (fun l => !mine l), faults := x.faults.filter (fun f => !mine f.1) })
    else s1) s

/-- A strand stops for good: its commands and streams go, its wait at a home is withdrawn; what is in flight still lands. -/
def State.endStrand (s : State) (n : Nat) : State :=
  ((((s.dropLaunches n).endRun n).withdraw n).quit n).modStrand n (fun t =>
    { t with
      phase := .halted, entering := false, wfeFrom := none, pend := [], stepDue := none, dlHit := false
      e := { t.e with cmds := [], faults := [], ports := Vector.replicate 8 Port.reset } })

/-- The host ends a kernel that holds strands, or an evicted one, whose place in the save area is its own until it has ended (R445). -/
def execHostEndKernel (id : Nat) (s : State) : Host.Outcome State Fault Refusal :=
  event s (match s.kernel id with
    | none => none
    | some k =>
      if !isK k.typ || k.stage < 2 || k.hostEnd then none
      else
        let left := k.leftSlots.filter (fun n => (s.strand n).kernel == id && (s.strand n).phase != .idle)
        let s1 := if k.isSaved then s else left.foldl (fun (s : State) n => s.endStrand n) s
        some (s1.setKernel { k with
          hostEnd := true, stage := 3, evict := if k.isSaved then k.evict else .none, owed := []
          placed := if k.isSaved then [] else k.placed, ended := if k.isSaved then [] else k.ended }))

end Sys2Proof.Machine
end

