-- ==== Sys2Proof/Machine/Outside.lean ====
section
/-! DEFINITION. The outside world: the host port (R468, R469), the request ring (R471), the links (R473, R474), power limits (R477),
firmware (R480), reset (R482) and attestation (R481). -/

namespace Sys2Proof.Machine

/-! Accesses from outside to device memory: requests of the host port and of each Bandura port, each a source (R327). -/

/-- The sources, and their numbers as masters (R479). -/
def hostSrc : Src := .other 278
def linkSrc (p : Nat) : Src := .other (279 + p)
def hostPort : Nat := 282
def linkPort (p : Nat) : Nat := 283 + p

/-- The lines of a span of n bytes of device memory, as parts of an access to it. -/
def outSegs (pa n : Nat) : List Seg := cutSeg 64 (n / 64 + 1) { sp := .dram, pa := pa, len := n, va := 0, off := 0 }

/-- A read for a master is sent, to be answered once all its bytes have come; one of which a line is refused is answered so. -/
def State.outRead (s : State) (src : Src) (m pa n : Nat) : State :=
  let gs := outSegs pa n
  if gs.all (fun g => s.dramOk m false g.pa) then
    let x : Gather := { id := s.fresh, src := src, sp := .dram, pa := pa, len := n, need := gs.length, raw := [], bad := [] }
    { s with gathers := s.gathers ++ [x], fresh := s.fresh + 1 }.sendAll (gs.map (fun (g : Seg) => mkReq src (.load g.off) g 0 s.fresh))
  else s.respond src none

/-- A write for a master is sent line by line, of poisoned data with that mark; a line that is refused is dropped and reported (R469). -/
def State.outWrite (s : State) (src : Src) (m pa : Nat) (bs : List Byte) (poison : Bool) : State :=
  let gs := outSegs pa bs.length
  let ok := gs.filter (fun g => s.dramOk m true g.pa)
  let s1 := (gs.filter (fun g => !s.dramOk m true g.pa)).foldl (fun (s : State) g => s.report 469 m g.pa) s
  s1.sendAll (if poison then ok.map (fun g => mkReq src (.poisoned ((bs.drop g.off).take g.len)) g 0 0)
    else storeReqs src 0 (s1.fresh + 1) (whole bs) ok)

/-- An atomic for a master is sent; with ret its old value is answered. -/
def State.outAtomic (s : State) (src : Src) (m : Nat) (op : AtomOp) (w pa b c : Nat) (ret : Bool) : State :=
  if pa % w == 0 && s.dramOk m true pa then
    let r := mkReq src (.atom op (BitVec.ofNat 128 b) (BitVec.ofNat 128 c) ret) { sp := .dram, pa := pa, len := w, va := 0, off := 0 } 0 s.fresh
    let x : Gather := { id := s.fresh, src := src, sp := .dram, pa := pa, len := w, need := 1, raw := [], bad := [] }
    { s with gathers := if ret then s.gathers ++ [x] else s.gathers, fresh := s.fresh + 1 }.send r
  else if ret then s.respond src none else s.report 469 m pa

/-! The host port. -/

/-- R468, R469: at most 4,096 bytes, all of one 4 KiB page as PCIe has it. -/
def execHostMemoryRead (pa len : Nat) (s : State) : Host.Outcome State Fault Refusal :=
  event s (if len == 0 || 4096 < pa % 4096 + len then none else some (s.outRead hostSrc hostPort pa len))

/-- R468, R469: at most 512 bytes; the poison mark makes the data poisoned. -/
def execHostMemoryWrite (pa : Nat) (data : List Byte) (poison : Bool) (s : State) : Host.Outcome State Fault Refusal :=
  event s (if data.isEmpty || 512 < data.length || 4096 < pa % 4096 + data.length then none
    else some (s.outWrite hostSrc hostPort pa data poison))

/-- R468: FetchAdd and Swap take operand a; CAS compares with a and writes b. -/
def execHostAtomicop (op : PcieAtomic) (d : Bool) (pa : Nat) (a b : Word) (s : State) : Host.Outcome State Fault Refusal :=
  let w := if d then 8 else 4
  let m (x : Word) : Nat := x.toNat % 2 ^ (8 * w)
  event s (some (match op with
    | .fetchAdd => s.outAtomic hostSrc hostPort .add w pa (m a) 0 true
    | .swap => s.outAtomic hostSrc hostPort .xchg w pa (m a) 0 true
    | .cas => s.outAtomic hostSrc hostPort .cas w pa (m b) (m a) true))

/-! The request ring (R471). -/

/-- The oldest request that has not gone into the ring. -/
def State.nextAsk (s : State) : Option Ask := s.asks.find? (fun a => !a.sent)

/-- The bytes of a message. -/
def Ask.bytes (a : Ask) : List Byte :=
  toBytes 8 a.kind ++ toBytes 8 a.a.toNat ++ toBytes 8 a.b.toNat ++ toBytes 8 (if a.kind == 3 then 0 else a.tag)

/-- The request has gone: one that waits for an answer is marked, another is done with. -/
def sentAsk (a : Ask) : List Ask → List Ask
  | [] => []
  | x :: xs => if x == a then (if a.kind == 3 || a.kind == 5 then xs else { a with sent := true } :: xs) else x :: sentAsk a xs

/-- The service firmware writes the oldest request into the ring, raises the producer index, and signals vector 0. -/
def execHostRequestMessage (s : State) : Host.Outcome State Fault Refusal :=
  event s (match s.nextAsk with
    | none => none
    | some a =>
      let base := (s.mgr 0x140).toNat % 2 ^ 52
      let n := 2 ^ (wbits (s.mgr 0x148) 5 0)
      let prod := (s.mgr 0x150).toNat
      let used := (s.mgr 0x150 - s.mgr 0x158).toNat
      let at' := base + 32 * (prod % n)
      if s.t.recovery || base == 0 || n ≤ used || !(List.range 4).any (fun i => s.hostOk (278 + i) true at' 32) then none
      else
        let s1 := (s.writeAt .host at' a.bytes false).setMgr 0x150 (s.mgr 0x150 + 1)
        some { s1 with msix := s1.msix ||| 1, asks := sentAsk a s1.asks })

/-! Links and peers (R473, R474). -/

/-- The atomics of R194 in its order. -/
def atomNo : Nat → Option AtomOp
  | 0 => some .add | 1 => some .and | 2 => some .or | 3 => some .xor | 4 => some .min | 5 => some .max | 6 => some .minu | 7 => some .maxu
  | 8 => some .xchg | 9 => some .cas | 10 => some .fadd32 | 11 => some .fadd64
  | _ => none

/-- What arrives over a port that works: an access of the peer, an arrival from a child or a flip from a parent. -/
def execLinkRequest (port : Nat) (r : LinkReq) (s : State) : Host.Outcome State Fault Refusal :=
  event s (if !s.ports.getLsbD port then none
    else match r with
      | .read pa len => if len == 0 then none else some (s.outRead (linkSrc port) (linkPort port) pa len)
      | .write pa data poison => if data.isEmpty then none else some (s.outWrite (linkSrc port) (linkPort port) pa data poison)
      | .atomic op w pa b c ret =>
        (match atomNo op with
         | none => none
         | some o =>
           let sizes := match o with | .fadd32 => [4] | .fadd64 => [8] | .cas => [4, 8, 16] | _ => [4, 8]
           if !sizes.contains w then none
           else some (s.outAtomic (linkSrc port) (linkPort port) o w pa (b % 2 ^ (8 * w)) (c % 2 ^ (8 * w)) ret))
      | .arrive core bar ph child =>
        if numCores ≤ core || 128 ≤ bar then none
        else some { s with bmsgs := s.bmsgs ++ [{ flip := false, pkg := 0xFFFF, core := core, bar := bar, fromCore := remoteKid port,
                                                  fromBar := child, ph := ph }] }
      | .flip core bar ph => if numCores ≤ core || 128 ≤ bar then none else some (s.flipDown core bar ph))

/-- Poisoned data whose bits nothing fixes. -/
def State.lostBytes (s : State) (n : Nat) : List Byte × State :=
  ((List.range n).map (fun i => Config.freeByte (s.fresh + i)), { s with fresh := s.fresh + n })

/-- A request to a peer that no port reaches any more (R474): loads and returning atomics deliver poison, a `semw` is woken with it, the rest
is lost. -/
def State.lose (s : State) (r : Req) : State :=
  let b := s.lostBytes r.len
  let all := List.range r.len
  let s1 := match r.op with
    | .load off => b.2.answer r off b.1 all 0
    | .atom _ _ _ true => b.2.answer r 0 b.1 all 0
    | .semw eq cmp =>
      let x := b.2.addWaiter r eq cmp
      { x with waiters := x.waiters.map (fun (w : Waiter) => if w.id == r.id then { w with sat := some (BitVec.ofNat 64 (ofBytes b.1), true) } else w) }
    | _ => s
  (s1.retire r).report 474 (bits r.pa 51 40) r.pa

/-- A port fails: its traffic moves to other ports of the mask; requests to a peer that has none left are lost, and a `semw` there is
woken with poison. -/
def execPortFailure (port : Nat) (s : State) : Host.Outcome State Fault Refusal :=
  event s (if !s.ports.getLsbD port || 18 ≤ port then none
    else
      let s1 := { s with ports := s.ports &&& ~~~BitVec.ofNat 18 (2 ^ port) }
      let gone (sp : Space) (pa : Nat) : Bool := sp == .peer && !s1.peerOk (bits pa 51 40)
      let s2 := (s1.net.filter (fun r => gone r.sp r.pa && !r.op.isOrder)).foldl (fun (s : State) r => s.lose r) s1
      some ((s2.waiters.filter (fun w => gone w.sp w.pa && w.sat.isNone)).foldl (fun (s : State) w =>
        let b := s.lostBytes 8
        { b.2 with waiters := b.2.waiters.map (fun (x : Waiter) =>
            if x.id == w.id then { x with sat := some (BitVec.ofNat 64 (ofBytes b.1), true) } else x) }.report 474 (bits w.pa 51 40) w.pa) s2))

/-! Power (R477). -/

/-- Clocks of a die stretch (R304): time only. -/
def State.stretch (s : State) (die : Nat) (drp cur : BitVec 2 → BitVec 2 → BitVec 2) : State :=
  let b : BitVec 2 := BitVec.ofNat 2 (2 ^ die)
  { s with t := { s.t with droop := drp s.t.droop b, current := cur s.t.current b } }

def execDroop (die : Nat) (s : State) : Host.Outcome State Fault Refusal :=
  event s (if die < 2 then some (s.stretch die (fun x b => x ||| b) (fun x _ => x)) else none)
def execCurrentLimit (die : Nat) (s : State) : Host.Outcome State Fault Refusal :=
  event s (if die < 2 then some (s.stretch die (fun x _ => x) (fun x b => x ||| b)) else none)
/-- The rail recovers. -/
def execRailRecovery (die : Nat) (s : State) : Host.Outcome State Fault Refusal :=
  event s (if die < 2 then some (s.stretch die (fun x b => x &&& ~~~b) (fun x b => x &&& ~~~b)) else none)

/-- A stack at 95 °C reports its hot state (R420): MSI-X vector 2. -/
def execStackHot (k : Nat) (s : State) : Host.Outcome State Fault Refusal :=
  event s (if k < 8 then some { s with m := { s.m with hot := s.m.hot ||| BitVec.ofNat 8 (2 ^ k) }, msix := s.msix ||| 4 } else none)
def execHotStateEnd (k : Nat) (s : State) : Host.Outcome State Fault Refusal :=
  event s (if k < 8 then some { s with m := { s.m with hot := s.m.hot &&& ~~~BitVec.ofNat 8 (2 ^ k) } } else none)

/-! Reset and rails off (R477, R482). -/

/-- The part as it is after reset; what lies outside it, what has left it, and its fuses stay. -/
def State.afresh (s : State) : State :=
  { State.reset with
    sched := s.sched, turn := s.turn, fresh := s.fresh, host := s.host, peer := s.peer, hostOut := s.hostOut, linkOut := s.linkOut, log := s.log
    t := { State.reset.t with
      version := s.t.version, fused := s.t.fused, monitor := s.t.monitor, monitorNext := s.t.monitorNext, spdmCount := s.t.spdmCount,
      spdm := s.t.spdm, zones := s.t.zones } }

/-- A die at 110 °C or a stack at 105 °C: the rails go off, every register and memory content is lost. -/
def execThermalTrip (cause : BitVec 4) (s : State) : Host.Outcome State Fault Refusal :=
  event s (
    let s1 := s.afresh
    some { s1 with t := { s1.t with tripped := some cause, zones := [] } })

/-- Reset and bring-up: a staged monitor takes effect (R480); after a trip `mg.status` tells its cause; the retired list is the monitor's, who
writes it again (R482). -/
def execDeviceReset (s : State) : Host.Outcome State Fault Refusal :=
  event s (
    let s1 := s.afresh
    let s2 := { s1 with
      m := { s1.m with retired := s.m.retired }
      t := { s1.t with monitor := s1.t.monitorNext.getD s1.t.monitor, monitorNext := none } }
    some (match s.t.tripped with
      | some c => s2.setMgr 8 (BitVec.ofNat 64 (3 + 16 * c.toNat))
      | none => s2))

/-! Firmware (R480). -/

/-- The monitor verifies a staged image: one that fails, or is older than the fuses allow, leaves everything in place. New service firmware
starts at once, a monitor at the next reset; the counter advances. -/
def execFirmwareUpdate (addr : Nat) (s : State) : Host.Outcome State Fault Refusal :=
  event s (match Config.imageVersion addr s.dram with
    | none => none
    | some (mon, v) =>
      if v < s.t.fused then none
      else if mon then some { s with t := { s.t with monitorNext := some v, fused := v } }
      else some { s with t := { s.t with version := v, fused := v, starting := true, recovery := false } })

/-- New firmware has not reported ready within 1 s: the recovery image runs. -/
def execFirmwareReadyTimeout (s : State) : Host.Outcome State Fault Refusal :=
  event s (if s.t.starting then some { s with t := { s.t with starting := false, recovery := true } } else none)

/-! Attestation (R481). -/

/-- An SPDM request, numbered as R481 lists it, is answered; no session holds state. -/
def State.spdmAnswer (s : State) (no : Nat) : State :=
  { s with t := { s.t with spdm := s.t.spdm ++ [(no, Config.spdm no s.t.spdmCount)], spdmCount := s.t.spdmCount + 1 } }

def execGetVersion (s : State) : Host.Outcome State Fault Refusal := event s (some (s.spdmAnswer 0))
def execGetCapabilities (s : State) : Host.Outcome State Fault Refusal := event s (some (s.spdmAnswer 1))
def execNegotiateAlgorithms (s : State) : Host.Outcome State Fault Refusal := event s (some (s.spdmAnswer 2))
def execGetDigests (s : State) : Host.Outcome State Fault Refusal := event s (some (s.spdmAnswer 3))
def execGetCertificate (s : State) : Host.Outcome State Fault Refusal := event s (some (s.spdmAnswer 4))
def execChallenge (s : State) : Host.Outcome State Fault Refusal := event s (some (s.spdmAnswer 5))
def execGetMeasurements (s : State) : Host.Outcome State Fault Refusal := event s (some (s.spdmAnswer 6))

end Sys2Proof.Machine
end

