-- ==== Sys2Proof/Machine/VecArith.lean ====
section
/-! DEFINITION. Vector arithmetic (R111 to R113). -/

namespace Sys2Proof.Machine

/-- An arithmetic form: f on floats, h on integer values. -/
def vArith (s : State) (g : Guard) (ty : Ty) (rnd : Rnd) (sat : Bool) (vd : Opnd) (os : List VSrc) (lat : Nat)
    (f : Fmt → RM → Nat → Nat → Nat → Nat → Coded) (h : Int → Int → Int → Int) : Host.Outcome State Fault Refusal :=
  vForm s g vd false os (fun _ => []) (ty == .f64) true lat (fun t bs =>
    match tyFmt ty with
    | some x =>
      let m := t.mode rnd
      elementwise t g ty (m == .rsr) bs (fun u a b c => f x m u a b c)
    | none =>
      let v (a : Nat) : Int := intVal ty.width ty.signed a
      elementwise t g ty false bs (fun _ a b c => (intCode ty.width ty.signed sat (h (v a) (v b) (v c)), 0)))

def execVadd (g : Guard) (o : VBin) (s : State) : Host.Outcome State Fault Refusal :=
  vArith s g o.ty o.rnd o.sat o.vd [o.va, o.vb] 4 (fun x m u a b _ => x.add m o.sat u a b) (fun a b _ => a + b)
def execVsub (g : Guard) (o : VBin) (s : State) : Host.Outcome State Fault Refusal :=
  vArith s g o.ty o.rnd o.sat o.vd [o.va, o.vb] 4 (fun x m u a b _ => x.sub m o.sat u a b) (fun a b _ => a - b)
def execVmul (g : Guard) (o : VBin) (s : State) : Host.Outcome State Fault Refusal :=
  vArith s g o.ty o.rnd o.sat o.vd [o.va, o.vb] 4 (fun x m u a b _ => x.mul m o.sat u a b) (fun a b _ => a * b)
def execVfma (g : Guard) (o : VTer) (s : State) : Host.Outcome State Fault Refusal :=
  vArith s g o.ty o.rnd o.sat o.vd [o.va, o.vb, o.vc] 6 (fun x m u a b c => x.fma m o.sat u false a b c) (fun a b c => a * b + c)
def execVfms (g : Guard) (o : VTer) (s : State) : Host.Outcome State Fault Refusal :=
  vArith s g o.ty o.rnd o.sat o.vd [o.va, o.vb, o.vc] 6 (fun x m u a b c => x.fma m o.sat u true a b c) (fun a b c => a * b - c)
def execVmin (g : Guard) (o : VBin) (s : State) : Host.Outcome State Fault Refusal :=
  vArith s g o.ty .rne false o.vd [o.va, o.vb] 4 (fun x _ _ a b _ => x.minmax false a b) (fun a b _ => min a b)
def execVmax (g : Guard) (o : VBin) (s : State) : Host.Outcome State Fault Refusal :=
  vArith s g o.ty .rne false o.vd [o.va, o.vb] 4 (fun x _ _ a b _ => x.minmax true a b) (fun a b _ => max a b)

/-- R111: Min(Max(a, b), c). -/
def execVclamp (g : Guard) (o : VTer) (s : State) : Host.Outcome State Fault Refusal :=
  vArith s g o.ty .rne false o.vd [o.va, o.vb, o.vc] 4
    (fun x _ _ a b c => let r := x.minmax true a b; let q := x.minmax false r.1 c; (q.1, r.2 ||| q.2))
    (fun a b c => min (max a b) c)

/-- R113: the sign bit cleared. -/
def execVabs (g : Guard) (o : VUn) (s : State) : Host.Outcome State Fault Refusal :=
  vArith s g o.ty .rne o.sat o.vd [o.va] 4 (fun x _ _ a _ _ => (a % x.signW, 0)) (fun a _ _ => if a < 0 then -a else a)
/-- R113: the sign bit inverted. -/
def execVneg (g : Guard) (o : VUn) (s : State) : Host.Outcome State Fault Refusal :=
  vArith s g o.ty .rne o.sat o.vd [o.va] 4 (fun x _ _ a _ _ => (a ^^^ x.signW, 0)) (fun a _ _ => -a)

end Sys2Proof.Machine
end

