-- ==== Sys2Proof/Machine/VecAxis.lean ====
section
/-! DEFINITION. Axis operations (R128 to R130). -/

namespace Sys2Proof.Machine

/-- A movement: lane n of the result is lane f n of the source, with its poison. -/
def vAxis (s : State) (g : Guard) (vd : Opnd) (va : VSrc) (lat : Nat) (f : Nat → Nat) : Host.Outcome State Fault Refusal :=
  vForm s g vd false [va] (fun _ => []) false true lat (fun t bs =>
    let b := permLanes f (nth bs 0)
    { bits := b.bits.toNat, poison := b.poison, mask := t.mask g, flags := 0, draws := 0 })

def execVrotr (g : Guard) (o : VMove) (s : State) : Host.Outcome State Fault Refusal :=
  vAxis s g o.vd o.va 3 (fun n => 64 * (n / 64) + (n % 64 + 64 - o.n.toNat) % 64)
def execVrotc (g : Guard) (o : VMove) (s : State) : Host.Outcome State Fault Refusal :=
  vAxis s g o.vd o.va 2 (fun n => 64 * ((n / 64 + 16 - o.n.toNat % 16) % 16) + n % 64)
def execVbcr (g : Guard) (o : VMove) (s : State) : Host.Outcome State Fault Refusal :=
  vAxis s g o.vd o.va 2 (fun n => 64 * (n / 64) + o.n.toNat)
def execVbcc (g : Guard) (o : VMove) (s : State) : Host.Outcome State Fault Refusal :=
  vAxis s g o.vd o.va 2 (fun n => 64 * (o.n.toNat % 16) + n % 64)
def execVtrn (g : Guard) (vd : Opnd) (va : VSrc) (s : State) : Host.Outcome State Fault Refusal :=
  vAxis s g vd va 4 trnIdx

/-! Reductions and scans (R129, R130). -/

/-- An element that takes part, or none; with the flags of its making. -/
abbrev Part := Option Nat

/-- One pass of the tree: neighbours combined. -/
def treePass (c : Nat → Nat → Coded) : List Part → List Part × BitVec 6
  | x :: y :: r =>
    let q := treePass c r
    (match x, y with
     | some a, some b => let v := c a b; (some v.1 :: q.1, v.2 ||| q.2)
     | some a, none => (some a :: q.1, q.2)
     | none, y => (y :: q.1, q.2))
  | l => (l, 0)

/-- The fixed tree over at most 2^k elements. -/
def tree (c : Nat → Nat → Coded) : Nat → List Part → Part × BitVec 6
  | 0, l => ((l.head?).getD none, 0)
  | k + 1, l =>
    let p := treePass c l
    let q := tree c k p.1
    (q.1, p.2 ||| q.2)

/-- Combine from left to right: what each element that takes part receives. -/
def scan (c : Nat → Nat → Coded) : Part → List Part → List (Nat × BitVec 6)
  | _, [] => []
  | acc, none :: r => (0, 0) :: scan c acc r
  | none, some x :: r => (x, 0) :: scan c (some x) r
  | some a, some x :: r => let v := c a x; v :: scan c (some v.1) r

/-- `Combine` on floats; a `dyn` that resolves to `rsr` rounds as `rne`. -/
def combineF (f : Fmt) (op : RedOp) (md : RM) (sat : Bool) (a b : Nat) : Coded :=
  match op with
  | .add => f.add (if md == .rsr then .rne else md) sat 0 a b
  | .min => f.minmax false a b
  | .max => f.minmax true a b

/-- The reduction of one line of elements; an integer sum is exact before it is narrowed. -/
def reduceLine (ty : Ty) (op : RedOp) (md : RM) (sat : Bool) (l : List Part) : Nat × BitVec 6 :=
  let v (x : Nat) : Int := intVal ty.width ty.signed x
  match tyFmt ty with
  | some f => let r := tree (combineF f op md sat) 6 l; (r.1.getD 0, r.2)
  | none =>
    let xs := (l.filterMap id).map v
    match op with
    | .add => (intCode ty.width ty.signed sat (xs.foldl (fun a b => a + b) 0), 0)
    | .min => (wrap ty.width (xs.foldl (fun a b => min a b) (xs.headD 0)), 0)
    | .max => (wrap ty.width (xs.foldl (fun a b => max a b) (xs.headD 0)), 0)

/-- The partial results of one row: for integers the exact totals narrowed. -/
def scanLine (ty : Ty) (op : RedOp) (md : RM) (sat : Bool) (l : List Part) : List (Nat × BitVec 6) :=
  match tyFmt ty with
  | some f => scan (combineF f op md sat) none l
  | none =>
    (List.range l.length).map (fun i =>
      match l.getD i none with
      | none => (0, 0)
      | some _ => reduceLine ty op md sat (l.take (i + 1)))

/-- The elements of a block as rows, those of the mask taking part. -/
def lines (ty : Ty) (m : Mask) (b : Block) : List (List Part) :=
  let n := ty.capacity
  chunks (n / 16) 16 (((elems n ty.width b.bits.toNat).zip (List.range n)).map (fun e =>
    if m.getLsbD (laneOf ty.width e.2) then some e.1 else none))

/-- Bit i of every row's bits, or of columns, spread: the lanes of a row when any of its active lanes is poisoned. -/
def rowPoison (p : Mask) : Mask :=
  if p == 0 then 0
  else BitVec.ofNat 1024 (pack 64 ((List.range 16).map (fun r => if p.extractLsb' (64 * r) 64 != 0 then 2 ^ 64 - 1 else 0)))

/-- The lanes of a column when any of its active lanes is poisoned. -/
def colPoison (p : Mask) : Mask :=
  if p == 0 then 0
  else
    let c := (List.range 16).foldl (fun (a : BitVec 64) r => a ||| p.extractLsb' (64 * r) 64) 0
    BitVec.ofNat 1024 (pack 64 (List.replicate 16 c.toNat))

/-- The flags of a reduction count where some element of its line is written, which is where some element takes part. -/
def execVredr (g : Guard) (o : VRed) (s : State) : Host.Outcome State Fault Refusal :=
  vForm s g o.vd false [o.va] (fun _ => []) (o.ty == .f64) true 9 (fun t bs =>
    let m := typeMask o.ty (t.mask g)
    let rs := (lines o.ty m (nth bs 0)).map (fun l => (reduceLine o.ty o.op (t.mode o.rnd) o.sat l, l.length))
    { bits := pack 2048 (rs.map (fun r => pack o.ty.width (List.replicate r.2 r.1.1)))
      poison := rowPoison (typePoison o.ty (nth bs 0).poison &&& m)
      mask := m, flags := rs.foldl (fun a r => a ||| r.1.2) 0, draws := 0 })

/-- Columns of rows of the same length. -/
def columns (n : Nat) (rows : List (List Part)) : List (List Part) :=
  (List.range n).map (fun c => rows.map (fun r => r.getD c none))

def execVredc (g : Guard) (o : VRed) (s : State) : Host.Outcome State Fault Refusal :=
  vForm s g o.vd false [o.va] (fun _ => []) (o.ty == .f64) true 5 (fun t bs =>
    let m := typeMask o.ty (t.mask g)
    let n := o.ty.capacity / 16
    let rs := (columns n (lines o.ty m (nth bs 0))).map (fun l => reduceLine o.ty o.op (t.mode o.rnd) o.sat l)
    { bits := pack 2048 (List.replicate 16 (pack o.ty.width (rs.map (fun r => r.1))))
      poison := colPoison (typePoison o.ty (nth bs 0).poison &&& m)
      mask := m, flags := rs.foldl (fun a r => a ||| r.2) 0, draws := 0 })

/-- A poisoned active lane poisons the lanes from it to the end of its row. -/
def scanPoison (p : Mask) : Mask :=
  if p == 0 then 0
  else BitVec.ofNat 1024 (pack 64 ((List.range 16).map (fun r =>
    (List.range 64).foldl (fun (a : Nat) c => if p.getLsbD (64 * r + c) then a ||| (2 ^ 64 - 2 ^ c) else a) 0)))

def execVscanr (g : Guard) (o : VRed) (s : State) : Host.Outcome State Fault Refusal :=
  vForm s g o.vd false [o.va] (fun _ => []) (o.ty == .f64) true 11 (fun t bs =>
    let m := typeMask o.ty (t.mask g)
    let rs := (lines o.ty m (nth bs 0)).map (fun l => scanLine o.ty o.op (t.mode o.rnd) o.sat l)
    { bits := pack 2048 (rs.map (fun r => pack o.ty.width (r.map (fun e => e.1))))
      poison := scanPoison (typePoison o.ty (nth bs 0).poison &&& m)
      mask := m, flags := rs.foldl (fun a r => r.foldl (fun a e => a ||| e.2) a) 0, draws := 0 })

end Sys2Proof.Machine
end

