-- ==== Sys2Proof/Machine/VecBits.lean ====
section
/-! DEFINITION. Vector bit operations, shifts and fields (R114 to R118). -/

namespace Sys2Proof.Machine

/-- A form on whole lanes (R114). -/
def vLogic (s : State) (g : Guard) (vd : Opnd) (os : List VSrc) (f : Lanes → Lanes → Lanes) : Host.Outcome State Fault Refusal :=
  vForm s g vd false os (fun _ => []) false true 4 (fun t bs =>
    { bits := (f (nth bs 0).bits (nth bs 1).bits).toNat, poison := (nth bs 0).poison ||| (nth bs 1).poison, mask := t.mask g
      flags := 0, draws := 0 })

def execVand (g : Guard) (o : VLog) (s : State) : Host.Outcome State Fault Refusal := vLogic s g o.vd [o.va, o.vb] (fun a b => a &&& b)
def execVor (g : Guard) (o : VLog) (s : State) : Host.Outcome State Fault Refusal := vLogic s g o.vd [o.va, o.vb] (fun a b => a ||| b)
def execVxor (g : Guard) (o : VLog) (s : State) : Host.Outcome State Fault Refusal := vLogic s g o.vd [o.va, o.vb] (fun a b => a ^^^ b)
def execVnot (g : Guard) (vd : Opnd) (va : VSrc) (s : State) : Host.Outcome State Fault Refusal := vLogic s g vd [va] (fun a _ => ~~~a)

/-- The sources of a form whose last operand may be an amount in a register. -/
def withAmt (os : List VSrc) (n : VAmt) : List VSrc := match n with | .vec v => os ++ [v] | .imm _ => os
/-- The amount for an element: bits 7:0 of the matching sub-element, or the immediate. -/
def amtOf (n : VAmt) (x : Nat) : Nat := match n with | .vec _ => x % 256 | .imm v => v.toNat

/-- A form on sub-elements of an integer type. -/
def vInt (s : State) (g : Guard) (ty : Ty) (vd : Opnd) (os : List VSrc) (f : Nat → Nat → Nat → Nat) :
    Host.Outcome State Fault Refusal :=
  vForm s g vd false os (fun _ => []) false true 4 (fun t bs => elementwise t g ty false bs (fun _ a b c => (f a b c, 0)))

/-- R115. -/
def execVshl (g : Guard) (o : VShift) (s : State) : Host.Outcome State Fault Refusal :=
  vInt s g o.ty o.vd (withAmt [o.va] o.n) (fun a b _ => (a <<< amtOf o.n b) % 2 ^ o.ty.width)
/-- R115. -/
def execVshr (g : Guard) (o : VShift) (s : State) : Host.Outcome State Fault Refusal :=
  vInt s g o.ty o.vd (withAmt [o.va] o.n) (fun a b _ => a >>> amtOf o.n b)
/-- R115: arithmetic for every integer type. -/
def execVsra (g : Guard) (o : VShift) (s : State) : Host.Outcome State Fault Refusal :=
  vInt s g o.ty o.vd (withAmt [o.va] o.n) (fun a b _ =>
    wrap o.ty.width (signed o.ty.width a / ((2 ^ min (amtOf o.n b) o.ty.width : Nat) : Int)))
/-- R115. -/
def execVrot (g : Guard) (o : VShift) (s : State) : Host.Outcome State Fault Refusal :=
  vInt s g o.ty o.vd (withAmt [o.va] o.n) (fun a b _ =>
    let w := o.ty.width
    let n := amtOf o.n b % w
    ((a <<< n) % 2 ^ w) ||| (a >>> (w - n)))

/-- R116. -/
def execVpopc (g : Guard) (o : VUn) (s : State) : Host.Outcome State Fault Refusal :=
  vInt s g o.ty o.vd [o.va] (fun a _ _ => popN o.ty.width a)
/-- R116. -/
def execVclz (g : Guard) (o : VUn) (s : State) : Host.Outcome State Fault Refusal :=
  vInt s g o.ty o.vd [o.va] (fun a _ _ => clzN o.ty.width a)

/-- R117. -/
def execVbfx (g : Guard) (ty : Ty) (vd : Opnd) (va : VSrc) (pos : VAmt) (sx : Bool) (len : BitVec 6) (s : State) :
    Host.Outcome State Fault Refusal :=
  vInt s g ty vd (withAmt [va] pos) (fun a b _ => bfxN ty.width a (amtOf pos b) len.toNat sx)

/-- R118: the upper half is va. -/
def execVfsh (g : Guard) (ty : Ty) (vd : Opnd) (va vb : VSrc) (n : VAmt) (s : State) : Host.Outcome State Fault Refusal :=
  vInt s g ty vd (withAmt [va, vb] n) (fun a b c => fshN ty.width a b (amtOf n c))

end Sys2Proof.Machine
end

