-- ==== Sys2Proof/Machine/VecConvert.lean ====
section
/-! DEFINITION. Vector conversions (R122 to R125). -/

namespace Sys2Proof.Machine

/-- The lanes from lo upward, n of them. -/
def laneSpan (lo n : Nat) : Mask := BitVec.ofNat 1024 ((2 ^ n - 1) <<< lo)

/-- Lanes lo to lo + n - 1 of every row. -/
def rowSpan (lo n : Nat) : Mask := BitVec.ofNat 1024 (((2 ^ n - 1) <<< lo) * ((2 ^ 1024 - 1) / (2 ^ 64 - 1)))

/-- Whether each element of width w of a register is poisoned. -/
def elemPoison (w k : Nat) (p : Mask) : List Bool :=
  if p == 0 then List.replicate k false else (List.range k).map (fun i => p.getLsbD (laneOf w i))

/-- Elements converted to width w at positions from i on, in lanes of m; the generator advances with each (R63). -/
def convList (w : Nat) (m : Mask) (f : Nat → Nat → Coded) : Nat → BitVec 32 → List Nat → List Nat × BitVec 6
  | _, _, [] => ([], 0)
  | i, g, x :: xs =>
    let g' := drawStep g
    let r := convList w m f (i + 1) g' xs
    if m.getLsbD (laneOf w i) then
      let v := f (drawBits g') x
      (v.1 :: r.1, v.2 ||| r.2)
    else (0 :: r.1, r.2)

/-- R122: the elements of part p, and the lanes a narrowing writes. -/
def execVcvt (g : Guard) (o : VUn) (d : Ty) (p : BitVec 4) (s : State) : Host.Outcome State Fault Refusal :=
  let cs := o.ty.capacity
  let cd := d.capacity
  vForm s g o.vd (cs < cd) [o.va] (fun _ => []) (o.ty == .f64 || d == .f64) true 5 (fun t bs =>
    let md := t.mode o.rnd
    let rsr := md == .rsr
    let b := nth bs 0
    let n := min cs cd
    let skip := if cd < cs then p.toNat * cd else 0
    let start := if cs < cd then p.toNat * cs else 0
    let m := typeMask d (t.mask g) &&& laneSpan (start * d.width / 32) (n * d.width / 32)
    let xs := elems n o.ty.width (b.bits.toNat >>> (skip * o.ty.width))
    let ps := ((elemPoison o.ty.width cs (typePoison o.ty b.poison)).drop skip).take n
    let r := convList d.width m (fun u x => convert d o.ty md o.sat u x) start (if rsr then drawN start t.sys.seed else t.sys.seed) xs
    { bits := pack d.width r.1 <<< (start * d.width)
      poison := if b.poison == 0 then 0 else BitVec.ofNat 1024 (lanePoison d.width start ps 0)
      mask := m, flags := r.2, draws := if rsr then cd else 0 })

/-- R123: sub-elements 2p and 2p + 1 of a lane, the others kept. -/
def packLane (ty : Ty) (sat : Bool) (p a b old : Nat) : Nat :=
  let w := ty.width
  let red (x : Nat) : Nat := if sat then wrap w (satInt w ty.signed (intVal 32 ty.signed x)) else x % 2 ^ w
  let v := (red a + red b <<< w) <<< (2 * w * p)
  let k := (2 ^ (2 * w) - 1) <<< (2 * w * p)
  (old &&& ((2 ^ 32 - 1) - k)) ||| v

/-- R123: a lane of 16-bit sub-elements is written whole; of narrower ones the others of vd stay. -/
def execVpack (g : Guard) (ty : Ty) (sat : Bool) (o : VLog) (p : BitVec 2) (s : State) : Host.Outcome State Fault Refusal :=
  vForm s g o.vd (ty.width != 16) [o.va, o.vb] (fun _ => []) false true 4 (fun t bs =>
    let ls (i : Nat) : List Nat := elems 1024 32 (nth bs i).bits.toNat
    { bits := pack 32 ((ls 0).zip ((ls 1).zip (ls 2)) |>.map (fun e => packLane ty sat p.toNat e.1 e.2.1 e.2.2))
      poison := (nth bs 0).poison ||| (nth bs 1).poison ||| (nth bs 2).poison
      mask := t.mask g, flags := 0, draws := 0 })

/-- R123. -/
def execVunpk (g : Guard) (ty : Ty) (vd : Opnd) (va : VSrc) (j : BitVec 3) (s : State) : Host.Outcome State Fault Refusal :=
  vForm s g vd false [va] (fun _ => []) false true 4 (fun t bs =>
    let w := ty.width
    let f (x : Nat) : Nat :=
      let e := elem x w j.toNat
      if ty == .i16 || ty == .i8 then wrap 32 (signed w e) else e
    { bits := pack 32 ((elems 1024 32 (nth bs 0).bits.toNat).map f), poison := (nth bs 0).poison, mask := t.mask g
      flags := 0, draws := 0 })

/-- Rows of lanes. -/
def rowsOf (b : Block) : List (List Nat) := chunks 64 16 (elems 1024 32 b.bits.toNat)

/-- The poison of the two blocks of 32 lanes of each row. -/
def groupPoison (b : Block) : List (Bool × Bool) :=
  (List.range 16).map (fun r => (b.poison.extractLsb' (64 * r) 32 != 0, b.poison.extractLsb' (64 * r + 32) 32 != 0))

/-- R124, element form: row r of va at positions 64 p upward of row r. -/
def quantRows (f : MxFmt) (md : RM) (seed : BitVec 32) (m : Mask) (p : Nat) : Nat → List (List Nat) → List Nat × BitVec 6
  | _, [] => ([], 0)
  | r, row :: rows =>
    let w := mxWidth f
    let at' := 2048 / w * r + 64 * p
    let es := row.zip ((List.range 64).map (fun i => m.getLsbD (64 * r + (64 * p + i) * w / 32)))
    let q := quantAll f md 2 (if md == .rsr then drawN at' seed else seed) es
    let rest := quantRows f md seed m p (r + 1) rows
    ((pack w (q.1.map (fun e => e.1)) <<< (64 * p * w)) :: rest.1, q.2.2 ||| rest.2)

/-- R124. -/
def execVquant (g : Guard) (fmt : MxFmt) (scale : Bool) (rnd : Rnd) (vd : Opnd) (va : VSrc) (p : BitVec 3) (s : State) :
    Host.Outcome State Fault Refusal :=
  let w := mxWidth fmt
  let p := p.toNat
  vForm s g vd true [va] (fun _ => []) false true 5 (fun t bs =>
    let b := nth bs 0
    let gp := groupPoison b
    if scale then
      let m := t.mask g &&& rowSpan (p / 2) 1
      let old := nth bs 1
      let one (e : Nat × List Nat) : Nat × BitVec 6 :=
        let q (k : Nat) : Nat × BitVec 6 :=
          let sc := mxScale fmt ((e.2.drop (32 * k)).take 32)
          if sc.2.1 then (255, fInvalid) else if sc.2.2 then (0, 0) else (sc.1, 0)
        let l := 64 * e.1 + p / 2
        let keep := elem old.bits.toNat 32 l
        let sh := 8 * (2 * p % 4)
        (((keep &&& ((2 ^ 32 - 1) - (65535 <<< sh))) ||| (((q 0).1 + 256 * (q 1).1) <<< sh)) <<< (32 * (p / 2)),
         if m.getLsbD l then (q 0).2 ||| (q 1).2 else 0)
      let rs := ((List.range 16).zip (rowsOf b)).map one
      { bits := pack 2048 (rs.map (fun r => r.1))
        poison := (if b.poison == 0 then 0 else
          BitVec.ofNat 1024 (pack 64 (gp.map (fun e => if e.1 || e.2 then 2 ^ (p / 2) else 0)))) ||| old.poison
        mask := m, flags := rs.foldl (fun a r => a ||| r.2) 0, draws := 0 }
    else
      let md := t.mode rnd
      let n := 64 * w / 32
      let m := t.mask g &&& rowSpan (n * p) n
      let r := quantRows fmt md t.sys.seed m p 0 (rowsOf b)
      { bits := pack 2048 r.1
        poison := if b.poison == 0 then 0 else
          BitVec.ofNat 1024 (pack 64 (gp.map (fun e =>
            ((if e.1 then 2 ^ (n / 2) - 1 else 0) + (if e.2 then (2 ^ (n / 2) - 1) * 2 ^ (n / 2) else 0)) <<< (n * p))))
        mask := m, flags := r.2, draws := if md == .rsr then 32768 / w else 0 })

/-- R125. -/
def execVdeq (g : Guard) (fmt : MxFmt) (rnd : Rnd) (sat : Bool) (o : VLog) (p : BitVec 3) (s : State) :
    Host.Outcome State Fault Refusal :=
  let w := mxWidth fmt
  let p := p.toNat
  vForm s g o.vd false [o.va, o.vb] (fun _ => []) false true 5 (fun t bs =>
    let md := t.mode rnd
    let m := t.mask g
    let a := nth bs 0
    let b := nth bs 1
    let xs := (chunks (2048 / w) 16 (elems (32768 / w) w a.bits.toNat)).flatMap (fun row => (row.drop (64 * p)).take 64)
    let ss := (chunks 256 16 (elems 4096 8 b.bits.toNat)).flatMap (fun row => ((row.drop (2 * p)).take 2).flatMap (fun x => List.replicate 32 x))
    let r := convList 32 m (fun u e => mxDequant fmt md sat u (e % 256) (e / 256)) 0 t.sys.seed
      ((xs.zip ss).map (fun e => e.1 + 256 * e.2))
    { bits := pack 32 r.1
      poison := if a.poison == 0 && b.poison == 0 then 0 else
        BitVec.ofNat 1024 (bitsOf ((List.range 1024).map (fun n =>
          let c := n % 64
          a.poison.getLsbD (64 * (n / 64) + (64 * p + c) * w / 32) || b.poison.getLsbD (64 * (n / 64) + (2 * p + c / 32) / 4))))
      mask := m, flags := r.2, draws := if md == .rsr then 1024 else 0 })

end Sys2Proof.Machine
end

