-- ==== Sys2Proof/Machine/VecMove.lean ====
section
/-! DEFINITION. Vector compares, selection, moves and poison (R119 to R121). -/

namespace Sys2Proof.Machine

/-- The integer conditions of R119. -/
def intCond (c : FCond) (a b : Int) : Bool :=
  match c with
  | .eq => a == b
  | .ne => a != b
  | .lt => a < b
  | .le => a ≤ b
  | .gt => b < a
  | .ge => b ≤ a
  | .un => false
  | .ord => true

/-- R119: for an FP64 type both bits of the pair receive the result; a pd of p0 still raises flags. -/
def execVcmp (g : Guard) (ty : Ty) (c : FCond) (pd : PRegNo) (va vb : VSrc) (s : State) : Host.Outcome State Fault Refusal :=
  vPred s g pd [va, vb] (ty == .f64) (fun t bs =>
    let r := elementwise t g ty false bs (fun _ a b _ =>
      match tyFmt ty with
      | some f => let q := f.cmp c a b; (b2n q.1, q.2)
      | none => (b2n (intCond c (intVal ty.width ty.signed a) (intVal ty.width ty.signed b)), 0))
    let es := (elems ty.capacity ty.width r.bits).map (fun x => x == 1)
    let v := BitVec.ofNat 1024 (bitsOf (if ty == .f64 then es.flatMap (fun b => [b, b]) else es))
    (v, r.poison &&& r.mask != 0 || (t.p g.p).poison, r.mask, partMask r.mask, r.flags))

/-- R120. -/
def execVsel (g : Guard) (o : VLog) (pc : PRegNo) (neg : Bool) (s : State) : Host.Outcome State Fault Refusal :=
  vForm s g o.vd false [o.va, o.vb] (fun t => [.p (t.pp pc.toNat)]) false true 4 (fun t bs =>
    let b := (nth bs 1).merge (nth bs 0) (t.pneg pc neg)
    { bits := b.bits.toNat, poison := b.poison ||| allPoison (t.p pc).poison, mask := t.mask g, flags := 0, draws := 0 })

/-- R120. -/
def execVmov (g : Guard) (vd : Opnd) (va : VSrc) (s : State) : Host.Outcome State Fault Refusal :=
  vForm s g vd false [va] (fun _ => []) false true 4 (fun t bs =>
    { bits := (nth bs 0).bits.toNat, poison := (nth bs 0).poison, mask := t.mask g, flags := 0, draws := 0 })

/-- The same 32-bit lane everywhere. -/
def laneAll (x : Nat) : Nat := x * ((2 ^ 32768 - 1) / (2 ^ 32 - 1))

/-- R120. -/
def execVli (g : Guard) (vd : Opnd) (imm : BitVec 32) (s : State) : Host.Outcome State Fault Refusal :=
  vForm s g vd false [] (fun _ => []) false true 4 (fun t _ =>
    { bits := laneAll imm.toNat, poison := 0, mask := t.mask g, flags := 0, draws := 0 })

/-- R120: the low bits of ga in every sub-element. -/
def execVbcs (g : Guard) (ty : Ty) (vd : Opnd) (ga : GReg) (s : State) : Host.Outcome State Fault Refusal :=
  vForm s g vd false [] (fun _ => [.g ga.toNat]) (ty == .f64) true 4 (fun t _ =>
    let w := ty.width
    { bits := ((t.g ga).val.toNat % 2 ^ w) * ((2 ^ 32768 - 1) / (2 ^ w - 1)), poison := allPoison (t.g ga).poison
      mask := typeMask ty (t.mask g), flags := 0, draws := 0 })

/-- R121. -/
def execVmovpToVector (g : Guard) (vd : Opnd) (pa : PRegNo) (s : State) : Host.Outcome State Fault Refusal :=
  vForm s g vd false [] (fun t => [.p (t.pp pa.toNat)]) false true 4 (fun t _ =>
    { bits := (laneMask (t.p pa).val).toNat, poison := allPoison (t.p pa).poison, mask := t.mask g, flags := 0, draws := 0 })

/-- R121: the register's own poison stays. -/
def execVmovpToPredicate (g : Guard) (pd : PRegNo) (va : VSrc) (s : State) : Host.Outcome State Fault Refusal :=
  vPred s g pd [va] false (fun t bs =>
    let m := t.mask g
    (BitVec.ofNat 1024 (bitsOf ((elems 1024 32 (nth bs 0).bits.toNat).map (fun x => x != 0))),
     (nth bs 0).poison &&& m != 0 || (t.p g.p).poison, m, true, 0))

/-- R121: the register's poison becomes the guard's. -/
def execVptest (g : Guard) (pd : PRegNo) (va : VSrc) (s : State) : Host.Outcome State Fault Refusal :=
  vPred s g pd [va] false (fun t bs => ((nth bs 0).poison, (t.p g.p).poison, t.mask g, false, 0))

/-- R121: not poisoned, even under a poisoned guard. -/
def execVpclr (g : Guard) (vd : Opnd) (va : VSrc) (s : State) : Host.Outcome State Fault Refusal :=
  vForm s g vd false [va] (fun _ => []) false false 4 (fun t bs =>
    { bits := (nth bs 0).bits.toNat, poison := 0, mask := t.mask g, flags := 0, draws := 0 })

end Sys2Proof.Machine
end

