-- ==== Sys2Proof/Machine/VecSpecial.lean ====
section
/-! DEFINITION. The special functions (R126, R127). -/

namespace Sys2Proof.Machine

/-- Special function fn of every element, in the order of R126. -/
def vSpecial (fn : Nat) (s : State) (g : Guard) (o : VUn) : Host.Outcome State Fault Refusal :=
  vForm s g o.vd false [o.va] (fun _ => []) false true 12 (fun t bs =>
    let md := t.mode o.rnd
    elementwise t g o.ty (md == .rsr) bs (fun u a _ _ => special fn o.ty md o.sat u a))

def execVrcp (g : Guard) (o : VUn) (s : State) : Host.Outcome State Fault Refusal := vSpecial 0 s g o
def execVrsq (g : Guard) (o : VUn) (s : State) : Host.Outcome State Fault Refusal := vSpecial 1 s g o
def execVsqrt (g : Guard) (o : VUn) (s : State) : Host.Outcome State Fault Refusal := vSpecial 2 s g o
def execVexp2 (g : Guard) (o : VUn) (s : State) : Host.Outcome State Fault Refusal := vSpecial 3 s g o
def execVlog2 (g : Guard) (o : VUn) (s : State) : Host.Outcome State Fault Refusal := vSpecial 4 s g o
def execVtanh (g : Guard) (o : VUn) (s : State) : Host.Outcome State Fault Refusal := vSpecial 5 s g o

end Sys2Proof.Machine
end

