-- ==== Sys2Proof/Machine/Dispatch.lean ====
section
/-! DEFINITION. The meaning of every instruction: one arm per constructor, each a direct call. -/

namespace Sys2Proof.Machine

/-- One instruction, as it acts on a state: a syllable for the strand `cur`, a near-memory word for the unit `unit`, an event of
the part. -/
def exec (i : Instr) (s : State) : Host.Outcome State Fault Refusal :=
  match i with
  | .add a b => Sys2Proof.Machine.execAdd a b s
  | .sub a b => Sys2Proof.Machine.execSub a b s
  | .addi a b c d e => Sys2Proof.Machine.execAddi a b c d e s
  | .mul a b => Sys2Proof.Machine.execMul a b s
  | .mulh a b => Sys2Proof.Machine.execMulh a b s
  | .mulhu a b => Sys2Proof.Machine.execMulhu a b s
  | .div a b => Sys2Proof.Machine.execDiv a b s
  | .divu a b => Sys2Proof.Machine.execDivu a b s
  | .rem a b => Sys2Proof.Machine.execRem a b s
  | .remu a b => Sys2Proof.Machine.execRemu a b s
  | .and a b => Sys2Proof.Machine.execAnd a b s
  | .or a b => Sys2Proof.Machine.execOr a b s
  | .xor a b => Sys2Proof.Machine.execXor a b s
  | .andn a b => Sys2Proof.Machine.execAndn a b s
  | .shl a b => Sys2Proof.Machine.execShl a b s
  | .shr a b => Sys2Proof.Machine.execShr a b s
  | .sra a b => Sys2Proof.Machine.execSra a b s
  | .rot a b => Sys2Proof.Machine.execRot a b s
  | .min a b => Sys2Proof.Machine.execMin a b s
  | .max a b => Sys2Proof.Machine.execMax a b s
  | .minu a b => Sys2Proof.Machine.execMinu a b s
  | .maxu a b => Sys2Proof.Machine.execMaxu a b s
  | .abs a b => Sys2Proof.Machine.execAbs a b s
  | .clz a b => Sys2Proof.Machine.execClz a b s
  | .ctz a b => Sys2Proof.Machine.execCtz a b s
  | .popc a b => Sys2Proof.Machine.execPopc a b s
  | .bfx a b c d e f => Sys2Proof.Machine.execBfx a b c d e f s
  | .bfi a b c d e f => Sys2Proof.Machine.execBfi a b c d e f s
  | .fsh a b c d e => Sys2Proof.Machine.execFsh a b c d e s
  | .bswap a b c => Sys2Proof.Machine.execBswap a b c s
  | .li a b c => Sys2Proof.Machine.execLi a b c s
  | .lih a b c d => Sys2Proof.Machine.execLih a b c d s
  | .cmp a b c d e => Sys2Proof.Machine.execCmp a b c d e s
  | .sel a b c d => Sys2Proof.Machine.execSel a b c d s
  | .movpToScalar a b c d => Sys2Proof.Machine.execMovpToScalar a b c d s
  | .movpToPredicate a b c d => Sys2Proof.Machine.execMovpToPredicate a b c d s
  | .lea a b c d e f => Sys2Proof.Machine.execLea a b c d e f s
  | .winq a b => Sys2Proof.Machine.execWinq a b s
  | .br a b c d e => Sys2Proof.Machine.execBr a b c d e s
  | .jmp a b => Sys2Proof.Machine.execJmp a b s
  | .call a b c => Sys2Proof.Machine.execCall a b c s
  | .ret a b => Sys2Proof.Machine.execRet a b s
  | .jr a b c d => Sys2Proof.Machine.execJr a b c d s
  | .loop a b c d => Sys2Proof.Machine.execLoop a b c d s
  | .brq a b c d => Sys2Proof.Machine.execBrq a b c d s
  | .halt a => Sys2Proof.Machine.execHalt a s
  | .nop a => Sys2Proof.Machine.execNop a s
  | .wfe a b c d => Sys2Proof.Machine.execWfe a b c d s
  | .pand a b => Sys2Proof.Machine.execPand a b s
  | .por a b => Sys2Proof.Machine.execPor a b s
  | .pxor a b => Sys2Proof.Machine.execPxor a b s
  | .pnot a b c => Sys2Proof.Machine.execPnot a b c s
  | .psetPredicate a b c => Sys2Proof.Machine.execPsetPredicate a b c s
  | .pcnt a b c => Sys2Proof.Machine.execPcnt a b c s
  | .pany a b c => Sys2Proof.Machine.execPany a b c s
  | .shset a b c d => Sys2Proof.Machine.execShset a b c d s
  | .shget a b c d e => Sys2Proof.Machine.execShget a b c d e s
  | .ld a b c d => Sys2Proof.Machine.execLd a b c d s
  | .st a b c => Sys2Proof.Machine.execSt a b c s
  | .fadd a b => Sys2Proof.Machine.execFadd a b s
  | .fsub a b => Sys2Proof.Machine.execFsub a b s
  | .fmul a b => Sys2Proof.Machine.execFmul a b s
  | .ffma a b c => Sys2Proof.Machine.execFfma a b c s
  | .fcvt a b c d e f g => Sys2Proof.Machine.execFcvt a b c d e f g s
  | .fcmp a b c d e f => Sys2Proof.Machine.execFcmp a b c d e f s
  | .sysr a b c => Sys2Proof.Machine.execSysr a b c s
  | .sysw a b c => Sys2Proof.Machine.execSysw a b c s
  | .trap a b => Sys2Proof.Machine.execTrap a b s
  | .eret a => Sys2Proof.Machine.execEret a s
  | .brk a b => Sys2Proof.Machine.execBrk a b s
  | .vadd a b => Sys2Proof.Machine.execVadd a b s
  | .vsub a b => Sys2Proof.Machine.execVsub a b s
  | .vmul a b => Sys2Proof.Machine.execVmul a b s
  | .vfma a b => Sys2Proof.Machine.execVfma a b s
  | .vfms a b => Sys2Proof.Machine.execVfms a b s
  | .vmin a b => Sys2Proof.Machine.execVmin a b s
  | .vmax a b => Sys2Proof.Machine.execVmax a b s
  | .vabs a b => Sys2Proof.Machine.execVabs a b s
  | .vneg a b => Sys2Proof.Machine.execVneg a b s
  | .vclamp a b => Sys2Proof.Machine.execVclamp a b s
  | .vand a b => Sys2Proof.Machine.execVand a b s
  | .vor a b => Sys2Proof.Machine.execVor a b s
  | .vxor a b => Sys2Proof.Machine.execVxor a b s
  | .vnot a b c => Sys2Proof.Machine.execVnot a b c s
  | .vshl a b => Sys2Proof.Machine.execVshl a b s
  | .vshr a b => Sys2Proof.Machine.execVshr a b s
  | .vsra a b => Sys2Proof.Machine.execVsra a b s
  | .vrot a b => Sys2Proof.Machine.execVrot a b s
  | .vpopc a b => Sys2Proof.Machine.execVpopc a b s
  | .vclz a b => Sys2Proof.Machine.execVclz a b s
  | .vbfx a b c d e f g => Sys2Proof.Machine.execVbfx a b c d e f g s
  | .vfsh a b c d e f => Sys2Proof.Machine.execVfsh a b c d e f s
  | .vcmp a b c d e f => Sys2Proof.Machine.execVcmp a b c d e f s
  | .vsel a b c d => Sys2Proof.Machine.execVsel a b c d s
  | .vmov a b c => Sys2Proof.Machine.execVmov a b c s
  | .vli a b c => Sys2Proof.Machine.execVli a b c s
  | .vbcs a b c d => Sys2Proof.Machine.execVbcs a b c d s
  | .vmovpToVector a b c => Sys2Proof.Machine.execVmovpToVector a b c s
  | .vmovpToPredicate a b c => Sys2Proof.Machine.execVmovpToPredicate a b c s
  | .vptest a b c => Sys2Proof.Machine.execVptest a b c s
  | .vpclr a b c => Sys2Proof.Machine.execVpclr a b c s
  | .vcvt a b c d => Sys2Proof.Machine.execVcvt a b c d s
  | .vpack a b c d e => Sys2Proof.Machine.execVpack a b c d e s
  | .vunpk a b c d e => Sys2Proof.Machine.execVunpk a b c d e s
  | .vquant a b c d e f g => Sys2Proof.Machine.execVquant a b c d e f g s
  | .vdeq a b c d e f => Sys2Proof.Machine.execVdeq a b c d e f s
  | .vrcp a b => Sys2Proof.Machine.execVrcp a b s
  | .vrsq a b => Sys2Proof.Machine.execVrsq a b s
  | .vsqrt a b => Sys2Proof.Machine.execVsqrt a b s
  | .vexp2 a b => Sys2Proof.Machine.execVexp2 a b s
  | .vlog2 a b => Sys2Proof.Machine.execVlog2 a b s
  | .vtanh a b => Sys2Proof.Machine.execVtanh a b s
  | .vrotr a b => Sys2Proof.Machine.execVrotr a b s
  | .vrotc a b => Sys2Proof.Machine.execVrotc a b s
  | .vbcr a b => Sys2Proof.Machine.execVbcr a b s
  | .vbcc a b => Sys2Proof.Machine.execVbcc a b s
  | .vredr a b => Sys2Proof.Machine.execVredr a b s
  | .vredc a b => Sys2Proof.Machine.execVredc a b s
  | .vscanr a b => Sys2Proof.Machine.execVscanr a b s
  | .vtrn a b c => Sys2Proof.Machine.execVtrn a b c s
  | .vgath a b c d e => Sys2Proof.Machine.execVgath a b c d e s
  | .vscat a b c d e => Sys2Proof.Machine.execVscat a b c d e s
  | .vlut a b c d e => Sys2Proof.Machine.execVlut a b c d e s
  | .mma a b c d e f => Sys2Proof.Machine.execMma a b c d e f s
  | .mmai a b c d e f g h j => Sys2Proof.Machine.execMmai a b c d e f g h j s
  | .mmax a b c d e f g h => Sys2Proof.Machine.execMmax a b c d e f g h s
  | .mmaa a b c d e f g h => Sys2Proof.Machine.execMmaa a b c d e f g h s
  | .mzero a b c => Sys2Proof.Machine.execMzero a b c s
  | .mload a b c d e => Sys2Proof.Machine.execMload a b c d e s
  | .mdrain a b c d e f g h j => Sys2Proof.Machine.execMdrain a b c d e f g h j s
  | .lease a b => Sys2Proof.Machine.execLease a b s
  | .unlease a => Sys2Proof.Machine.execUnlease a s
  | .twait a b => Sys2Proof.Machine.execTwait a b s
  | .tsig a b => Sys2Proof.Machine.execTsig a b s
  | .copy a b c d e f g h => Sys2Proof.Machine.execCopy a b c d e f g h s
  | .copyt a b c d e f g h j k => Sys2Proof.Machine.execCopyt a b c d e f g h j k s
  | .nlaunch a b c d e => Sys2Proof.Machine.execNlaunch a b c d e s
  | .pstart a b => Sys2Proof.Machine.execPstart a b s
  | .pstop a b => Sys2Proof.Machine.execPstop a b s
  | .psave a b c => Sys2Proof.Machine.execPsave a b c s
  | .pload a b c => Sys2Proof.Machine.execPload a b c s
  | .qflush a b c => Sys2Proof.Machine.execQflush a b c s
  | .clkdiv a b c => Sys2Proof.Machine.execClkdiv a b c s
  | .wake a b => Sys2Proof.Machine.execWake a b s
  | .vld a b c d e => Sys2Proof.Machine.execVld a b c d e s
  | .vst a b c d e => Sys2Proof.Machine.execVst a b c d e s
  | .lset a b c d => Sys2Proof.Machine.execLset a b c d s
  | .lget a b c d => Sys2Proof.Machine.execLget a b c d s
  | .psetPattern a b c d => Sys2Proof.Machine.execPsetPattern a b c d s
  | .qstat a b c d => Sys2Proof.Machine.execQstat a b c d s
  | .qrew a b c d => Sys2Proof.Machine.execQrew a b c d s
  | .rinit a b c d e => Sys2Proof.Machine.execRinit a b c d e s
  | .rclaim a b => Sys2Proof.Machine.execRclaim a b s
  | .rpub a b => Sys2Proof.Machine.execRpub a b s
  | .rwaitf a b => Sys2Proof.Machine.execRwaitf a b s
  | .rwaite a b => Sys2Proof.Machine.execRwaite a b s
  | .rrel a b => Sys2Proof.Machine.execRrel a b s
  | .rstat a b c => Sys2Proof.Machine.execRstat a b c s
  | .bset a b c d => Sys2Proof.Machine.execBset a b c d s
  | .barr a b c d => Sys2Proof.Machine.execBarr a b c d s
  | .bwait a b c d e => Sys2Proof.Machine.execBwait a b c d e s
  | .barw a b c d e => Sys2Proof.Machine.execBarw a b c d e s
  | .bstat a b c d => Sys2Proof.Machine.execBstat a b c d s
  | .aadd a b => Sys2Proof.Machine.execAadd a b s
  | .aand a b => Sys2Proof.Machine.execAand a b s
  | .aor a b => Sys2Proof.Machine.execAor a b s
  | .axor a b => Sys2Proof.Machine.execAxor a b s
  | .amin a b => Sys2Proof.Machine.execAmin a b s
  | .amax a b => Sys2Proof.Machine.execAmax a b s
  | .aminu a b => Sys2Proof.Machine.execAminu a b s
  | .amaxu a b => Sys2Proof.Machine.execAmaxu a b s
  | .axchg a b => Sys2Proof.Machine.execAxchg a b s
  | .acas a b c => Sys2Proof.Machine.execAcas a b c s
  | .acas2 a b c d e f g => Sys2Proof.Machine.execAcas2 a b c d e f g s
  | .afadd a b => Sys2Proof.Machine.execAfadd a b s
  | .redx a b c => Sys2Proof.Machine.execRedx a b c s
  | .redfOpen a b c => Sys2Proof.Machine.execRedfOpen a b c s
  | .redfRd a b c d => Sys2Proof.Machine.execRedfRd a b c d s
  | .redfFin a b c d => Sys2Proof.Machine.execRedfFin a b c d s
  | .redfSt a b c => Sys2Proof.Machine.execRedfSt a b c s
  | .semw a b c d e f => Sys2Proof.Machine.execSemw a b c d e f s
  | .sems a b c d => Sys2Proof.Machine.execSems a b c d s
  | .fence a b => Sys2Proof.Machine.execFence a b s
  | .mark a => Sys2Proof.Machine.execMark a s
  | .ldacq a b c d e f g => Sys2Proof.Machine.execLdacq a b c d e f g s
  | .strel a b c d e f => Sys2Proof.Machine.execStrel a b c d e f s
  | .rgsplit a b => Sys2Proof.Machine.execRgsplit a b s
  | .rgmerge a b => Sys2Proof.Machine.execRgmerge a b s
  | .rginv a b c d e => Sys2Proof.Machine.execRginv a b c d e s
  | .rgprobe a b c d => Sys2Proof.Machine.execRgprobe a b c d s
  | .rgfill a b c => Sys2Proof.Machine.execRgfill a b c s
  | .rgpin a b c => Sys2Proof.Machine.execRgpin a b c s
  | .bankoff a b => Sys2Proof.Machine.execBankoff a b s
  | .spdrop a b c => Sys2Proof.Machine.execSpdrop a b c s
  | .spwake a b => Sys2Proof.Machine.execSpwake a b s
  | .launch a b c d => Sys2Proof.Machine.execLaunch a b c d s
  | .node a b c d => Sys2Proof.Machine.execNode a b c d s
  | .lit a => Sys2Proof.Machine.execLit a s
  | .litx a b c => Sys2Proof.Machine.execLitx a b c s
  | .dup => Sys2Proof.Machine.execDup s
  | .drop => Sys2Proof.Machine.execDrop s
  | .swap => Sys2Proof.Machine.execSwap s
  | .nmOver => Sys2Proof.Machine.execNmOver s
  | .nmAdd => Sys2Proof.Machine.execNmAdd s
  | .nmAddImm a => Sys2Proof.Machine.execNmAddImm a s
  | .nmSub => Sys2Proof.Machine.execNmSub s
  | .nmSubImm a => Sys2Proof.Machine.execNmSubImm a s
  | .nmAnd => Sys2Proof.Machine.execNmAnd s
  | .nmAndImm a => Sys2Proof.Machine.execNmAndImm a s
  | .nmShl => Sys2Proof.Machine.execNmShl s
  | .nmShlImm a => Sys2Proof.Machine.execNmShlImm a s
  | .nmLdWs a => Sys2Proof.Machine.execNmLdWs a s
  | .nmLdMem a => Sys2Proof.Machine.execNmLdMem a s
  | .nmStWs a => Sys2Proof.Machine.execNmStWs a s
  | .nmStMem a => Sys2Proof.Machine.execNmStMem a s
  | .mvx a => Sys2Proof.Machine.execMvx a s
  | .mvwait => Sys2Proof.Machine.execMvwait s
  | .red => Sys2Proof.Machine.execRed s
  | .racc a b => Sys2Proof.Machine.execRacc a b s
  | .rfin a b => Sys2Proof.Machine.execRfin a b s
  | .vin => Sys2Proof.Machine.execVin s
  | .vout => Sys2Proof.Machine.execVout s
  | .rowclaim => Sys2Proof.Machine.execRowclaim s
  | .rowrel => Sys2Proof.Machine.execRowrel s
  | .nmSemw a => Sys2Proof.Machine.execNmSemw a s
  | .nmSems => Sys2Proof.Machine.execNmSems s
  | .nmFence => Sys2Proof.Machine.execNmFence s
  | .nmLoop a => Sys2Proof.Machine.execNmLoop a s
  | .next => Sys2Proof.Machine.execNext s
  | .nmBr a => Sys2Proof.Machine.execNmBr a s
  | .nmJmp a => Sys2Proof.Machine.execNmJmp a s
  | .nmEnd => Sys2Proof.Machine.execNmEnd s
  | .nmTrap a => Sys2Proof.Machine.execNmTrap a s
  | .nmNop => Sys2Proof.Machine.execNmNop s
  | .engineCommandStart a b => Sys2Proof.Machine.execEngineCommandStart a b s
  | .engineCommandFinish a b => Sys2Proof.Machine.execEngineCommandFinish a b s
  | .arrayGrant a => Sys2Proof.Machine.execArrayGrant a s
  | .productKBlock a b => Sys2Proof.Machine.execProductKBlock a b s
  | .productStop a b => Sys2Proof.Machine.execProductStop a b s
  | .engineFaultDelivery a b => Sys2Proof.Machine.execEngineFaultDelivery a b s
  | .patternBlockFetch a b => Sys2Proof.Machine.execPatternBlockFetch a b s
  | .patternBlockWrite a b => Sys2Proof.Machine.execPatternBlockWrite a b s
  | .rewind a b => Sys2Proof.Machine.execRewind a b s
  | .copyGranule a b => Sys2Proof.Machine.execCopyGranule a b s
  | .copyRingCompletion a b => Sys2Proof.Machine.execCopyRingCompletion a b s
  | .nmuLaunchAccept a => Sys2Proof.Machine.execNmuLaunchAccept a s
  | .mveProductEnd a => Sys2Proof.Machine.execMveProductEnd a s
  | .nmuAbort a => Sys2Proof.Machine.execNmuAbort a s
  | .bankIdle a b => Sys2Proof.Machine.execBankIdle a b s
  | .bankWake a => Sys2Proof.Machine.execBankWake a s
  | .arrayGate a => Sys2Proof.Machine.execArrayGate a s
  | .arrayWake a => Sys2Proof.Machine.execArrayWake a s
  | .deadlineExpiry a => Sys2Proof.Machine.execDeadlineExpiry a s
  | .wfeTimeout a => Sys2Proof.Machine.execWfeTimeout a s
  | .resultLanding a b => Sys2Proof.Machine.execResultLanding a b s
  | .trapEntry a => Sys2Proof.Machine.execTrapEntry a s
  | .requestResend a => Sys2Proof.Machine.execRequestResend a s
  | .homeAccess a => Sys2Proof.Machine.execHomeAccess a s
  | .routerMerge a b => Sys2Proof.Machine.execRouterMerge a b s
  | .reductionApply a => Sys2Proof.Machine.execReductionApply a s
  | .semaphoreWaiterWake a => Sys2Proof.Machine.execSemaphoreWaiterWake a s
  | .barrierParentArrival a => Sys2Proof.Machine.execBarrierParentArrival a s
  | .barrierFlipDown a => Sys2Proof.Machine.execBarrierFlipDown a s
  | .arbiterAccept a => Sys2Proof.Machine.execArbiterAccept a s
  | .arbiterServe a => Sys2Proof.Machine.execArbiterServe a s
  | .yieldBoundExpiry a => Sys2Proof.Machine.execYieldBoundExpiry a s
  | .ageCapExpiry a => Sys2Proof.Machine.execAgeCapExpiry a s
  | .refresh a => Sys2Proof.Machine.execRefresh a s
  | .budgetInterval => Sys2Proof.Machine.execBudgetInterval s
  | .budgetWatchdogExpiry => Sys2Proof.Machine.execBudgetWatchdogExpiry s
  | .rangeWalk a b => Sys2Proof.Machine.execRangeWalk a b s
  | .walkDeadline a => Sys2Proof.Machine.execWalkDeadline a s
  | .shootdown a b => Sys2Proof.Machine.execShootdown a b s
  | .fillComplete a => Sys2Proof.Machine.execFillComplete a s
  | .fillDeadline a => Sys2Proof.Machine.execFillDeadline a s
  | .moveRequest a => Sys2Proof.Machine.execMoveRequest a s
  | .retireRequest a => Sys2Proof.Machine.execRetireRequest a s
  | .compactorGranule a => Sys2Proof.Machine.execCompactorGranule a s
  | .moveFinish a => Sys2Proof.Machine.execMoveFinish a s
  | .queueTake a => Sys2Proof.Machine.execQueueTake a s
  | .recordReady a => Sys2Proof.Machine.execRecordReady a s
  | .priorityAgeing a => Sys2Proof.Machine.execPriorityAgeing a s
  | .placement a b => Sys2Proof.Machine.execPlacement a b s
  | .rowLoad a b => Sys2Proof.Machine.execRowLoad a b s
  | .strandStart a => Sys2Proof.Machine.execStrandStart a s
  | .strandEnd a => Sys2Proof.Machine.execStrandEnd a s
  | .kernelEnd a => Sys2Proof.Machine.execKernelEnd a s
  | .gracePeriodExpiry a => Sys2Proof.Machine.execGracePeriodExpiry a s
  | .saveImageWrite a => Sys2Proof.Machine.execSaveImageWrite a s
  | .kernelResume a => Sys2Proof.Machine.execKernelResume a s
  | .hostMemoryRead a b => Sys2Proof.Machine.execHostMemoryRead a b s
  | .hostMemoryWrite a b c => Sys2Proof.Machine.execHostMemoryWrite a b c s
  | .hostAtomicop a b c d e => Sys2Proof.Machine.execHostAtomicop a b c d e s
  | .managementRegisterWrite a b c => Sys2Proof.Machine.execManagementRegisterWrite a b c s
  | .budgetRefresh a b => Sys2Proof.Machine.execBudgetRefresh a b s
  | .nabortWrite a b c => Sys2Proof.Machine.execNabortWrite a b c s
  | .answerWalk a b => Sys2Proof.Machine.execAnswerWalk a b s
  | .answerFill a b => Sys2Proof.Machine.execAnswerFill a b s
  | .answerFlip a => Sys2Proof.Machine.execAnswerFlip a s
  | .strandWindowWrite a b c d => Sys2Proof.Machine.execStrandWindowWrite a b c d s
  | .hostResume a => Sys2Proof.Machine.execHostResume a s
  | .hostEndKernel a => Sys2Proof.Machine.execHostEndKernel a s
  | .hostRequestMessage => Sys2Proof.Machine.execHostRequestMessage s
  | .firmwareUpdate a => Sys2Proof.Machine.execFirmwareUpdate a s
  | .firmwareReadyTimeout => Sys2Proof.Machine.execFirmwareReadyTimeout s
  | .linkRequest a b => Sys2Proof.Machine.execLinkRequest a b s
  | .portFailure a => Sys2Proof.Machine.execPortFailure a s
  | .droop a => Sys2Proof.Machine.execDroop a s
  | .currentLimit a => Sys2Proof.Machine.execCurrentLimit a s
  | .stackHot a => Sys2Proof.Machine.execStackHot a s
  | .thermalTrip a => Sys2Proof.Machine.execThermalTrip a s
  | .deviceReset => Sys2Proof.Machine.execDeviceReset s
  | .getVersion => Sys2Proof.Machine.execGetVersion s
  | .getCapabilities => Sys2Proof.Machine.execGetCapabilities s
  | .negotiateAlgorithms => Sys2Proof.Machine.execNegotiateAlgorithms s
  | .getDigests => Sys2Proof.Machine.execGetDigests s
  | .getCertificate => Sys2Proof.Machine.execGetCertificate s
  | .challenge => Sys2Proof.Machine.execChallenge s
  | .getMeasurements => Sys2Proof.Machine.execGetMeasurements s
  | .illegalWord a => Sys2Proof.Machine.execIllegalWord a s
  | .railRecovery a => Sys2Proof.Machine.execRailRecovery a s
  | .hotStateEnd a => Sys2Proof.Machine.execHotStateEnd a s
  | .hostPortCompletion a b c => Sys2Proof.Machine.execHostPortCompletion a b c s
  | .peerAcknowledgement a b c => Sys2Proof.Machine.execPeerAcknowledgement a b c s
  | .softError a => Sys2Proof.Machine.execSoftError a s

end Sys2Proof.Machine
end

