-- ==== Sys2Proof/Machine/Bundle.lean ====
section
/-! DEFINITION. What a step does around `exec`: the boundary of a strand with its traps in their order (R18, R234, R448, R463,
R464), the syllables of a bundle as one (R16, R290), a word of a near-memory unit, and the instruction placed for a first
step. -/

namespace Sys2Proof.Machine

/-- Syllables that need supervisor state (R39 to R43). -/
def needsPriv : Instr → Bool
  | .eret _ | .rgsplit _ _ | .rgmerge _ _ | .rginv _ _ _ _ _ | .rgpin _ _ _ => true
  | .sysr _ _ n => !userReads n.toNat
  | .sysw _ n _ => !userWrites n.toNat
  | _ => false

/-- Item 3 of R18 for one syllable. -/
def staticFault (t : Strand) (w : Word) : Option (BitVec 8) :=
  match decodeSyllable w with
  | .error .opcode => some 0x01
  | .error .operand => some 0x03
  | .ok i => if needsPriv i && !t.sys.priv then some 0x04 else none

/-- The instructions of a bundle that decodes. -/
def decoded (ws : List Word) : List Instr :=
  ws.filterMap (fun w => match decodeSyllable w with | .ok i => some i | .error _ => none)

def isWfe : Instr → Bool
  | .wfe _ _ _ _ => true
  | _ => false

/-- A strand ready to issue a bundle of k syllables. -/
def prepare (s : State) (k : Nat) (more : Bool) : State :=
  s.setMe { s.me with blen := k, more := more, iss := .none }

/-- The first syllable that holds or traps, with what its attempt does; none where every one can issue. -/
def probe (s : State) : List Instr → Option (Host.Outcome State Fault Refusal)
  | [] => none
  | i :: is =>
    match exec i s with
    | .next u => if u.me.iss == .issued then probe s is else some (.next (u.setMe { u.me with more := false, blen := 1 }))
    | r => some r

/-- The syllables of a bundle, one after another; the last ends it. -/
def runAll (s : State) : List Instr → Host.Outcome State Fault Refusal
  | [] => .next s
  | [i] => exec i (s.setMe { s.me with more := false, iss := .none })
  | i :: is =>
    match exec i s with
    | .next u => if u.me.iss == .issued then runAll (u.setMe { u.me with iss := .none }) is else .next u
    | r => r

/-- What keeps a bundle from issuing (R18, R290): the first syllable that traps or holds, in class order; a `wfe` that holds, and whose
timeout counts only once every other syllable can issue (R98), after all others. -/
def stopper (s : State) (is : List Instr) : Option (Host.Outcome State Fault Refusal) :=
  let rest := probe s (is.filter (fun i => !isWfe i))
  match probe s (is.filter isWfe) with
  | some (.next u) => some (if u.me.iss == .trapped then .next u else rest.getD (.next u))
  | some r => some r
  | none => rest

/-- A bundle that decodes: one syllable acts at once; several act together, or what stops one stops all (R16, R18). -/
def runBundle (s : State) (is : List Instr) : Host.Outcome State Fault Refusal :=
  match is with
  | [i] => exec i (prepare s 1 false)
  | is =>
    let s0 := prepare s is.length true
    match stopper s0 is with
    | some r => r
    | none =>
      match runAll s0 is with
      | .next u => if u.me.iss == .issued then .next u else .next (held s)
      | r => r

/-- Fetch, frame, check and run the bundle at the strand's pc (R15 to R18). -/
def issueBundle (s : State) : Host.Outcome State Fault Refusal :=
  match s.fetch s.cur with
  | .miss _ => .next (held s)
  | .fault c va => .next (trapped (s.reported s.cur) { cause := c, tva := va })
  | .ok ws =>
    let s := s.noteFetch s.cur ws.length
    if !framed ws || conflicts s.me ws then .next (trapped s { cause := 0x02 })
    else
      match ws.findSome? (fun w => staticFault s.me w) with
      | some c => .next (trapped s { cause := c })
      | none => runBundle s (decoded ws)

/-- Results that are due land before a strand cycle begins. -/
def prelude (n : Nat) (s : State) : State :=
  let s := { s with cur := n }
  s.setMe s.me.landDue

/-- One strand cycle of a strand that runs. -/
def stepStrand (n : Nat) (s : State) : Host.Outcome State Fault Refusal :=
  if (s.strand n).phase != .running then .next { s with cur := n }
  else
    let s := prelude n s
    if s.me.entering then .next (s.enterHandler n)
    else match boundary s with
    | some u => .next u
    | none => if s.me.clock < s.me.readyAt then .next (s.setMe s.me.idleCycle) else issueBundle s


/-- One word of a near-memory unit that runs a kernel. -/
def stepNmu (u : Nat) (s : State) : Host.Outcome State Fault Refusal :=
  let s := { s with unit := u }
  if (s.nmu u).run.isNone then .next s
  else match decodeNm (s.nmu u).nextWords with
  | some (i, _) => exec i s
  | none => execIllegalWord u s

/-- Rows of the table that are events: neither syllables nor near-memory words. -/
def isEvent : Instr → Bool
  | .engineCommandStart _ _ | .engineCommandFinish _ _ | .arrayGrant _ | .productKBlock _ _ | .productStop _ _
  | .engineFaultDelivery _ _ | .patternBlockFetch _ _ | .patternBlockWrite _ _ | .rewind _ _ | .copyGranule _ _
  | .copyRingCompletion _ _ | .nmuLaunchAccept _ | .mveProductEnd _ | .nmuAbort _ | .bankIdle _ _ | .bankWake _
  | .arrayGate _ | .arrayWake _ | .deadlineExpiry _ | .wfeTimeout _ | .resultLanding _ _ | .trapEntry _ | .requestResend _
  | .homeAccess _ | .routerMerge _ _ | .reductionApply _ | .semaphoreWaiterWake _ | .barrierParentArrival _
  | .barrierFlipDown _ | .arbiterAccept _ | .arbiterServe _ | .yieldBoundExpiry _ | .ageCapExpiry _ | .refresh _
  | .budgetInterval | .budgetWatchdogExpiry | .rangeWalk _ _ | .walkDeadline _ | .shootdown _ _ | .fillComplete _
  | .fillDeadline _ | .moveRequest _ | .retireRequest _ | .compactorGranule _ | .moveFinish _ | .queueTake _ | .recordReady _
  | .priorityAgeing _ | .placement _ _ | .rowLoad _ _ | .strandStart _ | .strandEnd _ | .kernelEnd _ | .gracePeriodExpiry _
  | .saveImageWrite _ | .kernelResume _ | .hostMemoryRead _ _ | .hostMemoryWrite _ _ _ | .hostAtomicop _ _ _ _ _
  | .managementRegisterWrite _ _ _ | .budgetRefresh _ _ | .nabortWrite _ _ _ | .answerWalk _ _ | .answerFill _ _
  | .answerFlip _ | .strandWindowWrite _ _ _ _ | .hostResume _ | .hostEndKernel _ | .hostRequestMessage | .firmwareUpdate _
  | .firmwareReadyTimeout | .linkRequest _ _ | .portFailure _ | .droop _ | .currentLimit _ | .stackHot _ | .thermalTrip _
  | .deviceReset | .getVersion | .getCapabilities | .negotiateAlgorithms | .getDigests | .getCertificate | .challenge
  | .getMeasurements | .illegalWord _ | .railRecovery _ | .hotStateEnd _ | .hostPortCompletion _ _ _
  | .peerAcknowledgement _ _ _ | .softError _ => true
  | _ => false

/-- The next move: the head of the plan, or the part's own choice (log entry 1). -/
def nextMove (s : State) : Move × State :=
  match s.sched with
  | m :: ms => (m, { s with sched := ms })
  | [] => (Config.freeMove s.turn, { s with turn := s.turn + 1 })

/-- One move of the machine; with the rails off (R477) nothing acts but a reset. -/
def makeMove (m : Move) (s : State) : Host.Outcome State Fault Refusal :=
  if s.t.tripped.isSome && m != .event .deviceReset then .next s
  else match m with
  | .strand n => if n < numStrands then stepStrand n s else .next s
  | .nmu u => if u < numNmus then stepNmu u s else .next s
  | .event i => if isEvent i then exec i s else .next s

/-! The instruction placed for a first step. -/

/-- The kernel that stands for a loader: one row of code at address 0 of its range. -/
def loadedKernel : Kernel :=
  { (default : Kernel) with id := 1, typ := 1, stage := 3, codeBase := 0, codeLen := 4096, rows := 1, strands := 1, placed := [0] }

/-- Strand 0 of the loaded kernel runs at the first bundle of a row that holds one syllable with its end bit set. -/
def placeSyllable (s : State) (w : Nat) : State :=
  let row : Row := { kernel := 1, n := 0, code := writeBytes [] 0 (toBytes 8 (w % 2 ^ 63 + 2 ^ 63)), last := 0, fault := [] }
  let s := { s with sched := [.strand 0], d := { s.d with kernels := [loadedKernel] } }
  let s := s.modCore 0 (fun c => { c with rows := [row] })
  s.modStrand 0 (fun t => { t with phase := .running, kernel := 1, pc := 0 })

/-- Unit 0 runs a kernel whose first word is the given one. -/
def placeWord (s : State) (w : Nat) : State :=
  let l : NLaunch := { fromCmd := none, kernel := 1, asid := 0, entry := 0, args := [], code := none }
  let s := { s with sched := [.nmu 0], d := { s.d with kernels := [{ loadedKernel with typ := 2, placed := [], nmus := [0] }] } }
  s.modNmu 0 (fun m => { m with ws := writeBytes m.ws 0 (toBytes 2 w), run := some l, pc := 0 })

end Sys2Proof.Machine
end

