-- ==== Sys2Proof/Machine/Step.lean ====
section
/-! DEFINITION. One step of the machine is one move of the plan; and the instruction the next step runs. -/

namespace Sys2Proof.Machine

/-- One step. -/
def step (s : State) : Host.Outcome State Fault Refusal := makeMove (nextMove s).1 (nextMove s).2

/-- s with one instruction placed so that the very next step runs it: a near-memory word on unit 0, a syllable on strand 0. -/
def State.withFetchWord (s : State) (nbits w : Nat) : State := if nbits == 16 then placeWord s w else placeSyllable s w

end Sys2Proof.Machine
end

