-- ==== Sys2Proof/Safety.lean ====
section
/-! DEFINITION. The terms in which claims about the machine are stated: when a syllable issues, what an outcome leaves alone, which
memories are in their canonical form. -/

namespace Sys2Proof.Machine

/-! Memory. -/

/-- Every memory of the package is in its canonical form. -/
def State.memOk (s : State) : Prop :=
  Memory.wf s.dram = true ∧ Memory.wf s.chip = true ∧ Memory.wf s.host = true ∧ Memory.wf s.peer = true

/-- The bytes of every memory read alike in two states. -/
def SameMemory (s t : State) : Prop :=
  ∀ a, memGet t.dram a = memGet s.dram a ∧ memGet t.chip a = memGet s.chip a ∧ memGet t.host a = memGet s.host a ∧
    memGet t.peer a = memGet s.peer a

/-! Frames. -/

/-- Nothing of the machine but the acting strand differs. -/
def OnlyMe (s t : State) : Prop :=
  { t with strands := s.strands } = s ∧ ∀ n, n ≠ s.cur → t.strand n = s.strand n

/-- Nothing of the machine but strand n differs. -/
def OnlyStrand (n : Nat) (s t : State) : Prop :=
  { t with strands := s.strands } = s ∧ ∀ k, k ≠ n → t.strand k = s.strand k

/-- Nothing of the machine but unit u differs. -/
def OnlyNmu (u : Nat) (s t : State) : Prop :=
  { t with nmus := s.nmus } = s ∧ ∀ k, k ≠ u → t.nmu k = s.nmu k

/-! Issue. -/

/-- The registers a syllable names are settled, its guard among them, and the guard selects some lane. -/
def Ready (s : State) (g : Guard) (ds : List Dst) : Prop :=
  s.me.busy [.p (s.me.pp g.p.toNat)] = false ∧ s.me.active g = true ∧ s.me.busy ds = false

/-- The instruction issues: the acting strand becomes t, and its bundle goes on or ends. -/
def Issues (i : Instr) (s : State) (t : Strand) : Prop := exec i s = .next (conclude (s.setMe t))

/-- The instruction issues with the machine at u. -/
def IssuesAt (i : Instr) (s u : State) : Prop := exec i s = .next (conclude u)

/-- The instruction traps with a record. -/
def Traps (i : Instr) (s : State) (r : TrapRec) : Prop := exec i s = .next (trapped s r)

/-- The instruction holds its bundle for a cycle, with the machine at u before the cycle passes. -/
def HoldsAt (i : Instr) (s u : State) : Prop := exec i s = .next (held u)

/-- The poison of a guard. -/
def gp (s : State) (g : Guard) : Bool := (s.me.p g.p).poison

/-- The instruction issues and sends one scalar result: to gd, value v, poison, after lat strand cycles. -/
def SendsG (i : Instr) (s : State) (gd : GReg) (v : Word) (poison : Bool) (lat : Nat) : Prop :=
  Issues i s (s.me.fly (.g gd.toNat) (.s { val := v, poison := poison }) 0 lat true)

/-- The instruction issues and sends one predicate result to pd: value, poison, the bits it writes, whether the register's poison
stays. -/
def SendsP (i : Instr) (s : State) (pd : PRegNo) (v : Mask) (poison : Bool) (m : Mask) (keep : Bool) : Prop :=
  Issues i s (s.me.fly (.p (s.me.pp pd.toNat)) (.p { val := v, poison := poison } m keep) 0 2 true)

/-- The guard of a strand syllable; none for near-memory words and events. -/
def guardOf : Instr → Option Guard
  | .add g _ | .sub g _ | .addi g _ _ _ _ | .mul g _ | .mulh g _ | .mulhu g _ | .div g _ | .divu g _ | .rem g _ | .remu g _
  | .and g _ | .or g _ | .xor g _ | .andn g _ | .shl g _ | .shr g _ | .sra g _ | .rot g _ | .min g _ | .max g _ | .minu g _
  | .maxu g _ | .abs g _ | .clz g _ | .ctz g _ | .popc g _ | .bfx g _ _ _ _ _ | .bfi g _ _ _ _ _ | .fsh g _ _ _ _
  | .bswap g _ _ | .li g _ _ | .lih g _ _ _ | .cmp g _ _ _ _ | .sel g _ _ _ | .movpToScalar g _ _ _ | .movpToPredicate g _ _ _
  | .lea g _ _ _ _ _ | .winq g _ | .br g _ _ _ _ | .jmp g _ | .call g _ _ | .ret g _ | .jr g _ _ _ | .loop g _ _ _
  | .brq g _ _ _ | .halt g | .nop g | .wfe g _ _ _ | .pand g _ | .por g _ | .pxor g _ | .pnot g _ _ | .psetPredicate g _ _
  | .pcnt g _ _ | .pany g _ _ | .shset g _ _ _ | .shget g _ _ _ _ | .ld g _ _ _ | .st g _ _ | .fadd g _ | .fsub g _ | .fmul g _
  | .ffma g _ _ | .fcvt g _ _ _ _ _ _ | .fcmp g _ _ _ _ _ | .sysr g _ _ | .sysw g _ _ | .trap g _ | .eret g | .brk g _
  | .vadd g _ | .vsub g _ | .vmul g _ | .vfma g _ | .vfms g _ | .vmin g _ | .vmax g _ | .vabs g _ | .vneg g _ | .vclamp g _
  | .vand g _ | .vor g _ | .vxor g _ | .vnot g _ _ | .vshl g _ | .vshr g _ | .vsra g _ | .vrot g _ | .vpopc g _ | .vclz g _
  | .vbfx g _ _ _ _ _ _ | .vfsh g _ _ _ _ _ | .vcmp g _ _ _ _ _ | .vsel g _ _ _ | .vmov g _ _ | .vli g _ _ | .vbcs g _ _ _
  | .vmovpToVector g _ _ | .vmovpToPredicate g _ _ | .vptest g _ _ | .vpclr g _ _ | .vcvt g _ _ _ | .vpack g _ _ _ _
  | .vunpk g _ _ _ _ | .vquant g _ _ _ _ _ _ | .vdeq g _ _ _ _ _ | .vrcp g _ | .vrsq g _ | .vsqrt g _ | .vexp2 g _
  | .vlog2 g _ | .vtanh g _ | .vrotr g _ | .vrotc g _ | .vbcr g _ | .vbcc g _ | .vredr g _ | .vredc g _ | .vscanr g _
  | .vtrn g _ _ | .vgath g _ _ _ _ | .vscat g _ _ _ _ | .vlut g _ _ _ _
  | .vld g _ _ _ _ | .vst g _ _ _ _ | .lset g _ _ _ | .lget g _ _ _ | .psetPattern g _ _ _ | .qstat g _ _ _ | .qrew g _ _ _
  | .rinit g _ _ _ _ | .rclaim g _ | .rpub g _ | .rwaitf g _ | .rwaite g _ | .rrel g _ | .rstat g _ _ | .bset g _ _ _
  | .barr g _ _ _ | .bwait g _ _ _ _ | .barw g _ _ _ _ | .bstat g _ _ _ | .aadd g _ | .aand g _ | .aor g _ | .axor g _
  | .amin g _ | .amax g _ | .aminu g _ | .amaxu g _ | .axchg g _ | .acas g _ _ | .acas2 g _ _ _ _ _ _ | .afadd g _
  | .redx g _ _ | .redfOpen g _ _ | .redfRd g _ _ _ | .redfFin g _ _ _ | .redfSt g _ _ | .semw g _ _ _ _ _ | .sems g _ _ _
  | .fence g _ | .mark g | .ldacq g _ _ _ _ _ _ | .strel g _ _ _ _ _ | .rgsplit g _ | .rgmerge g _ | .rginv g _ _ _ _
  | .rgprobe g _ _ _ | .rgfill g _ _ | .rgpin g _ _ | .bankoff g _ | .spdrop g _ _ | .spwake g _ | .launch g _ _ _
  | .node g _ _ _ => some g
  | .mma h _ _ _ _ _ | .mmai h _ _ _ _ _ _ _ _ | .mmax h _ _ _ _ _ _ _ | .mmaa h _ _ _ _ _ _ _ | .mzero h _ _
  | .mload h _ _ _ _ | .mdrain h _ _ _ _ _ _ _ _ | .lease h _ | .unlease h | .twait h _ | .tsig h _
  | .copy h _ _ _ _ _ _ _ | .copyt h _ _ _ _ _ _ _ _ _ | .nlaunch h _ _ _ _ | .pstart h _ | .pstop h _ | .psave h _ _
  | .pload h _ _ | .qflush h _ _ | .clkdiv h _ _ | .wake h _ => some h.g
  | .lit _ | .litx _ _ _ | .dup | .drop | .swap | .nmOver | .nmAdd | .nmAddImm _ | .nmSub | .nmSubImm _ | .nmAnd | .nmAndImm _
  | .nmShl | .nmShlImm _ | .nmLdWs _ | .nmLdMem _ | .nmStWs _ | .nmStMem _ | .mvx _ | .mvwait | .red | .racc _ _ | .rfin _ _
  | .vin | .vout | .rowclaim | .rowrel | .nmSemw _ | .nmSems | .nmFence | .nmLoop _ | .next | .nmBr _ | .nmJmp _ | .nmEnd
  | .nmTrap _ | .nmNop => none
  | .engineCommandStart _ _ | .engineCommandFinish _ _ | .arrayGrant _ | .productKBlock _ _ | .productStop _ _
  | .engineFaultDelivery _ _ | .patternBlockFetch _ _ | .patternBlockWrite _ _ | .rewind _ _ | .copyGranule _ _
  | .copyRingCompletion _ _ | .nmuLaunchAccept _ | .mveProductEnd _ | .nmuAbort _ | .bankIdle _ _ | .bankWake _
  | .arrayGate _ | .arrayWake _ | .deadlineExpiry _ | .wfeTimeout _ | .resultLanding _ _ | .trapEntry _ | .requestResend _
  | .homeAccess _ | .routerMerge _ _ | .reductionApply _ | .semaphoreWaiterWake _ | .barrierParentArrival _
  | .barrierFlipDown _ | .arbiterAccept _ | .arbiterServe _ | .yieldBoundExpiry _ | .ageCapExpiry _ | .refresh _
  | .budgetInterval | .budgetWatchdogExpiry | .rangeWalk _ _ | .walkDeadline _ | .shootdown _ _ | .fillComplete _
  | .fillDeadline _ | .moveRequest _ | .retireRequest _ | .compactorGranule _ | .moveFinish _ | .queueTake _ | .recordReady _
  | .priorityAgeing _ | .placement _ _ | .rowLoad _ _ | .strandStart _ | .strandEnd _ | .kernelEnd _ | .gracePeriodExpiry _
  | .saveImageWrite _ | .kernelResume _ | .hostMemoryRead _ _ | .hostMemoryWrite _ _ _ | .hostAtomicop _ _ _ _ _
  | .managementRegisterWrite _ _ _ | .budgetRefresh _ _ | .nabortWrite _ _ _ | .answerWalk _ _ | .answerFill _ _
  | .answerFlip _ | .strandWindowWrite _ _ _ _ | .hostResume _ | .hostEndKernel _ | .hostRequestMessage | .firmwareUpdate _
  | .firmwareReadyTimeout | .linkRequest _ _ | .portFailure _ | .droop _ | .currentLimit _ | .stackHot _ | .thermalTrip _
  | .deviceReset | .getVersion | .getCapabilities | .negotiateAlgorithms | .getDigests | .getCertificate | .challenge
  | .getMeasurements | .illegalWord _ | .railRecovery _ | .hotStateEnd _ | .hostPortCompletion _ _ _
  | .peerAcknowledgement _ _ _ | .softError _ => none

end Sys2Proof.Machine
end

