-- ==== Sys2Proof/Certificates/Slice0/Obligations.lean ====
section
/-! DEFINITION. What is claimed of the model, one definition a claim; each docstring says which rules of spec/ it states. -/

open Sys2Proof Sys2Proof.Machine

/-! Scalar integer instructions and predicates (R77 to R88, R102). -/

/-- R78, R80, R81, R102: the binary integer forms. With both registers settled and the guard active, each issues and sends to gd, after its
latency, the value R78 and R80 give, modulo 2^64; poison of a source or of the guard goes with it (R71). A result sent to g0 is
discarded where it lands (ResultLandsWhereSent). With no division under way, a division issues; its result is scoreboarded, lands 12 to 40
strand cycles after issue, and is the value of R81. Completes: add, sub, mul, mulh, mulhu, and, or, xor, andn, shl, shr, sra, rot, min, max,
minu, maxu, div, divu, rem, remu. -/
def Obligations.ScalarBinaryResults : Prop :=
  (∀ (s : State) (g : Guard) (o : SBin), Ready s g (.g o.gd.toNat :: .g o.ga.toNat :: srcBReg o.b) →
     let x := (s.me.g o.ga).val
     let y := (s.me.srcB o.b).val
     let n := y.toNat % 256
     let bad := (s.me.g o.ga).poison || (s.me.srcB o.b).poison || gp s g
     SendsG (.add g o) s o.gd (x + y) bad 1 ∧
     SendsG (.sub g o) s o.gd (x - y) bad 1 ∧
     SendsG (.mul g o) s o.gd (x * y) bad 3 ∧
     SendsG (.mulh g o) s o.gd (BitVec.ofInt 64 (x.toInt * y.toInt / 2 ^ 64)) bad 4 ∧
     SendsG (.mulhu g o) s o.gd (BitVec.ofNat 64 (x.toNat * y.toNat / 2 ^ 64)) bad 4 ∧
     SendsG (.and g o) s o.gd (x &&& y) bad 1 ∧
     SendsG (.or g o) s o.gd (x ||| y) bad 1 ∧
     SendsG (.xor g o) s o.gd (x ^^^ y) bad 1 ∧
     SendsG (.andn g o) s o.gd (x &&& ~~~y) bad 1 ∧
     SendsG (.shl g o) s o.gd (if 64 ≤ n then 0 else x <<< n) bad 1 ∧
     SendsG (.shr g o) s o.gd (if 64 ≤ n then 0 else x >>> n) bad 1 ∧
     SendsG (.sra g o) s o.gd (x.sshiftRight (min n 64)) bad 1 ∧
     SendsG (.rot g o) s o.gd (x.rotateLeft (n % 64)) bad 1 ∧
     SendsG (.min g o) s o.gd (if y.toInt < x.toInt then y else x) bad 1 ∧
     SendsG (.max g o) s o.gd (if x.toInt < y.toInt then y else x) bad 1 ∧
     SendsG (.minu g o) s o.gd (if y.toNat < x.toNat then y else x) bad 1 ∧
     SendsG (.maxu g o) s o.gd (if x.toNat < y.toNat then y else x) bad 1) ∧
  (∀ (s : State) (g : Guard) (o : SBin), Ready s g (.g o.gd.toNat :: .g o.ga.toNat :: srcBReg o.b) →
     s.me.flights.any (fun x => x.last != 0) = false →
     let x := (s.me.g o.ga).val
     let y := (s.me.srcB o.b).val
     let bad := (s.me.g o.ga).poison || (s.me.srcB o.b).poison || gp s g
     let sent (v : Word) : Strand :=
       { s.me with flights := s.me.flights ++
           [{ tag := s.me.newTag, bundle := s.me.bundle, dst := .g o.gd.toNat, val := .s { val := v, poison := bad }, flags := 0,
              due := s.me.clock + 12 * s.me.e.divS, last := s.me.clock + 40 * s.me.e.divS, fixed := false, need := 0, raw := [],
              rawPoison := [], form := .ready, hint := [] }] }
     Issues (.div g o) s (sent (if y = 0 then BitVec.allOnes 64 else BitVec.ofInt 64 (x.toInt.tdiv y.toInt))) ∧
     Issues (.divu g o) s (sent (if y = 0 then BitVec.allOnes 64 else x / y)) ∧
     Issues (.rem g o) s (sent (if y = 0 then x else BitVec.ofInt 64 (x.toInt.tmod y.toInt))) ∧
     Issues (.remu g o) s (sent (if y = 0 then x else x % y)))

/-- R79, R82, R83, R84, R89, R102: the other integer forms of fixed latency. A position or amount is its low 8 bits, read from a register or
given (R83). Completes: addi, abs, clz, ctz, popc, bfx, bfi, fsh, bswap, li, lih, lea, winq. -/
def Obligations.ScalarFieldResults : Prop :=
  ∀ (s : State) (g : Guard) (gd ga gb : GReg),
    let x := s.me.g ga
    let y := s.me.g gb
    (∀ imm, Ready s g [.g gd.toNat, .g ga.toNat, .g gb.toNat] →
      SendsG (.addi g gd ga gb imm) s gd (x.val + y.val + imm.signExtend 64) (x.poison || y.poison || gp s g) 1) ∧
    (∀ sh disp, Ready s g [.g gd.toNat, .g ga.toNat, .g gb.toNat] →
      SendsG (.lea g gd ga gb sh disp) s gd (x.val + (y.val <<< sh.toNat) + disp.signExtend 64)
        (x.poison || y.poison || gp s g) 1) ∧
    (Ready s g [.g gd.toNat, .g ga.toNat] →
      let bad := x.poison || gp s g
      SendsG (.abs g ⟨gd, ga⟩) s gd (if x.val.toInt < 0 then 0 - x.val else x.val) bad 1 ∧
      SendsG (.clz g ⟨gd, ga⟩) s gd (if x.val = 0 then 64 else BitVec.ofNat 64 (63 - Nat.log2 x.val.toNat)) bad 2 ∧
      SendsG (.ctz g ⟨gd, ga⟩) s gd (ctzW x.val) bad 2 ∧
      SendsG (.popc g ⟨gd, ga⟩) s gd (popW x.val) bad 2 ∧
      (∀ w : BitVec 2, SendsG (.bswap g ⟨gd, ga⟩ w) s gd (bswapN (8 / 2 ^ w.toNat) x.val) bad 1) ∧
      (∀ imm, SendsG (.lih g gd ga imm) s gd (imm ++ x.val.extractLsb' 0 32) bad 1)) ∧
    (∀ imm, Ready s g [.g gd.toNat] → SendsG (.li g gd imm) s gd (imm.signExtend 64) (gp s g) 1) ∧
    (∀ pos len sx, Ready s g (.g gd.toNat :: .g ga.toNat :: amtReg pos) →
      let p := (s.me.amt pos).1.toNat
      let f := (x.val.toNat >>> p) % 2 ^ len.toNat
      SendsG (.bfx g gd ga pos len sx) s gd
        (if sx then BitVec.ofInt 64 (signed len.toNat f) else BitVec.ofNat 64 f) (x.poison || (s.me.amt pos).2 || gp s g) 1) ∧
    (∀ pos len, Ready s g (.g gd.toNat :: .g ga.toNat :: .g gb.toNat :: amtReg pos) →
      SendsG (.bfi g gd ga gb pos len) s gd (bfiW x.val y.val (s.me.amt pos).1.toNat len.toNat)
        (x.poison || y.poison || (s.me.amt pos).2 || gp s g) 1) ∧
    (∀ n, Ready s g (.g gd.toNat :: .g ga.toNat :: .g gb.toNat :: amtReg n) →
      SendsG (.fsh g gd ga gb n) s gd (((x.val ++ y.val) >>> (s.me.amt n).1.toNat).setWidth 64)
        (x.poison || y.poison || (s.me.amt n).2 || gp s g) 1) ∧
    (∀ b, Ready s g (.g gd.toNat :: .g ga.toNat :: srcBReg b) →
      let len : SReg := match b with | .reg r => s.me.g r | .imm v => { val := v.zeroExtend 64, poison := false }
      SendsG (.winq g ⟨gd, ga, b⟩) s gd (winqOf x.val (if len.val = 0 then 1 else len.val.toNat))
        (x.poison || len.poison || gp s g) 1)

/-- R78, R81, R85: what the results of the integer forms mean. Division rounds toward zero and the remainder has the sign of the dividend; dividend =
quotient times divisor plus remainder for every pair of operands, a divisor of 0 and -2^63 by -1 among them. `mulh` and `mul`, and `mulhu`
and `mul`, together give all 128 bits of the exact product. The conditions of `cmp` are those of the signed and unsigned values. -/
def Obligations.IntegerAlgebra : Prop :=
  (∀ a b : Word,
     quot true a b * b + remn true a b = a ∧
     quot false a b * b + remn false a b = a ∧
     (b ≠ 0 → ((remn true a b).toInt.natAbs < b.toInt.natAbs ∧ (remn false a b).toNat < b.toNat)) ∧
     (b ≠ 0 → (remn true a b).toInt = 0 ∨ ((remn true a b).toInt < 0 ↔ a.toInt < 0)) ∧
     (b = 0 → quot true a b = BitVec.allOnes 64 ∧ quot false a b = BitVec.allOnes 64)) ∧
  (∀ a b : Word,
     mulHigh true a b ++ (a * b) = a.signExtend 128 * b.signExtend 128 ∧
     mulHigh false a b ++ (a * b) = a.zeroExtend 128 * b.zeroExtend 128) ∧
  (∀ a b : Word,
     (condHolds .eq a b = true ↔ a = b) ∧ (condHolds .ne a b = true ↔ a ≠ b) ∧
     (condHolds .lt a b = true ↔ a.toInt < b.toInt) ∧ (condHolds .ge a b = true ↔ b.toInt ≤ a.toInt) ∧
     (condHolds .gt a b = true ↔ b.toInt < a.toInt) ∧ (condHolds .le a b = true ↔ a.toInt ≤ b.toInt) ∧
     (condHolds .ltu a b = true ↔ a.toNat < b.toNat) ∧ (condHolds .geu a b = true ↔ b.toNat ≤ a.toNat) ∧
     (condHolds .gtu a b = true ↔ b.toNat < a.toNat) ∧ (condHolds .leu a b = true ↔ a.toNat ≤ b.toNat) ∧
     (condHolds .tst a b = true ↔ a &&& b ≠ 0))

/-- R85 to R88, R71, R102: compares, selection and predicate forms. `cmp` writes the active bits of pd, the others stay, and the register's
poison stays with them (the model's reading, log entry 12); `mov.p` writes one row. Completes: cmp, sel, movpToScalar, movpToPredicate,
pand, por, pxor, pnot, psetPredicate, pcnt, pany. -/
def Obligations.PredicateResults : Prop :=
  ∀ (s : State) (g : Guard),
    let t := s.me
    (∀ pd ga b c, Ready s g (.p (t.pp pd.toNat) :: .g ga.toNat :: srcBReg b) →
      SendsP (.cmp g pd ga b c) s pd (uniform (condHolds c (t.g ga).val (t.srcB b).val))
        ((t.g ga).poison || (t.srcB b).poison || gp s g) (t.mask g) (t.mask g != BitVec.allOnes 1024)) ∧
    (∀ o pc neg, Ready s g (.g o.gd.toNat :: .g o.ga.toNat :: .p (t.pp pc.toNat) :: srcBReg o.b) → (t.p pc).poison = false →
      let m := if neg then ~~~(t.p pc).val else (t.p pc).val
      let v := if m ≠ 0 then t.g o.ga else t.srcB o.b
      SendsG (.sel g o pc neg) s o.gd v.val (v.poison || gp s g) 1) ∧
    (∀ gd pa k, Ready s g [.g gd.toNat, .p (t.pp pa.toNat)] →
      SendsG (.movpToScalar g gd pa k) s gd ((t.p pa).val.extractLsb' (64 * k.toNat) 64) ((t.p pa).poison || gp s g) 1) ∧
    (∀ pd ga k, Ready s g [.p (t.pp pd.toNat), .g ga.toNat] →
      SendsP (.movpToPredicate g pd ga k) s pd (BitVec.ofNat 1024 ((t.g ga).val.toNat * 2 ^ (64 * k.toNat)))
        ((t.g ga).poison || gp s g) (BitVec.ofNat 1024 ((2 ^ 64 - 1) * 2 ^ (64 * k.toNat))) true) ∧
    (∀ pd pa pb, Ready s g [.p (t.pp pd.toNat), .p (t.pp pa.toNat), .p (t.pp pb.toNat)] →
      let bad := (t.p pa).poison || (t.p pb).poison || gp s g
      SendsP (.pand g ⟨pd, pa, pb⟩) s pd ((t.p pa).val &&& (t.p pb).val) bad (BitVec.allOnes 1024) false ∧
      SendsP (.por g ⟨pd, pa, pb⟩) s pd ((t.p pa).val ||| (t.p pb).val) bad (BitVec.allOnes 1024) false ∧
      SendsP (.pxor g ⟨pd, pa, pb⟩) s pd ((t.p pa).val ^^^ (t.p pb).val) bad (BitVec.allOnes 1024) false) ∧
    (∀ pd pa, Ready s g [.p (t.pp pd.toNat), .p (t.pp pa.toNat)] →
      SendsP (.pnot g pd pa) s pd (~~~(t.p pa).val) ((t.p pa).poison || gp s g) (BitVec.allOnes 1024) false) ∧
    (∀ pd r, Ready s g [.p (t.pp pd.toNat), .g r.toNat] →
      SendsP (.psetPredicate g pd (.reg r)) s pd (BitVec.ofNat 1024 (2 ^ min (t.g r).val.toNat 1024 - 1))
        ((t.g r).poison || gp s g) (BitVec.allOnes 1024) false) ∧
    (∀ pd v, Ready s g [.p (t.pp pd.toNat)] →
      SendsP (.psetPredicate g pd (.imm v)) s pd (BitVec.ofNat 1024 (2 ^ min v.toNat 1024 - 1)) (gp s g) (BitVec.allOnes 1024) false) ∧
    (∀ gd pa, Ready s g [.g gd.toNat, .p (t.pp pa.toNat)] →
      SendsG (.pcnt g gd pa) s gd (BitVec.ofNat 64 (popN 1024 (t.p pa).val.toNat)) ((t.p pa).poison || gp s g) 2 ∧
      SendsG (.pany g gd pa) s gd (if (t.p pa).val = 0 then 0 else 1) ((t.p pa).poison || gp s g) 2)

/-- R104, R295, R69, R77: where a scalar result lands, its register holds it and every other register of the strand is as it was; one sent to g0
is discarded. Where a predicate result lands, the bits it writes have its value and the others stay; p0 always reads all ones and unpoisoned; every
other predicate and every other register is as it was. -/
def Obligations.ResultLandsWhereSent : Prop :=
  (∀ (t : Strand) (f : Flight) (r : GReg) (v : SReg), f.dst = .g r.toNat → f.val = .s v →
     (r ≠ 0 → (t.land f).g r = v) ∧
     (t.land f).g 0 = { val := 0, poison := false } ∧
     (∀ q : GReg, q ≠ r → (t.land f).g q = t.g q) ∧
     (t.land f).r.p = t.r.p ∧ (t.land f).r.v = t.r.v ∧ (t.land f).r.tiles = t.r.tiles ∧ (t.land f).r.sh = t.r.sh ∧
     (t.land f).r.shadow = t.r.shadow ∧ (t.land f).r.lay = t.r.lay ∧ (t.land f).r.prog = t.r.prog ∧ (t.land f).e = t.e ∧
     (t.land f).pc = t.pc ∧ (t.land f).sys = { t.sys with fflags := t.sys.fflags ||| f.flags }) ∧
  (∀ (t : Strand) (f : Flight) (i : Nat) (v : PReg) (m : Mask) (k : Bool), f.dst = .p i → f.val = .p v m k →
     (0 < i → i < 16 → vAt (t.land f).r.p i =
       { val := ((vAt t.r.p i).val &&& ~~~m) ||| (v.val &&& m), poison := v.poison || (k && (vAt t.r.p i).poison) }) ∧
     (t.land f).p 0 = { val := BitVec.allOnes 1024, poison := false } ∧
     (∀ j, j ≠ i → vAt (t.land f).r.p j = vAt t.r.p j) ∧
     (t.land f).r.g = t.r.g ∧ (t.land f).r.v = t.r.v ∧ (t.land f).r.tiles = t.r.tiles ∧ (t.land f).e = t.e ∧ (t.land f).pc = t.pc)

/-! Scalar floating point (R51 to R68, R92 to R94). -/

/-- R92, R93, R94, R63, R68, R71, R102: the scalar floating-point forms. Each computes on the low bits of its operands that its type has;
a stochastic rounding makes one draw of the strand's generator, another none; the result is zero-extended (an integer result of `fcvt`
extended by its sign), and its flags are raised where it lands. Completes: fadd, fsub, fmul, ffma, fcvt, fcmp. -/
def Obligations.ScalarFloatResults : Prop :=
  ∀ (s : State) (g : Guard) (o : FBin) (f : Fmt), tyFmt o.ty = some f →
    let t := s.me
    let m := t.mode o.rnd
    let u := if m = .rsr then ((drawStep t.sys.seed).extractLsb' 16 16).toNat else 0
    let t1 := if m = .rsr then t.draw 1 else t
    let x (r : GReg) : Nat := (t.g r).val.toNat % 2 ^ o.ty.width
    let bad := (t.g o.ga).poison || (t.g o.gb).poison || gp s g
    let sends (i : Instr) (c : Coded) (bad : Bool) (lat : Nat) : Prop :=
      Issues i s (t1.fly (.g o.gd.toNat) (.s { val := BitVec.ofNat 64 c.1, poison := bad }) c.2 lat true)
    (Ready s g [.g o.gd.toNat, .g o.ga.toNat, .g o.gb.toNat] →
      sends (.fadd g o) (f.add m o.sat u (x o.ga) (x o.gb)) bad 4 ∧
      sends (.fsub g o) (f.sub m o.sat u (x o.ga) (x o.gb)) bad 4 ∧
      sends (.fmul g o) (f.mul m o.sat u (x o.ga) (x o.gb)) bad 4) ∧
    (∀ gc, Ready s g [.g o.gd.toNat, .g o.ga.toNat, .g o.gb.toNat, .g gc.toNat] →
      sends (.ffma g o gc) (f.fma m o.sat u false (x o.ga) (x o.gb) (x gc))
        ((t.g o.ga).poison || (t.g o.gb).poison || (t.g gc).poison || gp s g) 5) ∧
    (∀ d, Ready s g [.g o.gd.toNat, .g o.ga.toNat] →
      let c := convert d o.ty m o.sat u (x o.ga)
      sends (.fcvt g o.gd o.ga d o.ty o.rnd o.sat)
        (if d.isI && d.signed then wrap 64 (signed d.width c.1) else c.1, c.2) ((t.g o.ga).poison || gp s g) 4) ∧
    (∀ pd c, Ready s g [.p (t.pp pd.toNat), .g o.ga.toNat, .g o.gb.toNat] →
      let r := f.cmp c (x o.ga) (x o.gb)
      Issues (.fcmp g pd o.ga o.gb o.ty c) s
        (t.fly (.p (t.pp pd.toNat))
          (.p { val := uniform r.1, poison := bad } (t.mask g) (t.mask g != BitVec.allOnes 1024)) r.2 2 true))

/-- R57, R59: a finite value that the destination format holds is rounded to itself under every mode and every draw, and no flag is
raised. Over the seven formats. -/
def Obligations.RoundKeepsRepresentable : Prop :=
  ∀ f ∈ [Fmt.f64, Fmt.f32, Fmt.f16, Fmt.bf16, Fmt.e4m3, Fmt.e5m2, Fmt.e2m1], ∀ (mode : RM) (sat : Bool) (u x m : Nat) (neg : Bool) (e : Int),
    u < 2 ^ 16 → x < 2 ^ f.width → f.val x = .fin neg m e → f.round mode sat u neg m e = (x, 0)

/-- R51, R68, R94: with a NaN operand a sum and a product are the canonical NaN, invalid is raised exactly for a signalling operand, and of
the conditions only ne and un hold; eq, ne, un and ord raise invalid only for a signalling NaN, the others for every NaN. Over the formats
of scalar arithmetic. -/
def Obligations.NanOperands : Prop :=
  ∀ f ∈ [Fmt.f64, Fmt.f32, Fmt.f16, Fmt.bf16], ∀ (mode : RM) (sat : Bool) (u a b : Nat), (f.val a).isNan = true →
    let sig := (f.val a).isSig || (f.val b).isSig
    f.add mode sat u a b = (f.nan, if sig then fInvalid else 0) ∧ f.add mode sat u b a = (f.nan, if sig then fInvalid else 0) ∧
    f.mul mode sat u a b = (f.nan, if sig then fInvalid else 0) ∧ f.mul mode sat u b a = (f.nan, if sig then fInvalid else 0) ∧
    (∀ c, (f.cmp c a b).1 = (c == .ne || c == .un)) ∧
    (∀ c, (f.cmp c a b).2 =
      if (match c with | .lt | .le | .gt | .ge => true | _ => sig) then fInvalid else 0)

/-- R61: `sys.seed` reads the strand's generator state, and a write sets it, a write of 0 storing 1; a draw is one step of the Galois register
with polynomial x^32 + x^22 + x^2 + x + 1, never 0 from a state that is not 0, and no two states share a successor; `drawN n` makes n of
them, for every count below 2^100. -/
def Obligations.DrawIsGaloisStep : Prop :=
  (∀ (s : State) (v : Word), s.sysRead s.cur 0x006 = s.me.sys.seed.zeroExtend 64 ∧
    ((s.me.writeSys 0x006 v).sys.seed = if v.extractLsb' 0 32 = 0 then 1 else v.extractLsb' 0 32)) ∧
  (∀ s : BitVec 32, drawStep s = if s.getLsbD 0 then (s >>> 1) ^^^ 0x80200003 else s >>> 1) ∧
  (∀ s : BitVec 32, s ≠ 0 → drawStep s ≠ 0) ∧
  (∀ s t : BitVec 32, drawStep s = drawStep t → s = t) ∧
  (∀ (s : BitVec 32) (n : Nat), n < 2 ^ 100 → drawN (n + 1) s = drawStep (drawN n s) ∧ drawN 0 s = s)

/-! Control transfer and traps (R15, R16, R95 to R101, R442 to R446). -/

/-- R95, R15, R16, R102: control transfers. With an unpoisoned guard and operand, each issues; a transfer to a target aligned on 8 bytes is
made 3 strand cycles after issue by the jump it leaves for its bundle's end, a `br` or `brq` whose condition does not hold transfers
nothing, and `call` and `jr` send the address of the next bundle to gd. Displacements count syllables from the bundle's address.
Completes: br, jmp, call, ret, jr, brq. -/
def Obligations.ControlTransfers : Prop :=
  ∀ (s : State) (g : Guard), gp s g = false →
    let t := s.me
    let jump (u : Strand) (a : Word) : Strand := { u with pend := u.pend ++ [.jump a 3] }
    let dest (disp : BitVec 32) : Word := t.pc + disp.signExtend 64 * 8
    let next : Word := t.pc + BitVec.ofNat 64 (8 * t.blen)
    let linked (gd : GReg) : Strand := t.fly (.g gd.toNat) (.s { val := next, poison := false }) 0 1 true
    (∀ pa neg all disp, Ready s g [.p (t.pp pa.toNat)] → (t.p pa).poison = false → (dest disp).toNat % 8 = 0 →
      let m := if neg then ~~~(t.p pa).val else (t.p pa).val
      let taken := if all then m == BitVec.allOnes 1024 else m != 0
      Issues (.br g pa neg all disp) s (if taken then jump t (dest disp) else t)) ∧
    (∀ disp, Ready s g [] → (dest disp).toNat % 8 = 0 → Issues (.jmp g disp) s (jump t (dest disp))) ∧
    (∀ gd disp, Ready s g [.g gd.toNat] → (dest disp).toNat % 8 = 0 → Issues (.call g gd disp) s (jump (linked gd) (dest disp))) ∧
    (∀ ga, Ready s g [.g ga.toNat] → (t.g ga).poison = false → (t.g ga).val.toNat % 8 = 0 →
      Issues (.ret g ga) s (jump t (t.g ga).val)) ∧
    (∀ gd ga imm, Ready s g [.g gd.toNat, .g ga.toNat] → (t.g ga).poison = false →
      ((t.g ga).val + imm.signExtend 64).toNat % 8 = 0 →
      Issues (.jr g gd ga imm) s (jump (linked gd) ((t.g ga).val + imm.signExtend 64))) ∧
    (∀ q c disp, Ready s g [] → (dest disp).toNat % 8 = 0 →
      Issues (.brq g q c disp) s
        (if t.sys.qeos.getLsbD q.toNat then jump (if c then t.clearEos q.toNat else t) (dest disp) else t))

/-- R96: `loop` sends gd its decremented count and leaves a rotation for its bundle's end: with n the new count, the new p8 receives all ones when
n is greater than 0 and all zeros else, 1 strand cycle later; it transfers when that or any of the s - 1 older stage predicates is not zero. After a rotation the name one higher reaches the register that a
rotating name reached before it, v8 to v23 and p8 to p15; names outside stay. Completes: loop. -/
def Obligations.LoopAndRotation : Prop :=
  (∀ (s : State) (g : Guard) (gd : GReg) (sm : BitVec 3) (disp : BitVec 32),
     let t := s.me
     let old : List Nat := (List.range sm.toNat).map (fun j => mapP (t.sys.rot + 1) (9 + j))
     Ready s g (.g gd.toNat :: .p (mapP (t.sys.rot + 1) 8) :: old.map Dst.p) → gp s g = false → (t.g gd).poison = false →
     (∀ i ∈ old, (vAt t.r.p i).poison = false) → (t.pc + disp.signExtend 64 * 8).toNat % 8 = 0 →
     let n := (t.g gd).val - 1
     let p8 : Mask := if 0 < n.toInt then BitVec.allOnes 1024 else 0
     let u0 := t.fly (.g gd.toNat) (.s { val := n, poison := false }) 0 1 true
     let u := u0.fly (.p (mapP (t.sys.rot + 1) 8)) (.p { val := p8, poison := false } (BitVec.allOnes 1024) false) 0 1 true
     Issues (.loop g gd sm disp) s
       { u with pend := u.pend ++ [.rotate] ++
           (if 0 < n.toInt ∨ ∃ i ∈ old, (vAt t.r.p i).val ≠ 0 then [.jump (t.pc + disp.signExtend 64 * 8) 1] else []) }) ∧
  (∀ b : BitVec 4,
     (∀ i, 8 ≤ i → i < 23 → mapV (b + 1) (i + 1) = mapV b i) ∧ mapV (b + 1) 8 = mapV b 23 ∧
     (∀ i, 8 ≤ i → i < 15 → mapP (b + 1) (i + 1) = mapP b i) ∧ mapP (b + 1) 8 = mapP b 15 ∧
     (∀ i, i < 8 ∨ 24 ≤ i → mapV b i = i) ∧ (∀ i, i < 8 → mapP b i = i) ∧
     (∀ i, 8 ≤ i → i < 24 → 8 ≤ mapV b i ∧ mapV b i < 24) ∧ (∀ i, 8 ≤ i → i < 16 → 8 ≤ mapP b i ∧ mapP b i < 16) ∧
     (∀ i j, 8 ≤ i → i < 24 → 8 ≤ j → j < 24 → mapV b i = mapV b j → i = j))

/-- R98: `nop` has no effect but its bundle's end; `halt` leaves a halt for it; `wfe` with an event of its mask pending takes the event: gd
receives the bits and they are cleared; with none pending it holds, and once its time is over it completes with what is pending.
Completes: nop, halt, wfe. -/
def Obligations.WaitForms : Prop :=
  ∀ (s : State) (g : Guard),
    let t := s.me
    (Ready s g [] → Issues (.nop g) s t) ∧
    (Ready s g [] → Issues (.halt g) s { t with pend := t.pend ++ [.halt] }) ∧
    (∀ gd ga mask, Ready s g [.g gd.toNat, .g ga.toNat] → (t.g ga).poison = false →
      let got : BitVec 7 := t.sys.evt &&& mask.setWidth 7
      let u := { t with sys := { t.sys with evt := t.sys.evt &&& ~~~got } }
      let done := u.fly (.g gd.toNat) (.s { val := got.zeroExtend 64, poison := gp s g }) 0 2 true
      (got ≠ 0 → Issues (.wfe g gd ga mask) s done) ∧
      (got = 0 → (t.g ga).val = 0 → HoldsAt (.wfe g gd ga mask) s s) ∧
      (got = 0 → (t.g ga).val ≠ 0 → t.wfeFrom = none →
        HoldsAt (.wfe g gd ga mask) s (s.setMe { t with wfeFrom := some (t.clock + 2 * (t.g ga).val.toNat) })) ∧
      (∀ d, got = 0 → (t.g ga).val ≠ 0 → t.wfeFrom = some d → d ≤ t.clock → Issues (.wfe g gd ga mask) s done))

/-- R101, R442, R446: `trap` and `brk` have the effect of taking a trap: cause 0x3F with the code in `sys.tva`, cause 0x39 with the tag; each answers
the state in which the strand has entered it. What a trap of the bundle about to issue records, whatever it finds in the handler's table: the
cause, the address of the bundle, `sys.tva`, the position and tag, the cut of the engine queues, the privilege before it; the strand is then
in supervisor state and interlocked; no register of its files, no result on its way, nothing of its engines, no other system register
named here and no other strand has changed. Completes: trap, brk. -/
def Obligations.TrapEntry : Prop :=
  (∀ (s : State) (g : Guard) (c : BitVec 32), Ready s g [] →
     let entered (i : Instr) (cause : BitVec 8) : Prop :=
       ∃ t, exec i s = .next t ∧ t = trapped s { cause := cause, tva := c.zeroExtend 64 } ∧ t.me.sys.tcause = cause ∧
         t.me.sys.tva = c.zeroExtend 64 ∧ t.me.sys.tpc = s.me.pc ∧ t.me.sys.ppriv = s.me.sys.priv ∧ t.me.sys.priv = true ∧
         t.me.sys.il = true ∧ t.me.r = s.me.r ∧ t.me.flights = s.me.flights ∧ t.me.e = s.me.e
     entered (.trap g c) 0x3F ∧ entered (.brk g c) 0x39) ∧
  (∀ (s : State) (r : TrapRec),
     let y := (trapped s r).me.sys
     let x := s.me.sys
     y.tcause = r.cause ∧ y.tpc = s.me.pc ∧ y.tva = r.tva ∧ y.tpos0 = r.pos0 ∧ y.tpos1 = r.pos1 ∧ y.ttag = r.tag ∧ y.tcut = s.me.cut ∧
     y.ppriv = x.priv ∧ y.priv = true ∧ y.il = true ∧ y.asid = x.asid ∧ y.rot = x.rot ∧ y.fmode = x.fmode ∧ y.fflags = x.fflags ∧
     y.seed = x.seed ∧ y.evt = x.evt ∧ y.deadline = x.deadline ∧ y.dbg = x.dbg ∧
     (trapped s r).me.r = s.me.r ∧ (trapped s r).me.flights = s.me.flights ∧ (trapped s r).me.e = s.me.e ∧
     (∀ n, n ≠ s.cur → (trapped s r).strand n = s.strand n))

/-- R442, R443, R444: a trap of a strand in user state. With the handler's table and its entry readable (the table's entry for the strand's ASID
in a zone of device memory, unpoisoned and a multiple of 8 that is not 0, the handler's entry itself resident, readable and not waited for), the
strand goes to the address the handler's entry holds; where the table has no such entry it stops for the host. A trap raised in supervisor
state stops the strand for the host, which is told the strand and the cause. -/
def Obligations.TrapDestination : Prop :=
  (∀ (s : State) (r : TrapRec),
     let t := s.strand s.cur
     let s0 := ((s.withdraw s.cur).forget (.strand s.cur)).forget (.other (300 + s.cur))
     let s1 := { s0 with shoots := s0.shoots.map (fun (h : Shoot) => if h.strand == some s.cur then { h with strand := none } else h) }
     let y := { t.sys with
       tcause := r.cause, tpc := t.pc, tva := r.tva, tpos0 := r.pos0, tpos1 := r.pos1, tcut := t.cut, ttag := r.tag,
       ppriv := t.sys.priv, priv := true, il := true
       qeos := match r.eos with | some q => t.sys.qeos ||| BitVec.ofNat 8 (2 ^ q) | none => t.sys.qeos }
     let t1 := { t with
       sys := y, ilUpTo := t.bundle, iss := .trapped, pend := [], more := false, blen := 1, wfeFrom := none, wfeOut := false,
       stepDue := none, bpSkip := false }
     let s2 := s1.setStrand s.cur t1
     let at' := (s.mgr 0x110).toNat + 16 * t.sys.asid.toNat
     let q := s2.readDram at' 16
     let hta := word q.2.1 0
     let a := BitVec.ofNat 64 (hta + 8 * (r.cause.toNat % 128))
     t.sys.priv = false →
       (s2.zoned at' 16 = false → trapped s r = s2.stopForHost s.cur) ∧
       (s2.zoned at' 16 = true → (q.2.2 ≠ [] ∨ hta = 0 ∨ hta % 8 ≠ 0) → trapped s r = q.1.stopForHost s.cur) ∧
       (∀ s3 seg, s2.zoned at' 16 = true → q.2.2 = [] → hta ≠ 0 → hta % 8 = 0 → winOf a = .d →
         q.1.resolve (.strand s.cur) (coreOf s.cur) s.cur t.sys.asid { r := true } 8 a 8 = (s3, .ok [seg]) →
         s3.pendingAt (.strand s.cur) seg.sp seg.pa 8 true = false →
         let v := s3.readAt seg.sp seg.pa 8
         let e := ofBytes v.2.1
         v.2.2 = [] → e ≠ 0 → e % 8 = 0 →
         trapped s r = (v.1.settled s.cur).modStrand s.cur (fun t => { t with pc := BitVec.ofNat 64 e, entering := false }))) ∧
  (∀ (s : State) (r : TrapRec), s.me.sys.priv = true →
     (trapped s r).me.phase = .hostStop ∧
     ∃ tag, (trapped s r).asks = s.asks ++ [{ kind := 3, a := BitVec.ofNat 64 s.cur, b := r.cause.zeroExtend 64, tag := tag, sent := false, bar := 0 }])

/-- R15, R18, R39 to R43, R72, R136, R173, R189, R203: what stops a form. A privileged syllable in user state traps with cause 0x04, whatever its
guard holds. A transfer whose target is not a multiple of 8 traps with 0x0A and the target in `sys.tva`, a poisoned guard or target
register with 0x1A. A scalar access with a poisoned address raises 0x1A, a poisoned datum of a store 0x19, and the first check that fails
its own cause with the address it names. A command whose queue is full holds the bundle, a token queue that `sys.tkmap` does not map to the
engine traps with 0x03, and a poisoned guard with 0x1A: shown of `lease`. -/
def Obligations.WhatTraps : Prop :=
  (∀ (s : State) (i : Instr), needsPriv i = true → s.me.sys.priv = false → Traps i s { cause := 0x04 }) ∧
  (∀ (s : State) (g : Guard) (gd ga : GReg) (imm : BitVec 32), Ready s g [.g gd.toNat, .g ga.toNat] →
     (gp s g = true → Traps (.jr g gd ga imm) s { cause := 0x1A }) ∧
     (gp s g = false → (s.me.g ga).poison = true → Traps (.jr g gd ga imm) s { cause := 0x1A }) ∧
     (gp s g = false → (s.me.g ga).poison = false → ((s.me.g ga).val + imm.signExtend 64).toNat % 8 ≠ 0 →
       Traps (.jr g gd ga imm) s { cause := 0x0A, tva := (s.me.g ga).val + imm.signExtend 64 })) ∧
  (∀ (s s1 : State) (g : Guard) (o : SBin) (w : Wd) (sx : Bool) (c : BitVec 7) (va : Word),
     Ready s g (.g o.gd.toNat :: .g o.ga.toNat :: srcBReg o.b) →
     let a := (s.me.g o.ga).val + (s.me.srcB o.b).val
     let bad := (s.me.g o.ga).poison || (s.me.srcB o.b).poison
     (bad = true → Traps (.ld g o w sx) s { cause := 0x1A } ∧ Traps (.st g o w) s { cause := 0x1A }) ∧
     (bad = false → ((s.me.g o.gd).poison || gp s g) = true → Traps (.st g o w) s { cause := 0x19 }) ∧
     (bad = false → s.check { r := true } 1 a (wdBytes w) = (s1, .fault c va) →
       exec (.ld g o w sx) s = .next (trapped s1 { cause := c.zeroExtend 8, tva := va })) ∧
     (bad = false → ((s.me.g o.gd).poison || gp s g) = false → s.check { w := true } 1 a (wdBytes w) = (s1, .fault c va) →
       exec (.st g o w) s = .next (trapped s1 { cause := c.zeroExtend 8, tva := va }))) ∧
  (∀ (s : State) (h : MHead) (n : BitVec 7), Ready s h.g [] →
     let t := s.me.swapIn h
     (gp s h.g = true → Traps (.lease h n) s { cause := 0x1A }) ∧
     (gp s h.g = false → t.tkOk h 1 = false → Traps (.lease h n) s { cause := 0x03 }) ∧
     (gp s h.g = false → t.tkOk h 1 = true → 16 ≤ (t.queue 1).length → HoldsAt (.lease h n) s s))

/-- R16, R100, R101, R298, R452: in supervisor state `eret` leaves a return for its bundle's end; the return restores the pc and the privilege state the
trap saved, sets interlocked mode, and lets stopped commands whose fault is not pending go on. A bundle of one syllable that has issued
advances the pc past it unless a jump, a return or a halt says otherwise, takes one strand cycle, and
makes the write it left: of a jump, a halt, a return, a rotation or the strand's clock divisor, whose new cycle counts from this bundle on. Completes: eret. -/
def Obligations.ReturnAndBundleEnd : Prop :=
  ((∀ (s : State) (g : Guard), s.me.sys.priv = true → Ready s g [] → gp s g = false → s.me.sys.tpc.toNat % 8 = 0 →
     Issues (.eret g) s { s.me with pend := s.me.pend ++ [.eret] }) ∧
   (∀ t : Strand,
     let u := t.returnFrom
     u.pc = t.sys.tpc ∧ u.sys.priv = t.sys.ppriv ∧ u.sys.il = true ∧ u.r = t.r ∧ u.flights = t.flights ∧
     (∀ c ∈ t.e.cmds, c.st = .stopped → (∀ f ∈ t.e.faults, f.id ≠ c.id) → { c with st := .running } ∈ u.e.cmds) ∧
     (∀ c ∈ t.e.cmds, c.st ≠ .stopped ∨ (∃ f ∈ t.e.faults, f.id = c.id) → c ∈ u.e.cmds))) ∧
  (∀ (s : State), s.me.more = false →
     let t := s.me
     let u := (conclude s).me
     u.iss = .issued ∧ u.pend = [] ∧ u.bundle = t.bundle + 1 ∧ (s.denials = [] → OnlyMe s (conclude s)) ∧
     u.flights = t.flights ∧ ((∀ d, .clkdiv d ∉ t.pend) → u.clock = t.clock + t.e.divS) ∧
     (t.pend = [] → u.pc = t.pc + BitVec.ofNat 64 (8 * t.blen) ∧ u.r = t.r ∧ u.e = t.e ∧ u.sys.rot = t.sys.rot ∧ u.sys.priv = t.sys.priv) ∧
     (∀ a n, t.pend = [.jump a n] → u.pc = a ∧ u.r = t.r) ∧
     (t.pend = [.halt] → u.phase = .halted ∧ u.pc = t.pc ∧ u.r = t.r) ∧
     (t.pend = [.eret] → u.pc = t.sys.tpc ∧ u.sys.priv = t.sys.ppriv ∧ u.r = t.r) ∧
     (t.pend = [.rotate] → u.sys.rot = t.sys.rot + 1 ∧ u.r = t.r) ∧
     (∀ d, t.pend = [.clkdiv d] → u.e.divS = d ∧ u.clock = t.clock + d ∧ u.readyAt = t.clock + 8 * d ∧ u.r = t.r))

/-! System, shape and layout registers (R99, R100, R139, R158, R159, R232 to R234). -/

/-- R99, R100, R139, R233: `sysr` sends the register's value as R233 gives it; `sysw` with an unpoisoned value that its register may hold writes it
when its bundle ends, `sys.evt` at once, before the events of the bundle's later syllables; one of `sys.evtp` with bit 0 set pokes the other strand of the core. `shset` with a value its field takes writes
the shadow when its bundle ends, one out of range traps with cause 0x03, a poisoned one with 0x1A; `shget` sends a field of the active
register or of the shadow. Completes: sysr, sysw, shset, shget. -/
def Obligations.SystemAndShapeForms : Prop :=
  (∀ (s : State) (g : Guard) (n : BitVec 12) (r : GReg),
     (s.me.sys.priv = true ∨ n.toNat < 0x020 → Ready s g [.g r.toNat] →
       SendsG (.sysr g r n) s r (s.sysRead s.cur n.toNat) (gp s g) 2) ∧
     (s.me.sys.priv = true ∨ userWrites n.toNat = true → Ready s g [.g r.toNat] → (s.me.g r).poison = false →
       s.me.sysBad n.toNat (s.me.g r).val = false →
       (n ≠ 0x009 → n ≠ 0x008 → Issues (.sysw g n r) s { s.me with pend := s.me.pend ++ [.sys n.toNat (s.me.g r).val] }) ∧
       (n = 0x008 → Issues (.sysw g n r) s { s.me with sys := { s.me.sys with evt := (s.me.g r).val.extractLsb' 0 7 } }) ∧
       (n = 0x009 → (s.me.g r).val.getLsbD 0 = true →
         IssuesAt (.sysw g n r) s (s.modStrand (otherOf s.cur) (fun o => o.setEvt 6))) ∧
       (n = 0x009 → (s.me.g r).val.getLsbD 0 = false → IssuesAt (.sysw g n r) s s))) ∧
  (∀ (s : State) (g : Guard) (k : ShReg) (f : BitVec 5),
     (∀ r, Ready s g [.g r.toNat] → (s.me.g r).poison = false → shapeFits f.toNat (s.me.g r).val.toNat = true →
       Issues (.shset g k f (.reg r)) s { s.me with pend := s.me.pend ++ [.shadow k.toNat f.toNat (s.me.g r).val.toNat] }) ∧
     (∀ v, Ready s g [] → shapeFits f.toNat v.toNat = true →
       Issues (.shset g k f (.imm v)) s { s.me with pend := s.me.pend ++ [.shadow k.toNat f.toNat v.toNat] }) ∧
     (∀ v, Ready s g [] → shapeFits f.toNat v.toNat = false → Traps (.shset g k f (.imm v)) s { cause := 0x03 }) ∧
     (∀ r, Ready s g [.g r.toNat] → (s.me.g r).poison = true → Traps (.shset g k f (.reg r)) s { cause := 0x1A }) ∧
     (∀ gd sh, Ready s g [.g gd.toNat] →
       SendsG (.shget g gd k f sh) s gd
         (BitVec.ofNat 64 ((if sh then vAt s.me.r.shadow k.toNat else vAt s.me.r.sh k.toNat).get f.toNat)) (gp s g) 1))

/-- R158, R159, R233: a write of a system register that software may write reads back, and writing one leaves the others as they were: over the
registers that hold what is written. A write of 0 to `sys.seed` stores 1 (R61). A layout field that `lset` writes is what `lget` returns,
and the other fields stay, for every field and every value the field takes. -/
def Obligations.RegistersReadBack : Prop :=
  (∀ (s : State) (n m : Nat) (v : Word),
     n ∈ [0x003, 0x004, 0x005, 0x007, 0x008, 0x00A, 0x00B, 0x00C, 0x00D, 0x018, 0x019, 0x01A, 0x01B, 0x01C, 0x020, 0x021, 0x022, 0x023,
          0x024, 0x025, 0x026, 0x027, 0x028, 0x030, 0x031, 0x032] →
     let u := s.setMe (s.me.writeSys n v)
     (v &&& ~~~sysDefined n = 0 → u.sysRead s.cur n = v) ∧
     (m ≠ n → u.sysRead s.cur m = s.sysRead s.cur m) ∧
     (s.setMe (s.me.writeSys 0x006 0)).sysRead s.cur 0x006 = 1) ∧
  (∀ (l l' : Layout) (f k : Nat) (v : Word), l.put f v = some l' →
     l'.get f = v ∧ (k ≠ f → l'.get k = l.get k) ∧ f ≤ 12)

/-! Scalar memory, atomics, reductions, semaphores and order (R90, R91, R189 to R203). -/

/-- The flight of a load that is still to gather n parts. -/
def gathering (t : Strand) (d : Dst) (v : FVal) (n : Nat) (form : LandForm) : Flight :=
  { tag := t.newTag, bundle := t.bundle, dst := d, val := v, flags := 0, due := t.clock, last := 0, fixed := false, need := n,
    raw := [], rawPoison := [], form := form, hint := [] }

/-- The machine after a load of the acting strand has been sent: a flight of n parts, and one read request for each. -/
def loadSent (s : State) (gs : List Seg) (d : Dst) (v : FVal) (form : LandForm) (mk : Req → Req) : State :=
  ((s.setMe { s.me with flights := s.me.flights ++ [gathering s.me d v gs.length form] }).wakeSegs gs).sendAll
    (gs.map (fun g => mk (mkReq (.strand s.cur) (.load g.off) g s.me.sys.asid s.me.newTag)))

/-- The read requests that a load makes. -/
def loadReqs (s : State) (gs : List Seg) (mk : Req → Req) : List Req :=
  gs.map (fun g => mk (mkReq (.strand s.cur) (.load g.off) g s.me.sys.asid s.me.newTag))

/-- The write requests of a store of whole bytes: each segment with its part of them. -/
def storesOf (s : State) (gs : List Seg) (bs : List Byte) (mk : Req → Req) : List Req :=
  gs.map (fun g => mk (mkReq (.strand s.cur)
    (.store ((bs.drop g.off).take g.len) (((bs.drop g.off).take g.len).map (fun _ => 0))) g s.me.sys.asid 0))

/-- R90, R91, R189, R203, R292, R322: `ld` and `ldacq` with an unpoisoned address whose checks pass. `ld` through window L with all its banks full and nothing of
the strand's own before it reads at issue and lands 8 strand cycles later; behind an access of an earlier bundle of the strand that has to
come first it holds its bundle (log entry 14); every other load sends a read of each part, of 8 bytes at most, where it finds places, and its result is
scoreboarded. `ldacq` must be aligned and is an acquire. Completes: ld, ldacq. -/
def Obligations.LoadForms : Prop :=
  ∀ (s s1 : State) (g : Guard) (gs : List Seg) (w : Wd) (sx : Bool),
    let n := wdBytes w
    (∀ o : SBin, Ready s g (.g o.gd.toNat :: .g o.ga.toNat :: srcBReg o.b) → (s.me.g o.ga).poison = false →
      (s.me.srcB o.b).poison = false →
      let a := (s.me.g o.ga).val + (s.me.srcB o.b).val
      s.check { r := true } 1 a n = (s1, .ok gs) →
      let v : FVal := .s { val := 0, poison := gp s g }
      let way := s1.wayL s1.cur (winOf a == .l) gs
      (way = .fixed →
        let r := s1.peekAll s1.cur gs
        let x := ofBytes (dense r.1 n)
        ∃ f : Flight, IssuesAt (.ld g o w sx) s (s1.setMe { s1.me with flights := s1.me.flights ++ [f] }) ∧
          f.dst = .g o.gd.toNat ∧ f.fixed = true ∧ f.due = s1.me.clock + 8 * s1.me.e.divS ∧ f.form = .ready ∧ f.need = 0 ∧
          f.val = .s { val := BitVec.ofNat 64 (if sx then wrap 64 (signed (8 * n) x) else x), poison := gp s g || !r.2.isEmpty }) ∧
      (way = .hold → HoldsAt (.ld g o w sx) s s1) ∧
      (way = .queued → s1.room (.strand s.cur) (loadReqs s1 (cutAll 8 gs) (fun r => { r with acq := false, scope := .sd })) = true →
        IssuesAt (.ld g o w sx) s
          (loadSent s1 (cutAll 8 gs) (.g o.gd.toNat) v (.scalar n sx) (fun r => { r with acq := false, scope := .sd })))) ∧
    (∀ sc gd ga off, Ready s g [.g gd.toNat, .g ga.toNat] → (s.me.g ga).poison = false →
      let a := (s.me.g ga).val + off.signExtend 64
      s.check { r := true } n a n = (s1, .ok gs) →
      s1.room (.strand s.cur) (loadReqs s1 (cutAll 8 gs) (fun r => { r with acq := true, scope := sc })) = true →
      IssuesAt (.ldacq g sc gd ga off w sx) s
        (loadSent s1 (cutAll 8 gs) (.g gd.toNat) (.s { val := 0, poison := gp s g }) (.scalar n sx)
          (fun r => { r with acq := true, scope := sc })))

/-- R90, R189, R203, R292, R322: `st` and `strel` with an unpoisoned address, datum and guard whose checks pass: the low bytes of gd go on
their way to the segments the checks computed, 8 bytes at most to a request; no byte of any memory changes at issue, and of the strand
nothing changes but by its bundle's end. `strel` must be aligned and is a release at its scope. Completes: st, strel. -/
def Obligations.StoreForms : Prop :=
  ∀ (s s1 : State) (g : Guard) (gs : List Seg) (w : Wd),
    let n := wdBytes w
    (∀ o : SBin, Ready s g (.g o.gd.toNat :: .g o.ga.toNat :: srcBReg o.b) → (s.me.g o.ga).poison = false →
      (s.me.srcB o.b).poison = false → (s.me.g o.gd).poison = false → gp s g = false →
      s.check { w := true } 1 ((s.me.g o.ga).val + (s.me.srcB o.b).val) n = (s1, .ok gs) →
      let rs := storesOf s1 (cutAll 8 gs) (toBytes n (s.me.g o.gd).val.toNat) (fun r => { r with rel := false, scope := .sd })
      s1.room (.strand s.cur) rs = true →
      IssuesAt (.st g o w) s ((s1.wakeSegs (cutAll 8 gs)).sendAll rs)) ∧
    (∀ sc gd ga off, Ready s g [.g gd.toNat, .g ga.toNat] → (s.me.g ga).poison = false → (s.me.g gd).poison = false →
      gp s g = false → s.check { w := true } n ((s.me.g ga).val + off.signExtend 64) n = (s1, .ok gs) →
      let rs := storesOf s1 (cutAll 8 gs) (toBytes n (s.me.g gd).val.toNat) (fun r => { r with rel := true, scope := sc })
      s1.room (.strand s.cur) rs = true →
      IssuesAt (.strel g sc gd ga off w) s ((s1.wakeSegs (cutAll 8 gs)).sendAll rs)) ∧
    (∀ rs, SameMemory s1 ((s1.wakeSegs (cutAll 8 gs)).sendAll rs))

/-- The machine after one request that may feed a flight has been sent. -/
def oneSent (s : State) (r : Req) (f : Option (Dst × FVal × LandForm)) : State :=
  let s1 := if r.sp == .chip then s.chipWake r.pa else s
  match f with
  | none => s1.send r
  | some (d, v, form) =>
    (s1.setMe { s1.me with flights := s1.me.flights ++ [gathering s1.me d v 1 form] }).send { r with flight := s1.me.newTag }

/-- R193, R194, R195, R189, R72: atomics with unpoisoned operands, a lane of the guard and an object that passes its checks: one request with
the operation, the low bytes of gb (and of gc, the value a compare needs) and the order and scope of the syllable; the result, the old
value, is scoreboarded, but a result register g0 makes the form one without a return. Completes: aadd, aand, aor, axor, amin, amax,
aminu, amaxu, axchg, acas, acas2, afadd. -/
def Obligations.AtomicForms : Prop :=
  ∀ (s s1 : State) (g : Guard) (x : Seg) (gs : List Seg),
    let t := s.me
    (∀ (o : AForm) (gc : GReg), (t.g o.ga).poison = false → (t.g o.gb).poison = false → gp s g = false →
      let n := if o.d then 8 else 4
      s.check { a := true } n (t.g o.ga).val n = (s1, .ok (x :: gs)) →
      let low (r : GReg) : BitVec 128 := BitVec.ofNat 128 ((t.g r).val.toNat % 2 ^ (8 * n))
      let f : Option (Dst × FVal × LandForm) :=
        if o.gd = 0 then none else some (.g o.gd.toNat, .s { val := 0, poison := false }, .scalar n false)
      let acq := o.ord == .acq || o.ord == .ar
      let rel := o.ord == .rel || o.ord == .ar
      let req (op : AtomOp) (c : BitVec 128) (merges : Bool) : Req :=
        { mkReq (.strand s1.cur) (.atom op (low o.gb) c (o.gd != 0)) x s1.me.sys.asid 0 with
            scope := o.scope, acq := acq, rel := rel, mergeable := o.gd == 0 && o.ord == .rlx && merges }
      let sends (i : Instr) (op : AtomOp) (merges : Bool) : Prop :=
        s1.room (.strand s1.cur) [req op 0 merges] = true → IssuesAt i s (oneSent s1 (req op 0 merges) f)
      (Ready s g [.g o.gd.toNat, .g o.ga.toNat, .g o.gb.toNat] →
        sends (.aadd g o) .add true ∧ sends (.aand g o) .and true ∧ sends (.aor g o) .or true ∧ sends (.axor g o) .xor true ∧
        sends (.amin g o) .min true ∧ sends (.amax g o) .max true ∧ sends (.aminu g o) .minu true ∧
        sends (.amaxu g o) .maxu true ∧ sends (.axchg g o) .xchg false ∧
        sends (.afadd g o) (if o.d then .fadd64 else .fadd32) true) ∧
      (Ready s g [.g o.gd.toNat, .g o.ga.toNat, .g o.gb.toNat, .g gc.toNat] → (t.g gc).poison = false →
        s1.room (.strand s1.cur) [req .cas (low gc) false] = true →
        IssuesAt (.acas g o gc) s (oneSent s1 (req .cas (low gc) false) f))) ∧
    (∀ gd ga gb gc sc ord, Ready s g [.gpair gd.toNat, .g ga.toNat, .gpair gb.toNat, .gpair gc.toNat] →
      (∀ r ∈ [ga, gb, gb + 1, gc, gc + 1], (t.g r).poison = false) → gp s g = false →
      s.check { a := true } 16 (t.g ga).val 16 = (s1, .ok (x :: gs)) →
      let two (r : GReg) : BitVec 128 := (t.g (r + 1)).val ++ (t.g r).val
      let req : Req :=
        { mkReq (.strand s1.cur) (.atom .cas (two gb) (two gc) true) x s1.me.sys.asid 0 with
            scope := sc, acq := ord == .acq || ord == .ar, rel := ord == .rel || ord == .ar, mergeable := false }
      s1.room (.strand s1.cur) [req] = true →
      IssuesAt (.acas2 g gd ga gb gc sc ord) s (oneSent s1 req (some (.gpair gd.toNat, .v ⟨0, 0⟩ 0, .pair))))

/-- R194: the new value of each atomic on n bytes, over the values of the object and the operand; a compare that fails writes nothing. -/
def Obligations.AtomicValues : Prop :=
  ∀ (n old b c : Nat), n = 4 ∨ n = 8 ∨ n = 16 → old < 2 ^ (8 * n) → b < 2 ^ (8 * n) →
    let sg (x : Nat) : Int := if 2 * x < 2 ^ (8 * n) then x else (x : Int) - 2 ^ (8 * n)
    atomNew .add n old b c = (some ((old + b) % 2 ^ (8 * n)), 0) ∧
    atomNew .and n old b c = (some (old &&& b), 0) ∧ atomNew .or n old b c = (some (old ||| b), 0) ∧
    atomNew .xor n old b c = (some (old ^^^ b), 0) ∧ atomNew .xchg n old b c = (some b, 0) ∧
    atomNew .minu n old b c = (some (min old b), 0) ∧ atomNew .maxu n old b c = (some (max old b), 0) ∧
    (∃ r, atomNew .min n old b c = (some r, 0) ∧ (r = old ∨ r = b) ∧ sg r = min (sg old) (sg b)) ∧
    (∃ r, atomNew .max n old b c = (some r, 0) ∧ (r = old ∨ r = b) ∧ sg r = max (sg old) (sg b)) ∧
    (old = c → atomNew .cas n old b c = (some b, 0)) ∧ (old ≠ c → atomNew .cas n old b c = (none, 0)) ∧
    atomNew .fadd32 n old b c = (some (Fmt.f32.add .rne false 0 old b).1, (Fmt.f32.add .rne false 0 old b).2) ∧
    atomNew .fadd64 n old b c = (some (Fmt.f64.add .rne false 0 old b).1, (Fmt.f64.add .rne false 0 old b).2)

/-- R197, R198, R199, R72: forms on a reduction handle that names an accumulator the strand's core may use: one request to the engine of the
handle's unit. `redx` contributes a scalar, or each lane of the mask of an unpoisoned register; the forms of `redf` open, read, finish or
give the status. A poisoned handle traps with 0x1A, one with bits above the thirteenth with 0x03, one its unit's table refuses with
0x40. Completes: redx, redfOpen, redfRd, redfFin, redfSt. -/
def Obligations.ReductionForms : Prop :=
  ∀ (s : State) (g : Guard) (ga : GReg),
    let t := s.me
    let h := (t.g ga).val
    let u := h.toNat / 64 % 128
    let k := h.toNat % 64
    let grant (b : Nat) : Bool := s.nmuOk (coreOf s.cur) u b
    let req (op : ReqOp) : Req := mkReq (.strand s.cur) op { sp := .red u, pa := k, len := 1, va := 0, off := 0 } t.sys.asid 0
    -- what stops every form (wr: the forms that need the grant to write)
    let refused (i : Instr) (wr : Nat) : Prop :=
      ((t.g ga).poison = true → Traps i s { cause := 0x1A }) ∧
      ((t.g ga).poison = false → 2 ^ 13 ≤ h.toNat → Traps i s { cause := 0x03 }) ∧
      ((t.g ga).poison = false → h.toNat < 2 ^ 13 → grant wr = false → Traps i s { cause := 0x40 })
    (∀ gb ty, Ready s g [.g ga.toNat, .g gb.toNat] → refused (.redx g ga (.scalar gb ty)) 1) ∧
    (∀ va, Ready s g (t.vRegs [va] ++ [.g ga.toNat]) → refused (.redx g ga (.vector va)) 1) ∧
    (∀ anchor, Ready s g [.g ga.toNat] → refused (.redfOpen g ga anchor) 1) ∧
    (∀ gd, Ready s g [.g gd.toNat, .g ga.toNat] →
      (∀ bf, refused (.redfRd g gd ga bf) 0 ∧ refused (.redfFin g gd ga bf) 1) ∧ refused (.redfSt g gd ga) 0) ∧
    ((t.g ga).poison = false → h.toNat < 2 ^ 13 → grant 1 = true →
      (∀ gb ty, Ready s g [.g ga.toNat, .g gb.toNat] → (t.g gb).poison = false → gp s g = false →
        let v : BitVec 32 := if ty = 0 then (t.g gb).val.setWidth 32 else ((t.g gb).val.setWidth 16).setWidth 32
        let r := req (.redx [(k, v, ty.toNat, false)])
        s.room (.strand s.cur) [r] = true → IssuesAt (.redx g ga (.scalar gb ty)) s (oneSent s r none)) ∧
      (∀ va b t1, Ready s g (t.vRegs [va] ++ [.g ga.toNat]) → t.readSrcs [{ o := va, lu := false }] = .ok [b] t1 →
        b.poison &&& t.mask g = 0 → gp s g = false →
        let xs := (activeElems 32 (t.mask g)).map (fun n => ((k + n % 64) % 64, BitVec.ofNat 32 (elem b.bits.toNat 32 n), 0, false))
        let r := req (.redx xs)
        (s.setMe t1).room (.strand s.cur) [r] = true → IssuesAt (.redx g ga (.vector va)) s (oneSent (s.setMe t1) r none)) ∧
      (∀ anchor, Ready s g [.g ga.toNat] → gp s g = false →
        s.room (.strand s.cur) [req (.redfOpen anchor.toInt)] = true →
        IssuesAt (.redfOpen g ga anchor) s (oneSent s (req (.redfOpen anchor.toInt)) none))) ∧
    (∀ gd bf, Ready s g [.g gd.toNat, .g ga.toNat] → (t.g ga).poison = false → h.toNat < 2 ^ 13 →
      let f : Option (Dst × FVal × LandForm) := some (.g gd.toNat, .s { val := 0, poison := gp s g }, .scalar 8 false)
      (grant 0 = true → s.room (.strand s.cur) [req (.redfRd bf false)] = true →
        IssuesAt (.redfRd g gd ga bf) s (oneSent s (req (.redfRd bf false)) f)) ∧
      (grant 1 = true → s.room (.strand s.cur) [req (.redfRd bf true)] = true →
        IssuesAt (.redfFin g gd ga bf) s (oneSent s (req (.redfRd bf true)) f)) ∧
      (grant 0 = true → s.room (.strand s.cur) [req .redfSt] = true →
        IssuesAt (.redfSt g gd ga) s (oneSent s (req .redfSt) f)))

/-- R200, R201, R202, R329: `sems` sends an add that is a release. `semw` sends its condition to the word's home, once, and holds; once its waiter has
been woken it takes the value that satisfied it and completes, and before that it holds. `fence` and `mark` leave an order entry behind the
strand's accesses that are still to be performed, none where there are none; a fence wider than the strand is cumulative, and has the stores its core has
published before it as well. Completes: sems, semw, fence, mark. -/
def Obligations.SemaphoreAndOrderForms : Prop :=
  ∀ (s s1 : State) (g : Guard) (x : Seg) (gs : List Seg),
    let t := s.me
    let me : Src := .strand s.cur
    (∀ sc ga gb, Ready s g [.g ga.toNat, .g gb.toNat] → (t.g ga).poison = false → (t.g gb).poison = false → gp s g = false →
      s.check { a := true } 8 (t.g ga).val 8 = (s1, .ok (x :: gs)) →
      let r : Req := { mkReq (.strand s1.cur) (.sems (t.g gb).val) x s1.me.sys.asid 0 with scope := sc, rel := true }
      s1.room (.strand s1.cur) [r] = true → IssuesAt (.sems g sc ga gb) s (oneSent s1 r none)) ∧
    (∀ sc gd ga gb eq, Ready s g [.g gd.toNat, .g ga.toNat, .g gb.toNat] → (t.g ga).poison = false → (t.g gb).poison = false →
      (∀ w v bad, s.waiterOf (.strand s.cur) = some w → w.sat = some (v, bad) → w.woken = true →
        let u := s.dropWaiter (.strand s.cur)
        IssuesAt (.semw g sc gd ga gb eq) s
          (u.setMe (u.me.fly (.g gd.toNat) (.s { val := v, poison := bad || gp s g }) 0 2 true))) ∧
      (∀ w, s.waiterOf (.strand s.cur) = some w → w.woken = false → HoldsAt (.semw g sc gd ga gb eq) s s) ∧
      (s.waiterOf (.strand s.cur) = none → (∃ e ∈ s.net, e.src = me ∧ e.op.isSemw = true) → HoldsAt (.semw g sc gd ga gb eq) s s) ∧
      (s.waiterOf (.strand s.cur) = none → (∀ e ∈ s.net, e.src = me → e.op.isSemw = false) →
        s.check { r := true } 8 (t.g ga).val 8 = (s1, .ok (x :: gs)) →
        let r : Req := { mkReq (.strand s1.cur) (.semw eq (t.g gb).val) x s1.me.sys.asid 0 with scope := sc, acq := true }
        s1.room (.strand s1.cur) [r] = true → HoldsAt (.semw g sc gd ga gb eq) s (oneSent s1 r none))) ∧
    (Ready s g [] →
      let order (cum : Bool) : Req := mkReq me (.order cum) { sp := .dram, pa := 0, len := 0, va := 0, off := 0 } t.sys.asid 0
      let behind (cum : Bool) : Prop :=
        ∃ e ∈ s.net, e.done = false ∧ (e.src = me ∨ (cum = true ∧ e.pub = true ∧ e.src.core = some (coreOf s.cur)))
      (∀ sc, behind (sc != .sd) → IssuesAt (.fence g sc) s (s.send (order (sc != .sd)))) ∧
      (∀ sc, ¬ behind (sc != .sd) → IssuesAt (.fence g sc) s s) ∧
      (behind false → IssuesAt (.mark g) s (s.send (order false))) ∧ (¬ behind false → IssuesAt (.mark g) s s))

/-- R325, R358: a home on a compute die performs a store of whole bytes, to a full bank of a core at whose banks no drop waits: the request's bytes hold its
data, and every other byte of every memory reads as before. The request leaves the queues. -/
def Obligations.ChipStorePerformed : Prop :=
  ∀ (s : State) (r : Req) (d : List Byte), s.due r.id = some r → r.sp = .chip → r.op = .store d (d.map (fun _ => 0)) → r.merged = [] →
    s.chipFull r.pa = true → (∀ c o, target r.pa = .sp c o → ∀ k, ((s.core c).bank k).drops = []) →
    ∃ t, exec (.homeAccess r.id) s = .next t ∧
      (∀ i, i < d.length → memGet t.chip (r.pa + i) = d.getD i 0) ∧
      (∀ a, a < r.pa ∨ r.pa + d.length ≤ a → memGet t.chip a = memGet s.chip a) ∧
      (∀ a, memGet t.dram a = memGet s.dram a ∧ memGet t.host a = memGet s.host a ∧ memGet t.peer a = memGet s.peer a) ∧
      (∀ e ∈ t.net, e.id ≠ r.id)

/-- R10: memory: a byte written reads back, every other byte is as it was, and both in the canonical form; a run of bytes likewise. -/
def Obligations.MemoryReadAfterWrite : Prop :=
  ∀ (m : Mem) (a : Nat) (b : Byte) (bs : List Byte), Memory.wf m = true →
    memGet (memPut m a b) a = b ∧ (∀ k, k ≠ a → memGet (memPut m a b) k = memGet m k) ∧ Memory.wf (memPut m a b) = true ∧
    readBytes (writeBytes m a bs) a bs.length = bs ∧
    (∀ k, k < a ∨ a + bs.length ≤ k → memGet (writeBytes m a bs) k = memGet m k) ∧ Memory.wf (writeBytes m a bs) = true ∧
    (∀ n : Mem, Memory.wf n = true → (∀ k, memGet n k = memGet m k) → n = m)

/-- R186, R192, R194, R196, R198, R201, R434: events on the way of a request. An atomic at an on-chip home that is ready writes the new value and, where the form
has a result, returns the old one; a home whose bank is not full wakes it. A reduction engine takes a request into its arrival buffer of 32, refuses it where that is full, at most twice, and
then applies its contributions one by one. Two atomics that a router may merge, with nothing before them but each other, become one with their
combined operand. A refused request is sent again; a home of no stated capacity may refuse one it might perform (log entry 99). The first satisfied
waiter of a word is woken. Completes: homeAccess, reductionApply, routerMerge, requestResend, semaphoreWaiterWake. -/
def Obligations.RequestEvents : Prop :=
  ∀ (s : State) (r : Req),
    (∀ op b c ret, s.due r.id = some r → r.sp = .chip → r.op = .atom op b c ret → s.chipReadyFor r.pa r.id = true →
      exec (.homeAccess r.id) s = .next (s.complete r) ∧
      ((s.readChip r.pa r.len).2 = [] →
        let old := ofBytes (readBytes s.chip r.pa r.len)
        let n := atomNew op r.len old b.toNat c.toNat
        let s1 := match n.1 with | some v => s.writeAt .chip r.pa (toBytes r.len v) false | none => s
        s.perform r = if ret then s1.answer r 0 (readBytes s.chip r.pa r.len) [] n.2 else s1)) ∧
    (s.due r.id = some r → r.sp = .chip → s.chipReadyFor r.pa r.id = false → exec (.homeAccess r.id) s = .next (s.chipWake r.pa)) ∧
    (∀ u, s.due r.id = some r → r.sp = .red u →
      (r.accept = none → (s.arrivals u < 32 ∨ 2 ≤ r.refusals) →
        exec (.reductionApply r.id) s = .next { s.setReq { r with accept := some s.fresh } with fresh := s.fresh + 1 }) ∧
      (r.accept = none → 32 ≤ s.arrivals u → r.refusals < 2 →
        exec (.reductionApply r.id) s = .next (s.setReq { r with away := true, refusals := r.refusals + 1 })) ∧
      (∀ k v ty p, r.accept.isSome = true → r.op = .redx [(k, v, ty, p)] →
        exec (.reductionApply r.id) s = .next (s.complete r) ∧
        s.perform r = s.setAcc u k ((s.acc u k).contribute (redFmt ty) v.toNat p)) ∧
      (∀ k v ty p x xs, r.accept.isSome = true → r.op = .redx ((k, v, ty, p) :: x :: xs) →
        exec (.reductionApply r.id) s =
          .next ((s.setAcc u k ((s.acc u k).contribute (redFmt ty) v.toNat p)).setReq { r with op := .redx (x :: xs) })) ∧
      (∀ a, r.accept.isSome = true → r.op = .redfOpen a →
        exec (.reductionApply r.id) s = .next (s.complete r) ∧ s.perform r = s.setAcc u r.pa (Acc.open a))) ∧
    (∀ (q : Req) op x y c d, s.req r.id = some r → s.req q.id = some q → r.op = .atom op x c false → q.op = .atom op y d false →
      r.mergesWith q = true → s.free r = true → s.freeBut r q = true →
      exec (.routerMerge r.id q.id) s = .next (s.setReq { r with
        op := .atom op (BitVec.ofNat 128 ((atomNew op r.len x.toNat y.toNat 0).1.getD 0)) c false
        merged := r.merged ++ [q.id] ++ q.merged })) ∧
    (s.req r.id = some r → r.away = true → exec (.requestResend r.id) s = .next (s.setReq { r with away := false })) ∧
    (s.due r.id = some r → r.refusable = true →
      exec (.requestResend r.id) s = .next (s.setReq { r with away := true, refusals := r.refusals + 1 })) ∧
    (∀ w : Waiter, s.waiters.find? (fun x => x.id == w.id) = some w → w.sat.isSome = true → w.woken = false →
      (∀ x ∈ s.waiters, x.sp = w.sp → x.pa = w.pa → x.sat.isSome = true → x.woken = false → x.id = w.id ∨ w.id < x.id) →
      exec (.semaphoreWaiterWake w.id) s = .next
        { s with waiters := s.waiters.map (fun x => if x.id == w.id then { x with woken := true } else x) })

/-! Vector instructions (R105 to R134, R186, R187, R350 to R353). -/

/-- The block of a vector result under a guard g: its elements' bits, its poison, that of the guard where it counts. -/
def vBlock (s : State) (g : Guard) (pg : Bool) (o : VOut) : Block :=
  { bits := BitVec.ofNat 32768 o.bits, poison := o.poison ||| allPoison (pg && gp s g) }

/-- The acting strand once its sources have been read (u) and the unit taken: draws made, the unit busy 2 strand cycles, 4 for FP64. -/
def vTaken (s : State) (u : Strand) (f64 : Bool) (o : VOut) : Strand :=
  { u.draw o.draws with vuFree := s.me.clock + s.me.cyc (if f64 then 4 else 2) }

/-- What a V syllable with destination vd, sources os and further registers ds does: with the guard active, every register settled, the unit
free and the sources read as blocks bs (leaving the strand at u), it issues and sends the block that out gives of bs, under out's mask and
flags, to a register, or to an outbound port with a slot for it, to land lat strand cycles later, two more for FP64. At a port's end the block is
dropped, the port's end bit set and the flags raised where it would have landed; past the end of a stream that is to trap there, or with a
failed stream, it traps; a full port holds the bundle, and a poisoned element that a
push would carry traps with 0x19. keep: it keeps part of vd, which it reads after the others. -/
def VResult (i : Instr) (s : State) (g : Guard) (vd : Opnd) (keep : Bool) (os : List VSrc) (ds : List Dst) (f64 pg : Bool) (lat : Nat)
    (out : List Block → VOut) : Prop :=
  ∀ bs u, Ready s g (s.me.vDest vd ++ s.me.vRegs (os.map (fun o => o.o)) ++ ds) → s.me.vuFree ≤ s.me.clock →
    s.me.readSrcs (if keep && vd.isV then os ++ [{ o := vd, lu := false }] else os) = .ok bs u →
    let o := out bs
    let t := vTaken s u f64 o
    let after := if f64 then lat + 2 else lat
    let sent : Prop := Issues i s (t.flyV vd (vBlock s g pg o) o.mask o.flags after)
    (vd.isV = true → sent) ∧
    (vd.isV = false →
      ((vBlock s g pg o).poison &&& o.mask ≠ 0 → Traps i s { cause := 0x19 }) ∧
      ((vBlock s g pg o).poison &&& o.mask = 0 →
        (t.push (vd.toNat - 32) = .slot → sent) ∧
        (t.push (vd.toNat - 32) = .drop →
          Issues i s ((t.setEos (vd.toNat - 32)).fly (.g 0) (.s { val := 0, poison := false }) o.flags after true)) ∧
        (∀ r, t.push (vd.toNat - 32) = .trap r → exec i s = .next (trapped (s.setMe (s.me.tellFault (vd.toNat - 32))) r)) ∧
        (t.push (vd.toNat - 32) = .wait → HoldsAt i s s)))

/-- A V syllable that writes predicate pd completes, likewise: value, poison, the bits it writes, whether the register's poison stays,
flags. -/
def VPredResult (i : Instr) (s : State) (g : Guard) (pd : PRegNo) (os : List VSrc) (f64 : Bool)
    (out : List Block → Mask × Bool × Mask × Bool × BitVec 6) : Prop :=
  ∀ bs u, Ready s g (.p (s.me.pp pd.toNat) :: s.me.vRegs (os.map (fun o => o.o))) → s.me.vuFree ≤ s.me.clock →
    s.me.readSrcs os = .ok bs u →
    let r := out bs
    let t := { u with vuFree := s.me.clock + s.me.cyc (if f64 then 4 else 2) }
    Issues i s (t.fly (.p (s.me.pp pd.toNat)) (.p { val := r.1, poison := r.2.1 } r.2.2.1 r.2.2.2.1) r.2.2.2.2 (if f64 then 6 else 4) true)

/-- The elements of an arithmetic form: fl on floats under a rounding mode and a draw, int on the integer values, wrapped or saturated. -/
def arithOut (s : State) (g : Guard) (ty : Ty) (rnd : Rnd) (sat : Bool) (bs : List Block)
    (fl : Fmt → RM → Nat → Nat → Nat → Nat → Coded) (int : Int → Int → Int → Int) : VOut :=
  match tyFmt ty with
  | some f => elementwise s.me g ty (s.me.mode rnd == .rsr) bs (fun u a b c => fl f (s.me.mode rnd) u a b c)
  | none =>
    let v (a : Nat) : Int := intVal ty.width ty.signed a
    elementwise s.me g ty false bs (fun _ a b c => (wrap ty.width
      (if sat then max (intMin ty.width ty.signed) (min (int (v a) (v b) (v c)) (intMax ty.width ty.signed)) else int (v a) (v b) (v c)), 0))

/-- R106, R111, R112, R113, R133, R134: vector arithmetic, element by element under the mask. Completes: vadd, vsub, vmul, vfma, vfms, vmin,
vmax, vclamp, vabs, vneg. -/
def Obligations.VectorArithmeticResults : Prop :=
  ∀ (s : State) (g : Guard) (ty : Ty) (rnd : Rnd) (sat : Bool) (vd : Opnd) (va vb vc : VSrc),
    let d := ty == .f64
    let two (i : Instr) (rnd : Rnd) (sat : Bool) (fl : Fmt → RM → Nat → Nat → Nat → Coded) (int : Int → Int → Int) : Prop :=
      VResult i s g vd false [va, vb] [] d true 4
        (fun bs => arithOut s g ty rnd sat bs (fun f m u a b _ => fl f m u a b) (fun a b _ => int a b))
    let three (i : Instr) (rnd : Rnd) (sat : Bool) (lat : Nat) (fl : Fmt → RM → Nat → Nat → Nat → Nat → Coded) (int : Int → Int → Int → Int) :
        Prop :=
      VResult i s g vd false [va, vb, vc] [] d true lat (fun bs => arithOut s g ty rnd sat bs fl int)
    let one (i : Instr) (fl : Fmt → Nat → Nat) (int : Int → Int) : Prop :=
      VResult i s g vd false [va] [] d true 4
        (fun bs => arithOut s g ty .rne sat bs (fun f _ _ a _ _ => (fl f a, 0)) (fun a _ _ => int a))
    two (.vadd g ⟨ty, rnd, sat, vd, va, vb⟩) rnd sat (fun f m u a b => f.add m sat u a b) (fun a b => a + b) ∧
    two (.vsub g ⟨ty, rnd, sat, vd, va, vb⟩) rnd sat (fun f m u a b => f.sub m sat u a b) (fun a b => a - b) ∧
    two (.vmul g ⟨ty, rnd, sat, vd, va, vb⟩) rnd sat (fun f m u a b => f.mul m sat u a b) (fun a b => a * b) ∧
    two (.vmin g ⟨ty, rnd, sat, vd, va, vb⟩) .rne false (fun f _ _ a b => f.minmax false a b) (fun a b => min a b) ∧
    two (.vmax g ⟨ty, rnd, sat, vd, va, vb⟩) .rne false (fun f _ _ a b => f.minmax true a b) (fun a b => max a b) ∧
    three (.vfma g ⟨ty, rnd, sat, vd, va, vb, vc⟩) rnd sat 6 (fun f m u a b c => f.fma m sat u false a b c) (fun a b c => a * b + c) ∧
    three (.vfms g ⟨ty, rnd, sat, vd, va, vb, vc⟩) rnd sat 6 (fun f m u a b c => f.fma m sat u true a b c) (fun a b c => a * b - c) ∧
    three (.vclamp g ⟨ty, rnd, sat, vd, va, vb, vc⟩) .rne false 4
      (fun f _ _ a b c => ((f.minmax false (f.minmax true a b).1 c).1, (f.minmax true a b).2 ||| (f.minmax false (f.minmax true a b).1 c).2))
      (fun a b c => min (max a b) c) ∧
    one (.vabs g ⟨ty, rnd, sat, vd, va⟩) (fun f a => a % f.signW) (fun a => if a < 0 then -a else a) ∧
    one (.vneg g ⟨ty, rnd, sat, vd, va⟩) (fun f a => a ^^^ f.signW) (fun a => -a)

/-- R105, R106, R63, R129: what elements come to. Element n of an elementwise result, where its lane is in the mask (an FP64 pair follows its even
lane), is the function of elements n of the sources; under `rsr` element n uses draw n + 1 of the strand's generator and one draw is made
for each position of the register. Integer reductions are exact before they are narrowed: `.add` is the wrapped or saturated total, `.min`
and `.max` the least and greatest of the elements that take part. -/
def Obligations.ElementMeaning : Prop :=
  (∀ (t : Strand) (g : Guard) (ty : Ty) (rsr : Bool) (bs : List Block) (f : Nat → Nat → Nat → Nat → Coded) (n : Nat),
     n < 32768 / ty.width →
     let out := elementwise t g ty rsr bs f
     let e (k : Nat) : Nat := elem (bs.getD k ⟨0, 0⟩).bits.toNat ty.width n
     (out.mask.getLsbD (n * ty.width / 32) = true →
       elem out.bits ty.width n = (f (drawBits (if rsr then drawN (n + 1) t.sys.seed else t.sys.seed)) (e 0) (e 1) (e 2)).1 % 2 ^ ty.width) ∧
     (out.mask.getLsbD (n * ty.width / 32) = false → elem out.bits ty.width n = 0) ∧
     out.draws = (if rsr then 32768 / ty.width else 0) ∧
     (ty ≠ .f64 → out.mask = t.mask g)) ∧
  (∀ (ty : Ty) (md : RM) (sat : Bool) (l : List Part), ty = .i32 ∨ ty = .u32 →
     let xs := (l.filterMap id).map (fun x => intVal ty.width ty.signed x)
     reduceLine ty .add md sat l = (intCode ty.width ty.signed sat xs.sum, 0) ∧
     (xs ≠ [] →
       (∃ x ∈ xs, (∀ y ∈ xs, x ≤ y) ∧ reduceLine ty .min md sat l = (wrap 32 x, 0)) ∧
       (∃ x ∈ xs, (∀ y ∈ xs, y ≤ x) ∧ reduceLine ty .max md sat l = (wrap 32 x, 0))))

/-- R114 to R121: bit operations, shifts and fields, compares, selection, moves and poison. A shift amount is bits 7:0 of the matching element, or
the immediate; by the element's width or more, a shift leaves zeros, or copies of the sign. Completes: vand, vor, vxor, vnot, vshl, vshr,
vsra, vrot, vpopc, vclz, vbfx, vfsh, vcmp, vsel, vmov, vli, vbcs, vmovpToVector, vmovpToPredicate, vptest, vpclr. -/
def Obligations.VectorBitAndMoveResults : Prop :=
  (∀ (s : State) (g : Guard) (ty : Ty) (vd : Opnd) (va vb : VSrc) (n : VAmt),
     let w := ty.width
     let logic (i : Instr) (os : List VSrc) (f : Lanes → Lanes → Lanes) : Prop :=
       VResult i s g vd false os [] false true 4 (fun bs =>
         { bits := (f (nth bs 0).bits (nth bs 1).bits).toNat, poison := (nth bs 0).poison ||| (nth bs 1).poison, mask := s.me.mask g,
           flags := 0, draws := 0 })
     let amts : List VSrc := match n with | .vec v => [v] | .imm _ => []
     let amt (x : Nat) : Nat := match n with | .vec _ => x % 256 | .imm v => v.toNat
     let int (i : Instr) (os : List VSrc) (f : Nat → Nat → Nat → Nat) : Prop :=
       VResult i s g vd false os [] false true 4 (fun bs => elementwise s.me g ty false bs (fun _ a b c => (f a b c, 0)))
     logic (.vand g ⟨vd, va, vb⟩) [va, vb] (fun a b => a &&& b) ∧ logic (.vor g ⟨vd, va, vb⟩) [va, vb] (fun a b => a ||| b) ∧
     logic (.vxor g ⟨vd, va, vb⟩) [va, vb] (fun a b => a ^^^ b) ∧ logic (.vnot g vd va) [va] (fun a _ => ~~~a) ∧
     int (.vshl g ⟨ty, vd, va, n⟩) (va :: amts) (fun a b _ => (a * 2 ^ amt b) % 2 ^ w) ∧
     int (.vshr g ⟨ty, vd, va, n⟩) (va :: amts) (fun a b _ => a / 2 ^ amt b) ∧
     int (.vsra g ⟨ty, vd, va, n⟩) (va :: amts) (fun a b _ => wrap w (signed w a / ((2 ^ min (amt b) w : Nat) : Int))) ∧
     int (.vrot g ⟨ty, vd, va, n⟩) (va :: amts) (fun a b _ => ((a <<< (amt b % w)) % 2 ^ w) ||| (a >>> (w - amt b % w))) ∧
     int (.vpopc g ⟨ty, .rne, false, vd, va⟩) [va] (fun a _ _ => popN w a) ∧
     int (.vclz g ⟨ty, .rne, false, vd, va⟩) [va] (fun a _ _ => clzN w a) ∧
     (∀ sx len, int (.vbfx g ty vd va n sx len) (va :: amts) (fun a b _ =>
       let f := (a % 2 ^ w / 2 ^ amt b) % 2 ^ len.toNat
       if sx then wrap w (signed len.toNat f) else f)) ∧
     int (.vfsh g ty vd va vb n) ([va, vb] ++ amts) (fun a b c => ((a % 2 ^ w * 2 ^ w + b % 2 ^ w) / 2 ^ amt c) % 2 ^ w)) ∧
  (∀ (s : State) (g : Guard) (vd : Opnd) (va vb : VSrc),
     let t := s.me
     let out (bits : Nat) (poison : Mask) : VOut := { bits := bits, poison := poison, mask := t.mask g, flags := 0, draws := 0 }
     VResult (.vmov g vd va) s g vd false [va] [] false true 4 (fun bs => out (nth bs 0).bits.toNat (nth bs 0).poison) ∧
     VResult (.vpclr g vd va) s g vd false [va] [] false false 4 (fun bs => out (nth bs 0).bits.toNat 0) ∧
     (∀ imm, VResult (.vli g vd imm) s g vd false [] [] false true 4 (fun _ => out (laneAll imm.toNat) 0)) ∧
     (∀ ty ga, VResult (.vbcs g ty vd ga) s g vd false [] [.g ga.toNat] (ty == .f64) true 4 (fun _ =>
       { bits := ((t.g ga).val.toNat % 2 ^ ty.width) * ((2 ^ 32768 - 1) / (2 ^ ty.width - 1)), poison := allPoison (t.g ga).poison,
         mask := typeMask ty (t.mask g), flags := 0, draws := 0 })) ∧
     (∀ pa, VResult (.vmovpToVector g vd pa) s g vd false [] [.p (t.pp pa.toNat)] false true 4
       (fun _ => out (laneMask (t.p pa).val).toNat (allPoison (t.p pa).poison))) ∧
     (∀ pc neg, VResult (.vsel g ⟨vd, va, vb⟩ pc neg) s g vd false [va, vb] [.p (t.pp pc.toNat)] false true 4 (fun bs =>
       let m := if neg then ~~~(t.p pc).val else (t.p pc).val
       let b := (nth bs 1).merge (nth bs 0) m
       out b.bits.toNat (b.poison ||| allPoison (t.p pc).poison))) ∧
     (∀ pd, VPredResult (.vmovpToPredicate g pd va) s g pd [va] false (fun bs =>
       (BitVec.ofNat 1024 (bitsOf ((elems 1024 32 (nth bs 0).bits.toNat).map (fun x => x != 0))),
        (nth bs 0).poison &&& t.mask g != 0 || gp s g, t.mask g, true, 0))) ∧
     (∀ pd, VPredResult (.vptest g pd va) s g pd [va] false (fun bs => ((nth bs 0).poison, gp s g, t.mask g, false, 0))) ∧
     (∀ pd ty c, VPredResult (.vcmp g ty c pd va vb) s g pd [va, vb] (ty == .f64) (fun bs =>
       let r := elementwise t g ty false bs (fun _ a b _ =>
         match tyFmt ty with
         | some f => (b2n (f.cmp c a b).1, (f.cmp c a b).2)
         | none => (b2n (intCond c (intVal ty.width ty.signed a) (intVal ty.width ty.signed b)), 0))
       let es := (elems (32768 / ty.width) ty.width r.bits).map (fun x => x == 1)
       (BitVec.ofNat 1024 (bitsOf (if ty == .f64 then es.flatMap (fun b => [b, b]) else es)),
        r.poison &&& r.mask != 0 || gp s g, r.mask, r.mask != BitVec.allOnes 1024, r.flags))))

/-- R122 to R125, R55: conversions and packing; each sends a block whose elements are these. `vcvt`: element n of the part written is the
conversion of its source element, under `rsr` with the draw of its position. `vpack` puts the low bits, or the saturated value, of the
lanes of va and vb at sub-elements 2p and 2p + 1; `vunpk` extends sub-element j. `vquant` writes the elements of R55, or the scales, of
its part, and `vdeq` multiplies element by scale; both are stated for the modes that draw nothing. Completes: vcvt, vpack, vunpk, vquant, vdeq. -/
def Obligations.VectorConversionResults : Prop :=
  ∀ (s : State) (g : Guard) (rnd : Rnd) (sat : Bool) (vd : Opnd) (va vb : VSrc),
    let t := s.me
    (∀ (src d : Ty) (p : BitVec 4), ∃ out, VResult (.vcvt g ⟨src, rnd, sat, vd, va⟩ d p) s g vd (src.capacity < d.capacity) [va] []
        (src == .f64 || d == .f64) true 5 out ∧
      ∀ bs n u,
        let x := (nth bs 0).bits.toNat
        let at' := if src.capacity < d.capacity then p.toNat * src.capacity + n else n
        let from' := if d.capacity < src.capacity then p.toNat * d.capacity + n else n
        (n < min src.capacity d.capacity → at' < d.capacity → from' < src.capacity → (out bs).mask.getLsbD (at' * d.width / 32) = true →
          (t.mode rnd = .rsr → u = drawBits (drawN (at' + 1) t.sys.seed)) →
          elem (out bs).bits d.width at' = (convert d src (t.mode rnd) sat u (elem x src.width from')).1 % 2 ^ d.width) ∧
        (out bs).draws = (if t.mode rnd = .rsr then d.capacity else 0)) ∧
    (∀ (ty : Ty) (p : BitVec 2), ∃ out, VResult (.vpack g ty sat ⟨vd, va, vb⟩ p) s g vd (ty.width != 16) [va, vb] [] false true 4 out ∧
      ∀ bs n, n < 1024 →
        let lane (k : Nat) : Nat := elem (nth bs k).bits.toNat 32 n
        elem (out bs).bits 32 n = packLane ty sat p.toNat (lane 0) (lane 1) (lane 2) % 2 ^ 32 ∧ (out bs).mask = t.mask g) ∧
    (∀ (ty : Ty) (j : BitVec 3), ∃ out, VResult (.vunpk g ty vd va j) s g vd false [va] [] false true 4 out ∧
      ∀ bs n, n < 1024 →
        let e := elem (elem (nth bs 0).bits.toNat 32 n) ty.width j.toNat
        elem (out bs).bits 32 n = (if ty = .i16 ∨ ty = .i8 then wrap 32 (signed ty.width e) else e) % 2 ^ 32 ∧ (out bs).mask = t.mask g) ∧
    (∀ (fmt : MxFmt) (p : BitVec 3), ∃ out, VResult (.vquant g fmt false rnd vd va p) s g vd true [va] [] false true 5 out ∧
      ∀ bs, (out bs).draws = (if t.mode rnd = .rsr then 32768 / mxWidth fmt else 0) ∧
        (out bs).mask = t.mask g &&& rowSpan (64 * mxWidth fmt / 32 * p.toNat) (64 * mxWidth fmt / 32) ∧
        ∀ r i u, r < 16 → i < 64 → 64 * p.toNat + i < 2048 / mxWidth fmt → t.mode rnd ≠ .rsr →
          (out bs).mask.getLsbD (64 * r + (64 * p.toNat + i) * mxWidth fmt / 32) = true →
          let lane (c : Nat) : Nat := elem (nth bs 0).bits.toNat 32 (64 * r + c)
          let sc := mxScale fmt ((List.range 32).map (fun c => lane (32 * (i / 32) + c)))
          elem (out bs).bits (mxWidth fmt) (2048 / mxWidth fmt * r + 64 * p.toNat + i) =
            (if sc.2.1 || sc.2.2 then 0 else (mxElem fmt (t.mode rnd) u sc.1 (lane i)).1) % 2 ^ mxWidth fmt) ∧
    (∀ (fmt : MxFmt) (p : BitVec 3), ∃ out, VResult (.vquant g fmt true rnd vd va p) s g vd true [va] [] false true 5 out ∧
      ∀ bs, (out bs).draws = 0 ∧ (out bs).mask = t.mask g &&& rowSpan (p.toNat / 2) 1 ∧
        ∀ r b, r < 16 → b < 2 →
          let sc := mxScale fmt ((List.range 32).map (fun c => elem (nth bs 0).bits.toNat 32 (64 * r + 32 * b + c)))
          elem (out bs).bits 8 (256 * r + 2 * p.toNat + b) = (if sc.2.1 then 255 else if sc.2.2 then 0 else sc.1) % 256) ∧
    (∀ (fmt : MxFmt) (p : BitVec 3), ∃ out, VResult (.vdeq g fmt rnd sat ⟨vd, va, vb⟩ p) s g vd false [va, vb] [] false true 5 out ∧
      ∀ bs n, n < 1024 → t.mode rnd ≠ .rsr → 64 * p.toNat + n % 64 < 2048 / mxWidth fmt → (t.mask g).getLsbD n = true →
        let w := mxWidth fmt
        let e := elem (nth bs 0).bits.toNat w (2048 / w * (n / 64) + 64 * p.toNat + n % 64)
        let x := elem (nth bs 1).bits.toNat 8 (256 * (n / 64) + 2 * p.toNat + n % 64 / 32)
        ∀ u, elem (out bs).bits 32 n = (mxDequant fmt (t.mode rnd) sat u e x).1 % 2 ^ 32)

/-- R126, R127: the special functions, element by element, each a function of its own of the element's code; 12 strand cycles. Their special inputs on
FP32: plus and minus 0, plus and minus infinity, -1, and a quiet and a signalling NaN, with their flags, for every rounding.
Completes: vrcp, vrsq, vsqrt, vexp2, vlog2, vtanh. -/
def Obligations.SpecialFunctionResults : Prop :=
  (∀ (s : State) (g : Guard) (o : VUn),
     let does (i : Instr) (fn : Nat) : Prop :=
       VResult i s g o.vd false [o.va] [] false true 12 (fun bs =>
         elementwise s.me g o.ty (s.me.mode o.rnd == .rsr) bs (fun u a _ _ => special fn o.ty (s.me.mode o.rnd) o.sat u a))
     does (.vrcp g o) 0 ∧ does (.vrsq g o) 1 ∧ does (.vsqrt g o) 2 ∧ does (.vexp2 g o) 3 ∧ does (.vlog2 g o) 4 ∧ does (.vtanh g o) 5) ∧
  (∀ (mode : RM) (sat : Bool) (u : Nat), u < 2 ^ 16 →
     let f (fn x : Nat) : Coded := special fn .f32 mode sat u x
     let inf : Nat := 0x7F800000
     let ninf : Nat := 0xFF800000
     let nan : Nat := 0x7FC00000
     let nz : Nat := 0x80000000
     f 0 0 = (inf, fDivzero) ∧ f 1 0 = (inf, fDivzero) ∧ f 2 0 = (0, 0) ∧ f 3 0 = (0x3F800000, 0) ∧ f 4 0 = (ninf, fDivzero) ∧ f 5 0 = (0, 0) ∧
     f 0 nz = (ninf, fDivzero) ∧ f 1 nz = (ninf, fDivzero) ∧ f 2 nz = (nz, 0) ∧ f 3 nz = (0x3F800000, 0) ∧ f 4 nz = (ninf, fDivzero) ∧
     f 5 nz = (nz, 0) ∧
     f 0 inf = (0, 0) ∧ f 1 inf = (0, 0) ∧ f 2 inf = (inf, 0) ∧ f 3 inf = (inf, 0) ∧ f 4 inf = (inf, 0) ∧ f 5 inf = (0x3F800000, 0) ∧
     f 0 ninf = (nz, 0) ∧ f 1 ninf = (nan, fInvalid) ∧ f 2 ninf = (nan, fInvalid) ∧ f 3 ninf = (0, 0) ∧ f 4 ninf = (nan, fInvalid) ∧
     f 5 ninf = (0xBF800000, 0) ∧
     f 1 0xBF800000 = (nan, fInvalid) ∧ f 2 0xBF800000 = (nan, fInvalid) ∧ f 4 0xBF800000 = (nan, fInvalid) ∧
     (∀ fn, fn < 6 → f fn 0x7FC00001 = (nan, 0) ∧ f fn 0x7F800001 = (nan, fInvalid)))

/-- R128 to R130: the movement forms: lane (r, c) of the result, and its poison, is the lane of va that R128 names. Reductions along rows and
columns, and scans: over the elements of the mask, in rows of equal length; every written element of a row of `vredr`, or of a column of
`vredc`, is the row's or column's reduction, and an element of `vscanr` that takes part is what the elements to its left and itself give.
Completes: vrotr, vrotc, vbcr, vbcc, vtrn, vredr, vredc, vscanr. -/
def Obligations.AxisForms : Prop :=
  (∀ (s : State) (g : Guard) (vd : Opnd) (va : VSrc) (n : BitVec 6),
     let moves (i : Instr) (lat : Nat) (f : Nat → Nat → Nat) : Prop :=
       ∃ out, VResult i s g vd false [va] [] false true lat out ∧
         ∀ bs r c, r < 16 → c < 64 →
           elem (out bs).bits 32 (64 * r + c) = elem (nth bs 0).bits.toNat 32 (f r c) ∧
           (out bs).poison.getLsbD (64 * r + c) = (nth bs 0).poison.getLsbD (f r c) ∧
           (out bs).mask = s.me.mask g ∧ (out bs).flags = 0 ∧ (out bs).draws = 0
     moves (.vrotr g ⟨vd, va, n⟩) 3 (fun r c => 64 * r + (c + (64 - n.toNat)) % 64) ∧
     moves (.vrotc g ⟨vd, va, n⟩) 2 (fun r c => 64 * ((r + (16 - n.toNat % 16)) % 16) + c) ∧
     moves (.vbcr g ⟨vd, va, n⟩) 2 (fun r _ => 64 * r + n.toNat) ∧
     moves (.vbcc g ⟨vd, va, n⟩) 2 (fun _ c => 64 * (n.toNat % 16) + c) ∧
     moves (.vtrn g vd va) 4 (fun r c => 64 * (c % 16) + 16 * (c / 16) + r)) ∧
  (∀ (s : State) (g : Guard) (o : VRed),
     let t := s.me
     let m := typeMask o.ty (t.mask g)
     let w := o.ty.width
     let k := 2048 / w
     let red (l : List Part) : Nat := (reduceLine o.ty o.op (t.mode o.rnd) o.sat l).1
     let row (bs : List Block) (r : Nat) : List Part := (lines o.ty m (nth bs 0)).getD r []
     (∃ out, VResult (.vredr g o) s g o.vd false [o.va] [] (o.ty == .f64) true 9 out ∧
       ∀ bs r c, r < 16 → c < k → elem (out bs).bits w (k * r + c) = red (row bs r) % 2 ^ w ∧ (out bs).mask = m) ∧
     (∃ out, VResult (.vredc g o) s g o.vd false [o.va] [] (o.ty == .f64) true 5 out ∧
       ∀ bs r c, r < 16 → c < k →
         elem (out bs).bits w (k * r + c) = red ((List.range 16).map (fun i => (row bs i).getD c none)) % 2 ^ w ∧ (out bs).mask = m) ∧
     (∃ out, VResult (.vscanr g o) s g o.vd false [o.va] [] (o.ty == .f64) true 11 out ∧
       ∀ bs r c, r < 16 → c < k →
         elem (out bs).bits w (k * r + c) = ((scanLine o.ty o.op (t.mode o.rnd) o.sat (row bs r)).map (fun e => e.1)).getD c 0 % 2 ^ w ∧
         (out bs).mask = m))

/-- R131, R132, R134: gathers and look-ups into a register or an outbound port, and scatters, whose elements pass their checks and find places: one read for each element of
the mask, gathered, or writes of the elements' bytes; the vector unit is busy 32 strand cycles, the spec's least time for it (log entry 100).
Completes: vgath, vlut, vscat. -/
def Obligations.IndexedForms : Prop :=
  ∀ (s : State) (g : Guard) (vd : Opnd) (va vb : VSrc) (gb : GReg) (sh : BitVec 2) (ty : Ty) (b d : Block) (u : Strand) (gs : List Seg),
    let t := s.me
    s.me.vuFree ≤ s.me.clock →
    let busy (x : Strand) : Strand := { x with vuFree := x.clock + x.cyc 32 }
    let gather (i : Instr) (w : Nat) (addr : Nat → Word) : Prop :=
      Ready s g (t.vDest vd ++ t.vRegs [va.o] ++ [.g gb.toNat]) → t.readSrcs [va] = .ok [b] u →
      s.elemSegs { r := true } (w / 8) (fun n => addr (elem b.bits.toNat w n))
        (fun n => (t.g gb).poison || b.poison.getLsbD (laneOf w n)) (fun _ => false) (activeElems w (t.mask g)) = .ok gs →
      let v : FVal := .v { bits := 0, poison := allPoison (gp s g) } (t.mask g)
      (vd.isV = true →
        let s1 := s.setMe (busy (u.claimV (t.pv vd.toNat)))
        s1.room (.strand s.cur) (loadReqs s1 gs id) = true → IssuesAt i s (loadSent s1 gs (.v (t.pv vd.toNat)) v .elems id)) ∧
      (vd.isV = false →
        let q := vd.toNat - 32
        let p := vAt u.e.ports q
        let s1 := s.setMe (busy (u.setPort q { p with accepted := p.accepted + 1 }))
        ((∃ x ∈ gs, s.chipFull x.pa = false) → HoldsAt i s (s.wakeSegs gs)) ∧
        ((∀ x ∈ gs, s.chipFull x.pa = true) → (gp s g = true ∨ ∃ x ∈ gs, (s.readChip x.pa x.len).2 ≠ []) → Traps i s { cause := 0x19 }) ∧
        ((∀ x ∈ gs, s.chipFull x.pa = true) → gp s g = false → (∀ x ∈ gs, (s.readChip x.pa x.len).2 = []) →
          (t.push q = .slot → s1.room (.strand s.cur) (loadReqs s1 gs id) = true → IssuesAt i s (loadSent s1 gs (.q q) v .elems id)) ∧
          (t.push q = .drop → Issues i s (busy (u.setEos q))) ∧
          (∀ r, t.push q = .trap r → exec i s = .next (trapped (s.setMe (t.tellFault q)) r)) ∧
          (t.push q = .wait → HoldsAt i s s)))
    gather (.vgath g vd va gb sh) 32 (fun x => (t.g gb).val + BitVec.ofNat 64 (x * 2 ^ sh.toNat)) ∧
    gather (.vlut g ty vd va gb) ty.width (fun x => (t.g gb).val + BitVec.ofNat 64 (x * (ty.width / 8))) ∧
    (Ready s g (t.vRegs [va.o, vb.o] ++ [.g gb.toNat]) → t.readSrcs [va, vb] = .ok [d, b] u →
      s.elemSegs { w := true, lit := true } 4 (fun n => (t.g gb).val + BitVec.ofNat 64 (elem b.bits.toNat 32 n * 2 ^ sh.toNat))
        (fun n => (t.g gb).poison || b.poison.getLsbD n) (fun n => d.poison.getLsbD n || gp s g) (activeElems 32 (t.mask g)) = .ok gs →
      let s1 := s.setMe (busy u)
      let rs := storeReqs (.strand s.cur) t.sys.asid (s.fresh + 1) (whole (toBytes 4096 d.bits.toNat)) gs
      s1.room (.strand s.cur) rs = true → IssuesAt (.vscat g va vb gb sh) s ((s1.wakeSegs gs).sendAll rs))

/-- R186, R187, R292, R351, R356: `vld` and `vst` through a layout that takes a block, with an unpoisoned address and all sixteen rows past
their checks. Of the rows with a lane in the mask, a `vld` in full banks of its own scratchpad through L, with nothing of the strand's own before
it, reads at issue and lands 10 strand cycles later; one behind an access of an earlier bundle of the strand that has to come first holds
(log entry 14); another sends a read of each chunk of 16 bytes. The last-use hint of `vld` goes with its result, or
takes effect at once where it reads at issue. A `vst` of unpoisoned data sends its chunks of which some byte is written; one marked as a last use of
its bank makes the bank's registers dead. Completes: vld, vst. -/
def Obligations.BlockForms : Prop :=
  ∀ (s s1 : State) (g : Guard) (vd : Opnd) (va : VSrc) (k : LayNo) (ga : GReg) (gs : List Seg),
    let t := s.me
    let l := (vAt t.r.lay k.toNat).capture t.sys.fmode
    let o := l.base + (t.g ga).val
    (t.g ga).poison = false →
    (∀ lu, Ready s g (t.vDest vd ++ [.g ga.toNat]) → l.noBlock true = false →
      s.rowSegs (.strand s.cur) (coreOf s.cur) s.cur t.sys.asid { r := true } l o (List.range 16) = (s1, .ok gs) →
      let hs := l.used (t.mask g) gs
      let way := s1.wayL s1.cur (hs.all (fun x => winOf x.va == .l)) hs
      let u := (s1.me.claimV (t.pv vd.toNat)).draw (if l.draws then l.capacity else 0)
      let v : FVal := .v { bits := 0, poison := allPoison (gp s g) } (l.lanes (t.mask g))
      (way = .hold → HoldsAt (.vld g vd k ga lu) s s1) ∧
      let hint := if lu then (hs.filter (fun x => x.sp == .chip)).map (fun x => (x.pa, x.len)) else []
      (way = .queued → (s1.setMe u).room (.strand s1.cur) (loadReqs (s1.setMe u) (cutAll 16 hs) id) = true →
        ∃ x, IssuesAt (.vld g vd k ga lu) s x ∧ x.net = (loadSent (s1.setMe u) (cutAll 16 hs) (.v (t.pv vd.toNat)) v (.block l t.sys.seed) id).net ∧
          ∃ f ∈ x.me.flights, f.dst = .v (t.pv vd.toNat) ∧ f.need = (cutAll 16 hs).length ∧ f.form = .block l t.sys.seed ∧ f.hint = hint) ∧
      (way = .fixed →
        ∃ f, IssuesAt (.vld g vd k ga lu) s ((s1.setMe { u with flights := u.flights ++ [f] }).lastUse s1.cur hint) ∧
          f.dst = .v (t.pv vd.toNat) ∧ f.due = u.clock + 10 * u.e.divS ∧ f.need = 0)) ∧
    (∀ spl bl u, Ready s g (t.vRegs [va.o] ++ [.g ga.toNat]) → l.noBlock false = false → t.readSrcs [va] = .ok [bl] u →
      let b := l.fromBlock t.sys.seed { blk := bl, scales := 0, spoison := 0, mx := false, mxOnly := false, pos := (0, 0), mine := true } (t.mask g)
      b.poison = false → gp s g = false →
      s.rowSegs (.strand s.cur) (coreOf s.cur) s.cur t.sys.asid { w := true } l o (List.range 16) = (s1, .ok gs) →
      let u0 := (u.raise b.flags).draw (if l.draws then l.capacity else 0)
      let u1 := if spl then (List.range 4).foldl (fun (x : Strand) i => x.killV (4 * (x.pv va.o.toNat / 4) + i)) u0 else u0
      let hs := l.used (t.mask g) gs
      let rs := storeReqs (.strand s1.cur) u1.sys.asid (s1.fresh + 1) b.bytes hs
      (s1.setMe u1).room (.strand s1.cur) rs = true →
      IssuesAt (.vst g va k ga spl) s (((s1.setMe u1).wakeSegs hs).sendAll rs))

/-! Engine commands, ports, rings and barriers (R24, R136 to R185, R205 to R215, R298). -/

/-- The M syllable i enters queue e: with its guard and registers ready, the guard not poisoned, its token queues mapped to the engine, room in
the queue, no rewind pending at a port it names and the vector registers regs it reads in full banks, it issues; the machine is then as
before but for one command at the end of the queue, the next sequence number, the claims it makes on ports, the swap of its shape
register, the strand's generator after its draws, the use and liveness of vector registers, and, of a command that may access memory, the
stores before it marked as published (R331). P says what it has captured. -/
def EntersQueue (i : Instr) (s : State) (h : MHead) (ds : List Dst) (e : Nat) (regs ports : List Nat) (claims : List (Nat × Nat))
    (draws : Nat) (P : Cmd → Prop) : Prop :=
  let t := s.me.swapIn h
  Ready s h.g ds → gp s h.g = false → t.tkOk h e = true → (t.queue e).length < (if 3 ≤ e ∧ e ≤ 10 then 4 else 16) →
  (∀ q ∈ ports, (vAt t.e.ports q).rew = none) → (∀ r ∈ regs, t.bankFull r = true) →
  ∃ (u : State) (c : Cmd), IssuesAt i s u ∧
    ({ u with strands := s.strands, fresh := s.fresh, net := s.net } = s ∧
      u.net = (if e = 1 then s.net else (s.publish (.strand s.cur) s.fresh).net) ∧ ∀ n, n ≠ s.cur → u.strand n = s.strand n) ∧
    u.me.e.cmds = s.me.e.cmds ++ [c] ∧ c.id = s.fresh ∧ c.engine = e ∧ c.op = i ∧ c.st = .waiting ∧ c.seq = vAt s.me.e.seq e ∧
    c.tag = s.me.pc &&& 0x00FFFFFFFFFFFFFF ∧ c.shape = vAt t.r.sh h.sh.toNat ∧ c.locks = regs ∧ c.seed0 = s.me.sys.seed ∧
    (e < 12 → vAt u.me.e.seq e = vAt s.me.e.seq e + 1) ∧ u.me.e.tk = s.me.e.tk ∧ u.me.e.faults = s.me.e.faults ∧
    (∀ q, q < 8 → (vAt u.me.e.ports q).claims =
      (vAt s.me.e.ports q).claims ++ (claims.filter (fun k => k.1 == q)).map (fun k => (c.id, k.2))) ∧
    u.me.r.g = s.me.r.g ∧ u.me.r.p = s.me.r.p ∧ u.me.r.v = s.me.r.v ∧ u.me.r.tiles = s.me.r.tiles ∧ u.me.r.shadow = s.me.r.shadow ∧
    u.me.r.sh = (if h.swap then vSet s.me.r.sh h.sh.toNat (vAt s.me.r.shadow h.sh.toNat) else s.me.r.sh) ∧
    u.me.r.lay = s.me.r.lay ∧ u.me.r.prog = s.me.r.prog ∧ u.me.flights = s.me.flights ∧ u.me.pend = s.me.pend ∧
    u.me.sys = { s.me.sys with seed := drawN draws s.me.sys.seed } ∧ P c

/-- No failure of an outbound stream waits to be raised by the next `qstat`, `qrew` or `psave` of port q (R168). -/
def calmPort (t : Strand) (q : Nat) : Prop := ∀ f, (vAt t.e.ports q).fault = some f → inbound q = true ∨ f.told = true

/-- R135 to R152: array commands. A product names a register operand only for one K-block, and `mmaa` has a depth of 64 at most.
Completes: mma, mmai, mmax, mmaa, mzero, mload, mdrain, lease, unlease. -/
def Obligations.ArrayCommandsEnter : Prop :=
  ∀ (s : State) (h : MHead) (i : Instr),
    let t := s.me.swapIn h
    let sh := vAt t.r.sh h.sh.toNat
    let regs := (lockNames i).map (fun r => t.pv r)
    let claims := claimsOf i sh
    let dst : List Dst := match i with | .mdrain _ _ _ _ _ a _ _ _ => s.me.vDest a | _ => []
    let enters (draws : Nat) (P : Cmd → Prop) : Prop := EntersQueue i s h (dst ++ sourceRegs i s.me) 1 regs (claims.map (fun c => c.1)) claims draws P
    let one : Prop := lockNames i = [] ∨ prodBlocks i sh ≤ 1
    (∀ fmt z acc a b, i = .mma h fmt z acc a b → one → enters 0 (fun c => c.dstLock = none)) ∧
    (∀ i4 sa sb sat z acc a b, i = .mmai h i4 sa sb sat z acc a b → one → enters 0 (fun c => c.dstLock = none)) ∧
    (∀ fmt z acc a b sa sb, i = .mmax h fmt z acc a b sa sb → one → enters 0 (fun c => c.dstLock = none)) ∧
    (∀ fmt rsr sat z acc a b, i = .mmaa h fmt rsr sat z acc a b → one → sh.k.toNat ≤ 64 →
      enters (if rsr then 4096 else 0) (fun c => c.dstLock = none)) ∧
    (∀ acc c, i = .mzero h acc c → enters 0 (fun c => c.dstLock = none)) ∧
    (∀ acc a all p, i = .mload h acc a all p → enters 0 (fun c => c.dstLock = none)) ∧
    (∀ fmt rnd sat clr a acc b p, i = .mdrain h fmt rnd sat clr a acc b p →
      enters (if drainConverts fmt && t.mode rnd == .rsr then drainCount fmt else 0)
        (fun c => c.dstLock = (if a.isV then some (t.pv a.toNat) else none) ∧ c.md = (t.mode rnd).code)) ∧
    (∀ n, i = .lease h n → enters 0 (fun c => c.dstLock = none)) ∧ (i = .unlease h → enters 0 (fun c => c.dstLock = none))

/-- R164, R165, R168 to R170, R177 to R183: commands of the port, copy and near queues: what each needs of its operands and what it captures. A `psave` of an
outbound port whose failure nothing has raised yet needs that it be raised first. Completes: pstart, pstop, psave, pload, copy, copyt, nlaunch. -/
def Obligations.EngineCommandsEnter : Prop :=
  ∀ (s : State) (h : MHead),
    let t := s.me.swapIn h
    let lay (k : Nat) : Layout := (vAt t.r.lay k).capture t.sys.fmode
    (∀ q, let k := q.toNat - 32
      let p := vAt t.r.prog k
      let l := lay p.lay.toNat
      p.startOk l k = true → EntersQueue (.pstart h q) s h [] (3 + k) [] [k] [] (if l.draws then (p.total - p.start) * l.capacity else 0)
        (fun c => c.src = l ∧ c.prog = p)) ∧
    (∀ q, EntersQueue (.pstop h q) s h [] (3 + (q.toNat - 32)) [] [q.toNat - 32] [] 0 (fun _ => True)) ∧
    (∀ q gb, (t.g gb).poison = false → classify (t.g gb).val 128 = .ok (winOf (t.g gb).val) → (t.g gb).val.toNat % 8 = 0 →
      (calmPort t (q.toNat - 32) → EntersQueue (.psave h q gb) s h [.g gb.toNat] (3 + (q.toNat - 32)) [] [q.toNat - 32] [] 0 (fun c => vAt c.ops 1 = (t.g gb).val)) ∧
      EntersQueue (.pload h q gb) s h [.g gb.toNat] (3 + (q.toNat - 32)) [] [q.toNat - 32] [] 0 (fun c => vAt c.ops 1 = (t.g gb).val)) ∧
    (∀ a b len exp lu kind gc,
      let n := (t.g len).val.toNat
      (t.g a).poison = false → (t.g b).poison = false → (t.g len).poison = false → n ≤ 2 ^ 40 →
      spanCheck (t.g a).val n = none → spanCheck (t.g b).val (if exp then min n 1 else n) = none →
      (exp = true → n ≠ 0 → ownSpad s.cur (t.g a).val n = true) → t.compCheck kind gc = none →
      EntersQueue (.copy h a b len exp lu kind gc) s h ([.g a.toNat, .g b.toNat, .g len.toNat] ++ compReg kind gc) 2 [] [] [] 0
        (fun c => c.ops = #v[(t.g a).val, (t.g b).val, (t.g len).val, if kind == .sem then (t.g gc).val else 0])) ∧
    (∀ cnt crc dst src lu chk schk kind gc,
      let ld := lay dst.toNat
      let ls := lay src.toNat
      let n := (t.g cnt).val.toNat
      (t.g cnt).poison = false → n ≤ 2 ^ 24 →
      (chk = true → (t.g crc).poison = false ∧ spanCheck (t.g crc).val 8 = none ∧ (t.g crc).val.toNat % 8 = 0) →
      ld.allowed false = true → ls.allowed true = true → ld.regFmt = ls.regFmt → ld.plane = ls.plane → t.compCheck kind gc = none →
      EntersQueue (.copyt h cnt crc dst src lu chk schk kind gc) s h
        (.g cnt.toNat :: (if chk then [.g crc.toNat] else []) ++ compReg kind gc) 2 [] [] [] (if ld.draws || ls.draws then n * ld.capacity else 0)
        (fun c => c.src = ls ∧ c.dst = ld ∧
          c.ops = #v[(t.g cnt).val, if chk then (t.g crc).val else 0, 0, if kind == .sem then (t.g gc).val else 0])) ∧
    (∀ a b p arg, (t.g a).poison = false → (t.g b).poison = false → (arg = true → (t.g p).poison = false) → (t.g a).val.toNat ≤ 127 →
      (t.g b).val.toNat ≤ 8191 →
      EntersQueue (.nlaunch h a b p arg) s h ([.g a.toNat, .g b.toNat] ++ (if arg then [.g p.toNat] else [])) 11 [] [] [] 0
        (fun c => c.ops = #v[(t.g a).val, (t.g b).val, if arg then (t.g p).val else 0, 0]))

/-- R174, R175, R184, R185, R299: tokens, flushes, clock requests and wakes. A token form of an engine enters its queue; of the strand, it takes a token that is there, or pushes one where there is
room, and holds else. `qflush` takes the queue's unstarted commands out and sends the oldest one's tag. `clkdiv` of the strand holds while
results of earlier bundles are under way, and then leaves the divisor to its bundle's end. `wake` begins the wake of a gated array, a vector bank or an allotted scratchpad bank.
Completes: twait, tsig, qflush, clkdiv, wake. -/
def Obligations.TokenClockAndWakeForms : Prop :=
  ∀ (s : State) (h : MHead),
    let t := s.me.swapIn h
    (∀ e, e ≠ 0 → EntersQueue (.twait h e) s h [] e.toNat [] [] [] 0 (fun _ => True) ∧
      EntersQueue (.tsig h e) s h [] e.toNat [] [] [] 0 (fun _ => True)) ∧
    (∀ d, EntersQueue (.clkdiv h .array d) s h [] 1 [] [] [] 0 (fun _ => True) ∧
      EntersQueue (.clkdiv h .copy d) s h [] 2 [] [] [] 0 (fun _ => True)) ∧
    (gp s h.g = false →
      (Ready s h.g [] → t.tkOk h 0 = true →
        (h.tkw ≠ 0 → vAt t.e.tk h.tkw.toNat ≠ 0 →
          Issues (.twait h 0) s { t with e := { t.e with tk := vSet t.e.tk h.tkw.toNat (vAt t.e.tk h.tkw.toNat - 1) } }) ∧
        (h.tkw ≠ 0 → vAt t.e.tk h.tkw.toNat = 0 → HoldsAt (.twait h 0) s s) ∧
        (h.tks ≠ 0 → vAt t.e.tk h.tks.toNat < 16 → Issues (.tsig h 0) s (t.pushTk h.tks.toNat) ∧
          (t.pushTk h.tks.toNat).e.tk = vSet t.e.tk h.tks.toNat (vAt t.e.tk h.tks.toNat + 1)) ∧
        (h.tks ≠ 0 → 16 ≤ vAt t.e.tk h.tks.toNat → HoldsAt (.tsig h 0) s s)) ∧
      (∀ e gd, Ready s h.g [.g gd.toNat] →
        let ds := (t.queue e.toNat).filter (fun c => c.st == .waiting)
        Issues (.qflush h e gd) s
          ((t.discardCmds ds).fly (.g gd.toNat) (.s { val := (ds.head?.map (fun c => c.tag)).getD 0, poison := false }) 0 4 true)) ∧
      (∀ d, Ready s h.g [] →
        ((∀ f ∈ t.flights, t.bundle ≤ f.bundle) → Issues (.clkdiv h .strand d) s { t with pend := t.pend ++ [.clkdiv d.toNat] }) ∧
        ((∃ f ∈ t.flights, f.bundle < t.bundle) → HoldsAt (.clkdiv h .strand d) s s)) ∧
      (Ready s h.g [] →
        IssuesAt (.wake h .array) s ((s.setMe t).wakeArray (coreOf s.cur)) ∧
        (∀ k, Issues (.wake h (.vbank k)) s ((t.wakeBank k.toNat).touch (4 * k.toNat))) ∧
        (∀ k, IssuesAt (.wake h (.spbank k)) s
          (if (s.spmask s.cur).getLsbD k.toNat then (s.setMe t).wakeSp (coreOf s.cur) k.toNat else s.setMe t))))

/-- R158, R159, R163, R164, R168, R171, R172: `lset` and X `pset` with an unpoisoned value in the field's range write that field at once, one out of range
traps with 0x03; `lget` and `qstat` send a field or a word of the port; `qrew` to a position of the captured program leaves a rewind pending,
with the commands that stand stopped beside it, and publishes the stores before it (R331). `pset`, `qstat` and `qrew` hold while the port is being
rewound. A failure of an outbound stream that nothing has raised yet is raised by `qstat` and `qrew`, with its cause and position. Completes: lset,
lget, psetPattern, qstat, qrew. -/
def Obligations.LayoutAndPortForms : Prop :=
  ∀ (s : State) (g : Guard),
    let t := s.me
    (∀ k f v l, Ready s g (lsrcReg v) → (t.lsrc v).poison = false → (vAt t.r.lay k.toNat).put f.toNat (t.lsrc v).val = some l →
      Issues (.lset g k f v) s { t with r := { t.r with lay := vSet t.r.lay k.toNat l } }) ∧
    (∀ k f v, Ready s g (lsrcReg v) → (t.lsrc v).poison = false → (vAt t.r.lay k.toNat).put f.toNat (t.lsrc v).val = none →
      Traps (.lset g k f v) s { cause := 0x03 }) ∧
    (∀ gd k f, Ready s g [.g gd.toNat] → SendsG (.lget g gd k f) s gd ((vAt t.r.lay k.toNat).get f.toNat) (gp s g) 2) ∧
    (∀ q f v p, Ready s g (lsrcReg v) → (vAt t.e.ports (q.toNat - 32)).rew = none → (t.lsrc v).poison = false →
      (vAt t.r.prog (q.toNat - 32)).put f.toNat (t.lsrc v).val.toNat = some p →
      Issues (.psetPattern g q f v) s { t with r := { t.r with prog := vSet t.r.prog (q.toNat - 32) p } }) ∧
    (∀ q f v, Ready s g (lsrcReg v) → (vAt t.e.ports (q.toNat - 32)).rew = none → (t.lsrc v).poison = false →
      (vAt t.r.prog (q.toNat - 32)).put f.toNat (t.lsrc v).val.toNat = none → Traps (.psetPattern g q f v) s { cause := 0x03 }) ∧
    (∀ q, (vAt t.e.ports (q.toNat - 32)).rew.isSome = true →
      (∀ f v, Ready s g (lsrcReg v) → HoldsAt (.psetPattern g q f v) s s) ∧ (∀ gd w, Ready s g [.g gd.toNat] → HoldsAt (.qstat g gd q w) s s) ∧
      (∀ ga gb, Ready s g [.g ga.toNat, .g gb.toNat] → HoldsAt (.qrew g q ga gb) s s)) ∧
    (∀ q f, let k := q.toNat - 32
      let p := vAt t.e.ports k
      p.rew = none → p.fault = some f → inbound k = false → f.told = false →
      let u := s.setMe (t.tellFault k)
      (∀ gd w, Ready s g [.g gd.toNat] → exec (.qstat g gd q w) s = .next (trapped u (p.faultTrap k f))) ∧
      (∀ ga gb, Ready s g [.g ga.toNat, .g gb.toNat] → exec (.qrew g q ga gb) s = .next (trapped u (p.faultTrap k f)))) ∧
    (∀ gd q (w : BitVec 2), Ready s g [.g gd.toNat] → (vAt t.e.ports (q.toNat - 32)).rew = none → calmPort t (q.toNat - 32) →
      let p := vAt t.e.ports (q.toNat - 32)
      let v := if w = 0 then (p.pos (q.toNat - 32)).1 else if w = 1 then (p.pos (q.toNat - 32)).2 else t.portStatus (q.toNat - 32)
      SendsG (.qstat g gd q w) s gd v (gp s g) 4) ∧
    (∀ q ga gb, Ready s g [.g ga.toNat, .g gb.toNat] → (t.g ga).poison = false → (t.g gb).poison = false →
      let p := vAt t.e.ports (q.toNat - 32)
      p.rew = none → calmPort t (q.toNat - 32) → p.captured = true → p.posOk (q.toNat - 32) ((t.g ga).val, (t.g gb).val) = true →
      let rest := (t.e.cmds.filter (fun c => c.st == .stopped)).map (fun c => c.id)
      IssuesAt (.qrew g q ga gb) s ((s.publish (.strand s.cur) s.fresh).setMe (t.setPort (q.toNat - 32)
        { p with rew := some ((t.g ga).val, (t.g gb).val), resume := rest, fork := s.fresh })))

/-- R205 to R209: ring forms on a ring of the allotment. `rinit` configures an aligned span of the strand's own scratchpad; the others but `rstat` need a
configured ring: `rclaim` takes slot T of a ring that is not full, `rpub` publishes a claimed slot once the strand's earlier accesses are performed at
core scope, `rwaitf` takes slot K when one is published, `rwaite` sends the count of free slots of a ring that is not full, `rrel` releases a taken slot
once the strand's earlier accesses are performed at core scope, `rstat` sends a word. Each of them holds until its condition is met. Completes: rinit, rclaim,
rpub, rwaitf, rwaite, rrel, rstat. -/
def Obligations.RingForms : Prop :=
  ∀ (s : State) (g : Guard) (k : BitVec 5),
    let t := s.me
    let r := s.ring k.toNat
    let sends (i : Instr) (u : State) (gd : GReg) (v : Word) : Prop :=
      IssuesAt i s (u.setMe (u.me.fly (.g gd.toNat) (.s { val := v, poison := (u.me.p g.p).poison }) 0 4 true))
    let slot (x : BitVec 16) : Word := BitVec.ofNat 64 (0xFF00000000000000 + r.slot x)
    s.ringOk k.toNat = true →
    (∀ ga gb (sb : BitVec 12) o, Ready s g [.g ga.toNat, .g gb.toNat] → (t.g ga).poison = false → (t.g gb).poison = false →
      let n := (t.g gb).val.toNat
      ownOffset s.cur (t.g ga).val = some o → o % 16 = 0 → n ∈ [1, 2, 4, 8, 16, 32, 64, 128, 256] →
      o + n * (16 * (sb.toNat + 1)) ≤ 0x400000 →
      IssuesAt (.rinit g k ga gb sb) s
        (s.setRing k.toNat { base := BitVec.ofNat 22 o, ns := n, sb := 16 * (sb.toNat + 1), h := 0, k := 0, r := 0, t := 0, pub := 0, rel := 0 })) ∧
    (∀ gd w, Ready s g [.g gd.toNat] → sends (.rstat g ⟨gd, k⟩ w) s gd (r.stat w.toNat)) ∧
    (r.ns ≠ 0 →
      (∀ gd, Ready s g [.g gd.toNat] →
        (r.full = false → sends (.rclaim g ⟨gd, k⟩) (s.setRing k.toNat { r with t := r.t + 1 }) gd (slot r.t)) ∧
        (r.full = true → HoldsAt (.rclaim g ⟨gd, k⟩) s s) ∧
        (r.k ≠ r.r → sends (.rwaitf g ⟨gd, k⟩) (s.setRing k.toNat { r with k := r.k + 1 }) gd (slot r.k)) ∧
        (r.k = r.r → HoldsAt (.rwaitf g ⟨gd, k⟩) s s) ∧
        (r.full = false → sends (.rwaite g ⟨gd, k⟩) s gd (BitVec.ofNat 64 (r.ns - (r.t - r.h).toNat))) ∧
        (r.full = true → HoldsAt (.rwaite g ⟨gd, k⟩) s s)) ∧
      (∀ ga i d, Ready s g [.g ga.toNat] → (t.g ga).poison = false →
        let ready := s.released (.strand s.cur) .co
        let u := s.publish (.strand s.cur) s.fresh
        (r.slotAt (t.g ga).val r.r = some (i, d) → d < (r.t - r.r).toNat → r.pub.getLsbD i = false →
          (ready = true → IssuesAt (.rpub g ⟨k, ga⟩) s ((u.setRing k.toNat (r.publish i)).ringEvent (coreOf s.cur) 1)) ∧
          (ready = false → HoldsAt (.rpub g ⟨k, ga⟩) s s)) ∧
        (r.slotAt (t.g ga).val r.h = some (i, d) → d < (r.k - r.h).toNat → r.rel.getLsbD i = false →
          (ready = true → IssuesAt (.rrel g ⟨k, ga⟩) s (u.setRing k.toNat (r.free i))) ∧
          (ready = false → HoldsAt (.rrel g ⟨k, ga⟩) s s))))

/-- R210 to R215, R279: barrier forms. `bset` configures a barrier of the allotment. `barr` for a phase within the lead allowance, with the strand's
accesses performed at its scope, arrives; it holds while either is lacking; for a complete phase it raises the stale flag and issues. `bwait` for a
complete phase completes with the count of phases it is late, 255 at most, and raises the stale flag when that is not 0; for another phase it
holds. `barw` whose arrival `sys.barl` does not hold arrives as `barr` does and then waits as `bwait` does, on the barrier as the arrival leaves it;
one whose arrival `sys.barl` holds waits without arriving again; once its phase is complete it completes and clears `sys.barl`. `bstat` sends a word. A
barrier outside the allotment traps with 0x40, one not configured with 0x03. An arrival that completes a root barrier's phase flips it: the phase
goes up by one; one that does not complete the phase only counts. Completes: bset, barr, bwait, barw, bstat. -/
def Obligations.BarrierForms : Prop :=
  (∀ (s : State) (g : Guard) (k : BitVec 7),
     let t := s.me
     let c := coreOf s.cur
     let b := (s.core c).bar k.toNat
     let q (ga : GReg) : BitVec 16 := (t.g ga).val.extractLsb' 0 16
     -- the machine once a wait for q on the barrier as it stands in u is over: the count sent, the stale flag raised where it is late
     let waited (u : State) (gd : GReg) (q : BitVec 16) : State :=
       let late := (((u.core c).bar k.toNat).ph - 1 - q).toNat
       u.setMe ((if late = 0 then u.me else u.me.raise fStale).fly (.g gd.toNat)
         (.s { val := BitVec.ofNat 64 (min late 255), poison := gp s g }) 0 2 true)
     let unlatched (u : State) : State := u.setMe { u.me with sys := { u.me.sys with barl := 0 } }
     -- a `barw` waits for q with the machine at u
     let waits (sc : Scope) (gd ga : GReg) (u : State) : Prop :=
       ((q ga - ((u.core c).bar k.toNat).ph).toNat < 2 ^ 15 → HoldsAt (.barw g sc gd k ga) s u) ∧
       (2 ^ 15 ≤ (q ga - ((u.core c).bar k.toNat).ph).toNat → IssuesAt (.barw g sc gd k ga) s (unlatched (waited u gd (q ga))))
     (s.barOk k.toNat = false →
       (∀ ga gb, Ready s g [.g ga.toNat, .g gb.toNat] → (t.g ga).poison = false → (t.g gb).poison = false →
         Traps (.bset g k ga gb) s { cause := 0x40 }) ∧
       (∀ sc ga, Ready s g [.g ga.toNat] → (t.g ga).poison = false → Traps (.barr g sc k ga) s { cause := 0x40 }) ∧
       (∀ sc gd ga, Ready s g [.g ga.toNat, .g gd.toNat] → (t.g ga).poison = false →
         Traps (.bwait g sc gd k ga) s { cause := 0x40 } ∧ Traps (.barw g sc gd k ga) s { cause := 0x40 }) ∧
       (∀ gd w, Ready s g [.g gd.toNat] → Traps (.bstat g gd k w) s { cause := 0x40 })) ∧
     (s.barOk k.toNat = true →
     (∀ ga gb, Ready s g [.g ga.toNat, .g gb.toNat] → (t.g ga).poison = false → (t.g gb).poison = false →
       let x := (t.g ga).val
       let y := (t.g gb).val
       x.extractLsb' 0 16 ≠ 0 → x &&& ~~~0x0000FFFF00FFFFFF = 0 → y &&& ~~~0x8000FFFF0000FF7F = 0 → (wbit y 63 = true ∨ y = 0) →
       wbits y 15 8 ≤ 143 → (wbits y 47 32 < 0x1000 ∨ wbits y 47 32 = 0xFFFF) →
       IssuesAt (.bset g k ga gb) s (s.setBar c k.toNat
         { c := x.extractLsb' 0 16, a := x.extractLsb' 16 8, ph := x.extractLsb' 32 16, parent := y, counts := [], up := false, kids := [] })) ∧
     (∀ gd (w : BitVec 2), Ready s g [.g gd.toNat] → w ≠ 0 → SendsG (.bstat g gd k w) s gd b.parent (gp s g) 4) ∧
     (∀ gd (w : BitVec 2), Ready s g [.g gd.toNat] → w = 0 →
       SendsG (.bstat g gd k w) s gd (BitVec.ofNat 64 ((if b.up then 2 ^ 63 else 0) + b.a.toNat * 2 ^ 48 + b.c.toNat * 2 ^ 32 +
         b.count 0 % 2 ^ 16 * 2 ^ 16 + b.ph.toNat)) (gp s g) 4) ∧
     (∀ sc gd ga, Ready s g [.g ga.toNat, .g gd.toNat] → Ready s g [.g ga.toNat] → (t.g ga).poison = false → b.c = 0 →
       Traps (.barr g sc k ga) s { cause := 0x03 } ∧ Traps (.bwait g sc gd k ga) s { cause := 0x03 } ∧
       Traps (.barw g sc gd k ga) s { cause := 0x03 }) ∧
     (b.c ≠ 0 →
       (∀ sc ga, Ready s g [.g ga.toNat] → (t.g ga).poison = false →
         let d := (q ga - b.ph).toNat
         (d < 2 ^ 15 → d ≤ b.a.toNat → s.released (.strand s.cur) sc = true →
           IssuesAt (.barr g sc k ga) s ((s.publish (.strand s.cur) s.fresh).arriveAt c k.toNat d)) ∧
         (d < 2 ^ 15 → b.a.toNat < d ∨ s.released (.strand s.cur) sc = false → HoldsAt (.barr g sc k ga) s s) ∧
         (2 ^ 15 ≤ d → Issues (.barr g sc k ga) s (t.raise fStale))) ∧
       (∀ sc gd ga, Ready s g [.g ga.toNat, .g gd.toNat] → (t.g ga).poison = false →
         let d := (q ga - b.ph).toNat
         let latched := s.setMe { t with sys := { t.sys with barl := barLatch k (q ga) } }
         (2 ^ 15 ≤ d → IssuesAt (.bwait g sc gd k ga) s (waited s gd (q ga))) ∧
         (d < 2 ^ 15 → HoldsAt (.bwait g sc gd k ga) s s) ∧
         (t.sys.barl = barLatch k (q ga) → waits sc gd ga s) ∧
         (t.sys.barl ≠ barLatch k (q ga) →
           (d < 2 ^ 15 → b.a.toNat < d ∨ s.released (.strand s.cur) sc = false → HoldsAt (.barw g sc gd k ga) s s) ∧
           (d < 2 ^ 15 → d ≤ b.a.toNat → s.released (.strand s.cur) sc = true →
             waits sc gd ga ((latched.publish (.strand s.cur) s.fresh).arriveAt c k.toNat d)) ∧
           (2 ^ 15 ≤ d → waits sc gd ga (s.setMe (t.raise fStale)))))))) ∧
  (∀ (s : State) (c k : Nat), let b := (s.core c).bar k
     b.up = false →
     (b.count 0 + 1 < b.c.toNat → ((s.arriveAt c k 0).core c).bar k = { b with counts := tput b.counts 0 (b.count 0 + 1) }) ∧
     (b.count 0 + 1 = b.c.toNat → wbit b.parent 63 = false → b.counts = [] ∨ b.counts = [(0, b.count 0)] → b.kids = [] →
       ((s.arriveAt c k 0).core c).bar k = { b with ph := b.ph + 1, counts := [] } ∧ (s.arriveAt c k 0).dram = s.dram))

/-! Near-memory units (R235 to R255, R288). -/

/-- Unit u of s runs launch l, and the word's stack checks pass: it pops entries that are there and leaves at most 8. -/
def NmReady (s : State) (l : NLaunch) (pops pushes : Nat) : Prop :=
  (s.nmu s.unit).run = some l ∧ pops ≤ (s.nmu s.unit).stack.length ∧ (s.nmu s.unit).stack.length - pops + pushes ≤ 8

/-- The word completes with the machine at u otherwise: it pops, pushes (the top first), and the next word is at an address of the word
store. -/
def NmDoes (i : Instr) (s u : State) (pops : Nat) (push : List SReg) (pc : Int) : Prop :=
  0 ≤ pc → pc ≤ 8191 → ∃ t, exec i s = .next t ∧ OnlyNmu s.unit u t ∧
    t.nmu s.unit =
      { u.nmu s.unit with stack := push ++ (s.nmu s.unit).stack.drop pops, wait := none, got := none, pc := pc.toNat }

/-- No product of the unit, running or stopped with its fault still to be met, uses the n bytes of the buffer from o on (R247). -/
def spanFree (m : Nmu) (o n : Nat) : Prop :=
  (∀ v, m.mve = some v → ∀ e ∈ v.vecs ++ v.results, meets (o, n) e = false) ∧
  (∀ r va v, m.mve = none → m.mveFault = some (r, va, v) → ∀ e ∈ v.vecs ++ v.results, meets (o, n) e = false)

/-- R239, R240, R241: literals, stack words, arithmetic and control of a near-memory kernel. A binary word has a below b on the stack, and
the poison of both; a shift of 64 or more gives 0. `loop` of count 0 goes past its loop, `next` counts down and goes back until
the count is 0; `br` goes where its flag is not 0. A fifth loop stops the kernel with reason 4, `next` outside a loop with 5, a jump out of the
word store with 6, `trap` with 0x12; an entry too few, shown of `dup` and `add`, with 3, and one too many, shown of `lit` and `dup`, with 2. Completes: lit, litx, dup, drop, swap, nmOver, nmAdd, nmAddImm, nmSub, nmSubImm, nmAnd,
nmAndImm, nmShl, nmShlImm, nmLoop, next, nmBr, nmJmp, nmTrap, nmNop. -/
def Obligations.StackAndControlWords : Prop :=
  ∀ (s : State) (l : NLaunch),
    let m := s.nmu s.unit
    let a := m.top 1
    let b := m.top 0
    let here : Int := m.pc
    let goes (i : Instr) (pops n : Nat) (push : List SReg) : Prop :=
      NmReady s l pops push.length → NmDoes i s s pops push (here + (n : Nat))
    let two (i : Instr) (v : Word) : Prop := goes i 2 1 [{ val := v, poison := a.poison || b.poison }]
    let one (i : Instr) (v : Word) : Prop := goes i 1 1 [{ val := v, poison := b.poison }]
    let shl (x : Word) (n : Nat) : Word := if 64 ≤ n then 0 else x <<< n
    let looped (x : List (Word × Nat)) : State := s.modNmu s.unit (fun y => { y with loops := x })
    let stops (i : Instr) (r d : Nat) : Prop := exec i s = .next (s.stopUnit s.unit r m.pc (m.wordAt m.pc) d 0)
    (∀ v, goes (.lit v) 0 1 [{ val := v.zeroExtend 64, poison := false }]) ∧
    (∀ n x v, goes (.litx n x v) 0 (n.toNat + 2)
      [{ val := if x then BitVec.ofInt 64 (signed (16 * (n.toNat + 1)) v.toNat) else BitVec.ofNat 64 (v.toNat % 2 ^ (16 * (n.toNat + 1))),
         poison := false }]) ∧
    goes .dup 1 1 [b, b] ∧ goes .drop 1 1 [] ∧ goes .swap 2 1 [a, b] ∧ goes .nmOver 2 1 [a, b, a] ∧
    two .nmAdd (a.val + b.val) ∧ two .nmSub (a.val - b.val) ∧ two .nmAnd (a.val &&& b.val) ∧ two .nmShl (shl a.val (b.val.toNat % 256)) ∧
    (∀ v : BitVec 9, one (.nmAddImm v) (b.val + v.zeroExtend 64) ∧ one (.nmSubImm v) (b.val - v.zeroExtend 64) ∧
      one (.nmAndImm v) (b.val &&& v.zeroExtend 64) ∧ one (.nmShlImm v) (shl b.val (v.toNat % 256))) ∧
    (∀ d : BitVec 10, NmReady s l 1 0 → b.poison = false →
      (b.val ≠ 0 → m.loops.length < 4 → 2 ≤ d.toNat → NmDoes (.nmLoop d) s (looped ((b.val, m.pc + 1) :: m.loops)) 1 [] (here + 1)) ∧
      (b.val = 0 → 2 ≤ d.toNat → NmDoes (.nmLoop d) s s 1 [] (here + (d.toNat : Nat))) ∧
      (b.val ≠ 0 → 4 ≤ m.loops.length → stops (.nmLoop d) 4 0) ∧
      (b.val ≠ 0 → NmDoes (.nmBr d) s s 1 [] (here + d.toInt)) ∧ (b.val = 0 → NmDoes (.nmBr d) s s 1 [] (here + 1))) ∧
    (∀ c x r, NmReady s l 0 0 → m.loops = (c, x) :: r →
      (c = 1 → NmDoes .next s (looped r) 0 [] (here + 1)) ∧
      (c ≠ 1 → NmDoes .next s (looped ((c - 1, x) :: r)) 0 [] (x : Int))) ∧
    (NmReady s l 0 0 → m.loops = [] → stops .next 5 0) ∧
    (∀ d : BitVec 10, NmReady s l 0 0 → NmDoes (.nmJmp d) s s 0 [] (here + d.toInt) ∧
      (here + d.toInt < 0 ∨ 8191 < here + d.toInt →
        exec (.nmJmp d) s = .next ((s.modNmu s.unit (fun y => { y with stack := m.stack, wait := none, got := none })).stopUnit s.unit 6 m.pc
          (m.wordAt m.pc) 0 0))) ∧
    (∀ c : BitVec 10, NmReady s l 0 0 → stops (.nmTrap c) 0x12 c.toNat) ∧
    goes .nmNop 0 1 [] ∧
    (m.run = some l → m.stack = [] → stops .dup 3 0 ∧ stops .nmAdd 3 0) ∧
    (m.run = some l → m.stack.length = 8 → stops (.lit 0) 2 0 ∧ stops .dup 2 0)

/-- R242 to R244, R247, R249, R250, R253: memory, buffer, claim and order words with unpoisoned operands that pass their checks. Reads of memory
ask and hold until the data has come, then push it or fill the buffer; stores are posted, of a buffer span with a poisoned word up to the line
that holds it, at which the kernel then stops with reason 0x0F. A word waits for a product that uses its span of the buffer. `rowclaim` claims the
banks of its groups and holds until every one of them has been near-owned, where claims are not turned off; `rowrel` gives them back. `semw` sends its
condition to the home of a word of the unit's own stack, and holds until its waiter has been woken. `fence` waits for every access of the
unit before it. A poisoned address stops the kernel with reason 0x0F (shown of `ld.ws` and `ld.mem`), a misaligned one with 0x11 (of `ld.mem`), an
address out of the unit's own 16 KiB with 7 (of `ld.ws`). Completes: nmLdWs, nmStWs, nmLdMem, nmStMem, vin, vout, rowclaim, rowrel, nmSemw,
nmSems, nmFence. -/
def Obligations.MemoryWords : Prop :=
  ∀ (s s1 : State) (l : NLaunch) (gs : List Seg) (z : NmSize),
    let u := s.unit
    let m := s.nmu u
    let n := 2 ^ z.toNat
    let x := m.top 2
    let a := m.top 1
    let b := m.top 0
    let next : Int := (m.pc : Int) + 1
    let stops (i : Instr) (r d : Nat) (va : Word) : Prop := exec i s = .next (s.stopUnit u r m.pc (m.wordAt m.pc) d va)
    let asked (t : State) (rs : List Req) : State := t.nmAsk rs.length rs
    let loads (ss : List Seg) : List Req := ss.map (fun g => mkReq (.nmu s1.unit) (.load g.off) g l.asid 1)
    let passes (p : Perm) (a : Word) (n : Nat) (gs : List Seg) : Prop := s.nmWordCheck l p a n = (s1, .ok gs)
    (NmReady s l 1 1 →
      (b.poison = false → b.val.toNat % n = 0 →
        (b.val.toNat < 0x4000 → NmDoes (.nmLdWs z) s s 1 [{ val := BitVec.ofNat 64 (readNat m.ws b.val.toNat n), poison := false }] next) ∧
        (0x4000 ≤ b.val.toNat → stops (.nmLdWs z) 7 0 0) ∧
        (∀ d bad, m.wait = some 0 → m.got = some (d, bad) →
          NmDoes (.nmLdMem z) s s 1 [{ val := BitVec.ofNat 64 (ofBytes (dense d n)), poison := !bad.isEmpty }] next) ∧
        (m.wait = none → passes { r := true } b.val n gs →
          exec (.nmLdMem z) s = .next (asked s1 (loads gs)))) ∧
      (b.poison = true → stops (.nmLdWs z) 0x0F 0 0 ∧ stops (.nmLdMem z) 0x0F 0 b.val) ∧
      (b.poison = false → b.val.toNat % n ≠ 0 → stops (.nmLdMem z) 0x11 b.val.toNat 0)) ∧
    (NmReady s l 2 0 → a.poison = false → b.poison = false →
      -- a datum below an address
      (b.val.toNat % n = 0 → b.val.toNat < 0x4000 →
        NmDoes (.nmStWs z) s (s.modNmu u (fun y => { y with ws := writeBytes y.ws b.val.toNat (toBytes n a.val.toNat) })) 2 [] next) ∧
      (b.val.toNat % n = 0 → passes { w := true } b.val n gs →
        NmDoes (.nmStMem z) s (s1.sendAll (gs.map (fun g =>
          mkReq (.nmu s1.unit) (.store (((toBytes n a.val.toNat).drop g.off).take g.len) (List.replicate g.len 0)) g l.asid 0))) 2 [] next) ∧
      -- a semaphore's address below its operand
      (a.val.toNat % 8 = 0 → passes { a := true } a.val 8 gs →
        NmDoes .nmSems s (s1.sendAll (gs.map (fun g => { mkReq (.nmu s1.unit) (.sems b.val) g l.asid 0 with rel := true }))) 2 [] next)) ∧
    (∀ eq g w v bad, NmReady s l 2 1 → a.poison = false → b.poison = false → a.val.toNat % 8 = 0 →
      (m.wait = none → passes { r := true } a.val 8 (g :: gs) →
        ((s1.place g.pa).map (fun p => p.stack) = some (u / 16) →
          exec (.nmSemw eq) s = .next (s1.nmAsk 1 [{ mkReq (.nmu s1.unit) (.semw eq b.val) g l.asid 0 with acq := true }])) ∧
        ((s1.place g.pa).map (fun p => p.stack) ≠ some (u / 16) →
          exec (.nmSemw eq) s = .next (s1.stopUnit u 0x10 m.pc (m.wordAt m.pc) 0 0))) ∧
      (m.wait.isSome = true → s.waiterOf (.nmu u) = some w → w.sat = some (v, bad) → w.woken = true →
        NmDoes (.nmSemw eq) s (s.dropWaiter (.nmu u)) 2 [{ val := v, poison := bad }] next) ∧
      (m.wait.isSome = true → s.waiterOf (.nmu u) = none ∨ (s.waiterOf (.nmu u) = some w ∧ w.woken = false) →
        exec (.nmSemw eq) s = .next s)) ∧
    (NmReady s l 3 0 → x.poison = false → a.poison = false → b.poison = false →
      let o := a.val.toNat
      let c := b.val.toNat
      x.val.toNat % 4 = 0 → o % 4 = 0 → c % 4 = 0 → 4 ≤ c → c ≤ 65536 → o + c ≤ 0x10000 →
      (∀ v, m.mve = some v → (∃ e ∈ v.vecs ++ v.results, meets (o, c) e = true) → exec .vin s = .next s ∧ exec .vout s = .next s) ∧
      (spanFree m o c →
      (∀ d bad, m.wait = some 0 → m.got = some (d, bad) → NmDoes .vin s (s.modNmu u (fun y => y.putBuf o (dense d c) bad)) 3 [] next) ∧
      (m.wait = none → passes { r := true } x.val c gs →
        exec .vin s = .next (asked s1 (loads (cutAll 64 gs)))) ∧
      (let line (g : Seg) : Req :=
         mkReq (.nmu s1.unit) (.store (readBytes m.vbuf (o + g.off) g.len) (List.replicate g.len 0)) g l.asid 0
       (m.badLine x.val o c = none → passes { w := true } x.val c gs →
         NmDoes .vout s (s1.sendAll ((cutAll 64 gs).map line)) 3 [] next) ∧
       (∀ va, m.badLine x.val o c = some va →
         (m.wait = none → passes { w := true } x.val c gs →
           exec .vout s = .next (s1.nmAsk 0 (((cutAll 64 gs).filter (fun g => g.va.toNat < va.toNat)).map line))) ∧
         (m.wait.isSome = true → (∀ r ∈ s.net, r.src = .nmu u → r.done = true) → stops .vout 0x0F 0 va))))) ∧
    (NmReady s l 1 0 → b.poison = false → b.val.toNat < 2 ^ 16 →
      let ks := (maskBits 16 b.val.toNat).flatMap (groupBanks u)
      let t := (ks.foldl (fun (t : State) k => (t.claimBank k).settleOwn k) s).modNmu u (fun y =>
        { y with claims := y.claims ||| b.val.setWidth 16 })
      let owned : Prop := ∀ k ∈ ks, tget t.m.own k = some .near ∨ ∃ ids, tget t.m.own k = some (.main ids)
      (wbit (s.arb (u / 16)) 0 = true → NmDoes .rowclaim s s 1 [] next) ∧
      (wbit (s.arb (u / 16)) 0 = false → (owned → NmDoes .rowclaim s t 1 [] next) ∧ (¬ owned → exec .rowclaim s = .next t)) ∧
      NmDoes .rowrel s (s.release u (maskBits 16 b.val.toNat)) 1 [] next) ∧
    (NmReady s l 0 0 →
      (s.nmDone u = true → NmDoes .nmFence s s 0 [] next) ∧ (s.nmDone u = false → exec .nmFence s = .next s) ∧
      (s.nmDone u = true ↔ m.mve = none ∧ ∀ r ∈ s.net, r.src = .nmu u → r.done = true))

/-- R236, R237, R245 to R248, R252, R254, R288, R45: the matrix-vector engine, reductions, and how a near-memory kernel begins and ends. `mvx`
with a legal descriptor starts the product; the product takes the next row each time its weights have come, writes the row's results and is over
after the last; one that stops lays its reason up for the next word that meets it, shown of `mvwait`. `red` asks for an accumulator to be opened and holds until it is, `racc` posts its
contributions, `rfin` asks for the readouts and fills the buffer with them. `end` ends the kernel once nothing of it is under way, and holds before.
A launch without a code image begins at its entry with its arguments; an abort, or a word that is none, stops the kernel with its reason; of what
stops, the unit keeps nothing under way, and an `nlaunch` its fault. Completes: mvx, mvwait, red, racc, rfin, nmEnd, mveProductEnd, nmuLaunchAccept,
nmuAbort, illegalWord. -/
def Obligations.EngineWordsAndKernelEnds : Prop :=
  ∀ (s : State) (l : NLaunch),
    let u := s.unit
    let m := s.nmu u
    let h := m.top 2
    let o := (m.top 1).val.toNat
    let c := (m.top 0).val.toNat
    let next : Int := (m.pc : Int) + 1
    let calm : Prop := m.mve = none ∧ m.mveFault = none
    let sane (n : Nat) : Prop := ∀ i, i < n → (m.top i).poison = false
    let red (op : ReqOp) (x : Word) (ask : Nat) : Req :=
      mkReq (.nmu u) op { sp := .red (x.toNat / 64 % 128), pa := x.toNat % 64, len := 1, va := 0, off := 0 } l.asid ask
    (∀ f : MvxForm, NmReady s l 1 0 → sane 1 → calm →
      let d := (m.top 0).val.toNat
      let v := m.mveOf f d s.fresh
      d % 8 = 0 → d + 32 ≤ 0x4000 → mveLimit v = none → (∀ e ∈ v.vecs ++ v.results, e.1 + e.2 ≤ 0x10000) →
      (∀ a ∈ v.vecs, ∀ b ∈ v.results, meets b a = false) →
      NmDoes (.mvx f) s (({ s with fresh := s.fresh + 1 } : State).modNmu u (fun y => { y with mve := some v })) 1 [] next) ∧
    (NmReady s l 0 0 → calm → NmDoes .mvwait s s 0 [] next) ∧
    (NmReady s l 0 0 → m.mve.isSome = true → exec .mvwait s = .next s) ∧
    (∀ r va v, NmReady s l 0 0 → m.mve = none → m.mveFault = some (r, va, v) →
      exec .mvwait s = .next (s.stopUnit u r.toNat v.pc ((encodeNm (.mvx v.op)).headD 0) 0 va)) ∧
    (∀ v t, m.run = some l → m.mve = some v → (∀ r ∈ s.net, r.src = .nmu u → r.done = true ∨ v.fork ≤ r.id) →
      (∀ row, s.mveRow u l.asid v v.done = .ok t row →
        exec (.mveProductEnd u) s = .next ((t.modNmu u (fun y => { y.mveStep v v.done row with
          mve := if v.done + 1 < v.rows then some { v with done := v.done + 1 } else none })).forget (.mve u))) ∧
      (s.mveRow u l.asid v v.done = .wait t → exec (.mveProductEnd u) s = .next t) ∧
      (∀ r va, s.mveRow u l.asid v v.done = .stop t r va →
        exec (.mveProductEnd u) s =
          .next (((t.mveLost u v).modNmu u (fun y => { y with mve := none, mveFault := some (BitVec.ofNat 8 r, va, v) })).forget (.mve u)))) ∧
    (NmReady s l 2 0 → sane 2 →
      let x := (m.top 1).val
      let a := (m.top 0).val.toInt
      x.toNat < 2 ^ 13 → -256 ≤ a → a ≤ 255 → s.nmuOk (144 + u) (x.toNat / 64 % 128) 1 = true →
      (m.wait = none → exec .red s = .next (s.nmAsk 1 [red (.redfOpen a) x 1])) ∧
      (m.wait ≠ none → (∀ r ∈ s.net, r.src = .nmu u → r.op.posted = true) → NmDoes .red s s 2 [] next)) ∧
    (NmReady s l 3 0 → sane 3 → h.val.toNat < 2 ^ 13 → 1 ≤ c →
      let v := h.val.toNat / 64 % 128
      let k := h.val.toNat % 64
      (∀ (t : BitVec 2) (one : Bool),
        let w := if t = 0 then 4 else 2
        c ≤ 16384 → o % w = 0 → o + c * w ≤ 0x10000 → spanFree m o (c * w) → s.nmuOk (144 + u) v 1 = true →
        NmDoes (.racc t one) s (s.sendAll [red (.redx ((List.range c).map (fun i =>
          (if one then k else (k + i) % 64, BitVec.ofNat 32 (readNat m.vbuf (o + w * i) w), t.toNat,
            (m.bufBad o (w * c)).any (fun j => j / w == i))))) h.val 0]) 3 [] next) ∧
      (∀ (bf keep : Bool),
        let w := if bf then 2 else 4
        c ≤ 64 → o % w = 0 → o + c * w ≤ 0x10000 → spanFree m o (c * w) → s.nmuOk (144 + u) v (if keep then 0 else 1) = true →
        (m.wait = none → exec (.rfin bf keep) s = .next (s.nmAsk 1 [red (.rfin 0 c bf keep) h.val 1])) ∧
        (∀ d bad, m.wait = some 0 → m.got = some (d, bad) →
          NmDoes (.rfin bf keep) s (s.modNmu u (fun y => (List.range c).foldl (fun (z : Nmu) i =>
            z.putBuf (o + w * i) (((dense d (w * c)).drop (w * i)).take w) ((bad.filter (fun j => j / w == i)).map (fun j => j - w * i))) y))
            3 [] next))) ∧
    (NmReady s l 0 0 → m.mveFault = none → s.nmDone u = true → exec .nmEnd s = .next (s.endUnit u)) ∧
    (NmReady s l 0 0 → s.nmDone u = false → exec .nmEnd s = .next s) ∧
    (∀ q, m.run = none → m.queue = l :: q → l.code = none →
      let k := { l with asid := s.launchAsid l }
      exec (.nmuLaunchAccept u) s = .next (s.beginUnit u k q) ∧
      let n := (s.beginUnit u k q).nmu u
      n.run = some k ∧ n.pc = l.entry ∧ n.stack = (l.args.map (fun v => { val := v, poison := false })).reverse ∧ n.loops = [] ∧
      n.ws = m.ws ∧ n.vbuf = m.vbuf ∧ n.claims = m.claims) ∧
    (m.run = some l → m.abort = true → s.redDone u = false → m.wordAt m.pc ≠ 0x7000 ∨ m.mveFault ≠ none ∨ s.nmDone u = false →
      exec (.nmuAbort u) s = .next (s.stopUnit u 0x13 m.pc (m.wordAt m.pc) 0 0)) ∧
    (m.run = some l → m.abort = true → s.redDone u = false → m.wordAt m.pc = 0x7000 → m.mveFault = none → s.nmDone u = true →
      exec (.nmuAbort u) s = .next (s.endUnit u)) ∧
    (m.run = some l → decodeNm m.nextWords = none →
      let litx : Prop := (m.wordAt m.pc).toNat / 2 ^ 10 = 1 ∧ bits (m.wordAt m.pc).toNat 9 3 = 0
      (¬ litx → exec (.illegalWord u) s = .next (s.stopUnit u 1 m.pc (m.wordAt m.pc) 0 0)) ∧
      (litx → exec (.illegalWord u) s = .next (s.stopUnit u 6 m.pc (m.wordAt m.pc) 0 0))) ∧
    (∀ (r d : Nat) (w : NmWord) (va : Word), m.run = some l →
      let t := s.stopUnit u r m.pc w d va
      (t.nmu u).run = none ∧ (t.nmu u).stack = [] ∧ (t.nmu u).loops = [] ∧ (t.nmu u).claims = 0 ∧ (t.nmu u).mve = none ∧
      (l.fromCmd.isSome = true → ∃ f, (t.nmu u).faults = m.faults ++ [(l, f)] ∧ f.reason = BitVec.ofNat 8 r ∧ f.pc = m.pc ∧ f.word = w ∧
        f.depth = m.stack.length ∧ f.loops = m.loops.length ∧ f.va = nmTva r va))

/-! Ranges, banks, graph nodes and `launch` (R217 to R230). -/

/-- A range edit sends a status to gd and leaves the machine at u, done with what it has read. -/
def Edits (i : Instr) (s : State) (o : RgForm) (u : State) (status : Nat) : Prop :=
  let v := u.forget (.other (300 + s.cur))
  IssuesAt i s (v.setMe (v.me.fly (.g o.gd.toNat) (.s { val := BitVec.ofNat 64 status, poison := false }) 0 1 false))

/-- A range edit that has read the directory answers a status: where what it has read stands still, else it reads again. -/
def Reports (i : Instr) (s : State) (o : RgForm) (u : State) (status : Nat) : Prop :=
  (u.intact (.other (300 + s.cur)) = true → Edits i s o u status) ∧
  (u.intact (.other (300 + s.cur)) = false → HoldsAt i s (u.forget (.other (300 + s.cur))))

/-- What a range edit of an address va comes to, with the machine at u once it has read so far: a status, a hold for a read on its way, a trap
for poison in the directory, the edited directory and status 0. -/
def ComesTo (i : Instr) (s : State) (o : RgForm) (u : State) : Edited → Prop
  | .status n => Reports i s o u n
  | .wait v => HoldsAt i s v
  | .poison v => exec i s = .next (trapped v { cause := 0x41, tva := (s.me.g o.ga).val })
  | .done v => Edits i s o v 0

/-- A query issues with the machine at u and sends its answer to gd, as a scoreboarded result. -/
def Answers (i : Instr) (s u : State) (g : Guard) (gd : GReg) (v : Nat) : Prop :=
  IssuesAt i s (u.setMe (u.me.fly (.g gd.toNat) (.s { val := BitVec.ofNat 64 v, poison := gp s g }) 0 1 false))

/-- R217 to R224, R383, R386: the directory edits, invalidation and queries. An edit waits until the strand's accesses are performed, and then for
its reads of the directory. A moving record gives status 5; an address outside window D, or one that no record covers, 1; a
split of a full directory 2, at a place it may not be 3; a merge with no record that continues the lower and agrees with it 4. A split puts
the two parts where the record stood and moves those above up; a merge leaves one record; a pin sets the record's bit, an unpin clears it;
each answers 0. A replacement of records reads those above it, and, where what it has read stands still and nothing is on its way to
their lines, writes the records in their new places and the new count. An invalidation goes out, holds its bundle, and issues once every party has
acknowledged. `rgprobe` answers from the core's range table, after a walk where that has no entry; `rgfill` leaves its request with the
walker, and sets bit 5 of `sys.evt` where nothing is outstanding. A poisoned operand traps with 0x1A, an ASID above 16 bits with 0x03.
Completes: rgsplit, rgmerge, rgpin, rginv, rgprobe, rgfill. -/
def Obligations.RangeForms : Prop :=
  ∀ (s s1 : State) (g : Guard) (o : RgForm) (un : Bool),
    let t := s.me
    let va := (t.g o.ga).val
    let asid := (t.g o.gb).val.setWidth 16
    let src : Src := .other (300 + s.cur)
    let form (i : Instr) : Prop := i = .rgsplit g o ∨ i = .rgmerge g o ∨ i = .rgpin g o un
    (s.me.sys.priv = true → Ready s g [.g o.gd.toNat, .g o.ga.toNat, .g o.gb.toNat] →
      (∀ i, form i → ((t.g o.ga).poison = true ∨ (t.g o.gb).poison = true) → Traps i s { cause := 0x1A }) ∧
      ((t.g o.ga).poison = false → (t.g o.gb).poison = false →
        (∀ i, form i → 2 ^ 16 ≤ (t.g o.gb).val.toNat → Traps i s { cause := 0x03 }) ∧
        ((t.g o.gb).val.toNat < 2 ^ 16 → gp s g = false →
          (∀ i, form i → s.released (.strand s.cur) .dv = false → HoldsAt i s s) ∧
          (s.released (.strand s.cur) .dv = true →
            (∀ i, form i → winOf va ≠ .d → Edits i s o s 1) ∧
            (winOf va = .d →
              (∀ i, form i → s.walk src asid va.toNat = (s1, .error none) → HoldsAt i s s1) ∧
              (∀ i, form i → s.walk src asid va.toNat = (s1, .error (some 0x41)) →
                exec i s = .next (trapped s1 { cause := 0x41, tva := va })) ∧
              (∀ i c, form i → c ≠ 0x41 → s.walk src asid va.toNat = (s1, .error (some c)) → Edits i s o s1 1) ∧
              (∀ r n e, s.walk src asid va.toNat = (s1, .ok (e, r, n)) →
                let d := va.toNat - r.base
                (r.moving = true → ∀ i, form i → Reports i s o s1 5) ∧
                (r.moving = false →
                  (s1.mayEdit src asid e n = true → Edits (.rgpin g o un) s o ((s1.rewalk asid).putRec e n { r with pinned := !un }) 0) ∧
                  (s1.mayEdit src asid e n = false → HoldsAt (.rgpin g o un) s (if s1.intact src then s1 else s1.forget src)) ∧
                  (e.count = e.cap → Reports (.rgsplit g o) s o s1 2) ∧
                  (e.count ≠ e.cap → (va.toNat % 2 ^ 16 ≠ 0 ∨ d = 0 ∨ (r.partialRes = true ∧ d % 2 ^ 24 ≠ 0)) →
                    Reports (.rgsplit g o) s o s1 3) ∧
                  (e.count ≠ e.cap → va.toNat % 2 ^ 16 = 0 → d ≠ 0 → (r.partialRes = true → d % 2 ^ 24 = 0) →
                    ComesTo (.rgsplit g o) s o s1 (s1.splice src asid e n 1
                      [{ r with length := d / 2 ^ 16 },
                       { r with base := r.base + d, length := (r.size - d) / 2 ^ 16, map := r.map + d / 2 ^ 24 }])) ∧
                  (e.count ≤ n + 1 → Reports (.rgmerge g o) s o s1 4) ∧
                  (∀ s2 bs, n + 1 < e.count → s1.readRec src e (n + 1) = (s2, .ok bs) →
                    (parseRec bs = none → Reports (.rgmerge g o) s o s1 4) ∧
                    (∀ u, parseRec bs = some u →
                      let agree := { r with asid := u.asid, base := u.base, length := u.length, mdie := u.mdie, map := u.map } = u ∧
                        (r.partialRes = true → r.size % 2 ^ 24 = 0 ∧ u.map = r.map + r.size / 2 ^ 24) ∧ s2.recOk u = true
                      (u.base ≠ r.base + r.size → Reports (.rgmerge g o) s o s1 4) ∧
                      (u.base = r.base + r.size → u.moving = true → Reports (.rgmerge g o) s o s1 5) ∧
                      (u.base = r.base + r.size → u.moving = false → ¬agree → Reports (.rgmerge g o) s o s1 4) ∧
                      (u.base = r.base + r.size → u.moving = false → agree →
                        ComesTo (.rgmerge g o) s o s1 (s2.splice src asid e n 2 [{ r with length := r.length + u.length }]))))))))))) ∧
    (∀ (e : DirEntry) (n drop : Nat) (rs : List RangeRec), n + drop ≤ e.count →
      let at_ (k : Nat) : Nat := e.dbase + 32 * k
      (∀ s2 above, n + drop < e.count → s.readZoned src (at_ (n + drop)) (32 * (e.count - n - drop)) = (s2, .data above false) →
        s2.mayEdit src asid e n = true → above ≠ [] →
        s.splice src asid e n drop rs =
          .done ((((s2.rewalk asid).writeZoned (at_ n) (rs.flatMap RangeRec.bytes)).writeZoned (at_ (n + rs.length)) above).putCount asid e
            (e.count - drop + rs.length))) ∧
      (n + drop = e.count → s.mayEdit src asid e n = true →
        s.splice src asid e n drop rs =
          .done (((s.rewalk asid).writeZoned (at_ n) (rs.flatMap RangeRec.bytes)).putCount asid e (e.count - drop + rs.length)))) ∧
    (∀ (dv all : Bool) (ga gb : GReg), s.me.sys.priv = true → Ready s g [.g ga.toNat, .g gb.toNat] →
      let i : Instr := .rginv g dv all ga gb
      let a : BitVec 16 := (t.g gb).val.setWidth 16
      let span := if all then none else some ((t.g ga).val.toNat, 1)
      let own := s.shoots.find? (fun (h : Shoot) => h.strand == some s.cur)
      (((all = false ∧ (t.g ga).poison = true) ∨ (t.g gb).poison = true) → Traps i s { cause := 0x1A }) ∧
      ((all = false → (t.g ga).poison = false) → (t.g gb).poison = false →
        (2 ^ 16 ≤ (t.g gb).val.toNat → Traps i s { cause := 0x03 }) ∧
        ((t.g gb).val.toNat < 2 ^ 16 →
          (s.released (.strand s.cur) (if dv then .dv else .co) = false → HoldsAt i s s) ∧
          (s.released (.strand s.cur) (if dv then .dv else .co) = true →
            (own = none → dv = true → HoldsAt i s (s.shoot a span (some s.cur) parties)) ∧
            (own = none → dv = false → HoldsAt i s ((s.shoot a span (some s.cur) [coreOf s.cur]).receive
              { id := s.fresh, asid := a, span := span, strand := some s.cur, todo := [coreOf s.cur], got := [] } (coreOf s.cur))) ∧
            (∀ h, own = some h →
              let u := if dv then s else s.acknowledge h (coreOf s.cur)
              ((∀ x ∈ u.shoots, x.id = h.id → x.todo = []) →
                IssuesAt i s { u with shoots := u.shoots.filter (fun (x : Shoot) => x.id != h.id) }) ∧
              ((∃ x ∈ u.shoots, x.id = h.id ∧ x.todo ≠ []) → HoldsAt i s u)))))) ∧
    (∀ gd ga w, Ready s g [.g gd.toNat, .g ga.toNat] →
      let a := (t.g ga).val
      let c := coreOf s.cur
      ((t.g ga).poison = true → Traps (.rgprobe g gd ga w) s { cause := 0x1A }) ∧
      ((t.g ga).poison = false →
        (winOf a ≠ .d → Answers (.rgprobe g gd ga w) s s g gd 0) ∧
        (winOf a = .d → s.rtFind c t.sys.asid a.toNat = none →
          (s.askWalk (.strand s.cur) t.sys.asid a.toNat = (s1, none) → HoldsAt (.rgprobe g gd ga w) s s1) ∧
          (∀ k, k ≠ 0x41 → s.askWalk (.strand s.cur) t.sys.asid a.toNat = (s1, some k) → Answers (.rgprobe g gd ga w) s s1 g gd 0)) ∧
        (∀ x, winOf a = .d → s.rtFind c t.sys.asid a.toNat = some x →
          let r := x.r
          let info (res : Bool) : Nat :=
            2 ^ 63 + b2n res * 2 ^ 62 + b2n r.partialRes * 2 ^ 61 + b2n r.moving * 2 ^ 60 + b2n r.pinned * 2 ^ 59 +
              b2n r.compactible * 2 ^ 58 + b2n r.r * 2 ^ 52 + b2n r.w * 2 ^ 51 + b2n r.x * 2 ^ 50 + b2n r.a * 2 ^ 49 + b2n r.n * 2 ^ 48 +
              r.zone.toNat * 2 ^ 44 + r.gen.toNat * 2 ^ 36
          let k := r.granule a.toNat
          Answers (.rgprobe g gd ga 1) s s g gd (translated a.toNat (s.offsetAt r a.toNat)) ∧
          Answers (.rgprobe g gd ga 2) s s g gd r.base ∧ Answers (.rgprobe g gd ga 3) s s g gd r.length ∧
          ((r.partialRes = false ∨ k ∈ x.kept) → Answers (.rgprobe g gd ga 0) s s g gd (info true)) ∧
          (r.partialRes = true → k ∉ x.kept →
            (s.mapBit c r k = (s1, .error none) → HoldsAt (.rgprobe g gd ga 0) s s1) ∧
            (∀ b, s.mapBit c r k = (s1, .ok b) → Answers (.rgprobe g gd ga 0) s (s1.mapped c) g gd (info b)) ∧
            (∀ y, y ≠ 0x41 → s.mapBit c r k = (s1, .error (some y)) → Answers (.rgprobe g gd ga 0) s (s1.mapped c) g gd (info false)))))) ∧
    (∀ ga gb, Ready s g [.g ga.toNat, .g gb.toNat] →
      (((t.g ga).poison = true ∨ (t.g gb).poison = true) → Traps (.rgfill g ga gb) s { cause := 0x1A }) ∧
      ((t.g ga).poison = false → (t.g gb).poison = false →
        let lo := (t.g ga).val.toNat
        let hi := min (2 ^ 56) (lo + (t.g gb).val.toNat)
        (lo < hi → IssuesAt (.rgfill g ga gb) s
          { s with wants := s.wants ++ [{ id := s.fresh, n := s.cur, asid := t.sys.asid, lo := lo, hi := hi }], fresh := s.fresh + 1 }) ∧
        (hi ≤ lo → (∃ w ∈ s.wants, w.n = s.cur) → IssuesAt (.rgfill g ga gb) s s) ∧
        (hi ≤ lo → (∃ f ∈ s.fills, s.cur ∈ f.rgfill) → IssuesAt (.rgfill g ga gb) s s) ∧
        (hi ≤ lo → (∀ w ∈ s.wants, w.n ≠ s.cur) → (∀ f ∈ s.fills, s.cur ∉ f.rgfill) →
          IssuesAt (.rgfill g ga gb) s (s.modStrand s.cur (fun t => t.setEvt 5)))))

/-- R225 to R230, R350, R454: banks, nodes and `launch`. `bankoff` holds until nothing is to come to the banks it names, and takes them off: their
registers are dead and zero. `spdrop` leaves a drop at each scratchpad bank it names and issues; where nothing is on its way to the banks, a drop
retains a full bank or takes the bank off, and waits else. `spwake` issues once every bank named is full, and wakes them until then. A mask outside the
allotment traps with 0x40, a reserved bit with 0x03, poison with 0x1A. `node` holds until the results and array commands before it, and the
accesses to the banks it takes off, are done; it keeps the registers, banks and tiles its operands name, and is where a pending
pre-emption evicts the strand. `launch` reads the record and the queue's descriptor; into an enabled queue that is not full it writes the record to
the slot of the producer index with the index in its control word, advances the index, and sends it; a full queue gives 2^63; one that does not
take device producers traps with 0x40, a poisoned record with 0x19. Completes: bankoff, spdrop, spwake, node, launch. -/
def Obligations.BankForms : Prop :=
  ∀ (s : State) (g : Guard) (ga gb : GReg),
    let t := s.me
    let c := coreOf s.cur
    let m := (t.g gb).val
    let named := (List.range 32).filter (fun k => m.toNat.testBit k)
    (∀ b : BitVec 8, Ready s g [] →
      let ks := (List.range 8).filter (fun k => b.toNat.testBit k)
      ((∀ k ∈ ks, t.bankQuiet k = true) → Issues (.bankoff g b) s ((ks.foldl (fun (u : Strand) k => u.offV k) t).rewake)) ∧
      ((∃ k ∈ ks, t.bankQuiet k = false) → HoldsAt (.bankoff g b) s s)) ∧
    (∀ k i, i < 32 →
      ((t.offV k).r.live.getLsbD i = (t.r.live.getLsbD i && i / 4 != k)) ∧ (i / 4 = k → vAt (t.offV k).r.v i = ⟨0, 0⟩) ∧
      (i / 4 ≠ k → vAt (t.offV k).r.v i = vAt t.r.v i) ∧ (k < 8 → (t.offV k).bankOff (4 * k) = true)) ∧
    (Ready s g [.g gb.toNat] → ∀ i off, i = .spwake g gb ∨ i = .spdrop g gb off →
      ((t.g gb).poison = true → Traps i s { cause := 0x1A }) ∧
      ((t.g gb).poison = false → 2 ^ 32 ≤ m.toNat → Traps i s { cause := 0x03 }) ∧
      ((t.g gb).poison = false → m.toNat < 2 ^ 32 → m.setWidth 32 &&& ~~~s.spmask s.cur ≠ 0 → Traps i s { cause := 0x40 })) ∧
    (Ready s g [.g gb.toNat] → (t.g gb).poison = false → m.toNat < 2 ^ 32 → m.setWidth 32 &&& ~~~s.spmask s.cur = 0 →
      ((∀ k ∈ named, ((s.core c).bank k).st = .full) → IssuesAt (.spwake g gb) s s) ∧
      ((∃ k ∈ named, ((s.core c).bank k).st ≠ .full) → HoldsAt (.spwake g gb) s (named.foldl (fun (s : State) k => s.wakeSp c k) s)) ∧
      (∀ off, (m = 0 → IssuesAt (.spdrop g gb off) s s) ∧
        (m ≠ 0 → IssuesAt (.spdrop g gb off) s (named.foldl (fun (u : State) k =>
          (u.modCore c (fun x => x.setBank k { x.bank k with drops := (x.bank k).drops ++
            [(u.cur, s.fresh, off, named.foldl (fun (w : BitVec 32) k => setBit32 w k true) 0)] })).settleBank c k) (s.sendOrder false))))) ∧
    (∀ d k n no off w ds, ((s.core d).bank k).drops = (n, no, off, w) :: ds →
      (((s.core d).bank k).waking = none → s.toBank d k no = false → s.toBanks n no w = false → ds = [] →
        let u := s.modCore d (fun x => x.setBank k { (s.core d).bank k with drops := [] })
        s.settleBank d k = if off then u.spOff d k else u.spRetain d k) ∧
      ((((s.core d).bank k).waking ≠ none ∨ s.toBank d k no = true ∨ s.toBanks n no w = true) → s.settleBank d k = s)) ∧
    (∀ tiles : BitVec 16, Ready s g [.g ga.toNat, .g gb.toNat] →
      let a := (t.g ga).val
      (((t.g ga).poison = true ∨ (t.g gb).poison = true) → Traps (.node g ga gb tiles) s { cause := 0x1A }) ∧
      ((t.g ga).poison = false → (t.g gb).poison = false →
        ((2 ^ 32 ≤ a.toNat ∨ 2 ^ 32 ≤ m.toNat) → Traps (.node g ga gb tiles) s { cause := 0x03 }) ∧
        (a.toNat < 2 ^ 32 → m.toNat < 2 ^ 32 →
          let offs := (List.range 32).filter (fun k => (s.spmask s.cur &&& ~~~(m.setWidth 32)).toNat.testBit k)
          let still := (∃ f ∈ t.flights, f.bundle < t.bundle) ∨ (∃ x ∈ t.e.cmds, x.engine = 1 ∧ x.bundle < t.bundle) ∨
            ∃ k ∈ offs, ((s.core c).bank k).waking ≠ none ∨ ((s.core c).bank k).drops ≠ [] ∨ s.busyBank c k = true
          (still → HoldsAt (.node g ga gb tiles) s s) ∧
          (¬still →
            ∃ u, IssuesAt (.node g ga gb tiles) s (offs.foldl (fun (x : State) k => x.spOff c k) (s.setMe u)) ∧ u.r.g = t.r.g ∧ u.r.p = t.r.p ∧
              u.e = t.e ∧ u.phase = (if s.nodeEvicts s.cur then .evicting true false else t.phase) ∧
              (∀ i, i < 16 → (vAt u.r.tiles i).written = ((vAt t.r.tiles i).written && tiles.getLsbD i)) ∧
              (t.flights = [] → ∀ i, i < 32 →
                u.r.live.getLsbD i = (t.r.live.getLsbD i && (List.range 32).any (fun n => a.toNat.testBit n && t.pv n == i))))))) ∧
    (∀ gd s1 gs, Ready s g [.g gd.toNat, .g ga.toNat, .g gb.toNat] → (t.g ga).poison = false → (t.g gb).poison = false →
      m.toNat < 2 ^ 16 → gp s g = false → s.check { r := true } 64 (t.g ga).val 64 = (s1, .ok gs) →
      let i : Instr := .launch g gd ga gb
      let src : Src := .other (300 + s.cur)
      (s1.released (.strand s1.cur) .dv = false → HoldsAt i s s1) ∧
      (s1.released (.strand s1.cur) .dv = true →
        (∀ s2, s1.getSegs src t.sys.asid gs = (s2, none) → HoldsAt i s s2) ∧
        (∀ s2 rec', s1.getSegs src t.sys.asid gs = (s2, some rec') →
          ((∃ b ∈ rec', b.2 = true) → exec i s = .next (trapped s2 { cause := 0x19, tva := (t.g ga).val })) ∧
          ((∀ b ∈ rec', b.2 = false) →
            let die : Nat := 272 + dieOf (coreOf s1.cur)
            (∀ s3, s2.queueDesc src die m.toNat = (s3, .wait) → HoldsAt i s s3) ∧
            (∀ s3, s2.queueDesc src die m.toNat = (s3, .none) → exec i s = .next (trapped s3 { cause := 0x40 })) ∧
            (∀ s3 bs, s2.queueDesc src die m.toNat = (s3, .data bs false) →
              let lg := bits (word bs 1) 4 0
              let prod := bits (word bs 2) 31 0
              let cons := bits (word bs 2) 63 32
              let desc := s1.queueAt m.toNat
              let slot := word bs 0 + 64 * (prod % 2 ^ lg)
              let admits := bit (word bs 1) 9 = true ∧ lg ≤ 20 ∧ s3.dramOk die true desc = true ∧ s3.dramOk die true slot = true
              let sends (u : State) (v : Nat) : Prop :=
                let w := u.forget src
                IssuesAt i s (w.setMe (w.me.fly (.g gd.toNat) (.s { val := BitVec.ofNat 64 v, poison := false }) 0 1 false))
              (¬admits → exec i s = .next (trapped s3 { cause := 0x40 })) ∧
              (admits → s3.intact src = false → HoldsAt i s (s3.forget src)) ∧
              (admits → s3.intact src = true → 2 ^ lg ≤ (prod + 2 ^ 32 - cons) % 2 ^ 32 → sends s3 (2 ^ 63)) ∧
              (admits → s3.intact src = true → (prod + 2 ^ 32 - cons) % 2 ^ 32 < 2 ^ lg →
                ((s3.settledLines desc 32 = false ∨ s3.settledLines slot 64 = false) → HoldsAt i s s3) ∧
                (s3.settledLines desc 32 = true → s3.settledLines slot 64 = true →
                  let x := ofBytes (rec'.map (fun b => b.1))
                  let w0 := x % 2 ^ 64
                  let ctl := w0 % 2 ^ 16 + prod % 2 ^ 16 * 2 ^ 16 + bits w0 56 32 * 2 ^ 32 + prod / 2 ^ 16 % 2 ^ 7 * 2 ^ 57
                  sends ((s3.writeAt .dram (desc + 16) (toBytes 4 (prod + 1)) false).writeAt .dram slot (toBytes 64 (x - w0 + ctl)) false)
                    prod)))))))

/-! Events of engines, strands, arbiters, ranges and barriers. -/

/-- R136, R143, R153 to R156, R165, R172, R173, R178, R180, R205, R207, R208, R301, R342, R448: events of a strand's engines. A command that is next in its queue,
with its token there and what its start needs, starts, unless the array has to flip first; a `lease`, an `unlease`, an `mzero`, a token form or an ended
command finishes, its token pushed; an array no one holds goes to a strand that requests, the other of two that do; a K-block adds to its tiles and
counts, or the array flips before it or behind it; an array command that meets a fault stops, and a product's run ends; a near kernel's fault ends its
`nlaunch`, and the fault of the command issued first is taken; a block read enters its buffer; the oldest pushed block's bytes are sent, and
its slot is free once they are written; a rewind moves its stream; a copy sends its next part; a copy that ends in a ring claims a slot
and writes its tag there, and then publishes it. Completes: engineCommandStart, engineCommandFinish, arrayGrant, productKBlock, productStop,
engineFaultDelivery, patternBlockFetch, patternBlockWrite, rewind, copyGranule, copyRingCompletion. -/
def Obligations.EngineEvents : Prop :=
  ∀ (s : State) (n : Nat),
    let t := s.strand n
    let core := s.core (coreOf n)
    let does (i : Instr) (u : State) : Prop := exec i s = .next u
    let holds : Prop := core.holder = some (n % 2)
    (∀ e c, t.engines = true → t.nextToStart e = some c → t.hasTk c.tkw = true → s.mayStart n c = true →
      (counted c.op = true → holds → s.flipDue n = true → does (.engineCommandStart n e) (s.endRun n)) ∧
      ((counted c.op = false ∨ ¬holds ∨ s.flipDue n = false) → does (.engineCommandStart n e) (s.startCmd n c)) ∧
      (∀ h x, c.op = .twait h x ∨ c.op = .tsig h x →
        let u := (s.startCmd n c).strand n
        { c with st := .running } ∈ u.e.cmds ∧ u.r = t.r ∧
        (c.tkw ≠ 0 → c.tkw < 16 → vAt u.e.tk c.tkw = vAt t.e.tk c.tkw - 1) ∧ (∀ k, k ≠ c.tkw → vAt u.e.tk k = vAt t.e.tk k))) ∧
    (∀ c, t.cmd c.id = some c →
      let fin := Instr.engineCommandFinish n c.id
      (c.st = .running → t.runs c = true → core.gated = false →
        (∀ h k, c.op = .lease h k →
          does fin ((s.endRun n).modStrand n (fun u => { u with e := { u.e with leaseN := k.toNat } }.finishCmd c))) ∧
        (∀ h, c.op = .unlease h → does fin ((s.endRun n).modStrand n (fun u => u.finishCmd c))) ∧
        (∀ h a k, c.op = .mzero h a k → does fin (s.setStrand n ((t.zeroTiles a.toNat (k.toNat + 1)).finishCmd c)))) ∧
      (c.st = .running → 3 ≤ c.engine → c.engine ≤ 10 → (t.engines = true ∨ t.leaving = true) → t.isHead c = true →
        (∃ h x, c.op = .twait h x ∨ c.op = .tsig h x) → does fin (s.setStrand n (t.finishCmd c))) ∧
      (c.st = .ending → t.roomTk c.tks = true → does fin (s.setStrand n ((t.dropCmd c.id).pushTk c.tks))) ∧
      (t.roomTk c.tks = true → (∀ x ∈ (t.finishCmd c).e.cmds, x.id ≠ c.id) ∧
        (c.tks ≠ 0 → c.tks < 16 → vAt (t.finishCmd c).e.tk c.tks = vAt t.e.tk c.tks + 1)) ∧
      (t.runs c = true →
        (counted c.op = true → c.done < c.blocks → holds → core.gated = false →
          (s.flipDue n = true → does (.productKBlock n c.id) (s.endRun n)) ∧
          (∀ u, s.flipDue n = false → t.goProduct c = .ok u →
            (c.done + 1 < c.blocks → does (.productKBlock n c.id)
              (if (s.setStrand n u).flipDue n then (s.setStrand n u).endRun n else s.setStrand n u)) ∧
            (c.blocks = c.done + 1 → does (.productKBlock n c.id) ((s.setStrand n u).countBlock n)))) ∧
        (∀ r, t.goArray c = .fault r →
          (counted c.op = true → holds → does (.productStop n c.id) ((s.setStrand n (t.stopCmd c r)).endRun n)) ∧
          (counted c.op = false → does (.productStop n c.id) (s.setStrand n (t.stopCmd c r))))) ∧
      (t.copyRuns c = true → c.done < c.whole →
        (∀ h a b len exp lu kind gc, c.op = .copy h a b len exp lu kind gc → does (.copyGranule n c.id) (s.copyBytes n c exp)) ∧
        (∀ h cnt crc dst src lu chk schk kind gc, c.op = .copyt h cnt crc dst src lu chk schk kind gc →
          does (.copyGranule n c.id) (s.copyBlock n c chk schk))) ∧
      (∀ s1 bs s2 gs u,
        let k := min 256 (c.whole - c.done)
        let src : Src := .copy n c.id
        let from' := vAt c.ops 1 + BitVec.ofNat 64 c.done
        let to' := vAt c.ops 0 + BitVec.ofNat 64 c.done
        State.segSource n c.id (s.engineSpan src n { r := true } 1 from' k) = .ok s1 bs [] →
        s1.engineSpan src n { w := true } 1 to' k = (s2, some (gs, none)) →
        s2.engineWrite src n c.id (whole (bs.map (fun b => b.1))) gs = some u →
        s.copyBytes n c false = (u.modStrand n (fun t => t.setCmd { c with
          done := c.done + k
          uses := [(vAt c.ops 1 + BitVec.ofNat 64 (c.done + k - 1), s1.fresh), (vAt c.ops 0 + BitVec.ofNat 64 (c.done + k - 1), s1.fresh)] })).forget src) ∧
      (∀ h a b len exp (gc : BitVec 5), c.op = .copy h a b len exp false .ring gc → c.st = .running → c.engine = 2 → c.whole ≤ c.done →
        s.stored (.copy n c.id) = true →
        let g := (tget core.rings gc.toNat).getD Ring.reset
        (c.fin = 2 → (t.engines = true ∨ t.leaving = true) →
          does (.copyRingCompletion n c.id) ((s.publishSlot n c gc.toNat).endCopy n c [])) ∧
        (∀ k s1 gs u, c.fin = 0 → t.engines = true → s.kernel t.kernel = some k → k.ringmask.getLsbD gc.toNat = true → g.ns ≠ 0 → g.full = false →
          s.engineSpan (.copy n c.id) n { w := true } 1 (BitVec.ofNat 64 (0xFF00000000000000 + g.slot g.t)) 8 = (s1, some (gs, none)) →
          s1.engineWrite (.copy n c.id) n c.id (whole (toBytes 8 c.tag.toNat)) gs = some u →
          does (.copyRingCompletion n c.id)
            ((u.modCore (coreOf n) (fun x => { x with rings := tput x.rings gc.toNat { g with t := g.t + 1 } })).toStage n
              { c with ops := vSet c.ops 3 (g.t.zeroExtend 64) } 2)))) ∧
    (core.gated = false → core.holder = none →
      let c := coreOf n
      let a := s.requests (2 * c)
      let b := s.requests (2 * c + 1)
      (a = true → b = false → does (.arrayGrant c) (s.giveArray c (some 0))) ∧
      (a = false → b = true → does (.arrayGrant c) (s.giveArray c (some 1))) ∧
      (a = true → b = true → does (.arrayGrant c) (s.giveArray c (some (1 - core.lastHolder))))) ∧
    (∀ c u l f, t.cmd c.id = some c → u < numNmus → (∀ v, v ≠ u → (s.nmu v).faults = []) → (s.nmu u).faults = [(l, f)] →
      l.fromCmd = some (n, c.id) →
      let e : EFault :=
        { id := c.id, cause := if 2 ≤ f.reason.toNat ∧ f.reason.toNat ≤ 5 then 0x30 else 0x31, tva := f.va, tpos0 := (f.words u).1,
          tpos1 := (f.words u).2, ttag := c.ttag, eos := none }
      let w := t.dropCmd c.id
      does (.engineFaultDelivery n c.id)
        ((s.modNmu u (fun m => { m with faults := [] })).setStrand n { w with e := { w.e with faults := w.e.faults ++ [e] } })) ∧
    (∀ f, (∀ u, u < numNmus → (s.nmu u).faults = []) → t.phase = .running → t.sys.priv = false → t.dlHit = false → t.entering = false →
      firstFault t.e.faults = some f → does (.engineFaultDelivery n f.id) (({ s with cur := n } : State).takeFault n f)) ∧
    (∀ f, s.takeFault n f =
      (s.modStrand n (fun t => { t with phase := .running, e := { t.e with faults := t.e.faults.filter (fun x => x.id != f.id) } })).takeTrap n
        { cause := f.cause.zeroExtend 8, tva := f.tva, pos0 := f.tpos0, pos1 := f.tpos1, tag := f.ttag, eos := f.eos } true) ∧
    (∀ q, let p := vAt t.e.ports q
      let src : Src := .port n q
      let o := p.lay.origin (indices p.nextNo p.prog.counts)
      let rows := List.range 16
      let all : Mask := BitVec.allOnes 1024
      (q < 6 → (t.engines = true ∨ t.feeds q = true) → t.portLive q = true → p.captured = true → p.spent q = false → p.fault = none →
        (p.rew = none ∨ t.claimsRest q = false) → p.buf.length < 4 → does (.patternBlockFetch n q) (s.fetchBlock n q)) ∧
      (∀ s1 x s2 bs, p.lay.xf ≠ 1 → s.engineRows src n { r := true } p.lay o rows = (s1, some x) →
        s1.engineRead src n p.fork x = (s2, some (.ok bs)) →
        s.fetchBlock n q = (s2.modStrand n (fun t => t.enter q (p.lay.toBlock (p.seedAt p.nextNo) all bs) [(p.lay.lastVa o, s.fresh)])).forget src) ∧
      (∀ (w : Strand) b uses, q < 8 →
        (vAt (w.enter q b uses).e.ports q).nextNo = (vAt w.e.ports q).nextNo + 1 ∧
        (vAt (w.enter q b uses).e.ports q).buf =
          (vAt w.e.ports q).buf ++ [{ b.blk with pos := posWords (vAt w.e.ports q) q (vAt w.e.ports q).nextNo 0, mine := true }]) ∧
      (∀ b bs, q = 6 ∨ q = 7 → ((t.engines = true ∧ t.portLive q = true) ∨ t.leaving = true) → p.captured = true → p.fault = none →
        p.buf = b :: bs →
        let x := p.lay.fromBlock (p.seedAt p.nextNo) b all
        does (.patternBlockWrite n q) (s.writeBlock n q b) ∧
        (p.sent = true → s.stored src = false → s.writeBlock n q b = s) ∧
        (p.sent = true → s.stored src = true →
          s.writeBlock n q b =
            (s.modStrand n (fun t => (t.setPort q { vAt t.e.ports q with
              buf := (vAt t.e.ports q).buf.drop 1, sent := false, nextNo := (vAt t.e.ports q).nextNo + 1 }).raise x.flags)).forget src) ∧
        (∀ s1 gs u, p.sent = false → s.engineRows src n { w := true } p.lay o rows = (s1, some (gs, none)) →
          s1.engineWrite src n p.fork x.bytes gs = some u →
          s.writeBlock n q b =
            u.modStrand n (fun t => t.setPort q { vAt t.e.ports q with sent := true, uses := [(p.lay.lastVa o, s.fresh)] }))) ∧
      (∀ w, q < 8 → p.rew = some w → t.claimsRest q = true →
        (inbound q = true ∨ (t.pushes q = 0 ∧ (p.buf = [] ∨ p.fault ≠ none))) →
        let at' := linear ((posIndices w).zip p.prog.counts)
        does (.rewind n q) ((s.setStrand n ((t.setPort q
          { p with rew := none, resume := [], buf := [], sent := false, fault := none, nextNo := at', accepted := at',
                   stopped := t.stopActs q }).clearEos q)).forget src)))

/-- R98, R104, R137, R185, R226, R234, R350, R354, R358, R436, R442, R448, R463, R475: events of a strand and of its core's power. A result
whose data has come lands; a trap due at the boundary is entered, the deadline's first; a `wfe` whose time has passed is over; an
array that runs nothing gates itself, and one that is asked for wakes, after its time; a bank with nothing live in it, idle for the time set, goes to
retention, and a bank's wake completes, after its time, with the words that parity found struck poisoned or marked. A soft error breaks a line of
device memory unseen, flips bits of a register or of the scratchpad, or breaks an accumulator's check. Completes: resultLanding,
trapEntry, deadlineExpiry, wfeTimeout, arrayGate, arrayWake, bankIdle, bankWake, softError. -/
def Obligations.StrandAndPowerEvents : Prop :=
  ∀ (s : State) (n : Nat),
    let t := s.strand n
    let does (i : Instr) (u : State) : Prop := exec i s = .next u
    (∀ f, t.flights.find? (fun x => x.tag == f.tag) = some f → f.need = 0 → f.form = .ready → f.fixed = false → f.due ≤ t.clock →
      (∀ i, f.dst = .v i → t.bankFull i = true) → t.heldBack f = false → does (.resultLanding n f.tag) (s.setStrand n (t.land f).clearIl)) ∧
    (t.phase = .running → t.entering = false → t.dlHit = true →
      let u := s.setStrand n { t with dlHit := false }
      does (.deadlineExpiry n) (u.takeTrap n { cause := 0x38 } false) ∧
      does (.trapEntry n) (({ u with cur := n } : State).takeTrap n { cause := 0x38 } false)) ∧
    (t.phase = .running → t.entering = false → t.dlHit = false → t.sys.priv = false → t.e.faults = [] → ∀ b, t.stepDue = some b →
      t.sys.dbg.getLsbD 1 = false → does (.trapEntry n) (({ s with cur := n } : State).takeTrap n { cause := 0x3A } false)) ∧
    (∀ d, t.wfeFrom = some d → t.phase = .running → d ≤ t.clock → t.wfeOut = false → does (.wfeTimeout n) (s.setStrand n { t with wfeOut := true })) ∧
    (t.phase = .running → t.entering = true → does (.trapEntry n) (s.enterHandler n)) ∧
    (∀ c, c < numCores →
     let idle : Prop := (s.strand (2 * c)).onArray = false ∧ (s.strand (2 * c + 1)).onArray = false
     ((s.core c).gated = false → idle → does (.arrayGate c) (s.modCore c (fun x => { x with gated := true, gateWake := none }))) ∧
     ((s.core c).gated = true → (s.core c).gateWake = none → ¬idle → does (.arrayWake c) (s.wakeArray c)) ∧
     (∀ w, (s.core c).gated = true → (s.core c).gateWake = some w →
      (s.ticksOver c 32 w = true → does (.arrayWake c) (s.modCore c (fun x => { x with gated := false, gateWake := none }))) ∧
      (s.ticksOver c 32 w = false → does (.arrayWake c) s))) ∧
    (∀ k, k < 8 →
      let b := vAt t.r.banks k
      (t.phase = .running → b.st = .full → t.sys.idle ≠ 0 → (∀ i, i / 4 = k → t.r.live.getLsbD i = false) → t.flights = [] →
        t.e.cmds = [] → b.idleFrom + 2 * t.sys.idle.toNat ≤ t.clock →
        does (.bankIdle n k) (s.setStrand n { t with r := { t.r with banks := vSet t.r.banks k { b with st := .ret, wake := none, struck := [] } } })) ∧
      (∀ w, b.wake = some w → (w ≤ t.clock ∨ t.phase ≠ .running) → does (.bankWake (.vec n k)) (s.setStrand n (t.wokenV k))) ∧
      ((b.st = .off ∨ b.struck = []) → (∀ j, vAt (t.wokenV k).r.v j = vAt t.r.v j) ∧ (vAt (t.wokenV k).r.banks k).st = .full) ∧
      (b.st = .ret → ∀ j, j < 4 → vAt (t.wokenV k).r.v (4 * k + j) =
        { vAt t.r.v (4 * k + j) with poison := (vAt t.r.v (4 * k + j)).poison ||| struckLanes b j })) ∧
    (∀ c k w, k < 32 →
      let x := (s.core c).bank k
      x.waking = some w →
      (s.ticksOver c (if x.st = .off then 96 else 24) w = false → does (.bankWake (.sp c k)) s) ∧
      (s.ticksOver c (if x.st = .off then 96 else 24) w = true → x.drops = [] →
        (x.st ≠ .ret → does (.bankWake (.sp c k)) (s.modCore c (fun y => y.setBank k { x with st := .full, waking := none, struck := [] }))) ∧
        (x.st = .ret → does (.bankWake (.sp c k)) (s.modCore c (fun y => { y.setBank k { x with st := .full, waking := none, struck := [] } with
          marked := y.marked ++ x.struck.filter (fun w => !y.marked.contains w) }))))) ∧
    (∀ reg lane flip, reg < 32 → lane < 1024 → flip ≠ 0 →
      let b := vAt t.r.banks (reg / 4)
      let hit := { vAt t.r.v reg with bits := (vAt t.r.v reg).bits ^^^ BitVec.ofNat 32768 (flip.toNat * 2 ^ (32 * lane)) }
      let e := (reg % 4, lane / 2)
      (b.st = .full → does (.softError (.vec n reg lane flip)) (s.setStrand n (t.setV reg hit))) ∧
      (b.st = .ret → e ∉ b.struck → does (.softError (.vec n reg lane flip))
        (let u := t.setV reg hit
         s.setStrand n { u with r := { u.r with banks := vSet u.r.banks (reg / 4) { b with struck := e :: b.struck } } }))) ∧
    (∀ off flip c o, target off = .sp c o → flip ≠ 0 → ((s.core c).bank (bankOf o)).st = .full →
      does (.softError (.sp off flip)) { s with chip := memPut s.chip off (memGet s.chip off ^^^ flip) }) ∧
    (∀ line sym flip, line < 2 ^ 33 → sym < 36 → s.m.flips = [] → flip ≠ 0 →
      does (.softError (.dram line sym flip)) { s with m := { s.m with flips := [(line, sym, flip)] } }) ∧
    (∀ u k, u < numNmus → k < 64 →
      does (.softError (.acc u k)) ((s.setAcc u k { s.acc u k with status := (s.acc u k).status ||| 16 }).report 436 u k))

/-- R192, R321, R325, R416 to R418, R420, R423, R431 to R433, R468, R474, R476: events at the arbiters and at the homes outside. A request whose turn it is
enters its queue, or is refused where that is full, at most twice; a store is performed as it enters, and keeps its place until it is served; a
request that is chosen, or that a later one to its line would go before, is served: performed where it has not been, charged to its budget,
its row left open; the yield bound makes the eligible main requests the batch; refresh closes a row; an interval loads the budgets; the host port and a
peer perform a request, after what the outside has written itself, or bring poison. Completes: arbiterAccept, arbiterServe, yieldBoundExpiry,
ageCapExpiry, refresh, budgetInterval, budgetWatchdogExpiry, hostPortCompletion, peerAcknowledgement. -/
def Obligations.ArbiterEvents : Prop :=
  ∀ (s : State) (r : Req) (p : Place),
    let does (i : Instr) (u : State) : Prop := exec i s = .next u
    (s.req r.id = some r → r.sp = .dram → r.op.isOrder = false → s.place r.pa = some p →
      (r.accept = none → r.away = false →
        (r.early = true → s.inTurn r = true → s.lineWrites r = false →
          (s.queueFull r = true → r.refusals < 2 → does (.arbiterAccept r.id) (s.setReq { r with away := true, refusals := r.refusals + 1 })) ∧
          ((s.queueFull r = false ∨ 2 ≤ r.refusals) → does (.arbiterAccept r.id) (s.takeStore r))) ∧
        (r.early = false → s.mayEnter r = true →
          (s.queueFull r = true → r.refusals < 2 → does (.arbiterAccept r.id) (s.setReq { r with away := true, refusals := r.refusals + 1 })) ∧
          ((s.queueFull r = false ∨ 2 ≤ r.refusals) →
            does (.arbiterAccept r.id) { s.setReq { r with accept := some s.fresh } with fresh := s.fresh + 1 }))) ∧
      (r.accept ≠ none → s.ripe r = true →
        (s.pressed p.bank r = true ∨ (s.candidate p.bank r = true ∧ s.chosen p.bank r = true)) →
        let u := (if r.done then s.retire r else s.complete r).charge r
        does (.arbiterServe r.id) { u with m := { u.m with row := tput u.m.row p.bank p.row } }) ∧
      (s.eligible r = true → does (.ageCapExpiry r.id) (s.setReq { r with capped := true }))) ∧
    (∀ b, tget s.m.own b = some .near → (∃ e ∈ s.bankQueue b, s.isMain e = true ∧ s.eligible e = true) →
      does (.yieldBoundExpiry b)
        (let ids := ((s.bankQueue b).filter (fun r => s.isMain r && s.eligible r)).map (fun r => r.id)
         { s with m := { s.m with own := tput s.m.own b (.main ids) } })) ∧
    (∀ b, b < 8192 → ∃ u, exec (.refresh b) s = .next u ∧ tget u.m.row b = none ∧ (∀ k, k ≠ b → tget u.m.row k = tget s.m.row k) ∧
      tget u.m.scrub b = some (((tget s.m.scrub b).getD 0 + 1) % 2 ^ 20) ∧ u.strands = s.strands ∧ u.net = s.net) ∧
    (∃ u, exec .budgetInterval s = .next u ∧ { u with m := s.m } = s ∧ ∀ k, k < 144 → tget u.m.budget k = some (s.allowance k)) ∧
    does .budgetWatchdogExpiry { s with m := { s.m with watchdog := true } } ∧
    (∀ cells, s.due r.id = some r →
      (r.sp = .host → does (.hostPortCompletion r.id cells false) ((s.outsideWrites .host cells).complete r)) ∧
      (r.sp = .peer → s.peerOk (bits r.pa 51 40) = true →
        does (.peerAcknowledgement r.id cells false) ((s.outsideWrites .peer cells).complete r))) ∧
    (∀ off, s.due r.id = some r → r.op = .load off → r.merged = [] →
      (r.sp = .host → does (.hostPortCompletion r.id [] true)
        ((s.answer r off (s.readAt .host r.pa r.len).2.1 (List.range r.len) 0).dropReq r.id)) ∧
      (r.sp = .peer → s.peerOk (bits r.pa 51 40) = true → does (.peerAcknowledgement r.id [] true)
        ((s.answer r off (s.readAt .peer r.pa r.len).2.1 (List.range r.len) 0).dropReq r.id)))

/-- R212, R222, R224, R387, R388, R394, R395, R399 to R404, R473: events of ranges and barriers. A walk reads the directory, or asks the host once; what it
comes to enters the party's table, or its cause is returned to those that wait. A party that a shootdown reaches forgets what matches. A fill
is translated, sends its bytes part by part and then its map bit, and ends once that is set; one that cannot be made, or is late, returns 0x12 to those
that wait. A compactor takes a request, marks the range moving, copies granule by granule, gives the record its new place and the next
generation, and writes the completion word; a retirement moves the part of the range that holds the granule, and lists it. An arrival counts
at its parent; one that finds the parent not configured is dropped (the model's choice, log entry 74); a flip goes down to its child.
Completes: rangeWalk, walkDeadline, shootdown, fillComplete, fillDeadline, moveRequest, retireRequest, compactorGranule, moveFinish,
barrierParentArrival, barrierFlipDown. -/
def Obligations.RangeAndBarrierEvents : Prop :=
  ∀ (s s1 s2 : State) (d : Nat) (bs : List Byte) (e : DirEntry) (r : RangeRec) (i : Nat),
    let does (i : Instr) (u : State) : Prop := exec i s = .next u
    (∀ w slot, s.walks.find? (fun (x : Walk) => x.id == w.id) = some w →
      let src : Src := .walker w.party (w.id + 1)
      let va := w.va.toNat
      let fails (u : State) (c : BitVec 7) : Prop := does (.rangeWalk w.id slot) ((u.endWalk w).deny w.waiting w.asid va c)
      let fills (u : State) (r : RangeRec) (i : Nat) : Prop :=
        (∀ v, u.fillEntry w.party slot w.asid i r = some v → does (.rangeWalk w.id slot) (v.endWalk w)) ∧
        (u.fillEntry w.party slot w.asid i r = none → does (.rangeWalk w.id slot) u)
      (w.asked = true → w.ans = none →
        (w.late = false → does (.rangeWalk w.id slot) s) ∧ (w.late = true → fails s 0x10) ∧
        (w.late = false → does (.walkDeadline w.id)
          { s with walks := s.walks.map (fun (x : Walk) => if x.id == w.id then { x with late := true } else x)
                   asks := s.asks.filter (fun a => !(a.kind == 1 && a.tag == w.id)) })) ∧
      ((w.asked = false ∨ w.ans ≠ none) →
        (s.dirEntry src w.asid = (s1, .error none) → does (.rangeWalk w.id slot) s1) ∧
        (∀ c, s.dirEntry src w.asid = (s1, .error (some c)) → fails s1 c) ∧
        (s.dirEntry src w.asid = (s1, .ok e) →
          (w.ans = none → e.hwalk = true →
            (s1.walk src w.asid va = (s2, .error none) → does (.rangeWalk w.id slot) s2) ∧
            (∀ c, s1.walk src w.asid va = (s2, .error (some c)) → fails s2 c) ∧
            (∀ e', s1.walk src w.asid va = (s2, .ok (e', r, i)) → fills s2 r i)) ∧
          (w.ans = none → e.hwalk = false → does (.rangeWalk w.id slot)
            ((({ s1 with walks := s1.walks.map (fun (x : Walk) => if x.id == w.id then { x with asked := true } else x) } : State).forget src).askTagged 1
              (w.asid.setWidth 64) w.va w.id)) ∧
          (∀ a, w.ans = some a →
            (s1.acceptRec src e a.toNat va = (s2, .error none) → does (.rangeWalk w.id slot) s2) ∧
            (∀ c, s1.acceptRec src e a.toNat va = (s2, .error (some c)) → fails s2 c) ∧
            (s1.acceptRec src e a.toNat va = (s2, .ok r) → fills s2 r a.toNat))))) ∧
    (∀ h p, s.shoots.find? (fun (h' : Shoot) => h'.id == h.id) = some h → p ∈ h.todo →
      (p ∉ h.got →
        let u := (s.receive h p).acknowledge h p
        does (.shootdown h.id p) { u with shoots := u.shoots.filter (fun (x : Shoot) => !(x.todo.isEmpty && x.strand.isNone)) } ∧
        (s.rtab p = [] → ∀ x ∈ u.shoots, x.id = h.id → p ∉ x.todo)) ∧
      (p ∈ h.got →
        let u := s.acknowledge h p
        does (.shootdown h.id p) { u with shoots := u.shoots.filter (fun (x : Shoot) => !(x.todo.isEmpty && x.strand.isNone)) })) ∧
    (∀ f x, s.fills.find? (fun y => y.id == f.id) = some f →
      let n := min (2 ^ 21) (x.r.base + x.r.size - f.gva)
      let src : Src := .fill f.die f.id
      (f.hostAsked = false → s.fillRuns f = true →
        (s.fillRange f = (s1, .error none) → does (.fillComplete f.id) s1) ∧
        (∀ c, s.fillRange f = (s1, .error (some c)) → does (.fillComplete f.id) (s1.endFill f (some c))) ∧
        (s.fillRange f = (s1, .ok x) →
          (f.begun = none → x.r.partialRes = false → does (.fillComplete f.id) (s.endFill f none)) ∧
          (f.begun = none → x.r.partialRes = true →
            does (.fillComplete f.id) (({ s with fresh := s.fresh + 1 } : State).setFill { f with begun := some s.fresh })) ∧
          (f.begun ≠ none →
            (f.done < n → does (.fillComplete f.id) (s.fillPart f x.r n)) ∧
            (n ≤ f.done → s.stored src = false → does (.fillComplete f.id) s) ∧
            (n ≤ f.done → s.stored src = true → f.set = true → does (.fillComplete f.id) (s.endFill f none)) ∧
            (n ≤ f.done → s.stored src = true → f.set = false → does (.fillComplete f.id) (s.fillMap f x.r))))) ∧
      (s.descriptor f x.r = (s1, .ok bs) →
        let va := f.gva + f.done
        let k := min 4096 (n - f.done)
        (s1.backing src (274 + f.die) bs va k = (s2, .none) → s.fillPart f x.r n = s2.endFill f (some 0x12)) ∧
        (∀ data u,
          let g : Seg := { sp := .dram, pa := translated va (s2.offsetAt x.r va), len := k, va := BitVec.ofNat 64 va, off := 0 }
          s1.backing src (274 + f.die) bs va k = (s2, .data data false) → s2.refused (274 + f.die) 0 f.asid true [g] = none →
          s2.putSegs src f.asid (whole data) [g] = some u → s.fillPart f x.r n = (u.forget src).setFill { f with done := f.done + k })) ∧
      (wbit (s.mgr 0x1000) 8 = true → f.set = false → (f.begun ≠ none ∨ f.hostAsked = true) → s.fillRange f = (s1, .ok x) →
        s1.descriptor f x.r = (s2, .ok bs) → bits (word bs 3) 15 0 ≠ 0 → does (.fillDeadline f.id) (s2.endFill f (some 0x12)))) ∧
    (d < 2 → tget s.moves d = none → s.moveHead d = (s1, some bs) →
      let compl := word bs 3
      let asid := BitVec.ofNat 16 (word bs 0)
      let src := compactor d
      (bits (word bs 0) 63 62 ≠ 1 →
        (∀ st gen, s1.moveCheck d bs true = (s2, .error (some (st, gen))) → does (.moveRequest d) (s2.moveEnds d compl st gen)) ∧
        (∀ u gs, s1.moveCheck d bs true = (s2, .ok (e, r, i)) → s2.retiredList src = (u, some gs) →
          let newOff := BitVec.ofNat 64 (word bs 2)
          let old := translated r.base r.offset
          let new := translated r.base newOff
          let may := old / 2 ^ 52 = 0 ∧ newOff.toNat % 2 ^ 16 = 0 ∧ u.placeOk gs r.zone.toNat new r.size = true ∧
            (new + r.size ≤ old ∨ old + r.size ≤ new) ∧ u.moveGranted d old new r.size = true
          let r' := { r with moving := true, mdie := d }
          (¬may → does (.moveRequest d) (u.moveEnds d compl 3 r.gen.toNat)) ∧
          (may → u.mayEdit src asid e i = true →
            does (.moveRequest d) ((((u.rewalk asid).putRec e i r').moveTaken d).startMove d false asid r' newOff 0 compl)))) ∧
      (bits (word bs 0) 63 62 = 1 →
        (∀ st gen, s1.moveCheck d bs false = (s2, .error (some (st, gen))) → does (.retireRequest d) (s2.moveEnds d compl st gen)) ∧
        (s1.moveCheck d bs false = (s2, .ok (e, r, i)) →
          let old := translated r.base r.offset
          let pa := word bs 2 / 2 ^ 16 * 2 ^ 16
          -- the span of the granule to retire: of 64 KiB, or of 16 MiB where residency maps split
          let lo := if r.partialRes then (pa - old) / 2 ^ 24 * 2 ^ 24 else pa - old
          let hi := if r.partialRes then min (lo + 2 ^ 24) r.size else pa - old + 2 ^ 16
          let mid := { r.part lo hi with moving := true, mdie := d }
          let parts := (if lo = 0 then [] else [r.part 0 lo]) ++ [mid] ++ (if hi = r.size then [] else [r.part hi r.size])
          let held := old / 2 ^ 52 = 0 ∧ old ≤ pa ∧ pa < old + r.size
          (¬held → does (.retireRequest d) (s2.moveEnds d compl 1 r.gen.toNat)) ∧
          (held → e.cap < e.count + parts.length - 1 → does (.retireRequest d) (s2.moveEnds d compl 5 r.gen.toNat)) ∧
          (∀ u gs v ta at' used w, held → e.count + parts.length ≤ e.cap + 1 → s2.retiredList src = (u, some gs) →
            u.spare src r.zone.toNat ((hi - lo) / 2 ^ 16) = (v, .ok (some (ta, at', used))) → v.intact src = true →
            v.settledLines at' 8 = true → v.placeOk gs r.zone.toNat ta (hi - lo) = true → (ta + (hi - lo) ≤ old + lo ∨ old + hi ≤ ta) →
            v.moveGranted d (old + lo) ta (hi - lo) = true → v.splice src asid e i 1 parts = .done w →
            does (.retireRequest d) (((w.writeZoned at' used).moveTaken d).startMove d true asid mid
              (BitVec.ofNat 64 ta - BitVec.ofNat 64 mid.base) (pa / 2 ^ 16) compl))))) ∧
    (∀ v, s.moveAt d = some v →
      let src := compactor d
      (v.stage = 1 → s.moveRec d v = (s1, .ok none) →
        does (.compactorGranule d) (s1.moveStops d v) ∧ does (.moveFinish d) (s1.moveStops d v)) ∧
      (v.stage = 1 → s.moveRec d v = (s1, .ok (some (e, r, i))) →
        (v.m < r.length →
          let va := r.base + 2 ^ 16 * v.m
          let old := translated va r.offset
          let new := translated va v.newOff
          let p := 276 + d
          let on (u : State) : State := { (u.mapped p).forget src with moves := tput u.moves d { v with m := v.m + 1 } }
          (∀ f ∈ s1.fills, f.asid = v.asid → f.gva = r.granuleVa (r.granule va) → f.begun = none ∧ f.hostAsked = false) →
          (r.partialRes = false ∨ s1.mapBit p r (r.granule va) = (s2, .ok true) →
            let w := if r.partialRes then s2 else s1
            does (.compactorGranule d) (on (((w.copyLines (old / 64) (new / 64) 1024).redirect v.asid va old new).settleGranule old))) ∧
          (r.partialRes = true → s1.mapBit p r (r.granule va) = (s2, .ok false) → does (.compactorGranule d) (on s2))) ∧
        (r.length ≤ v.m → s1.mayEdit src v.asid e i = true →
          let u := ((s1.rewalk v.asid).putRec e i { r with offset := v.newOff, moving := false, mdie := 0, gen := r.gen + 1 }).forget src
          let t := u.shoot v.asid (some (r.base, r.size)) none parties
          does (.moveFinish d)
            { t with moves := tput t.moves d { v with stage := 3, m := r.length, shoot := u.fresh, gen := (r.gen + 1).toNat } })) ∧
      (v.stage = 3 →
        let t := s.moveStatus d v.compl 0 v.gen
        let u := { t with moves := tdel s.moves d }
        does (.moveFinish d) (if v.retire then u.retireGranule v.granule else u))) ∧
    (∀ k m, s.bmsgs[k]? = some m →
      let u := { s with bmsgs := s.bmsgs.eraseIdx k }
      let b := (s.core m.core).bar m.bar
      let x := (m.ph - b.ph).toNat
      (m.flip = false → m.pkg = 0xFFFF →
        (b.c ≠ 0 → x ≤ b.a.toNat → x < 2 ^ 15 →
          does (.barrierParentArrival k)
            ((u.setBar m.core m.bar { b with kids := b.kids ++ [(m.fromCore, m.fromBar, m.ph)] }).arriveAt m.core m.bar x)) ∧
        (b.c ≠ 0 → b.a.toNat < x → x < 2 ^ 15 → does (.barrierParentArrival k) s) ∧
        ((b.c = 0 ∨ 2 ^ 15 ≤ x) → does (.barrierParentArrival k) u)) ∧
      (m.flip = false → m.pkg ≠ 0xFFFF →
        does (.barrierParentArrival k) { u with linkOut := u.linkOut ++ [(m.pkg.toNat, m.bytes, false)] }) ∧
      (m.flip = true → m.core < 1000 → does (.barrierFlipDown k) (u.flipDown m.core m.bar m.ph)) ∧
      (m.flip = true → 1000 ≤ m.core →
        does (.barrierFlipDown k) { u with linkOut := u.linkOut ++ [(m.core - 1000, m.bytes, false)] }))

/-! Kernels, the host and the device (R260 to R288, R443 to R445, R454 to R461, R468 to R482). -/

/-- R261, R263, R265, R271 to R288, R454 to R457, R461: events of the dispatcher. A queue's descriptor is read, and then the slot at its consumer
index: an illegal configuration and a producer too far ahead go to its error word; an empty slot or one that cannot be read is retired, a
record that fails a check is retired with the code, a well-formed one becomes the last of those held, and the consumer index goes up by a
store. A record all of whose conditions hold is ready, one of which a condition cannot hold is retired with the code. A waiting
record that nothing goes before is placed on slots that fit it; where there is no room, victims of lower priority are asked to leave. A row of
the code is reserved and loaded part by part. A placed strand whose rows are loaded starts at its entry with its arguments, a gang's on one
die together; a halted strand with nothing under way ends, and after the last of them the kernel, whose allotments are cleared and
whose queue's done count goes up by a request of the dispatcher; an eviction stops the strands, their images go to the save area, and a saved kernel
comes back. Completes: queueTake, recordReady, priorityAgeing, placement, rowLoad, strandStart, strandEnd, kernelEnd, gracePeriodExpiry, saveImageWrite,
kernelResume. -/
def Obligations.KernelEvents : Prop :=
  ∀ (s s1 : State) (k : Kernel) (n : Nat),
    let does (i : Instr) (u : State) : Prop := exec i s = .next u
    let t := s.strand n
    (∀ q bs w, q < 65536 →
      let src := takeSrc q
      (s.queueDesc src dispatcher q = (s1, .wait) → does (.queueTake q) s1) ∧
      (s.queueDesc src dispatcher q = (s1, .data bs false) →
        let cfg := word bs 1
        let prod := bits (word bs 2) 31 0
        let cons := bits (word bs 2) 63 32
        let lg := bits cfg 4 0
        let held := (prod + 2 ^ 32 - cons) % 2 ^ 32
        let slot := word bs 0 + 64 * (cons % 2 ^ lg)
        let idx := BitVec.ofNat 32 cons
        let legal : Prop := bits cfg 63 46 = 0 ∧ bits cfg 6 5 = 0 ∧ bits cfg 8 7 ≠ 3 ∧ lg ≤ 20
        (held = 0 → does (.queueTake q) (s1.forget src)) ∧
        (held ≠ 0 → s1.dramOk dispatcher true (s1.queueAt q) = true →
          (¬legal → does (.queueTake q) ((s1.forget src).queueError src q 9 0)) ∧
          (legal → bit cfg 10 = false → does (.queueTake q) (s1.forget src)) ∧
          (legal → bit cfg 10 = true → 2 ^ lg < held → does (.queueTake q) ((s1.forget src).queueError src q 8 idx)) ∧
          (legal → bit cfg 10 = true → held ≤ 2 ^ lg → 4096 ≤ s1.heldCount → does (.queueTake q) (s1.forget src)) ∧
          (legal → bit cfg 10 = true → held ≤ 2 ^ lg → s1.heldCount < 4096 →
            let took (x : State) : State := (x.forget src).queueWrite src q 20 (storeOp 4 (cons + 1))
            (s1.dramOk dispatcher false slot = false → does (.queueTake q) ((took s1).retireRecord src q 5 idx)) ∧
            (s1.dramOk dispatcher false slot = true →
              (∀ s2, s1.readZoned src slot 64 = (s2, .wait) → does (.queueTake q) s2) ∧
              (∀ s2, s1.readZoned src slot 64 = (s2, .data w true) → does (.queueTake q) ((took s2).retireRecord src q 5 idx)) ∧
              (∀ s2, s1.readZoned src slot 64 = (s2, .data w false) →
                let c := word w 0
                let stale : Prop := bits c 31 16 ≠ cons % 2 ^ 16 ∨ bits c 63 57 ≠ cons / 2 ^ 16 % 2 ^ 7
                (stale → does (.queueTake q) (s2.forget src)) ∧
                (¬stale → bits c 3 0 = 0 → does (.queueTake q) ((took s2).retireRecord src q 0 idx)) ∧
                (¬stale → bits c 3 0 ≠ 0 →
                  (∀ s3, s2.admission q idx cfg w = .wait s3 → does (.queueTake q) s3) ∧
                  (∀ s3 code, s2.admission q idx cfg w = .fail s3 code → does (.queueTake q) ((took s3).retireRecord src q code idx)) ∧
                  (∀ s3, s2.admission q idx cfg w = .ok s3 k →
                    let u := took s3
                    does (.queueTake q) { u with d := { u.d with kernels := u.d.kernels ++ [k], nextId := u.d.nextId + 1 } })))))))) ∧
    (s.kernel k.id = some k →
      (k.stage = 0 →
        (allCond k.conds s = .wait s1 → does (.recordReady k.id) s1) ∧
        (∀ b, allCond k.conds s = .ok s1 b → does (.recordReady k.id) (if b then (s1.unhold k).setKernel { k with stage := 1 } else s1)) ∧
        (∀ c, allCond k.conds s = .fail s1 c →
          let u := (s1.unhold k).retireRecord k.src k.queue c k.index
          does (.recordReady k.id) { u with d := { u.d with kernels := u.d.kernels.filter (fun x => x.id != k.id) } })) ∧
      (k.stage < 2 → k.sbound ≠ 0 → k.age < 4 → does (.priorityAgeing k.id) (s.setKernel { k with age := k.age + 1 })) ∧
      (s.waits k = true → k.isSaved = false → s.isTop k = true →
        (isK k.typ = true → s.placeable k [] = false → ∀ u, s.preempt k (fun freed => s.placeable k freed) = some u → does (.placement k.id []) u) ∧
        (∀ slots u,
          (k.stage = 2 ∧ u = s) ∨ (k.stage ≠ 2 ∧ (∀ x ∈ s.d.kernels, x.stage = 2 → x.id ≠ k.id → x.eff = k.eff → s.placeable x [] = false) ∧
            ∃ tbl q, s.nextRecord k.eff = some (k, tbl, q) ∧ u = { s with d := { s.d with
              deficit := tput tbl (65536 * k.eff + q) ((tget tbl (65536 * k.eff + q)).getD 0 - k.cost), served := tput s.d.served k.eff q } }) →
          (isK k.typ = true → slots ≠ [] → slots.length % k.unit = 0 → k.taken + slots.length ≤ k.strands →
            (k.gang = true → slots.length = k.strands) → (∀ m ∈ slots, s.fits k [] m = true) → k.shapeFits slots = true →
            does (.placement k.id slots) ((u.takeSlots k slots).endTurn k)) ∧
          (isK k.typ = false → does (.placement k.id []) ((u.startUnits k).endTurn k)))) ∧
      (t.kernel = k.id → t.phase = .placed → s.rowsIn k (coreOf n) = true →
        (k.gang = true → ∀ m ∈ k.placed, s.rowsIn k (coreOf m) = true) →
        let mates := if k.gang then k.placed.filter (fun m => dieOf (coreOf m) == dieOf (coreOf n) && (s.strand m).phase == .placed &&
          (s.strand m).kernel == k.id) else [n]
        does (.strandStart n) (mates.foldl (fun u m => u.start k m) s) ∧
        (s.start k n).strand n = k.fresh n t.rank ∧ (∀ m, m ≠ n → (s.start k n).strand m = s.strand m) ∧
        let x := k.fresh n t.rank
        x.phase = .running ∧ x.pc = k.codeBase + BitVec.ofNat 64 k.entry ∧ x.sys.asid = k.asid ∧ x.sys.priv = false ∧ x.flights = [] ∧
        x.e.cmds = [] ∧ (∀ i, i < k.args.length → i < 31 → vAt x.r.g (i + 1) = { val := k.args.getD i 0, poison := false }) ∧
        (∀ i, k.args.length < i → i < 32 → vAt x.r.g i = { val := 0, poison := false })) ∧
      (t.kernel = k.id → t.phase = .halted → t.flights = [] → t.e.cmds = [] → (t.e.faults = [] ∨ t.sys.priv = true) →
        let u := ((s.endRun n).quit n).modStrand n (fun t => t.ends)
        u.kernel k.id = some k → does (.strandEnd n) (u.setKernel { k with ended := k.ended ++ [n], endNo := u.fresh })) ∧
      (2 ≤ k.stage → s.pending k = false → s.accepted k = false →
        (isK k.typ = true → (k.hostEnd = true ∨ k.taken = k.strands) ∧ k.ended.length = k.placed.length) → (isK k.typ = false → k.nmus = []) →
        let u := ((k.held.foldl (fun (x : State) c =>
          (x.clearAllot k c).modCore c (fun y => { y with rows := y.rows.filter (fun r => r.kernel != k.id) })) s).forget k.src).queueDone
            k.src k.queue
        does (.kernelEnd k.id) { u with d := { u.d with kernels := u.d.kernels.filter (fun x => x.id != k.id) } }) ∧
      (k.evict = .requested →
        let mine := k.placed.filter (fun m => (s.strand m).kernel == k.id)
        (∀ m ∈ mine, (s.strand m).phase = .running → (s.strand m).entering = false ∧ (s.strand m).stepDue = none) →
        does (.gracePeriodExpiry k.id) ((mine.foldl (fun (x : State) m => x.evictStrand k m) s).setKernel { k with evict := .forced })) ∧
      (let left := k.leftSlots
       (∀ m, left.find? (fun n => (s.strand n).mustSettle) = some m → does (.saveImageWrite k.id) (s.setStrand m (s.strand m).settle)) ∧
       ((∀ m ∈ left, (s.strand m).mustSettle = false) →
        let gives (n : Nat) : Bool := (s.strand n).leaving && (s.strand n).rests && (s.core (coreOf n)).holder == some (n % 2)
        (∀ m, left.find? gives = some m → does (.saveImageWrite k.id) (s.endRun m)) ∧
        (∀ a u, (∀ m ∈ left, gives m = false ∧ (s.strand m).leaving = true ∧ (s.strand m).rests = true ∧ s.awaited m = false) →
          k.evict = .requested ∨ k.evict = .forced → (left = [] → k.stage ≠ 3) → s.accepted k = false →
          (∀ c ∈ k.cores, ∀ b, b < 32 → k.spmask.getLsbD b = true → ((s.core c).bank b).waking = none ∧ ((s.core c).bank b).drops = []) →
          (∀ x ∈ s.bmsgs, x.pkg = 0xFFFF → x.core ∈ k.cores → k.barmask.getLsbD x.bar = false) →
          let bytes := s.images k
          s.saveSpace bytes.length = some a → s.dispSpan true a bytes.length = true →
          s.putSegs k.src 0 (whole bytes) [{ sp := .dram, pa := a, len := bytes.length, va := 0, off := 0 }] = some u →
          does (.saveImageWrite k.id) (s.saveAt k a bytes.length u)))) ∧
      (∀ a size, k.evict = .saved a size → k.hostEnd = false → s.isTop k = true → (∀ m ∈ k.leftSlots, (s.strand m).phase = .idle) →
        (∀ c ∈ k.cores, s.compatible k [] c = true) → s.dispSpan false a size = true →
        let part : List Seg := [{ sp := .dram, pa := a, len := size, va := 0, off := 0 }]
        (s.getSegs k.src 0 part = (s1, none) → does (.kernelResume k.id) s1) ∧
        (∀ bs, s.getSegs k.src 0 part = (s1, some bs) →
          ((∃ b ∈ bs, b.2 = true) → does (.kernelResume k.id) (s1.forget k.src)) ∧
          ((∀ b ∈ bs, b.2 = false) →
            let q := ((s1.forget k.src).setKernel { k with evict := .none, owed := [], steps := [] }).restoreStrands k k.leftSlots
              (bs.map (fun b => b.1))
            does (.kernelResume k.id) ((q.1.restoreCores k k.cores q.2).rejoin k))))) ∧
    (∀ row x, n < numStrands → s.rowFor n row = some k →
      let c := coreOf n
      let here := ((s.core c).rowsOf k.id).find? (fun r => r.n == row)
      (∀ r f, here = some r → r.fault.find? (fun f => f.2.2.1 == 0) = some f → does (.rowLoad n row) (s.loadPart n k row f)) ∧
      (here = none → s.rowRoom c k row ((t.pc.toNat - k.codeBase.toNat) / 4096) = some x →
        let a := k.codeBase + BitVec.ofNat 64 (4096 * row)
        let len := min 4096 (k.codeLen - 4096 * row)
        let one := min len (0x10000 - a.toNat % 0x10000)
        does (.rowLoad n row) (s.modCore c (fun y => { y with
          rows := x.rows ++ [{
            kernel := k.id, n := row, code := [], last := y.fetchNo
            fault := (0, one, 0, a) :: (if one < len then [(one, len - one, 0, a + BitVec.ofNat 64 one)] else []) }] }))))

/-- R254, R410, R422, R443 to R445, R468 to R471, R473, R474, R476, R479: what the host, the monitor, the service firmware and the peers do. A write
of a management register by its writer of a legal value stores it, a refused one is logged and changes no register; the words of the zone
table are gathered and become the device's table together; an answer meets the open request of its kind and tag; the driver resumes a
stopped strand as a return from its trap would, ends a kernel, and reads, writes and changes device memory by requests of the host port, of which
those lines are sent that the tables grant it, as a peer's by requests of its port; when all of a read has come it is answered; the
firmware moves the oldest request into the ring. Completes: managementRegisterWrite, budgetRefresh, nabortWrite, answerWalk, answerFill, answerFlip,
strandWindowWrite, hostResume, hostEndKernel, hostMemoryRead, hostMemoryWrite, hostAtomicop, hostRequestMessage, linkRequest, portFailure. -/
def Obligations.HostAndPeerEvents : Prop :=
  ∀ (s : State) (m : MgMaster) (off : Nat) (v : Word),
    let does (i : Instr) (u : State) : Prop := exec i s = .next u
    (m ≠ .service → off ≠ 0x160 → inArray off 0x6000 8 128 = false → inZones off = false → off < 0x100000 →
      (s.mgTakes m off v = true → does (.managementRegisterWrite m off v) ((s.setMgr off v).mgFollow off) ∧
        ((s.setMgr off v).mgFollow off).mgr off = v ∧ ∀ k, k ≠ off → ((s.setMgr off v).mgFollow off).mgr k = s.mgr k) ∧
      (s.mgTakes m off v = false → does (.managementRegisterWrite m off v) (s.report 470 off v.toNat) ∧
        (s.report 470 off v.toNat).mg = s.mg)) ∧
    (inZones off = true → m ≠ .service →
      (m ≠ .monitor ∨ s.t.booted = true → does (.managementRegisterWrite m off v) (s.report 470 off v.toNat)) ∧
      (m = .monitor → s.t.booted = false →
        let t := tput s.t.staged off v
        (off ≠ 0x50F8 → does (.managementRegisterWrite m off v) { s with t := { s.t with staged := t, booted := false } }) ∧
        (off = 0x50F8 → (s.putZones t).zonesOk = true →
          does (.managementRegisterWrite m off v) (({ s with t := { s.t with zones := t, staged := [], booted := true } } : State).putZones t)) ∧
        (off = 0x50F8 → (s.putZones t).zonesOk = false → does (.managementRegisterWrite m off v)
          ((({ s with t := { s.t with staged := [], booted := true } } : State).putZones s.t.zones).report 470 off v.toNat)))) ∧
    (m = .host → wbit (s.mgr 0x1000) 1 = false →
      ∃ u, exec (.budgetRefresh m v) s = .next u ∧ u.m.watchdog = false ∧ u.mgr 0x1010 = v ∧ u.strands = s.strands) ∧
    (∀ u, u < 128 → m = .host → v = 1 → (s.nmu u).run.isSome = true →
      does (.nabortWrite m u v) (s.modNmu u (fun x => { x with abort := true }))) ∧
    (∀ tag idx a, (s.openAsk 1 tag = some a → does (.answerWalk tag idx)
        { s.closeAsk a with walks := s.walks.map (fun (w : Walk) =>
            if w.id == a.tag then (if idx == 0xFFFFFFFF then { w with late := true } else { w with ans := some idx }) else w) }) ∧
      (∀ f, s.openAsk 2 tag = some a →
        s.fills.find? (fun (f : Fill) => f.hostAsked && f.asid.setWidth 64 == a.a && f.gva == a.b.toNat) = some f →
        does (.answerFill tag v) ((s.closeAsk a).endFill f (if v = 0 then none else some 0x12))) ∧
      (s.openAsk 4 tag = some a → does (.answerFlip tag) ((s.closeAsk a).flipDown (a.bar / 128) (a.bar % 128) (a.b.setWidth 16))) ∧
      (s.openAsk 1 tag = none → does (.answerWalk tag idx) s)) ∧
    (∀ n, n < numStrands → (s.strand n).phase = .hostStop →
      let t := s.strand n
      (∀ i, 1 ≤ i → i < 32 → ∃ u, exec (.strandWindowWrite .host n (0x200 + 8 * i) v) s = .next u ∧ OnlyStrand n s u ∧
        u.strand n = t.setG i { val := v, poison := (vAt t.r.g i).poison }) ∧
      (∀ r, r < 64 → sysThere r = true → r ≠ 0x009 → t.sysBad r v = false →
        does (.strandWindowWrite .host n (8 * r) v) (s.setStrand n (t.writeSys r v))) ∧
      ∃ u, exec (.hostResume n) s = .next u ∧ OnlyStrand n s u ∧ u.strand n = { t.returnFrom with phase := .running }) ∧
    (∀ k, s.kernel k.id = some k → isK k.typ = true → 2 ≤ k.stage → k.hostEnd = false →
      (k.isSaved = true →
        does (.hostEndKernel k.id) (s.setKernel { k with hostEnd := true, stage := 3, owed := [], placed := [], ended := [] })) ∧
      (k.isSaved = false → ∃ u, exec (.hostEndKernel k.id) s = .next u ∧
        ∀ n ∈ k.leftSlots, (s.strand n).kernel = k.id → (s.strand n).phase ≠ .idle →
          (u.strand n).phase = .halted ∧ (u.strand n).e.cmds = [] ∧ (u.strand n).r = (s.strand n).r)) ∧
    (let sends (src : Src) (by_ pa len : Nat) : State :=
       let gs := outSegs pa len
       let x : Gather := { id := s.fresh, src := src, sp := .dram, pa := pa, len := len, need := gs.length, raw := [], bad := [] }
       if gs.all (fun g => s.dramOk by_ false g.pa) then
         { s with gathers := s.gathers ++ [x], fresh := s.fresh + 1 }.sendAll (gs.map (fun (g : Seg) => mkReq src (.load g.off) g 0 s.fresh))
       else s.respond src none
     let puts (src : Src) (by_ pa : Nat) (data : List Byte) (poison : Bool) : State :=
       let gs := outSegs pa data.length
       let ok := gs.filter (fun g => s.dramOk by_ true g.pa)
       let u := (gs.filter (fun g => !s.dramOk by_ true g.pa)).foldl (fun (x : State) g => x.report 469 by_ g.pa) s
       u.sendAll (if poison then ok.map (fun g => mkReq src (.poisoned ((data.drop g.off).take g.len)) g 0 0)
         else storeReqs src 0 (u.fresh + 1) (whole data) ok)
     let acts (src : Src) (by_ : Nat) (op : AtomOp) (w pa b c : Nat) (ret : Bool) : State :=
       let r := mkReq src (.atom op (BitVec.ofNat 128 b) (BitVec.ofNat 128 c) ret) { sp := .dram, pa := pa, len := w, va := 0, off := 0 } 0 s.fresh
       let x : Gather := { id := s.fresh, src := src, sp := .dram, pa := pa, len := w, need := 1, raw := [], bad := [] }
       if pa % w = 0 ∧ s.dramOk by_ true pa = true then
         { s with gathers := if ret then s.gathers ++ [x] else s.gathers, fresh := s.fresh + 1 }.send r
       else if ret then s.respond src none else s.report 469 by_ pa
     (∀ pa len, len ≠ 0 → pa % 4096 + len ≤ 4096 → does (.hostMemoryRead pa len) (sends hostSrc hostPort pa len)) ∧
     (∀ pa data poison, data ≠ [] → data.length ≤ 512 → pa % 4096 + data.length ≤ 4096 →
       does (.hostMemoryWrite pa data poison) (puts hostSrc hostPort pa data poison)) ∧
     (∀ d pa a b, let w := if d then 8 else 4
       let low (x : Word) : Nat := x.toNat % 2 ^ (8 * w)
       does (.hostAtomicop .fetchAdd d pa a b) (acts hostSrc hostPort .add w pa (low a) 0 true) ∧
       does (.hostAtomicop .swap d pa a b) (acts hostSrc hostPort .xchg w pa (low a) 0 true) ∧
       does (.hostAtomicop .cas d pa a b) (acts hostSrc hostPort .cas w pa (low b) (low a) true)) ∧
     (∀ port, port < 18 → s.ports.getLsbD port = true →
       (∀ pa data poison, data ≠ [] → does (.linkRequest port (.write pa data poison)) (puts (linkSrc port) (linkPort port) pa data poison)) ∧
       (∀ pa len, len ≠ 0 → does (.linkRequest port (.read pa len)) (sends (linkSrc port) (linkPort port) pa len)) ∧
       (∀ op o w pa b c ret, atomNo op = some o →
         (w = 4 ∧ o ≠ .fadd64) ∨ (w = 8 ∧ o ≠ .fadd32) ∨ (w = 16 ∧ o = .cas) →
         does (.linkRequest port (.atomic op w pa b c ret)) (acts (linkSrc port) (linkPort port) o w pa (b % 2 ^ (8 * w)) (c % 2 ^ (8 * w)) ret)) ∧
       (∀ core bar ph, core < numCores → bar < 128 →
         does (.linkRequest port (.flip core bar ph)) (s.flipDown core bar ph) ∧
         ∀ child, does (.linkRequest port (.arrive core bar ph child)) { s with
           bmsgs := s.bmsgs ++
             [{ flip := false, pkg := 0xFFFF, core := core, bar := bar, fromCore := remoteKid port, fromBar := child, ph := ph }] }) ∧
       (let u := { s with ports := s.ports &&& ~~~BitVec.ofNat 18 (2 ^ port) }
        (∀ r ∈ s.net, r.sp = .peer → r.op.isOrder = true ∨ u.peerOk (bits r.pa 51 40) = true) →
        (∀ w ∈ s.waiters, w.sp = .peer → w.sat.isSome = true ∨ u.peerOk (bits w.pa 51 40) = true) → does (.portFailure port) u))) ∧
    (∀ x bs bad, x ∈ s.gathers → (∀ y ∈ s.gathers, y.id = x.id → y = x) → x.need = 1 →
      let raw := writeBytes x.raw off bs
      let all := x.bad ++ bad.map (fun i => off + i)
      let u := { s with gathers := s.gathers.filter (fun y => y.id != x.id) }
      let data := dense raw x.len
      (x.src = hostSrc → s.gathered x.id off bs bad = { u with hostOut := s.hostOut ++ [some (data, !all.isEmpty)] }) ∧
      (∀ port, port < 18 → x.src = linkSrc port →
        s.gathered x.id off bs bad = { u with linkOut := s.linkOut ++ [(port, data, !all.isEmpty)] })) ∧
    (∀ a, s.nextAsk = some a → s.t.recovery = false →
      let base := (s.mgr 0x140).toNat % 2 ^ 52
      let at' := base + 32 * ((s.mgr 0x150).toNat % 2 ^ (wbits (s.mgr 0x148) 5 0))
      base ≠ 0 → (s.mgr 0x150 - s.mgr 0x158).toNat < 2 ^ (wbits (s.mgr 0x148) 5 0) → (∃ i, i < 4 ∧ s.hostOk (278 + i) true at' 32 = true) →
      let u := (s.writeAt .host at' a.bytes false).setMgr 0x150 (s.mgr 0x150 + 1)
      does .hostRequestMessage { u with msix := u.msix ||| 1, asks := sentAsk a u.asks })

/-- R420, R477, R480 to R482: events of the device. Droop, current and heat change the states that stretch clocks; a trip loses every
register and memory content of the part and only a reset acts after it; a reset leaves the part as State.reset has it, but for what lies outside the part, its
fuses and the lists that firmware keeps; a verified image not older than the fuses allow is taken, and firmware that does not report
ready gives way to the recovery image; an attestation request is answered. Completes: droop, currentLimit, stackHot, thermalTrip, deviceReset, getVersion, getCapabilities,
negotiateAlgorithms, getDigests, getCertificate, challenge, getMeasurements, railRecovery, hotStateEnd, firmwareUpdate, firmwareReadyTimeout. -/
def Obligations.DeviceEvents : Prop :=
  ∀ (s : State),
    let does (i : Instr) (u : State) : Prop := exec i s = .next u
    let lost (u : State) : Prop := u.strands = [] ∧ u.cores = [] ∧ u.nmus = [] ∧ u.dram = [] ∧ u.chip = [] ∧ u.net = [] ∧ u.waiters = [] ∧
      u.d = State.reset.d ∧ u.acl = [] ∧ u.host = s.host ∧ u.peer = s.peer ∧ u.log = s.log ∧ u.t.fused = s.t.fused
    (∀ die, die < 2 → let b : BitVec 2 := BitVec.ofNat 2 (2 ^ die)
      does (.droop die) { s with t := { s.t with droop := s.t.droop ||| b } } ∧
      does (.currentLimit die) { s with t := { s.t with current := s.t.current ||| b } } ∧
      does (.railRecovery die) { s with t := { s.t with droop := s.t.droop &&& ~~~b, current := s.t.current &&& ~~~b } }) ∧
    (∀ k, k < 8 → let b : BitVec 8 := BitVec.ofNat 8 (2 ^ k)
      does (.stackHot k) { s with m := { s.m with hot := s.m.hot ||| b }, msix := s.msix ||| 4 } ∧
      does (.hotStateEnd k) { s with m := { s.m with hot := s.m.hot &&& ~~~b } }) ∧
    (∀ c, ∃ u, exec (.thermalTrip c) s = .next u ∧ lost u ∧ u.t.zones = [] ∧ u.t.tripped = some c ∧ ∀ x, x ≠ .event .deviceReset → makeMove x u = .next u) ∧
    (∃ u, exec .deviceReset s = .next u ∧ lost u ∧ u.t.zones = s.t.zones ∧ u.t.tripped = none ∧ u.m.retired = s.m.retired ∧
      u.t.monitor = s.t.monitorNext.getD s.t.monitor ∧ u.t.recovery = false ∧
      (s.t.tripped = none → u.mg = []) ∧ (∀ c, s.t.tripped = some c → u.mgr 8 = BitVec.ofNat 64 (3 + 16 * c.toNat))) ∧
    (∀ a, does (.firmwareUpdate a) (match Config.imageVersion a s.dram with
      | none => s
      | some (monitor, v) =>
        if v < s.t.fused then s
        else if monitor then { s with t := { s.t with monitorNext := some v, fused := v } }
        else { s with t := { s.t with version := v, fused := v, starting := true, recovery := false } })) ∧
    (s.t.starting = true → does .firmwareReadyTimeout { s with t := { s.t with starting := false, recovery := true } }) ∧
    (let no (i : Instr) (k : Nat) : Prop := does i
        { s with t := { s.t with spdm := s.t.spdm ++ [(k, Config.spdm k s.t.spdmCount)], spdmCount := s.t.spdmCount + 1 } }
     no .getVersion 0 ∧ no .getCapabilities 1 ∧ no .negotiateAlgorithms 2 ∧ no .getDigests 3 ∧ no .getCertificate 4 ∧ no .challenge 5 ∧
     no .getMeasurements 6)

/-! The machine as a whole: reset, fetch and decode, guards, frames, and the invariant. -/

/-- R16, R18, R232 to R235, R470, R476: the part after a device reset: nothing runs, nothing is under way, every memory in its canonical
form. A strand's registers read as R233 lays down for a launch, but for its banks, which R281 has off; the device's own registers read their
resets. What the spec gives no value is 0: the model's choice (log entries 8 and 9). -/
def Obligations.ResetState : Prop :=
  let s := State.reset
  s.memOk ∧ s.net = [] ∧ s.waiters = [] ∧ s.d.kernels = [] ∧ s.t.tripped = none ∧
  (∀ n, (s.strand n).phase = .idle ∧ (s.strand n).e.cmds = [] ∧ (s.strand n).flights = [] ∧ (s.strand n).e.leaseN = 1 ∧
    (s.strand n).e.divA = 2 ∧ (s.strand n).e.divC = 2 ∧ (s.strand n).e.divS = 2 ∧ (s.strand n).sys.priv = false ∧
    (∀ r : GReg, (s.strand n).g r = { val := 0, poison := false }) ∧
    (∀ p : PRegNo, (s.strand n).p p = { val := if p = 0 then BitVec.allOnes 1024 else 0, poison := false }) ∧
    (∀ i, i < 32 → (s.strand n).r.live.getLsbD i = false ∧ (s.strand n).bankOff i = true) ∧
    (∀ i, i < 16 → (vAt (s.strand n).r.tiles i).written = false) ∧
    (∀ k, k < 4 → vAt (s.strand n).r.sh k = { m := 64, n := 64, k := 64, ta := false, tb := false } ∧
      vAt (s.strand n).r.shadow k = vAt (s.strand n).r.sh k) ∧
    s.sysRead n 0x000 = BitVec.ofNat 64 (n / 2 * 256 + n % 2) ∧ s.sysRead n 0x006 = 1 ∧
    (s.sysRead n 0x00E).extractLsb' 16 16 = 256 ∧ s.sysRead n 0x00F = 0 ∧
    (∀ r ∈ [0x001, 0x002, 0x003, 0x004, 0x005, 0x007, 0x008, 0x009, 0x00A, 0x00B, 0x00C, 0x00D, 0x010, 0x020, 0x021, 0x022, 0x023, 0x024,
            0x025, 0x026, 0x027, 0x028, 0x031, 0x032], s.sysRead n r = 0)) ∧
  (∀ u, (s.nmu u).run = none ∧ (s.nmu u).queue = [] ∧ (∀ a, memGet (s.nmu u).ws a = 0) ∧ (∀ k, s.acc u k = Acc.reset)) ∧
  s.mgr 0x1000 = 6 ∧ s.mgr 0x1008 = 2900

/-- The memory's canonical form is kept: from any state in which every memory of the package has its canonical form (addresses strictly
rising, no entry that reads as an unlisted byte does), whatever step the machine makes, every memory still has it. -/
def Obligations.StepKeepsMemoryForm : Prop :=
  ∀ s t : State, s.memOk → step s = .next t → t.memOk

/-- R21 to R30, R37 to R45, R239: decode and encode agree. A well-formed strand instruction encodes, with the end bit that is asked for, to a
syllable that decodes to it and to no other; a syllable that decodes is the encoding of the well-formed instruction it decodes to, so that
no bit of it is dropped; the words of a well-formed near-memory instruction decode to it, whatever words follow. -/
def Obligations.DecodeEncodeAgree : Prop :=
  (∀ (e : Bool) (i : Instr) (w : Word), WellFormed i = true → encodeSyllable e i = some w → decodeSyllable w = .ok i ∧ syllEnd w = e) ∧
  (∀ i : Instr, guardOf i ≠ none → ∀ e, encodeSyllable e i ≠ none) ∧
  (∀ (w : Word) (i : Instr), decodeSyllable w = .ok i → encodeSyllable (syllEnd w) i = some w ∧ WellFormed i = true) ∧
  (∀ (i : Instr) (ws : List NmWord), WellFormed i = true → encodeNm i ≠ [] → decodeNm (encodeNm i ++ ws) = some (i, ws))

/-- R13 to R18, R45, R77, R280: a step runs the decoded instruction. With the move at the head of the plan: a strand that runs, with no trap due at the
boundary and no delay to wait out, whose fetch finds a framed bundle without conflict, every syllable of which decodes and may run in
its privilege state, runs those instructions: one syllable is `exec` of it, with the row noted as fetched and the bundle's length
set, so that its end moves the pc past it; of two each of which can issue, the second follows the first. A fetch that misses holds; a fetch
that faults, an illegal bundle, an unassigned opcode and an illegal operand trap with their causes. The syllable fetched at an address
of the kernel's code is the little-endian word of the loaded row. A unit that runs a kernel runs the word its pc names, and an event is
its meaning. -/
def Obligations.StepRunsDecoded : Prop :=
  (∀ (s : State) m ms, s.sched = m :: ms → nextMove s = (m, { s with sched := ms })) ∧
  (∀ (s s0 : State), s.t.tripped = none → s0.t.tripped = none →
    (∀ n, nextMove s = (.strand n, s0) → n < numStrands → (s0.strand n).phase = .running →
      let u := prelude n s0
      u.me.entering = false → boundary u = none → u.me.readyAt ≤ u.me.clock →
      (∀ ws is, u.fetch n = .ok ws → framed ws = true → conflicts u.me ws = false → ws.map decodeSyllable = is.map Except.ok →
        (∀ i ∈ is, needsPriv i = true → u.me.sys.priv = true) → step s = runBundle (u.noteFetch n ws.length) is) ∧
      (∀ row, u.fetch n = .miss row → step s = .next (held u)) ∧
      (∀ c va, u.fetch n = .fault c va → step s = .next (trapped (u.reported n) { cause := c, tva := va })) ∧
      (∀ ws, u.fetch n = .ok ws → framed ws = false ∨ conflicts u.me ws = true →
        step s = .next (trapped (u.noteFetch n ws.length) { cause := 0x02 })) ∧
      (∀ w, u.fetch n = .ok [w] →
        (decodeSyllable w = .error .opcode → step s = .next (trapped (u.noteFetch n 1) { cause := 0x01 })) ∧
        (decodeSyllable w = .error .operand → step s = .next (trapped (u.noteFetch n 1) { cause := 0x03 })))) ∧
    (∀ u i ws, nextMove s = (.nmu u, s0) → u < numNmus → (s0.nmu u).run.isSome = true → decodeNm (s0.nmu u).nextWords = some (i, ws) →
      step s = exec i { s0 with unit := u }) ∧
    (∀ i, nextMove s = (.event i, s0) → isEvent i = true → step s = exec i s0)) ∧
  (∀ (s : State) (i : Instr), runBundle s [i] = exec i (s.setMe { s.me with blen := 1, more := false, iss := .none })) ∧
  (∀ (s u v : State) (i j : Instr) r, isWfe i = false → isWfe j = false →
    let s0 := s.setMe { s.me with blen := 2, more := true, iss := .none }
    exec i s0 = .next u → u.me.iss = .issued → exec j s0 = .next v → v.me.iss = .issued →
    let x := u.setMe { u.me with iss := .none }
    exec j (x.setMe { x.me with more := false, iss := .none }) = .next r → r.me.iss = .issued → runBundle s [i, j] = .next r) ∧
  (∀ (s : State) (n : Nat) (k : Kernel) (r : Row) (a : Word), s.kernel (s.strand n).kernel = some k → winOf a = .d →
    k.codeBase.toNat ≤ a.toNat → a.toNat + 8 ≤ k.codeBase.toNat + k.codeLen →
    let o := a.toNat - k.codeBase.toNat
    s.rowOf n (o / 4096) = some r → r.fault = [] →
    s.fetchOne n a = .ok (BitVec.ofNat 64 (readNat r.code (o % 4096) 8)))

/-- R21 to R25, R30, R40 to R44: what a few words stand for, written out from their encodings; the first two are the spec's own example. -/
def Obligations.SampleWordsDecode : Prop :=
  let p0 : Guard := { p := 0, neg := false }
  -- add g5, g6, g7: E 0, class 00, opcode 0x01, gd 5, ga 6, gb 7
  decodeSyllable 0x0020298E00000000 = .ok (.add p0 ⟨5, 6, .reg 7⟩) ∧ syllEnd 0x0020298E00000000 = false ∧
  -- (p2) vadd.f32 v4, v5^, q1: E 1, class 01, opcode 0x01, vd 4, va 5, vb 33, lua 1
  decodeSyllable 0xA024010584080000 =
    .ok (.vadd { p := 2, neg := false } ⟨.f32, .rne, false, 4, ⟨5, true⟩, ⟨33, false⟩⟩) ∧ syllEnd 0xA024010584080000 = true ∧
  -- li g1, #-1: E 1, class 00, opcode 0x24, gd 1, I 1, imm all ones
  decodeSyllable (0x8000000000000000 + 0x24 * 2 ^ 53 + 1 * 2 ^ 43 + 2 ^ 32 + 0xFFFFFFFF) = .ok (.li p0 1 0xFFFFFFFF) ∧
  -- (!p3) halt: opcode 0x37, guard 3 negated
  decodeSyllable (0x8000000000000000 + 0x37 * 2 ^ 53 + 3 * 2 ^ 49 + 2 ^ 48) = .ok (.halt { p := 3, neg := true }) ∧
  -- lease #64: class 10, opcode 0x08, aux 64
  decodeSyllable (0x8000000000000000 + 2 * 2 ^ 61 + 0x08 * 2 ^ 55 + 64) =
    .ok (.lease { g := p0, tkw := 0, tks := 0, swap := false, sh := 0 } 64) ∧
  -- fence.co: class 11, opcode 0x38, scope 1
  decodeSyllable (0x8000000000000000 + 3 * 2 ^ 61 + 0x38 * 2 ^ 53 + 1 * 2 ^ 30) = .ok (.fence p0 .co) ∧
  -- reserved: opcode 0x00 of every class, guard p0 negated, a set bit of an unused field
  (∀ c : BitVec 2, decodeSyllable (1#1 ++ c ++ 0#61) = .error .opcode) ∧
  decodeSyllable (0x8000000000000000 + 0x38 * 2 ^ 53 + 2 ^ 48) = .error .opcode ∧
  decodeSyllable (0x8000000000000000 + 0x38 * 2 ^ 53 + 1) = .error .opcode ∧
  -- vadd with an outbound port as a source: illegal operand
  decodeSyllable (0x8000000000000000 + 1 * 2 ^ 61 + 0x01 * 2 ^ 53 + 4 * 2 ^ 38 + 39 * 2 ^ 32 + 6 * 2 ^ 26) = .error .operand ∧
  -- near-memory words: lit #5; litx of two words, sign-extended; add; end
  decodeNm [0x8005, 7] = some (.lit 5, [7]) ∧ decodeNm [0x0405, 0x0001, 0x8000, 9] = some (.litx 1 true 0x80000001, [9]) ∧
  decodeNm [0x1800] = some (.nmAdd, []) ∧ decodeNm [0x7000] = some (.nmEnd, []) ∧ decodeNm [0x7C00] = none

/-- R19, R20, R290, R39: the guard of a syllable. A guard of p0 with negate 1 is illegal opcode in every class. A syllable whose guard register
has a result outstanding holds; one that is inactive has no effect: it issues as a `nop` does. A privileged syllable in user state is the
exception: it traps whatever its guard holds. -/
def Obligations.GuardsDecide : Prop :=
  (∀ w : Word, (syllClass w ≠ 2 → w.extractLsb' 48 5 = 1 → decodeSyllable w = .error .opcode) ∧
    (syllClass w = 2 → w.extractLsb' 50 5 = 1 → decodeSyllable w = .error .opcode)) ∧
  ∀ (s : State) (i : Instr) (g : Guard), guardOf i = some g → needsPriv i = false ∨ s.me.sys.priv = true →
    (s.me.busy [.p (s.me.pp g.p.toNat)] = true → exec i s = .next (held s)) ∧
    (s.me.busy [.p (s.me.pp g.p.toNat)] = false → s.me.active g = false → exec i s = .next (conclude s))

/-- Where a scalar form sends its result. -/
def scalarDest (t : Strand) : Instr → Option Dst
  | .add _ o | .sub _ o | .mul _ o | .mulh _ o | .mulhu _ o | .div _ o | .divu _ o | .rem _ o | .remu _ o | .and _ o | .or _ o | .xor _ o
  | .andn _ o | .shl _ o | .shr _ o | .sra _ o | .rot _ o | .min _ o | .max _ o | .minu _ o | .maxu _ o | .winq _ o | .sel _ o _ _ =>
    some (.g o.gd.toNat)
  | .abs _ o | .clz _ o | .ctz _ o | .popc _ o | .bswap _ o _ => some (.g o.gd.toNat)
  | .addi _ gd _ _ _ | .bfx _ gd _ _ _ _ | .bfi _ gd _ _ _ _ | .fsh _ gd _ _ _ | .li _ gd _ | .lih _ gd _ _ | .lea _ gd _ _ _ _
  | .movpToScalar _ gd _ _ | .pcnt _ gd _ | .pany _ gd _ | .shget _ gd _ _ _ | .sysr _ gd _ | .fcvt _ gd _ _ _ _ _ => some (.g gd.toNat)
  | .fadd _ o | .fsub _ o | .fmul _ o | .ffma _ o _ => some (.g o.gd.toNat)
  | .cmp _ pd _ _ _ | .movpToPredicate _ pd _ _ | .psetPredicate _ pd _ | .pnot _ pd _ | .fcmp _ pd _ _ _ _ => some (.p (t.pp pd.toNat))
  | .pand _ o | .por _ o | .pxor _ o => some (.p (t.pp o.pd.toNat))
  | _ => none

/-- A vector form that works on registers and ports. -/
def vectorForm : Instr → Bool
  | .vadd _ _ | .vsub _ _ | .vmul _ _ | .vfma _ _ | .vfms _ _ | .vmin _ _ | .vmax _ _ | .vabs _ _ | .vneg _ _ | .vclamp _ _ | .vand _ _
  | .vor _ _ | .vxor _ _ | .vnot _ _ _ | .vshl _ _ | .vshr _ _ | .vsra _ _ | .vrot _ _ | .vpopc _ _ | .vclz _ _ | .vbfx _ _ _ _ _ _ _
  | .vfsh _ _ _ _ _ _ | .vcmp _ _ _ _ _ _ | .vsel _ _ _ _ | .vmov _ _ _ | .vli _ _ _ | .vbcs _ _ _ _ | .vmovpToVector _ _ _
  | .vmovpToPredicate _ _ _ | .vptest _ _ _ | .vpclr _ _ _ | .vcvt _ _ _ _ | .vpack _ _ _ _ _ | .vunpk _ _ _ _ _
  | .vquant _ _ _ _ _ _ _ | .vdeq _ _ _ _ _ _ | .vrcp _ _ | .vrsq _ _ | .vsqrt _ _ | .vexp2 _ _ | .vlog2 _ _ | .vtanh _ _ | .vrotr _ _
  | .vrotc _ _ | .vbcr _ _ | .vbcc _ _ | .vredr _ _ | .vredc _ _ | .vscanr _ _ | .vtrn _ _ _ => true
  | _ => false

/-- Nothing of the machine but the acting strand differs, and what has been read for it or it waits for. -/
def OnlyMine (s t : State) : Prop :=
  { t with strands := s.strands, gathers := s.gathers, denials := s.denials, walks := s.walks, fills := s.fills } = s ∧
  ∀ n, n ≠ s.cur → t.strand n = s.strand n

/-- Forms that ask a home to store: a scalar or vector store, an atomic, a contribution to an accumulator, a semaphore's add. -/
def storingForm : Instr → Bool
  | .st _ _ _ | .strel _ _ _ _ _ _ | .vst _ _ _ _ _ | .vscat _ _ _ _ _ | .redx _ _ _ | .sems _ _ _ _
  | .aadd _ _ | .aand _ _ | .aor _ _ | .axor _ _ | .amin _ _ | .amax _ _ | .aminu _ _ | .amaxu _ _ | .axchg _ _ | .acas _ _ _
  | .acas2 _ _ _ _ _ _ _ | .afadd _ _ => true
  | _ => false

/-- R16, R104, R90, R186, R193, R318: frames at issue. A scalar form that answers a next state in which it has not trapped leaves every register file,
every system register but the generator's state, the deadline that counts down with time and the interlock bit that clears,
every engine, every other strand and every byte of memory as it was, and nothing else of the machine but what had been read for the strand: its result is on its way to its destination, and nowhere else. A vector form may besides pop its ports, wake banks, and
change which vector registers are live; no register's contents change before its result lands. A storing form changes no byte of any memory at issue,
where no soft error stands in device memory: the store is a request on its way, which a home performs (ChipStorePerformed). -/
def Obligations.IssueFrames : Prop :=
  (∀ (s t : State) (i : Instr), s.me.pend = [] → exec i s = .next t → t.me.iss ≠ .trapped →
     let kept : Prop := SameMemory s t ∧ OnlyMine s t ∧ (s.denials = [] → OnlyMe s t) ∧ t.me.r.g = s.me.r.g ∧ t.me.r.p = s.me.r.p ∧ t.me.r.v = s.me.r.v ∧
       t.me.r.tiles = s.me.r.tiles ∧ t.me.r.sh = s.me.r.sh ∧ t.me.r.shadow = s.me.r.shadow ∧ t.me.r.lay = s.me.r.lay ∧
       t.me.r.prog = s.me.r.prog
     (∀ d, scalarDest s.me i = some d → kept ∧ t.me.r = s.me.r ∧ t.me.e = s.me.e ∧
       { t.me.sys with seed := s.me.sys.seed, deadline := s.me.sys.deadline, il := s.me.sys.il } = s.me.sys ∧
       (t.me.sys.il = true → s.me.sys.il = true) ∧
       ∃ fs, t.me.flights = s.me.flights ++ fs ∧ ∀ f ∈ fs, f.dst = d) ∧
     (vectorForm i = true → kept ∧ t.me.e.cmds = s.me.e.cmds ∧ t.me.e.tk = s.me.e.tk ∧
       { t.me.sys with seed := s.me.sys.seed, deadline := s.me.sys.deadline, qeos := s.me.sys.qeos, il := s.me.sys.il } = s.me.sys ∧
       (t.me.sys.il = true → s.me.sys.il = true) ∧
       ∃ fs, t.me.flights = s.me.flights ++ fs)) ∧
  (∀ (s t : State) (i : Instr), s.m.flips = [] → storingForm i = true → s.me.pend = [] → exec i s = .next t → t.me.iss ≠ .trapped →
     SameMemory s t ∧ t.me.r.g = s.me.r.g ∧ t.me.r.p = s.me.r.p ∧ t.me.r.v = s.me.r.v ∧ t.me.r.tiles = s.me.r.tiles)
end

