-- ==== Sys2Proof/Laws/Memory.lean ====
section
/-! SUPPORT. Laws of tables and of memory: an entry written reads back, the others stay, and the canonical form of a memory is
kept by every operation that writes it. -/

namespace Sys2Proof.Machine

/-! Tables. -/

@[simp] theorem tget_tput_self {α : Type} (t : Tbl α) (k : Nat) (a : α) : tget (tput t k a) k = some a := by
  induction t with
  | nil => simp [tput, tget]
  | cons e r ih =>
    obtain ⟨i, b⟩ := e
    simp only [tput]
    split
    · simp [tget]
    · split
      · simp [tget]
      · simp [tget, *]

theorem tget_tput_other {α : Type} (t : Tbl α) (k j : Nat) (a : α) (h : j ≠ k) : tget (tput t k a) j = tget t j := by
  induction t with
  | nil => simp [tput, tget, Ne.symm h]
  | cons e r ih =>
    obtain ⟨i, b⟩ := e
    simp only [tput]
    split
    · simp [tget, Ne.symm h]
    · split
      · next hik => subst hik; simp [tget, Ne.symm h]
      · simp [tget, ih]

@[simp] theorem tput_tput_self {α : Type} (t : Tbl α) (k : Nat) (a b : α) : tput (tput t k a) k b = tput t k b := by
  induction t with
  | nil => simp [tput]
  | cons e r ih =>
    obtain ⟨i, c⟩ := e
    simp only [tput]
    split
    · simp [tput]
    · next h1 =>
      split
      · simp [tput]
      · next h2 => simp only [tput, if_neg h1, if_neg h2, ih]

/-! Memory: reading. -/

theorem memGet_memIns (m : Mem) (a k : Nat) (b : Byte) : memGet (memIns m a b) k = if k = a then b else memGet m k := by
  induction m with
  | nil => simp [memIns, memGet, eq_comm]
  | cons e r ih =>
    obtain ⟨i, c⟩ := e
    simp only [memIns]
    split
    · simp [memGet, eq_comm]
    · split
      · next h =>
        subst h
        by_cases hk : i = k
        · simp [memGet, hk]
        · simp [memGet, hk, Ne.symm hk]
      · next h => by_cases hk : i = k
                  · subst hk; simp [memGet, h]
                  · simp [memGet, hk, ih]

theorem memGet_filter (m : Mem) (p : Host.Cell → Bool) (k : Nat) (q : Nat → Bool) (hp : ∀ c, p c = q c.1) :
    memGet (m.filter p) k = if q k then memGet m k else 0 := by
  induction m with
  | nil => simp [memGet]
  | cons e r ih =>
    obtain ⟨i, c⟩ := e
    by_cases hq : q i = true
    · have : p (i, c) = true := by rw [hp]; exact hq
      by_cases hk : i = k
      · subst hk; simp [this, memGet, hq]
      · simp [this, memGet, hk, ih]
    · have hf : p (i, c) = false := by rw [hp]; simpa using hq
      by_cases hk : i = k
      · subst hk; simp only [Bool.not_eq_true] at hq; simp [hf, ih, hq]
      · simp [hf, memGet, hk, ih]

theorem memGet_memPut (m : Mem) (a k : Nat) (b : Byte) : memGet (memPut m a b) k = if k = a then b else memGet m k := by
  unfold memPut
  split
  · next h =>
    rw [memGet_filter m _ k (fun i => i != a) (fun _ => rfl)]
    by_cases hk : k = a <;> simp [hk, h]
  · exact memGet_memIns m a k b

@[simp] theorem memGet_memPut_self (m : Mem) (a : Nat) (b : Byte) : memGet (memPut m a b) a = b := by simp [memGet_memPut]

theorem memGet_memPut_other (m : Mem) (a k : Nat) (b : Byte) (h : k ≠ a) : memGet (memPut m a b) k = memGet m k := by
  simp [memGet_memPut, h]

theorem memGet_writeBytes (bs : List Byte) : ∀ (m : Mem) (a k : Nat),
    memGet (writeBytes m a bs) k = if a ≤ k ∧ k < a + bs.length then bs.getD (k - a) 0 else memGet m k := by
  induction bs with
  | nil => intro m a k; simp only [writeBytes, List.length_nil]; rw [if_neg (by omega)]
  | cons b bs ih =>
    intro m a k
    simp only [writeBytes, ih, memGet_memPut, List.length_cons]
    by_cases h1 : k = a
    · subst h1
      rw [if_neg (by omega), if_pos rfl, if_pos (by omega)]
      simp
    · by_cases h2 : a + 1 ≤ k ∧ k < a + 1 + bs.length
      · have : a ≤ k ∧ k < a + (bs.length + 1) := by omega
        rw [if_pos h2, if_pos this]
        obtain ⟨j, rfl⟩ : ∃ j, k = a + 1 + j := ⟨k - (a + 1), by omega⟩
        have e1 : a + 1 + j - (a + 1) = j := by omega
        have e2 : a + 1 + j - a = j + 1 := by omega
        simp [e1, e2]
      · have : ¬ (a ≤ k ∧ k < a + (bs.length + 1)) := by omega
        rw [if_neg h2, if_neg this, if_neg h1]

theorem readBytes_writeBytes (m : Mem) (a : Nat) (bs : List Byte) : readBytes (writeBytes m a bs) a bs.length = bs := by
  apply List.ext_getElem
  · simp [readBytes]
  · intro i h1 h2
    simp only [readBytes, List.length_map, List.length_range] at h1
    simp [readBytes, memGet_writeBytes, h2]

/-! Memory: the canonical form. -/

/-- The first address listed, where there is one. -/
def headAbove (m : Mem) (a : Nat) : Prop := ∀ c ∈ m.head?, a < c.1

theorem Memory_wf_cons (a : Nat) (b : Byte) (r : Mem) : Memory.wf ((a, b) :: r) = true ↔ b ≠ 0 ∧ headAbove r a ∧ Memory.wf r = true := by
  cases r with
  | nil => simp [Memory.wf, headAbove]
  | cons e r => obtain ⟨a', b'⟩ := e; simp [Memory.wf, headAbove, and_assoc]

theorem Memory_wf_nil : Memory.wf [] = true := rfl

theorem headAbove_trans {m : Mem} {a b : Nat} (h : headAbove m b) (hab : a ≤ b) : headAbove m a :=
  fun c hc => Nat.lt_of_le_of_lt hab (h c hc)

theorem headAbove_memIns {m : Mem} {a k : Nat} {b : Byte} (h : headAbove m k) (hk : k < a) : headAbove (memIns m a b) k := by
  cases m with
  | nil => simpa [memIns, headAbove] using hk
  | cons e r =>
    obtain ⟨i, c⟩ := e
    have hi : k < i := h (i, c) (by simp)
    simp only [memIns]
    split
    · simpa [headAbove] using hk
    · split
      · simpa [headAbove] using hk
      · simpa [headAbove] using hi

theorem wf_memIns {m : Mem} (a : Nat) {b : Byte} (hb : b ≠ 0) (h : Memory.wf m = true) : Memory.wf (memIns m a b) = true := by
  induction m with
  | nil => simpa [memIns, Memory.wf] using hb
  | cons e r ih =>
    obtain ⟨i, c⟩ := e
    have h' := (Memory_wf_cons i c r).1 h
    simp only [memIns]
    split
    · next hlt => exact (Memory_wf_cons _ _ _).2 ⟨hb, by simpa [headAbove] using hlt, h⟩
    · split
      · next hnl he => subst he; exact (Memory_wf_cons _ _ _).2 ⟨hb, h'.2.1, h'.2.2⟩
      · exact (Memory_wf_cons _ _ _).2 ⟨h'.1, headAbove_memIns h'.2.1 (by omega), ih h'.2.2⟩

theorem wf_filter {m : Mem} (p : Host.Cell → Bool) (h : Memory.wf m = true) : Memory.wf (m.filter p) = true ∧ ∀ a, headAbove m a → headAbove (m.filter p) a := by
  induction m with
  | nil => exact ⟨rfl, fun _ h => h⟩
  | cons e r ih =>
    obtain ⟨i, c⟩ := e
    have h' := (Memory_wf_cons i c r).1 h
    have ih' := ih h'.2.2
    by_cases hp : p (i, c) = true
    · rw [List.filter_cons_of_pos hp]
      exact ⟨(Memory_wf_cons _ _ _).2 ⟨h'.1, ih'.2 i h'.2.1, ih'.1⟩, fun a ha => by simpa [headAbove] using ha⟩
    · rw [List.filter_cons_of_neg hp]
      refine ⟨ih'.1, fun a ha => ih'.2 a (headAbove_trans h'.2.1 ?_)⟩
      have : a < i := ha (i, c) (by simp)
      omega

theorem wf_memPut {m : Mem} (a : Nat) (b : Byte) (h : Memory.wf m = true) : Memory.wf (memPut m a b) = true := by
  unfold memPut
  split
  · exact (wf_filter _ h).1
  · next hb => exact wf_memIns a hb h

theorem wf_writeBytes (bs : List Byte) : ∀ {m : Mem} (a : Nat), Memory.wf m = true → Memory.wf (writeBytes m a bs) = true := by
  induction bs with
  | nil => intro m a h; exact h
  | cons b bs ih => intro m a h; exact ih (a + 1) (wf_memPut a b h)

theorem memGet_below {m : Mem} {a k : Nat} (h : Memory.wf m = true) (ha : headAbove m a) (hk : k ≤ a) : memGet m k = 0 := by
  induction m generalizing a with
  | nil => rfl
  | cons e r ih =>
    obtain ⟨i, c⟩ := e
    have h' := (Memory_wf_cons i c r).1 h
    have hi : a < i := ha (i, c) (by simp)
    have : i ≠ k := by omega
    simp only [memGet, if_neg this]
    exact ih h'.2.2 (headAbove_trans h'.2.1 (by omega : a ≤ i)) hk

/-- Two memories in the canonical form that read alike are equal. -/
theorem wf_ext {m n : Mem} (hm : Memory.wf m = true) (hn : Memory.wf n = true) (h : ∀ k, memGet n k = memGet m k) : n = m := by
  induction m generalizing n with
  | nil =>
    cases n with
    | nil => rfl
    | cons e r =>
      obtain ⟨i, c⟩ := e
      have := h i
      simp [memGet] at this
      exact absurd this ((Memory_wf_cons i c r).1 hn).1
  | cons e r ih =>
    obtain ⟨i, c⟩ := e
    have hm' := (Memory_wf_cons i c r).1 hm
    cases n with
    | nil =>
      have := h i
      simp [memGet] at this
      exact absurd this.symm hm'.1
    | cons e' r' =>
      obtain ⟨j, d⟩ := e'
      have hn' := (Memory_wf_cons j d r').1 hn
      have hij : j = i := by
        rcases Nat.lt_trichotomy i j with hlt | heq | hgt
        · have := h i
          rw [memGet_below hn (a := i) (by simpa [headAbove] using hlt) (Nat.le_refl _)] at this
          simp [memGet] at this
          exact absurd this.symm hm'.1
        · exact heq.symm
        · have := h j
          rw [memGet_below hm (a := j) (by simpa [headAbove] using hgt) (Nat.le_refl _)] at this
          simp [memGet] at this
          exact absurd this hn'.1
      subst hij
      have hc : d = c := by have := h j; simpa [memGet] using this
      subst hc
      have : r' = r := by
        apply ih hm'.2.2 hn'.2.2
        intro k
        by_cases hk : j = k
        · subst hk
          rw [memGet_below hn'.2.2 hn'.2.1 (Nat.le_refl _), memGet_below hm'.2.2 hm'.2.1 (Nat.le_refl _)]
        · have := h k; simpa [memGet, hk] using this
      rw [this]

end Sys2Proof.Machine
end

