-- ==== Sys2Proof/Laws/State.lean ====
section
/-! SUPPORT. What each update of the machine and of a strand leaves alone: one lemma for each field, by rfl; and reading back the part
that was written. -/

namespace Sys2Proof.Machine

/-! The parts of the machine. -/

@[simp] theorem State.setStrand_sched (s : State) (n : Nat) (x : Strand) : (s.setStrand n x).sched = s.sched := rfl
@[simp] theorem State.setStrand_turn (s : State) (n : Nat) (x : Strand) : (s.setStrand n x).turn = s.turn := rfl
@[simp] theorem State.setStrand_cur (s : State) (n : Nat) (x : Strand) : (s.setStrand n x).cur = s.cur := rfl
@[simp] theorem State.setStrand_unit (s : State) (n : Nat) (x : Strand) : (s.setStrand n x).unit = s.unit := rfl
@[simp] theorem State.setStrand_fresh (s : State) (n : Nat) (x : Strand) : (s.setStrand n x).fresh = s.fresh := rfl
@[simp] theorem State.setStrand_cores (s : State) (n : Nat) (x : Strand) : (s.setStrand n x).cores = s.cores := rfl
@[simp] theorem State.setStrand_nmus (s : State) (n : Nat) (x : Strand) : (s.setStrand n x).nmus = s.nmus := rfl
@[simp] theorem State.setStrand_dram (s : State) (n : Nat) (x : Strand) : (s.setStrand n x).dram = s.dram := rfl
@[simp] theorem State.setStrand_chip (s : State) (n : Nat) (x : Strand) : (s.setStrand n x).chip = s.chip := rfl
@[simp] theorem State.setStrand_host (s : State) (n : Nat) (x : Strand) : (s.setStrand n x).host = s.host := rfl
@[simp] theorem State.setStrand_peer (s : State) (n : Nat) (x : Strand) : (s.setStrand n x).peer = s.peer := rfl
@[simp] theorem State.setStrand_net (s : State) (n : Nat) (x : Strand) : (s.setStrand n x).net = s.net := rfl
@[simp] theorem State.setStrand_gathers (s : State) (n : Nat) (x : Strand) : (s.setStrand n x).gathers = s.gathers := rfl
@[simp] theorem State.setStrand_waiters (s : State) (n : Nat) (x : Strand) : (s.setStrand n x).waiters = s.waiters := rfl
@[simp] theorem State.setStrand_walks (s : State) (n : Nat) (x : Strand) : (s.setStrand n x).walks = s.walks := rfl
@[simp] theorem State.setStrand_fills (s : State) (n : Nat) (x : Strand) : (s.setStrand n x).fills = s.fills := rfl
@[simp] theorem State.setStrand_wants (s : State) (n : Nat) (x : Strand) : (s.setStrand n x).wants = s.wants := rfl
@[simp] theorem State.setStrand_denials (s : State) (n : Nat) (x : Strand) : (s.setStrand n x).denials = s.denials := rfl
@[simp] theorem State.setStrand_shoots (s : State) (n : Nat) (x : Strand) : (s.setStrand n x).shoots = s.shoots := rfl
@[simp] theorem State.setStrand_rtabs (s : State) (n : Nat) (x : Strand) : (s.setStrand n x).rtabs = s.rtabs := rfl
@[simp] theorem State.setStrand_moves (s : State) (n : Nat) (x : Strand) : (s.setStrand n x).moves = s.moves := rfl
@[simp] theorem State.setStrand_bmsgs (s : State) (n : Nat) (x : Strand) : (s.setStrand n x).bmsgs = s.bmsgs := rfl
@[simp] theorem State.setStrand_asks (s : State) (n : Nat) (x : Strand) : (s.setStrand n x).asks = s.asks := rfl
@[simp] theorem State.setStrand_d (s : State) (n : Nat) (x : Strand) : (s.setStrand n x).d = s.d := rfl
@[simp] theorem State.setStrand_m (s : State) (n : Nat) (x : Strand) : (s.setStrand n x).m = s.m := rfl
@[simp] theorem State.setStrand_mg (s : State) (n : Nat) (x : Strand) : (s.setStrand n x).mg = s.mg := rfl
@[simp] theorem State.setStrand_acl (s : State) (n : Nat) (x : Strand) : (s.setStrand n x).acl = s.acl := rfl
@[simp] theorem State.setStrand_hans (s : State) (n : Nat) (x : Strand) : (s.setStrand n x).hans = s.hans := rfl
@[simp] theorem State.setStrand_t (s : State) (n : Nat) (x : Strand) : (s.setStrand n x).t = s.t := rfl
@[simp] theorem State.setStrand_ports (s : State) (n : Nat) (x : Strand) : (s.setStrand n x).ports = s.ports := rfl
@[simp] theorem State.setStrand_msix (s : State) (n : Nat) (x : Strand) : (s.setStrand n x).msix = s.msix := rfl
@[simp] theorem State.setStrand_hostOut (s : State) (n : Nat) (x : Strand) : (s.setStrand n x).hostOut = s.hostOut := rfl
@[simp] theorem State.setStrand_linkOut (s : State) (n : Nat) (x : Strand) : (s.setStrand n x).linkOut = s.linkOut := rfl
@[simp] theorem State.setStrand_log (s : State) (n : Nat) (x : Strand) : (s.setStrand n x).log = s.log := rfl

@[simp] theorem State.setCore_sched (s : State) (n : Nat) (x : Core) : (s.setCore n x).sched = s.sched := rfl
@[simp] theorem State.setCore_turn (s : State) (n : Nat) (x : Core) : (s.setCore n x).turn = s.turn := rfl
@[simp] theorem State.setCore_cur (s : State) (n : Nat) (x : Core) : (s.setCore n x).cur = s.cur := rfl
@[simp] theorem State.setCore_unit (s : State) (n : Nat) (x : Core) : (s.setCore n x).unit = s.unit := rfl
@[simp] theorem State.setCore_fresh (s : State) (n : Nat) (x : Core) : (s.setCore n x).fresh = s.fresh := rfl
@[simp] theorem State.setCore_strands (s : State) (n : Nat) (x : Core) : (s.setCore n x).strands = s.strands := rfl
@[simp] theorem State.setCore_nmus (s : State) (n : Nat) (x : Core) : (s.setCore n x).nmus = s.nmus := rfl
@[simp] theorem State.setCore_dram (s : State) (n : Nat) (x : Core) : (s.setCore n x).dram = s.dram := rfl
@[simp] theorem State.setCore_chip (s : State) (n : Nat) (x : Core) : (s.setCore n x).chip = s.chip := rfl
@[simp] theorem State.setCore_host (s : State) (n : Nat) (x : Core) : (s.setCore n x).host = s.host := rfl
@[simp] theorem State.setCore_peer (s : State) (n : Nat) (x : Core) : (s.setCore n x).peer = s.peer := rfl
@[simp] theorem State.setCore_net (s : State) (n : Nat) (x : Core) : (s.setCore n x).net = s.net := rfl
@[simp] theorem State.setCore_gathers (s : State) (n : Nat) (x : Core) : (s.setCore n x).gathers = s.gathers := rfl
@[simp] theorem State.setCore_waiters (s : State) (n : Nat) (x : Core) : (s.setCore n x).waiters = s.waiters := rfl
@[simp] theorem State.setCore_walks (s : State) (n : Nat) (x : Core) : (s.setCore n x).walks = s.walks := rfl
@[simp] theorem State.setCore_fills (s : State) (n : Nat) (x : Core) : (s.setCore n x).fills = s.fills := rfl
@[simp] theorem State.setCore_wants (s : State) (n : Nat) (x : Core) : (s.setCore n x).wants = s.wants := rfl
@[simp] theorem State.setCore_denials (s : State) (n : Nat) (x : Core) : (s.setCore n x).denials = s.denials := rfl
@[simp] theorem State.setCore_shoots (s : State) (n : Nat) (x : Core) : (s.setCore n x).shoots = s.shoots := rfl
@[simp] theorem State.setCore_rtabs (s : State) (n : Nat) (x : Core) : (s.setCore n x).rtabs = s.rtabs := rfl
@[simp] theorem State.setCore_moves (s : State) (n : Nat) (x : Core) : (s.setCore n x).moves = s.moves := rfl
@[simp] theorem State.setCore_bmsgs (s : State) (n : Nat) (x : Core) : (s.setCore n x).bmsgs = s.bmsgs := rfl
@[simp] theorem State.setCore_asks (s : State) (n : Nat) (x : Core) : (s.setCore n x).asks = s.asks := rfl
@[simp] theorem State.setCore_d (s : State) (n : Nat) (x : Core) : (s.setCore n x).d = s.d := rfl
@[simp] theorem State.setCore_m (s : State) (n : Nat) (x : Core) : (s.setCore n x).m = s.m := rfl
@[simp] theorem State.setCore_mg (s : State) (n : Nat) (x : Core) : (s.setCore n x).mg = s.mg := rfl
@[simp] theorem State.setCore_acl (s : State) (n : Nat) (x : Core) : (s.setCore n x).acl = s.acl := rfl
@[simp] theorem State.setCore_hans (s : State) (n : Nat) (x : Core) : (s.setCore n x).hans = s.hans := rfl
@[simp] theorem State.setCore_t (s : State) (n : Nat) (x : Core) : (s.setCore n x).t = s.t := rfl
@[simp] theorem State.setCore_ports (s : State) (n : Nat) (x : Core) : (s.setCore n x).ports = s.ports := rfl
@[simp] theorem State.setCore_msix (s : State) (n : Nat) (x : Core) : (s.setCore n x).msix = s.msix := rfl
@[simp] theorem State.setCore_hostOut (s : State) (n : Nat) (x : Core) : (s.setCore n x).hostOut = s.hostOut := rfl
@[simp] theorem State.setCore_linkOut (s : State) (n : Nat) (x : Core) : (s.setCore n x).linkOut = s.linkOut := rfl
@[simp] theorem State.setCore_log (s : State) (n : Nat) (x : Core) : (s.setCore n x).log = s.log := rfl

@[simp] theorem State.setNmu_sched (s : State) (n : Nat) (x : Nmu) : (s.setNmu n x).sched = s.sched := rfl
@[simp] theorem State.setNmu_turn (s : State) (n : Nat) (x : Nmu) : (s.setNmu n x).turn = s.turn := rfl
@[simp] theorem State.setNmu_cur (s : State) (n : Nat) (x : Nmu) : (s.setNmu n x).cur = s.cur := rfl
@[simp] theorem State.setNmu_unit (s : State) (n : Nat) (x : Nmu) : (s.setNmu n x).unit = s.unit := rfl
@[simp] theorem State.setNmu_fresh (s : State) (n : Nat) (x : Nmu) : (s.setNmu n x).fresh = s.fresh := rfl
@[simp] theorem State.setNmu_strands (s : State) (n : Nat) (x : Nmu) : (s.setNmu n x).strands = s.strands := rfl
@[simp] theorem State.setNmu_cores (s : State) (n : Nat) (x : Nmu) : (s.setNmu n x).cores = s.cores := rfl
@[simp] theorem State.setNmu_dram (s : State) (n : Nat) (x : Nmu) : (s.setNmu n x).dram = s.dram := rfl
@[simp] theorem State.setNmu_chip (s : State) (n : Nat) (x : Nmu) : (s.setNmu n x).chip = s.chip := rfl
@[simp] theorem State.setNmu_host (s : State) (n : Nat) (x : Nmu) : (s.setNmu n x).host = s.host := rfl
@[simp] theorem State.setNmu_peer (s : State) (n : Nat) (x : Nmu) : (s.setNmu n x).peer = s.peer := rfl
@[simp] theorem State.setNmu_net (s : State) (n : Nat) (x : Nmu) : (s.setNmu n x).net = s.net := rfl
@[simp] theorem State.setNmu_gathers (s : State) (n : Nat) (x : Nmu) : (s.setNmu n x).gathers = s.gathers := rfl
@[simp] theorem State.setNmu_waiters (s : State) (n : Nat) (x : Nmu) : (s.setNmu n x).waiters = s.waiters := rfl
@[simp] theorem State.setNmu_walks (s : State) (n : Nat) (x : Nmu) : (s.setNmu n x).walks = s.walks := rfl
@[simp] theorem State.setNmu_fills (s : State) (n : Nat) (x : Nmu) : (s.setNmu n x).fills = s.fills := rfl
@[simp] theorem State.setNmu_wants (s : State) (n : Nat) (x : Nmu) : (s.setNmu n x).wants = s.wants := rfl
@[simp] theorem State.setNmu_denials (s : State) (n : Nat) (x : Nmu) : (s.setNmu n x).denials = s.denials := rfl
@[simp] theorem State.setNmu_shoots (s : State) (n : Nat) (x : Nmu) : (s.setNmu n x).shoots = s.shoots := rfl
@[simp] theorem State.setNmu_rtabs (s : State) (n : Nat) (x : Nmu) : (s.setNmu n x).rtabs = s.rtabs := rfl
@[simp] theorem State.setNmu_moves (s : State) (n : Nat) (x : Nmu) : (s.setNmu n x).moves = s.moves := rfl
@[simp] theorem State.setNmu_bmsgs (s : State) (n : Nat) (x : Nmu) : (s.setNmu n x).bmsgs = s.bmsgs := rfl
@[simp] theorem State.setNmu_asks (s : State) (n : Nat) (x : Nmu) : (s.setNmu n x).asks = s.asks := rfl
@[simp] theorem State.setNmu_d (s : State) (n : Nat) (x : Nmu) : (s.setNmu n x).d = s.d := rfl
@[simp] theorem State.setNmu_m (s : State) (n : Nat) (x : Nmu) : (s.setNmu n x).m = s.m := rfl
@[simp] theorem State.setNmu_mg (s : State) (n : Nat) (x : Nmu) : (s.setNmu n x).mg = s.mg := rfl
@[simp] theorem State.setNmu_acl (s : State) (n : Nat) (x : Nmu) : (s.setNmu n x).acl = s.acl := rfl
@[simp] theorem State.setNmu_hans (s : State) (n : Nat) (x : Nmu) : (s.setNmu n x).hans = s.hans := rfl
@[simp] theorem State.setNmu_t (s : State) (n : Nat) (x : Nmu) : (s.setNmu n x).t = s.t := rfl
@[simp] theorem State.setNmu_ports (s : State) (n : Nat) (x : Nmu) : (s.setNmu n x).ports = s.ports := rfl
@[simp] theorem State.setNmu_msix (s : State) (n : Nat) (x : Nmu) : (s.setNmu n x).msix = s.msix := rfl
@[simp] theorem State.setNmu_hostOut (s : State) (n : Nat) (x : Nmu) : (s.setNmu n x).hostOut = s.hostOut := rfl
@[simp] theorem State.setNmu_linkOut (s : State) (n : Nat) (x : Nmu) : (s.setNmu n x).linkOut = s.linkOut := rfl
@[simp] theorem State.setNmu_log (s : State) (n : Nat) (x : Nmu) : (s.setNmu n x).log = s.log := rfl

@[simp] theorem State.modStrand_sched (s : State) (n : Nat) (f : Strand → Strand) : (s.modStrand n f).sched = s.sched := rfl
@[simp] theorem State.modStrand_turn (s : State) (n : Nat) (f : Strand → Strand) : (s.modStrand n f).turn = s.turn := rfl
@[simp] theorem State.modStrand_cur (s : State) (n : Nat) (f : Strand → Strand) : (s.modStrand n f).cur = s.cur := rfl
@[simp] theorem State.modStrand_unit (s : State) (n : Nat) (f : Strand → Strand) : (s.modStrand n f).unit = s.unit := rfl
@[simp] theorem State.modStrand_fresh (s : State) (n : Nat) (f : Strand → Strand) : (s.modStrand n f).fresh = s.fresh := rfl
@[simp] theorem State.modStrand_cores (s : State) (n : Nat) (f : Strand → Strand) : (s.modStrand n f).cores = s.cores := rfl
@[simp] theorem State.modStrand_nmus (s : State) (n : Nat) (f : Strand → Strand) : (s.modStrand n f).nmus = s.nmus := rfl
@[simp] theorem State.modStrand_dram (s : State) (n : Nat) (f : Strand → Strand) : (s.modStrand n f).dram = s.dram := rfl
@[simp] theorem State.modStrand_chip (s : State) (n : Nat) (f : Strand → Strand) : (s.modStrand n f).chip = s.chip := rfl
@[simp] theorem State.modStrand_host (s : State) (n : Nat) (f : Strand → Strand) : (s.modStrand n f).host = s.host := rfl
@[simp] theorem State.modStrand_peer (s : State) (n : Nat) (f : Strand → Strand) : (s.modStrand n f).peer = s.peer := rfl
@[simp] theorem State.modStrand_net (s : State) (n : Nat) (f : Strand → Strand) : (s.modStrand n f).net = s.net := rfl
@[simp] theorem State.modStrand_gathers (s : State) (n : Nat) (f : Strand → Strand) : (s.modStrand n f).gathers = s.gathers := rfl
@[simp] theorem State.modStrand_waiters (s : State) (n : Nat) (f : Strand → Strand) : (s.modStrand n f).waiters = s.waiters := rfl
@[simp] theorem State.modStrand_walks (s : State) (n : Nat) (f : Strand → Strand) : (s.modStrand n f).walks = s.walks := rfl
@[simp] theorem State.modStrand_fills (s : State) (n : Nat) (f : Strand → Strand) : (s.modStrand n f).fills = s.fills := rfl
@[simp] theorem State.modStrand_wants (s : State) (n : Nat) (f : Strand → Strand) : (s.modStrand n f).wants = s.wants := rfl
@[simp] theorem State.modStrand_denials (s : State) (n : Nat) (f : Strand → Strand) : (s.modStrand n f).denials = s.denials := rfl
@[simp] theorem State.modStrand_shoots (s : State) (n : Nat) (f : Strand → Strand) : (s.modStrand n f).shoots = s.shoots := rfl
@[simp] theorem State.modStrand_rtabs (s : State) (n : Nat) (f : Strand → Strand) : (s.modStrand n f).rtabs = s.rtabs := rfl
@[simp] theorem State.modStrand_moves (s : State) (n : Nat) (f : Strand → Strand) : (s.modStrand n f).moves = s.moves := rfl
@[simp] theorem State.modStrand_bmsgs (s : State) (n : Nat) (f : Strand → Strand) : (s.modStrand n f).bmsgs = s.bmsgs := rfl
@[simp] theorem State.modStrand_asks (s : State) (n : Nat) (f : Strand → Strand) : (s.modStrand n f).asks = s.asks := rfl
@[simp] theorem State.modStrand_d (s : State) (n : Nat) (f : Strand → Strand) : (s.modStrand n f).d = s.d := rfl
@[simp] theorem State.modStrand_m (s : State) (n : Nat) (f : Strand → Strand) : (s.modStrand n f).m = s.m := rfl
@[simp] theorem State.modStrand_mg (s : State) (n : Nat) (f : Strand → Strand) : (s.modStrand n f).mg = s.mg := rfl
@[simp] theorem State.modStrand_acl (s : State) (n : Nat) (f : Strand → Strand) : (s.modStrand n f).acl = s.acl := rfl
@[simp] theorem State.modStrand_hans (s : State) (n : Nat) (f : Strand → Strand) : (s.modStrand n f).hans = s.hans := rfl
@[simp] theorem State.modStrand_t (s : State) (n : Nat) (f : Strand → Strand) : (s.modStrand n f).t = s.t := rfl
@[simp] theorem State.modStrand_ports (s : State) (n : Nat) (f : Strand → Strand) : (s.modStrand n f).ports = s.ports := rfl
@[simp] theorem State.modStrand_msix (s : State) (n : Nat) (f : Strand → Strand) : (s.modStrand n f).msix = s.msix := rfl
@[simp] theorem State.modStrand_hostOut (s : State) (n : Nat) (f : Strand → Strand) : (s.modStrand n f).hostOut = s.hostOut := rfl
@[simp] theorem State.modStrand_linkOut (s : State) (n : Nat) (f : Strand → Strand) : (s.modStrand n f).linkOut = s.linkOut := rfl
@[simp] theorem State.modStrand_log (s : State) (n : Nat) (f : Strand → Strand) : (s.modStrand n f).log = s.log := rfl

@[simp] theorem State.modCore_sched (s : State) (n : Nat) (f : Core → Core) : (s.modCore n f).sched = s.sched := rfl
@[simp] theorem State.modCore_turn (s : State) (n : Nat) (f : Core → Core) : (s.modCore n f).turn = s.turn := rfl
@[simp] theorem State.modCore_cur (s : State) (n : Nat) (f : Core → Core) : (s.modCore n f).cur = s.cur := rfl
@[simp] theorem State.modCore_unit (s : State) (n : Nat) (f : Core → Core) : (s.modCore n f).unit = s.unit := rfl
@[simp] theorem State.modCore_fresh (s : State) (n : Nat) (f : Core → Core) : (s.modCore n f).fresh = s.fresh := rfl
@[simp] theorem State.modCore_strands (s : State) (n : Nat) (f : Core → Core) : (s.modCore n f).strands = s.strands := rfl
@[simp] theorem State.modCore_nmus (s : State) (n : Nat) (f : Core → Core) : (s.modCore n f).nmus = s.nmus := rfl
@[simp] theorem State.modCore_dram (s : State) (n : Nat) (f : Core → Core) : (s.modCore n f).dram = s.dram := rfl
@[simp] theorem State.modCore_chip (s : State) (n : Nat) (f : Core → Core) : (s.modCore n f).chip = s.chip := rfl
@[simp] theorem State.modCore_host (s : State) (n : Nat) (f : Core → Core) : (s.modCore n f).host = s.host := rfl
@[simp] theorem State.modCore_peer (s : State) (n : Nat) (f : Core → Core) : (s.modCore n f).peer = s.peer := rfl
@[simp] theorem State.modCore_net (s : State) (n : Nat) (f : Core → Core) : (s.modCore n f).net = s.net := rfl
@[simp] theorem State.modCore_gathers (s : State) (n : Nat) (f : Core → Core) : (s.modCore n f).gathers = s.gathers := rfl
@[simp] theorem State.modCore_waiters (s : State) (n : Nat) (f : Core → Core) : (s.modCore n f).waiters = s.waiters := rfl
@[simp] theorem State.modCore_walks (s : State) (n : Nat) (f : Core → Core) : (s.modCore n f).walks = s.walks := rfl
@[simp] theorem State.modCore_fills (s : State) (n : Nat) (f : Core → Core) : (s.modCore n f).fills = s.fills := rfl
@[simp] theorem State.modCore_wants (s : State) (n : Nat) (f : Core → Core) : (s.modCore n f).wants = s.wants := rfl
@[simp] theorem State.modCore_denials (s : State) (n : Nat) (f : Core → Core) : (s.modCore n f).denials = s.denials := rfl
@[simp] theorem State.modCore_shoots (s : State) (n : Nat) (f : Core → Core) : (s.modCore n f).shoots = s.shoots := rfl
@[simp] theorem State.modCore_rtabs (s : State) (n : Nat) (f : Core → Core) : (s.modCore n f).rtabs = s.rtabs := rfl
@[simp] theorem State.modCore_moves (s : State) (n : Nat) (f : Core → Core) : (s.modCore n f).moves = s.moves := rfl
@[simp] theorem State.modCore_bmsgs (s : State) (n : Nat) (f : Core → Core) : (s.modCore n f).bmsgs = s.bmsgs := rfl
@[simp] theorem State.modCore_asks (s : State) (n : Nat) (f : Core → Core) : (s.modCore n f).asks = s.asks := rfl
@[simp] theorem State.modCore_d (s : State) (n : Nat) (f : Core → Core) : (s.modCore n f).d = s.d := rfl
@[simp] theorem State.modCore_m (s : State) (n : Nat) (f : Core → Core) : (s.modCore n f).m = s.m := rfl
@[simp] theorem State.modCore_mg (s : State) (n : Nat) (f : Core → Core) : (s.modCore n f).mg = s.mg := rfl
@[simp] theorem State.modCore_acl (s : State) (n : Nat) (f : Core → Core) : (s.modCore n f).acl = s.acl := rfl
@[simp] theorem State.modCore_hans (s : State) (n : Nat) (f : Core → Core) : (s.modCore n f).hans = s.hans := rfl
@[simp] theorem State.modCore_t (s : State) (n : Nat) (f : Core → Core) : (s.modCore n f).t = s.t := rfl
@[simp] theorem State.modCore_ports (s : State) (n : Nat) (f : Core → Core) : (s.modCore n f).ports = s.ports := rfl
@[simp] theorem State.modCore_msix (s : State) (n : Nat) (f : Core → Core) : (s.modCore n f).msix = s.msix := rfl
@[simp] theorem State.modCore_hostOut (s : State) (n : Nat) (f : Core → Core) : (s.modCore n f).hostOut = s.hostOut := rfl
@[simp] theorem State.modCore_linkOut (s : State) (n : Nat) (f : Core → Core) : (s.modCore n f).linkOut = s.linkOut := rfl
@[simp] theorem State.modCore_log (s : State) (n : Nat) (f : Core → Core) : (s.modCore n f).log = s.log := rfl

@[simp] theorem State.modNmu_sched (s : State) (n : Nat) (f : Nmu → Nmu) : (s.modNmu n f).sched = s.sched := rfl
@[simp] theorem State.modNmu_turn (s : State) (n : Nat) (f : Nmu → Nmu) : (s.modNmu n f).turn = s.turn := rfl
@[simp] theorem State.modNmu_cur (s : State) (n : Nat) (f : Nmu → Nmu) : (s.modNmu n f).cur = s.cur := rfl
@[simp] theorem State.modNmu_unit (s : State) (n : Nat) (f : Nmu → Nmu) : (s.modNmu n f).unit = s.unit := rfl
@[simp] theorem State.modNmu_fresh (s : State) (n : Nat) (f : Nmu → Nmu) : (s.modNmu n f).fresh = s.fresh := rfl
@[simp] theorem State.modNmu_strands (s : State) (n : Nat) (f : Nmu → Nmu) : (s.modNmu n f).strands = s.strands := rfl
@[simp] theorem State.modNmu_cores (s : State) (n : Nat) (f : Nmu → Nmu) : (s.modNmu n f).cores = s.cores := rfl
@[simp] theorem State.modNmu_dram (s : State) (n : Nat) (f : Nmu → Nmu) : (s.modNmu n f).dram = s.dram := rfl
@[simp] theorem State.modNmu_chip (s : State) (n : Nat) (f : Nmu → Nmu) : (s.modNmu n f).chip = s.chip := rfl
@[simp] theorem State.modNmu_host (s : State) (n : Nat) (f : Nmu → Nmu) : (s.modNmu n f).host = s.host := rfl
@[simp] theorem State.modNmu_peer (s : State) (n : Nat) (f : Nmu → Nmu) : (s.modNmu n f).peer = s.peer := rfl
@[simp] theorem State.modNmu_net (s : State) (n : Nat) (f : Nmu → Nmu) : (s.modNmu n f).net = s.net := rfl
@[simp] theorem State.modNmu_gathers (s : State) (n : Nat) (f : Nmu → Nmu) : (s.modNmu n f).gathers = s.gathers := rfl
@[simp] theorem State.modNmu_waiters (s : State) (n : Nat) (f : Nmu → Nmu) : (s.modNmu n f).waiters = s.waiters := rfl
@[simp] theorem State.modNmu_walks (s : State) (n : Nat) (f : Nmu → Nmu) : (s.modNmu n f).walks = s.walks := rfl
@[simp] theorem State.modNmu_fills (s : State) (n : Nat) (f : Nmu → Nmu) : (s.modNmu n f).fills = s.fills := rfl
@[simp] theorem State.modNmu_wants (s : State) (n : Nat) (f : Nmu → Nmu) : (s.modNmu n f).wants = s.wants := rfl
@[simp] theorem State.modNmu_denials (s : State) (n : Nat) (f : Nmu → Nmu) : (s.modNmu n f).denials = s.denials := rfl
@[simp] theorem State.modNmu_shoots (s : State) (n : Nat) (f : Nmu → Nmu) : (s.modNmu n f).shoots = s.shoots := rfl
@[simp] theorem State.modNmu_rtabs (s : State) (n : Nat) (f : Nmu → Nmu) : (s.modNmu n f).rtabs = s.rtabs := rfl
@[simp] theorem State.modNmu_moves (s : State) (n : Nat) (f : Nmu → Nmu) : (s.modNmu n f).moves = s.moves := rfl
@[simp] theorem State.modNmu_bmsgs (s : State) (n : Nat) (f : Nmu → Nmu) : (s.modNmu n f).bmsgs = s.bmsgs := rfl
@[simp] theorem State.modNmu_asks (s : State) (n : Nat) (f : Nmu → Nmu) : (s.modNmu n f).asks = s.asks := rfl
@[simp] theorem State.modNmu_d (s : State) (n : Nat) (f : Nmu → Nmu) : (s.modNmu n f).d = s.d := rfl
@[simp] theorem State.modNmu_m (s : State) (n : Nat) (f : Nmu → Nmu) : (s.modNmu n f).m = s.m := rfl
@[simp] theorem State.modNmu_mg (s : State) (n : Nat) (f : Nmu → Nmu) : (s.modNmu n f).mg = s.mg := rfl
@[simp] theorem State.modNmu_acl (s : State) (n : Nat) (f : Nmu → Nmu) : (s.modNmu n f).acl = s.acl := rfl
@[simp] theorem State.modNmu_hans (s : State) (n : Nat) (f : Nmu → Nmu) : (s.modNmu n f).hans = s.hans := rfl
@[simp] theorem State.modNmu_t (s : State) (n : Nat) (f : Nmu → Nmu) : (s.modNmu n f).t = s.t := rfl
@[simp] theorem State.modNmu_ports (s : State) (n : Nat) (f : Nmu → Nmu) : (s.modNmu n f).ports = s.ports := rfl
@[simp] theorem State.modNmu_msix (s : State) (n : Nat) (f : Nmu → Nmu) : (s.modNmu n f).msix = s.msix := rfl
@[simp] theorem State.modNmu_hostOut (s : State) (n : Nat) (f : Nmu → Nmu) : (s.modNmu n f).hostOut = s.hostOut := rfl
@[simp] theorem State.modNmu_linkOut (s : State) (n : Nat) (f : Nmu → Nmu) : (s.modNmu n f).linkOut = s.linkOut := rfl
@[simp] theorem State.modNmu_log (s : State) (n : Nat) (f : Nmu → Nmu) : (s.modNmu n f).log = s.log := rfl

@[simp] theorem State.setMe_sched (s : State) (x : Strand) : (s.setMe x).sched = s.sched := rfl
@[simp] theorem State.setMe_turn (s : State) (x : Strand) : (s.setMe x).turn = s.turn := rfl
@[simp] theorem State.setMe_cur (s : State) (x : Strand) : (s.setMe x).cur = s.cur := rfl
@[simp] theorem State.setMe_unit (s : State) (x : Strand) : (s.setMe x).unit = s.unit := rfl
@[simp] theorem State.setMe_fresh (s : State) (x : Strand) : (s.setMe x).fresh = s.fresh := rfl
@[simp] theorem State.setMe_cores (s : State) (x : Strand) : (s.setMe x).cores = s.cores := rfl
@[simp] theorem State.setMe_nmus (s : State) (x : Strand) : (s.setMe x).nmus = s.nmus := rfl
@[simp] theorem State.setMe_dram (s : State) (x : Strand) : (s.setMe x).dram = s.dram := rfl
@[simp] theorem State.setMe_chip (s : State) (x : Strand) : (s.setMe x).chip = s.chip := rfl
@[simp] theorem State.setMe_host (s : State) (x : Strand) : (s.setMe x).host = s.host := rfl
@[simp] theorem State.setMe_peer (s : State) (x : Strand) : (s.setMe x).peer = s.peer := rfl
@[simp] theorem State.setMe_net (s : State) (x : Strand) : (s.setMe x).net = s.net := rfl
@[simp] theorem State.setMe_gathers (s : State) (x : Strand) : (s.setMe x).gathers = s.gathers := rfl
@[simp] theorem State.setMe_waiters (s : State) (x : Strand) : (s.setMe x).waiters = s.waiters := rfl
@[simp] theorem State.setMe_walks (s : State) (x : Strand) : (s.setMe x).walks = s.walks := rfl
@[simp] theorem State.setMe_fills (s : State) (x : Strand) : (s.setMe x).fills = s.fills := rfl
@[simp] theorem State.setMe_wants (s : State) (x : Strand) : (s.setMe x).wants = s.wants := rfl
@[simp] theorem State.setMe_denials (s : State) (x : Strand) : (s.setMe x).denials = s.denials := rfl
@[simp] theorem State.setMe_shoots (s : State) (x : Strand) : (s.setMe x).shoots = s.shoots := rfl
@[simp] theorem State.setMe_rtabs (s : State) (x : Strand) : (s.setMe x).rtabs = s.rtabs := rfl
@[simp] theorem State.setMe_moves (s : State) (x : Strand) : (s.setMe x).moves = s.moves := rfl
@[simp] theorem State.setMe_bmsgs (s : State) (x : Strand) : (s.setMe x).bmsgs = s.bmsgs := rfl
@[simp] theorem State.setMe_asks (s : State) (x : Strand) : (s.setMe x).asks = s.asks := rfl
@[simp] theorem State.setMe_d (s : State) (x : Strand) : (s.setMe x).d = s.d := rfl
@[simp] theorem State.setMe_m (s : State) (x : Strand) : (s.setMe x).m = s.m := rfl
@[simp] theorem State.setMe_mg (s : State) (x : Strand) : (s.setMe x).mg = s.mg := rfl
@[simp] theorem State.setMe_acl (s : State) (x : Strand) : (s.setMe x).acl = s.acl := rfl
@[simp] theorem State.setMe_hans (s : State) (x : Strand) : (s.setMe x).hans = s.hans := rfl
@[simp] theorem State.setMe_t (s : State) (x : Strand) : (s.setMe x).t = s.t := rfl
@[simp] theorem State.setMe_ports (s : State) (x : Strand) : (s.setMe x).ports = s.ports := rfl
@[simp] theorem State.setMe_msix (s : State) (x : Strand) : (s.setMe x).msix = s.msix := rfl
@[simp] theorem State.setMe_hostOut (s : State) (x : Strand) : (s.setMe x).hostOut = s.hostOut := rfl
@[simp] theorem State.setMe_linkOut (s : State) (x : Strand) : (s.setMe x).linkOut = s.linkOut := rfl
@[simp] theorem State.setMe_log (s : State) (x : Strand) : (s.setMe x).log = s.log := rfl

@[simp] theorem State.setKernel_sched (s : State) (x : Kernel) : (s.setKernel x).sched = s.sched := rfl
@[simp] theorem State.setKernel_turn (s : State) (x : Kernel) : (s.setKernel x).turn = s.turn := rfl
@[simp] theorem State.setKernel_cur (s : State) (x : Kernel) : (s.setKernel x).cur = s.cur := rfl
@[simp] theorem State.setKernel_unit (s : State) (x : Kernel) : (s.setKernel x).unit = s.unit := rfl
@[simp] theorem State.setKernel_fresh (s : State) (x : Kernel) : (s.setKernel x).fresh = s.fresh := rfl
@[simp] theorem State.setKernel_strands (s : State) (x : Kernel) : (s.setKernel x).strands = s.strands := rfl
@[simp] theorem State.setKernel_cores (s : State) (x : Kernel) : (s.setKernel x).cores = s.cores := rfl
@[simp] theorem State.setKernel_nmus (s : State) (x : Kernel) : (s.setKernel x).nmus = s.nmus := rfl
@[simp] theorem State.setKernel_dram (s : State) (x : Kernel) : (s.setKernel x).dram = s.dram := rfl
@[simp] theorem State.setKernel_chip (s : State) (x : Kernel) : (s.setKernel x).chip = s.chip := rfl
@[simp] theorem State.setKernel_host (s : State) (x : Kernel) : (s.setKernel x).host = s.host := rfl
@[simp] theorem State.setKernel_peer (s : State) (x : Kernel) : (s.setKernel x).peer = s.peer := rfl
@[simp] theorem State.setKernel_net (s : State) (x : Kernel) : (s.setKernel x).net = s.net := rfl
@[simp] theorem State.setKernel_gathers (s : State) (x : Kernel) : (s.setKernel x).gathers = s.gathers := rfl
@[simp] theorem State.setKernel_waiters (s : State) (x : Kernel) : (s.setKernel x).waiters = s.waiters := rfl
@[simp] theorem State.setKernel_walks (s : State) (x : Kernel) : (s.setKernel x).walks = s.walks := rfl
@[simp] theorem State.setKernel_fills (s : State) (x : Kernel) : (s.setKernel x).fills = s.fills := rfl
@[simp] theorem State.setKernel_wants (s : State) (x : Kernel) : (s.setKernel x).wants = s.wants := rfl
@[simp] theorem State.setKernel_denials (s : State) (x : Kernel) : (s.setKernel x).denials = s.denials := rfl
@[simp] theorem State.setKernel_shoots (s : State) (x : Kernel) : (s.setKernel x).shoots = s.shoots := rfl
@[simp] theorem State.setKernel_rtabs (s : State) (x : Kernel) : (s.setKernel x).rtabs = s.rtabs := rfl
@[simp] theorem State.setKernel_moves (s : State) (x : Kernel) : (s.setKernel x).moves = s.moves := rfl
@[simp] theorem State.setKernel_bmsgs (s : State) (x : Kernel) : (s.setKernel x).bmsgs = s.bmsgs := rfl
@[simp] theorem State.setKernel_asks (s : State) (x : Kernel) : (s.setKernel x).asks = s.asks := rfl
@[simp] theorem State.setKernel_m (s : State) (x : Kernel) : (s.setKernel x).m = s.m := rfl
@[simp] theorem State.setKernel_mg (s : State) (x : Kernel) : (s.setKernel x).mg = s.mg := rfl
@[simp] theorem State.setKernel_acl (s : State) (x : Kernel) : (s.setKernel x).acl = s.acl := rfl
@[simp] theorem State.setKernel_hans (s : State) (x : Kernel) : (s.setKernel x).hans = s.hans := rfl
@[simp] theorem State.setKernel_t (s : State) (x : Kernel) : (s.setKernel x).t = s.t := rfl
@[simp] theorem State.setKernel_ports (s : State) (x : Kernel) : (s.setKernel x).ports = s.ports := rfl
@[simp] theorem State.setKernel_msix (s : State) (x : Kernel) : (s.setKernel x).msix = s.msix := rfl
@[simp] theorem State.setKernel_hostOut (s : State) (x : Kernel) : (s.setKernel x).hostOut = s.hostOut := rfl
@[simp] theorem State.setKernel_linkOut (s : State) (x : Kernel) : (s.setKernel x).linkOut = s.linkOut := rfl
@[simp] theorem State.setKernel_log (s : State) (x : Kernel) : (s.setKernel x).log = s.log := rfl

@[simp] theorem State.setMgr_sched (s : State) (o : Nat) (v : Word) : (s.setMgr o v).sched = s.sched := rfl
@[simp] theorem State.setMgr_turn (s : State) (o : Nat) (v : Word) : (s.setMgr o v).turn = s.turn := rfl
@[simp] theorem State.setMgr_cur (s : State) (o : Nat) (v : Word) : (s.setMgr o v).cur = s.cur := rfl
@[simp] theorem State.setMgr_unit (s : State) (o : Nat) (v : Word) : (s.setMgr o v).unit = s.unit := rfl
@[simp] theorem State.setMgr_fresh (s : State) (o : Nat) (v : Word) : (s.setMgr o v).fresh = s.fresh := rfl
@[simp] theorem State.setMgr_strands (s : State) (o : Nat) (v : Word) : (s.setMgr o v).strands = s.strands := rfl
@[simp] theorem State.setMgr_cores (s : State) (o : Nat) (v : Word) : (s.setMgr o v).cores = s.cores := rfl
@[simp] theorem State.setMgr_nmus (s : State) (o : Nat) (v : Word) : (s.setMgr o v).nmus = s.nmus := rfl
@[simp] theorem State.setMgr_dram (s : State) (o : Nat) (v : Word) : (s.setMgr o v).dram = s.dram := rfl
@[simp] theorem State.setMgr_chip (s : State) (o : Nat) (v : Word) : (s.setMgr o v).chip = s.chip := rfl
@[simp] theorem State.setMgr_host (s : State) (o : Nat) (v : Word) : (s.setMgr o v).host = s.host := rfl
@[simp] theorem State.setMgr_peer (s : State) (o : Nat) (v : Word) : (s.setMgr o v).peer = s.peer := rfl
@[simp] theorem State.setMgr_net (s : State) (o : Nat) (v : Word) : (s.setMgr o v).net = s.net := rfl
@[simp] theorem State.setMgr_gathers (s : State) (o : Nat) (v : Word) : (s.setMgr o v).gathers = s.gathers := rfl
@[simp] theorem State.setMgr_waiters (s : State) (o : Nat) (v : Word) : (s.setMgr o v).waiters = s.waiters := rfl
@[simp] theorem State.setMgr_walks (s : State) (o : Nat) (v : Word) : (s.setMgr o v).walks = s.walks := rfl
@[simp] theorem State.setMgr_fills (s : State) (o : Nat) (v : Word) : (s.setMgr o v).fills = s.fills := rfl
@[simp] theorem State.setMgr_wants (s : State) (o : Nat) (v : Word) : (s.setMgr o v).wants = s.wants := rfl
@[simp] theorem State.setMgr_denials (s : State) (o : Nat) (v : Word) : (s.setMgr o v).denials = s.denials := rfl
@[simp] theorem State.setMgr_shoots (s : State) (o : Nat) (v : Word) : (s.setMgr o v).shoots = s.shoots := rfl
@[simp] theorem State.setMgr_rtabs (s : State) (o : Nat) (v : Word) : (s.setMgr o v).rtabs = s.rtabs := rfl
@[simp] theorem State.setMgr_moves (s : State) (o : Nat) (v : Word) : (s.setMgr o v).moves = s.moves := rfl
@[simp] theorem State.setMgr_bmsgs (s : State) (o : Nat) (v : Word) : (s.setMgr o v).bmsgs = s.bmsgs := rfl
@[simp] theorem State.setMgr_asks (s : State) (o : Nat) (v : Word) : (s.setMgr o v).asks = s.asks := rfl
@[simp] theorem State.setMgr_d (s : State) (o : Nat) (v : Word) : (s.setMgr o v).d = s.d := rfl
@[simp] theorem State.setMgr_m (s : State) (o : Nat) (v : Word) : (s.setMgr o v).m = s.m := rfl
@[simp] theorem State.setMgr_acl (s : State) (o : Nat) (v : Word) : (s.setMgr o v).acl = s.acl := rfl
@[simp] theorem State.setMgr_hans (s : State) (o : Nat) (v : Word) : (s.setMgr o v).hans = s.hans := rfl
@[simp] theorem State.setMgr_t (s : State) (o : Nat) (v : Word) : (s.setMgr o v).t = s.t := rfl
@[simp] theorem State.setMgr_ports (s : State) (o : Nat) (v : Word) : (s.setMgr o v).ports = s.ports := rfl
@[simp] theorem State.setMgr_msix (s : State) (o : Nat) (v : Word) : (s.setMgr o v).msix = s.msix := rfl
@[simp] theorem State.setMgr_hostOut (s : State) (o : Nat) (v : Word) : (s.setMgr o v).hostOut = s.hostOut := rfl
@[simp] theorem State.setMgr_linkOut (s : State) (o : Nat) (v : Word) : (s.setMgr o v).linkOut = s.linkOut := rfl
@[simp] theorem State.setMgr_log (s : State) (o : Nat) (v : Word) : (s.setMgr o v).log = s.log := rfl

@[simp] theorem State.forget_sched (s : State) (x : Src) : (s.forget x).sched = s.sched := rfl
@[simp] theorem State.forget_turn (s : State) (x : Src) : (s.forget x).turn = s.turn := rfl
@[simp] theorem State.forget_cur (s : State) (x : Src) : (s.forget x).cur = s.cur := rfl
@[simp] theorem State.forget_unit (s : State) (x : Src) : (s.forget x).unit = s.unit := rfl
@[simp] theorem State.forget_fresh (s : State) (x : Src) : (s.forget x).fresh = s.fresh := rfl
@[simp] theorem State.forget_strands (s : State) (x : Src) : (s.forget x).strands = s.strands := rfl
@[simp] theorem State.forget_cores (s : State) (x : Src) : (s.forget x).cores = s.cores := rfl
@[simp] theorem State.forget_nmus (s : State) (x : Src) : (s.forget x).nmus = s.nmus := rfl
@[simp] theorem State.forget_dram (s : State) (x : Src) : (s.forget x).dram = s.dram := rfl
@[simp] theorem State.forget_chip (s : State) (x : Src) : (s.forget x).chip = s.chip := rfl
@[simp] theorem State.forget_host (s : State) (x : Src) : (s.forget x).host = s.host := rfl
@[simp] theorem State.forget_peer (s : State) (x : Src) : (s.forget x).peer = s.peer := rfl
@[simp] theorem State.forget_net (s : State) (x : Src) : (s.forget x).net = s.net := rfl
@[simp] theorem State.forget_waiters (s : State) (x : Src) : (s.forget x).waiters = s.waiters := rfl
@[simp] theorem State.forget_wants (s : State) (x : Src) : (s.forget x).wants = s.wants := rfl
@[simp] theorem State.forget_shoots (s : State) (x : Src) : (s.forget x).shoots = s.shoots := rfl
@[simp] theorem State.forget_rtabs (s : State) (x : Src) : (s.forget x).rtabs = s.rtabs := rfl
@[simp] theorem State.forget_moves (s : State) (x : Src) : (s.forget x).moves = s.moves := rfl
@[simp] theorem State.forget_bmsgs (s : State) (x : Src) : (s.forget x).bmsgs = s.bmsgs := rfl
@[simp] theorem State.forget_asks (s : State) (x : Src) : (s.forget x).asks = s.asks := rfl
@[simp] theorem State.forget_d (s : State) (x : Src) : (s.forget x).d = s.d := rfl
@[simp] theorem State.forget_m (s : State) (x : Src) : (s.forget x).m = s.m := rfl
@[simp] theorem State.forget_mg (s : State) (x : Src) : (s.forget x).mg = s.mg := rfl
@[simp] theorem State.forget_acl (s : State) (x : Src) : (s.forget x).acl = s.acl := rfl
@[simp] theorem State.forget_hans (s : State) (x : Src) : (s.forget x).hans = s.hans := rfl
@[simp] theorem State.forget_t (s : State) (x : Src) : (s.forget x).t = s.t := rfl
@[simp] theorem State.forget_ports (s : State) (x : Src) : (s.forget x).ports = s.ports := rfl
@[simp] theorem State.forget_msix (s : State) (x : Src) : (s.forget x).msix = s.msix := rfl
@[simp] theorem State.forget_hostOut (s : State) (x : Src) : (s.forget x).hostOut = s.hostOut := rfl
@[simp] theorem State.forget_linkOut (s : State) (x : Src) : (s.forget x).linkOut = s.linkOut := rfl
@[simp] theorem State.forget_log (s : State) (x : Src) : (s.forget x).log = s.log := rfl

@[simp] theorem State.ask_sched (s : State) (k : Nat) (x y : Word) : (s.ask k x y).sched = s.sched := rfl
@[simp] theorem State.ask_turn (s : State) (k : Nat) (x y : Word) : (s.ask k x y).turn = s.turn := rfl
@[simp] theorem State.ask_cur (s : State) (k : Nat) (x y : Word) : (s.ask k x y).cur = s.cur := rfl
@[simp] theorem State.ask_unit (s : State) (k : Nat) (x y : Word) : (s.ask k x y).unit = s.unit := rfl
@[simp] theorem State.ask_strands (s : State) (k : Nat) (x y : Word) : (s.ask k x y).strands = s.strands := rfl
@[simp] theorem State.ask_cores (s : State) (k : Nat) (x y : Word) : (s.ask k x y).cores = s.cores := rfl
@[simp] theorem State.ask_nmus (s : State) (k : Nat) (x y : Word) : (s.ask k x y).nmus = s.nmus := rfl
@[simp] theorem State.ask_dram (s : State) (k : Nat) (x y : Word) : (s.ask k x y).dram = s.dram := rfl
@[simp] theorem State.ask_chip (s : State) (k : Nat) (x y : Word) : (s.ask k x y).chip = s.chip := rfl
@[simp] theorem State.ask_host (s : State) (k : Nat) (x y : Word) : (s.ask k x y).host = s.host := rfl
@[simp] theorem State.ask_peer (s : State) (k : Nat) (x y : Word) : (s.ask k x y).peer = s.peer := rfl
@[simp] theorem State.ask_net (s : State) (k : Nat) (x y : Word) : (s.ask k x y).net = s.net := rfl
@[simp] theorem State.ask_gathers (s : State) (k : Nat) (x y : Word) : (s.ask k x y).gathers = s.gathers := rfl
@[simp] theorem State.ask_waiters (s : State) (k : Nat) (x y : Word) : (s.ask k x y).waiters = s.waiters := rfl
@[simp] theorem State.ask_walks (s : State) (k : Nat) (x y : Word) : (s.ask k x y).walks = s.walks := rfl
@[simp] theorem State.ask_fills (s : State) (k : Nat) (x y : Word) : (s.ask k x y).fills = s.fills := rfl
@[simp] theorem State.ask_wants (s : State) (k : Nat) (x y : Word) : (s.ask k x y).wants = s.wants := rfl
@[simp] theorem State.ask_denials (s : State) (k : Nat) (x y : Word) : (s.ask k x y).denials = s.denials := rfl
@[simp] theorem State.ask_shoots (s : State) (k : Nat) (x y : Word) : (s.ask k x y).shoots = s.shoots := rfl
@[simp] theorem State.ask_rtabs (s : State) (k : Nat) (x y : Word) : (s.ask k x y).rtabs = s.rtabs := rfl
@[simp] theorem State.ask_moves (s : State) (k : Nat) (x y : Word) : (s.ask k x y).moves = s.moves := rfl
@[simp] theorem State.ask_bmsgs (s : State) (k : Nat) (x y : Word) : (s.ask k x y).bmsgs = s.bmsgs := rfl
@[simp] theorem State.ask_d (s : State) (k : Nat) (x y : Word) : (s.ask k x y).d = s.d := rfl
@[simp] theorem State.ask_m (s : State) (k : Nat) (x y : Word) : (s.ask k x y).m = s.m := rfl
@[simp] theorem State.ask_mg (s : State) (k : Nat) (x y : Word) : (s.ask k x y).mg = s.mg := rfl
@[simp] theorem State.ask_acl (s : State) (k : Nat) (x y : Word) : (s.ask k x y).acl = s.acl := rfl
@[simp] theorem State.ask_hans (s : State) (k : Nat) (x y : Word) : (s.ask k x y).hans = s.hans := rfl
@[simp] theorem State.ask_t (s : State) (k : Nat) (x y : Word) : (s.ask k x y).t = s.t := rfl
@[simp] theorem State.ask_ports (s : State) (k : Nat) (x y : Word) : (s.ask k x y).ports = s.ports := rfl
@[simp] theorem State.ask_msix (s : State) (k : Nat) (x y : Word) : (s.ask k x y).msix = s.msix := rfl
@[simp] theorem State.ask_hostOut (s : State) (k : Nat) (x y : Word) : (s.ask k x y).hostOut = s.hostOut := rfl
@[simp] theorem State.ask_linkOut (s : State) (k : Nat) (x y : Word) : (s.ask k x y).linkOut = s.linkOut := rfl
@[simp] theorem State.ask_log (s : State) (k : Nat) (x y : Word) : (s.ask k x y).log = s.log := rfl

@[simp] theorem State.askTagged_sched (s : State) (k : Nat) (x y : Word) (g : Nat) : (s.askTagged k x y g).sched = s.sched := rfl
@[simp] theorem State.askTagged_turn (s : State) (k : Nat) (x y : Word) (g : Nat) : (s.askTagged k x y g).turn = s.turn := rfl
@[simp] theorem State.askTagged_cur (s : State) (k : Nat) (x y : Word) (g : Nat) : (s.askTagged k x y g).cur = s.cur := rfl
@[simp] theorem State.askTagged_unit (s : State) (k : Nat) (x y : Word) (g : Nat) : (s.askTagged k x y g).unit = s.unit := rfl
@[simp] theorem State.askTagged_fresh (s : State) (k : Nat) (x y : Word) (g : Nat) : (s.askTagged k x y g).fresh = s.fresh := rfl
@[simp] theorem State.askTagged_strands (s : State) (k : Nat) (x y : Word) (g : Nat) : (s.askTagged k x y g).strands = s.strands := rfl
@[simp] theorem State.askTagged_cores (s : State) (k : Nat) (x y : Word) (g : Nat) : (s.askTagged k x y g).cores = s.cores := rfl
@[simp] theorem State.askTagged_nmus (s : State) (k : Nat) (x y : Word) (g : Nat) : (s.askTagged k x y g).nmus = s.nmus := rfl
@[simp] theorem State.askTagged_dram (s : State) (k : Nat) (x y : Word) (g : Nat) : (s.askTagged k x y g).dram = s.dram := rfl
@[simp] theorem State.askTagged_chip (s : State) (k : Nat) (x y : Word) (g : Nat) : (s.askTagged k x y g).chip = s.chip := rfl
@[simp] theorem State.askTagged_host (s : State) (k : Nat) (x y : Word) (g : Nat) : (s.askTagged k x y g).host = s.host := rfl
@[simp] theorem State.askTagged_peer (s : State) (k : Nat) (x y : Word) (g : Nat) : (s.askTagged k x y g).peer = s.peer := rfl
@[simp] theorem State.askTagged_net (s : State) (k : Nat) (x y : Word) (g : Nat) : (s.askTagged k x y g).net = s.net := rfl
@[simp] theorem State.askTagged_gathers (s : State) (k : Nat) (x y : Word) (g : Nat) : (s.askTagged k x y g).gathers = s.gathers := rfl
@[simp] theorem State.askTagged_waiters (s : State) (k : Nat) (x y : Word) (g : Nat) : (s.askTagged k x y g).waiters = s.waiters := rfl
@[simp] theorem State.askTagged_walks (s : State) (k : Nat) (x y : Word) (g : Nat) : (s.askTagged k x y g).walks = s.walks := rfl
@[simp] theorem State.askTagged_fills (s : State) (k : Nat) (x y : Word) (g : Nat) : (s.askTagged k x y g).fills = s.fills := rfl
@[simp] theorem State.askTagged_wants (s : State) (k : Nat) (x y : Word) (g : Nat) : (s.askTagged k x y g).wants = s.wants := rfl
@[simp] theorem State.askTagged_denials (s : State) (k : Nat) (x y : Word) (g : Nat) : (s.askTagged k x y g).denials = s.denials := rfl
@[simp] theorem State.askTagged_shoots (s : State) (k : Nat) (x y : Word) (g : Nat) : (s.askTagged k x y g).shoots = s.shoots := rfl
@[simp] theorem State.askTagged_rtabs (s : State) (k : Nat) (x y : Word) (g : Nat) : (s.askTagged k x y g).rtabs = s.rtabs := rfl
@[simp] theorem State.askTagged_moves (s : State) (k : Nat) (x y : Word) (g : Nat) : (s.askTagged k x y g).moves = s.moves := rfl
@[simp] theorem State.askTagged_bmsgs (s : State) (k : Nat) (x y : Word) (g : Nat) : (s.askTagged k x y g).bmsgs = s.bmsgs := rfl
@[simp] theorem State.askTagged_d (s : State) (k : Nat) (x y : Word) (g : Nat) : (s.askTagged k x y g).d = s.d := rfl
@[simp] theorem State.askTagged_m (s : State) (k : Nat) (x y : Word) (g : Nat) : (s.askTagged k x y g).m = s.m := rfl
@[simp] theorem State.askTagged_mg (s : State) (k : Nat) (x y : Word) (g : Nat) : (s.askTagged k x y g).mg = s.mg := rfl
@[simp] theorem State.askTagged_acl (s : State) (k : Nat) (x y : Word) (g : Nat) : (s.askTagged k x y g).acl = s.acl := rfl
@[simp] theorem State.askTagged_hans (s : State) (k : Nat) (x y : Word) (g : Nat) : (s.askTagged k x y g).hans = s.hans := rfl
@[simp] theorem State.askTagged_t (s : State) (k : Nat) (x y : Word) (g : Nat) : (s.askTagged k x y g).t = s.t := rfl
@[simp] theorem State.askTagged_ports (s : State) (k : Nat) (x y : Word) (g : Nat) : (s.askTagged k x y g).ports = s.ports := rfl
@[simp] theorem State.askTagged_msix (s : State) (k : Nat) (x y : Word) (g : Nat) : (s.askTagged k x y g).msix = s.msix := rfl
@[simp] theorem State.askTagged_hostOut (s : State) (k : Nat) (x y : Word) (g : Nat) : (s.askTagged k x y g).hostOut = s.hostOut := rfl
@[simp] theorem State.askTagged_linkOut (s : State) (k : Nat) (x y : Word) (g : Nat) : (s.askTagged k x y g).linkOut = s.linkOut := rfl
@[simp] theorem State.askTagged_log (s : State) (k : Nat) (x y : Word) (g : Nat) : (s.askTagged k x y g).log = s.log := rfl

/-! Reading back the part that was written. -/

@[simp] theorem State.strand_setStrand (s : State) (n : Nat) (x : Strand) : (s.setStrand n x).strand n = x := by
  simp [State.strand, State.setStrand]
theorem State.strand_setStrand_other (s : State) (n k : Nat) (x : Strand) (h : k ≠ n) : (s.setStrand n x).strand k = s.strand k := by
  simp [State.strand, State.setStrand, tget_tput_other _ _ _ _ h]
@[simp] theorem State.core_setCore (s : State) (n : Nat) (x : Core) : (s.setCore n x).core n = x := by
  simp [State.core, State.setCore]
theorem State.core_setCore_other (s : State) (n k : Nat) (x : Core) (h : k ≠ n) : (s.setCore n x).core k = s.core k := by
  simp [State.core, State.setCore, tget_tput_other _ _ _ _ h]
@[simp] theorem State.nmu_setNmu (s : State) (n : Nat) (x : Nmu) : (s.setNmu n x).nmu n = x := by
  simp [State.nmu, State.setNmu]
theorem State.nmu_setNmu_other (s : State) (n k : Nat) (x : Nmu) (h : k ≠ n) : (s.setNmu n x).nmu k = s.nmu k := by
  simp [State.nmu, State.setNmu, tget_tput_other _ _ _ _ h]
@[simp] theorem State.mgr_setMgr (s : State) (o : Nat) (v : Word) : (s.setMgr o v).mgr o = v := by
  simp [State.mgr, State.setMgr]
theorem State.mgr_setMgr_other (s : State) (o k : Nat) (v : Word) (h : k ≠ o) : (s.setMgr o v).mgr k = s.mgr k := by
  simp [State.mgr, State.setMgr, tget_tput_other _ _ _ _ h]
@[simp] theorem State.strand_modStrand (s : State) (n : Nat) (f : Strand → Strand) : (s.modStrand n f).strand n = f (s.strand n) := by
  simp [State.modStrand]
theorem State.strand_modStrand_other (s : State) (n k : Nat) (f : Strand → Strand) (h : k ≠ n) :
    (s.modStrand n f).strand k = s.strand k := by
  simp [State.modStrand, State.strand_setStrand_other _ _ _ _ h]
@[simp] theorem State.core_modCore (s : State) (n : Nat) (f : Core → Core) : (s.modCore n f).core n = f (s.core n) := by
  simp [State.modCore]
theorem State.core_modCore_other (s : State) (n k : Nat) (f : Core → Core) (h : k ≠ n) : (s.modCore n f).core k = s.core k := by
  simp [State.modCore, State.core_setCore_other _ _ _ _ h]
@[simp] theorem State.nmu_modNmu (s : State) (n : Nat) (f : Nmu → Nmu) : (s.modNmu n f).nmu n = f (s.nmu n) := by
  simp [State.modNmu]
theorem State.nmu_modNmu_other (s : State) (n k : Nat) (f : Nmu → Nmu) (h : k ≠ n) : (s.modNmu n f).nmu k = s.nmu k := by
  simp [State.modNmu, State.nmu_setNmu_other _ _ _ _ h]
@[simp] theorem State.me_setMe (s : State) (x : Strand) : (s.setMe x).me = x := by
  simp [State.me, State.setMe]
@[simp] theorem State.setMe_setMe (s : State) (x y : Strand) : (s.setMe x).setMe y = s.setMe y := by
  simp [State.setMe, State.setStrand]
@[simp] theorem State.setStrand_setStrand (s : State) (n : Nat) (x y : Strand) : (s.setStrand n x).setStrand n y = s.setStrand n y := by
  simp [State.setStrand]
theorem State.strand_setMe_other (s : State) (k : Nat) (x : Strand) (h : k ≠ s.cur) : (s.setMe x).strand k = s.strand k :=
  State.strand_setStrand_other s s.cur k x h
@[simp] theorem State.setMe_core (s : State) (x : Strand) (c : Nat) : (s.setMe x).core c = s.core c := rfl
@[simp] theorem State.setMe_nmu (s : State) (x : Strand) (u : Nat) : (s.setMe x).nmu u = s.nmu u := rfl
@[simp] theorem State.setMe_mgr (s : State) (x : Strand) (o : Nat) : (s.setMe x).mgr o = s.mgr o := rfl
@[simp] theorem State.setStrand_core (s : State) (n : Nat) (x : Strand) (c : Nat) : (s.setStrand n x).core c = s.core c := rfl
@[simp] theorem State.setStrand_nmu (s : State) (n : Nat) (x : Strand) (u : Nat) : (s.setStrand n x).nmu u = s.nmu u := rfl
@[simp] theorem State.setStrand_mgr (s : State) (n : Nat) (x : Strand) (o : Nat) : (s.setStrand n x).mgr o = s.mgr o := rfl
@[simp] theorem State.setCore_strand (s : State) (c : Nat) (x : Core) (n : Nat) : (s.setCore c x).strand n = s.strand n := rfl
@[simp] theorem State.modCore_strand (s : State) (c : Nat) (f : Core → Core) (n : Nat) : (s.modCore c f).strand n = s.strand n := rfl
@[simp] theorem State.modNmu_strand (s : State) (u : Nat) (f : Nmu → Nmu) (n : Nat) : (s.modNmu u f).strand n = s.strand n := rfl
@[simp] theorem State.setCore_me (s : State) (c : Nat) (x : Core) : (s.setCore c x).me = s.me := rfl
@[simp] theorem State.modCore_me (s : State) (c : Nat) (f : Core → Core) : (s.modCore c f).me = s.me := rfl
@[simp] theorem State.modNmu_me (s : State) (u : Nat) (f : Nmu → Nmu) : (s.modNmu u f).me = s.me := rfl

/-! Vectors by number. -/

@[simp] theorem vAt_vSet_self {α : Type} [Inhabited α] {n : Nat} (v : Vector α n) (i : Nat) (a : α) (h : i < n) : vAt (vSet v i a) i = a := by
  simp [vAt, vSet, h]
theorem vAt_vSet_other {α : Type} [Inhabited α] {n : Nat} (v : Vector α n) (i j : Nat) (a : α) (h : j ≠ i) :
    vAt (vSet v i a) j = vAt v j := by
  unfold vAt vSet
  by_cases hj : j < n <;> by_cases hi : i < n <;> simp [hi, hj, Ne.symm h]
theorem vSet_out {α : Type} {n : Nat} (v : Vector α n) (i : Nat) (a : α) (h : n ≤ i) : vSet v i a = v := by
  simp [vSet, Nat.not_lt.2 h]

/-! A strand. -/

@[simp] theorem Strand.fly_phase (t : Strand) (d : Dst) (v : FVal) (f : BitVec 6) (l : Nat) (x : Bool) : (t.fly d v f l x).phase = t.phase := rfl
@[simp] theorem Strand.fly_kernel (t : Strand) (d : Dst) (v : FVal) (f : BitVec 6) (l : Nat) (x : Bool) : (t.fly d v f l x).kernel = t.kernel := rfl
@[simp] theorem Strand.fly_rank (t : Strand) (d : Dst) (v : FVal) (f : BitVec 6) (l : Nat) (x : Bool) : (t.fly d v f l x).rank = t.rank := rfl
@[simp] theorem Strand.fly_pc (t : Strand) (d : Dst) (v : FVal) (f : BitVec 6) (l : Nat) (x : Bool) : (t.fly d v f l x).pc = t.pc := rfl
@[simp] theorem Strand.fly_r (t : Strand) (d : Dst) (v : FVal) (f : BitVec 6) (l : Nat) (x : Bool) : (t.fly d v f l x).r = t.r := rfl
@[simp] theorem Strand.fly_sys (t : Strand) (d : Dst) (v : FVal) (f : BitVec 6) (l : Nat) (x : Bool) : (t.fly d v f l x).sys = t.sys := rfl
@[simp] theorem Strand.fly_e (t : Strand) (d : Dst) (v : FVal) (f : BitVec 6) (l : Nat) (x : Bool) : (t.fly d v f l x).e = t.e := rfl
@[simp] theorem Strand.fly_clock (t : Strand) (d : Dst) (v : FVal) (f : BitVec 6) (l : Nat) (x : Bool) : (t.fly d v f l x).clock = t.clock := rfl
@[simp] theorem Strand.fly_readyAt (t : Strand) (d : Dst) (v : FVal) (f : BitVec 6) (l : Nat) (x : Bool) : (t.fly d v f l x).readyAt = t.readyAt := rfl
@[simp] theorem Strand.fly_vuFree (t : Strand) (d : Dst) (v : FVal) (f : BitVec 6) (l : Nat) (x : Bool) : (t.fly d v f l x).vuFree = t.vuFree := rfl
@[simp] theorem Strand.fly_bundle (t : Strand) (d : Dst) (v : FVal) (f : BitVec 6) (l : Nat) (x : Bool) : (t.fly d v f l x).bundle = t.bundle := rfl
@[simp] theorem Strand.fly_ilUpTo (t : Strand) (d : Dst) (v : FVal) (f : BitVec 6) (l : Nat) (x : Bool) : (t.fly d v f l x).ilUpTo = t.ilUpTo := rfl
@[simp] theorem Strand.fly_blen (t : Strand) (d : Dst) (v : FVal) (f : BitVec 6) (l : Nat) (x : Bool) : (t.fly d v f l x).blen = t.blen := rfl
@[simp] theorem Strand.fly_more (t : Strand) (d : Dst) (v : FVal) (f : BitVec 6) (l : Nat) (x : Bool) : (t.fly d v f l x).more = t.more := rfl
@[simp] theorem Strand.fly_pend (t : Strand) (d : Dst) (v : FVal) (f : BitVec 6) (l : Nat) (x : Bool) : (t.fly d v f l x).pend = t.pend := rfl
@[simp] theorem Strand.fly_iss (t : Strand) (d : Dst) (v : FVal) (f : BitVec 6) (l : Nat) (x : Bool) : (t.fly d v f l x).iss = t.iss := rfl
@[simp] theorem Strand.fly_wfeFrom (t : Strand) (d : Dst) (v : FVal) (f : BitVec 6) (l : Nat) (x : Bool) : (t.fly d v f l x).wfeFrom = t.wfeFrom := rfl
@[simp] theorem Strand.fly_wfeOut (t : Strand) (d : Dst) (v : FVal) (f : BitVec 6) (l : Nat) (x : Bool) : (t.fly d v f l x).wfeOut = t.wfeOut := rfl
@[simp] theorem Strand.fly_dlHit (t : Strand) (d : Dst) (v : FVal) (f : BitVec 6) (l : Nat) (x : Bool) : (t.fly d v f l x).dlHit = t.dlHit := rfl
@[simp] theorem Strand.fly_stepDue (t : Strand) (d : Dst) (v : FVal) (f : BitVec 6) (l : Nat) (x : Bool) : (t.fly d v f l x).stepDue = t.stepDue := rfl
@[simp] theorem Strand.fly_bpSkip (t : Strand) (d : Dst) (v : FVal) (f : BitVec 6) (l : Nat) (x : Bool) : (t.fly d v f l x).bpSkip = t.bpSkip := rfl
@[simp] theorem Strand.fly_entering (t : Strand) (d : Dst) (v : FVal) (f : BitVec 6) (l : Nat) (x : Bool) : (t.fly d v f l x).entering = t.entering := rfl

@[simp] theorem Strand.pass_phase (t : Strand) (n : Nat) : (t.pass n).phase = t.phase := rfl
@[simp] theorem Strand.pass_kernel (t : Strand) (n : Nat) : (t.pass n).kernel = t.kernel := rfl
@[simp] theorem Strand.pass_rank (t : Strand) (n : Nat) : (t.pass n).rank = t.rank := rfl
@[simp] theorem Strand.pass_pc (t : Strand) (n : Nat) : (t.pass n).pc = t.pc := rfl
@[simp] theorem Strand.pass_r (t : Strand) (n : Nat) : (t.pass n).r = t.r := rfl
@[simp] theorem Strand.pass_e (t : Strand) (n : Nat) : (t.pass n).e = t.e := rfl
@[simp] theorem Strand.pass_flights (t : Strand) (n : Nat) : (t.pass n).flights = t.flights := rfl
@[simp] theorem Strand.pass_readyAt (t : Strand) (n : Nat) : (t.pass n).readyAt = t.readyAt := rfl
@[simp] theorem Strand.pass_vuFree (t : Strand) (n : Nat) : (t.pass n).vuFree = t.vuFree := rfl
@[simp] theorem Strand.pass_bundle (t : Strand) (n : Nat) : (t.pass n).bundle = t.bundle := rfl
@[simp] theorem Strand.pass_ilUpTo (t : Strand) (n : Nat) : (t.pass n).ilUpTo = t.ilUpTo := rfl
@[simp] theorem Strand.pass_blen (t : Strand) (n : Nat) : (t.pass n).blen = t.blen := rfl
@[simp] theorem Strand.pass_more (t : Strand) (n : Nat) : (t.pass n).more = t.more := rfl
@[simp] theorem Strand.pass_pend (t : Strand) (n : Nat) : (t.pass n).pend = t.pend := rfl
@[simp] theorem Strand.pass_iss (t : Strand) (n : Nat) : (t.pass n).iss = t.iss := rfl
@[simp] theorem Strand.pass_wfeFrom (t : Strand) (n : Nat) : (t.pass n).wfeFrom = t.wfeFrom := rfl
@[simp] theorem Strand.pass_wfeOut (t : Strand) (n : Nat) : (t.pass n).wfeOut = t.wfeOut := rfl
@[simp] theorem Strand.pass_stepDue (t : Strand) (n : Nat) : (t.pass n).stepDue = t.stepDue := rfl
@[simp] theorem Strand.pass_bpSkip (t : Strand) (n : Nat) : (t.pass n).bpSkip = t.bpSkip := rfl
@[simp] theorem Strand.pass_entering (t : Strand) (n : Nat) : (t.pass n).entering = t.entering := rfl

@[simp] theorem Strand.raise_phase (t : Strand) (f : BitVec 6) : (t.raise f).phase = t.phase := rfl
@[simp] theorem Strand.raise_kernel (t : Strand) (f : BitVec 6) : (t.raise f).kernel = t.kernel := rfl
@[simp] theorem Strand.raise_rank (t : Strand) (f : BitVec 6) : (t.raise f).rank = t.rank := rfl
@[simp] theorem Strand.raise_pc (t : Strand) (f : BitVec 6) : (t.raise f).pc = t.pc := rfl
@[simp] theorem Strand.raise_r (t : Strand) (f : BitVec 6) : (t.raise f).r = t.r := rfl
@[simp] theorem Strand.raise_e (t : Strand) (f : BitVec 6) : (t.raise f).e = t.e := rfl
@[simp] theorem Strand.raise_flights (t : Strand) (f : BitVec 6) : (t.raise f).flights = t.flights := rfl
@[simp] theorem Strand.raise_clock (t : Strand) (f : BitVec 6) : (t.raise f).clock = t.clock := rfl
@[simp] theorem Strand.raise_readyAt (t : Strand) (f : BitVec 6) : (t.raise f).readyAt = t.readyAt := rfl
@[simp] theorem Strand.raise_vuFree (t : Strand) (f : BitVec 6) : (t.raise f).vuFree = t.vuFree := rfl
@[simp] theorem Strand.raise_bundle (t : Strand) (f : BitVec 6) : (t.raise f).bundle = t.bundle := rfl
@[simp] theorem Strand.raise_ilUpTo (t : Strand) (f : BitVec 6) : (t.raise f).ilUpTo = t.ilUpTo := rfl
@[simp] theorem Strand.raise_blen (t : Strand) (f : BitVec 6) : (t.raise f).blen = t.blen := rfl
@[simp] theorem Strand.raise_more (t : Strand) (f : BitVec 6) : (t.raise f).more = t.more := rfl
@[simp] theorem Strand.raise_pend (t : Strand) (f : BitVec 6) : (t.raise f).pend = t.pend := rfl
@[simp] theorem Strand.raise_iss (t : Strand) (f : BitVec 6) : (t.raise f).iss = t.iss := rfl
@[simp] theorem Strand.raise_wfeFrom (t : Strand) (f : BitVec 6) : (t.raise f).wfeFrom = t.wfeFrom := rfl
@[simp] theorem Strand.raise_wfeOut (t : Strand) (f : BitVec 6) : (t.raise f).wfeOut = t.wfeOut := rfl
@[simp] theorem Strand.raise_dlHit (t : Strand) (f : BitVec 6) : (t.raise f).dlHit = t.dlHit := rfl
@[simp] theorem Strand.raise_stepDue (t : Strand) (f : BitVec 6) : (t.raise f).stepDue = t.stepDue := rfl
@[simp] theorem Strand.raise_bpSkip (t : Strand) (f : BitVec 6) : (t.raise f).bpSkip = t.bpSkip := rfl
@[simp] theorem Strand.raise_entering (t : Strand) (f : BitVec 6) : (t.raise f).entering = t.entering := rfl

@[simp] theorem Strand.setPort_phase (t : Strand) (q : Nat) (p : Port) : (t.setPort q p).phase = t.phase := rfl
@[simp] theorem Strand.setPort_kernel (t : Strand) (q : Nat) (p : Port) : (t.setPort q p).kernel = t.kernel := rfl
@[simp] theorem Strand.setPort_rank (t : Strand) (q : Nat) (p : Port) : (t.setPort q p).rank = t.rank := rfl
@[simp] theorem Strand.setPort_pc (t : Strand) (q : Nat) (p : Port) : (t.setPort q p).pc = t.pc := rfl
@[simp] theorem Strand.setPort_r (t : Strand) (q : Nat) (p : Port) : (t.setPort q p).r = t.r := rfl
@[simp] theorem Strand.setPort_sys (t : Strand) (q : Nat) (p : Port) : (t.setPort q p).sys = t.sys := rfl
@[simp] theorem Strand.setPort_flights (t : Strand) (q : Nat) (p : Port) : (t.setPort q p).flights = t.flights := rfl
@[simp] theorem Strand.setPort_clock (t : Strand) (q : Nat) (p : Port) : (t.setPort q p).clock = t.clock := rfl
@[simp] theorem Strand.setPort_readyAt (t : Strand) (q : Nat) (p : Port) : (t.setPort q p).readyAt = t.readyAt := rfl
@[simp] theorem Strand.setPort_vuFree (t : Strand) (q : Nat) (p : Port) : (t.setPort q p).vuFree = t.vuFree := rfl
@[simp] theorem Strand.setPort_bundle (t : Strand) (q : Nat) (p : Port) : (t.setPort q p).bundle = t.bundle := rfl
@[simp] theorem Strand.setPort_ilUpTo (t : Strand) (q : Nat) (p : Port) : (t.setPort q p).ilUpTo = t.ilUpTo := rfl
@[simp] theorem Strand.setPort_blen (t : Strand) (q : Nat) (p : Port) : (t.setPort q p).blen = t.blen := rfl
@[simp] theorem Strand.setPort_more (t : Strand) (q : Nat) (p : Port) : (t.setPort q p).more = t.more := rfl
@[simp] theorem Strand.setPort_pend (t : Strand) (q : Nat) (p : Port) : (t.setPort q p).pend = t.pend := rfl
@[simp] theorem Strand.setPort_iss (t : Strand) (q : Nat) (p : Port) : (t.setPort q p).iss = t.iss := rfl
@[simp] theorem Strand.setPort_wfeFrom (t : Strand) (q : Nat) (p : Port) : (t.setPort q p).wfeFrom = t.wfeFrom := rfl
@[simp] theorem Strand.setPort_wfeOut (t : Strand) (q : Nat) (p : Port) : (t.setPort q p).wfeOut = t.wfeOut := rfl
@[simp] theorem Strand.setPort_dlHit (t : Strand) (q : Nat) (p : Port) : (t.setPort q p).dlHit = t.dlHit := rfl
@[simp] theorem Strand.setPort_stepDue (t : Strand) (q : Nat) (p : Port) : (t.setPort q p).stepDue = t.stepDue := rfl
@[simp] theorem Strand.setPort_bpSkip (t : Strand) (q : Nat) (p : Port) : (t.setPort q p).bpSkip = t.bpSkip := rfl
@[simp] theorem Strand.setPort_entering (t : Strand) (q : Nat) (p : Port) : (t.setPort q p).entering = t.entering := rfl

end Sys2Proof.Machine
end

