-- ==== Sys2Proof/Laws/Issue.lean ====
section
/-! SUPPORT. Everything the shared shape of a syllable can do: trap for its privilege, hold, pass inactive, or act; and what ends, holds
and records of a bundle leave alone. -/

namespace Sys2Proof.Machine

/-- A syllable that is ready acts. -/
theorem syllable_ready {s : State} {g : Guard} {ds : Strand → List Dst} {k : Strand → Res} (p : Bool) (hp : p = false ∨ s.me.sys.priv = true)
    (h : Ready s g (ds s.me)) : syllable s p g ds k = finish (k s.me) := by
  obtain ⟨h1, h2, h3⟩ := h
  rcases hp with hp | hp <;> simp [syllable, h1, h2, h3, hp]

theorem syllable_busy_guard {s : State} {g : Guard} {ds : Strand → List Dst} {k : Strand → Res} (p : Bool)
    (hp : p = false ∨ s.me.sys.priv = true) (h : s.me.busy [.p (s.me.pp g.p.toNat)] = true) : syllable s p g ds k = .next (held s) := by
  rcases hp with hp | hp <;> simp [syllable, h, hp, finish]

theorem syllable_inactive {s : State} {g : Guard} {ds : Strand → List Dst} {k : Strand → Res} (p : Bool)
    (hp : p = false ∨ s.me.sys.priv = true) (h : s.me.busy [.p (s.me.pp g.p.toNat)] = false) (ha : s.me.active g = false) :
    syllable s p g ds k = .next (conclude s) := by
  rcases hp with hp | hp <;> simp [syllable, h, ha, hp, finish]

theorem syllable_privileged {s : State} {g : Guard} {ds : Strand → List Dst} {k : Strand → Res} (h : s.me.sys.priv = false) :
    syllable s true g ds k = .next (trapped s { cause := 0x04 }) := by
  simp [syllable, h, finish, trapIf]

/-- What a syllable comes to. -/
theorem syllable_cases {s t : State} {p : Bool} {g : Guard} {ds : Strand → List Dst} {k : Strand → Res}
    (h : syllable s p g ds k = .next t) :
    (p = true ∧ s.me.sys.priv = false ∧ t = trapped s { cause := 0x04 }) ∨
    (s.me.busy [.p (s.me.pp g.p.toNat)] = true ∧ t = held s) ∨
    (s.me.busy [.p (s.me.pp g.p.toNat)] = false ∧ s.me.active g = false ∧ t = conclude s) ∨
    (s.me.busy [.p (s.me.pp g.p.toNat)] = false ∧ s.me.active g = true ∧ s.me.busy (ds s.me) = true ∧ t = held s) ∨
    (Ready s g (ds s.me) ∧ finish (k s.me) = .next t) := by
  unfold syllable at h
  simp only [Bool.and_eq_true, Bool.not_eq_eq_eq_not, Bool.not_true] at h
  split at h
  · next c => simp only [finish, trapIf] at h; injection h with h; exact .inl ⟨c.1, c.2, h.symm⟩
  · split at h
    · next c => simp only [finish] at h; injection h with h; exact .inr (.inl ⟨c, h.symm⟩)
    · next c =>
      simp only [Bool.not_eq_true] at c
      split at h
      · next a => simp only [finish] at h; injection h with h; exact .inr (.inr (.inl ⟨c, a, h.symm⟩))
      · next a =>
        simp only [Bool.not_eq_false] at a
        split at h
        · next b => simp only [finish] at h; injection h with h; exact .inr (.inr (.inr (.inl ⟨c, a, b, h.symm⟩)))
        · next b => exact .inr (.inr (.inr (.inr ⟨⟨c, a, by simpa using b⟩, h⟩)))

/-- What an issue attempt comes to. -/
theorem finish_cases {r : Res} {t : State} (h : finish r = .next t) :
    (∃ s, r = .ok s ∧ t = conclude s) ∨ (∃ s, r = .hold s ∧ t = held s) ∨ ∃ s x, r = .trap s x ∧ t = trapped s x := by
  cases r with
  | ok s => simp only [finish] at h; injection h with h; exact .inl ⟨s, rfl, h.symm⟩
  | hold s => simp only [finish] at h; injection h with h; exact .inr (.inl ⟨s, rfl, h.symm⟩)
  | trap s x => simp only [finish] at h; injection h with h; exact .inr (.inr ⟨s, x, rfl, h.symm⟩)

/-! The end of a bundle and a hold touch nothing but the acting strand. -/

/-- The end of an issue forgets the causes returned to the strand, where there are any (R387, R395). -/
theorem settled_cases (s : State) (n : Nat) : s.settled n = s ∨ s.settled n = s.forget (.strand n) := by
  unfold State.settled; split
  · exact .inl rfl
  · exact .inr rfl

theorem conclude_cases (s : State) : ∃ t : Strand, conclude s = s.setMe t ∨ conclude s = (s.setMe t).forget (.strand s.cur) := by
  unfold conclude; split
  · exact ⟨_, .inl rfl⟩
  · exact ⟨_, settled_cases _ _⟩

/-- With no cause returned to any source, a syllable that acts changes nothing but its strand. -/
theorem conclude_eq (s : State) (h : s.denials = []) : ∃ t : Strand, conclude s = s.setMe t := by
  unfold conclude; split
  · exact ⟨_, rfl⟩
  · exact ⟨_, if_pos (by rw [State.setMe_denials, h]; rfl)⟩

theorem conclude_strand (s : State) (n : Nat) (h : n ≠ s.cur) : (conclude s).strand n = s.strand n := by
  obtain ⟨t, e | e⟩ := conclude_cases s <;> rw [e] <;> exact State.strand_setMe_other s n t h

theorem conclude_memory (s : State) : SameMemory s (conclude s) := by
  obtain ⟨t, e | e⟩ := conclude_cases s <;> rw [e] <;> exact fun _ => ⟨rfl, rfl, rfl, rfl⟩

theorem held_eq (s : State) : ∃ t : Strand, held s = s.setMe t := ⟨_, rfl⟩

theorem OnlyMe_setMe (s : State) (t : Strand) : OnlyMe s (s.setMe t) :=
  ⟨rfl, fun n h => State.strand_setMe_other s n t h⟩

theorem OnlyMe_conclude (s : State) (h : s.denials = []) : OnlyMe s (conclude s) := by
  obtain ⟨t, e⟩ := conclude_eq s h; rw [e]; exact OnlyMe_setMe s t

theorem OnlyMe_held (s : State) : OnlyMe s (held s) := OnlyMe_setMe s _

theorem conclude_setMe (s : State) (t : Strand) (h : s.denials = []) : ∃ u : Strand, conclude (s.setMe t) = s.setMe u := by
  obtain ⟨u, e⟩ := conclude_eq (s.setMe t) h; exact ⟨u, by rw [e, State.setMe_setMe]⟩

/-- Where nothing waits for the bundle's end, its end changes no register file, no engine and no result under way. -/
theorem endBundle_calm (t : Strand) (h : t.pend = []) :
    t.endBundle.r = t.r ∧ t.endBundle.e = t.e ∧ t.endBundle.flights = t.flights ∧
      { t.endBundle.sys with deadline := t.sys.deadline, il := t.sys.il } = t.sys ∧ t.endBundle.phase = t.phase ∧ t.endBundle.kernel = t.kernel ∧
      t.endBundle.pc = t.pc + BitVec.ofNat 64 (8 * t.blen) ∧ t.endBundle.bundle = t.bundle + 1 ∧
      t.endBundle.clock = t.clock + t.e.divS ∧ t.endBundle.iss = .issued ∧ t.endBundle.pend = [] := by
  simp only [Strand.endBundle, Strand.clearIl, h, Strand.pass, Strand.bundleTicks, Strand.cyc]
  split <;> simp

end Sys2Proof.Machine
end

