-- ==== Sys2Proof/Laws/Near.lean ====
section
/-! SUPPORT. What a word of a near-memory unit comes to, from what its meaning answers. -/

namespace Sys2Proof.Machine

/-- The unit after a word that acts: the machine at s1 otherwise. -/
def nmAfter (s s1 : State) (pops : Nat) (push : List SReg) (a : Int) : State :=
  (s1.modNmu s.unit (fun x => { x with stack := push ++ (s.nmu s.unit).stack.drop pops, wait := none, got := none })).modNmu s.unit
    (fun x => { x with pc := a.toNat })

theorem nmWord_go {s : State} {l : NLaunch} {pops pushes n : Nat} {k : Nmu → NLaunch → NmRes} {s1 : State} {push : List SReg} {pc : Option Int}
    (hrun : (s.nmu s.unit).run = some l) (hp : pops ≤ (s.nmu s.unit).stack.length)
    (hq : (s.nmu s.unit).stack.length - pops + pushes ≤ 8) (hk : k (s.nmu s.unit) l = .go s1 push pc)
    (h0 : 0 ≤ pc.getD (((s.nmu s.unit).pc + n : Nat) : Int)) (h1 : pc.getD (((s.nmu s.unit).pc + n : Nat) : Int) ≤ 8191) :
    nmWord s pops pushes n k = .next (nmAfter s s1 pops push (pc.getD (((s.nmu s.unit).pc + n : Nat) : Int))) := by
  unfold nmWord nmAfter
  simp only [hrun, hk]
  rw [if_neg (Nat.not_lt.2 hp), if_neg (Nat.not_lt.2 hq), if_neg]
  simp only [Bool.or_eq_true, decide_eq_true_eq]; omega

theorem nmWord_hold {s : State} {l : NLaunch} {pops pushes n : Nat} {k : Nmu → NLaunch → NmRes} {s1 : State}
    (hrun : (s.nmu s.unit).run = some l) (hp : pops ≤ (s.nmu s.unit).stack.length)
    (hq : (s.nmu s.unit).stack.length - pops + pushes ≤ 8) (hk : k (s.nmu s.unit) l = .hold s1) :
    nmWord s pops pushes n k = .next s1 := by
  unfold nmWord
  simp only [hrun, hk]
  rw [if_neg (Nat.not_lt.2 hp), if_neg (Nat.not_lt.2 hq)]

theorem nmWord_stop {s : State} {l : NLaunch} {pops pushes n r d : Nat} {va : Word} {k : Nmu → NLaunch → NmRes} {s1 : State}
    (hrun : (s.nmu s.unit).run = some l) (hp : pops ≤ (s.nmu s.unit).stack.length)
    (hq : (s.nmu s.unit).stack.length - pops + pushes ≤ 8) (hk : k (s.nmu s.unit) l = .stop s1 r d va) :
    nmWord s pops pushes n k = .next (s1.stopUnit s.unit r (s.nmu s.unit).pc ((s.nmu s.unit).wordAt (s.nmu s.unit).pc) d va) := by
  unfold nmWord
  simp only [hrun, hk]
  rw [if_neg (Nat.not_lt.2 hp), if_neg (Nat.not_lt.2 hq)]

theorem nmAfter_frame (s s1 : State) (pops : Nat) (push : List SReg) (a : Int) :
    OnlyNmu s.unit s1 (nmAfter s s1 pops push a) ∧
      (nmAfter s s1 pops push a).nmu s.unit =
        { s1.nmu s.unit with stack := push ++ (s.nmu s.unit).stack.drop pops, wait := none, got := none, pc := a.toNat } := by
  refine ⟨⟨rfl, fun k hk => ?_⟩, ?_⟩
  · simp [nmAfter, State.nmu_modNmu_other _ _ _ _ hk]
  · simp [nmAfter]

end Sys2Proof.Machine
end

