-- ==== Sys2Proof/Tests/Slice0.lean ====
section
/-! SUPPORT. The package's own tests: ill-formed terms, words written out from the encodings, single steps, and for every obligation with
hypotheses a witness that meets them. -/

namespace Sys2Proof.Tests
open Sys2Proof Sys2Proof.Machine
set_option Elab.async false

/-! Small states. -/

/-- The guard `(p0)`. -/
def g0 : Guard := { p := 0, neg := false }
/-- The head of an M syllable without options. -/
def h0 : MHead := { g := g0, tkw := 0, tks := 0, swap := false, sh := 0 }
/-- Access-table rows that grant all that the witnesses use. -/
def grants : MasterRow :=
  { regR := BitVec.allOnes 64, regW := BitVec.allOnes 64, sram := [(0, 3)], sp := [(0, 3)], nmu := [(0, 7)], mgR := true,
    host := [(0, 2 ^ 40, true, true)] }
def fullBank : SpBank := { st := .full, waking := none, drops := [], struck := [] }
/-- The kernel of the witnesses, with every bank, ring and barrier allotted. -/
def theKernel : Kernel :=
  { loadedKernel with spmask := BitVec.allOnes 32, ringmask := BitVec.allOnes 32, barmask := BitVec.allOnes 128 }
/-- Strand 0 runs, in user state, with the scratchpad in full banks. -/
def base : State :=
  let s := placeSyllable State.reset 0
  let s := { s with acl := [(0, grants), (144, grants)], d := { s.d with kernels := [theKernel] } }
  s.modCore 0 (fun c => { c with banks := Vector.replicate 32 fullBank })
def setg (s : State) (i : Nat) (v : Word) : State := s.setMe (s.me.setG i { val := v, poison := false })
def setp (s : State) (i : Nat) (v : Mask) : State := s.setMe (s.me.setP i { val := v, poison := false })
def badg (s : State) (i : Nat) : State := s.setMe (s.me.setG i { val := 0, poison := true })
def priv (s : State) : State := s.setMe { s.me with sys := { s.me.sys with priv := true } }

theorem not_busy (t : Strand) (h : t.flights = []) (ds : List Dst) : t.busy ds = false := by
  simp [Strand.busy, h]

/-- A strand with nothing under way is ready, under p0, for registers of every number. -/
theorem calm_ready {s : State} (h : s.me.flights = []) (ds : List Dst) : Ready s g0 ds :=
  ⟨not_busy _ h _, by simp [Strand.active, Strand.mask, Strand.p, g0], not_busy _ h _⟩

/-- A range of four 64 KiB units of ASID 0 at 2^38, which lies at device address 2^28. -/
def range0 : RangeRec :=
  { asid := 0, base := 2 ^ 38, gen := 0, zone := 0, n := true, a := true, x := true, w := true, r := true, partialRes := false, moving := false,
    pinned := false, compactible := true, mdie := 0, length := 4, offset := BitVec.ofNat 64 (2 ^ 64 - 2 ^ 38 + 2 ^ 28), bidx := 0xFFFFFF, map := 0 }
/-- Device memory in one linear zone and one region, granted to every master of the witnesses; ASID 0's directory, with room for cap records,
holds rs, and the core and the unit have them in their tables. The queue descriptors stand at 0x3000, the reserve of saves at 0x100000. -/
def worldOf (rs : List RangeRec) (cap : Nat) (hwalk : Bool) : State :=
  let s := (base.setMgr 0x5000 0xE000000000000000).setMgr 0x5008 (BitVec.ofNat 64 (63 * 2 ^ 30 + 512 * 2 ^ 20))
  let s := ((s.setMgr 0x5200 0x8003FF0000000000).setMgr 0x108 0x1000).setMgr 0x100 0x3000
  let s := (s.setMgr 0x120 0x100000).setMgr 0x128 0x100000
  let s := { s with acl := [(0, grants), (144, grants), (272, grants), (274, grants), (276, grants), (278, grants), (283, grants)] }
  let s := { s with dram := writeBytes s.dram 0x1000 (toBytes 8 (cap * 2 ^ 40 + 0x2000) ++ toBytes 8 (rs.length * 2 ^ 40 + 0x8000) ++
    toBytes 8 (1 + if hwalk then 2 else 0)) }
  let s := { s with dram := writeBytes s.dram 0x2000 (rs.flatMap (fun (r : RangeRec) => r.bytes)) }
  let es := (rs.zip (List.range rs.length)).map (fun e => ({ asid := 0, r := e.1, idx := e.2, kept := [], dead := none } : RtEntry))
  (s.modCore 0 (fun c => { c with rtab := es })).modNmu 0 (fun m => { m with rtab := es })
def world : State := worldOf [range0] 4 true
/-- The descriptor of work queue 0: its slots stand at 0x20000. -/
def withQueue (s : State) (cfg prod cons : Nat) : State :=
  { s with dram := writeBytes s.dram 0x3000 (toBytes 8 0x20000 ++ toBytes 8 cfg ++ toBytes 4 prod ++ toBytes 4 cons) }

/-! Decoding: words written out from the encodings. -/

theorem test_decode_integer :
    [decodeTableWord 64 0x8020298E00000000,
      decodeTableWord 64 0x8047F841FFFFFFFE,
      decodeTableWord 64 0x8080298E00000000,
      decodeTableWord 64 0x80A7F841FFFFFFFE,
      decodeTableWord 64 0x80C0298E00000000,
      decodeTableWord 64 0x80E7F841FFFFFFFE,
      decodeTableWord 64 0x8100298E00000000,
      decodeTableWord 64 0x8127F841FFFFFFFE,
      decodeTableWord 64 0x8140298E00000000,
      decodeTableWord 64 0x8060298F80000001] =
    [some (.add ⟨0, false⟩ ⟨5, 6, .reg 7⟩),
      some (.sub ⟨3, true⟩ ⟨31, 1, .imm 0xFFFFFFFE⟩),
      some (.mul ⟨0, false⟩ ⟨5, 6, .reg 7⟩),
      some (.mulh ⟨3, true⟩ ⟨31, 1, .imm 0xFFFFFFFE⟩),
      some (.mulhu ⟨0, false⟩ ⟨5, 6, .reg 7⟩),
      some (.div ⟨3, true⟩ ⟨31, 1, .imm 0xFFFFFFFE⟩),
      some (.divu ⟨0, false⟩ ⟨5, 6, .reg 7⟩),
      some (.rem ⟨3, true⟩ ⟨31, 1, .imm 0xFFFFFFFE⟩),
      some (.remu ⟨0, false⟩ ⟨5, 6, .reg 7⟩),
      some (.addi ⟨0, false⟩ 5 6 7 0x80000001)] := rfl

theorem test_decode_logic :
    [decodeTableWord 64 0x8207F841FFFFFFFE,
      decodeTableWord 64 0x8220298E00000000,
      decodeTableWord 64 0x8247F841FFFFFFFE,
      decodeTableWord 64 0x8260298E00000000,
      decodeTableWord 64 0x8287F841FFFFFFFE,
      decodeTableWord 64 0x82A0298E00000000,
      decodeTableWord 64 0x82C7F841FFFFFFFE,
      decodeTableWord 64 0x82E0298E00000000,
      decodeTableWord 64 0x8307F841FFFFFFFE,
      decodeTableWord 64 0x8320298E00000000,
      decodeTableWord 64 0x8347F841FFFFFFFE,
      decodeTableWord 64 0x8360298E00000000,
      decodeTableWord 64 0x83804A8000000000,
      decodeTableWord 64 0x83A04A8000000000,
      decodeTableWord 64 0x83C04A8000000000,
      decodeTableWord 64 0x83E04A8000000000,
      decodeTableWord 64 0x84604A8000000002] =
    [some (.and ⟨3, true⟩ ⟨31, 1, .imm 0xFFFFFFFE⟩),
      some (.or ⟨0, false⟩ ⟨5, 6, .reg 7⟩),
      some (.xor ⟨3, true⟩ ⟨31, 1, .imm 0xFFFFFFFE⟩),
      some (.andn ⟨0, false⟩ ⟨5, 6, .reg 7⟩),
      some (.shl ⟨3, true⟩ ⟨31, 1, .imm 0xFFFFFFFE⟩),
      some (.shr ⟨0, false⟩ ⟨5, 6, .reg 7⟩),
      some (.sra ⟨3, true⟩ ⟨31, 1, .imm 0xFFFFFFFE⟩),
      some (.rot ⟨0, false⟩ ⟨5, 6, .reg 7⟩),
      some (.min ⟨3, true⟩ ⟨31, 1, .imm 0xFFFFFFFE⟩),
      some (.max ⟨0, false⟩ ⟨5, 6, .reg 7⟩),
      some (.minu ⟨3, true⟩ ⟨31, 1, .imm 0xFFFFFFFE⟩),
      some (.maxu ⟨0, false⟩ ⟨5, 6, .reg 7⟩),
      some (.abs ⟨0, false⟩ ⟨9, 10⟩),
      some (.clz ⟨0, false⟩ ⟨9, 10⟩),
      some (.ctz ⟨0, false⟩ ⟨9, 10⟩),
      some (.popc ⟨0, false⟩ ⟨9, 10⟩),
      some (.bswap ⟨0, false⟩ ⟨9, 10⟩ 2)] := rfl

theorem test_decode_fields :
    [decodeTableWord 64 0x84000886000000C0,
      decodeTableWord 64 0x84000881000001C8,
      decodeTableWord 64 0x8420088620000011,
      decodeTableWord 64 0x84200887000011FF,
      decodeTableWord 64 0x8440088620000000,
      decodeTableWord 64 0x844008870000007F,
      decodeTableWord 64 0x848008017FFFFFFF,
      decodeTableWord 64 0x84A0088189ABCDEF,
      decodeTableWord 64 0x84C078860000000A,
      decodeTableWord 64 0x84C0208D00000009,
      decodeTableWord 64 0x84E0088600000017,
      decodeTableWord 64 0x84E0088F00000005,
      decodeTableWord 64 0x8520088607FFFFFD,
      decodeTableWord 64 0x8540088600000000,
      decodeTableWord 64 0x850008810000000B,
      decodeTableWord 64 0x85001D010000001F] =
    [some (.bfx ⟨0, false⟩ 1 2 (.reg 3) 64 true),
      some (.bfx ⟨0, false⟩ 1 2 (.imm 200) 1 false),
      some (.bfi ⟨0, false⟩ 1 2 4 (.reg 3) 17),
      some (.bfi ⟨0, false⟩ 1 2 3 (.imm 255) 17),
      some (.fsh ⟨0, false⟩ 1 2 3 (.reg 4)),
      some (.fsh ⟨0, false⟩ 1 2 3 (.imm 127)),
      some (.li ⟨0, false⟩ 1 0x7FFFFFFF),
      some (.lih ⟨0, false⟩ 1 2 0x89ABCDEF),
      some (.cmp ⟨0, false⟩ 15 2 (.reg 3) .tst),
      some (.cmp ⟨0, false⟩ 4 2 (.imm 9) .gt),
      some (.sel ⟨0, false⟩ ⟨1, 2, .reg 3⟩ 7 true),
      some (.sel ⟨0, false⟩ ⟨1, 2, .imm 5⟩ 7 false),
      some (.lea ⟨0, false⟩ 1 2 3 5 0xFFFFFF),
      some (.winq ⟨0, false⟩ ⟨1, 2, .reg 3⟩),
      some (.movpToScalar ⟨0, false⟩ 1 2 11),
      some (.movpToPredicate ⟨0, false⟩ 3 20 15)] := rfl

theorem test_decode_control :
    [decodeTableWord 64 0x86000643FFFFFFFF,
      decodeTableWord 64 0x8620000100000004,
      decodeTableWord 64 0x8640F00100000004,
      decodeTableWord 64 0x8660078000000000,
      decodeTableWord 64 0x86800F8100000008,
      decodeTableWord 64 0x86A02001FFFFFFFD,
      decodeTableWord 64 0x86A02005FFFFFFFD,
      decodeTableWord 64 0x86C0014300000002,
      decodeTableWord 64 0x86E0000000000000,
      decodeTableWord 64 0x871F000000000000,
      decodeTableWord 64 0x872008810000FFFF,
      decodeTableWord 64 0x8C00080000000032,
      decodeTableWord 64 0x8C20004000000004,
      decodeTableWord 64 0x8C400001DEADBEEF,
      decodeTableWord 64 0x8C60000000000000,
      decodeTableWord 64 0x8C62000000000000,
      decodeTableWord 64 0x8C80000100000007] =
    [some (.br ⟨0, false⟩ 9 true true 0xFFFFFFFF),
      some (.jmp ⟨0, false⟩ 4),
      some (.call ⟨0, false⟩ 30 4),
      some (.ret ⟨0, false⟩ 30),
      some (.jr ⟨0, false⟩ 1 30 8),
      some (.loop ⟨0, false⟩ 4 0 0xFFFFFFFD),
      some (.loop ⟨0, false⟩ 4 2 0xFFFFFFFD),
      some (.brq ⟨0, false⟩ 5 true 2),
      some (.halt ⟨0, false⟩),
      some (.nop ⟨15, true⟩),
      some (.wfe ⟨0, false⟩ 1 2 0xFFFF),
      some (.sysr ⟨0, false⟩ 1 0x032),
      some (.sysw ⟨0, false⟩ 0x004 1),
      some (.trap ⟨0, false⟩ 0xDEADBEEF),
      some (.eret ⟨0, false⟩),
      some (.eret ⟨1, false⟩),
      some (.brk ⟨0, false⟩ 7)] := rfl

theorem test_decode_predicates_and_scalar_memory :
    [decodeTableWord 64 0x8800088600000000,
      decodeTableWord 64 0x8820088600000000,
      decodeTableWord 64 0x8840088600000000,
      decodeTableWord 64 0x8860088000000000,
      decodeTableWord 64 0x88800D0000000000,
      decodeTableWord 64 0x8880080100000400,
      decodeTableWord 64 0x88A0A08000000000,
      decodeTableWord 64 0x88C0A08000000000,
      decodeTableWord 64 0x8900150000000002,
      decodeTableWord 64 0x8900180900000001,
      decodeTableWord 64 0x8920A0C000000021,
      decodeTableWord 64 0x8A00088600000005,
      decodeTableWord 64 0x8A000887FFFFFFF8,
      decodeTableWord 64 0x8A20088600000002,
      decodeTableWord 64 0x8A20088100000010,
      decodeTableWord 64 0x8B0008860000009B,
      decodeTableWord 64 0x8B20088600000052,
      decodeTableWord 64 0x8B40088600000001,
      decodeTableWord 64 0x8B60088620000040,
      decodeTableWord 64 0x8B80088000000CB9,
      decodeTableWord 64 0x8BA008860000006B] =
    [some (.pand ⟨0, false⟩ ⟨1, 2, 3⟩),
      some (.por ⟨0, false⟩ ⟨1, 2, 3⟩),
      some (.pxor ⟨0, false⟩ ⟨1, 2, 3⟩),
      some (.pnot ⟨0, false⟩ 1 2),
      some (.psetPredicate ⟨0, false⟩ 1 (.reg 20)),
      some (.psetPredicate ⟨0, false⟩ 1 (.imm 1024)),
      some (.pcnt ⟨0, false⟩ 20 2),
      some (.pany ⟨0, false⟩ 20 2),
      some (.shset ⟨0, false⟩ 2 2 (.reg 20)),
      some (.shset ⟨0, false⟩ 3 4 (.imm 1)),
      some (.shget ⟨0, false⟩ 20 3 1 true),
      some (.ld ⟨0, false⟩ ⟨1, 2, .reg 3⟩ .h true),
      some (.ld ⟨0, false⟩ ⟨1, 2, .imm 0xFFFFFFF8⟩ .d false),
      some (.st ⟨0, false⟩ ⟨1, 2, .reg 3⟩ .w),
      some (.st ⟨0, false⟩ ⟨1, 2, .imm 16⟩ .b),
      some (.fadd ⟨0, false⟩ ⟨1, 2, 3, .f64, .rtz, true⟩),
      some (.fsub ⟨0, false⟩ ⟨1, 2, 3, .f16, .dyn, false⟩),
      some (.fmul ⟨0, false⟩ ⟨1, 2, 3, .bf16, .rne, false⟩),
      some (.ffma ⟨0, false⟩ ⟨1, 2, 3, .f32, .rsr, false⟩ 4),
      some (.fcvt ⟨0, false⟩ 1 2 .e2m1 .e4m3 .rup true),
      some (.fcmp ⟨0, false⟩ 1 2 3 .f64 .un)] := rfl

theorem test_decode_vector_arithmetic :
    [decodeTableWord 64 0xA024010584080000,
      decodeTableWord 64 0xA040B98108048000,
      decodeTableWord 64 0xA06070E508002000,
      decodeTableWord 64 0xA08010C109F30000,
      decodeTableWord 64 0xA0A020C10A000000,
      decodeTableWord 64 0xA0C040C108000000,
      decodeTableWord 64 0xA0E050C108000000,
      decodeTableWord 64 0xA10030C100002000,
      decodeTableWord 64 0xA12009C100000000,
      decodeTableWord 64 0xA14060C108400000] =
    [some (.vadd ⟨2, false⟩ ⟨.f32, .rne, false, 4, ⟨5, true⟩, ⟨33, false⟩⟩),
      some (.vsub ⟨0, false⟩ ⟨.f64, .rdn, false, 38, ⟨1, false⟩, ⟨2, true⟩⟩),
      some (.vmul ⟨0, false⟩ ⟨.i8, .rne, true, 3, ⟨37, false⟩, ⟨2, false⟩⟩),
      some (.vfma ⟨0, false⟩ ⟨.bf16, .rsr, false, 3, ⟨1, false⟩, ⟨2, false⟩, ⟨31, true⟩⟩),
      some (.vfms ⟨0, false⟩ ⟨.f16, .rne, false, 3, ⟨1, false⟩, ⟨2, false⟩, ⟨32, false⟩⟩),
      some (.vmin ⟨0, false⟩ ⟨.u32, .rne, false, 3, ⟨1, false⟩, ⟨2, false⟩⟩),
      some (.vmax ⟨0, false⟩ ⟨.i16, .rne, false, 3, ⟨1, false⟩, ⟨2, false⟩⟩),
      some (.vabs ⟨0, false⟩ ⟨.i32, .rne, true, 3, ⟨1, false⟩⟩),
      some (.vneg ⟨0, false⟩ ⟨.f32, .rne, false, 39, ⟨1, false⟩⟩),
      some (.vclamp ⟨0, false⟩ ⟨.u16, .rne, false, 3, ⟨1, false⟩, ⟨2, false⟩, ⟨4, false⟩⟩)] := rfl

theorem test_decode_vector_bits_and_moves :
    [decodeTableWord 64 0xA20000C108000000,
      decodeTableWord 64 0xA22000C108000000,
      decodeTableWord 64 0xA24000C108000000,
      decodeTableWord 64 0xA26000C100080000,
      decodeTableWord 64 0xA280508400001011,
      decodeTableWord 64 0xA2A0308414040000,
      decodeTableWord 64 0xA2C0808414000000,
      decodeTableWord 64 0xA2E07084000010FF,
      decodeTableWord 64 0xA300308400000000,
      decodeTableWord 64 0xA320608400000000,
      decodeTableWord 64 0xA340308400001FE0,
      decodeTableWord 64 0xA340808414000008,
      decodeTableWord 64 0xA360508414600000,
      decodeTableWord 64 0xA360508414001009,
      decodeTableWord 64 0xA400B3C414000007,
      decodeTableWord 64 0xA420008415800000,
      decodeTableWord 64 0xA440016000000000,
      decodeTableWord 64 0xA46001626AF00DEF,
      decodeTableWord 64 0xA480C15F00000000,
      decodeTableWord 64 0xA4A0014900000000,
      decodeTableWord 64 0xA4A0024500000001,
      decodeTableWord 64 0xA4C0024500000000,
      decodeTableWord 64 0xA4E0024500000000] =
    [some (.vand ⟨0, false⟩ ⟨3, ⟨1, false⟩, ⟨2, false⟩⟩),
      some (.vor ⟨0, false⟩ ⟨3, ⟨1, false⟩, ⟨2, false⟩⟩),
      some (.vxor ⟨0, false⟩ ⟨3, ⟨1, false⟩, ⟨2, false⟩⟩),
      some (.vnot ⟨0, false⟩ 3 ⟨1, true⟩),
      some (.vshl ⟨0, false⟩ ⟨.i16, 2, ⟨4, false⟩, .imm 17⟩),
      some (.vshr ⟨0, false⟩ ⟨.i32, 2, ⟨4, false⟩, .vec ⟨5, true⟩⟩),
      some (.vsra ⟨0, false⟩ ⟨.u8, 2, ⟨4, false⟩, .vec ⟨5, false⟩⟩),
      some (.vrot ⟨0, false⟩ ⟨.i8, 2, ⟨4, false⟩, .imm 255⟩),
      some (.vpopc ⟨0, false⟩ ⟨.i32, .rne, false, 2, ⟨4, false⟩⟩),
      some (.vclz ⟨0, false⟩ ⟨.u16, .rne, false, 2, ⟨4, false⟩⟩),
      some (.vbfx ⟨0, false⟩ .i32 2 ⟨4, false⟩ (.imm 31) true 32),
      some (.vbfx ⟨0, false⟩ .u8 2 ⟨4, false⟩ (.vec ⟨5, false⟩) false 8),
      some (.vfsh ⟨0, false⟩ .i16 2 ⟨4, false⟩ ⟨5, false⟩ (.vec ⟨6, false⟩)),
      some (.vfsh ⟨0, false⟩ .i16 2 ⟨4, false⟩ ⟨5, false⟩ (.imm 9)),
      some (.vcmp ⟨0, false⟩ .f64 .ord 15 ⟨4, false⟩ ⟨5, false⟩),
      some (.vsel ⟨0, false⟩ ⟨2, ⟨4, false⟩, ⟨5, false⟩⟩ 8 true),
      some (.vmov ⟨0, false⟩ 5 ⟨32, false⟩),
      some (.vli ⟨0, false⟩ 5 0x89ABCDEF),
      some (.vbcs ⟨0, false⟩ .e2m1 5 31),
      some (.vmovpToVector ⟨0, false⟩ 5 9),
      some (.vmovpToPredicate ⟨0, false⟩ 9 ⟨5, false⟩),
      some (.vptest ⟨0, false⟩ 9 ⟨5, false⟩),
      some (.vpclr ⟨0, false⟩ 9 ⟨5, false⟩)] := rfl

theorem test_decode_vector_conversions_and_axes :
    [decodeTableWord 64 0xA600004200006039,
      decodeTableWord 64 0xA62070420C002001,
      decodeTableWord 64 0xA640C04200000007,
      decodeTableWord 64 0xA660004200010072,
      decodeTableWord 64 0xA660004200000017,
      decodeTableWord 64 0xA68000420C00E021,
      decodeTableWord 64 0xA800204200002000,
      decodeTableWord 64 0xA820204200002000,
      decodeTableWord 64 0xA860204200002000,
      decodeTableWord 64 0xA880204200002000,
      decodeTableWord 64 0xA8A0204200002000,
      decodeTableWord 64 0xA840104200014000,
      decodeTableWord 64 0xAA0000420000003F,
      decodeTableWord 64 0xAA2000420000000F,
      decodeTableWord 64 0xAA4000420000003E,
      decodeTableWord 64 0xAA6000420000000E,
      decodeTableWord 64 0xAA8000C700000000,
      decodeTableWord 64 0xAAA040C700000001,
      decodeTableWord 64 0xAAC0B0C700000002,
      decodeTableWord 64 0xAAE000C700000000,
      decodeTableWord 64 0xAC0000C724000002,
      decodeTableWord 64 0xAC20000720900003,
      decodeTableWord 64 0xAC4060C724000000] =
    [some (.vcvt ⟨0, false⟩ ⟨.f32, .rtz, true, 1, ⟨2, false⟩⟩ .e4m3 3),
      some (.vpack ⟨0, false⟩ .i8 true ⟨1, ⟨2, false⟩, ⟨3, false⟩⟩ 1),
      some (.vunpk ⟨0, false⟩ .e2m1 1 ⟨2, false⟩ 7),
      some (.vquant ⟨0, false⟩ .e2m1 false .rsr 1 ⟨2, false⟩ 7),
      some (.vquant ⟨0, false⟩ .i8 true .rne 1 ⟨2, false⟩ 1),
      some (.vdeq ⟨0, false⟩ .e5m2 .rup true ⟨1, ⟨2, false⟩, ⟨3, false⟩⟩ 2),
      some (.vrcp ⟨0, false⟩ ⟨.f16, .rne, true, 1, ⟨2, false⟩⟩),
      some (.vrsq ⟨0, false⟩ ⟨.f16, .rne, true, 1, ⟨2, false⟩⟩),
      some (.vexp2 ⟨0, false⟩ ⟨.f16, .rne, true, 1, ⟨2, false⟩⟩),
      some (.vlog2 ⟨0, false⟩ ⟨.f16, .rne, true, 1, ⟨2, false⟩⟩),
      some (.vtanh ⟨0, false⟩ ⟨.f16, .rne, true, 1, ⟨2, false⟩⟩),
      some (.vsqrt ⟨0, false⟩ ⟨.bf16, .dyn, false, 1, ⟨2, false⟩⟩),
      some (.vrotr ⟨0, false⟩ ⟨1, ⟨2, false⟩, 63⟩),
      some (.vrotc ⟨0, false⟩ ⟨1, ⟨2, false⟩, 15⟩),
      some (.vbcr ⟨0, false⟩ ⟨1, ⟨2, false⟩, 62⟩),
      some (.vbcc ⟨0, false⟩ ⟨1, ⟨2, false⟩, 14⟩),
      some (.vredr ⟨0, false⟩ ⟨.f32, .add, .rne, false, 3, ⟨7, false⟩⟩),
      some (.vredc ⟨0, false⟩ ⟨.u32, .min, .rne, false, 3, ⟨7, false⟩⟩),
      some (.vscanr ⟨0, false⟩ ⟨.f64, .max, .rne, false, 3, ⟨7, false⟩⟩),
      some (.vtrn ⟨0, false⟩ 3 ⟨7, false⟩),
      some (.vgath ⟨0, false⟩ 3 ⟨7, false⟩ 9 2),
      some (.vscat ⟨0, false⟩ ⟨7, false⟩ ⟨8, false⟩ 9 3),
      some (.vlut ⟨0, false⟩ .u16 3 ⟨7, false⟩ 9)] := rfl

theorem test_decode_array_commands :
    [decodeTableWord 64 0xC0804B890AC40000,
      decodeTableWord 64 0xC1004B890A8B0000,
      decodeTableWord 64 0xC1804B8832A00107,
      decodeTableWord 64 0xC2004BDE32B48000,
      decodeTableWord 64 0xC28008000280000A,
      decodeTableWord 64 0xC300004002800004,
      decodeTableWord 64 0xC300003E02800003,
      decodeTableWord 64 0xC380004C028D0005,
      decodeTableWord 64 0xC38000064AC80003,
      decodeTableWord 64 0xC40C000000000040,
      decodeTableWord 64 0xC480000000000000] =
    [some (.mma ⟨⟨0, false⟩, 1, 2, true, 3⟩ .e2m1 true 5 4 33),
      some (.mmai ⟨⟨0, false⟩, 1, 2, true, 3⟩ true true false true false 5 4 33),
      some (.mmax ⟨⟨0, false⟩, 1, 2, true, 3⟩ .mxe2m1 false 5 4 6 7 8),
      some (.mmaa ⟨⟨0, false⟩, 1, 2, true, 3⟩ .e5m2e4m3 true false true 5 47 6),
      some (.mzero ⟨⟨0, false⟩, 0, 2, false, 0⟩ 5 10),
      some (.mload ⟨⟨0, false⟩, 0, 0, false, 0⟩ 5 32 true 0),
      some (.mload ⟨⟨0, false⟩, 0, 0, false, 0⟩ 5 31 false 3),
      some (.mdrain ⟨⟨0, false⟩, 0, 0, false, 0⟩ .bf16 .rdn true true 38 5 0 1),
      some (.mdrain ⟨⟨0, false⟩, 0, 0, false, 0⟩ .i32 .rne false false 3 5 9 3),
      some (.lease ⟨⟨1, true⟩, 0, 0, false, 0⟩ 64),
      some (.unlease ⟨⟨0, false⟩, 0, 0, false, 0⟩)] := rfl

theorem test_decode_engine_commands :
    [decodeTableWord 64 0xC803C0000000000B,
      decodeTableWord 64 0xC8803C0000000003,
      decodeTableWord 64 0xCC00000210039003,
      decodeTableWord 64 0xCC8000021085FCC5,
      decodeTableWord 64 0xCE00000210000023,
      decodeTableWord 64 0xD000084200000000,
      decodeTableWord 64 0xD080004E00000000,
      decodeTableWord 64 0xD1000040F8000000,
      decodeTableWord 64 0xD180004CF0000000,
      decodeTableWord 64 0xD40000120000000B,
      decodeTableWord 64 0xD800000000000042,
      decodeTableWord 64 0xD8800000000003E2,
      decodeTableWord 64 0xD88000000000001D,
      decodeTableWord 64 0xD880000000000000] =
    [some (.twait ⟨⟨0, false⟩, 15, 0, false, 0⟩ 11),
      some (.tsig ⟨⟨0, false⟩, 0, 15, false, 0⟩ 3),
      some (.copy ⟨⟨0, false⟩, 0, 0, false, 0⟩ 1 2 3 true true .sem 4),
      some (.copyt ⟨⟨0, false⟩, 0, 0, false, 0⟩ 1 2 5 6 true true true .ring 31),
      some (.nlaunch ⟨⟨0, false⟩, 0, 0, false, 0⟩ 1 2 3 true),
      some (.pstart ⟨⟨0, false⟩, 0, 2, false, 0⟩ 33),
      some (.pstop ⟨⟨0, false⟩, 0, 0, false, 0⟩ 39),
      some (.psave ⟨⟨0, false⟩, 0, 0, false, 0⟩ 32 31),
      some (.pload ⟨⟨0, false⟩, 0, 0, false, 0⟩ 38 30),
      some (.qflush ⟨⟨0, false⟩, 0, 0, false, 0⟩ 11 9),
      some (.clkdiv ⟨⟨0, false⟩, 0, 0, false, 0⟩ .strand 16),
      some (.wake ⟨⟨0, false⟩, 0, 0, false, 0⟩ (.spbank 31)),
      some (.wake ⟨⟨0, false⟩, 0, 0, false, 0⟩ (.vbank 7)),
      some (.wake ⟨⟨0, false⟩, 0, 0, false, 0⟩ .array)] := rfl

theorem test_decode_layouts_ports_rings_and_barriers :
    [decodeTableWord 64 0xE02001001F40001E,
      decodeTableWord 64 0xE040010009C0001E,
      decodeTableWord 64 0xE10000001FDFFFEC,
      decodeTableWord 64 0xE10005001F000002,
      decodeTableWord 64 0xE120A00003000007,
      decodeTableWord 64 0xE140000021800042,
      decodeTableWord 64 0xE160A00027000002,
      decodeTableWord 64 0xE180004420000000,
      decodeTableWord 64 0xE20000441F000FFF,
      decodeTableWord 64 0xE220A0001F000000,
      decodeTableWord 64 0xE260A0001F000000,
      decodeTableWord 64 0xE280A0001F000000,
      decodeTableWord 64 0xE24005001F000000,
      decodeTableWord 64 0xE2A005001F000000,
      decodeTableWord 64 0xE2C0A0001F000002,
      decodeTableWord 64 0xE30000440000007F,
      decodeTableWord 64 0xE32000410000007F,
      decodeTableWord 64 0xE340484040000003,
      decodeTableWord 64 0xE360484080000003,
      decodeTableWord 64 0xE380480000000083] =
    [some (.vld ⟨0, false⟩ 31 30 4 true),
      some (.vst ⟨0, false⟩ ⟨9, true⟩ 30 4 true),
      some (.lset ⟨0, false⟩ 31 12 (.imm 0x2FFFF)),
      some (.lset ⟨0, false⟩ 31 2 (.reg 20)),
      some (.lget ⟨0, false⟩ 20 3 7),
      some (.psetPattern ⟨0, false⟩ 33 2 (.imm 2)),
      some (.qstat ⟨0, false⟩ 20 39 2),
      some (.qrew ⟨0, false⟩ 32 1 2),
      some (.rinit ⟨0, false⟩ 31 1 2 0xFFF),
      some (.rclaim ⟨0, false⟩ ⟨20, 31⟩),
      some (.rwaitf ⟨0, false⟩ ⟨20, 31⟩),
      some (.rwaite ⟨0, false⟩ ⟨20, 31⟩),
      some (.rpub ⟨0, false⟩ ⟨31, 20⟩),
      some (.rrel ⟨0, false⟩ ⟨31, 20⟩),
      some (.rstat ⟨0, false⟩ ⟨20, 31⟩ 2),
      some (.bset ⟨0, false⟩ 127 1 2),
      some (.barr ⟨0, false⟩ .dv 127 1),
      some (.bwait ⟨0, false⟩ .co 9 3 1),
      some (.barw ⟨0, false⟩ .cl 9 3 1),
      some (.bstat ⟨0, false⟩ 9 3 1)] := rfl

theorem test_decode_atomics_and_order :
    [decodeTableWord 64 0xE400490B00000360,
      decodeTableWord 64 0xE420010B40000240,
      decodeTableWord 64 0xE440490B00000360,
      decodeTableWord 64 0xE460010B40000240,
      decodeTableWord 64 0xE480490B00000360,
      decodeTableWord 64 0xE4A0010B40000240,
      decodeTableWord 64 0xE4C0490B00000360,
      decodeTableWord 64 0xE4E0010B40000240,
      decodeTableWord 64 0xE500490B00000360,
      decodeTableWord 64 0xE520490B00000366,
      decodeTableWord 64 0xE540414C0000010A,
      decodeTableWord 64 0xE560490AC0000040,
      decodeTableWord 64 0xE600010A00000002,
      decodeTableWord 64 0xE600010025000004,
      decodeTableWord 64 0xE620010000000800,
      decodeTableWord 64 0xE620490000000005,
      decodeTableWord 64 0xE620490000000002,
      decodeTableWord 64 0xE620490000000003,
      decodeTableWord 64 0xE680014D00000000,
      decodeTableWord 64 0xE6A0494D40000001,
      decodeTableWord 64 0xE700000040000000,
      decodeTableWord 64 0xE720000000000000,
      decodeTableWord 64 0xE740494080FFFCA0,
      decodeTableWord 64 0xE760494100002060] =
    [some (.aadd ⟨0, false⟩ ⟨9, 4, 5, .dv, .ar, true⟩),
      some (.aand ⟨0, false⟩ ⟨0, 4, 5, .sy, .rel, false⟩),
      some (.aor ⟨0, false⟩ ⟨9, 4, 5, .dv, .ar, true⟩),
      some (.axor ⟨0, false⟩ ⟨0, 4, 5, .sy, .rel, false⟩),
      some (.amin ⟨0, false⟩ ⟨9, 4, 5, .dv, .ar, true⟩),
      some (.amax ⟨0, false⟩ ⟨0, 4, 5, .sy, .rel, false⟩),
      some (.aminu ⟨0, false⟩ ⟨9, 4, 5, .dv, .ar, true⟩),
      some (.amaxu ⟨0, false⟩ ⟨0, 4, 5, .sy, .rel, false⟩),
      some (.axchg ⟨0, false⟩ ⟨9, 4, 5, .dv, .ar, true⟩),
      some (.acas ⟨0, false⟩ ⟨9, 4, 5, .dv, .ar, true⟩ 6),
      some (.acas2 ⟨0, false⟩ 8 5 6 10 .sd .acq),
      some (.afadd ⟨0, false⟩ ⟨9, 4, 5, .di, .rlx, false⟩),
      some (.redx ⟨0, false⟩ 4 (.scalar 5 2)),
      some (.redx ⟨0, false⟩ 4 (.vector 37)),
      some (.redfOpen ⟨0, false⟩ 4 0x100),
      some (.redfRd ⟨0, false⟩ 9 4 true),
      some (.redfFin ⟨0, false⟩ 9 4 false),
      some (.redfSt ⟨0, false⟩ 9 4),
      some (.sems ⟨0, false⟩ .dv 5 6),
      some (.semw ⟨0, false⟩ .sy 9 5 6 true),
      some (.fence ⟨0, false⟩ .co),
      some (.mark ⟨0, false⟩),
      some (.ldacq ⟨0, false⟩ .cl 9 5 0x3FFF .h true),
      some (.strel ⟨0, false⟩ .dv 9 5 8 .d)] := rfl

theorem test_decode_ranges_banks_and_launch :
    [decodeTableWord 64 0xE800494C00000000,
      decodeTableWord 64 0xE820494C00000000,
      decodeTableWord 64 0xE840014D00000000,
      decodeTableWord 64 0xE840000C40000001,
      decodeTableWord 64 0xE860494000000001,
      decodeTableWord 64 0xE880014C00000000,
      decodeTableWord 64 0xE8A0494C00000001,
      decodeTableWord 64 0xE900000000000081,
      decodeTableWord 64 0xE920000C00000001,
      decodeTableWord 64 0xE940000C00000000,
      decodeTableWord 64 0xEA00494C00000000,
      decodeTableWord 64 0xEA20014C0000BEEF] =
    [some (.rgsplit ⟨0, false⟩ ⟨9, 5, 6⟩),
      some (.rgmerge ⟨0, false⟩ ⟨9, 5, 6⟩),
      some (.rginv ⟨0, false⟩ true false 5 6),
      some (.rginv ⟨0, false⟩ false true 0 6),
      some (.rgprobe ⟨0, false⟩ 9 5 1),
      some (.rgfill ⟨0, false⟩ 5 6),
      some (.rgpin ⟨0, false⟩ ⟨9, 5, 6⟩ true),
      some (.bankoff ⟨0, false⟩ 0x81),
      some (.spdrop ⟨0, false⟩ 6 true),
      some (.spwake ⟨0, false⟩ 6),
      some (.launch ⟨0, false⟩ 9 5 6),
      some (.node ⟨0, false⟩ 5 6 0xBEEF)] := rfl

theorem test_decode_near_memory :
    [decodeNm [32773, 0, 0, 0, 0],
      decodeNm [65535, 0, 0, 0, 0],
      decodeNm [1024, 2, 0, 0, 0],
      decodeNm [1029, 1, 32768, 0, 0],
      decodeNm [2048, 0, 0, 0, 0],
      decodeNm [3072, 0, 0, 0, 0],
      decodeNm [4096, 0, 0, 0, 0],
      decodeNm [5120, 0, 0, 0, 0],
      decodeNm [6144, 0, 0, 0, 0],
      decodeNm [6659, 0, 0, 0, 0],
      decodeNm [7168, 0, 0, 0, 0],
      decodeNm [8191, 0, 0, 0, 0],
      decodeNm [8192, 0, 0, 0, 0],
      decodeNm [8711, 0, 0, 0, 0],
      decodeNm [9216, 0, 0, 0, 0],
      decodeNm [9791, 0, 0, 0, 0],
      decodeNm [10243, 0, 0, 0, 0],
      decodeNm [10754, 0, 0, 0, 0],
      decodeNm [11265, 0, 0, 0, 0],
      decodeNm [11776, 0, 0, 0, 0],
      decodeNm [13042, 0, 0, 0, 0],
      decodeNm [12288, 0, 0, 0, 0],
      decodeNm [13312, 0, 0, 0, 0],
      decodeNm [14336, 0, 0, 0, 0],
      decodeNm [15365, 0, 0, 0, 0],
      decodeNm [16387, 0, 0, 0, 0],
      decodeNm [16386, 0, 0, 0, 0],
      decodeNm [17408, 0, 0, 0, 0],
      decodeNm [18432, 0, 0, 0, 0],
      decodeNm [19456, 0, 0, 0, 0],
      decodeNm [20480, 0, 0, 0, 0],
      decodeNm [21505, 0, 0, 0, 0],
      decodeNm [22528, 0, 0, 0, 0],
      decodeNm [23552, 0, 0, 0, 0],
      decodeNm [24578, 0, 0, 0, 0],
      decodeNm [25600, 0, 0, 0, 0],
      decodeNm [27647, 0, 0, 0, 0],
      decodeNm [27649, 0, 0, 0, 0],
      decodeNm [28672, 0, 0, 0, 0],
      decodeNm [29705, 0, 0, 0, 0],
      decodeNm [30720, 0, 0, 0, 0]] =
    [some (.lit 5, [0, 0, 0, 0]),
      some (.lit 0x7FFF, [0, 0, 0, 0]),
      some (.litx 0 false 2, [0, 0, 0]),
      some (.litx 1 true 0x80000001, [0, 0]),
      some (.dup, [0, 0, 0, 0]),
      some (.drop, [0, 0, 0, 0]),
      some (.swap, [0, 0, 0, 0]),
      some (.nmOver, [0, 0, 0, 0]),
      some (.nmAdd, [0, 0, 0, 0]),
      some (.nmAddImm 3, [0, 0, 0, 0]),
      some (.nmSub, [0, 0, 0, 0]),
      some (.nmSubImm 0x1FF, [0, 0, 0, 0]),
      some (.nmAnd, [0, 0, 0, 0]),
      some (.nmAndImm 7, [0, 0, 0, 0]),
      some (.nmShl, [0, 0, 0, 0]),
      some (.nmShlImm 63, [0, 0, 0, 0]),
      some (.nmLdWs 3, [0, 0, 0, 0]),
      some (.nmLdMem 2, [0, 0, 0, 0]),
      some (.nmStWs 1, [0, 0, 0, 0]),
      some (.nmStMem 0, [0, 0, 0, 0]),
      some (.mvx ⟨true, true, true, true, 2, 2⟩, [0, 0, 0, 0]),
      some (.mvx ⟨false, false, false, false, 0, 0⟩, [0, 0, 0, 0]),
      some (.mvwait, [0, 0, 0, 0]),
      some (.red, [0, 0, 0, 0]),
      some (.racc 1 true, [0, 0, 0, 0]),
      some (.rfin true true, [0, 0, 0, 0]),
      some (.rfin false true, [0, 0, 0, 0]),
      some (.vin, [0, 0, 0, 0]),
      some (.vout, [0, 0, 0, 0]),
      some (.rowclaim, [0, 0, 0, 0]),
      some (.rowrel, [0, 0, 0, 0]),
      some (.nmSemw true, [0, 0, 0, 0]),
      some (.nmSems, [0, 0, 0, 0]),
      some (.nmFence, [0, 0, 0, 0]),
      some (.nmLoop 2, [0, 0, 0, 0]),
      some (.next, [0, 0, 0, 0]),
      some (.nmBr 0x3FF, [0, 0, 0, 0]),
      some (.nmJmp 1, [0, 0, 0, 0]),
      some (.nmEnd, [0, 0, 0, 0]),
      some (.nmTrap 9, [0, 0, 0, 0]),
      some (.nmNop, [0, 0, 0, 0])] := rfl
/-! Ill-formed terms: at least one for each check that a decoder makes. -/

def gBad : Guard := { p := 0, neg := true }
def v1 : VSrc := ⟨1, false⟩
def q6 : VSrc := ⟨38, false⟩
def q0lu : VSrc := ⟨32, true⟩

/-- R20, R28, R29, R38: illegal opcodes of class S. -/
theorem test_ill_formed_scalar :
    ∀ i ∈ [Instr.add gBad ⟨1, 2, .reg 3⟩, .bfx g0 1 2 (.imm 0) 0 false, .bfx g0 1 2 (.imm 0) 65 false, .bfi g0 1 2 3 (.imm 0) 0,
        .bswap g0 ⟨1, 2⟩ 3, .psetPredicate g0 1 (.imm 1025), .shset g0 0 5 (.imm 0), .shget g0 1 0 5 false, .ld g0 ⟨1, 2, .imm 0⟩ .d true,
        .fadd g0 ⟨1, 2, 3, .i32, .rne, false⟩, .ffma g0 ⟨1, 2, 3, .e4m3, .rne, false⟩ 4, .fcmp g0 1 2 3 .u8 .lt, .sysr g0 1 0x012,
        .sysr g0 1 0x033, .sysw g0 0x029 1, .halt gBad, .jmp gBad 8, .eret gBad],
      WellFormed i = false := by decide +kernel

/-- R26, R107, R111 to R131: illegal opcodes and operands of class V. -/
theorem test_ill_formed_vector :
    ∀ i ∈ [Instr.vadd g0 ⟨.e4m3, .rne, false, 1, v1, v1⟩, .vadd g0 ⟨.i32, .rtz, false, 1, v1, v1⟩, .vadd g0 ⟨.f32, .rne, false, 33, v1, v1⟩,
        .vadd g0 ⟨.f32, .rne, false, 1, q6, v1⟩, .vadd g0 ⟨.f32, .rne, false, 1, q0lu, v1⟩, .vadd g0 ⟨.f32, .rne, false, 40, v1, v1⟩,
        .vmin g0 ⟨.f32, .rne, true, 1, v1, v1⟩, .vmin g0 ⟨.f32, .rtz, false, 1, v1, v1⟩, .vabs g0 ⟨.f32, .rne, true, 1, v1⟩,
        .vfma g0 ⟨.e2m1, .rne, false, 1, v1, v1, v1⟩, .vclamp g0 ⟨.u8, .rne, false, 1, v1, v1, q6⟩, .vshl g0 ⟨.f32, 1, v1, .imm 3⟩,
        .vpopc g0 ⟨.u32, .rne, true, 1, v1⟩, .vbfx g0 .u8 1 v1 (.imm 0) false 9, .vbfx g0 .u32 1 v1 (.imm 32) false 4,
        .vbfx g0 .u32 1 v1 (.imm 0) false 0, .vfsh g0 .f16 1 v1 v1 (.imm 0), .vcmp g0 .i16 .eq 1 v1 v1, .vcmp g0 .i32 .un 1 v1 v1,
        .vcvt g0 ⟨.f32, .rne, false, 1, v1⟩ .u8 4, .vcvt g0 ⟨.i32, .rtz, false, 1, v1⟩ .u8 0, .vpack g0 .f32 false ⟨1, v1, v1⟩ 0,
        .vpack g0 .bf16 true ⟨1, v1, v1⟩ 0, .vpack g0 .u16 false ⟨1, v1, v1⟩ 1, .vunpk g0 .u16 1 v1 2, .vquant g0 .e4m3 false .rne 1 v1 4,
        .vquant g0 .e4m3 true .rtz 1 v1 0, .vdeq g0 .i8 .rne false ⟨1, v1, v1⟩ 4, .vrcp g0 ⟨.f32, .rtz, false, 1, v1⟩,
        .vsqrt g0 ⟨.f64, .rne, false, 1, v1⟩, .vrotc g0 ⟨1, v1, 16⟩, .vredr g0 ⟨.f16, .add, .rne, false, 1, v1⟩,
        .vredr g0 ⟨.f32, .add, .rsr, false, 1, v1⟩, .vredr g0 ⟨.f32, .max, .rne, true, 1, v1⟩, .vredc g0 ⟨.i32, .add, .rtz, false, 1, v1⟩,
        .vlut g0 .f32 1 v1 2, .vscat g0 v1 q6 2 0, .vli g0 37 0],
      WellFormed i = false := by decide +kernel

/-- R140 to R185: illegal opcodes and operands of class M. -/
theorem test_ill_formed_engine :
    ∀ i ∈ [Instr.mma { h0 with g := gBad } .f32 false 0 1 2, .mma h0 .f64 false 1 1 2, .mma h0 .f32 false 0 38 2, .mmai h0 false false false false false 0 1 39,
        .mmax h0 .mxe4m3 false 0 32 2 1 0, .mmaa h0 .bf16 false false false 3 43 1, .mmaa h0 .bf16 false false false 3 5 1, .mzero h0 15 1,
        .mzero { h0 with sh := 1 } 0 0, .mload h0 0 32 true 1, .mload h0 0 3 true 0, .mdrain h0 .raw .rtz false false 1 0 0 0,
        .mdrain h0 .raw .rne true false 1 0 0 0, .mdrain h0 .bf16 .rne false false 1 0 3 0, .mdrain h0 .i8 .rne false false 1 0 3 1,
        .mdrain h0 .raw .rne false false 33 0 0 0, .lease h0 0, .lease h0 65, .lease { h0 with tkw := 1 } 5, .unlease { h0 with tks := 1 },
        .twait h0 0, .twait { h0 with tkw := 1 } 12, .tsig { h0 with tks := 1, tkw := 1 } 0, .copy h0 1 2 3 false false .none 1,
        .copyt h0 1 2 3 4 false false false .none 0, .copyt h0 1 0 3 4 false false true .none 0, .nlaunch h0 1 2 3 false, .pstart h0 31,
        .pstop h0 40, .qflush h0 0 1, .qflush h0 12 1, .clkdiv h0 .array 5, .wake { h0 with tks := 3 } .array],
      WellFormed i = false := by decide +kernel

/-- R159 to R230, R239 to R250: illegal forms of class X and of near-memory words. -/
theorem test_ill_formed_memory :
    ∀ i ∈ [Instr.vld g0 32 0 1 false, .vst g0 q0lu 0 1 false, .vst g0 ⟨32, false⟩ 0 1 true, .lset g0 0 13 (.imm 0), .lget g0 1 0 13, .psetPattern g0 5 0 (.imm 0),
        .psetPattern g0 32 13 (.imm 0), .qstat g0 1 32 3, .qrew g0 40 1 2, .rstat g0 ⟨1, 0⟩ 3, .bstat g0 1 0 2, .aadd g0 ⟨0, 1, 2, .dv, .acq, true⟩,
        .acas2 g0 0 1 2 4 .dv .ar, .acas2 g0 3 1 2 4 .dv .rlx, .acas2 g0 0 1 2 4 .dv .rlx, .acas2 g0 2 1 3 4 .dv .rlx, .redx g0 1 (.scalar 2 3),
        .redx g0 1 (.vector 39), .ldacq g0 .dv 1 2 0 .d true, .rginv g0 false true 1 2, .fence gBad .sy, .launch gBad 1 2 3,
        .litx 0 false 0x10000, .mvx ⟨false, false, false, false, 0, 7⟩, .mvx ⟨true, false, false, false, 0, 0⟩, .racc 3 false],
      WellFormed i = false := by decide +kernel

/-! Witnesses of the scalar obligations. -/

theorem witness_ScalarBinaryResults :
    (∀ (r x : GReg) (v : BitVec 32), Ready base g0 (.g r.toNat :: .g x.toNat :: srcBReg (.imm v)) ∧
      Ready base g0 (.g r.toNat :: .g x.toNat :: srcBReg (.reg x))) ∧
    base.me.flights.any (fun x => x.last != 0) = false :=
  ⟨fun _ _ _ => ⟨calm_ready rfl _, calm_ready rfl _⟩, rfl⟩

theorem witness_ScalarFieldResults :
    Ready base g0 [.g 31, .g 0, .g 1] ∧ Ready base g0 [.g 0, .g 31] ∧ Ready base g0 [.g 0] ∧
    Ready base g0 (.g 1 :: .g 2 :: amtReg (.imm 255)) ∧ Ready base g0 (.g 1 :: .g 2 :: .g 3 :: amtReg (.reg 31)) ∧
    Ready base g0 (.g 1 :: .g 2 :: srcBReg (.imm 0)) :=
  ⟨calm_ready rfl _, calm_ready rfl _, calm_ready rfl _, calm_ready rfl _, calm_ready rfl _, calm_ready rfl _⟩

theorem witness_IntegerAlgebra : (5 : Word) ≠ 0 ∧ (BitVec.allOnes 64 : Word) ≠ 0 := by decide

theorem witness_PredicateResults :
    Ready base g0 (.p (base.me.pp 15) :: .g 31 :: srcBReg (.imm 7)) ∧ Ready base g0 (.g 0 :: .g 31 :: .p (base.me.pp 0) :: srcBReg (.reg 1)) ∧
    (base.me.p 0).poison = false ∧ (base.me.p 15).poison = false ∧ Ready base g0 [.g 31, .p (base.me.pp 8)] ∧
    Ready base g0 [.p (base.me.pp 0), .g 0] ∧ Ready base g0 [.p (base.me.pp 1), .p (base.me.pp 15), .p (base.me.pp 0)] ∧
    Ready base g0 [.p (base.me.pp 15), .p (base.me.pp 1)] ∧ Ready base g0 [.p (base.me.pp 8)] ∧ Ready base g0 [.g 0, .p (base.me.pp 15)] :=
  ⟨calm_ready rfl _, calm_ready rfl _, by decide +kernel, by decide +kernel, calm_ready rfl _, calm_ready rfl _, calm_ready rfl _,
    calm_ready rfl _, calm_ready rfl _, calm_ready rfl _⟩

def flightTo (d : Dst) (v : FVal) : Flight :=
  { tag := 0, bundle := 0, dst := d, val := v, flags := 0, due := 0, last := 0, fixed := true, need := 0, raw := [], rawPoison := [],
    form := .ready, hint := [] }

theorem witness_ResultLandsWhereSent :
    (flightTo (.g 31) (.s { val := 5, poison := false })).dst = .g (31 : GReg).toNat ∧
    (flightTo (.g 0) (.s { val := 5, poison := true })).dst = .g (0 : GReg).toNat ∧
    (flightTo (.p 15) (.p { val := 5, poison := false } 7 true)).val = .p { val := 5, poison := false } 7 true ∧ 0 < 15 ∧ 15 < 16 := by
  decide +kernel

theorem witness_ScalarFloatResults :
    tyFmt .f64 = some Fmt.f64 ∧ tyFmt .f16 = some Fmt.f16 ∧ Ready base g0 [.g 0, .g 1, .g 31] ∧ Ready base g0 [.g 0, .g 1, .g 31, .g 2] ∧
    Ready base g0 [.g 31, .g 0] ∧ Ready base g0 [.p (base.me.pp 15), .g 1, .g 2] :=
  ⟨rfl, rfl, calm_ready rfl _, calm_ready rfl _, calm_ready rfl _, calm_ready rfl _⟩

theorem witness_RoundKeepsRepresentable :
    Fmt.f64 ∈ [Fmt.f64, Fmt.f32, Fmt.f16, Fmt.bf16, Fmt.e4m3, Fmt.e5m2, Fmt.e2m1] ∧ Fmt.f64.val 0x3FF0000000000000 = .fin false (2 ^ 52) (-52) ∧
    Fmt.e2m1.val 0xF = .fin true 3 1 ∧ Fmt.f32.val 1 = .fin false 1 (-149) := by decide +kernel

theorem witness_NanOperands :
    (Fmt.f32.val 0x7FC00000).isNan = true ∧ (Fmt.f16.val 0x7C01).isNan = true ∧ (Fmt.f64.val 0xFFF8000000000000).isNan = true ∧
    (Fmt.bf16.val 0x7F81).isNan = true := by decide +kernel

theorem witness_DrawIsGaloisStep : (1 : BitVec 32) ≠ 0 ∧ drawStep 1 = drawStep 1 ∧ 2 ^ 99 < 2 ^ 100 := by decide +kernel

/-! Witnesses of control transfers and traps. -/

theorem witness_ControlTransfers :
    let s := setg (setg base 1 0x1000) 31 0xFFFFFFFFFFFFFFF8
    gp s g0 = false ∧ Ready s g0 [.p (s.me.pp 15)] ∧ (s.me.p 15).poison = false ∧
    (s.me.pc + (0x80000000 : BitVec 32).signExtend 64 * 8).toNat % 8 = 0 ∧ Ready s g0 [] ∧ Ready s g0 [.g 31] ∧
    (s.me.g 1).poison = false ∧ (s.me.g 1).val.toNat % 8 = 0 ∧ (s.me.g 31).poison = false ∧ (s.me.g 31).val.toNat % 8 = 0 ∧
    Ready s g0 [.g 0, .g 31] ∧ ((s.me.g 31).val + (8 : BitVec 32).signExtend 64).toNat % 8 = 0 :=
  ⟨by decide +kernel, calm_ready rfl _, by decide +kernel, by decide +kernel, calm_ready rfl _, calm_ready rfl _, by decide +kernel,
    by decide +kernel, by decide +kernel, by decide +kernel, calm_ready rfl _, by decide +kernel⟩

theorem witness_LoopAndRotation :
    let old : List Nat := (List.range 7).map (fun j => mapP (base.me.sys.rot + 1) (9 + j))
    Ready base g0 (.g 4 :: .p (mapP (base.me.sys.rot + 1) 8) :: old.map Dst.p) ∧ gp base g0 = false ∧ (base.me.g 4).poison = false ∧
    (∀ i ∈ old, (vAt base.me.r.p i).poison = false) ∧ (base.me.pc + (0xFFFFFFFD : BitVec 32).signExtend 64 * 8).toNat % 8 = 0 ∧
    mapV 15 8 = mapV 15 8 :=
  ⟨calm_ready rfl _, by decide +kernel, by decide +kernel, by decide +kernel, by decide +kernel, rfl⟩

/-- An event of bit 6 is pending. -/
def evented : State := base.setMe { base.me with sys := { base.me.sys with evt := 0x40 } }
/-- A `wfe` waits until tick 4, and until tick 0. -/
def waits (n : Nat) : State := (setg base 2 5).setMe { (setg base 2 5).me with wfeFrom := some n }

theorem witness_WaitForms :
    Ready base g0 [] ∧ Ready evented g0 [.g 0, .g 2] ∧ (evented.me.g 2).poison = false ∧
    evented.me.sys.evt &&& (0xFFFF : BitVec 16).setWidth 7 ≠ 0 ∧
    base.me.sys.evt &&& (0xFFFF : BitVec 16).setWidth 7 = 0 ∧ (base.me.g 0).val = 0 ∧
    ((setg base 2 5).me.g 2).val ≠ 0 ∧ (setg base 2 5).me.wfeFrom = none ∧ (setg base 2 5).me.sys.evt &&& 0x7F = 0 ∧
    ((waits 0).me.g 2).val ≠ 0 ∧ (waits 0).me.wfeFrom = some 0 ∧ 0 ≤ (waits 0).me.clock ∧ Ready (waits 0) g0 [.g 0, .g 2] :=
  have event : (evented.me.g 2).poison = false ∧ evented.me.sys.evt &&& (0xFFFF : BitVec 16).setWidth 7 ≠ 0 := by decide +kernel
  have quiet : base.me.sys.evt &&& (0xFFFF : BitVec 16).setWidth 7 = 0 ∧ (base.me.g 0).val = 0 := by decide +kernel
  have enter : ((setg base 2 5).me.g 2).val ≠ 0 ∧ (setg base 2 5).me.wfeFrom = none ∧
      (setg base 2 5).me.sys.evt &&& 0x7F = 0 := by decide +kernel
  have lapsed : ((waits 0).me.g 2).val ≠ 0 ∧ (waits 0).me.wfeFrom = some 0 ∧ 0 ≤ (waits 0).me.clock := by decide +kernel
  ⟨calm_ready rfl _, calm_ready rfl _, event.1, event.2, quiet.1, quiet.2, enter.1, enter.2.1, enter.2.2,
    lapsed.1, lapsed.2.1, lapsed.2.2, calm_ready rfl _⟩

theorem witness_TrapEntry : Ready base g0 [] ∧ (1 : Nat) ≠ base.cur := ⟨calm_ready rfl _, by decide +kernel⟩

/-- `jr` to an address that is no multiple of 8; a target register that is poisoned; a poisoned guard p1. -/
def odd : State := setg base 1 4
def poisonedGuard : State := base.setMe (base.me.setP 1 { val := 1, poison := true })
def g1 : Guard := { p := 1, neg := false }
def spad : Word := 0xFF00000000000000
/-- Sixteen commands stand in the array's queue. -/
def aCmd (i e : Nat) (op : Instr) : Cmd :=
  { id := i, engine := e, seq := 0, tag := 0, bundle := 0, op := op, endBit := true, st := .waiting, shape := Shape.reset,
    ops := Vector.replicate 4 0, src := Layout.reset, dst := Layout.reset, prog := Prog.reset, seed := 1, seed0 := 1, done := 0, crc := 0,
    scrc := 0, fin := 0, locks := [], dstLock := none, md := 0, uses := [] }
def withCmds (s : State) (cs : List Cmd) : State := s.setMe { s.me with e := { s.me.e with cmds := cs } }
def fullQueue : State := withCmds base ((List.range 16).map (fun i => aCmd i 1 (.lease h0 1)))

theorem witness_WhatTraps :
    (needsPriv (.eret g0) = true ∧ base.me.sys.priv = false) ∧
    (Ready poisonedGuard g1 [.g 0, .g 1] ∧ gp poisonedGuard g1 = true) ∧
    (Ready (badg base 1) g0 [.g 31, .g 1] ∧ gp (badg base 1) g0 = false ∧ ((badg base 1).me.g 1).poison = true) ∧
    (Ready odd g0 [.g 31, .g 1] ∧ (odd.me.g 1).poison = false ∧ ((odd.me.g 1).val + (0 : BitVec 32).signExtend 64).toNat % 8 ≠ 0) ∧
    (Ready (badg base 1) g0 (.g 31 :: .g 1 :: srcBReg (.imm 0)) ∧
      (((badg base 1).me.g 1).poison || ((badg base 1).me.srcB (.imm 0)).poison) = true) ∧
    ((((badg base 2).me.g 1).poison || ((badg base 2).me.srcB (.imm 0)).poison) = false ∧
      (((badg base 2).me.g 2).poison || gp (badg base 2) g0) = true) ∧
    (base.check { r := true } 1 (2 ^ 56) 8).2 = .fault 0x08 (2 ^ 56) ∧ (base.check { w := true } 1 (2 ^ 56 - 4) 8).2 = .fault 0x09 (2 ^ 56 - 4) ∧
    (base.check { w := true } 1 (spad + 0x400000) 8).2 = .fault 0x08 (spad + 0x400000) ∧
    (gp base h0.g = false ∧ (base.me.swapIn { h0 with tkw := 15 }).tkOk { h0 with tkw := 15 } 1 = false) ∧
    (Ready fullQueue g0 [] ∧ (fullQueue.me.swapIn h0).tkOk h0 1 = true ∧ 16 ≤ ((fullQueue.me.swapIn h0).queue 1).length) := by
  refine ⟨by decide +kernel, ⟨⟨?_, ?_, ?_⟩, ?_⟩, ⟨calm_ready rfl _, ?_⟩, ⟨calm_ready rfl _, ?_⟩, ⟨calm_ready rfl _, ?_⟩, ?_, ?_, ?_,
    ?_, ?_, ⟨⟨?_, ?_, ?_⟩, ?_⟩⟩
  all_goals decide +kernel

/-- Supervisor state, a trap's pc saved; a bundle's end with each kind of write left. -/
def inTrap : State := base.setMe { base.me with sys := { base.me.sys with priv := true, tpc := 0x1000 } }
def ending (ps : List Pend) : State := base.setMe { base.me with pend := ps }

theorem witness_ReturnAndBundleEnd :
    (inTrap.me.sys.priv = true ∧ Ready inTrap g0 [] ∧ gp inTrap g0 = false ∧ inTrap.me.sys.tpc.toNat % 8 = 0) ∧
    (∀ c ∈ [{ aCmd 3 2 (.unlease h0) with st := .stopped }], c.st = .stopped ∧ ∀ f ∈ ([] : List EFault), f.id ≠ c.id) ∧
    ((aCmd 3 2 (.unlease h0)).st ≠ .stopped) ∧
    ((ending []).me.more = false ∧ (ending []).me.pend = []) ∧
    ((ending [.jump 8 3]).me.more = false ∧ (ending [.jump 8 3]).me.pend = [.jump 8 3]) ∧
    ((ending [.halt]).me.more = false ∧ (ending [.halt]).me.pend = [.halt]) ∧
    ((ending [.eret]).me.more = false ∧ (ending [.eret]).me.pend = [.eret]) ∧
    ((ending [.rotate]).me.more = false ∧ (ending [.rotate]).me.pend = [.rotate]) ∧
    (∀ d, Pend.clkdiv d ∉ (ending [.rotate]).me.pend) ∧
    ((ending [.clkdiv 4]).me.more = false ∧ (ending [.clkdiv 4]).me.pend = [.clkdiv 4]) ∧ base.denials = [] := by
  refine ⟨⟨?_, calm_ready rfl _, ?_⟩, ?_, ?_, ?_, ?_, ?_, ?_, ?_, fun d => by rw [show (ending [.rotate]).me.pend = [.rotate] by decide +kernel]; simp, ?_, ?_⟩
  all_goals decide +kernel

theorem witness_SystemAndShapeForms :
    ((0x011 : BitVec 12).toNat < 0x020 ∧ Ready base g0 [.g 31] ∧ (priv base).me.sys.priv = true ∧ Ready (priv base) g0 [.g 0]) ∧
    (userWrites (0x003 : BitVec 12).toNat = true ∧ (base.me.g 0).poison = false ∧ base.me.sysBad 0x003 (base.me.g 0).val = false) ∧
    ((0x009 : BitVec 12) = 0x009 ∧ userWrites 0x009 = true ∧ ((setg base 1 1).me.g 1).val.getLsbD 0 = true ∧
      (setg base 1 1).me.sysBad 0x009 ((setg base 1 1).me.g 1).val = false ∧ (base.me.g 0).val.getLsbD 0 = false) ∧
    (((setg base 1 64).me.g 1).poison = false ∧ shapeFits 0 ((setg base 1 64).me.g 1).val.toNat = true) ∧
    (shapeFits 2 (0xFFFFFF : BitVec 32).toNat = true ∧ shapeFits 4 (1 : BitVec 32).toNat = true ∧ shapeFits 0 (0 : BitVec 32).toNat = false ∧
      shapeFits 1 (65 : BitVec 32).toNat = false) ∧
    (Ready (badg base 1) g0 [.g 1] ∧ ((badg base 1).me.g 1).poison = true) ∧ Ready base g0 [.g 0] := by
  refine ⟨⟨?_, calm_ready rfl _, ?_, calm_ready rfl _⟩, ?_, ?_, ?_, ?_, ⟨calm_ready rfl _, ?_⟩, calm_ready rfl _⟩
  all_goals decide +kernel

theorem witness_RegistersReadBack :
    ((0x00A : Nat) ∈ [0x003, 0x004, 0x005, 0x007, 0x008, 0x00A] ∧ (BitVec.allOnes 64 : Word) &&& ~~~sysDefined 0x00A = 0 ∧
      (0x7 : Word) &&& ~~~sysDefined 0x031 = 0 ∧ (0x021 : Nat) ≠ 0x00A) ∧
    (Layout.reset.put 0 0xFF00000000000000 = some { Layout.reset with base := 0xFF00000000000000 } ∧
      Layout.reset.put 12 1 = some { Layout.reset with sat := true } ∧ (12 : Nat) ≠ 0) := by decide +kernel

/-! Witnesses of memory accesses. -/

/-- g1 holds an address of the strand's scratchpad, g2 an odd one, g3 one at its end. -/
def spads : State := setg (setg (setg base 1 (spad + 0x40)) 2 (spad + 0x103)) 3 (spad + 0x3FFFF8)
def seg (sp : Space) (pa len : Nat) (va : Word) : Seg := { sp := sp, pa := pa, len := len, va := va, off := 0 }

theorem witness_LoadForms :
    (Ready spads g0 (.g 0 :: .g 1 :: srcBReg (.imm 0)) ∧ (spads.me.g 1).poison = false ∧ (spads.me.srcB (.imm 0)).poison = false ∧
      spads.check { r := true } 1 ((spads.me.g 1).val + (spads.me.srcB (.imm 0)).val) 8 =
        (spads, .ok [seg .chip 0x40 8 (spad + 0x40)]) ∧
      spads.wayL spads.cur true [seg .chip 0x40 8 (spad + 0x40)] = .fixed) ∧
    (let s := { spads with net := [{ mkReq (.strand 0) (.order false) (seg .chip 0 0 0) 0 0 with acq := true }] }
     s.check { r := true } 1 ((s.me.g 1).val + (s.me.srcB (.imm 0)).val) 8 = (s, .ok [seg .chip 0x40 8 (spad + 0x40)]) ∧
     s.wayL s.cur true [seg .chip 0x40 8 (spad + 0x40)] = .hold) ∧
    (spads.wayL spads.cur false [seg .chip 0x103 4 0xFE00000000000103] = .queued ∧
      (spads.check { r := true } 1 0xFE00000000000103 4).2 = .ok [seg .chip 0x103 4 0xFE00000000000103] ∧
      spads.room (.strand spads.cur)
        (loadReqs spads (cutAll 8 [seg .chip 0x103 4 0xFE00000000000103]) (fun r => { r with acq := false, scope := .sd })) = true) ∧
    (Ready spads g0 [.g 31, .g 3] ∧ (spads.me.g 3).poison = false ∧
      spads.check { r := true } 8 ((spads.me.g 3).val + (0 : BitVec 14).signExtend 64) 8 =
        (spads, .ok [seg .chip 0x3FFFF8 8 (spad + 0x3FFFF8)]) ∧
      spads.room (.strand spads.cur)
        (loadReqs spads (cutAll 8 [seg .chip 0x3FFFF8 8 (spad + 0x3FFFF8)]) (fun r => { r with acq := true, scope := .dv })) = true) := by
  refine ⟨⟨calm_ready rfl _, ?_, ?_, ?_, ?_⟩, ?_, ?_, ⟨calm_ready rfl _, ?_, ?_, ?_⟩⟩
  all_goals decide +kernel

theorem witness_StoreForms :
    (Ready spads g0 (.g 31 :: .g 2 :: srcBReg (.imm 0)) ∧ (spads.me.g 2).poison = false ∧ (spads.me.g 31).poison = false ∧
      gp spads g0 = false ∧
      spads.check { w := true } 1 ((spads.me.g 2).val + (spads.me.srcB (.imm 0)).val) 1 =
        (spads, .ok [seg .chip 0x103 1 (spad + 0x103)]) ∧
      spads.room (.strand spads.cur) (storesOf spads (cutAll 8 [seg .chip 0x103 1 (spad + 0x103)])
        (toBytes 1 (spads.me.g 31).val.toNat) (fun r => { r with rel := false, scope := .sd })) = true) ∧
    (Ready spads g0 [.g 0, .g 3] ∧
      spads.check { w := true } 8 ((spads.me.g 3).val + (0 : BitVec 14).signExtend 64) 8 =
        (spads, .ok [seg .chip 0x3FFFF8 8 (spad + 0x3FFFF8)]) ∧
      spads.room (.strand spads.cur) (storesOf spads (cutAll 8 [seg .chip 0x3FFFF8 8 (spad + 0x3FFFF8)])
        (toBytes 8 (spads.me.g 0).val.toNat) (fun r => { r with rel := true, scope := .sy })) = true) := by
  refine ⟨⟨calm_ready rfl _, ?_⟩, ⟨calm_ready rfl _, ?_⟩⟩
  all_goals decide +kernel

theorem witness_AtomicForms :
    ((spads.me.g 1).poison = false ∧ (spads.me.g 31).poison = false ∧ gp spads g0 = false ∧
      spads.check { a := true } 8 (spads.me.g 1).val 8 = (spads, .ok [seg .chip 0x40 8 (spad + 0x40)]) ∧
      spads.check { a := true } 4 (spads.me.g 3).val 4 = (spads, .ok [seg .chip 0x3FFFF8 4 (spad + 0x3FFFF8)])) ∧
    Ready spads g0 [.g 0, .g 1, .g 31] ∧ Ready spads g0 [.g 9, .g 1, .g 31, .g 4] ∧ (spads.me.g 4).poison = false ∧
    spads.room (.strand spads.cur) [mkReq (.strand spads.cur) (.atom .add 0 0 true) (seg .chip 0x40 8 (spad + 0x40)) 0 0] = true ∧
    Ready spads g0 [.gpair 8, .g 1, .gpair 4, .gpair 30] ∧ (∀ r ∈ [(1 : GReg), 4, 4 + 1, 30, 30 + 1], (spads.me.g r).poison = false) ∧
    spads.check { a := true } 16 (spads.me.g 1).val 16 = (spads, .ok [seg .chip 0x40 16 (spad + 0x40)]) := by
  refine ⟨?_, calm_ready rfl _, calm_ready rfl _, ?_, ?_, calm_ready rfl _, ?_, ?_⟩
  all_goals decide +kernel

theorem witness_AtomicValues : (4 = 4 ∨ 4 = 8 ∨ 4 = 16) ∧ 2 ^ 32 - 1 < 2 ^ (8 * 4) ∧ (2 ^ 127 : Nat) < 2 ^ (8 * 16) ∧ (5 : Nat) ≠ 6 := by
  decide +kernel

/-- g1 holds a handle of unit 0's last accumulator. -/
def handles : State := setg base 1 63
def withV (s : State) (i : Nat) (b : Block) : State :=
  s.setMe { (s.me.setV i b) with r := { (s.me.setV i b).r with
    live := BitVec.allOnes 32, banks := Vector.replicate 8 { st := .full, wake := none, idleFrom := 0, struck := [] } } }
/-- Every vector bank is full, every register live. -/
def vecs : State := withV (setg base 1 63) 1 { bits := BitVec.ofNat 32768 0x3F800000, poison := 0 }
def redSeg : Seg := { sp := .red 0, pa := 63, len := 1, va := 0, off := 0 }

theorem witness_ReductionForms :
    ((handles.me.g 1).poison = false ∧ (handles.me.g 1).val.toNat < 2 ^ 13 ∧ handles.nmuOk (coreOf handles.cur) 0 1 = true ∧
      handles.nmuOk (coreOf handles.cur) 0 0 = true) ∧
    (Ready handles g0 [.g 1, .g 31] ∧ (handles.me.g 31).poison = false ∧ gp handles g0 = false ∧
      handles.room (.strand handles.cur) [mkReq (.strand handles.cur) (.redx [(63, 0, 2, false)]) redSeg 0 0] = true) ∧
    (∃ b t1, Ready vecs g0 (vecs.me.vRegs [1] ++ [.g 1]) ∧ vecs.me.readSrcs [{ o := 1, lu := false }] = .ok [b] t1 ∧
      b.poison &&& vecs.me.mask g0 = 0) ∧
    (Ready handles g0 [.g 1] ∧ Ready handles g0 [.g 0, .g 1] ∧
      handles.room (.strand handles.cur) [mkReq (.strand handles.cur) (.redfOpen (-256)) redSeg 0 0] = true) ∧
    ((setg base 1 64).nmuOk (coreOf base.cur) 1 0 = false ∧ ((setg base 1 64).me.g 1).val.toNat / 64 % 128 = 1) := by
  refine ⟨?_, ⟨calm_ready rfl _, ?_⟩, ⟨_, _, calm_ready rfl _, rfl, ?_⟩, ⟨calm_ready rfl _, calm_ready rfl _, ?_⟩, ?_⟩
  all_goals decide +kernel

def waiter (who : Who) (pa : Nat) (sat : Option (Word × Bool)) (woken : Bool) : Waiter :=
  { id := 0, who := who, asid := 0, va := spad + BitVec.ofNat 64 pa, sp := .chip, pa := pa, eq := false, cmp := 0, sat := sat, woken := woken }
def waiting (woken : Bool) : State := { spads with waiters := [waiter (.strand 0) 0x40 (if woken then some (7, false) else none) woken] }
def netOf (s : State) (rs : List Req) : State := { s with net := rs }
def aLoad : Req := mkReq (.strand 0) (.load 0) (seg .chip 0x40 8 (spad + 0x40)) 0 1
def aSemw : Req := mkReq (.strand 0) (.semw false 0) (seg .chip 0x40 8 (spad + 0x40)) 0 1
/-- A store of the core's other strand, which the core has published. -/
def published : Req := { mkReq (.strand 1) (.store [1] [0]) (seg .dram 0x40 1 0x40) 0 0 with pub := true }

theorem witness_SemaphoreAndOrderForms :
    (Ready spads g0 [.g 1, .g 31] ∧ (spads.me.g 1).poison = false ∧ (spads.me.g 31).poison = false ∧ gp spads g0 = false ∧
      spads.check { a := true } 8 (spads.me.g 1).val 8 = (spads, .ok [seg .chip 0x40 8 (spad + 0x40)]) ∧
      spads.room (.strand spads.cur) [mkReq (.strand spads.cur) (.sems 0) (seg .chip 0x40 8 (spad + 0x40)) 0 0] = true) ∧
    ((waiting true).waiterOf (.strand (waiting true).cur) = some (waiter (.strand 0) 0x40 (some (7, false)) true) ∧
      (waiting false).waiterOf (.strand (waiting false).cur) = some (waiter (.strand 0) 0x40 none false)) ∧
    (spads.waiterOf (.strand spads.cur) = none ∧ spads.net.all (fun e => !e.op.isSemw) = true ∧
      (netOf spads [aSemw]).net.any (fun e => e.src == .strand spads.cur && e.op.isSemw) = true ∧
      spads.check { r := true } 8 (spads.me.g 1).val 8 = (spads, .ok [seg .chip 0x40 8 (spad + 0x40)]) ∧ spads.room (.strand spads.cur) [aSemw] = true) ∧
    (Ready (waiting true) g0 [.g 0, .g 1, .g 31] ∧ Ready (waiting false) g0 [.g 0, .g 1, .g 31] ∧ Ready spads g0 [.g 0, .g 1, .g 31]) ∧
    (Ready base g0 [] ∧ (netOf base [aLoad]).net.any (fun e => e.src == .strand base.cur && !e.done) = true ∧
      (netOf base [published]).net.any (fun e => e.src != .strand base.cur && e.pub && e.src.core == some (coreOf base.cur)) = true ∧
      base.net = []) := by
  refine ⟨⟨calm_ready rfl _, ?_⟩, ?_, ?_, ⟨calm_ready rfl _, calm_ready rfl _, calm_ready rfl _⟩, ⟨calm_ready rfl _, ?_⟩⟩
  all_goals decide +kernel

/-- One store, one atomic, one load, on their way to the scratchpad. -/
def aStore : Req := { mkReq (.strand 0) (.store [1, 2] [0, 0]) (seg .chip 0x3FFFFE 2 (spad + 0x3FFFFE)) 0 0 with id := 5 }
def anAtomic (i : Nat) : Req :=
  { mkReq (.strand i) (.atom .add 1 0 false) (seg .dram 0x40 8 0x40) 0 0 with id := i, mergeable := true }
def chipAtomic : Req := { mkReq (.strand 0) (.atom .add 1 0 true) (seg .chip 0x40 8 (spad + 0x40)) 0 1 with id := 5 }
def redxOne : Req := { mkReq (.strand 0) (.redx [(63, 0x3F800000, 0, false)]) redSeg 0 0 with id := 5 }

theorem witness_ChipStorePerformed :
    (netOf base [aStore]).due 5 = some aStore ∧ aStore.sp = .chip ∧ aStore.op = .store [1, 2] ([1, 2].map (fun _ => 0)) ∧ aStore.merged = [] ∧
    (netOf base [aStore]).chipFull aStore.pa = true ∧ target aStore.pa = .sp 0 0x3FFFFE ∧
    ∀ k, (((netOf base [aStore]).core 0).bank k).drops = [] := by
  refine ⟨?_, ?_, ?_, ?_, ?_, ?_, ?_⟩
  iterate 6 decide +kernel
  intro k
  by_cases h : k < 32
  · have : ∀ k : Fin 32, (((netOf base [aStore]).core 0).bank k.val).drops = [] := by decide +kernel
    exact this ⟨k, h⟩
  · simp only [Core.bank]; simp [h]; rfl

theorem witness_MemoryReadAfterWrite :
    Memory.wf [(0, 5), (2 ^ 40, 1)] = true ∧ Memory.wf [(0, 5)] = true ∧ memGet [(0, 5)] 3 = memGet [(0, 5)] 4 := by decide +kernel

theorem witness_RequestEvents :
    ((netOf base [chipAtomic]).due 5 = some chipAtomic ∧ (netOf base [chipAtomic]).chipReadyFor chipAtomic.pa 5 = true ∧
      ((netOf base [chipAtomic]).readChip chipAtomic.pa chipAtomic.len).2 = [] ∧ chipAtomic.refusable = true) ∧
    (let s := netOf (base.modCore 0 (fun c => c.setBank 0 { fullBank with st := .ret })) [chipAtomic]
     s.due 5 = some chipAtomic ∧ s.chipReadyFor chipAtomic.pa 5 = false) ∧
    ((netOf base [redxOne]).due 5 = some redxOne ∧ redxOne.accept = none ∧ (netOf base [redxOne]).arrivals 0 < 32 ∧
      (let q := { redxOne with accept := some 0 }
       (netOf base [q]).due 5 = some q ∧ q.accept.isSome = true) ∧
      (let s := netOf base (redxOne :: (List.range 32).map (fun i => { redxOne with id := 6 + i, accept := some i }))
       s.due 5 = some redxOne ∧ 32 ≤ s.arrivals 0 ∧ redxOne.refusals < 2)) ∧
    (let s := netOf base [anAtomic 0, anAtomic 2]
     s.req 0 = some (anAtomic 0) ∧ s.req 2 = some (anAtomic 2) ∧ (anAtomic 0).mergesWith (anAtomic 2) = true ∧ s.free (anAtomic 0) = true ∧
       s.freeBut (anAtomic 0) (anAtomic 2) = true) ∧
    ((netOf base [{ aStore with away := true }]).req 5 = some { aStore with away := true }) ∧
    (let w := waiter (.strand 0) 0x40 (some (7, false)) false
     let s := { base with waiters := [w] }
     s.waiters.find? (fun x => x.id == w.id) = some w ∧ w.sat.isSome = true ∧
       ∀ x ∈ s.waiters, x.sp = w.sp → x.pa = w.pa → x.sat.isSome = true → x.woken = false → x.id = w.id ∨ w.id < x.id) := by
  refine ⟨?_, ?_, ⟨?_, ?_, ?_, ?_, ?_⟩, ?_, ?_, ?_⟩ <;> decide +kernel

/-! Witnesses of the vector obligations. -/

/-- One block stands in the buffer of q0. -/
def ported : State :=
  let p := { Port.reset with captured := true, buf := [{ blk := { bits := 7, poison := 0 }, scales := 0, spoison := 0, mx := false, mxOnly := false, pos := (0, 0), mine := true }],
                             nextNo := 1, prog := { Prog.reset with cnt := Vector.replicate 5 2 } }
  vecs.setMe { vecs.me with e := { vecs.me.e with ports := vSet vecs.me.e.ports 0 p } }
/-- The stream of q6 runs. -/
def pushing : State :=
  let p := { Port.reset with captured := true, prog := { Prog.reset with cnt := Vector.replicate 5 2 } }
  vecs.setMe { vecs.me with e := { vecs.me.e with ports := vSet vecs.me.e.ports 6 p, cmds := [] } }

/-- The buffer of q6 is full. -/
def pushed : State :=
  let b : PBlock := { blk := { bits := 7, poison := 0 }, scales := 0, spoison := 0, mx := false, mxOnly := false, pos := (0, 0), mine := true }
  pushing.setMe (pushing.me.setPort 6 { vAt pushing.me.e.ports 6 with buf := List.replicate 4 b, accepted := 4 })

/-- What a V form with destination v31 or q6, sources v0, v1 and q0 and a register needs: the hypotheses of `VResult`. -/
theorem witness_VResult :
    (Ready vecs g0 (vecs.me.vDest 31 ++ vecs.me.vRegs [0, 1] ++ [.g 31]) ∧ vecs.me.vuFree ≤ vecs.me.clock ∧ (31 : Opnd).isV = true) ∧
    (∃ bs u, vecs.me.readSrcs [{ o := 0, lu := true }, { o := 1, lu := false }] = .ok bs u) ∧
    (∃ bs u, vecs.me.readSrcs ([{ o := 1, lu := false }] ++ [{ o := 31, lu := false }]) = .ok bs u) ∧
    (∃ bs u, Ready ported g0 (ported.me.vDest 0 ++ ported.me.vRegs [32]) ∧ ported.me.readSrcs [{ o := 32, lu := false }] = .ok bs u) ∧
    (Ready pushing g0 (pushing.me.vDest 38 ++ pushing.me.vRegs [1]) ∧ pushing.me.push (38 - 32) = .slot ∧
      (vBlock pushing g0 true { bits := 1, poison := 0, mask := 1, flags := 0, draws := 0 }).poison &&& 1 = 0) ∧
    (vecs.me.push 6 = .drop ∧ pushed.me.push 6 = .wait) ∧
    (vBlock pushing g0 true { bits := 1, poison := 1, mask := 1, flags := 0, draws := 0 }).poison &&& 1 ≠ 0 ∧
    (Ready vecs g0 (.p (vecs.me.pp 15) :: vecs.me.vRegs [0]) ∧ vecs.me.readSrcs [] = .ok [] vecs.me) := by
  refine ⟨⟨calm_ready rfl _, ?_, ?_⟩, ⟨_, _, rfl⟩, ⟨_, _, rfl⟩, ⟨_, _, calm_ready rfl _, rfl⟩, ⟨calm_ready rfl _, ?_, ?_⟩, ?_, ?_,
    ⟨calm_ready rfl _, rfl⟩⟩
  all_goals decide +kernel

theorem witness_VectorArithmeticResults :
    Ready vecs g0 (vecs.me.vDest 31 ++ vecs.me.vRegs [0, 1, 31] ++ []) ∧ vecs.me.vuFree ≤ vecs.me.clock ∧ (31 : Opnd).isV = true ∧
    ∃ bs u, vecs.me.readSrcs [{ o := 0, lu := true }, { o := 1, lu := false }, { o := 31, lu := false }] = .ok bs u :=
  ⟨calm_ready rfl _, by decide +kernel, by decide +kernel, _, _, rfl⟩

theorem witness_ElementMeaning :
    1023 < 32768 / Ty.f32.width ∧ (vecs.me.mask g0).getLsbD (1023 * Ty.f32.width / 32) = true ∧
    (elementwise vecs.me g0 .f32 false [] (fun _ _ _ _ => (0, 0))).mask.getLsbD (1023 * Ty.f32.width / 32) = true ∧
    ((setp vecs 1 1).me.mask g1).getLsbD (1023 * Ty.f32.width / 32) = false ∧ Ty.u8 ≠ .f64 ∧ (Ty.i32 = .i32 ∨ Ty.i32 = .u32) ∧
    ([some 5, none].filterMap id : List Nat).map (fun x => intVal 32 true x) ≠ [] := by decide +kernel

theorem witness_VectorBitAndMoveResults :
    Ready vecs g0 (vecs.me.vDest 31 ++ vecs.me.vRegs [0, 1] ++ [.p (vecs.me.pp 15)]) ∧
    Ready vecs g0 (.p (vecs.me.pp 15) :: vecs.me.vRegs [0]) ∧ vecs.me.vuFree ≤ vecs.me.clock ∧ (0 : Opnd).isV = true ∧
    (∃ bs u, vecs.me.readSrcs [{ o := 0, lu := true }, { o := 1, lu := false }] = .ok bs u) ∧
    (∃ bs u, vecs.me.readSrcs [{ o := 31, lu := true }] = .ok bs u) ∧ ∃ bs u, vecs.me.readSrcs [] = .ok bs u :=
  ⟨calm_ready rfl _, calm_ready rfl _, by decide +kernel, by decide +kernel, ⟨_, _, rfl⟩, ⟨_, _, rfl⟩, ⟨_, _, rfl⟩⟩

theorem witness_VectorConversionResults :
    (1023 < min Ty.f32.capacity Ty.e4m3.capacity ∧ 3 * Ty.f32.capacity + 1023 < Ty.e4m3.capacity ∧
      (vecs.me.mask g0).getLsbD ((3 * 1024 + 1023) * Ty.e4m3.width / 32) = true ∧ vecs.me.mode .rne ≠ .rsr ∧ vecs.me.mode .rsr = .rsr) ∧
    (Ready vecs g0 (vecs.me.vDest 31 ++ vecs.me.vRegs [0] ++ []) ∧ vecs.me.vuFree ≤ vecs.me.clock ∧
      ∃ bs u, vecs.me.readSrcs ([{ o := 0, lu := false }] ++ [{ o := 31, lu := false }]) = .ok bs u) ∧
    (15 < 16 ∧ 63 < 64 ∧ 64 * 3 + 63 < 2048 / mxWidth .e4m3 ∧ 64 * 7 + 63 < 2048 / mxWidth .e2m1 ∧
      (vecs.me.mask g0 &&& rowSpan (64 * mxWidth .e4m3 / 32 * 3) (64 * mxWidth .e4m3 / 32)).getLsbD (64 * 15 + (64 * 3 + 63) * mxWidth .e4m3 / 32) =
        true ∧ 1 < 2) := by
  refine ⟨?_, ⟨calm_ready rfl _, ?_, ⟨_, _, rfl⟩⟩, ?_⟩
  all_goals decide +kernel

theorem witness_SpecialFunctionResults :
    Ready vecs g0 (vecs.me.vDest 1 ++ vecs.me.vRegs [1] ++ []) ∧ vecs.me.vuFree ≤ vecs.me.clock ∧
    (∃ bs u, vecs.me.readSrcs [{ o := 1, lu := true }] = .ok bs u) ∧ 2 ^ 16 - 1 < 2 ^ 16 ∧ 5 < 6 :=
  ⟨calm_ready rfl _, by decide +kernel, ⟨_, _, rfl⟩, by decide, by decide⟩

theorem witness_AxisForms :
    Ready vecs g0 (vecs.me.vDest 0 ++ vecs.me.vRegs [31] ++ []) ∧ vecs.me.vuFree ≤ vecs.me.clock ∧ (0 : Opnd).isV = true ∧
    (∃ bs u, vecs.me.readSrcs [{ o := 31, lu := false }] = .ok bs u) ∧ 15 < 16 ∧ 63 < 64 ∧ 31 < 2048 / Ty.f64.width :=
  ⟨calm_ready rfl _, by decide +kernel, by decide +kernel, ⟨_, _, rfl⟩, by decide, by decide, by decide⟩

/-- The segments an answer holds. -/
def segsOf (e : Except TrapRec (List Seg)) : List Seg := match e with | .ok gs => gs | .error _ => []
def chkSegs (c : Chk) : List Seg := match c with | .ok gs => gs | _ => []
theorem ok_segsOf (e : Except TrapRec (List Seg)) (h : segsOf e ≠ []) : e = .ok (segsOf e) := by
  cases e with
  | ok _ => rfl
  | error _ => exact absurd rfl h

/-- g1 holds the base of a table in the scratchpad; the guard p1 selects lanes 0 and 1023. -/
def indexing : State := setp (setg vecs 1 (spad + 0x100)) 1 (1 ||| (1 <<< 1023))

/-- The segments of a gather and of a scatter of indexes all 0. -/
def elemAnswer (p : Perm) (bad : Nat → Bool) : Except TrapRec (List Seg) :=
  indexing.elemSegs p 4 (fun n => (indexing.me.g 1).val + BitVec.ofNat 64 (elem (vAt indexing.me.r.v 2).bits.toNat 32 n * 2 ^ 3))
    (fun n => (indexing.me.g 1).poison || (vAt indexing.me.r.v 2).poison.getLsbD n) bad (activeElems 32 (indexing.me.mask g1))
def gatherAnswer : Except TrapRec (List Seg) := elemAnswer { r := true } (fun _ => false)
def scatterAnswer : Except TrapRec (List Seg) :=
  elemAnswer { w := true, lit := true } (fun n => (vAt indexing.me.r.v 3).poison.getLsbD n || gp indexing g1)

/-- Two elements pass their checks; in full banks the blocks have places, and the port q6 has a slot. -/
theorem witness_IndexedForms :
    indexing.me.vuFree ≤ indexing.me.clock ∧ Ready indexing g1 (indexing.me.vDest 31 ++ indexing.me.vRegs [2] ++ [.g 1]) ∧
    Ready indexing g1 (indexing.me.vDest 38 ++ indexing.me.vRegs [2] ++ [.g 1]) ∧ Ready indexing g1 (indexing.me.vRegs [3, 2] ++ [.g 1]) ∧
    (∃ u, indexing.me.readSrcs [{ o := 2, lu := false }] = .ok [vAt indexing.me.r.v 2] u) ∧
    (∃ u, indexing.me.readSrcs [{ o := 3, lu := false }, { o := 2, lu := false }] = .ok [vAt indexing.me.r.v 3, vAt indexing.me.r.v 2] u) ∧
    gatherAnswer = .ok (segsOf gatherAnswer) ∧ scatterAnswer = .ok (segsOf scatterAnswer) ∧
    ((segsOf gatherAnswer).length = 2 ∧ (segsOf gatherAnswer).all (fun x => indexing.chipFull x.pa && (indexing.readChip x.pa x.len).2 == []) = true ∧
      gp indexing g1 = false) ∧
    (indexing.setMe (indexing.me.claimV (indexing.me.pv 31))).room (.strand indexing.cur)
      (loadReqs (indexing.setMe (indexing.me.claimV (indexing.me.pv 31))) (segsOf gatherAnswer) id) = true ∧
    indexing.room (.strand indexing.cur) (storeReqs (.strand indexing.cur) indexing.me.sys.asid (indexing.fresh + 1)
      (whole (toBytes 4096 (vAt indexing.me.r.v 3).bits.toNat)) (segsOf scatterAnswer)) = true := by
  refine ⟨?_, ⟨?_, ?_, ?_⟩, ⟨?_, ?_, ?_⟩, ⟨?_, ?_, ?_⟩, ⟨_, rfl⟩, ⟨_, rfl⟩, ok_segsOf _ ?_, ok_segsOf _ ?_, ?_, ?_, ?_⟩
  all_goals decide +kernel

/-- The same gather to q6, whose stream runs, and to a port at its end. -/
def indexPush : State := setp (setg pushing 1 (spad + 0x100)) 1 (1 ||| (1 <<< 1023))
def pushAnswer : Except TrapRec (List Seg) :=
  indexPush.elemSegs { r := true } 4 (fun n => (indexPush.me.g 1).val + BitVec.ofNat 64 (elem (vAt indexPush.me.r.v 2).bits.toNat 32 n * 2 ^ 3))
    (fun n => (indexPush.me.g 1).poison || (vAt indexPush.me.r.v 2).poison.getLsbD n) (fun _ => false) (activeElems 32 (indexPush.me.mask g1))

theorem witness_IndexedForms_push :
    indexPush.me.vuFree ≤ indexPush.me.clock ∧ Ready indexPush g1 (indexPush.me.vDest 38 ++ indexPush.me.vRegs [2] ++ [.g 1]) ∧
    (∃ u, indexPush.me.readSrcs [{ o := 2, lu := false }] = .ok [vAt indexPush.me.r.v 2] u) ∧ pushAnswer = .ok (segsOf pushAnswer) ∧
    ((segsOf pushAnswer).all (fun x => indexPush.chipFull x.pa && (indexPush.readChip x.pa x.len).2 == []) = true ∧ gp indexPush g1 = false ∧
      indexPush.me.push 6 = .slot ∧ indexing.me.push 6 = .drop) ∧
    indexPush.room (.strand indexPush.cur) (loadReqs indexPush (segsOf pushAnswer) id) = true := by
  refine ⟨?_, ⟨?_, ?_, ?_⟩, ⟨_, rfl⟩, ok_segsOf _ ?_, ?_, ?_⟩
  all_goals decide +kernel

/-- Layout l0 names 16 rows of 256 bytes from the scratchpad's 0x1000; g0 is its offset. -/
def laid : State :=
  let l := { Layout.reset with base := spad + 0x1000, rstr := 256 }
  vecs.setMe { vecs.me with r := { vecs.me.r with lay := vSet vecs.me.r.lay 0 l } }
/-- The same rows named through window S; and with an access of an earlier bundle before them. -/
def laidS : State :=
  let l := { Layout.reset with base := 0xFE00000000001000, rstr := 256 }
  vecs.setMe { vecs.me with r := { vecs.me.r with lay := vSet vecs.me.r.lay 0 l } }
def laidBehind : State := netOf laid [{ mkReq (.strand 0) (.order false) (seg .chip 0 0 0) 0 0 with acq := true }]

/-- The layout, and the sixteen rows of a `vld` or `vst` of a state through l0 under a permission. -/
def layoutOf (s : State) : Layout := (vAt s.me.r.lay 0).capture s.me.sys.fmode
def blockChk (s : State) (p : Perm) : State × Chk :=
  s.rowSegs (.strand s.cur) (coreOf s.cur) s.cur s.me.sys.asid p (layoutOf s) ((layoutOf s).base + (s.me.g 0).val) (List.range 16)
def usedOf (s : State) : List Seg := (layoutOf s).used (s.me.mask g0) (chkSegs (blockChk s { r := true }).2)
def wayOf (s : State) : LWay := s.wayL s.cur ((usedOf s).all (fun x => winOf x.va == .l)) (usedOf s)
def blockOk (s : State) : Bool :=
  let gs := chkSegs (blockChk s { r := true }).2
  !(s.me.g 0).poison && !(layoutOf s).noBlock true && !(layoutOf s).noBlock false && gs.length == 16 && (usedOf s).length == 16 &&
  chkSegs (blockChk s { w := true }).2 == gs && (blockChk s { r := true }).1 == s && s.room (.strand s.cur) (loadReqs s (cutAll 16 (usedOf s)) id)

/-- The requests of a `vst` of lane 0, as the statement forms them, find places. -/
def blockStoresFit (s : State) : Bool :=
  let m := s.me.mask g1
  let b := (layoutOf s).fromBlock s.me.sys.seed
    { blk := vAt s.me.r.v 1, scales := 0, spoison := 0, mx := false, mxOnly := false, pos := (0, 0), mine := true } m
  let rs := storeReqs (.strand s.cur) s.me.sys.asid (s.fresh + 1) b.bytes ((layoutOf s).used m (chkSegs (blockChk s { w := true }).2))
  !b.poison && rs.length == 1 && s.room (.strand s.cur) rs

theorem witness_BlockForms_stores :
    let s := setp laid 1 1
    blockStoresFit s = true ∧ Ready s g1 (s.me.vRegs [1] ++ [.g 0]) ∧ (s.me.g 0).poison = false ∧ gp s g1 = false ∧
    (∃ u, s.me.readSrcs [{ o := 1, lu := false }] = .ok [vAt s.me.r.v 1] u) := by
  refine ⟨?_, ⟨?_, ?_, ?_⟩, ?_, ?_, ⟨_, rfl⟩⟩
  all_goals decide +kernel

theorem witness_BlockForms :
    (blockOk laid = true ∧ wayOf laid = .fixed) ∧ (blockOk laidS = true ∧ wayOf laidS = .queued) ∧
    (blockOk laidBehind = true ∧ wayOf laidBehind = .hold) ∧
    Ready laid g0 (laid.me.vDest 31 ++ [.g 0]) ∧ Ready laidS g0 (laidS.me.vDest 0 ++ [.g 0]) ∧ Ready laidBehind g0 (laidBehind.me.vDest 0 ++ [.g 0]) ∧
    Ready laid g0 (laid.me.vRegs [1] ++ [.g 0]) ∧ (∃ u, laid.me.readSrcs [{ o := 1, lu := false }] = .ok [vAt laid.me.r.v 1] u) ∧
    gp laid g0 = false := by
  refine ⟨?_, ?_, ?_, calm_ready rfl _, calm_ready rfl _, calm_ready rfl _, calm_ready rfl _, ⟨_, rfl⟩, ?_⟩
  all_goals decide +kernel
/-! Witnesses of the engine, port, ring and barrier obligations. -/

/-- What every command needs of a state: its guard, its tokens mapped, room in the queue, no rewind at its ports, its registers in full
banks. -/
def entersB (s : State) (h : MHead) (e : Nat) (regs ports : List Nat) : Bool :=
  let t := s.me.swapIn h
  !gp s h.g && t.tkOk h e && decide ((t.queue e).length < (if 3 ≤ e ∧ e ≤ 10 then 4 else 16)) &&
  ports.all (fun q => (vAt t.e.ports q).rew == none) && regs.all (fun r => t.bankFull r)

/-- tk1 goes from the array to the strand, tk2 from the strand to the array; the head waits for tk2 and signals tk1. -/
def mapped : State := vecs.setMe { vecs.me with sys := { vecs.me.sys with tkmap0 := 0x0110 } }
def hTk : MHead := { h0 with tkw := 2, tks := 1, swap := true, sh := 3 }

theorem witness_ArrayCommandsEnter :
    entersB mapped h0 1 [] [] = true ∧ entersB mapped hTk 1 [4, 31] [0, 1] = true ∧ Ready mapped g0 [] ∧
    (lockNames (.mma h0 .f32 true 0 32 33) = [] ∧ prodBlocks (.mma h0 .e4m3 true 0 1 2) (vAt (mapped.me.swapIn h0).r.sh 0) ≤ 1) ∧
    (vAt (mapped.me.swapIn h0).r.sh 0).k.toNat ≤ 64 := by
  refine ⟨?_, ?_, calm_ready rfl _, ?_⟩
  all_goals decide +kernel

/-- g1: an aligned address of the scratchpad, g2 another, g3 a length, g4 a count, g5 a unit, g6 an entry. -/
def copying : State := setg (setg (setg (setg (setg (setg vecs 1 (spad + 0x40)) 2 (spad + 0x1000)) 3 (2 ^ 21)) 4 (2 ^ 24)) 5 127) 6 8191

theorem witness_EngineCommandsEnter :
    ((vAt copying.me.r.prog 7).startOk ((vAt copying.me.r.lay 0).capture 0) 7 = true ∧ entersB copying h0 10 [] [7] = true ∧
      entersB copying h0 3 [] [0] = true ∧ Ready copying g0 []) ∧
    ((copying.me.g 1).poison = false ∧ classify (copying.me.g 1).val 128 = .ok (winOf (copying.me.g 1).val) ∧
      (copying.me.g 1).val.toNat % 8 = 0 ∧ Ready copying g0 [.g 1]) ∧
    ((copying.me.g 3).val.toNat ≤ 2 ^ 40 ∧ spanCheck (copying.me.g 1).val 0 = none ∧ spanCheck (copying.me.g 2).val (2 ^ 21) = none ∧
      ownSpad copying.cur (copying.me.g 1).val (2 ^ 21) = true ∧ (copying.me.swapIn h0).compCheck .none 0 = none ∧
      (copying.me.swapIn h0).compCheck .sem 1 = none ∧ entersB copying h0 2 [] [] = true ∧
      Ready copying g0 ([.g 1, .g 2, .g 3] ++ compReg .sem 1)) ∧
    ((copying.me.g 4).val.toNat ≤ 2 ^ 24 ∧ spanCheck (copying.me.g 1).val 8 = none ∧
      ((vAt copying.me.r.lay 31).capture 0).allowed false = true ∧ ((vAt copying.me.r.lay 0).capture 0).allowed true = true ∧
      ((vAt copying.me.r.lay 31).capture 0).regFmt = ((vAt copying.me.r.lay 0).capture 0).regFmt ∧
      ((vAt copying.me.r.lay 31).capture 0).plane = ((vAt copying.me.r.lay 0).capture 0).plane ∧
      Ready copying g0 (.g 4 :: (if true then [.g 1] else []) ++ compReg .none 0)) ∧
    ((copying.me.g 5).val.toNat ≤ 127 ∧ (copying.me.g 6).val.toNat ≤ 8191 ∧ (copying.me.g 5).poison = false ∧ entersB copying h0 11 [] [] = true ∧
      Ready copying g0 ([.g 5, .g 6] ++ (if true then [.g 1] else []))) := by
  refine ⟨⟨?_, ?_, ?_, calm_ready rfl _⟩, ⟨?_, ?_, ?_, calm_ready rfl _⟩, ⟨?_, ?_, ?_, ?_, ?_, ?_, ?_, calm_ready rfl _⟩,
    ⟨?_, ?_, ?_, ?_, ?_, ?_, calm_ready rfl _⟩, ⟨?_, ?_, ?_, ?_, calm_ready rfl _⟩⟩
  all_goals first | rfl | decide +kernel

/-- tk1 from the strand to itself, with n tokens. -/
def tokens (n : Nat) : State := vecs.setMe
  { vecs.me with sys := { vecs.me.sys with tkmap0 := 0x00 }, e := { vecs.me.e with tk := vSet vecs.me.e.tk 1 n } }
def hTk1 : MHead := { h0 with tkw := 1, tks := 1 }

theorem witness_TokenClockAndWakeForms :
    ((11 : BitVec 4) ≠ 0 ∧ entersB vecs h0 11 [] [] = true ∧ entersB vecs h0 1 [] [] = true ∧ entersB vecs h0 2 [] [] = true ∧ Ready vecs g0 []) ∧
    (gp vecs h0.g = false ∧ ((tokens 1).me.swapIn hTk1).tkOk hTk1 0 = true ∧ hTk1.tkw ≠ 0 ∧ vAt ((tokens 1).me.swapIn hTk1).e.tk 1 ≠ 0 ∧
      vAt ((tokens 0).me.swapIn hTk1).e.tk 1 = 0 ∧ vAt ((tokens 15).me.swapIn hTk1).e.tk 1 < 16 ∧
      16 ≤ vAt ((tokens 16).me.swapIn hTk1).e.tk 1) ∧
    (∀ n, Ready (tokens n) g0 []) ∧ Ready vecs g0 [.g 31] ∧ (∀ f ∈ (vecs.me.swapIn h0).flights, (vecs.me.swapIn h0).bundle ≤ f.bundle) ∧
    (vecs.spmask vecs.cur).getLsbD 31 = true := by
  refine ⟨⟨?_, ?_, ?_, ?_, calm_ready rfl _⟩, ?_, fun n => calm_ready rfl _, calm_ready rfl _, ?_⟩
  all_goals decide +kernel

/-- q0 has captured a stream of two blocks; g1 and g0 name its position 0. -/
def streamed : State := setg ported 1 (2 ^ 63)

theorem witness_LayoutAndPortForms :
    ((vAt vecs.me.r.lay 31).put 0 (BitVec.allOnes 64) = some { Layout.reset with base := BitVec.allOnes 64 } ∧
      (vAt vecs.me.r.lay 31).put 12 2 = none ∧ (vAt vecs.me.r.lay 0).put 12 1 = some { Layout.reset with sat := true }) ∧
    (∀ v, Ready vecs g0 (lsrcReg (.imm v))) ∧ Ready vecs g0 (lsrcReg (.reg 31)) ∧ (vecs.me.lsrc (.imm 0x3FFFF)).poison = false ∧
    (vAt vecs.me.r.prog 7).put 1 5 = some { Prog.reset with nlev := 5 } ∧ (vAt vecs.me.e.ports 7).rew = none ∧
    Ready vecs g0 [.g 31, .g 0] ∧
    (Ready streamed g0 [.g 1, .g 0] ∧ (vAt streamed.me.e.ports 0).rew = none ∧ (vAt streamed.me.e.ports 0).captured = true ∧
       (vAt streamed.me.e.ports 0).posOk 0 ((streamed.me.g 1).val, (streamed.me.g 0).val) = true) := by
  refine ⟨?_, fun _ => calm_ready rfl _, calm_ready rfl _, ?_, ?_, ?_, calm_ready rfl _, calm_ready rfl _, ?_⟩
  all_goals decide +kernel

/-- A ring of ns slots of 16 bytes at offset 0x100, with its counters. -/
def ringAt (ns h k r t : Nat) : State :=
  base.setRing 31 { base := 0x100, ns := ns, sb := 16, h := BitVec.ofNat 16 h, k := BitVec.ofNat 16 k, r := BitVec.ofNat 16 r,
                    t := BitVec.ofNat 16 t, pub := 0, rel := 0 }

theorem witness_RingForms :
    (base.ringOk 31 = true ∧ ownOffset base.cur (spad + 0x3FF000) = some 0x3FF000 ∧ 0x3FF000 % 16 = 0 ∧ 256 ∈ [1, 2, 4, 8, 16, 32, 64, 128, 256] ∧
      0x3FF000 + 256 * (16 * ((0 : BitVec 12).toNat + 1)) ≤ 0x400000 ∧ Ready base g0 [.g 1, .g 2] ∧ Ready base g0 [.g 0]) ∧
    (let s := ringAt 2 0xFFFF 0xFFFF 0xFFFF 0
     s.ringOk 31 = true ∧ (s.ring 31).ns ≠ 0 ∧ (s.ring 31).full = false ∧ (s.ring 31).k = (s.ring 31).r ∧
       (s.ring 31).slotAt (spad + 0x110) (s.ring 31).r = some (1, 0) ∧ 0 < ((s.ring 31).t - (s.ring 31).r).toNat ∧
       (s.ring 31).pub.getLsbD 1 = false ∧ s.released (.strand s.cur) .co = true) ∧
    (let s := ringAt 2 0 1 2 2
     (s.ring 31).full = true ∧ (s.ring 31).k ≠ (s.ring 31).r ∧ (s.ring 31).slotAt (spad + 0x100) (s.ring 31).h = some (0, 0) ∧
       0 < ((s.ring 31).k - (s.ring 31).h).toNat ∧ (s.ring 31).rel.getLsbD 0 = false) ∧
    (∀ x, Ready (ringAt 2 0 1 2 2) g0 [.g x]) := by
  refine ⟨⟨?_, ?_, ?_, ?_, ?_, calm_ready rfl _, calm_ready rfl _⟩, ?_, ?_, fun _ => calm_ready rfl _⟩
  all_goals decide +kernel

/-- Barrier b127 with count c, allowance a, phase ph and n arrivals for it. -/
def barAt (c a ph n : Nat) : State :=
  base.setBar 0 127 { c := BitVec.ofNat 16 c, a := BitVec.ofNat 8 a, ph := BitVec.ofNat 16 ph, parent := 0,
                      counts := if n = 0 then [] else [(0, n)], up := false, kids := [] }
def latched : State :=
  (barAt 2 1 5 0).setMe { (barAt 2 1 5 0).me with sys := { (barAt 2 1 5 0).me.sys with barl := barLatch 127 0 } }

theorem witness_BarrierForms :
    (base.barOk 127 = true ∧ Ready base g0 [.g 1, .g 2] ∧ Ready base g0 [.g 0] ∧
      (let s := setg (setg base 1 0x0000FFFF00FFFFFF) 2 0x8000FFFF00008F7F
       let x := (s.me.g 1).val
       let y := (s.me.g 2).val
       x.extractLsb' 0 16 ≠ 0 ∧ x &&& ~~~0x0000FFFF00FFFFFF = 0 ∧ y &&& ~~~0x8000FFFF0000FF7F = 0 ∧ (wbit y 63 = true ∨ y = 0) ∧
         wbits y 15 8 ≤ 143 ∧ (wbits y 47 32 < 0x1000 ∨ wbits y 47 32 = 0xFFFF))) ∧
    -- phase 0xFFFF with an allowance of 1: tokens 0xFFFF and 0 arrive, 1 waits, 0xFFFE and 0x7FFF are stale
    (let s := barAt 2 1 0xFFFF 0
     let b := (s.core 0).bar 127
     b.c ≠ 0 ∧ s.barOk 127 = true ∧ ((0 : BitVec 16) - b.ph).toNat ≤ b.a.toNat ∧ ((0 : BitVec 16) - b.ph).toNat < 2 ^ 15 ∧
       b.a.toNat < ((1 : BitVec 16) - b.ph).toNat ∧ ((1 : BitVec 16) - b.ph).toNat < 2 ^ 15 ∧ 2 ^ 15 ≤ ((0x7FFF : BitVec 16) - b.ph).toNat ∧
       s.released (.strand s.cur) .sy = true) ∧
    (∀ x y : Nat, Ready (barAt 2 1 0xFFFF 0) g0 [.g x, .g y]) ∧
    (latched.me.sys.barl = barLatch 127 ((latched.me.g 0).val.extractLsb' 0 16) ∧
      2 ^ 15 ≤ ((0 : BitVec 16) - ((latched.core 0).bar 127).ph).toNat ∧
      (let s := (barAt 2 1 0 0).setMe { (barAt 2 1 0 0).me with sys := { (barAt 2 1 0 0).me.sys with barl := barLatch 127 0 } }
       s.me.sys.barl = barLatch 127 ((s.me.g 0).val.extractLsb' 0 16) ∧ ((0 : BitVec 16) - ((s.core 0).bar 127).ph).toNat < 2 ^ 15)) ∧
    (((barAt 2 0 5 0).core 0).bar 127).up = false ∧
    (((barAt 2 0 5 0).core 0).bar 127).count 0 + 1 < (((barAt 2 0 5 0).core 0).bar 127).c.toNat ∧
    (let b := ((barAt 2 0 5 1).core 0).bar 127
     b.count 0 + 1 = b.c.toNat ∧ wbit b.parent 63 = false ∧ (b.counts = [] ∨ b.counts = [(0, b.count 0)]) ∧ b.kids = []) := by
  refine ⟨⟨?_, calm_ready rfl _, calm_ready rfl _, ?_⟩, ?_, fun _ _ => calm_ready rfl _, ?_⟩
  all_goals decide +kernel


/-- A port being rewound; one whose outbound stream has failed; a store that a release waits for; a core without allotment. -/
def rewinding : State := vecs.setMe (vecs.me.setPort 6 { vAt vecs.me.e.ports 6 with rew := some (0, 0) })
def failed : State := vecs.setMe (vecs.me.setPort 6 { vAt vecs.me.e.ports 6 with captured := true, fault := some { cause := 0x10, tva := 8, eoff := 0, told := false } })
def behindStore (s : State) : State := netOf s [{ mkReq (.strand 0) (.store [1] [0]) (seg .dram 0x40 1 0x40) 0 0 with id := 3 }]
def behindLoad (s : State) : State := netOf s [{ mkReq (.strand 0) (.load 0) (seg .dram 0x40 8 0x40) 0 0 with id := 3 }]
def unallotted : State := { base with d := { base.d with kernels := [loadedKernel] } }

theorem witness_portsAndBarriers :
    (Ready rewinding g0 [.g 31, .g 0] ∧ (vAt rewinding.me.e.ports 6).rew.isSome = true) ∧
    (Ready failed g0 [.g 31, .g 0] ∧ (vAt failed.me.e.ports 6).rew = none ∧
      (vAt failed.me.e.ports 6).fault = some { cause := 0x10, tva := 8, eoff := 0, told := false } ∧ inbound 6 = false) ∧
    (let s := behindLoad (ringAt 2 0xFFFF 0xFFFF 0xFFFF 0)
     s.released (.strand s.cur) .co = false ∧ (s.ring 31).slotAt (spad + 0x110) (s.ring 31).r = some (1, 0)) ∧
    (let s := behindStore (barAt 2 1 0xFFFF 0)
     s.released (.strand s.cur) .sy = false ∧ ((0 : BitVec 16) - ((s.core 0).bar 127).ph).toNat ≤ ((s.core 0).bar 127).a.toNat) ∧
    (unallotted.barOk 127 = false ∧ Ready unallotted g0 [.g 1, .g 2]) ∧ (base.barOk 127 = true ∧ ((base.core 0).bar 127).c = 0) := by
  refine ⟨⟨calm_ready rfl _, ?_⟩, ⟨calm_ready rfl _, ?_⟩, ?_, ?_, ⟨?_, calm_ready rfl _⟩, ?_⟩
  all_goals decide +kernel
/-! Witnesses of the near-memory obligations. -/

def nl : NLaunch := { fromCmd := none, kernel := 1, asid := 0, entry := 0, args := [], code := none }
def val (v : Nat) : SReg := { val := BitVec.ofNat 64 v, poison := false }
/-- Unit 0 runs, with a stack, top first, at word pc. -/
def unitAt (st : List SReg) (pc : Nat) : State := world.modNmu 0 (fun m => { m with run := some nl, stack := st, pc := pc })
def unit (st : List SReg) : State := unitAt st 5

theorem witness_StackAndControlWords :
    (NmReady (unit []) nl 0 1 ∧ NmReady (unit (List.replicate 7 (val 3))) nl 0 1 ∧ NmReady (unit (List.replicate 7 (val 3))) nl 1 2 ∧
      NmReady (unit [val 1, val 2]) nl 2 1 ∧ NmReady (unit [val 1]) nl 1 1 ∧ NmReady (unit (List.replicate 8 (val 3))) nl 0 0) ∧
    ((unit [val 3]).nmu 0).loops.length < 4 ∧ (((unit [val 3]).nmu 0).top 0).poison = false ∧ (((unit [val 3]).nmu 0).top 0).val ≠ 0 ∧
    (((unit [val 0]).nmu 0).top 0).val = 0 ∧ 2 ≤ (2 : BitVec 10).toNat ∧
    (let s := (unit [val 3]).modNmu 0 (fun m => { m with loops := List.replicate 4 (1, 2) })
     NmReady s nl 1 0 ∧ 4 ≤ (s.nmu 0).loops.length ∧ (s.nmu 0).loops = (1, 2) :: List.replicate 3 (1, 2)) ∧
    (let s := (unit [val 3]).modNmu 0 (fun m => { m with loops := [(0, 8191)] })
     NmReady s nl 0 0 ∧ (s.nmu 0).loops = (0, 8191) :: [] ∧ (0 : Word) ≠ 1) ∧
    ((unit []).nmu 0).loops = [] ∧ ((unit []).nmu 0).stack = [] ∧ ((unit (List.replicate 8 (val 3))).nmu 0).stack.length = 8 ∧
    (((unitAt [] 8191).nmu 0).pc : Int) + (1 : BitVec 10).toInt > 8191 ∧ ((unitAt [] 0).nmu 0).pc + (0x3FF : BitVec 10).toInt < 0 := by
  unfold NmReady; decide +kernel

/-- The checks leave the state and answer one segment. -/
def passes (r : State × NmChk) (s : State) (x : Seg) : Bool := r.1 == s && match r.2 with | .ok gs => gs == [x] | _ => false
theorem passes_ok {r : State × NmChk} {s : State} {x : Seg} (h : passes r s x = true) : r = (s, .ok [x]) := by
  rcases r with ⟨y, _ | _ | _⟩ <;> simp [passes] at h
  rw [h.1, h.2]
/-- An access of unit 0 passes its checks as one segment of device memory. -/
def nmPasses (s : State) (p : Perm) (a : Word) (len : Nat) : Bool :=
  passes (s.nmWordCheck nl p a len) s (seg .dram (a.toNat - 2 ^ 38 + 2 ^ 28) len a)

/-- The unit's answer has come. -/
def answered (st : List SReg) : State := (unit st).modNmu 0 (fun m => { m with wait := some 0, got := some ([], []) })
def nmLoad : Req := mkReq (.nmu 0) (.load 0) (seg .dram 0 8 0) 0 1
/-- Its claims are turned off. -/
def claimless (s : State) : State := (s.setMgr 0x1000 0x800).setMgr 0x2000 1
/-- The banks of a unit's first group are near-owned. -/
def nearOwned (s : State) : State := { s with m := { s.m with own := ((List.range 16).flatMap (groupBanks 0)).map (fun k => (k, Own.near)) } }
/-- Word 2 of the span to be stored is poisoned. -/
def spoiled (waits : Bool) : State :=
  (unit [val 0x10000, val 0, val (2 ^ 38)]).modNmu 0 (fun m => { m with vpoison := 1 <<< 20, wait := if waits then some 0 else none })

theorem witness_MemoryWords :
    (NmReady (unit [val 0x3FF8]) nl 1 1 ∧ (val 0x3FF8).val.toNat % 2 ^ (3 : NmSize).toNat = 0 ∧ (val 0x3FF8).val.toNat < 0x4000 ∧
      0x4000 ≤ (val 0x4000).val.toNat ∧ (val 3).val.toNat % 2 ^ (1 : NmSize).toNat ≠ 0 ∧ ((answered [val 0]).nmu 0).wait = some 0 ∧
      ((answered [val 0]).nmu 0).got = some ([], []) ∧ ((unit [val (2 ^ 38)]).nmu 0).wait = none ∧
      nmPasses (unit [val (2 ^ 38)]) { r := true } (BitVec.ofNat 64 (2 ^ 38)) 8 = true ∧
      NmReady (unit [{ val := 5, poison := true }]) nl 1 1 ∧ (((unit [{ val := 5, poison := true }]).nmu 0).top 0).poison = true) ∧
    (NmReady (unit [val (2 ^ 38 + 0x3FFF8), val 7]) nl 2 0 ∧
      nmPasses (unit [val (2 ^ 38 + 0x3FFF8), val 7]) { w := true } (BitVec.ofNat 64 (2 ^ 38 + 0x3FFF8)) 8 = true ∧
      nmPasses (unit [val 7, val (2 ^ 38)]) { a := true } (BitVec.ofNat 64 (2 ^ 38)) 8 = true) ∧
    (let w : Waiter := { id := 0, who := .nmu 0, asid := 0, va := BitVec.ofNat 64 (2 ^ 38), sp := .dram, pa := 2 ^ 28, eq := true, cmp := 7, sat := some (7, false), woken := true }
     ∀ k, let s : State := { unit [val 7, val (2 ^ 38)] with waiters := [{ w with woken := k }] }
      NmReady s nl 2 1 ∧ nmPasses s { r := true } (BitVec.ofNat 64 (2 ^ 38)) 8 = true ∧
      (s.place (2 ^ 28)).map (fun p => p.stack) = some (0 / 16) ∧ (s.nmu 0).wait = none ∧
      (let s := s.modNmu 0 (fun m => { m with wait := some 1 })
       NmReady s nl 2 1 ∧ (s.nmu 0).wait.isSome = true ∧ s.waiterOf (.nmu 0) = some { w with woken := k })) ∧
    (let s := unit [val 0x10000, val 0, val (2 ^ 38)]
     NmReady s nl 3 0 ∧ ((s.nmu 0).top 0).val.toNat % 4 = 0 ∧ 4 ≤ ((s.nmu 0).top 0).val.toNat ∧ ((s.nmu 0).top 0).val.toNat ≤ 65536 ∧
      ((s.nmu 0).top 1).val.toNat + ((s.nmu 0).top 0).val.toNat ≤ 0x10000 ∧ ((s.nmu 0).top 2).val.toNat % 4 = 0 ∧ (s.nmu 0).mve = none ∧
      (s.nmu 0).mveFault = none ∧ (s.nmu 0).vpoison = 0 ∧ nmPasses s { r := true } (BitVec.ofNat 64 (2 ^ 38)) 0x10000 = true ∧
      nmPasses s { w := true } (BitVec.ofNat 64 (2 ^ 38)) 0x10000 = true ∧
      (s.nmu 0).wait = none ∧ (s.nmu 0).badLine (BitVec.ofNat 64 (2 ^ 38)) 0 0x10000 = none ∧
      NmReady (answered [val 4, val 0xFFFC, val 0]) nl 3 0) ∧
    (∀ b, NmReady (spoiled b) nl 3 0 ∧ ((spoiled b).nmu 0).badLine (BitVec.ofNat 64 (2 ^ 38)) 0 0x10000 = some (BitVec.ofNat 64 (2 ^ 38 + 64)) ∧
      nmPasses (spoiled b) { w := true } (BitVec.ofNat 64 (2 ^ 38)) 0x10000 = true ∧ ((spoiled b).nmu 0).wait.isSome = b ∧ (spoiled b).net = []) ∧
    (NmReady (unit [val 0xFFFF]) nl 1 0 ∧ (val 0xFFFF).val.toNat < 2 ^ 16 ∧ wbit ((unit [val 0xFFFF]).arb 0) 0 = false ∧
      wbit ((claimless (unit [val 0xFFFF])).arb 0) 0 = true ∧
      (∀ k ∈ (maskBits 16 0xFFFF).flatMap (groupBanks 0), tget (nearOwned (unit [val 0xFFFF])).m.own k = some .near) ∧
      tget (unit [val 0xFFFF]).m.own 0 = none ∧ 0 ∈ (maskBits 16 0xFFFF).flatMap (groupBanks 0)) ∧
    (NmReady (unit []) nl 0 0 ∧ (unit []).nmDone 0 = true ∧ (netOf (unit []) [nmLoad]).nmDone 0 = false) := by
  unfold NmReady
  refine ⟨?_, ?_, fun k => ?_, ?_, fun b => ?_, ?_, ?_⟩
  case refine_3 => cases k <;> decide +kernel
  case refine_5 => cases b <;> decide +kernel
  all_goals decide +kernel

/-- A descriptor at 0x100 of the word store: one row of two columns at 2^38, vector at 0, result at 4. -/
def descriptor : List Byte :=
  toBytes 8 (2 ^ 38) ++ toBytes 4 1 ++ toBytes 4 2 ++ toBytes 8 2 ++ toBytes 2 0 ++ toBytes 2 4 ++ toBytes 2 0 ++ toBytes 2 0
def mvForm : MvxForm := { sat := false, vi8 := false, acc := false, exp := false, b := 0, wf := 0 }
def mvUnit : State := (unit [val 0x100]).modNmu 0 (fun m => { m with ws := writeBytes m.ws 0x100 descriptor })
def product : Mve := (mvUnit.nmu 0).mveOf mvForm 0x100 mvUnit.fresh
/-- The product runs; it has stopped; its weights cannot be reached. -/
def computing : State := mvUnit.modNmu 0 (fun m => { m with mve := some product })
def mvStopped : State := mvUnit.modNmu 0 (fun m => { m with mveFault := some (9, 0, product) })
def lost : Mve := { product with wbase := 2 ^ 60 }
/-- The first row's weights have come. -/
def fetched : State :=
  { computing with gathers := [{ id := 0, src := .mve 0, sp := .dram, pa := 2 ^ 28, len := product.rowBytes, need := 0, raw := [], bad := [] }] }
def failing : State := mvUnit.modNmu 0 (fun m => { m with mve := some lost })

def rowsDone (w : Weights) : Bool := match w with | .ok _ _ => true | _ => false
def rowsWait (w : Weights) : Bool := match w with | .wait _ => true | _ => false
def rowsStop (w : Weights) : Bool := match w with | .stop _ _ _ => true | _ => false
theorem rowsDone_ok {w : Weights} (h : rowsDone w = true) : ∃ t rows, w = .ok t rows := by cases w <;> simp [rowsDone] at h; exact ⟨_, _, rfl⟩
theorem rowsWait_ok {w : Weights} (h : rowsWait w = true) : ∃ t, w = .wait t := by cases w <;> simp [rowsWait] at h; exact ⟨_, rfl⟩
theorem rowsStop_ok {w : Weights} (h : rowsStop w = true) : ∃ t r va, w = .stop t r va := by
  cases w <;> simp [rowsStop] at h; exact ⟨_, _, _, rfl⟩

theorem witness_EngineWordsAndKernelEnds :
    (NmReady mvUnit nl 1 0 ∧ (∀ i, i < 1 → ((mvUnit.nmu 0).top i).poison = false) ∧ (mvUnit.nmu 0).mve = none ∧ (mvUnit.nmu 0).mveFault = none ∧
      0x100 % 8 = 0 ∧ mveLimit product = none ∧ (∀ e ∈ product.vecs ++ product.results, e.1 + e.2 ≤ 0x10000) ∧
      ∀ a ∈ product.vecs, ∀ b ∈ product.results, meets b a = false) ∧
    (NmReady (unit []) nl 0 0 ∧ NmReady computing nl 0 0 ∧ (computing.nmu 0).mve.isSome = true ∧ NmReady mvStopped nl 0 0 ∧
      (mvStopped.nmu 0).mve = none ∧ (mvStopped.nmu 0).mveFault = some (9, 0, product)) ∧
    ((computing.nmu 0).run = some nl ∧ (computing.nmu 0).mve = some product ∧
      (∀ r ∈ computing.net, r.src = .nmu 0 → r.done = true ∨ product.fork ≤ r.id) ∧ fetched.nmu 0 = computing.nmu 0 ∧
      rowsDone (fetched.mveRow 0 nl.asid product product.done) = true ∧ rowsWait (computing.mveRow 0 nl.asid product product.done) = true ∧
      rowsStop (failing.mveRow 0 nl.asid lost lost.done) = true) ∧
    (NmReady (unit [{ val := BitVec.ofInt 64 (-256), poison := false }, val 63]) nl 2 0 ∧ (val 63).val.toNat < 2 ^ 13 ∧
      (unit []).nmuOk (144 + 0) 0 1 = true ∧ ((unit [val 255, val 63]).nmu 0).wait = none ∧ ((answered [val 255, val 63]).nmu 0).wait ≠ none ∧
      ∀ r ∈ (answered [val 255, val 63]).net, r.src = .nmu 0 → r.op.posted = true) ∧
    (NmReady (unit [val 16384, val 0, val 63]) nl 3 0 ∧ 16384 ≤ 16384 ∧ 0 + 16384 * 4 ≤ 0x10000 ∧ ((unit []).nmu 0).vpoison = 0 ∧
      NmReady (answered [val 64, val 0xFF00, val 63]) nl 3 0 ∧ 0xFF00 + 64 * 4 ≤ 0x10000 ∧ 0xFF00 % 4 = 0 ∧
      (unit []).nmuOk (144 + 0) 0 0 = true) ∧
    ((unit []).nmu 0).mveFault = none ∧ (unit []).nmDone 0 = true ∧ (netOf (unit []) [nmLoad]).nmDone 0 = false ∧
    (let s := world.modNmu 0 (fun m => { m with queue := [nl] })
     (s.nmu 0).run = none ∧ (s.nmu 0).queue = nl :: [] ∧ nl.code = none) ∧
    (let s := (unit []).modNmu 0 (fun m => { m with abort := true })
     (s.nmu 0).run = some nl ∧ (s.nmu 0).abort = true ∧ (s.nmu 0).wordAt (s.nmu 0).pc ≠ 0x7000 ∧ decodeNm (s.nmu 0).nextWords = none ∧
       ((s.nmu 0).wordAt (s.nmu 0).pc).toNat / 2 ^ 10 ≠ 1 ∧ s.redDone 0 = false) ∧
    (let s := (unit []).modNmu 0 (fun m => { m with abort := true, ws := [(10, 0), (11, 0x70)] })
     (s.nmu 0).run = some nl ∧ (s.nmu 0).abort = true ∧ s.redDone 0 = false ∧ (s.nmu 0).wordAt (s.nmu 0).pc = 0x7000 ∧
       (s.nmu 0).mveFault = none ∧ s.nmDone 0 = true) ∧
    (let s := (unitAt [] 8191).modNmu 0 (fun m => { m with ws := [(16383, 0x04)] })
     decodeNm (s.nmu 0).nextWords = none ∧ ((s.nmu 0).wordAt (s.nmu 0).pc).toNat / 2 ^ 10 = 1 ∧
       bits ((s.nmu 0).wordAt (s.nmu 0).pc).toNat 9 3 = 0) ∧
    (∃ l : NLaunch, l.fromCmd.isSome = true ∧ ((world.modNmu 0 (fun m => { m with run := some l })).nmu 0).run = some l) := by
  unfold NmReady
  refine ⟨?_, ?_, ?_, ?_, ?_, ?_, ?_, ?_, ?_, ?_, ?_, ?_, ⟨{ nl with fromCmd := some (0, 3) }, ?_⟩⟩
  all_goals decide +kernel

/-! Witnesses of the range, bank and launch obligations, and of a trap's destination. -/

/-- What a source has read of device memory, span by span: it stands in its gathers. -/
def heardAs (src : Src) (m : Mem) (ps : List (Nat × Nat)) (s : State) : State :=
  { s with gathers := s.gathers ++ ps.map (fun e =>
      { id := 0, src := src, sp := .dram, pa := e.1, len := e.2, need := 0, raw := writeBytes [] 0 (readBytes m e.1 e.2), bad := [] }) }
def heard (src : Src) (ps : List (Nat × Nat)) (s : State) : State := heardAs src s.dram ps s
/-- The core's source for strand 0's edits; it has read the directory and its first records. -/
def editor : Src := .other 300
def dirSpans (n : Nat) : List (Nat × Nat) := (0x1000, 32) :: (List.range n).map (fun i => (0x2000 + 32 * i, 32))
def readDir (n : Nat) (s : State) : State := heard editor (dirSpans n) s
/-- What it has read is poisoned. -/
def spoilt (s : State) : State := { s with gathers := s.gathers.map (fun x => { x with bad := [0] }) }

def walkOk (r : State × Except (Option (BitVec 7)) (DirEntry × RangeRec × Nat)) (s : State) (e : DirEntry) (x : RangeRec) (i : Nat) : Bool :=
  r.1 == s && match r.2 with | .ok y => y == (e, x, i) | .error _ => false
def walkErr (r : State × Except (Option (BitVec 7)) (DirEntry × RangeRec × Nat)) (c : Option (BitVec 7)) : Bool :=
  match r.2 with | .ok _ => false | .error y => y == c
theorem walkOk_ok {r : State × Except (Option (BitVec 7)) (DirEntry × RangeRec × Nat)} {s : State} {e : DirEntry} {x : RangeRec} {i : Nat}
    (h : walkOk r s e x i = true) : r = (s, .ok (e, x, i)) := by
  rcases r with ⟨y, _ | y⟩ <;> simp [walkOk] at h
  rw [h.1, h.2]
theorem walkErr_error {r : State × Except (Option (BitVec 7)) (DirEntry × RangeRec × Nat)} {c : Option (BitVec 7)} (h : walkErr r c = true) :
    r = (r.1, .error c) := by
  rcases r with ⟨y, x | y⟩ <;> simp [walkErr] at h
  rw [h]

def dir0 (cap count : Nat) : DirEntry :=
  { cap := cap, dbase := 0x2000, count := count, bbase := 0x8000, wdl := 0, hcomp := false, hfill := false, hwalk := true }
def range1 : RangeRec := { range0 with base := 2 ^ 38 + 2 ^ 18, length := 1 }
def movingRec : RangeRec := { range0 with moving := true }
/-- g1 holds a, g2 the ASID 0, in supervisor state. -/
def editing (s : State) (a : Nat) : State := priv (setg s 1 (BitVec.ofNat 64 a))
def rgo : RgForm := { gd := 31, ga := 1, gb := 2 }
/-- The walk of the edit's address finds record i, with the directory as it was read. -/
def finds (s : State) (a cap count : Nat) (r : RangeRec) (i : Nat) : Bool :=
  s.me.sys.priv && s.released (.strand s.cur) .dv && winOf (s.me.g 1).val == .d && (s.me.g 1).val.toNat == a &&
  walkOk (s.walk editor 0 a) s (dir0 cap count) r i
/-- Two records: range0, and above it r. -/
def twoAt (r : RangeRec) : State := readDir 2 (editing (worldOf [range0, r] 4 true) (2 ^ 38))
def above (r : RangeRec) : Bool :=
  let s := twoAt r
  finds s (2 ^ 38) 4 2 range0 0 && (match (s.readRec editor (dir0 4 2) 1).2 with | .ok bs => bs == r.bytes | _ => false) &&
  parseRec r.bytes == some r
/-- The second record is not valid. -/
def invalidAbove : State :=
  let s := editing (worldOf [range0, range1] 4 true) (2 ^ 38)
  readDir 2 { s with dram := writeBytes s.dram 0x2028 (toBytes 8 0) }
def merged' (u : RangeRec) : Bool :=
  { range0 with asid := u.asid, base := u.base, length := u.length, mdie := u.mdie, map := u.map } == u && (twoAt u).recOk u

theorem witness_RangeForms_walk :
    (let s := editing world (2 ^ 56)
     s.me.sys.priv = true ∧ (s.me.g 1).poison = false ∧ (s.me.g 2).val.toNat < 2 ^ 16 ∧ gp s g0 = false ∧ s.released (.strand s.cur) .dv = true ∧
       winOf (s.me.g 1).val ≠ .d) ∧
    ((priv (badg base 1)).me.g 1).poison = true ∧ 2 ^ 16 ≤ ((priv (setg base 2 (2 ^ 16))).me.g 2).val.toNat ∧
    (behindStore (editing world 0)).released (.strand 0) .dv = false ∧
    walkErr ((editing world (2 ^ 38)).walk editor 0 (2 ^ 38)) none = true ∧
    walkErr ((spoilt (readDir 1 (editing world (2 ^ 38)))).walk editor 0 (2 ^ 38)) (some 0x41) = true ∧
    walkErr ((readDir 1 (editing world (2 ^ 38 + 2 ^ 18))).walk editor 0 (2 ^ 38 + 2 ^ 18)) (some 0x10) = true ∧
    finds (readDir 1 (editing (worldOf [movingRec] 4 true) (2 ^ 38))) (2 ^ 38) 4 1 movingRec 0 = true := by
  decide +kernel

theorem witness_RangeForms_edit :
    -- a pin; one whose directory has changed since it was read; a full directory; a split at the start, and of the last 64 KiB; a merge of the last
    (let s := readDir 1 (editing world (2 ^ 38))
     finds s (2 ^ 38) 4 1 range0 0 = true ∧ range0.moving = false ∧ s.mayEdit editor 0 (dir0 4 1) 0 = true ∧ (dir0 4 1).count ≤ 0 + 1 ∧
       (dir0 4 1).count ≠ (dir0 4 1).cap ∧ 2 ^ 38 - range0.base = 0) ∧
    (let s := heardAs editor world.dram (dirSpans 1) (editing (worldOf [range1] 4 true) (2 ^ 38))
     finds s (2 ^ 38) 4 1 range0 0 = true ∧ s.mayEdit editor 0 (dir0 4 1) 0 = false) ∧
    finds (readDir 1 (editing (worldOf [range0] 1 true) (2 ^ 38))) (2 ^ 38) 1 1 range0 0 = true ∧ (dir0 1 1).count = (dir0 1 1).cap ∧
    (let a := 2 ^ 38 + 3 * 2 ^ 16
     finds (readDir 1 (editing world a)) a 4 1 range0 0 = true ∧ a % 2 ^ 16 = 0 ∧ a - range0.base ≠ 0 ∧ range0.partialRes = false) ∧
    -- above it a record that is not valid, one that does not continue it, one that moves, one with other permissions, one that merges
    (finds invalidAbove (2 ^ 38) 4 2 range0 0 = true ∧ 0 + 1 < (dir0 4 2).count ∧
      (match (invalidAbove.readRec editor (dir0 4 2) 1).2 with | .ok bs => parseRec bs == none | _ => false) = true) ∧
    (above { range1 with base := 2 ^ 38 + 2 ^ 19 } = true ∧ (2 ^ 38 + 2 ^ 19 : Nat) ≠ range0.base + range0.size) ∧
    (above { range1 with moving := true } = true ∧ range1.base = range0.base + range0.size) ∧
    (above { range1 with w := false } = true ∧ merged' { range1 with w := false } = false) ∧ (above range1 = true ∧ merged' range1 = true) := by
  decide +kernel

theorem witness_RangeForms_splice :
    (0 + 1 ≤ (dir0 4 2).count ∧ 0 + 1 < (dir0 4 2).count ∧
      (let r := (twoAt range1).readZoned editor (0x2000 + 32 * (0 + 1)) (32 * (2 - 0 - 1))
       r.1 = twoAt range1 ∧ r.2 = .data range1.bytes false ∧ r.1.mayEdit editor 0 (dir0 4 2) 0 = true ∧ range1.bytes ≠ [])) ∧
    (1 + 1 = (dir0 4 2).count ∧ (twoAt range1).mayEdit editor 0 (dir0 4 2) 1 = true) := by
  decide +kernel

/-- An invalidation of strand 0 is out, to party 5, or to the strand's own core alone, or answered by all. -/
def shot (todo : List Party) : Shoot := { id := 3, asid := 0, span := none, strand := some 0, todo := todo, got := [] }
def shooting (todo : List Party) : State := { editing world (2 ^ 38) with shoots := [shot todo] }
/-- A record in part resident, its map at 0x9000, in the core's table; g1 holds an address of it. -/
def partRec : RangeRec := { range0 with partialRes := true, map := 0x9000 }
def probingOf (r : RangeRec) (kept : List Nat) : State :=
  (setg (worldOf [r] 4 true) 1 (BitVec.ofNat 64 (2 ^ 38))).modCore 0 (fun c =>
    { c with rtab := [{ asid := 0, r := r, idx := 0, kept := kept, dead := none }] })
def probing : List Nat → State := probingOf partRec
/-- Its map stands in no zone. -/
def mapless : RangeRec := { partRec with map := 2 ^ 38 }
def partEntry (kept : List Nat) : RtEntry := { asid := 0, r := partRec, idx := 0, kept := kept, dead := none }
def asked (s : State) : State := setg s 1 (BitVec.ofNat 64 (2 ^ 38 + 2 ^ 20))
def refusing : State := { asked world with denials := [(.strand 0, 0, 2 ^ 38 + 2 ^ 20, 0x10)] }

theorem witness_RangeForms_queries :
    ((shooting []).shoots.find? (fun (h : Shoot) => h.strand == some 0) = some (shot []) ∧ (∀ x ∈ (shooting []).shoots, x.id = 3 → x.todo = []) ∧
      (∃ x ∈ (shooting [5]).shoots, x.id = 3 ∧ x.todo ≠ []) ∧
      (∀ x ∈ ((shooting [0]).acknowledge (shot [0]) 0).shoots, x.id = 3 → x.todo = []) ∧
      (∃ x ∈ ((shooting [5]).acknowledge (shot [5]) 0).shoots, x.id = 3 ∧ x.todo ≠ []) ∧
      (editing world (2 ^ 38)).shoots = [] ∧ (editing world (2 ^ 38)).released (.strand 0) .co = true ∧
      (behindLoad (editing world 0)).released (.strand 0) .co = false) ∧
    (winOf ((asked world).me.g 1).val = .d ∧ (asked world).rtFind 0 0 (2 ^ 38 + 2 ^ 20) = none ∧
      ((asked world).askWalk (.strand 0) 0 (2 ^ 38 + 2 ^ 20)).2 = none ∧ refusing.rtFind 0 0 (2 ^ 38 + 2 ^ 20) = none ∧
      (refusing.askWalk (.strand 0) 0 (2 ^ 38 + 2 ^ 20)).2 = some 0x10) ∧
    (probing []).rtFind 0 0 (2 ^ 38) = some (partEntry []) ∧ (probing [0]).rtFind 0 0 (2 ^ 38) = some (partEntry [0]) ∧
    partRec.granule (2 ^ 38) ∈ (partEntry [0]).kept ∧ partRec.granule (2 ^ 38) ∉ (partEntry []).kept ∧
    (match ((probing []).mapBit 0 partRec 0).2 with | .error none => true | _ => false) = true ∧
    (match ((heard (.walker 0 0) [(0x9000, 1)] (probing [])).mapBit 0 partRec 0).2 with | .ok b => !b | _ => false) = true ∧
    (probingOf mapless []).rtFind 0 0 (2 ^ 38) = some { partEntry [] with r := mapless } ∧
    (match ((probingOf mapless []).mapBit 0 mapless 0).2 with | .error (some c) => c == 0x10 | _ => false) = true ∧
    (let s := setg (setg world 1 (2 ^ 56 - 1)) 2 0xFFFFFFFFFFFFFFFF
     (s.me.g 1).val.toNat < min (2 ^ 56) ((s.me.g 1).val.toNat + (s.me.g 2).val.toNat)) ∧
    (let s := setg world 1 (2 ^ 56)
     min (2 ^ 56) ((s.me.g 1).val.toNat + (s.me.g 2).val.toNat) ≤ (s.me.g 1).val.toNat ∧ s.wants = [] ∧ s.fills = []) ∧
    (∃ w ∈ [({ id := 1, n := 0, asid := 0, lo := 0, hi := 1 } : Want)], w.n = world.cur) ∧
    (∃ f ∈ [({ (default : Fill) with rgfill := [0] } : Fill)], world.cur ∈ f.rgfill) := by
  decide +kernel

theorem witness_RangeForms_ready (s : State) (h : s.me.flights = []) :
    Ready s g0 [.g rgo.gd.toNat, .g rgo.ga.toNat, .g rgo.gb.toNat] ∧ Ready s g0 [.g 31, .g 1] ∧ Ready s g0 [.g 1, .g 2] :=
  ⟨calm_ready h _, calm_ready h _, calm_ready h _⟩

/-- A bank of the scratchpad that is not full. -/
def halfFull : State := base.modCore 0 (fun c => c.setBank 31 { fullBank with st := .off })
def waking : State := setg halfFull 2 (2 ^ 31)
/-- The banks of the strand's allotment that `node` takes off for the map in g2. -/
def takenOff (s : State) : List Nat := (List.range 32).filter (fun k => (s.spmask s.cur &&& ~~~((s.me.g 2).val.setWidth 32)).toNat.testBit k)
def namedIn (s : State) : List Nat := (List.range 32).filter (fun k => (s.me.g 2).val.toNat.testBit k)
/-- A drop waits at bank 3, of banks 3 and 4, of strand 0. -/
def dropping (off : Bool) : State :=
  base.modCore 0 (fun c => c.setBank 3 { fullBank with drops := [(0, 9, off, 0x18)] })
def inBank4 : Req := { mkReq (.strand 0) (.load 0) (seg .chip (4 * 0x20000) 8 0) 0 1 with id := 5 }

theorem witness_BankForms_banks :
    (∀ k ∈ (List.range 8).filter (fun k => (0xFF : BitVec 8).toNat.testBit k), base.me.bankQuiet k = true) ∧
    (∃ k ∈ (List.range 8).filter (fun k => (0x80 : BitVec 8).toNat.testBit k),
      ({ (withCmds vecs [{ aCmd 1 1 (.mma h0 .f32 false 0 31 31) with locks := [31] }]).me with bundle := 5 }).bankQuiet k = false) ∧
    (let s := setg base 2 (2 ^ 32 - 1)
     (s.me.g 2).poison = false ∧ (s.me.g 2).val.toNat < 2 ^ 32 ∧ (s.me.g 2).val.setWidth 32 &&& ~~~s.spmask s.cur = 0 ∧
       (∀ k ∈ namedIn s, ((s.core 0).bank k).st = .full) ∧ (s.me.g 2).val ≠ 0) ∧
    (∃ k ∈ namedIn waking, ((waking.core 0).bank k).st ≠ .full) ∧ (base.me.g 2).val = 0 ∧
    ((badg base 2).me.g 2).poison = true ∧ 2 ^ 32 ≤ ((setg base 2 (2 ^ 32)).me.g 2).val.toNat ∧
    (let s := { setg base 2 1 with d := { base.d with kernels := [loadedKernel] } }
     (s.me.g 2).val.toNat < 2 ^ 32 ∧ (s.me.g 2).val.setWidth 32 &&& ~~~s.spmask s.cur ≠ 0) ∧
    (((dropping true).core 0).bank 3).drops = (0, 9, true, 0x18) :: [] ∧ (((dropping true).core 0).bank 3).waking = none ∧
    (dropping true).toBank 0 3 9 = false ∧ (dropping true).toBanks 0 9 0x18 = false ∧ (netOf (dropping false) [inBank4]).toBanks 0 9 0x18 = true := by
  refine ⟨by decide +kernel, ⟨7, by decide +kernel, by decide +kernel⟩, by decide +kernel, ⟨31, by decide +kernel, by decide +kernel⟩, ?_⟩
  decide +kernel

theorem witness_BankForms_node :
    (base.me.g 1).val.toNat < 2 ^ 32 ∧ base.me.flights = [] ∧ base.me.e.cmds = [] ∧
      (∀ k ∈ takenOff base, ((base.core 0).bank k).waking = none ∧ ((base.core 0).bank k).drops = [] ∧ base.busyBank 0 k = false) ∧
      3 ∈ takenOff base ∧ (((dropping true).core 0).bank 3).drops ≠ [] ∧ 2 ^ 32 ≤ ((setg base 1 (2 ^ 32)).me.g 1).val.toNat ∧
      ((badg base 1).me.g 1).poison = true := by
  decide +kernel

/-- The record at the scratchpad's 0x40 is launched into queue 0; the core has read it, and the queue's descriptor. -/
def recSeg : Seg := seg .chip 0x40 64 (spad + 0x40)
def launching (cfg prod cons : Nat) : State := withQueue (setg world 1 (spad + 0x40)) cfg prod cons
def recRead (bad : List Nat) (s : State) : State :=
  { s with gathers := [{ id := 0, src := editor, sp := .chip, pa := 0x40, len := 64, need := 0, raw := [], bad := bad }] }
def queueRead (s : State) : State := heard editor [(0x3000, 32)] (recRead [] s)
/-- The checks pass, and the record has been read, without poison. -/
def launchReads (s : State) (bad : List Nat) : Bool :=
  let r := s.getSegs editor 0 [recSeg]
  s.check { r := true } 64 (s.me.g 1).val 64 == (s, .ok [recSeg]) && s.released (.strand s.cur) .dv && r.1 == s &&
  (match r.2 with | some bs => bs.any (fun b => b.2) == !bad.isEmpty | none => false)
/-- The descriptor has been read; the queue admits a launch; the counts are prod and cons; the memory it writes is settled. -/
def launchOk (prod cons : Nat) : Bool :=
  let s := queueRead (launching 0x602 prod cons)
  let d := s.queueDesc editor 272 0
  launchReads s [] && d.1 == s && s.intact editor && s.settledLines 0x3000 32 && s.settledLines (0x20000 + 64 * (prod % 4)) 64 &&
  s.queueAt 0 == 0x3000 && s.dramOk 272 true 0x3000 && s.dramOk 272 true (0x20000 + 64 * (prod % 4)) &&
  (match d.2 with
   | .data bs false => bits (word bs 1) 4 0 == 2 && bit (word bs 1) 9 && bits (word bs 2) 31 0 == prod && bits (word bs 2) 63 32 == cons
   | _ => false)
/-- Another source's load of the descriptor has been accepted and is still to be served. -/
def queueBusy : State :=
  netOf (queueRead (launching 0x602 5 2)) [{ mkReq (.strand 8) (.load 0) (seg .dram 0x3000 8 0) 0 1 with id := 1, accept := some 0 }]
/-- A queue with room, one that is full, one whose counts have wrapped; one without device producers; reads that are on their way. -/
theorem witness_BankForms_launch :
    launchOk 5 2 = true ∧ launchOk 4 0 = true ∧ launchOk (2 ^ 32 - 1) (2 ^ 32 - 2) = true ∧
    ({ queueRead (launching 0x602 5 2) with dram := [] } : State).intact editor = false ∧ queueBusy.settledLines 0x3000 32 = false := by
  decide +kernel
def producerless : Bool :=
  match ((queueRead (launching 0x402 5 2)).queueDesc editor 272 0).2 with | .data bs false => !bit (word bs 1) 9 | _ => false
theorem witness_BankForms_launchStops :
    (let s := launching 0x602 5 2
     s.check { r := true } 64 (s.me.g 1).val 64 = (s, .ok [recSeg]) ∧ (s.getSegs editor 0 [recSeg]).2 = none ∧
       (behindStore s).check { r := true } 64 (s.me.g 1).val 64 = (behindStore s, .ok [recSeg]) ∧
       (behindStore s).released (.strand 0) .dv = false ∧ launchReads (recRead [8] s) [8] = true ∧ launchReads (recRead [] s) [] = true) ∧
    (let s := launching 0x602 5 2
     ((recRead [] s).queueDesc editor 272 0).2 = .wait ∧ (s.me.g 1).poison = false ∧ (s.me.g 0).val.toNat < 2 ^ 16 ∧ gp s g0 = false) ∧
    (((recRead [] (launching 0x602 5 2)).setMgr 0x100 (2 ^ 38)).queueDesc editor 272 0).2 = .none ∧ producerless = true := by
  refine ⟨?_, ?_, ?_, ?_⟩
  all_goals decide +kernel

theorem witness_BankForms_ready (s : State) (h : s.me.flights = []) :
    Ready s g0 [] ∧ Ready s g0 [.g 2] ∧ Ready s g0 [.g 1, .g 2] ∧ Ready s g0 [.g 31, .g 1, .g 0] :=
  ⟨calm_ready h _, calm_ready h _, calm_ready h _, calm_ready h _⟩

/-- ASID 0's handler table stands at the range's start; its entry of cause 0x3F names a handler at 0x100. -/
def handled (hta : Nat) : State :=
  let s := world.setMgr 0x110 0x6000
  let s := { s with dram := writeBytes s.dram 0x6000 (toBytes 8 hta) }
  { s with dram := writeBytes s.dram (2 ^ 28 + 8 * 0x3F) (toBytes 8 0x100) }
def aTrap : TrapRec := { cause := 0x3F }
/-- The strand as it enters the trap. -/
def enteringTrap (s : State) : State :=
  let t := s.me
  s.setStrand s.cur { t with
    sys := { t.sys with tcause := 0x3F, tpc := t.pc, tcut := t.cut, ppriv := t.sys.priv, priv := true, il := true },
    ilUpTo := t.bundle, iss := .trapped, blen := 1 }

theorem witness_TrapDestination :
    (let s := enteringTrap (handled (2 ^ 38))
     let q := s.readDram 0x6000 16
     (handled (2 ^ 38)).me.sys.priv = false ∧ s.zoned 0x6000 16 = true ∧ q.2.2 = [] ∧ word q.2.1 0 = 2 ^ 38 ∧ q.1 = s ∧
       winOf (BitVec.ofNat 64 (2 ^ 38 + 8 * 0x3F)) = .d ∧
       s.resolve (.strand 0) 0 0 0 { r := true } 8 (BitVec.ofNat 64 (2 ^ 38 + 8 * 0x3F)) 8 =
         (s, .ok [seg .dram (2 ^ 28 + 8 * 0x3F) 8 (BitVec.ofNat 64 (2 ^ 38 + 8 * 0x3F))]) ∧
       s.pendingAt (.strand 0) .dram (2 ^ 28 + 8 * 0x3F) 8 true = false ∧ ofBytes (s.readAt .dram (2 ^ 28 + 8 * 0x3F) 8).2.1 = 0x100 ∧
       (s.readAt .dram (2 ^ 28 + 8 * 0x3F) 8).2.2 = []) ∧
    (world.setMgr 0x110 (2 ^ 38)).zoned (2 ^ 38) 16 = false ∧ word ((handled 4).readDram 0x6000 16).2.1 0 % 8 ≠ 0 ∧ inTrap.me.sys.priv = true := by
  decide +kernel
/-! Witnesses of the engine events. -/

/-- Strand 0 in base with the commands cs, its core's array held by it. -/
def holding (cs : List Cmd) (h : Option Nat) : State := (withCmds vecs cs).modCore 0 (fun c => { c with holder := h, gated := false })
def running (c : Cmd) : Cmd := { c with st := .running }
def tokened : Cmd := aCmd 9 3 (.twait hTk1 3)
/-- A product of four blocks from q0, done of them taken. -/
def product' (done : Nat) : Cmd := { running (aCmd 9 1 (.mma h0 .f32 false 0 32 32)) with done := done }
def portMx (mx : Bool) : Port :=
  { Port.reset with captured := true, claims := [(9, 4)], nextNo := 1, prog := { Prog.reset with cnt := Vector.replicate 5 2 },
                    buf := [{ blk := { bits := 7, poison := 0 }, scales := 0, spoison := 0, mx := mx, mxOnly := mx, pos := (0, 0), mine := true }] }
def feeding (done : Nat) (mx : Bool) : State :=
  let s := holding [product' done] (some 0)
  s.setMe { s.me with e := { s.me.e with ports := vSet s.me.e.ports 0 (portMx mx) } }
def goes (s : State) (g : Go) : Bool := match g with | .ok u => !(s.setStrand 0 u).flipDue 0 | _ => false
/-- Strand 1, of a second kernel of higher priority, has a product to send. -/
def rivalled (s : State) : State :=
  let s := { s with d := { s.d with kernels := s.d.kernels ++ [{ theKernel with id := 2, prio := 40, pcap := 63 }] } }
  s.modStrand 1 (fun t => { t with phase := .running, kernel := 2, e := { t.e with cmds := [product' 0] } })
/-- A load of the array waits on a port whose block has scales. -/
def loading : Cmd := { running (aCmd 9 1 (.mload h0 0 32 false 0)) with done := 0 }
def stops (g : Go) : Option TrapRec := match g with | .fault r => some r | _ => none

theorem witness_EngineEvents_start :
    (let s := withCmds (tokens 1) [tokened]
     s.me.engines = true ∧ s.me.nextToStart 3 = some tokened ∧ s.me.hasTk tokened.tkw = true ∧ s.mayStart 0 tokened = true ∧
       counted tokened.op = false ∧ tokened.tkw ≠ 0 ∧ tokened.tkw < 16) ∧
    (let c := { product' 0 with st := .waiting }
     let s := rivalled (holding [c] (some 0))
     s.me.engines = true ∧ s.me.nextToStart 1 = some c ∧ s.me.hasTk c.tkw = true ∧ s.mayStart 0 c = true ∧ counted c.op = true ∧
       (s.core 0).holder = some 0 ∧ s.flipDue 0 = true) ∧
    (∀ e ∈ [aCmd 9 1 (.lease h0 7), aCmd 9 1 (.unlease h0), aCmd 9 1 (.mzero h0 3 2)], let c := running e
      let s := holding [c] none
      s.me.cmd c.id = some c ∧ c.st = .running ∧ s.me.runs c = true ∧ (s.core 0).gated = false) ∧
    (let c := running { tokened with engine := 3 }
     let s := holding [c] none
     s.me.cmd c.id = some c ∧ 3 ≤ c.engine ∧ c.engine ≤ 10 ∧ s.me.engines = true ∧ s.me.isHead c = true ∧ s.me.roomTk c.tks = true) ∧
    (let c := { tokened with st := .ending }
     (withCmds (tokens 15) [c]).me.cmd c.id = some c ∧ (withCmds (tokens 15) [c]).me.roomTk c.tks = true ∧ c.tks ≠ 0 ∧ c.tks < 16) := by
  decide +kernel

theorem witness_EngineEvents_product :
    ∀ d ∈ [0, 3], let s := feeding d false
      let c := product' d
      s.me.cmd c.id = some c ∧ s.me.runs c = true ∧ counted c.op = true ∧ c.done < c.blocks ∧ (s.core 0).holder = some 0 ∧
        (s.core 0).gated = false ∧ s.flipDue 0 = false ∧ goes s (s.me.goProduct c) = true ∧ (c.done + 1 < c.blocks ↔ d = 0) ∧ (rivalled s).flipDue 0 = true := by
  decide +kernel
/-- A load of the array is to take the block of q0. -/
def loadStop : State := let s := feeding 0 true; s.setMe { s.me with e := { s.me.e with cmds := [loading] } }
/-- A block with a scale plane stands where a product wants one without. -/
theorem witness_EngineEvents_stop :
    (loadStop.me.cmd 9 = some loading ∧ loadStop.me.runs loading = true ∧ counted loading.op = false ∧
      (stops (loadStop.me.goArray loading)).map (fun r => r.cause) = some 0x20) ∧
    (feeding 0 true).me.cmd 9 = some (product' 0) ∧ (feeding 0 true).me.runs (product' 0) = true ∧
      (stops ((feeding 0 true).me.goArray (product' 0))).map (fun r => r.cause) = some 0x20 := by
  decide +kernel

/-- Strand 0, or both strands, with a product to send; the array free. -/
def asking (a b : Bool) : State :=
  let s := holding (if a then [product' 0] else []) none
  if b then s.modStrand 1 (fun t => { t with phase := .running, e := { t.e with cmds := [product' 0] } }) else s
theorem witness_EngineEvents_grant :
    ∀ x ∈ [(true, false), (false, true), (true, true)], let s := asking x.1 x.2
      (s.core 0).gated = false ∧ (s.core 0).holder = none ∧ s.requests 0 = x.1 ∧ s.requests 1 = x.2 := by
  decide +kernel

def copyCmd (op : Instr) (d a n : Word) (done : Nat) : Cmd :=
  { running (aCmd 9 2 op) with ops := #v[d, a, n, 0], done := done }
def spanOk (r : State × Checked) (s : State) (gs : List Seg) : Bool := r.1 == s && (match r.2 with | some (xs, none) => xs == gs | _ => false)
/-- A source has read bytes of 0 in segments. -/
def gotZeros (src : Src) (gs : List Seg) (s : State) : State :=
  { s with gathers := (cutAll 4096 gs).map (fun g =>
      { id := 0, src := src, sp := g.sp, pa := g.pa, len := g.len, need := 0, raw := [], bad := [] }) }
def plainCopy : Cmd := copyCmd (.copy h0 1 2 3 false false .none 0) (spad + 0x1000) (spad + 0x40) 256 0
/-- A copy of 256 bytes within the scratchpad has read its source. -/
def copied : State := gotZeros (.copy 0 9) [seg .chip 0x40 256 (spad + 0x40)] (withCmds base [plainCopy])
def sourceOk (x : Source) (s : State) : Bool := match x with | .ok u bs l => u == s && bs == List.replicate 256 (0, false) && l.isEmpty | _ => false

theorem witness_EngineEvents_copy :
    (∀ op ∈ [Instr.copy h0 1 2 3 false false .none 0, .copyt h0 1 2 3 4 false true true .none 0], let c := copyCmd op 5 6 7 4
      (withCmds base [c]).me.cmd c.id = some c ∧ (withCmds base [c]).me.copyRuns c = true ∧ c.done < c.whole) ∧
    (min 256 (plainCopy.whole - plainCopy.done) = 256 ∧
      sourceOk (State.segSource 0 9 (copied.engineSpan (.copy 0 9) 0 { r := true } 1 (spad + 0x40) 256)) copied = true ∧
      spanOk (copied.engineSpan (.copy 0 9) 0 { w := true } 1 (spad + 0x1000) 256) copied [seg .chip 0x1000 256 (spad + 0x1000)] = true ∧
      (copied.engineWrite (.copy 0 9) 0 9 (whole ((List.replicate 256 (0, false)).map (fun b : Byte × Bool => b.1)))
        [seg .chip 0x1000 256 (spad + 0x1000)]).isSome = true) := by
  decide +kernel

/-- A copy that has sent its bytes completes to ring 31 of two slots, at a stage of its end. -/
def ringCopy (fin : Nat) : Cmd :=
  { copyCmd (.copy h0 1 2 3 false false .ring 31) (spad + 0x1000) (spad + 0x40) 100 100 with fin := fin }
def ringing (fin : Nat) : State := withCmds (ringAt 2 0 0 0 1) [ringCopy fin]
theorem witness_EngineEvents_ring :
    (∀ f ∈ [0, 2], (ringing f).me.cmd 9 = some (ringCopy f) ∧ (ringCopy f).whole ≤ (ringCopy f).done ∧ (ringing f).stored (.copy 0 9) = true ∧
      (ringing f).me.engines = true) ∧
    (let s := ringing 0
     let g := (tget (s.core 0).rings 31).getD Ring.reset
     (s.kernel s.me.kernel).map (fun k => k.ringmask.getLsbD 31) = some true ∧ g.ns ≠ 0 ∧ g.full = false ∧
       spanOk (s.engineSpan (.copy 0 9) 0 { w := true } 1 (BitVec.ofNat 64 (0xFF00000000000000 + g.slot g.t)) 8) s
         [seg .chip 0x110 8 (spad + 0x110)] = true ∧
       (s.engineWrite (.copy 0 9) 0 9 (whole (toBytes 8 0)) [seg .chip 0x110 8 (spad + 0x110)]).isSome = true) := by
  decide +kernel

def nmFault (r : BitVec 8) : NmFault := { reason := r, pc := 3, word := 0x1800, depth := 1, loops := 0, detail := 0, va := 0x1000 }
def launched : NLaunch := { nl with fromCmd := some (0, 9) }
theorem witness_EngineEvents_fault :
    (∀ r ∈ [2, 5, 6], let s := (withCmds base [aCmd 9 11 (.nlaunch h0 1 2 3 false)]).modNmu 127 (fun m => { m with faults := [(launched, nmFault r)] })
      (s.me.cmd 9).isSome = true ∧ 127 < numNmus ∧ (s.nmus.map (fun e => e.1)) = [127] ∧ (s.nmu 127).faults = [(launched, nmFault r)] ∧
        launched.fromCmd = some (0, 9)) ∧
    (let f : EFault := { id := 9, cause := 0x19, tva := 0, tpos0 := 0, tpos1 := 0, ttag := 0, eos := none }
     let s := base.setMe { base.me with e := { base.me.e with faults := [f] } }
     s.nmus = [] ∧ s.me.phase = .running ∧ s.me.sys.priv = false ∧ s.me.dlHit = false ∧ s.me.entering = false ∧
       firstFault s.me.e.faults = some f) := by
  decide +kernel

/-- The port q's stream is at its start, with the buffer bs. -/
def flowing (q : Nat) (bs : List PBlock) (rew : Option (Word × Word)) : State :=
  let p := { Port.reset with captured := true, buf := bs, rew := rew, lay := { Layout.reset with base := spad, fmt := 20, xf := 3, dfmt := 3 },
                             prog := { Prog.reset with cnt := Vector.replicate 5 2 } }
  base.setMe { base.me with e := { base.me.e with ports := vSet base.me.e.ports q p } }
def someBlock : PBlock := { blk := { bits := 7, poison := 0 }, scales := 0, spoison := 0, mx := false, mxOnly := false, pos := (0, 0), mine := true }
/-- The rows of a port's block pass their checks, as segments. -/
def rowsOf (s : State) (q : Nat) (p : Perm) : State × Checked :=
  let x := vAt s.me.e.ports q
  s.engineRows (.port 0 q) 0 p x.lay (x.lay.origin (indices x.nextNo x.prog.counts)) (List.range 16)
def rowSegsOf (s : State) (q : Nat) (p : Perm) : List Seg := match (rowsOf s q p).2 with | some (gs, _) => gs | none => []
/-- q0 has read its block. -/
def rowsRead : State := let s := flowing 0 [] none; gotZeros (.port 0 0) (rowSegsOf s 0 { r := true }) s
def blockRead : Bool :=
  let r := rowsOf rowsRead 0 { r := true }
  r.1 == rowsRead && (match r.2 with
    | some (gs, none) => gs.length == 16 && (match (rowsRead.engineRead (.port 0 0) 0 0 (gs, none)).2 with | some (.ok _) => true | _ => false)
    | _ => false)
/-- The block pushed to q6 is to be sent; it is on its way; it has been written. -/
def sending (sent away : Bool) : State :=
  let s := flowing 6 [someBlock] none
  let s := s.setMe (s.me.setPort 6 { vAt s.me.e.ports 6 with sent := sent })
  if away then netOf s [{ mkReq (.port 0 6) (.store [0] [0]) (seg .chip 0x40 1 0) 0 0 with id := 7 }] else s
def blockGoes : Bool :=
  let s := sending false false
  let r := rowsOf s 6 { w := true }
  let p := vAt s.me.e.ports 6
  r.1 == s && (match r.2 with
    | some (gs, none) => s.forkOk 0 p.fork && s.places (.port 0 6) + (cutAll 16 gs).length ≤ 4096
    | _ => false)
theorem countLines_le (o : Option (Src × Nat × Nat × Nat × Bool × Space × Nat)) (rs : List Req) : countLines o rs ≤ rs.length := by
  induction rs generalizing o with
  | nil => simp [countLines]
  | cons r rs ih =>
    simp only [countLines, List.length_cons]
    have h1 := ih o; have h2 := ih (some r.part)
    split
    · omega
    · split <;> omega
/-- An engine's stores find places where their pieces of 16 bytes would. -/
theorem engineWrite_some {s : State} {src : Src} {n fork : Nat} {gs : List Seg} (bs : List OutByte)
    (h : (s.forkOk n fork && s.places src + (cutAll 16 gs).length ≤ 4096) = true) : (s.engineWrite src n fork bs gs).isSome = true := by
  simp only [Bool.and_eq_true, decide_eq_true_eq] at h
  have hl := countLines_le none (storeReqs src (s.strand n).sys.asid (s.fresh + 1) bs gs)
  have hm : (storeReqs src (s.strand n).sys.asid (s.fresh + 1) bs gs).length ≤ (cutAll 16 gs).length := by
    simpa only [storeReqs, List.length_map] using
      List.length_filterMap_le _ ((cutAll 16 gs).map (fun c => (c, (bs.drop c.off).take c.len)))
  simp [State.engineWrite, State.putSegs, State.room, h.1]
  exact .inr (by omega)

theorem witness_EngineEvents_port :
    (∀ q ∈ [0, 5], let s := flowing q [] none
      let p := vAt s.me.e.ports q
      s.me.engines = true ∧ s.me.portLive q = true ∧ p.captured = true ∧ p.spent q = false ∧ p.fault = none ∧ p.rew = none ∧ p.buf.length < 4 ∧
        p.lay.xf ≠ 1) ∧
    (∀ q ∈ [6, 7], let s := flowing q [someBlock] none
      let p := vAt s.me.e.ports q
      s.me.engines = true ∧ s.me.portLive q = true ∧ p.captured = true ∧ p.fault = none ∧ p.buf = [someBlock] ∧ p.sent = false) ∧
    ((vAt (sending true true).me.e.ports 6).sent = true ∧ (sending true true).stored (.port 0 6) = false ∧
      (vAt (sending true false).me.e.ports 6).sent = true ∧ (sending true false).stored (.port 0 6) = true) ∧
    (let s := flowing 0 [] (some (0x8000000000000000, 0))
     (vAt s.me.e.ports 0).rew = some (0x8000000000000000, 0) ∧ s.me.claimsRest 0 = true ∧ inbound 0 = true) ∧
    (let s := flowing 7 [] (some (0x8000000000000000, 0))
     (vAt s.me.e.ports 7).rew = some (0x8000000000000000, 0) ∧ s.me.claimsRest 7 = true ∧ s.me.pushes 7 = 0 ∧ (vAt s.me.e.ports 7).buf = []) := by
  decide +kernel
theorem witness_EngineEvents_block : blockRead = true ∧ blockGoes = true := by decide +kernel

/-! Witnesses of the events of strands, power states and arbiters. -/

def aRunning : Cmd := { aCmd 9 1 (.mma h0 .f32 false 0 32 32) with st := .running }
def stepping : State := base.setMe { base.me with stepDue := some 4 }
def sleeping (st : BankSt) (wake : Option Nat) : State :=
  let b : VBank := { st := st, wake := wake, idleFrom := 0, struck := [] }
  let r := { base.me.r with live := 0, banks := vSet base.me.r.banks 7 b }
  base.setMe { base.me with clock := 600, sys := { base.me.sys with idle := 300 }, r := r }


theorem witness_StrandEvents :
    (let f := { flightTo (.v 31) (.v { bits := 5, poison := 0 } (BitVec.allOnes 1024)) with fixed := false }
     let s := sleeping .full none
     let s := s.setMe { s.me with flights := [f] }
     s.me.flights.find? (fun x => x.tag == f.tag) = some f ∧ f.need = 0 ∧ f.form = .ready ∧ f.fixed = false ∧ f.due ≤ s.me.clock ∧
       s.me.bankFull 31 = true ∧ s.me.heldBack f = false) ∧
    (let s := base.setMe { base.me with entering := true }
     s.me.phase = .running ∧ s.me.entering = true) ∧
    (let s := base.setMe { base.me with dlHit := true }
     s.me.phase = .running ∧ s.me.entering = false ∧ s.me.dlHit = true) ∧
    (stepping.me.phase = .running ∧ stepping.me.entering = false ∧ stepping.me.dlHit = false ∧ stepping.me.sys.priv = false ∧
      stepping.me.e.faults = [] ∧ stepping.me.stepDue = some 4 ∧ stepping.me.sys.dbg.getLsbD 1 = false) ∧
    (let s := waits 0
     s.me.wfeFrom = some 0 ∧ s.me.phase = .running ∧ 0 ≤ s.me.clock ∧ s.me.wfeOut = false) := by
  decide +kernel

/-- The strands' clocks stand at 600; core 0's array is gated with a product to send, its wake complete at a tick; bank 31 wakes. -/
def ticking (s : State) : State := (s.modStrand 0 (fun t => { t with clock := 600 })).modStrand 1 (fun t => { t with clock := 600 })
def gatedAt (w : Option (Nat × Nat)) : State :=
  (ticking (withCmds base [aRunning])).modCore 0 (fun x => { x with gated := true, gateWake := w })
def wakingAt (st : BankSt) (k : Nat) : State :=
  (ticking base).modCore 0 (fun c => c.setBank 31 { fullBank with st := st, waking := some (k, k) })
theorem witness_PowerEvents :
    ((base.core 0).gated = false ∧ (base.strand 0).onArray = false ∧ (base.strand 1).onArray = false) ∧
    (let s := gatedAt none
     (s.core 0).gated = true ∧ (s.core 0).gateWake = none ∧ (s.strand 0).onArray = true) ∧
    (∀ k ∈ [600, 610], let s := gatedAt (some (k, k))
      (s.core 0).gated = true ∧ (s.core 0).gateWake = some (k, k) ∧ s.ticksOver 0 32 (k, k) = (k == 600)) ∧
    (let s := sleeping .full none
     let b := vAt s.me.r.banks 7
     s.me.phase = .running ∧ b.st = .full ∧ s.me.sys.idle ≠ 0 ∧ s.me.r.live = 0 ∧ s.me.flights = [] ∧ s.me.e.cmds = [] ∧
       b.idleFrom + 2 * s.me.sys.idle.toNat = s.me.clock) ∧
    (∀ st ∈ [BankSt.off, .ret], let b := vAt (sleeping st (some 600)).me.r.banks 7
      b.wake = some 600 ∧ 600 ≤ (sleeping st (some 600)).me.clock ∧ (st = .off ∨ b.struck = [])) ∧
    (∀ st ∈ [BankSt.off, .ret], ∀ k ∈ [590, 610], let s := wakingAt st k
      ((s.core 0).bank 31).waking = some (k, k) ∧ ((s.core 0).bank 31).drops = [] ∧ ((s.core 0).bank 31).st = st ∧
        s.ticksOver 0 (if st = .off then 96 else 24) (k, k) = (k == 590)) ∧
    ((vAt (sleeping .full none).me.r.banks 7).st = .full ∧ (vAt (sleeping .ret none).me.r.banks 7).st = .ret ∧
      (3, 511) ∉ (vAt (sleeping .ret none).me.r.banks 7).struck ∧ target 0x3FFFFF = .sp 0 0x3FFFFF ∧
      ((base.core 0).bank (bankOf 0x3FFFFF)).st = .full) ∧
    base.m.flips = [] := by
  decide +kernel

/-- Device memory's line at 64 KiB more than 2 GiB, far into the one zone. -/
def dramSeg (len : Nat) : Seg := seg .dram 0x80010000 len (2 ^ 38)
def onWay (r : Req) (acc : Option Nat) : Req := { r with id := 5, accept := acc }
def dStore : Req := mkReq (.strand 0) (.store [1, 2] [0, 0]) (dramSeg 2) 0 0
def dLoad : Req := mkReq (.strand 0) (.load 0) (dramSeg 8) 0 1
def dNear : Req := mkReq (.nmu 0) (.load 0) (dramSeg 8) 0 0
def queuedFor (rs : List Req) : State := { world with net := rs, fresh := 500 }
/-- 128 loads of other lines of the same pseudo-channel stand in its queue. -/
def crowded (r : Req) : State :=
  queuedFor ((List.range 128).map (fun i => { mkReq (.strand 1) (.load 0) (seg .dram (0x80010000 + 2 ^ 21 * (i + 1)) 8 0) 0 0 with
    id := 10 + i, accept := some i }) ++ [r])

def atArbiter (s : State) (r : Req) : Bool := s.req r.id == some r && r.sp == .dram && !r.op.isOrder && (s.place r.pa).isSome
def entering (s : State) (r : Req) (full : Bool) : Bool := atArbiter s r && r.accept.isNone && !r.away && s.queueFull r == full
theorem witness_ArbiterEvents_accept :
    (let r := onWay dStore none
     entering (queuedFor [r]) r false = true ∧ r.early = true ∧ (queuedFor [r]).inTurn r = true ∧ (queuedFor [r]).lineWrites r = false) ∧
    (let r := onWay dLoad none
     entering (queuedFor [r]) r false = true ∧ r.early = false ∧ (queuedFor [r]).mayEnter r = true) ∧
    (∀ n ∈ [1, 2],
      (let r := { onWay dLoad none with id := 200, refusals := n }
       entering (crowded r) r true = true ∧ (crowded r).mayEnter r = true) ∧
      (let r := { onWay dStore none with id := 200, refusals := n }
       entering (crowded r) r true = true ∧ (crowded r).inTurn r = true ∧ (crowded r).lineWrites r = false)) := by
  decide +kernel
theorem witness_ArbiterEvents_serve :
    (let r := onWay dLoad (some 3)
     let s := queuedFor [r]
     atArbiter s r = true ∧ r.accept ≠ none ∧ s.ripe r = true ∧ s.candidate 32 r = true ∧ s.chosen 32 r = true ∧ s.eligible r = true ∧
       (s.place r.pa).map (fun p => p.bank) = some 32) ∧
    (let r := onWay dLoad (some 3)
     let s := queuedFor [r, { dStore with id := 6 }]
     atArbiter s r = true ∧ s.ripe r = true ∧ s.pressed 32 r = true) ∧
    (let r := onWay dLoad (some 3)
     let s0 := queuedFor [r, { dNear with id := 4, accept := some 2 }]
     let s := { s0 with m := { s0.m with own := [(32, .near)] } }
     tget s.m.own 32 = some .near ∧ ∃ e ∈ s.bankQueue 32, s.isMain e = true ∧ s.eligible e = true) :=
  ⟨by decide +kernel, by decide +kernel, by decide +kernel, onWay dLoad (some 3), by decide +kernel⟩
def hostReq (sp : Space) (pa : Nat) : Req := { mkReq (.strand 0) (.load 0) (seg sp pa 8 0) 0 1 with id := 5 }
theorem witness_ArbiterEvents_outside :
    (let r := hostReq .host 0x40
     (queuedFor [r]).due 5 = some r ∧ r.merged = []) ∧
    (let r := hostReq .peer (3 * 2 ^ 40)
     let s := (queuedFor [r]).setMgr 0x118 0x7000
     let s := { s with ports := 0x3FFFF, dram := writeBytes s.dram 0x7030 (toBytes 8 (2 ^ 63 + 2 ^ 49)) }
     s.due 5 = some r ∧ s.peerOk (bits r.pa 51 40) = true) := by
  decide +kernel
/-! Witnesses of the events of ranges and barriers. -/

def entry (r : RangeRec) : RtEntry := { asid := 0, r := r, idx := 0, kept := [], dead := none }
/-- A compactor waits for a walk; it is asked of the host or not, answered or not, late or not. -/
def walkOf (asked : Bool) (ans : Option (BitVec 32)) (late : Bool) : Walk :=
  { id := 9, party := 277, asid := 0, va := BitVec.ofNat 64 (2 ^ 38 + 2 ^ 18 - 1), waiting := [.other 277], asked := asked, ans := ans, late := late }
def walkSrc : Src := .walker 277 10
def walking (s : State) (w : Walk) : State := { s with walks := [w] }
/-- The directory's flags. -/
def flagged (s : State) (f : Nat) : State := { s with dram := writeBytes s.dram 0x1010 (toBytes 8 f) }
/-- The walk has read the directory and its first n records. -/
def walkRead (n : Nat) (s : State) (w : Walk) : State := heard walkSrc (dirSpans n) (walking s w)
def dirIs (r : State × Except (Option (BitVec 7)) DirEntry) (s : State) (e : DirEntry) : Bool :=
  r.1 == s && match r.2 with | .ok x => x == e | .error _ => false
def failsBy {α : Type} (e : Except (Option (BitVec 7)) α) (c : Option (BitVec 7)) : Bool := match e with | .ok _ => false | .error x => x == c
def recIs (r : State × Except (Option (BitVec 7)) RangeRec) (s : State) (x : RangeRec) : Bool :=
  r.1 == s && match r.2 with | .ok y => y == x | .error _ => false
/-- A full table of the walking party. -/
def crammed : State := world.setRtab 277 (List.replicate 16 (entry range0))

theorem witness_RangeEvents_walk :
    (walkOf true none false).asked = true ∧ (walkOf true none true).ans = none ∧ (walkOf false (some 0) false).ans ≠ none ∧
    (let w := walkOf false none false
     (walking world w).walks.find? (fun (x : Walk) => x.id == w.id) = some w ∧ failsBy ((walking world w).dirEntry walkSrc 0).2 none = true ∧
       failsBy ((walkRead 0 (flagged world 0) w).dirEntry walkSrc 0).2 (some 0x10) = true ∧
       dirIs ((walkRead 0 world w).dirEntry walkSrc 0) (walkRead 0 world w) (dir0 4 1) = true ∧
       walkErr ((walkRead 0 world w).walk walkSrc 0 (2 ^ 38 + 2 ^ 18 - 1)) none = true ∧
       walkErr ((walkRead 1 (worldOf [range1] 4 true) w).walk walkSrc 0 (2 ^ 38 + 2 ^ 18 - 1)) (some 0x10) = true ∧
       walkOk ((walkRead 1 world w).walk walkSrc 0 (2 ^ 38 + 2 ^ 18 - 1)) (walkRead 1 world w) (dir0 4 1) range0 0 = true ∧
       ((walkRead 1 world w).fillEntry 277 0 0 0 range0).isSome = true ∧ (crammed.fillEntry 277 16 0 0 range0).isNone = true ∧
       dirIs ((walkRead 0 (flagged world 1) w).dirEntry walkSrc 0) (walkRead 0 (flagged world 1) w) { dir0 4 1 with hwalk := false } = true) ∧
    (let w := walkOf true (some 0) false
     failsBy ((walkRead 0 world w).acceptRec walkSrc (dir0 4 1) 0 (2 ^ 38)).2 none = true ∧
       failsBy ((walkRead 1 world w).acceptRec walkSrc (dir0 4 1) 0 (2 ^ 39)).2 (some 0x10) = true ∧
       recIs ((walkRead 1 world w).acceptRec walkSrc (dir0 4 1) 0 (2 ^ 38)) (walkRead 1 world w) range0 = true) := by
  decide +kernel

def shootOf (got : List Party) : Shoot := { id := 3, asid := 0, span := none, strand := none, todo := [0, 277], got := got }
theorem witness_RangeEvents_shootdown :
    ∀ g ∈ [[], [0, 277]], let s : State := { world with shoots := [shootOf g] }
      s.shoots.find? (fun (x : Shoot) => x.id == 3) = some (shootOf g) ∧ 277 ∈ (shootOf g).todo ∧ (277 ∈ (shootOf g).got ↔ g ≠ []) ∧
        s.rtab 277 = [] := by
  decide +kernel

/-- A fill of the range's first granule; begun, with done bytes sent, its map bit on its way or not. -/
def fillOf' (begun : Option Nat) (done : Nat) (set : Bool) : Fill :=
  { id := 9, die := 0, asid := 0, gva := 2 ^ 38, waiting := [.strand 0], rgfill := [], hostAsked := false, begun := begun, done := done, set := set }
def fillSrc : Src := .fill 0 9
/-- The range r is in the fill engine's table; its descriptor 0 stands at 0x8000: 4 MiB of zeros from the range's start, with a deadline of 5. -/
def filling (r : RangeRec) (f : Fill) (w1 : Nat) : State :=
  let s := { worldOf [r] 4 true with fills := [f] }.setRtab 274 [entry r]
  let s := { s with dram := writeBytes s.dram 0x8000 (toBytes 8 0 ++ toBytes 8 w1 ++ toBytes 8 (2 ^ 48 + 2 ^ 22) ++ toBytes 8 5) }
  heard fillSrc [(0x1000, 32), (0x8000, 32)] (s.setMgr 0x1000 0x106)
def backed : RangeRec := { range0 with partialRes := true, bidx := 0 }
def rangeIs (x : State × Except (Option (BitVec 7)) RtEntry) (s : State) (e : RtEntry) : Bool :=
  x.1 == s && match x.2 with | .ok y => y == e | .error _ => false
/-- The words of the descriptor have been read. -/
def described (s : State) (f : Fill) (r : RangeRec) : Bool :=
  (s.descriptor f r).1 == s && match (s.descriptor f r).2 with | .ok bs => bs.length == 32 && bits (word bs 3) 15 0 == 5 | .error _ => false
def backing' (s : State) (f : Fill) (r : RangeRec) : State × Got :=
  match (s.descriptor f r).2 with | .ok bs => s.backing fillSrc 274 bs (2 ^ 38) 4096 | .error _ => (s, .wait)
def backedBy (s : State) (f : Fill) (r : RangeRec) : Bool :=
  (backing' s f r).1 == s && match (backing' s f r).2 with | .data bs false => bs == List.replicate 4096 0 | _ => false
/-- Stores find places where their pieces of 16 bytes would. -/
theorem putSegs_some {s : State} {src : Src} {gs : List Seg} (asid : BitVec 16) (bs : List OutByte)
    (h : (src.owner.isNone || s.places src + (cutAll 16 gs).length ≤ 4096) = true) : (s.putSegs src asid bs gs).isSome = true := by
  have hl := countLines_le none (storeReqs src asid (s.fresh + 1) bs gs)
  have hm : (storeReqs src asid (s.fresh + 1) bs gs).length ≤ (cutAll 16 gs).length := by
    simpa only [storeReqs, List.length_map] using
      List.length_filterMap_le _ ((cutAll 16 gs).map (fun c => (c, (bs.drop c.off).take c.len)))
  simp only [Bool.or_eq_true, decide_eq_true_eq] at h
  have h' : (src.owner.isNone || decide (s.places src + countLines none (storeReqs src asid (s.fresh + 1) bs gs) ≤ 4096)) = true := by
    rcases h with h | h
    · simp [h]
    · simp only [Bool.or_eq_true, decide_eq_true_eq]; exact .inr (by omega)
  simp [State.putSegs, State.room, h']

theorem witness_RangeEvents_fill :
    (let f := fillOf' none 0 false
     let s := filling backed f (2 ^ 38)
     s.fills.find? (fun x => x.id == f.id) = some f ∧ f.hostAsked = false ∧ s.fillRuns f = true ∧ rangeIs (s.fillRange f) s (entry backed) = true ∧
       failsBy ((s.setRtab 274 []).fillRange f).2 none = true ∧
       failsBy (({ s with denials := [(fillSrc, 0, 2 ^ 38, 0x10)] }.setRtab 274 []).fillRange f).2 (some 0x10) = true ∧
       rangeIs ((filling range0 f 0).fillRange f) (filling range0 f 0) (entry range0) = true) ∧
    (∀ x ∈ [(0, false), (2 ^ 18, false), (2 ^ 18, true)], let f := fillOf' (some 1) x.1 x.2
      let s := filling backed f (2 ^ 38)
      rangeIs (s.fillRange f) s (entry backed) = true ∧ (f.done < min (2 ^ 21) (backed.base + backed.size - f.gva) ↔ x.1 = 0) ∧
        s.stored fillSrc = true ∧ (netOf s [{ mkReq fillSrc (.store [0] [0]) (seg .dram 0x40 1 0) 0 0 with id := 7 }]).stored fillSrc = false) := by
  decide +kernel
theorem witness_RangeEvents_backing :
    (let f := fillOf' (some 1) 0 false
     let s := filling backed f (2 ^ 38)
     described s f backed = true ∧ backedBy s f backed = true ∧ min 4096 (2 ^ 18 - f.done) = 4096 ∧ wbit (s.mgr 0x1000) 8 = true ∧
       (let g : Seg := seg .dram (translated (2 ^ 38) (s.offsetAt backed (2 ^ 38))) 4096 (BitVec.ofNat 64 (2 ^ 38))
        s.refused 274 0 0 true [g] = none ∧ (fillSrc.owner.isNone || s.places fillSrc + (cutAll 16 [g]).length ≤ 4096) = true)) ∧
    (let f := fillOf' (some 1) 0 false
     described (filling backed f 1) f backed = true ∧ (backing' (filling backed f 1) f backed).2 = .none) := by
  decide +kernel

/-- A request of w0, w1, w2 and w3 stands in the queue of compactor 0, and it has read it and the directory; its table holds the first record;
zone 0's spare pool is at 0xA000, its pool at 2^30. -/
def requested (rs : List RangeRec) (cap w0 w1 w2 w3 : Nat) : State :=
  let s := flagged (worldOf rs cap true) 11
  let s := { s with dram := writeBytes s.dram 0x9000 (toBytes 8 w0 ++ toBytes 8 w1 ++ toBytes 8 w2 ++ toBytes 8 w3) }
  let s := { s with dram := writeBytes s.dram 0xA000 (toBytes 8 (2 ^ 63 + 2 ^ 30) ++ toBytes 8 100) }
  let s := (s.setMgr (cqReg 0 0) 0x9000).setMgr (cqReg 0 2) 1
  heard (compactor 0) ((0x9000, 32) :: (0xA000, 16) :: dirSpans rs.length)
    (((s.setMgr 0x130 0xA000).setMgr 0x1000 0x206).setRtab 276 (rs.take 1 |>.map entry))
def requestOf (w0 w1 w2 w3 : Nat) : List Byte := toBytes 8 w0 ++ toBytes 8 w1 ++ toBytes 8 w2 ++ toBytes 8 w3
def headIs (s : State) (bs : List Byte) : Bool := (s.moveHead 0).1 == s && (s.moveHead 0).2 == some bs && (tget s.moves 0).isNone
def moveDir (cap count : Nat) : DirEntry := { dir0 cap count with hcomp := true }
def checkOk (x : State × Except (Option (Nat × Nat)) (DirEntry × RangeRec × Nat)) (s : State) (e : DirEntry) (r : RangeRec) : Bool :=
  x.1 == s && match x.2 with | .ok y => y == (e, r, 0) | .error _ => false
def checkFails (x : State × Except (Option (Nat × Nat)) (DirEntry × RangeRec × Nat)) (y : Nat × Nat) : Bool :=
  match x.2 with | .ok _ => false | .error e => e == some y
def offBy (x : Nat) : Nat := (2 ^ 64 - 2 ^ 38 + 2 ^ 28 + x) % 2 ^ 64
/-- Moves up and down by the range's own size, which may be; one to a place that is no multiple of 64 KiB; one of a range that is moving. -/
theorem witness_RangeEvents_moveRequest :
    (∀ x ∈ [2 ^ 18, 2 ^ 64 - 2 ^ 18], let bs := requestOf 0 (2 ^ 38) (offBy x) 0x7008
      let s := requested [range0] 4 0 (2 ^ 38) (offBy x) 0x7008
      let new := translated range0.base (BitVec.ofNat 64 (word bs 2))
      let old := translated range0.base range0.offset
      headIs s bs = true ∧ bits (word bs 0) 63 62 ≠ 1 ∧ checkOk (s.moveCheck 0 bs true) s (moveDir 4 1) range0 = true ∧
        (s.retiredList (compactor 0)).1 = s ∧ (s.retiredList (compactor 0)).2 = some [] ∧
        old / 2 ^ 52 = 0 ∧ s.placeOk [] 0 new range0.size = true ∧ word bs 2 % 2 ^ 16 = 0 ∧ (new + range0.size ≤ old ∨ old + range0.size ≤ new) ∧
        s.moveGranted 0 old new range0.size = true ∧ s.mayEdit (compactor 0) 0 (moveDir 4 1) 0 = true) ∧
    (let bs := requestOf 0 (2 ^ 38) 1 0x7008
     let s := requested [range0] 4 0 (2 ^ 38) 1 0x7008
     headIs s bs = true ∧ checkOk (s.moveCheck 0 bs true) s (moveDir 4 1) range0 = true ∧ word bs 2 % 2 ^ 16 ≠ 0) ∧
    (let bs := requestOf 0 (2 ^ 38) 0 0x7008
     let s := requested [movingRec] 4 0 (2 ^ 38) 0 0x7008
     headIs s bs = true ∧ checkFails (s.moveCheck 0 bs true) (4, 0) = true) := by
  decide +kernel

def spareIs (x : State × Except Unit (Option (Nat × Nat × List Byte))) (s : State) (y : Nat × Nat × List Byte) : Bool :=
  x.1 == s && match x.2 with | .ok z => z == some y | .error _ => false
def spliceDone (x : Edited) : Bool := match x with | .done _ => true | _ => false
/-- The retirement of the range's second granule: it is held, there is room for three parts, and the pool gives the granule at 2^30. -/
theorem witness_RangeEvents_retire :
    (let pa := 2 ^ 28 + 2 ^ 16 + 5
     let bs := requestOf (2 ^ 62) (2 ^ 38) pa 0x7008
     let s := requested [range0] 4 (2 ^ 62) (2 ^ 38) pa 0x7008
     let old := translated range0.base range0.offset
     headIs s bs = true ∧ bits (word bs 0) 63 62 = 1 ∧ checkOk (s.moveCheck 0 bs false) s (moveDir 4 1) range0 = true ∧
       old / 2 ^ 52 = 0 ∧ old ≤ 2 ^ 28 + 2 ^ 16 ∧ 2 ^ 28 + 2 ^ 16 < old + range0.size ∧ (s.retiredList (compactor 0)).2 = some [] ∧
       spareIs (s.spare (compactor 0) 0 1) s (2 ^ 30, 0xA008, toBytes 8 (100 + 2 ^ 32)) = true ∧ s.intact (compactor 0) = true ∧
       s.settledLines 0xA008 8 = true ∧ s.placeOk [] 0 (2 ^ 30) (2 ^ 16) = true ∧ old + 2 ^ 17 ≤ 2 ^ 30 ∧
       s.moveGranted 0 (old + 2 ^ 16) (2 ^ 30) (2 ^ 16) = true ∧
       spliceDone (s.splice (compactor 0) 0 (moveDir 4 1) 0 1
         ([range0.part 0 (2 ^ 16)] ++ [{ range0.part (2 ^ 16) (2 ^ 17) with moving := true, mdie := 0 }] ++ [range0.part (2 ^ 17) range0.size])) = true) ∧
    (let bs := requestOf (2 ^ 62) (2 ^ 38) 0 0x7008
     let s := requested [range0] 4 (2 ^ 62) (2 ^ 38) 0 0x7008
     checkOk (s.moveCheck 0 bs false) s (moveDir 4 1) range0 = true ∧ ¬ translated range0.base range0.offset ≤ 0) ∧
    (let pa := 2 ^ 28 + 2 ^ 16 + 5
     let bs := requestOf (2 ^ 62) (2 ^ 38) pa 0x7008
     let s := requested [range0] 1 (2 ^ 62) (2 ^ 38) pa 0x7008
     checkOk (s.moveCheck 0 bs false) s (moveDir 1 1) range0 = true ∧ (moveDir 1 1).cap < (moveDir 1 1).count + 3 - 1) ∧
    (let bs := requestOf (2 ^ 62) (2 ^ 56) 0 0x7008
     checkFails ((requested [range0] 4 (2 ^ 62) (2 ^ 56) 0 0x7008).moveCheck 0 bs false) (1, 0) = true) := by
  decide +kernel

def aMove (m stage : Nat) : Move' :=
  { retire := false, asid := 0, base := 2 ^ 38, oldOff := range0.offset, newOff := BitVec.ofNat 64 (offBy (2 ^ 20)), granule := 0, compl := 0x7008,
    stage := stage, m := m, shoot := 3, gen := 0 }
def compacting (r : RangeRec) (m stage : Nat) : State :=
  let s := { flagged (worldOf [r] 4 true) 11 with moves := [(0, aMove m stage)] }
  heard (.walker 276 0) [(0x9000, 1)] (heard (compactor 0) (dirSpans 1) (s.setRtab 276 [entry r]))
def moveIs (x : State × Except Unit (Option (DirEntry × RangeRec × Nat))) (s : State) (y : Option (DirEntry × RangeRec × Nat)) : Bool :=
  x.1 == s && match x.2 with | .ok z => z == y | .error _ => false
def bitIs (x : State × Except (Option (BitVec 7)) Bool) (s : State) (b : Bool) : Bool := x.1 == s && match x.2 with | .ok y => y == b | .error _ => false
def movingPart : RangeRec := { movingRec with partialRes := true, map := 0x9000 }
/-- The map's byte at 0x9000 is m. -/
def mapByte (m : Byte) : State :=
  let s := compacting movingPart 0 1
  { s with gathers := s.gathers.map (fun x => if x.pa == 0x9000 then { x with raw := [(0, m)] } else x) }
theorem witness_RangeEvents_move :
    (∀ m ∈ [0, 3, 4], let s := compacting movingRec m 1
      s.moveAt 0 = some (aMove m 1) ∧ moveIs (s.moveRec 0 (aMove m 1)) s (some (moveDir 4 1, movingRec, 0)) = true ∧
        (m < movingRec.length ∨ movingRec.length ≤ m) ∧ s.fills = [] ∧ s.mayEdit (compactor 0) 0 (moveDir 4 1) 0 = true) ∧
    movingRec.length = 4 ∧ movingRec.partialRes = false ∧
    moveIs ((compacting range0 0 1).moveRec 0 (aMove 0 1)) (compacting range0 0 1) none = true ∧
    (∀ b, let s := if b then mapByte 1 else compacting movingPart 0 1
      moveIs (s.moveRec 0 (aMove 0 1)) s (some (moveDir 4 1, movingPart, 0)) = true ∧ bitIs (s.mapBit 276 movingPart 0) s b = true) ∧
    (compacting movingRec 4 3).moveAt 0 = some (aMove 4 3) := by
  decide +kernel

def bmsg (flip : Bool) (pkg : BitVec 16) (core : Nat) (ph : BitVec 16) : BMsg :=
  { flip := flip, pkg := pkg, core := core, bar := 127, fromCore := 4, fromBar := 5, ph := ph }
theorem witness_BarrierEvents :
    (∀ m ∈ [bmsg false 0xFFFF 0 0xFFFF, bmsg false 0xFFFF 0 0, bmsg false 3 0 0, bmsg true 0xFFFF 0 5, bmsg true 0xFFFF 1000 5],
      ({ base with bmsgs := [m] } : State).bmsgs[0]? = some m) ∧
    (let b := ((barAt 2 1 0xFFFF 0).core 0).bar 127
     b.c ≠ 0 ∧ ((0xFFFF : BitVec 16) - b.ph).toNat ≤ b.a.toNat ∧ ((0 : BitVec 16) - b.ph).toNat ≤ b.a.toNat ∧
       ((0 : BitVec 16) - b.ph).toNat < 2 ^ 15 ∧ b.a.toNat < ((1 : BitVec 16) - b.ph).toNat ∧ ((1 : BitVec 16) - b.ph).toNat < 2 ^ 15 ∧
       2 ^ 15 ≤ ((0x7FFF : BitVec 16) - b.ph).toNat) ∧ ((base.core 0).bar 127).c = 0 :=
  ⟨fun _ _ => rfl, by decide +kernel, by decide +kernel⟩

/-! Witnesses of the events of the dispatcher. -/

/-- Queue 0 of the dispatcher, of four slots, its counts past 2^16, with n slots held; the slot at the consumer count holds a record of type
typ, of some strands, with its code of 8 bytes at the range's start. The dispatcher has read the descriptor, and the slot. -/
def queueOf (cfg n typ strands : Nat) : State :=
  let s := withQueue { world with d := State.reset.d } cfg (2 ^ 16 + 6 + n) (2 ^ 16 + 6)
  { s with dram := writeBytes s.dram 0x20080 (toBytes 8 (typ + 5 * 2 ^ 8 + 6 * 2 ^ 16 + strands * 2 ^ 32 + 2 ^ 57) ++
      toBytes 8 (2 ^ 38) ++ toBytes 8 8) }
def queued (cfg n typ strands : Nat) : State := heard (takeSrc 0) [(0x3000, 32), (0x20080, 64)] (queueOf cfg n typ strands)
def descOk (s : State) (cfg n : Nat) : Bool :=
  let r := s.queueDesc (takeSrc 0) dispatcher 0
  r.1 == s && s.dramOk dispatcher true (s.queueAt 0) && (match r.2 with
    | .data bs false => word bs 0 == 0x20000 && word bs 1 == cfg && (bits (word bs 2) 31 0 + 2 ^ 32 - bits (word bs 2) 63 32) % 2 ^ 32 == n &&
        bits (word bs 2) 63 32 == 2 ^ 16 + 6
    | _ => false)
def slotOk (s : State) (typ : Nat) : Bool :=
  let r := s.readZoned (takeSrc 0) 0x20080 64
  r.1 == s && s.dramOk dispatcher false 0x20080 && (match r.2 with
    | .data w false => bits (word w 0) 31 16 == 6 && bits (word w 0) 63 57 == 1 && bits (word w 0) 3 0 == typ
    | _ => false)
def slotBad (s : State) : Bool := match (s.readZoned (takeSrc 0) 0x20080 64).2 with | .data _ b => b | _ => false
def theCfg : Nat := 2 + 2 ^ 10
/-- What the checks of the record come to: 0 well formed, 99 a wait, or an error code. -/
def admits (s : State) : Nat :=
  match (s.readZoned (takeSrc 0) 0x20080 64).2 with
  | .data w _ => (match s.admission 0 (BitVec.ofNat 32 (2 ^ 16 + 6)) theCfg w with | .ok _ _ => 0 | .fail _ c => c | .wait _ => 99)
  | _ => 100
def ungranted (s : State) : State := { s with acl := [] }
def crowdedTable (s : State) : State := { s with d := { s.d with kernels := List.replicate 4096 { theKernel with stage := 0 } } }

theorem witness_KernelEvents_take :
    ((queueOf theCfg 1 1 0).queueDesc (takeSrc 0) dispatcher 0).2 = .wait ∧
    descOk (queued theCfg 0 1 0) theCfg 0 = true ∧ descOk (queued (theCfg + 2 ^ 5) 1 1 0) (theCfg + 2 ^ 5) 1 = true ∧
    descOk (queued 2 1 1 0) 2 1 = true ∧ bit 2 10 = false ∧ descOk (queued theCfg 5 1 0) theCfg 5 = true ∧ 2 ^ bits theCfg 4 0 = 4 ∧
    (∀ t ∈ [0, 1], descOk (queued theCfg 1 t 0) theCfg 1 = true ∧ slotOk (queued theCfg 1 t 0) t = true) ∧
    (queued theCfg 1 1 0).heldCount = 0 ∧ 4096 ≤ (crowdedTable (queued theCfg 1 1 0)).heldCount ∧
    (queued theCfg 1 1 0).dramOk dispatcher false 0x20080 = true ∧ (ungranted (queued theCfg 1 1 0)).dramOk dispatcher false 0x20080 = false := by
  decide +kernel
theorem witness_KernelEvents_admission :
    ((heard (takeSrc 0) [(0x3000, 32)] (queueOf theCfg 1 1 0)).readZoned (takeSrc 0) 0x20080 64).2 = .wait ∧
    slotBad (spoilt (queued theCfg 1 1 0)) = true ∧ (7 : Nat) ≠ (2 ^ 16 + 6) % 2 ^ 16 ∧ admits (queued theCfg 1 1 1) = 0 ∧
    admits (queued theCfg 1 1 300) = 2 ∧ admits (queued theCfg 1 2 0) = 99 := by
  decide +kernel

/-- A kernel of one strand. -/
def aKernel (stage : Nat) : Kernel :=
  { loadedKernel with stage := stage, rows := 1, codeBase := BitVec.ofNat 64 (2 ^ 38), codeLen := 16, placed := [], die := 1, weight := 1, prio := 5, pcap := 47 }
def holdsK (k : Kernel) : State :=
  { world with strands := [], d := { State.reset.d with kernels := [k] } }.setRtab dispatcher [entry range0]
def condIs (g : Disp Bool) : Option Bool := match g with | .ok _ b => some b | _ => none
def condFails (g : Disp Bool) : Bool := match g with | .fail _ _ => true | _ => false
def condWaits (g : Disp Bool) : Bool := match g with | .wait _ => true | _ => false
theorem witness_KernelEvents_ready :
    ((holdsK (aKernel 0)).kernel 1 = some (aKernel 0) ∧ condIs (allCond (aKernel 0).conds (holdsK (aKernel 0))) = some true) ∧
    (let k := { aKernel 0 with sems := [(BitVec.ofNat 64 (2 ^ 38), 1)] }
     (holdsK k).kernel 1 = some k ∧ condIs (allCond k.conds (holdsK k)) = some false) ∧
    (let k := { aKernel 0 with inputs := [(BitVec.ofNat 64 (2 ^ 38), 0)] }
     (holdsK k).kernel 1 = some k ∧ condFails (allCond k.conds (holdsK k)) = true) ∧
    (let k := { aKernel 0 with inputs := [(BitVec.ofNat 64 (2 ^ 39), 8)] }
     (holdsK k).kernel 1 = some k ∧ condWaits (allCond k.conds (holdsK k)) = true) ∧
    (let k := { aKernel 1 with sbound := 1, age := 3 }
     (holdsK k).kernel 1 = some k ∧ k.stage < 2 ∧ k.sbound ≠ 0 ∧ k.age < 4) := by
  decide +kernel

def nextIs (s : State) (k : Kernel) : Bool := ((s.nextRecord k.eff).map (fun x => x.1)) == some k
/-- Every slot of die 1 belongs to a kernel of lower priority. -/
def occupied : State :=
  let k := { aKernel 3 with id := 2, prio := 1, placed := (List.range 144).map (fun i => 144 + i) }
  let s := holdsK (aKernel 1)
  { s with d := { s.d with kernels := [aKernel 1, k] },
           strands := (List.range 144).map (fun i => (144 + i, { Strand.reset with phase := .running, kernel := 2 })) }
theorem witness_KernelEvents_place :
    (let k := aKernel 1
     let s := holdsK k
     s.kernel 1 = some k ∧ s.waits k = true ∧ k.isSaved = false ∧ s.isTop k = true ∧
       (∀ x ∈ s.d.kernels, x.stage = 2 → x.id ≠ k.id → x.eff = k.eff → s.placeable x [] = false) ∧ nextIs s k = true ∧
       isK k.typ = true ∧ 1 % k.unit = 0 ∧ k.gang = false ∧ k.taken + 1 ≤ k.strands ∧ s.fits k [] 287 = true ∧ k.shapeFits [287] = true) ∧
    (let k := { aKernel 2 with strands := 2, placed := [286] }
     (holdsK k).waits k = true ∧ (holdsK k).isTop k = true ∧ k.shapeFits [287] = true ∧ k.taken + 1 ≤ k.strands) ∧
    (let k := { aKernel 1 with typ := 2, nmus := [127], strands := 0 }
     let s := holdsK k
     s.waits k = true ∧ s.isTop k = true ∧ nextIs s k = true ∧ isK k.typ = false) := by
  decide +kernel
theorem witness_KernelEvents_preempt :
    occupied.waits (aKernel 1) = true ∧ occupied.isTop (aKernel 1) = true ∧ occupied.placeable (aKernel 1) [] = false ∧
      (occupied.preempt (aKernel 1) (fun freed => occupied.placeable (aKernel 1) freed)).isSome = true := by
  decide +kernel

/-- Strand 287 of a kernel is placed; the row of its core is not there, or is reserved. -/
def rowless (rows : List Row) : State :=
  ((holdsK { aKernel 3 with placed := [287] }).modStrand 287 (fun t => { t with phase := .placed, kernel := 1 })).modCore 143 (fun c =>
    { c with rows := rows })
def reservedRow : Row := { kernel := 1, n := 0, code := [], last := 0, fault := [(0, 16, 0, BitVec.ofNat 64 (2 ^ 38))] }
theorem witness_KernelEvents_rows :
    (rowless []).rowFor 287 0 = some { aKernel 3 with placed := [287] } ∧ 287 < numStrands ∧
    ((((rowless []).core 143).rowsOf 1).find? (fun r => r.n == 0)) = none ∧
    ((rowless []).rowRoom 143 { aKernel 3 with placed := [287] } 0 ((0 - (2 ^ 38)) / 4096)).isSome = true ∧
    (rowless [reservedRow]).rowFor 287 0 = some { aKernel 3 with placed := [287] } ∧
    ((((rowless [reservedRow]).core 143).rowsOf 1).find? (fun r => r.n == 0)) = some reservedRow ∧
    reservedRow.fault.find? (fun f => f.2.2.1 == 0) = some (0, 16, 0, BitVec.ofNat 64 (2 ^ 38)) := by
  decide +kernel

def placedAt (k : Kernel) (ph : Phase) : State :=
  (holdsK k).modStrand 0 (fun t => { t with phase := ph, kernel := 1, rank := 0 })
def ownRow : Row := { kernel := 1, n := 0, code := [], last := 0, fault := [] }
theorem witness_KernelEvents_ends :
    (∀ g, let k := { aKernel 3 with placed := [0], args := List.replicate 8 7, gang := g }
     let s := (placedAt k .placed).modCore 0 (fun c => { c with rows := [ownRow] })
     s.kernel 1 = some k ∧ s.me.kernel = 1 ∧ s.me.phase = .placed ∧ (∀ m ∈ 0 :: k.placed, s.rowsIn k (coreOf m) = true)) ∧
    (let k := { aKernel 3 with placed := [0] }
     let s := placedAt k .halted
     s.kernel 1 = some k ∧ s.me.phase = .halted ∧ s.me.flights = [] ∧ s.me.e.cmds = [] ∧ s.me.e.faults = [] ∧
       (((s.endRun 0).quit 0).modStrand 0 (fun t => t.ends)).kernel 1 = some k) ∧
    (let k := { aKernel 3 with placed := [0], ended := [0] }
     (holdsK k).kernel 1 = some k ∧ k.taken = k.strands ∧ k.ended.length = k.placed.length ∧ (holdsK k).pending k = false ∧
       (holdsK k).accepted k = false) := by
  decide +kernel

def leavingK (e : Evict) : Kernel := { aKernel 3 with placed := [0], evict := e }
def leaving' : State := placedAt (leavingK .forced) (.evicting false false)
theorem witness_KernelEvents_evict :
    (let k := leavingK .requested
     let s := placedAt k .running
     s.kernel 1 = some k ∧ k.placed.filter (fun m => (s.strand m).kernel == 1) = [0] ∧ s.me.entering = false ∧ s.me.stepDue = none) ∧
    (let s := leaving'.setMe { leaving'.me with e := { leaving'.me.e with cmds := [aCmd 9 1 (.lease h0 7)] } }
     s.kernel 1 = some (leavingK .forced) ∧ (leavingK .forced).leftSlots.find? (fun n => (s.strand n).mustSettle) = some 0) ∧
    (let s := leaving'.modCore 0 (fun c => { c with holder := some 0 })
     (leavingK .forced).leftSlots = [0] ∧ s.me.mustSettle = false ∧ s.me.leaving = true ∧ s.me.rests = true ∧ (s.core 0).holder = some (0 % 2)) ∧
    (leaving'.me.mustSettle = false ∧ leaving'.me.leaving = true ∧ leaving'.me.rests = true ∧ (leaving'.core 0).holder = none ∧
      leaving'.awaited 0 = false ∧ (leavingK .forced).cores = [0] ∧ leaving'.accepted (leavingK .forced) = false ∧
      (leavingK .forced).spmask = 0 ∧ leaving'.bmsgs = [] ∧ (leavingK .forced).src.owner = none ∧
      leaving'.saveSpace (leaving'.images (leavingK .forced)).length = some 0x100000 ∧
      leaving'.dispSpan true 0x100000 (leaving'.images (leavingK .forced)).length = true) := by
  decide +kernel
/-- The image of a saved kernel has been read; it is on its way; it holds poison. -/
def saved : Kernel := leavingK (.saved 0x100000 64)
def resuming : State := heard saved.src [(0x100000, 64)] (holdsK saved)
def imageRead (s : State) : Option (Bool × Bool) :=
  let r := s.getSegs saved.src 0 [{ sp := .dram, pa := 0x100000, len := 64, va := 0, off := 0 }]
  r.2.map (fun bs => (r.1 == s, bs.any (fun b => b.2)))
theorem witness_KernelEvents_resume :
    resuming.kernel 1 = some saved ∧ saved.hostEnd = false ∧ resuming.isTop saved = true ∧
    (∀ m ∈ saved.leftSlots, (resuming.strand m).phase = .idle) ∧ (∀ c ∈ saved.cores, resuming.compatible saved [] c = true) ∧
    resuming.dispSpan false 0x100000 64 = true ∧ imageRead (holdsK saved) = none ∧ imageRead resuming = some (true, false) ∧
    imageRead (spoilt resuming) = some (true, true) := by
  decide +kernel

/-! Witnesses of the events of the host, the peers and the device. -/

def open4 : State := { world with acl := (hostPort, grants) :: world.acl }
def askOf (kind tag : Nat) (a b : Word) (sent : Bool) : Ask := { kind := kind, a := a, b := b, tag := tag, sent := sent, bar := 0 }
/-- A request to the host is open, and a fill of its granule that the host is to make. -/
def hosted (a : Ask) : State := { world with asks := [a], fills := [{ fillOf' none 0 false with hostAsked := true }] }
/-- A zone table in which zone 0 is one linear GiB, but for its last word. -/
def zonesStaged (w0 : Word) : State := { State.reset with t := { State.reset.t with staged := tput [] 0x5000 w0 } }
/-- Registers whose writer and value are legal, and others whose are not; the last word of a table that is legal, and of one that is not. -/
theorem witness_HostEvents_registers :
    (∀ x ∈ [(MgMaster.host, 0x100, 0x40), (.host, 0x1000, 6), (.monitor, 0x5100, 1), (.monitor, 0x10000, 1)],
      x.1 ≠ .service ∧ x.2.1 ≠ 0x160 ∧ inArray x.2.1 0x6000 8 128 = false ∧ inZones x.2.1 = false ∧ x.2.1 < 0x100000 ∧
        State.reset.mgTakes x.1 x.2.1 x.2.2 = true) ∧
    (∀ x ∈ [(MgMaster.host, 0x100, 0x41), (.host, 0x5100, 1), (.monitor, 0x1000, 6)],
      inArray x.2.1 0x6000 8 128 = false ∧ inZones x.2.1 = false ∧ State.reset.mgTakes x.1 x.2.1 x.2.2 = false) ∧
    (inZones 0x50F8 = true ∧ inZones 0x5000 = true ∧ State.reset.t.booted = false ∧
      (State.reset.putZones (tput (zonesStaged 0).t.staged 0x50F8 0)).zonesOk = true ∧
      (State.reset.putZones (tput (zonesStaged 0x1FFFFFFFFFFFFFFF).t.staged 0x50F8 0)).zonesOk = false ∧
      ({ State.reset with t := { State.reset.t with booted := true } } : State).t.booted = true) ∧
    wbit ((base.setMgr 0x1000 4).mgr 0x1000) 1 = false ∧ ((unit []).nmu 0).run.isSome = true := by
  decide +kernel

theorem witness_HostEvents_answers :
    (hosted (askOf 1 9 0 5 true)).openAsk 1 (9 + 2 ^ 48) = some (askOf 1 9 0 5 true) ∧
    (let a := askOf 2 9 0 (BitVec.ofNat 64 (2 ^ 38)) true
     (hosted a).openAsk 2 9 = some a ∧ (hosted a).fills.find? (fun (f : Fill) =>
       f.hostAsked && f.asid.setWidth 64 == a.a && f.gva == a.b.toNat) = some { fillOf' none 0 false with hostAsked := true }) ∧
    (hosted (askOf 4 9 0 5 true)).openAsk 4 9 = some (askOf 4 9 0 5 true) ∧ (hosted (askOf 1 8 0 5 true)).openAsk 1 9 = none := by
  decide +kernel

def stopped : State := base.setMe { base.me with phase := .hostStop }
theorem witness_HostEvents_strands :
    stopped.me.phase = .hostStop ∧ (∀ r ∈ [0x002, 0x005, 0x032], r < 64 ∧ sysThere r = true ∧ r ≠ 0x009 ∧ stopped.me.sysBad r 0 = false) ∧
    (∀ e ∈ [Evict.none, .saved 0x100000 64], let s := placedAt (leavingK e) .running
     s.kernel 1 = some (leavingK e) ∧ isK (leavingK e).typ = true ∧ 2 ≤ (leavingK e).stage ∧ (leavingK e).hostEnd = false ∧
       (leavingK e).isSaved = (e != .none) ∧ (leavingK e).leftSlots = [0] ∧ s.me.kernel = 1 ∧ s.me.phase ≠ .idle) := by
  decide +kernel

/-- The last line of a read of the host port, and of a peer's, is to come. -/
def lastLine (src : Src) : Gather := { id := 4, src := src, sp := .dram, pa := 0x40, len := 128, need := 1, raw := [(0, 7)], bad := [] }
theorem witness_HostEvents_memory :
    (0 % 4096 + 4096 ≤ 4096 ∧ (outSegs 0 4096).all (fun g => open4.dramOk hostPort false g.pa) = true ∧
      (outSegs 0 4096).all (fun g => world.dramOk hostPort false g.pa) = false) ∧
    (∀ src ∈ [hostSrc, linkSrc 17], let s := { open4 with gathers := [lastLine src] }
      lastLine src ∈ s.gathers ∧ (∀ y ∈ s.gathers, y.id = 4 → y = lastLine src) ∧ (lastLine src).need = 1) := by
  decide +kernel

/-- A request of kind 5 has not been sent; the ring of 2 messages in host memory holds one. -/
def ringDue : State := ((((hosted (askOf 5 9 0 5 false)).setMgr 0x140 0x10000).setMgr 0x148 1).setMgr 0x150 0).setMgr 0x158 0xFFFFFFFFFFFFFFFF
def hostGrants : State := { ringDue with acl := (278, grants) :: ringDue.acl }
theorem witness_HostEvents_ring :
    hostGrants.nextAsk = some (askOf 5 9 0 5 false) ∧ hostGrants.t.recovery = false ∧ (hostGrants.mgr 0x150 - hostGrants.mgr 0x158).toNat < 2 ∧
      hostGrants.hostOk 278 true 0x10000 32 = true := by
  decide +kernel

theorem witness_PeerEvents :
    world.ports.getLsbD 17 = true ∧ (∀ r ∈ world.net, r.sp = .peer → r.op.isOrder = true) ∧ world.waiters = [] ∧
    (∀ x ∈ [(9, AtomOp.cas, 16), (0, .add, 4), (10, .fadd32, 4), (11, .fadd64, 8)],
      atomNo x.1 = some x.2.1 ∧ ((x.2.2 = 4 ∧ x.2.1 ≠ .fadd64) ∨ (x.2.2 = 8 ∧ x.2.1 ≠ .fadd32) ∨ (x.2.2 = 16 ∧ x.2.1 = .cas))) := by
  decide +kernel

theorem witness_DeviceEvents :
    ({ State.reset with t := { State.reset.t with starting := true } } : State).t.starting = true ∧ State.reset.t.tripped = none ∧
      ({ State.reset with t := { State.reset.t with tripped := some 3 } } : State).t.tripped = some 3 := by
  decide +kernel

/-! Witnesses of the obligations about the whole machine. -/

def goesOn (o : Host.Outcome State Fault Refusal) : Bool := match o with | .next _ => true | _ => false

/-- `(p0) add g5, g6, g7`, `(p1) nop` and `eret`, each the first instruction after reset. -/
def first (w : Nat) : State := State.reset.withFetchWord 64 w
def firstWord (w : Nat) : State := State.reset.withFetchWord 16 w
theorem witness_StepKeepsMemoryForm : State.reset.memOk ∧ (first 0).memOk ∧ goesOn (step (first 0x0020298E00000000)) = true := by
  refine ⟨⟨by decide, by decide, by decide, by decide⟩, ⟨by decide +kernel, by decide +kernel, by decide +kernel, by decide +kernel⟩, ?_⟩
  decide +kernel

theorem witness_DecodeEncodeAgree :
    WellFormed (.add g0 ⟨31, 31, .imm 0xFFFFFFFF⟩) = true ∧ (encodeSyllable true (.add g0 ⟨31, 31, .imm 0xFFFFFFFF⟩)).isSome = true ∧
    guardOf (.halt g0) ≠ none ∧ decodeTableWord 64 0x0020298E00000000 = some (.add g0 ⟨5, 6, .reg 7⟩) ∧
    WellFormed (.litx 3 true 0xFFFFFFFFFFFFFFFF) = true ∧ encodeNm (.litx 3 true 0xFFFFFFFFFFFFFFFF) ≠ [] := by
  decide +kernel

def decodeErr (w : Word) : Option DecodeError := match decodeSyllable w with | .ok _ => none | .error e => some e
/-- The fetch of the strand the next move names, after what comes before a strand cycle. -/
def fetchOf (s : State) : Fetched := (prelude 0 (nextMove s).2).fetch 0
def fetchOk (f : Fetched) (ws : List Word) : Bool := match f with | .ok xs => xs == ws | _ => false
def fetchMiss (f : Fetched) : Option Nat := match f with | .miss r => some r | _ => none
def fetchFault (f : Fetched) : Option (BitVec 8) := match f with | .fault c _ => some c | _ => none
/-- What a strand cycle asks for before it issues. -/
def calmB (s : State) : Bool :=
  let u := prelude 0 (nextMove s).2
  s.t.tripped.isNone && (nextMove s).2.t.tripped.isNone && (nextMove s).1 == .strand 0 && ((nextMove s).2.strand 0).phase == .running &&
    !u.me.entering && (boundary u).isNone && u.me.readyAt ≤ u.me.clock
/-- The strand's pc is at the second row of its kernel, and past its end. -/
def pcAt (pc : Nat) : State := (first 0).setStrand 0 { (first 0).strand 0 with pc := BitVec.ofNat 64 pc }
def longKernel : State := { pcAt 4096 with d := { (first 0).d with kernels := [{ loadedKernel with codeLen := 8192 }] } }
/-- A row with two syllables: one bundle of `add` and `jmp`, in an order that the slots have or not. -/
def twoSyllables (a b : Nat) : State :=
  (first 0).modCore 0 (fun c => { c with rows := c.rows.map (fun r => { r with code := writeBytes [] 0 (toBytes 8 a ++ toBytes 8 b) }) })

theorem witness_StepRunsDecoded_strand :
    (calmB (first 0x0020298E00000000) = true ∧ fetchOk (fetchOf (first 0x0020298E00000000)) [0x8020298E00000000] = true ∧
      framed [0x8020298E00000000] = true ∧ conflicts (prelude 0 (first 0)).me [0x8020298E00000000] = false ∧
      decodeTableWord 64 0x8020298E00000000 = some (.add g0 ⟨5, 6, .reg 7⟩) ∧ needsPriv (.add g0 ⟨5, 6, .reg 7⟩) = false) ∧
    (calmB longKernel = true ∧ fetchMiss (fetchOf longKernel) = some 1) ∧
    (calmB (pcAt 4096) = true ∧ (fetchFault (fetchOf (pcAt 4096))).isSome = true) ∧
    (let s := twoSyllables 0x0020298E00000000 0x8020298E00000000
     calmB s = true ∧ fetchOk (fetchOf s) [0x0020298E00000000, 0x8020298E00000000] = true ∧
       framed [0x0020298E00000000, 0x8020298E00000000] = false) ∧
    (calmB (first 0) = true ∧ fetchOk (fetchOf (first 0)) [0x8000000000000000] = true ∧
      decodeErr 0x8000000000000000 = some .opcode ∧ decodeErr 0xA020012718000000 = some .operand) := by
  decide +kernel

def nextState (o : Host.Outcome State Fault Refusal) : State := match o with | .next u => u | _ => State.reset
/-- Of `add g5, g6, g7` and `nop` in one bundle, each can issue, and the second issues after the first. -/
def issuesTwo : Bool :=
  let i : Instr := .add g0 ⟨5, 6, .reg 7⟩
  let j : Instr := .nop g0
  let s0 := vecs.setMe { vecs.me with blen := 2, more := true, iss := .none }
  let u := nextState (exec i s0)
  let x := u.setMe { u.me with iss := .none }
  u.me.iss == .issued && (nextState (exec j s0)).me.iss == .issued &&
    (nextState (exec j (x.setMe { x.me with more := false, iss := .none }))).me.iss == .issued
theorem witness_StepRunsDecoded_rest :
    issuesTwo = true ∧ isWfe (.nop g0) = false ∧
    (let s := firstWord 0x7000
     s.t.tripped = none ∧ nextMove s = (.nmu 0, { s with sched := [] }) ∧ ((nextMove s).2.nmu 0).run.isSome = true ∧
       (decodeNm ((nextMove s).2.nmu 0).nextWords).map (fun x => x.1) = some .nmEnd) ∧
    (let s := { State.reset with sched := [.event .budgetInterval] }
     nextMove s = (.event .budgetInterval, State.reset) ∧ isEvent .budgetInterval = true ∧ State.reset.t.tripped = none) ∧
    ((first 0).kernel ((first 0).strand 0).kernel = some loadedKernel ∧ ((first 0).rowOf 0 0).isSome = true ∧
      ((first 0).rowOf 0 0).all (fun r => r.fault == []) = true ∧ loadedKernel.codeBase.toNat + loadedKernel.codeLen = 4096) := by
  decide +kernel

/-- A result for p1 is outstanding; p1 selects no lane; a privileged form in supervisor state. -/
def outstanding : State := base.setMe { base.me with bundle := 1, flights := [{ flightTo (.p 1) (.p { val := 1, poison := false } 1 false) with fixed := false }] }
theorem witness_GuardsDecide :
    guardOf (.add g1 ⟨5, 6, .reg 7⟩) = some g1 ∧ needsPriv (.add g1 ⟨5, 6, .reg 7⟩) = false ∧
    outstanding.me.busy [.p (outstanding.me.pp 1)] = true ∧ base.me.busy [.p (base.me.pp 1)] = false ∧ base.me.active g1 = false ∧
    guardOf (.eret g1) = some g1 ∧ (priv base).me.sys.priv = true ∧ (priv base).me.active g1 = false ∧
    (0x8001000000000000 : BitVec 64).extractLsb' 48 5 = 1 ∧ syllClass 0x8001000000000000 ≠ 2 ∧
    (0xC004000000000000 : BitVec 64).extractLsb' 50 5 = 1 ∧ syllClass 0xC004000000000000 = 2 := by
  decide +kernel

/-- A scalar, a vector and a storing form, each of which issues. -/
def issuesFrom (s : State) (i : Instr) : Bool := s.me.pend == [] && goesOn (exec i s) && (nextState (exec i s)).me.iss != .trapped
theorem witness_IssueFrames :
    issuesFrom base (.add g0 ⟨5, 6, .reg 7⟩) = true ∧ scalarDest base.me (.add g0 ⟨5, 6, .reg 7⟩) = some (.g 5) ∧
    issuesFrom vecs (.vmov g0 1 ⟨2, true⟩) = true ∧ vectorForm (.vmov g0 1 ⟨2, true⟩) = true ∧
    issuesFrom spads (.st g0 ⟨31, 1, .imm 0⟩ .d) = true ∧ storingForm (.st g0 ⟨31, 1, .imm 0⟩ .d) = true ∧ spads.m.flips = [] := by
  decide +kernel

/-! Single steps, their results from the spec's worked cases. -/

/-- The last result that the strand has sent: a scalar, or the low 32 bits of a vector. -/
def sent (o : Host.Outcome State Fault Refusal) : Option (Dst × Word) :=
  match (nextState o).me.flights.getLast? with
  | some f => some (f.dst, match f.val with
      | .s r => r.val
      | .p r _ _ => r.val.setWidth 64
      | .v b _ => BitVec.ofNat 64 (b.bits.toNat % 2 ^ 32))
  | none => none
/-- The cause of the trap that the strand has taken. -/
def cause (o : Host.Outcome State Fault Refusal) : Option (BitVec 8) :=
  let t := (nextState o).me
  if t.sys.priv then some (t.sys.tcause.setWidth 8) else none
def sh' (i : VAmt) (ty : Ty) : VShift := { ty := ty, vd := 3, va := ⟨1, false⟩, n := i }
def lanes : State := withV (withV (withV vecs 1 { bits := 0x807FF001, poison := 0 }) 2 { bits := 0x08010409, poison := 0 }) 3 { bits := 0, poison := 0 }

/-- A step from reset runs the placed syllable: pc past it, the result on its way. -/
theorem test_step_li : (nextState (step (first 0x0480080100000005))).me.pc = 8 := by decide +kernel

/-- The worked case of R81. -/
theorem test_winq : sent (execWinq g0 ⟨5, 6, .imm 8⟩ (setg base 6 0xFF000000003FFFFC)) = some (.g 5, 0x3FFFFC07) := by decide +kernel

/-- The worked cases of R115. -/
theorem test_vshl_i8 : sent (execVshl g0 (sh' (.vec ⟨2, false⟩) .i8) lanes) = some (.v 3, 0x00FE0000) := by decide +kernel
theorem test_vshr_i8 : sent (execVshr g0 (sh' (.vec ⟨2, false⟩) .i8) lanes) = some (.v 3, 0x003F0F00) := by decide +kernel
theorem test_vsra_i8 : sent (execVsra g0 (sh' (.vec ⟨2, false⟩) .i8) lanes) = some (.v 3, 0xFF3FFF00) := by decide +kernel

/-- The worked case of R55: a block to MXFP4. -/
theorem test_mx_quantise :
    let r := quantGroup .e2m1 .rne 1 (([0x40A00000, 0xBE800000, 0x40300000, 0x40E00000] ++ List.replicate 28 0).map (fun x => (x, true)))
    (r.1.take 5).map (fun x => x.1) = [6, 8, 5, 7, 0] ∧ r.2.1.1 = 0x7F ∧
      r.2.2 &&& (fOverflow ||| fInexact) = fOverflow ||| fInexact := by decide +kernel

/-- The worked case of R64: two draws from 1, and what they round 0x3F806000 to. -/
theorem test_stochastic :
    drawStep 1 = 0x80200003 ∧ drawStep 0x80200003 = 0xC0300002 ∧
    convert .bf16 .f32 .rsr false (drawBits 0x80200003) 0x3F806000 = (0x3F80, fInexact) ∧
    convert .bf16 .f32 .rsr false (drawBits 0xC0300002) 0x3F806000 = (0x3F81, fInexact) := by decide +kernel

/-- The worked case of R67: a group of eight products in one rounding. -/
theorem test_group : (groupFloat .f32 0x3F800000 (List.replicate 8 (Fmt.bf16.val 0x3980, Fmt.bf16.val 0x3900))).1 = 0x3F800002 := by decide +kernel

/-- The worked cases of R74. -/
theorem test_reduction :
    (let a := ([0x40420000, 0x3DC00000, 0xC03E0000, 0x3D000000].foldl (fun (a : Acc) x => a.contribute .f32 x false) (Acc.open (-6)))
     a.t = 12 ∧ (a.readout .f32).1.1 = 0x3E400000) ∧
    (let a := ([0x3D000000, 0xC03E0000, 0x3DC00000, 0x40420000].foldl (fun (a : Acc) x => a.contribute .f32 x false) (Acc.open (-4)))
     a.t = 2 ∧ (a.readout .f32).1.1 = 0x3E000000) := by decide +kernel

/-- The worked case of R129: the tree of a row's reduction, one element out of place or not. -/
def rowOf (xs : List (Nat × Nat)) : List Part := (List.range 32).map (fun i => some (((xs.find? (fun x => x.1 == i)).map (fun x => x.2)).getD 0))
theorem test_vredr :
    (reduceLine .f32 .add .rne false (rowOf [(0, 0x4B800000), (1, 0x3F800000), (2, 0x3F800000)])).1 = 0x4B800000 ∧
    (reduceLine .f32 .add .rne false (rowOf [(0, 0x4B800000), (2, 0x3F800000), (3, 0x3F800000)])).1 = 0x4B800001 := by
  decide +kernel

/-- Step 6 of the worked case of R209: slot 0 of ring0, of base 0x10000. -/
theorem test_rwaitf :
    sent (execRwaitf g0 ⟨5, 0⟩ (base.setRing 0 { base := 0x10000, ns := 4, sb := 64, h := 0, k := 0, r := 2, t := 2, pub := 0, rel := 0 })) =
      some (.g 5, 0xFF00000000010000) := by decide +kernel

/-- The worked case of R215: phase 7 of b4 goes on; phases 6, 3 and 0x8007. -/
def bar4 (x : Word) : State := setg (base.setBar 0 4 { c := 2, a := 0, ph := 7, parent := 0, counts := [], up := false, kids := [] }) 6 x
theorem test_bwait :
    sent (execBwait g0 .co 5 4 6 (bar4 7)) = none ∧ sent (execBwait g0 .co 5 4 6 (bar4 6)) = some (.g 5, 0) ∧
    sent (execBwait g0 .co 5 4 6 (bar4 3)) = some (.g 5, 3) ∧ sent (execBwait g0 .co 5 4 6 (bar4 0x8007)) = some (.g 5, 255) := by
  decide +kernel

/-- The worked case of R229: the banks that `node` leaves. -/
def noded : State := nextState (execNode g0 4 5 3 (setg (setg vecs 4 0xFF) 5 1))
theorem test_node :
    (List.range 8).filter (fun k => (vAt noded.me.r.banks k).st == .full) = [0, 1] ∧
    (List.range 32).filter (fun k => ((noded.core 0).bank k).st == .full) = [0] := by decide +kernel

/-- The worked case of R267: a control word. -/
theorem test_record :
    let k := mkKernel 0 12 5 0 (toBytes 8 0x0042000100051401 ++ List.replicate 56 0) { bytes := List.replicate 192 0, init := [] }
    (k.typ, k.prio, k.strands, k.rows, k.args.length, k.sems.length, k.inputs.length) = (1, 20, 1, 1, 2, 0, 1) := by decide +kernel

/-- The worked case of R286: the barriers on core 16, where the first of eight ranks stands. -/
theorem test_domains :
    let k : Kernel := { loadedKernel with shape := 0x2022, strands := 8, barmask := 0xFC000000000000000000000000000000 }
    let slots := [32, 33, 34, 35, 48, 49, 50, 51]
    (k.nodes slots 0).map (fun e => (e.1, e.2.c, e.2.parent)) =
      [(122, 2, 0), (123, 2, barDesc 16 122), (124, 2, barDesc 16 123), (125, 2, 0), (126, 2, barDesc 16 125), (127, 2, 0)] ∧
    [0, 1, 2, 3].map (fun l => k.domWord 5 24 l) = [0x800000020001187F, 0x800000010001187E, 0x800000000005187C, 0] ∧
    (k.nodes slots 6).map (fun e => (e.1, e.2.parent)) = [(124, barDesc 24 123), (126, barDesc 24 125), (127, 0)] := by decide +kernel

/-- The worked cases of R415: where addresses of a wide zone lie. -/
def wide : State := (State.reset.setMgr 0x5000 0x8000000000000000).setMgr 0x5008 0x0000007FC8000000
theorem test_zone :
    [0x1234567890, 0x1234567990, 0x1234587890].map (fun a =>
      (wide.place a).map (fun p => ([p.stack, p.ch, p.pch, p.nmu, p.l, p.bg, p.bk, p.row] : List Nat))) =
      [some [4, 27, 0, 77, 0x091A2B90, 3, 2, 0x2468], some [5, 27, 0, 93, 0x091A2B90, 3, 2, 0x2468],
       some [3, 27, 0, 61, 0x091A2C90, 2, 2, 0x2468]] := by
  decide +kernel

end Sys2Proof.Tests
end

section
/-! PROOFS. The guard of a syllable: p0 negated is illegal opcode in every class, and every form that has a guard issues in the one shape
of Ops, which looks at the guard before anything else but the privilege. -/

namespace Sys2Proof.Machine

/-! The guard of a decoded instruction is the one its word names (R19): one rule per operation the decoders are written with. -/

/-- The instruction a decoder answers, if any, carries guard g. -/
def Guarded (g : Guard) (x : Option Instr) : Prop := ∀ i, x = some i → guardOf i = some g

@[simp] theorem guarded_none {g : Guard} : Guarded g none := by simp [Guarded]

@[simp] theorem guarded_some {g : Guard} {i : Instr} : Guarded g (some i) ↔ guardOf i = some g := by simp [Guarded]

@[simp] theorem guarded_guardOpt {g : Guard} {i : Instr} {c : Bool} :
    Guarded g (guardOpt c i) ↔ (c = true → guardOf i = some g) := by
  cases c <;> simp [guardOpt]

@[simp] theorem guarded_bind {g : Guard} {α : Type} {x : Option α} {f : α → Option Instr} :
    Guarded g (x.bind f) ↔ ∀ a, x = some a → Guarded g (f a) := by
  cases x <;> simp

@[simp] theorem guarded_map {g : Guard} {α : Type} {x : Option α} {f : α → Instr} :
    Guarded g (x.map f) ↔ ∀ a, x = some a → guardOf (f a) = some g := by
  cases x <;> simp

@[simp] theorem guarded_ite {g : Guard} {c : Prop} [Decidable c] {x y : Option Instr} :
    Guarded g (if c then x else y) ↔ (c → Guarded g x) ∧ (¬c → Guarded g y) := by
  by_cases hc : c <;> simp [hc]

theorem guarded_sRaw (r : SRaw) : Guarded r.guard r.instr := by
  unfold SRaw.instr
  split <;> simp [guardOf]

theorem guarded_vRaw (r : VRaw) : Guarded r.guard r.instr := by
  unfold VRaw.instr
  split <;> simp [guardOf]

theorem guarded_mRaw (r : MRaw) : Guarded r.head.g r.instr := by
  unfold MRaw.instr
  split
  case h_21 =>  -- `wake`, whose unit is a further selector
    exact guarded_ite.2 ⟨fun _ => by split <;> simp [guardOf], by simp⟩
  all_goals simp [guardOf]

theorem guarded_xRaw (r : XRaw) : Guarded r.guard r.instr := by
  unfold XRaw.instr
  split
  case h_33 =>  -- the `redf` forms, told apart by a further selector
    exact guarded_ite.2 ⟨fun _ => by split <;> simp [guardOf], by simp⟩
  all_goals simp [guardOf]

/-- Outside the M class the guard stands in bits 52:48 (R21, R22, R25). -/
theorem guarded_rawInstr {w : Word} (hc : syllClass w ≠ 2) : Guarded ⟨w.extractLsb' 49 4, w.getLsbD 48⟩ (rawInstr w) := by
  unfold rawInstr
  split
  · exact guarded_sRaw (.ofWord w)
  · exact guarded_vRaw (.ofWord w)
  · contradiction
  · exact guarded_xRaw (.ofWord w)

/-- In the M class the guard stands in bits 54:50 (R24). -/
theorem guarded_rawInstr_m {w : Word} (hc : syllClass w = 2) : Guarded ⟨w.extractLsb' 51 4, w.getLsbD 50⟩ (rawInstr w) := by
  rw [rawInstr, hc]
  exact guarded_mRaw (.ofWord w)

/-! A guard of p0 with negate 1 is illegal opcode (R20). -/

/-- Every form that has a guard checks it. -/
theorem opcodeOk_of_guard_not_ok {i : Instr} {g : Guard} (h : guardOf i = some g) (hg : g.ok = false) : opcodeOk i = false := by
  unfold opcodeOk
  cases i <;> cases h
  all_goals simp only [hg, Bool.false_and]

/-- A guard field that holds 1 names p0 with negate 1. -/
theorem guard_not_ok_of_field_one {w : Word} {n : Nat} (h : w.extractLsb' n 5 = 1) :
    Guard.ok ⟨w.extractLsb' (n + 1) 4, w.getLsbD n⟩ = false := by
  have hp : w.extractLsb' (n + 1) 4 = (w.extractLsb' n 5).extractLsb' 1 4 := by
    ext k hk
    simp [show 1 + k < 5 by omega, Nat.add_assoc]
  have hn : w.getLsbD n = (w.extractLsb' n 5).getLsbD 0 := by simp
  rw [hp, hn, h]
  decide

theorem decodeSyllable_of_guard_not_ok {w : Word} {g : Guard} (h : Guarded g (rawInstr w)) (hg : g.ok = false) :
    decodeSyllable w = .error .opcode := by
  unfold decodeSyllable
  split
  · rfl
  · next i hi => simp [opcodeOk_of_guard_not_ok (h i hi) hg]

/-! Every guarded form issues in the one shape of Ops (R18, R19, R290): the families that share an operation, then each form by its family. -/

/-- The outcome is that of a syllable with guard g, privileged or not. -/
def IsSyllable (s : State) (p : Bool) (g : Guard) (o : Host.Outcome State Fault Refusal) : Prop :=
  ∃ ds k, o = syllable s p g ds k

section Families
variable {s : State} {g : Guard} {h : MHead}

theorem isSyllable_sBin {o lat f} : IsSyllable s false g (sBin s g o lat f) := ⟨_, _, rfl⟩
theorem isSyllable_sUn {gd ga lat f} : IsSyllable s false g (sUn s g gd ga lat f) := ⟨_, _, rfl⟩
theorem isSyllable_sDiv {o f} : IsSyllable s false g (sDiv s g o f) := ⟨_, _, rfl⟩
theorem isSyllable_pLogic {o f} : IsSyllable s false g (pLogic s g o f) := ⟨_, _, rfl⟩
theorem isSyllable_control {ds k} : IsSyllable s false g (control s g ds k) := ⟨_, _, rfl⟩
theorem isSyllable_fBin {o f} : IsSyllable s false g (fBin s g o f) := ⟨_, _, rfl⟩
theorem isSyllable_vForm {vd keep os ds f64 pg lat k} : IsSyllable s false g (vForm s g vd keep os ds f64 pg lat k) := ⟨_, _, rfl⟩
theorem isSyllable_vPred {pd os f64 k} : IsSyllable s false g (vPred s g pd os f64 k) := ⟨_, _, rfl⟩
theorem isSyllable_vArith {ty rnd sat vd os lat f k} : IsSyllable s false g (vArith s g ty rnd sat vd os lat f k) := isSyllable_vForm
theorem isSyllable_vAxis {vd va lat f} : IsSyllable s false g (vAxis s g vd va lat f) := isSyllable_vForm
theorem isSyllable_vLogic {vd os f} : IsSyllable s false g (vLogic s g vd os f) := isSyllable_vForm
theorem isSyllable_vInt {ty vd os f} : IsSyllable s false g (vInt s g ty vd os f) := isSyllable_vForm
theorem isSyllable_vSpecial {fn o} : IsSyllable s false g (vSpecial fn s g o) := isSyllable_vForm
theorem isSyllable_vLoadElems {vd va gb w f} : IsSyllable s false g (vLoadElems s g vd va gb w f) := ⟨_, _, rfl⟩
theorem isSyllable_guardedM {c ds k} : IsSyllable s false h.g (guardedM c s h ds k) := ⟨_, _, rfl⟩
theorem isSyllable_mSyllable {ds k} : IsSyllable s false h.g (mSyllable s h ds k) := isSyllable_guardedM
theorem isSyllable_product {i n} : IsSyllable s false h.g (product s h i n) := isSyllable_mSyllable
theorem isSyllable_ringForm {r ds k} : IsSyllable s false g (ringForm s g r ds k) := ⟨_, _, rfl⟩
theorem isSyllable_barForm {b ga ds k} : IsSyllable s false g (barForm s g b ga ds k) := ⟨_, _, rfl⟩
theorem isSyllable_atomicForm {op o gc} : IsSyllable s false g (atomicForm s g op o gc) := ⟨_, _, rfl⟩
theorem isSyllable_redfForm {gd ga wr op} : IsSyllable s false g (redfForm s g gd ga wr op) := ⟨_, _, rfl⟩
theorem isSyllable_editForm {o k} : IsSyllable s true g (editForm s g o k) := ⟨_, _, rfl⟩
theorem isSyllable_maskForm {gb k} : IsSyllable s false g (maskForm s g gb k) := ⟨_, _, rfl⟩

theorem isSyllable_redx {ga c} : IsSyllable s false g (execRedx g ga c s) := by
  unfold execRedx
  cases c <;> exact ⟨_, _, rfl⟩

end Families

/-- Each guarded form is of its family, or a syllable by its own definition. -/
theorem exec_isSyllable {i : Instr} {g : Guard} (s : State) (h : guardOf i = some g) :
    IsSyllable s (needsPriv i) g (exec i s) := by
  unfold exec
  cases i <;> cases h  -- none is left of the forms without a guard
  case add | sub | mul | mulh | mulhu | and | or | xor | andn | shl | shr | sra | rot | min | max | minu | maxu =>
    exact isSyllable_sBin
  case div | divu | rem | remu => exact isSyllable_sDiv
  case abs | clz | ctz | popc | bswap | lih => exact isSyllable_sUn
  case br | jmp | call | ret | jr | loop | brq => exact isSyllable_control
  case pand | por | pxor => exact isSyllable_pLogic
  case fadd | fsub | fmul => exact isSyllable_fBin
  case vadd | vsub | vmul | vfma | vfms | vmin | vmax | vabs | vneg | vclamp => exact isSyllable_vArith
  case vand | vor | vxor | vnot => exact isSyllable_vLogic
  case vshl | vshr | vsra | vrot | vpopc | vclz | vbfx | vfsh => exact isSyllable_vInt
  case vcmp | vmovpToPredicate | vptest => exact isSyllable_vPred
  case vsel | vmov | vli | vbcs | vmovpToVector | vpclr | vcvt | vpack | vunpk | vquant | vdeq | vredr | vredc | vscanr =>
    exact isSyllable_vForm
  case vrcp | vrsq | vsqrt | vexp2 | vlog2 | vtanh => exact isSyllable_vSpecial
  case vrotr | vrotc | vbcr | vbcc | vtrn => exact isSyllable_vAxis
  case vgath | vlut => exact isSyllable_vLoadElems
  case mma | mmai | mmax => exact isSyllable_product
  case mmaa | mzero | mload | mdrain | lease | unlease | twait | tsig | nlaunch | pstart | pstop | psave | pload | qflush
    | clkdiv | wake =>
    exact isSyllable_mSyllable
  case copy | copyt => exact isSyllable_guardedM
  case rclaim | rpub | rwaitf | rwaite | rrel => exact isSyllable_ringForm
  case barr | bwait | barw => exact isSyllable_barForm
  case aadd | aand | aor | axor | amin | amax | aminu | amaxu | axchg | acas | afadd => exact isSyllable_atomicForm
  case redfRd | redfFin | redfSt => exact isSyllable_redfForm
  case rgsplit | rgmerge | rgpin => exact isSyllable_editForm
  case spdrop | spwake => exact isSyllable_maskForm
  case redx => exact isSyllable_redx
  all_goals exact ⟨_, _, rfl⟩

/-- Settles O59: the decoders' half by the guard check of every form, the issuing half by the shape that every guarded form has. -/
theorem guardsDecide : Obligations.GuardsDecide := by
  unfold Obligations.GuardsDecide
  refine ⟨fun w => ⟨fun hc h => ?_, fun hc h => ?_⟩, fun s i g hg hp => ?_⟩
  · exact decodeSyllable_of_guard_not_ok (guarded_rawInstr hc) (guard_not_ok_of_field_one h)
  · exact decodeSyllable_of_guard_not_ok (guarded_rawInstr_m hc) (guard_not_ok_of_field_one h)
  · obtain ⟨ds, k, e⟩ := exec_isSyllable s hg
    rw [e]
    exact ⟨syllable_busy_guard _ hp, syllable_inactive _ hp⟩

end Sys2Proof.Machine
end

section
/-! PROOFS. The generator of stochastic rounding (R61): a draw carries the bit it shifts out into bit 31, so it loses nothing, and the
binary `drawMany` repeats it. -/

namespace Sys2Proof.Machine

/-! One draw. -/

theorem drawStep_eq (s : BitVec 32) : drawStep s = if s.getLsbD 0 then (s >>> 1) ^^^ 0x80200003 else s >>> 1 := rfl

@[simp] theorem drawStep_zero : drawStep 0 = 0 := by decide

/-- The polynomial has bit 31, which the shift has cleared: the draw shows there which way it went. -/
theorem getLsbD_drawStep_top (s : BitVec 32) : (drawStep s).getLsbD 31 = s.getLsbD 0 := by
  rw [drawStep_eq]
  cases h : s.getLsbD 0 <;> simp

/-- A word is its lowest bit and the rest. -/
theorem eq_of_getLsbD_zero_of_shift {s t : BitVec 32} (h0 : s.getLsbD 0 = t.getLsbD 0) (hs : s >>> 1 = t >>> 1) : s = t := by
  refine BitVec.eq_of_getLsbD_eq fun i _ => ?_
  cases i with
  | zero => exact h0
  | succ j => simpa [Nat.add_comm] using congrArg (·.getLsbD j) hs

theorem drawStep_injective : Function.Injective drawStep := by
  intro s t h
  have h0 : s.getLsbD 0 = t.getLsbD 0 := by rw [← getLsbD_drawStep_top, h, getLsbD_drawStep_top]
  refine eq_of_getLsbD_zero_of_shift h0 ?_
  rw [drawStep_eq, drawStep_eq, ← h0] at h
  split at h
  · exact (BitVec.xor_left_inj _).1 h
  · exact h

theorem drawStep_ne_zero {s : BitVec 32} (hs : s ≠ 0) : drawStep s ≠ 0 :=
  fun h => hs (drawStep_injective (h.trans drawStep_zero.symm))

/-! Many draws. -/

theorem repeat_add {α : Type} (f : α → α) (m n : Nat) (a : α) : Nat.repeat f (m + n) a = Nat.repeat f m (Nat.repeat f n a) := by
  induction m with
  | zero => rw [Nat.zero_add]; rfl
  | succ m ih => rw [Nat.succ_add]; exact congrArg f ih

theorem drawMany_of_le_one {k n : Nat} (s : BitVec 32) (hn : n ≤ 1) : drawMany (k + 1) n s = Nat.repeat drawStep n s := by
  obtain rfl | rfl : n = 0 ∨ n = 1 := by omega
  · rfl
  · rfl

theorem drawMany_of_one_lt {k n : Nat} (s : BitVec 32) (hn : 1 < n) :
    drawMany (k + 1) n s = drawMany k (n - n / 2) (drawMany k (n / 2) s) :=
  if_neg (Nat.not_le.2 hn)

/-- Each level of fuel doubles the count that is reached. -/
theorem drawMany_eq_repeat {k n : Nat} (s : BitVec 32) (hn : n ≤ 2 ^ k) : drawMany (k + 1) n s = Nat.repeat drawStep n s := by
  induction k generalizing n s with
  | zero => exact drawMany_of_le_one s hn
  | succ k ih =>
    by_cases h1 : n ≤ 1
    · exact drawMany_of_le_one s h1
    · have hlow : n / 2 ≤ 2 ^ k := by omega
      have hhigh : n - n / 2 ≤ 2 ^ k := by omega
      rw [drawMany_of_one_lt s (Nat.not_le.1 h1), ih _ hlow, ih _ hhigh, ← repeat_add, Nat.sub_add_cancel (Nat.div_le_self n 2)]

theorem drawN_eq_repeat {n : Nat} (s : BitVec 32) (hn : n ≤ 2 ^ 127) : drawN n s = Nat.repeat drawStep n s :=
  drawMany_eq_repeat s hn

theorem drawN_zero (s : BitVec 32) : drawN 0 s = s := rfl

theorem drawN_succ {n : Nat} (s : BitVec 32) (hn : n < 2 ^ 127) : drawN (n + 1) s = drawStep (drawN n s) := by
  rw [drawN_eq_repeat s hn, drawN_eq_repeat s (Nat.le_of_lt hn)]
  rfl

/-! The register that holds the state. -/

theorem sysRead_seed (s : State) (n : Nat) : s.sysRead n 0x006 = (s.strand n).sys.seed.zeroExtend 64 := rfl

theorem writeSys_seed (t : Strand) (v : Word) :
    (t.writeSys 0x006 v).sys.seed = if v.extractLsb' 0 32 = 0 then 1 else v.extractLsb' 0 32 := rfl

/-- Settles O9: a draw is injective and keeps 0, so it keeps what is not 0; `drawN` repeats it. -/
theorem drawIsGaloisStep : Obligations.DrawIsGaloisStep := by
  unfold Obligations.DrawIsGaloisStep
  refine ⟨fun s v => ⟨sysRead_seed s s.cur, writeSys_seed s.me v⟩, drawStep_eq, fun _ => drawStep_ne_zero, fun _ _ h => drawStep_injective h,
    fun s n hn => ⟨drawN_succ s ?_, drawN_zero s⟩⟩
  exact Nat.lt_trans hn (by decide)

end Sys2Proof.Machine
end

section
/-! PROOFS. The binary integer forms (R78, R80, R81, R102): one issue rule for those of fixed latency and one for the divisions, and what
the functions of ScalarInt are in terms of the signed and unsigned values of their operands. -/

namespace Sys2Proof.Machine

/-! The functions of R78, R80 and R81. -/

theorem mulHigh_true (a b : Word) : mulHigh true a b = BitVec.ofInt 64 (a.toInt * b.toInt / 2 ^ 64) := rfl

theorem mulHigh_false (a b : Word) : mulHigh false a b = BitVec.ofNat 64 (a.toNat * b.toNat / 2 ^ 64) := rfl

/-- The amount b<7:0> is b modulo 256. -/
theorem shAmt_eq_mod (b : Word) : shAmt b = b.toNat % 256 := by
  simp [shAmt, BitVec.extractLsb'_toNat]

theorem shlW_eq (a b : Word) : shlW a b = if 64 ≤ b.toNat % 256 then 0 else a <<< (b.toNat % 256) := by
  rw [shlW, shAmt_eq_mod]

theorem shrW_eq (a b : Word) : shrW a b = if 64 ≤ b.toNat % 256 then 0 else a >>> (b.toNat % 256) := by
  rw [shrW, shAmt_eq_mod]

theorem sraW_eq (a b : Word) : sraW a b = a.sshiftRight (min (b.toNat % 256) 64) := by
  rw [sraW, shAmt_eq_mod]

theorem rotW_eq (a b : Word) : rotW a b = a.rotateLeft (b.toNat % 256 % 64) := by
  rw [rotW, shAmt_eq_mod]

theorem ite_slt_eq (a b x y : Word) : (if a.slt b then x else y) = if a.toInt < b.toInt then x else y := by
  simp only [BitVec.slt_iff_toInt_lt]

theorem ite_ult_eq (a b x y : Word) : (if a.ult b then x else y) = if a.toNat < b.toNat then x else y := by
  simp only [BitVec.ult_iff_toNat_lt]

theorem quot_true (a b : Word) : quot true a b = if b = 0 then BitVec.allOnes 64 else BitVec.ofInt 64 (a.toInt.tdiv b.toInt) := rfl

theorem remn_true (a b : Word) : remn true a b = if b = 0 then a else BitVec.ofInt 64 (a.toInt.tmod b.toInt) := rfl

theorem quot_false (a b : Word) : quot false a b = if b = 0 then BitVec.allOnes 64 else a / b :=
  congrArg (if b = 0 then BitVec.allOnes 64 else ·) (BitVec.udiv_def).symm

theorem remn_false (a b : Word) : remn false a b = if b = 0 then a else a % b :=
  congrArg (if b = 0 then a else ·) (BitVec.umod_def).symm

/-! What each form is: the shared shape with its latency (R102) and its function. -/

section Forms
variable (s : State) (g : Guard) (o : SBin)

theorem exec_add : exec (.add g o) s = sBin s g o 1 (fun a b => a + b) := rfl
theorem exec_sub : exec (.sub g o) s = sBin s g o 1 (fun a b => a - b) := rfl
theorem exec_mul : exec (.mul g o) s = sBin s g o 3 (fun a b => a * b) := rfl
theorem exec_mulh : exec (.mulh g o) s = sBin s g o 4 (mulHigh true) := rfl
theorem exec_mulhu : exec (.mulhu g o) s = sBin s g o 4 (mulHigh false) := rfl
theorem exec_and : exec (.and g o) s = sBin s g o 1 (fun a b => a &&& b) := rfl
theorem exec_or : exec (.or g o) s = sBin s g o 1 (fun a b => a ||| b) := rfl
theorem exec_xor : exec (.xor g o) s = sBin s g o 1 (fun a b => a ^^^ b) := rfl
theorem exec_andn : exec (.andn g o) s = sBin s g o 1 (fun a b => a &&& ~~~b) := rfl
theorem exec_shl : exec (.shl g o) s = sBin s g o 1 shlW := rfl
theorem exec_shr : exec (.shr g o) s = sBin s g o 1 shrW := rfl
theorem exec_sra : exec (.sra g o) s = sBin s g o 1 sraW := rfl
theorem exec_rot : exec (.rot g o) s = sBin s g o 1 rotW := rfl
theorem exec_min : exec (.min g o) s = sBin s g o 1 (fun a b => if b.slt a then b else a) := rfl
theorem exec_max : exec (.max g o) s = sBin s g o 1 (fun a b => if a.slt b then b else a) := rfl
theorem exec_minu : exec (.minu g o) s = sBin s g o 1 (fun a b => if b.ult a then b else a) := rfl
theorem exec_maxu : exec (.maxu g o) s = sBin s g o 1 (fun a b => if a.ult b then b else a) := rfl
theorem exec_div : exec (.div g o) s = sDiv s g o (quot true) := rfl
theorem exec_divu : exec (.divu g o) s = sDiv s g o (quot false) := rfl
theorem exec_rem : exec (.rem g o) s = sDiv s g o (remn true) := rfl
theorem exec_remu : exec (.remu g o) s = sDiv s g o (remn false) := rfl

end Forms

/-! Issue (R71, R102): a form that is ready sends one result, of which only the function of the operands and the latency differ. -/

/-- The registers a binary form names. -/
def binRegs (o : SBin) : List Dst := .g o.gd.toNat :: .g o.ga.toNat :: srcBReg o.b

/-- The poison of a binary form's result: that of its sources and of its guard. -/
def binPoison (s : State) (g : Guard) (o : SBin) : Bool := (s.me.g o.ga).poison || (s.me.srcB o.b).poison || gp s g

/-- The strand with a division's result under way: scoreboarded, due 12 to 40 strand cycles after issue. -/
def Strand.flyDiv (t : Strand) (gd : GReg) (v : Word) (poison : Bool) : Strand :=
  { t with flights := t.flights ++
      [{ tag := t.newTag, bundle := t.bundle, dst := .g gd.toNat, val := .s { val := v, poison := poison }, flags := 0,
         due := t.clock + t.cyc 12, last := t.clock + t.cyc 40, fixed := false, need := 0, raw := [], rawPoison := [],
         form := .ready, hint := [] }] }

section Issue
variable {s : State} {g : Guard} {o : SBin} {i : Instr} {f : Word → Word → Word} {v : Word}

theorem sendsG_of_sBin {lat : Nat} (h : Ready s g (binRegs o)) (hi : exec i s = sBin s g o lat f)
    (hv : f (s.me.g o.ga).val (s.me.srcB o.b).val = v) : SendsG i s o.gd v (binPoison s g o) lat := by
  subst hv
  exact hi.trans (syllable_ready false (.inl rfl) h)

/-- With no division under way the divider takes the operands. -/
theorem issues_of_sDiv (h : Ready s g (binRegs o)) (hfree : s.me.flights.any (fun x => x.last != 0) = false)
    (hi : exec i s = sDiv s g o f) (hv : f (s.me.g o.ga).val (s.me.srcB o.b).val = v) :
    Issues i s (s.me.flyDiv o.gd v (binPoison s g o)) := by
  subst hv
  refine hi.trans ((syllable_ready false (.inl rfl) h).trans ?_)
  simp only [hfree]
  rfl

end Issue

/-- Settles O1: each form is `sBin` or `sDiv` of its function, whose value is the one R78, R80 or R81 gives. -/
theorem scalarBinaryResults : Obligations.ScalarBinaryResults := by
  unfold Obligations.ScalarBinaryResults
  refine ⟨fun s g o h => ?_, fun s g o h hfree => ?_⟩
  · intro x y n bad
    exact ⟨sendsG_of_sBin h (exec_add s g o) rfl,
      sendsG_of_sBin h (exec_sub s g o) rfl,
      sendsG_of_sBin h (exec_mul s g o) rfl,
      sendsG_of_sBin h (exec_mulh s g o) (mulHigh_true x y),
      sendsG_of_sBin h (exec_mulhu s g o) (mulHigh_false x y),
      sendsG_of_sBin h (exec_and s g o) rfl,
      sendsG_of_sBin h (exec_or s g o) rfl,
      sendsG_of_sBin h (exec_xor s g o) rfl,
      sendsG_of_sBin h (exec_andn s g o) rfl,
      sendsG_of_sBin h (exec_shl s g o) (shlW_eq x y),
      sendsG_of_sBin h (exec_shr s g o) (shrW_eq x y),
      sendsG_of_sBin h (exec_sra s g o) (sraW_eq x y),
      sendsG_of_sBin h (exec_rot s g o) (rotW_eq x y),
      sendsG_of_sBin h (exec_min s g o) (ite_slt_eq y x y x),
      sendsG_of_sBin h (exec_max s g o) (ite_slt_eq x y y x),
      sendsG_of_sBin h (exec_minu s g o) (ite_ult_eq y x y x),
      sendsG_of_sBin h (exec_maxu s g o) (ite_ult_eq x y y x)⟩
  · intro x y bad sent
    exact ⟨issues_of_sDiv h hfree (exec_div s g o) (quot_true x y),
      issues_of_sDiv h hfree (exec_divu s g o) (quot_false x y),
      issues_of_sDiv h hfree (exec_rem s g o) (remn_true x y),
      issues_of_sDiv h hfree (exec_remu s g o) (remn_false x y)⟩

end Sys2Proof.Machine
end

section
/-! PROOFS. What is written reads back: bytes of memory (R10) and registers where results land (R104); what the integer functions mean: division,
products and conditions (R78, R81, R85), and the new values of atomics (R194). -/

namespace Sys2Proof.Machine

theorem memGet_writeBytes_outside (m : Mem) (a k : Nat) (bs : List Byte) (h : k < a ∨ a + bs.length ≤ k) :
    memGet (writeBytes m a bs) k = memGet m k := by
  rw [memGet_writeBytes, if_neg (by omega)]

/-- Settles O26: the laws of memory, put together. -/
theorem memoryReadAfterWrite : Obligations.MemoryReadAfterWrite := by
  unfold Obligations.MemoryReadAfterWrite
  intro m a b bs hm
  exact ⟨memGet_memPut_self m a b, fun k hk => memGet_memPut_other m a k b hk, wf_memPut a b hm, readBytes_writeBytes m a bs,
    fun k hk => memGet_writeBytes_outside m a k bs hk, wf_writeBytes bs a hm, fun _ hn h => wf_ext hm hn h⟩

/-! Division (R81). -/

theorem quot_zero (sg : Bool) (a : Word) : quot sg a 0 = BitVec.allOnes 64 := by cases sg <;> rfl

theorem remn_zero (sg : Bool) (a : Word) : remn sg a 0 = a := by cases sg <;> rfl

/-- A remainder of two words is itself a word: nothing is lost when it is narrowed. -/
theorem toInt_remn_true {a b : Word} (hb : b ≠ 0) : (remn true a b).toInt = a.toInt.tmod b.toInt := by
  rw [remn_true, if_neg hb, ← BitVec.toInt_srem, BitVec.ofInt_toInt]

theorem toInt_ne_zero {b : Word} (hb : b ≠ 0) : b.toInt ≠ 0 :=
  fun h => hb (BitVec.eq_of_toInt_eq h)

/-- Dividend = quotient times divisor plus remainder, modulo 2^64. -/
theorem quot_mul_add_remn (sg : Bool) (a b : Word) : quot sg a b * b + remn sg a b = a := by
  by_cases hb : b = 0
  · subst hb; rw [quot_zero, remn_zero]; simp
  · cases sg with
    | true =>
      rw [quot_true, remn_true, if_neg hb, if_neg hb]
      calc BitVec.ofInt 64 (a.toInt.tdiv b.toInt) * b + BitVec.ofInt 64 (a.toInt.tmod b.toInt)
          = BitVec.ofInt 64 (a.toInt.tdiv b.toInt) * BitVec.ofInt 64 b.toInt + BitVec.ofInt 64 (a.toInt.tmod b.toInt) := by
            rw [BitVec.ofInt_toInt]
        _ = BitVec.ofInt 64 (a.toInt.tdiv b.toInt * b.toInt + a.toInt.tmod b.toInt) := by
            rw [BitVec.ofInt_add, BitVec.ofInt_mul]
        _ = a := by rw [Int.tdiv_mul_add_tmod, BitVec.ofInt_toInt]
    | false =>
      rw [quot_false, remn_false, if_neg hb, if_neg hb]
      apply BitVec.eq_of_toNat_eq
      simp [Nat.div_add_mod', Nat.mod_eq_of_lt a.isLt]

theorem natAbs_remn_true_lt {a b : Word} (hb : b ≠ 0) : (remn true a b).toInt.natAbs < b.toInt.natAbs := by
  rw [toInt_remn_true hb, Int.natAbs_tmod]
  exact Nat.mod_lt _ (Int.natAbs_pos.2 (toInt_ne_zero hb))

theorem toNat_remn_false_lt {a b : Word} (hb : b ≠ 0) : (remn false a b).toNat < b.toNat := by
  rw [remn_false, if_neg hb, BitVec.toNat_umod]
  exact Nat.mod_lt _ (by have := BitVec.toNat_ne.1 hb; simp at this; omega)

/-- The remainder has the sign of the dividend. -/
theorem remn_true_sign {a b : Word} (hb : b ≠ 0) : (remn true a b).toInt = 0 ∨ ((remn true a b).toInt < 0 ↔ a.toInt < 0) := by
  rw [toInt_remn_true hb]
  by_cases h : a.toInt < 0
  · have := Int.tmod_nonneg b.toInt (Int.neg_nonneg_of_nonpos (Int.le_of_lt h))
    rw [Int.neg_tmod] at this
    omega
  · have := Int.tmod_nonneg b.toInt (Int.not_lt.mp h)
    omega

/-! The exact product (R78). -/

/-- Two halves of 64 bits are the number of which they are the quotient and the remainder by 2^64. -/
theorem append_ofInt_div (x : Int) : BitVec.ofInt 64 (x / 2 ^ 64) ++ BitVec.ofInt 64 x = BitVec.ofInt 128 x := by
  apply BitVec.eq_of_toNat_eq
  rw [BitVec.toNat_append, ← Nat.shiftLeft_add_eq_or_of_lt (BitVec.isLt _), Nat.shiftLeft_eq]
  simp only [BitVec.toNat_ofInt]
  omega

theorem mulHigh_true_append (a b : Word) : mulHigh true a b ++ (a * b) = a.signExtend 128 * b.signExtend 128 := by
  have hl : a * b = BitVec.ofInt 64 (a.toInt * b.toInt) := by rw [BitVec.ofInt_mul, BitVec.ofInt_toInt, BitVec.ofInt_toInt]
  rw [mulHigh_true, hl, append_ofInt_div, BitVec.ofInt_mul]
  rfl

theorem mulHigh_false_append (a b : Word) : mulHigh false a b ++ (a * b) = a.zeroExtend 128 * b.zeroExtend 128 := by
  have hp : a.toNat * b.toNat < 2 ^ 64 * 2 ^ 64 := Nat.mul_lt_mul'' a.isLt b.isLt
  have ha := a.isLt
  have hb := b.isLt
  apply BitVec.eq_of_toNat_eq
  rw [BitVec.toNat_append, ← Nat.shiftLeft_add_eq_or_of_lt (BitVec.isLt _), Nat.shiftLeft_eq, mulHigh_false]
  simp only [BitVec.toNat_ofNat, BitVec.toNat_mul, BitVec.toNat_setWidth, BitVec.truncate_eq_setWidth]
  rw [Nat.mod_eq_of_lt (a := a.toNat) (by omega), Nat.mod_eq_of_lt (a := b.toNat) (by omega)]
  generalize a.toNat * b.toNat = p at hp
  omega

/-! The conditions of `cmp` (R85). -/

theorem condHolds_iff (a b : Word) :
    (condHolds .eq a b = true ↔ a = b) ∧ (condHolds .ne a b = true ↔ a ≠ b) ∧
    (condHolds .lt a b = true ↔ a.toInt < b.toInt) ∧ (condHolds .ge a b = true ↔ b.toInt ≤ a.toInt) ∧
    (condHolds .gt a b = true ↔ b.toInt < a.toInt) ∧ (condHolds .le a b = true ↔ a.toInt ≤ b.toInt) ∧
    (condHolds .ltu a b = true ↔ a.toNat < b.toNat) ∧ (condHolds .geu a b = true ↔ b.toNat ≤ a.toNat) ∧
    (condHolds .gtu a b = true ↔ b.toNat < a.toNat) ∧ (condHolds .leu a b = true ↔ a.toNat ≤ b.toNat) ∧
    (condHolds .tst a b = true ↔ a &&& b ≠ 0) := by
  simp [condHolds, BitVec.slt_iff_toInt_lt, BitVec.ult_iff_toNat_lt, ← Bool.not_eq_true]

/-- Settles O3: the quotient and remainder of truncated division, the two halves of the exact product, and each condition by its order. -/
theorem integerAlgebra : Obligations.IntegerAlgebra := by
  unfold Obligations.IntegerAlgebra
  refine ⟨fun a b => ?_, fun a b => ⟨mulHigh_true_append a b, mulHigh_false_append a b⟩, condHolds_iff⟩
  exact ⟨quot_mul_add_remn true a b, quot_mul_add_remn false a b, fun hb => ⟨natAbs_remn_true_lt hb, toNat_remn_false_lt hb⟩,
    remn_true_sign, fun hb => hb ▸ ⟨quot_zero true a, quot_zero false a⟩⟩

/-! Landing (R104, R69, R77). -/

theorem Strand.g_zero (t : Strand) : t.g 0 = { val := 0, poison := false } := rfl

theorem Strand.p_zero (t : Strand) : t.p 0 = { val := BitVec.allOnes 1024, poison := false } := rfl

theorem Strand.setG_eq (t : Strand) (i : Nat) (v : SReg) :
    t.setG i v = { t with r := { t.r with g := if i = 0 then t.r.g else vSet t.r.g i v } } := by
  unfold Strand.setG; split <;> rfl

theorem Strand.setP_eq (t : Strand) (i : Nat) (v : PReg) :
    t.setP i v = { t with r := { t.r with p := if i = 0 then t.r.p else vSet t.r.p i v } } := by
  unfold Strand.setP; split <;> rfl

theorem Strand.g_setG_self (t : Strand) (r : GReg) (v : SReg) (hr : r ≠ 0) : (t.setG r.toNat v).g r = v := by
  have h : r.toNat ≠ 0 := fun h => hr (BitVec.eq_of_toNat_eq h)
  have hlt : r.toNat < 32 := r.isLt
  rw [Strand.g, if_neg hr, Strand.setG_eq]
  simp [h, hlt]

theorem Strand.g_setG_other (t : Strand) (r q : GReg) (v : SReg) (hq : q ≠ r) : (t.setG r.toNat v).g q = t.g q := by
  have h : q.toNat ≠ r.toNat := fun h => hq (BitVec.eq_of_toNat_eq h)
  unfold Strand.g
  split
  · rfl
  · rw [Strand.setG_eq]
    by_cases h0 : r.toNat = 0
    · simp [h0]
    · simp [h0, vAt_vSet_other _ _ _ _ h]

/-- A flight takes itself off the list and raises its flags before its register is written. -/
def Strand.arrive (t : Strand) (f : Flight) : Strand :=
  { t with flights := t.flights.filter (fun x => x.tag != f.tag) }.raise f.flags

theorem Strand.land_g {t : Strand} {f : Flight} {i : Nat} {v : SReg} (hd : f.dst = .g i) (hv : f.val = .s v) :
    t.land f = (t.arrive f).setG i v := by
  simp only [Strand.land, Strand.arrive, hd, hv]

theorem Strand.land_p {t : Strand} {f : Flight} {i : Nat} {v : PReg} {m : Mask} {k : Bool} (hd : f.dst = .p i) (hv : f.val = .p v m k) :
    t.land f = (t.arrive f).setP i ((vAt t.r.p i).merge v m k) := by
  simp only [Strand.land, Strand.arrive, hd, hv]
  rfl

/-- Settles O5: landing is one write of one register, and a write of g0 or p0 is none. -/
theorem resultLandsWhereSent : Obligations.ResultLandsWhereSent := by
  unfold Obligations.ResultLandsWhereSent
  refine ⟨fun t f r v hd hv => ?_, fun t f i v m k hd hv => ?_⟩
  · rw [Strand.land_g hd hv]
    refine ⟨Strand.g_setG_self _ r v, Strand.g_zero _, fun q hq => Strand.g_setG_other _ r q v hq, ?_⟩
    rw [Strand.setG_eq]
    exact ⟨rfl, rfl, rfl, rfl, rfl, rfl, rfl, rfl, rfl, rfl⟩
  · rw [Strand.land_p hd hv, Strand.setP_eq]
    refine ⟨fun h0 hi => ?_, Strand.p_zero _, fun j hj => ?_, rfl, rfl, rfl, rfl, rfl⟩
    · show vAt (if i = 0 then _ else _) i = _
      rw [if_neg (by omega), vAt_vSet_self _ _ _ hi]
      rfl
    · show vAt (if i = 0 then _ else _) j = _
      split
      · rfl
      · exact vAt_vSet_other _ _ _ _ hj

/-! The new values of atomics (R194). -/

/-- A number of w bits read as a signed one. -/
theorem signed_of_lt {w x : Nat} (hw : 0 < w) (hx : x < 2 ^ w) : signed w x = if 2 * x < 2 ^ w then (x : Int) else (x : Int) - 2 ^ w := by
  obtain ⟨k, rfl⟩ : ∃ k, w = k + 1 := ⟨w - 1, by omega⟩
  have h2 : 2 ^ (k + 1) = 2 * 2 ^ k := by rw [Nat.pow_succ, Nat.mul_comm]
  have hc : x < 2 ^ k ↔ 2 * x < 2 ^ (k + 1) := by omega
  rw [signed, Nat.mod_eq_of_lt hx, Nat.add_sub_cancel]
  simp only [hc]
  split <;> simp

/-- The lesser of two in an order that f carries. -/
theorem ite_lt_is_min (f : Nat → Int) (a b : Nat) :
    ((if f b < f a then b else a) = a ∨ (if f b < f a then b else a) = b) ∧ f (if f b < f a then b else a) = min (f a) (f b) := by
  split
  · exact ⟨.inr rfl, by omega⟩
  · exact ⟨.inl rfl, by omega⟩

theorem ite_lt_is_max (f : Nat → Int) (a b : Nat) :
    ((if f a < f b then b else a) = a ∨ (if f a < f b then b else a) = b) ∧ f (if f a < f b then b else a) = max (f a) (f b) := by
  split
  · exact ⟨.inr rfl, by omega⟩
  · exact ⟨.inl rfl, by omega⟩

/-- Settles O22: the table of R194 entry by entry; the signed forms choose by the signed values. -/
theorem atomicValues : Obligations.AtomicValues := by
  unfold Obligations.AtomicValues
  intro n old b c hn ho hb sg
  have hw : 0 < 8 * n := by omega
  obtain ⟨hmin, hmin'⟩ := ite_lt_is_min (signed (8 * n)) old b
  obtain ⟨hmax, hmax'⟩ := ite_lt_is_max (signed (8 * n)) old b
  have hsg : ∀ x, x = old ∨ x = b → signed (8 * n) x = sg x := by
    rintro x (rfl | rfl)
    · exact signed_of_lt hw ho
    · exact signed_of_lt hw hb
  refine ⟨rfl, rfl, rfl, rfl, rfl, rfl, rfl, ⟨_, rfl, hmin, ?_⟩, ⟨_, rfl, hmax, ?_⟩, fun h => ?_, fun h => ?_, rfl, rfl⟩
  · rw [← hsg _ hmin, ← hsg _ (.inl rfl), ← hsg _ (.inr rfl), hmin']
  · rw [← hsg _ hmax, ← hsg _ (.inl rfl), ← hsg _ (.inr rfl), hmax']
  · simp [atomNew, h]
  · simp [atomNew, h]

end Sys2Proof.Machine
end

section
/-! PROOFS. Fields of a syllable as numbers: what appending fields, taking one out and testing a bit are on values, and what the selector
codes allow. With these a claim that a field survives encoding is one of linear arithmetic. -/

namespace Sys2Proof

/-! Fields (R21 to R25). -/

theorem toNat_append_eq {m n : Nat} (x : BitVec m) (y : BitVec n) : (x ++ y).toNat = x.toNat * 2 ^ n + y.toNat := by
  rw [BitVec.toNat_append, ← Nat.shiftLeft_add_eq_or_of_lt y.isLt, Nat.shiftLeft_eq]

theorem toNat_extractLsb'_eq {n : Nat} (x : BitVec n) (s l : Nat) : (x.extractLsb' s l).toNat = x.toNat / 2 ^ s % 2 ^ l := by
  rw [BitVec.extractLsb'_toNat, Nat.shiftRight_eq_div_pow]

theorem getLsbD_eq_iff {n : Nat} (x : BitVec n) (k : Nat) (b : Bool) : x.getLsbD k = b ↔ x.toNat / 2 ^ k % 2 = (b1 b).toNat := by
  rw [BitVec.getLsbD, Nat.testBit_eq_decide_div_mod_eq]
  cases b <;> simp

theorem b2n_eq (b : Bool) : b2n b = (b1 b).toNat := by cases b <;> rfl

theorem toNat_b1_getLsbD {n : Nat} (x : BitVec n) (k : Nat) : (b1 (x.getLsbD k)).toNat = x.toNat / 2 ^ k % 2 :=
  ((getLsbD_eq_iff x k _).1 rfl).symm

/-! Selector codes: a code that is assigned is that of what it selects. -/

theorem Ty.ofCode_iff (n : Nat) (t : Ty) : Ty.ofCode n = some t ↔ n = t.code := by
  constructor
  · intro h; unfold Ty.ofCode at h; split at h <;> cases h <;> rfl
  · rintro rfl; cases t <;> rfl

theorem Rnd.ofCode_iff (n : Nat) (t : Rnd) : Rnd.ofCode n = some t ↔ n = t.code := by
  constructor
  · intro h; unfold Rnd.ofCode at h; split at h <;> cases h <;> rfl
  · rintro rfl; cases t <;> rfl

theorem Scope.ofCode_iff (n : Nat) (t : Scope) : Scope.ofCode n = some t ↔ n = t.code := by
  constructor
  · intro h; unfold Scope.ofCode at h; split at h <;> cases h <;> rfl
  · rintro rfl; cases t <;> rfl

theorem Cond.ofCode_iff (n : Nat) (t : Cond) : Cond.ofCode n = some t ↔ n = t.code := by
  constructor
  · intro h; unfold Cond.ofCode at h; split at h <;> cases h <;> rfl
  · rintro rfl; cases t <;> rfl

theorem FCond.ofCode_iff (n : Nat) (t : FCond) : FCond.ofCode n = some t ↔ n = t.code := by
  constructor
  · intro h; unfold FCond.ofCode at h; split at h <;> cases h <;> rfl
  · rintro rfl; cases t <;> rfl

theorem RedOp.ofCode_iff (n : Nat) (t : RedOp) : RedOp.ofCode n = some t ↔ n = t.code := by
  constructor
  · intro h; unfold RedOp.ofCode at h; split at h <;> cases h <;> rfl
  · rintro rfl; cases t <;> rfl

theorem MmaFmt.ofCode_iff (n : Nat) (t : MmaFmt) : MmaFmt.ofCode n = some t ↔ n = t.code := by
  constructor
  · intro h; unfold MmaFmt.ofCode at h; split at h <;> cases h <;> rfl
  · rintro rfl; cases t <;> rfl

theorem MmaxFmt.ofCode_iff (n : Nat) (t : MmaxFmt) : MmaxFmt.ofCode n = some t ↔ n = t.code := by
  constructor
  · intro h; unfold MmaxFmt.ofCode at h; split at h <;> cases h <;> rfl
  · rintro rfl; cases t <;> rfl

theorem MmaaFmt.ofCode_iff (n : Nat) (t : MmaaFmt) : MmaaFmt.ofCode n = some t ↔ n = t.code := by
  constructor
  · intro h; unfold MmaaFmt.ofCode at h; split at h <;> cases h <;> rfl
  · rintro rfl; cases t <;> rfl

theorem DrainFmt.ofCode_iff (n : Nat) (t : DrainFmt) : DrainFmt.ofCode n = some t ↔ n = t.code := by
  constructor
  · intro h; unfold DrainFmt.ofCode at h; split at h <;> cases h <;> rfl
  · rintro rfl; cases t <;> rfl

theorem CompKind.ofCode_iff (n : Nat) (t : CompKind) : CompKind.ofCode n = some t ↔ n = t.code := by
  constructor
  · intro h; unfold CompKind.ofCode at h; split at h <;> cases h <;> rfl
  · rintro rfl; cases t <;> rfl

theorem ClkUnit.ofCode_iff (n : Nat) (t : ClkUnit) : ClkUnit.ofCode n = some t ↔ n = t.code := by
  constructor
  · intro h; unfold ClkUnit.ofCode at h; split at h <;> cases h <;> rfl
  · rintro rfl; cases t <;> rfl

/-! A selector of two bits that is assigned throughout. -/

theorem Wd.ofCode_mod (n : Nat) (t : Wd) : Wd.ofCode (n % 4) = t ↔ n % 4 = t.code := by
  have h : n % 4 < 4 := Nat.mod_lt _ (by decide)
  generalize n % 4 = c at h
  obtain rfl | rfl | rfl | rfl : c = 0 ∨ c = 1 ∨ c = 2 ∨ c = 3 := by omega
  all_goals cases t <;> decide

theorem AOrd.ofCode_mod (n : Nat) (t : AOrd) : AOrd.ofCode (n % 4) = t ↔ n % 4 = t.code := by
  have h : n % 4 < 4 := Nat.mod_lt _ (by decide)
  generalize n % 4 = c at h
  obtain rfl | rfl | rfl | rfl : c = 0 ∨ c = 1 ∨ c = 2 ∨ c = 3 := by omega
  all_goals cases t <;> decide

theorem MxFmt.ofCode_mod (n : Nat) (t : MxFmt) : MxFmt.ofCode (n % 4) = t ↔ n % 4 = t.code := by
  have h : n % 4 < 4 := Nat.mod_lt _ (by decide)
  generalize n % 4 = c at h
  obtain rfl | rfl | rfl | rfl : c = 0 ∨ c = 1 ∨ c = 2 ∨ c = 3 := by omega
  all_goals cases t <;> decide

theorem Wd.code_ofCode_mod (n : Nat) : (Wd.ofCode (n % 4)).code = n % 4 :=
  ((Wd.ofCode_mod n _).1 rfl).symm

theorem AOrd.code_ofCode_mod (n : Nat) : (AOrd.ofCode (n % 4)).code = n % 4 :=
  ((AOrd.ofCode_mod n _).1 rfl).symm

theorem MxFmt.code_ofCode_mod (n : Nat) : (MxFmt.ofCode (n % 4)).code = n % 4 :=
  ((MxFmt.ofCode_mod n _).1 rfl).symm

/-! Each code fits its field. -/

theorem Ty.code_lt (t : Ty) : t.code < 16 := by cases t <;> decide
theorem Rnd.code_lt (t : Rnd) : t.code < 8 := by cases t <;> decide
theorem Scope.code_lt (t : Scope) : t.code < 8 := by cases t <;> decide
theorem Cond.code_lt (t : Cond) : t.code < 16 := by cases t <;> decide
theorem FCond.code_lt (t : FCond) : t.code < 8 := by cases t <;> decide
theorem Wd.code_lt (t : Wd) : t.code < 4 := by cases t <;> decide
theorem AOrd.code_lt (t : AOrd) : t.code < 4 := by cases t <;> decide
theorem RedOp.code_lt (t : RedOp) : t.code < 4 := by cases t <;> decide
theorem MxFmt.code_lt (t : MxFmt) : t.code < 4 := by cases t <;> decide
theorem MmaFmt.code_lt (t : MmaFmt) : t.code < 16 := by cases t <;> decide
theorem MmaxFmt.code_lt (t : MmaxFmt) : t.code < 16 := by cases t <;> decide
theorem MmaaFmt.code_lt (t : MmaaFmt) : t.code < 16 := by cases t <;> decide
theorem DrainFmt.code_lt (t : DrainFmt) : t.code < 16 := by cases t <;> decide
theorem CompKind.code_lt (t : CompKind) : t.code < 4 := by cases t <;> decide
theorem ClkUnit.code_lt (t : ClkUnit) : t.code < 4 := by cases t <;> decide

/-! Decoders are written with `guardOpt`, binds and choices. To encode what one answers: one rule for each. -/

@[simp] theorem guardOpt_eq_some {α : Type} {c : Bool} {x y : α} : guardOpt c x = some y ↔ c = true ∧ x = y := by
  cases c <;> simp [guardOpt]

/-- What the decoder answers, if anything, encodes to r. -/
def EncodesTo {R : Type} (f : Instr → Option R) (r : R) (x : Option Instr) : Prop := ∀ i, x = some i → f i = some r

section Encode
variable {R : Type} {f : Instr → Option R} {r : R}

@[simp] theorem encodesTo_none : EncodesTo f r none := by simp [EncodesTo]

@[simp] theorem encodesTo_some {i : Instr} : EncodesTo f r (some i) ↔ f i = some r := by simp [EncodesTo]

@[simp] theorem encodesTo_guardOpt {i : Instr} {c : Bool} : EncodesTo f r (guardOpt c i) ↔ (c = true → f i = some r) := by
  cases c <;> simp [guardOpt]

@[simp] theorem encodesTo_bind {α : Type} {x : Option α} {k : α → Option Instr} :
    EncodesTo f r (x.bind k) ↔ ∀ a, x = some a → EncodesTo f r (k a) := by
  cases x <;> simp

@[simp] theorem encodesTo_map {α : Type} {x : Option α} {k : α → Instr} :
    EncodesTo f r (x.map k) ↔ ∀ a, x = some a → f (k a) = some r := by
  cases x <;> simp

@[simp] theorem encodesTo_ite {c : Prop} [Decidable c] {x y : Option Instr} :
    EncodesTo f r (if c then x else y) ↔ (c → EncodesTo f r x) ∧ (¬c → EncodesTo f r y) := by
  by_cases hc : c <;> simp [hc]

end Encode

/-! To decode what an encoder wrote: the same rules the other way. -/

theorem eq_some_of_guardOpt {α : Type} {x : Option α} {c : Bool} {y z : α} (h : x = guardOpt c y) (hy : y = z) (hc : c = true) :
    x = some z := by
  subst hc hy; exact h

theorem eq_some_of_bind {α β : Type} {x : Option β} {o : Option α} {k : α → Option β} {z : β} (a : α) (h : x = o.bind k)
    (ho : o = some a) (hk : k a = some z) : x = some z := by
  subst ho; exact h.trans hk

theorem eq_some_of_map {α β : Type} {x : Option β} {o : Option α} {k : α → β} {z : β} (a : α) (h : x = o.map k)
    (ho : o = some a) (hk : k a = z) : x = some z := by
  subst ho hk; exact h

theorem eq_some_of_ite {α : Type} {x : Option α} {c : Prop} [Decidable c] {y w : Option α} {z : α} (h : x = if c then y else w) (hc : c)
    (hy : y = some z) : x = some z := by
  rw [h, if_pos hc, hy]

theorem eq_some_of_ite_neg {α : Type} {x : Option α} {c : Prop} [Decidable c] {y w : Option α} {z : α} (h : x = if c then y else w)
    (hc : ¬c) (hw : w = some z) : x = some z := by
  rw [h, if_neg hc, hw]

/-! Fields that name a register and reserve their upper bits. -/

theorem preg_iff (f : BitVec 5) (p : PRegNo) : preg f = some p ↔ f = pfield p := by
  simp only [preg, pfield, guardOpt_eq_some, fbit, ← BitVec.toNat_inj, toNat_append_eq, toNat_extractLsb'_eq, Bool.not_eq_true',
    getLsbD_eq_iff]
  simp
  omega

theorem vpreg_iff (f : BitVec 6) (p : PRegNo) : vpreg f = some p ↔ f = 0#2 ++ p := by
  simp only [vpreg, guardOpt_eq_some, fld, bits, ← BitVec.toNat_inj, toNat_append_eq, toNat_extractLsb'_eq, beq_iff_eq]
  simp
  omega

theorem vgreg_iff (f : BitVec 6) (p : GReg) : vgreg f = some p ↔ f = 0#1 ++ p := by
  simp only [vgreg, guardOpt_eq_some, fbit, ← BitVec.toNat_inj, toNat_append_eq, toNat_extractLsb'_eq, Bool.not_eq_true',
    getLsbD_eq_iff]
  simp
  omega

theorem mgreg_iff (f : BitVec 6) (p : GReg) : mgreg f = some p ↔ f = 0#1 ++ p := vgreg_iff f p

theorem XRaw.entry_iff (r : XRaw) (k : BitVec 5) : r.entry = some k ↔ r.vpl = 0#1 ++ k := vgreg_iff r.vpl k

end Sys2Proof
end

section
/-! PROOFS. Decode and encode agree on S syllables (R21, R40). -/

namespace Sys2Proof

/-! The forms that share an encoding. -/

theorem encBin_of_bin {r : SRaw} {n : Nat} {o : SBin} (hn : r.opc.toNat = n) (h : r.bin = some o) :
    encBin r.guard n o = { r with e := true } := by
  subst hn
  unfold SRaw.bin at h
  split at h
  all_goals
    next hi =>
      simp only [guardOpt_eq_some, beq_iff_eq] at h
      obtain ⟨hb, rfl⟩ := h
      simp [encBin, sraw, SRaw.guard, hi, hb]

theorem bin_encBin (g : Guard) (n : Nat) (o : SBin) (e : Bool) : ({ encBin g n o with e := e } : SRaw).bin = some o := by
  obtain ⟨gd, ga, b | v⟩ := o <;> simp [encBin, SRaw.bin, sraw]

theorem pbin_encPbin (g : Guard) (n : Nat) (o : PBin) (e : Bool) : ({ encPbin g n o with e := e } : SRaw).pbin = some o :=
  eq_some_of_bind o.pd rfl ((preg_iff _ _).2 rfl) (eq_some_of_bind o.pa rfl ((preg_iff _ _).2 rfl)
    (eq_some_of_bind o.pb rfl ((preg_iff _ _).2 rfl) rfl))

theorem gc_gcAux (r : SRaw) (gc : GReg) (x : Nat) : ({ r with imm := gcAux gc x } : SRaw).gc = gc := by
  simp only [SRaw.gc, gcAux, ← BitVec.toNat_inj, toNat_append_eq, toNat_extractLsb'_eq]
  simp
  omega

theorem fbin_encFbin (g : Guard) (n : Nat) (o : FBin) (gc : GReg) (e : Bool) : ({ encFbin g n o gc with e := e } : SRaw).fbin = some o := by
  obtain ⟨gd, ga, gb, ty, rnd, sat⟩ := o
  have := ty.code_lt
  have := rnd.code_lt
  refine eq_some_of_bind ty rfl ((Ty.ofCode_iff _ _).2 ?_) (eq_some_of_bind rnd rfl ((Rnd.ofCode_iff _ _).2 ?_)
    (eq_some_of_guardOpt rfl ?_ ?_))
  all_goals simp only [encFbin, SRaw.aux, sraw, gcAux, fld, fbit, bits, b2n_eq, toNat_append_eq, toNat_extractLsb'_eq, getLsbD_eq_iff,
    beq_iff_eq, Bool.and_eq_true, FBin.mk.injEq]
  all_goals simp [-BitVec.toNat_ofBool]
  all_goals omega

/-! Decoded, then encoded. -/

theorem encodeS_of_instr (r : SRaw) : EncodesTo encodeS { r with e := true } r.instr := by
  unfold SRaw.instr
  split
  case h_1 | h_2 | h_4 | h_5 | h_6 | h_7 | h_8 | h_9 | h_10 | h_11 | h_12 | h_13 | h_14 | h_15 | h_16 | h_17 | h_18 | h_19 | h_20 | h_21
      | h_22 | h_37 =>  -- the binary forms
    next hopc => exact encodesTo_map.2 fun _ h => congrArg some (encBin_of_bin hopc h)
  all_goals
    obtain ⟨e, opc, p, neg, gd, ga, gb, i, imm⟩ := r
    cases i
  all_goals
    simp only [encodesTo_map, encodesTo_none, encodesTo_guardOpt, encodesTo_bind, encodesTo_ite, encodesTo_some, guardOpt_eq_some,
      Bind.bind, Option.bind_eq_some_iff, Ty.ofCode_iff, Rnd.ofCode_iff, Cond.ofCode_iff, FCond.ofCode_iff, preg_iff, SRaw.un, SRaw.pbin,
      SRaw.fbin, SRaw.gc, SRaw.aux, SRaw.noImm, SRaw.guard, encodeS, encUn, encPbin, encFbin, encDisp, sraw, Option.some.injEq,
      Bool.and_eq_true, beq_iff_eq, Bool.not_eq_true', Bool.false_eq_true, false_implies, true_and, and_true, forall_const, implies_true,
      Bool.not_true, Bool.not_false, forall_exists_index, and_imp] at *
  all_goals
    intros
    subst_vars
    simp only [SRaw.mk.injEq, gcAux, pfield, ← BitVec.toNat_inj, toNat_append_eq, toNat_extractLsb'_eq, toNat_b1_getLsbD, b2n_eq,
      BitVec.toNat_ofNat, true_and, and_true, getLsbD_eq_iff, fbit, fld, bits] at *
    simp [Wd.code_ofCode_mod] at *
  case h_35.true =>  -- `mov.p`, whose bit 4 chooses between two forms
    exact ⟨by intros; omega, by intros; omega⟩
  all_goals omega

/-! Encoded, then decoded. -/

theorem instr_of_encodeS {i : Instr} {r : SRaw} (e : Bool) (h : encodeS i = some r) : ({ r with e := e } : SRaw).instr = some i := by
  cases i <;> cases h
  case add g o | sub g o | mul g o | mulh g o | mulhu g o | div g o | divu g o | rem g o | remu g o | and g o | or g o | xor g o
      | andn g o | shl g o | shr g o | sra g o | rot g o | min g o | max g o | minu g o | maxu g o | winq g o =>
    rcases o with ⟨gd, ga, b | v⟩
    · exact congrArg (Option.map _) (bin_encBin g _ ⟨gd, ga, .reg b⟩ e)
    · exact congrArg (Option.map _) (bin_encBin g _ ⟨gd, ga, .imm v⟩ e)
  case abs | clz | ctz | popc => rfl
  case pand g o | por g o | pxor g o => exact congrArg (Option.map _) (pbin_encPbin g _ o e)
  case fadd g o | fsub g o | fmul g o =>
    exact eq_some_of_ite rfl (beq_iff_eq.2 (gc_gcAux { sraw g 0 with e := e } 0 _)) (congrArg (Option.map _) (fbin_encFbin g _ o 0 e))
  case ffma g o gc =>
    exact eq_some_of_map o rfl (fbin_encFbin g _ o gc e) (congrArg (Instr.ffma g o) (gc_gcAux { sraw g 0 with e := e } gc _))
  case pnot pd pa =>
    exact eq_some_of_bind pd rfl ((preg_iff _ _).2 rfl) (eq_some_of_bind pa rfl ((preg_iff _ _).2 rfl) rfl)
  case pcnt pa | pany pa => exact eq_some_of_bind pa rfl ((preg_iff _ _).2 rfl) rfl
  case psetPredicate pd n =>
    cases n <;> exact eq_some_of_bind pd rfl ((preg_iff _ _).2 rfl) rfl
  -- what is left has conditions on fields to meet
  case' addi | li | lih | lea | br | jmp | call | ret | jr | loop | brq | halt | nop | wfe | sysr | sysw | trap | eret | brk | shget
      | bswap =>
    refine eq_some_of_guardOpt rfl ?_ ?_
    congr 1
  case' bfx pos _ _ | bfi pos _ | fsh pos =>
    cases pos
    all_goals refine eq_some_of_guardOpt rfl ?_ ?_
  case' ld o w _ | st o w =>
    obtain ⟨gd, ga, b | v⟩ := o
    all_goals
      have := w.code_lt
      refine eq_some_of_guardOpt rfl ?_ ?_
  case' cmp pd _ b c =>
    have := c.code_lt
    cases b
    all_goals
      refine eq_some_of_bind pd rfl ((preg_iff _ _).2 rfl) (eq_some_of_bind c rfl ((Cond.ofCode_iff _ _).2 ?_)
        (eq_some_of_guardOpt rfl rfl ?_))
  case' sel o pc neg =>
    obtain ⟨gd, ga, b | v⟩ := o
    case' reg => refine eq_some_of_guardOpt rfl ?_ ?_
    case' imm => refine congrArg some ?_
  case' movpToScalar pa k =>
    refine eq_some_of_ite rfl ?_ (eq_some_of_ite_neg rfl ?_ (eq_some_of_map pa rfl ((preg_iff _ _).2 rfl) ?_))
  case' movpToPredicate pd ga k =>
    refine eq_some_of_ite rfl ?_ (eq_some_of_ite rfl ?_ (eq_some_of_map pd rfl ((preg_iff _ _).2 rfl) ?_))
  case' fcvt d s rnd sat =>
    have := s.code_lt
    have := d.code_lt
    have := rnd.code_lt
    refine eq_some_of_bind s rfl ((Ty.ofCode_iff _ _).2 ?_) (eq_some_of_bind rnd rfl ((Rnd.ofCode_iff _ _).2 ?_)
      (eq_some_of_bind d rfl ((Ty.ofCode_iff _ _).2 ?_) (eq_some_of_guardOpt rfl ?_ ?_)))
  case' fcmp pd _ _ ty c =>
    have := ty.code_lt
    have := c.code_lt
    refine eq_some_of_bind pd rfl ((preg_iff _ _).2 rfl) (eq_some_of_bind ty rfl ((Ty.ofCode_iff _ _).2 ?_)
      (eq_some_of_bind c rfl ((FCond.ofCode_iff _ _).2 ?_) (eq_some_of_guardOpt rfl rfl ?_)))
  case' shset sh f v =>
    cases v
    case' reg => refine eq_some_of_ite rfl ?_ (eq_some_of_ite_neg rfl Bool.false_ne_true (eq_some_of_guardOpt rfl ?_ ?_))
    case' imm => refine eq_some_of_ite rfl ?_ (eq_some_of_ite rfl rfl (eq_some_of_guardOpt rfl ?_ ?_))
  all_goals simp only [Instr.bfx.injEq, Instr.bfi.injEq, Instr.fsh.injEq, Instr.ld.injEq, Instr.st.injEq, Instr.sel.injEq,
    Instr.movpToScalar.injEq, Instr.movpToPredicate.injEq, Instr.fcvt.injEq, Instr.shset.injEq, Amt.imm.injEq, Amt.reg.injEq,
    encDisp, encUn, sraw, SRaw.guard, SRaw.gc, SRaw.aux, SRaw.noImm, gcAux, fld, fbit, bits,
    b2n_eq, ← BitVec.toNat_inj, toNat_append_eq, toNat_extractLsb'_eq, BitVec.toNat_ofNat, getLsbD_eq_iff, beq_iff_eq,
    Bool.and_eq_true, Bool.not_eq_true', true_and, and_true]
  all_goals simp [-BitVec.toNat_ofBool, Wd.ofCode_mod]
  all_goals omega

end Sys2Proof
end

section
/-! PROOFS. Decode and encode agree on V syllables (R22, R41). -/

namespace Sys2Proof

/-! Decoded, then encoded. -/

theorem encVShift_of_shift {r : VRaw} {n : Nat} {o : VShift} (hn : r.opc.toNat = n) (h : r.shift = some o) :
    encVShift r.guard n o = { r with e := true } := by
  subst hn
  obtain ⟨e, opc, p, neg, ty, vd, va, vb, vc, lua, lub, luc, rnd, sat, aux⟩ := r
  obtain ⟨ty', hty, h⟩ := Option.bind_eq_some_iff.1 h
  split at h
  all_goals
    revert h hty
    simp only [guardOpt_eq_some, VRaw.a, VRaw.b, VRaw.noRnd, VRaw.noB, VRaw.noC, Ty.ofCode_iff, Bool.and_eq_true, Bool.not_eq_true',
      beq_iff_eq, and_imp]
    intros
    subst_vars
    simp only [encVShift, encV1, vraw, VRaw.guard, VRaw.mk.injEq, tyField, ← BitVec.toNat_inj, toNat_append_eq, toNat_extractLsb'_eq,
      BitVec.toNat_ofNat, getLsbD_eq_iff, fbit, fld, bits] at *
    simp at *
    omega

theorem encodeV_of_instr (r : VRaw) : EncodesTo encodeV { r with e := true } r.instr := by
  unfold VRaw.instr
  split
  case h_15 | h_16 | h_17 | h_18 =>  -- the shifts
    next hopc => exact encodesTo_map.2 fun _ h => congrArg some (encVShift_of_shift hopc h)
  -- the forms of which a bit chooses the source of an amount, or the direction
  case' h_21 | h_22 => refine encodesTo_bind.2 fun ty hty => encodesTo_ite.2 ⟨fun hb => ?_, fun hb => ?_⟩
  case' h_28 =>
    refine encodesTo_ite.2 ⟨fun hc => encodesTo_ite.2 ⟨fun hb => ?_, fun hb => ?_⟩, fun _ => encodesTo_none⟩
    all_goals revert hc
  all_goals obtain ⟨e, opc, p, neg, ty, vd, va, vb, vc, lua, lub, luc, rnd, sat, aux⟩ := r
  all_goals
    simp only [encodesTo_map, encodesTo_none, encodesTo_guardOpt, encodesTo_bind, guardOpt_eq_some, Bind.bind,
      Option.bind_eq_some_iff, Option.ite_none_right_eq_some, Ty.ofCode_iff, Rnd.ofCode_iff, FCond.ofCode_iff, RedOp.ofCode_iff,
      vpreg_iff, vgreg_iff, VRaw.guard, VRaw.a, VRaw.b, VRaw.c, VRaw.noB, VRaw.noC, VRaw.plain, VRaw.noRnd, VRaw.bin, VRaw.ter, VRaw.un,
      VRaw.un0, VRaw.log, VRaw.move, VRaw.red, encodeV, encVBin, encVTer, encVUn, encVLog, encV1, encVMove, encVRed, vraw,
      Option.some.injEq, Bool.and_eq_true, beq_iff_eq, Bool.not_eq_true', forall_exists_index, and_imp] at *
  all_goals
    intros
    subst_vars
    simp only [VRaw.mk.injEq, tyField, rndField, ← BitVec.toNat_inj, toNat_append_eq, toNat_extractLsb'_eq, toNat_b1_getLsbD,
      BitVec.toNat_ofNat, BitVec.toNat_setWidth, true_and, and_true, getLsbD_eq_iff, fbit, fld, bits] at *
    simp [-BitVec.toNat_ofBool, MxFmt.code_ofCode_mod] at *
  all_goals omega

/-! Encoded, then decoded. -/

theorem ofCode_tyField (t : Ty) : Ty.ofCode (tyField t).toNat = some t := by cases t <;> rfl

theorem ofCode_rndField (t : Rnd) : Rnd.ofCode (rndField t).toNat = some t := by cases t <;> rfl

section Shared
variable (g : Guard) (n : Nat) (e : Bool)

theorem bin_encVBin (o : VBin) : ({ encVBin g n o with e := e } : VRaw).bin = some o :=
  eq_some_of_bind o.ty rfl (ofCode_tyField _) (eq_some_of_bind o.rnd rfl (ofCode_rndField _) rfl)

theorem ter_encVTer (o : VTer) : ({ encVTer g n o with e := e } : VRaw).ter = some o :=
  eq_some_of_bind o.ty rfl (ofCode_tyField _) (eq_some_of_bind o.rnd rfl (ofCode_rndField _) rfl)

theorem un_encVUn (o : VUn) (x : BitVec 13) : ({ encVUn g n o with e := e, aux := x } : VRaw).un = some o :=
  eq_some_of_bind o.ty rfl (ofCode_tyField _) (eq_some_of_bind o.rnd rfl (ofCode_rndField _) rfl)

theorem un0_encVUn (o : VUn) : ({ encVUn g n o with e := e } : VRaw).un0 = some o :=
  eq_some_of_ite rfl rfl (un_encVUn g n e o 0)

theorem shift_encVShift (o : VShift) : ({ encVShift g n o with e := e } : VRaw).shift = some o := by
  obtain ⟨ty, vd, va, v | k⟩ := o
  · refine eq_some_of_bind ty rfl (ofCode_tyField _) (eq_some_of_ite_neg rfl ?_ rfl)
    simp [encVShift, encV1, vraw]
  · refine eq_some_of_bind ty rfl (ofCode_tyField _) (eq_some_of_ite rfl ?_ (eq_some_of_guardOpt rfl ?_ ?_))
    all_goals simp only [encVShift, encV1, vraw, VRaw.noRnd, VRaw.noB, VRaw.noC, VRaw.a, fld, bits, fbit, ← BitVec.toNat_inj,
      toNat_append_eq, toNat_extractLsb'_eq, getLsbD_eq_iff, VShift.mk.injEq, VAmt.imm.injEq, beq_iff_eq, Bool.and_eq_true]
    all_goals simp
    all_goals omega

theorem move_encVMove (o : VMove) : ({ encVMove g n o with e := e } : VRaw).move = some o := by
  obtain ⟨vd, va, k⟩ := o
  refine eq_some_of_guardOpt rfl ?_ ?_
  all_goals simp only [encVMove, encV1, vraw, VRaw.plain, VRaw.noB, VRaw.noC, VRaw.a, fld, bits, ← BitVec.toNat_inj,
    toNat_append_eq, toNat_extractLsb'_eq, VMove.mk.injEq, beq_iff_eq, Bool.and_eq_true]
  all_goals simp
  all_goals omega

theorem red_encVRed (o : VRed) : ({ encVRed g n o with e := e } : VRaw).red = some o := by
  obtain ⟨ty, op, rnd, sat, vd, va⟩ := o
  have := op.code_lt
  refine eq_some_of_bind ty rfl (ofCode_tyField _) (eq_some_of_bind rnd rfl (ofCode_rndField _)
    (eq_some_of_bind op rfl ((RedOp.ofCode_iff _ _).2 ?_) (eq_some_of_guardOpt rfl rfl ?_)))
  all_goals simp only [encVRed, encV1, vraw, VRaw.noB, VRaw.noC, fld, bits, BitVec.toNat_ofNat, beq_iff_eq, Bool.and_eq_true]
  all_goals simp
  all_goals omega

end Shared

theorem toNat_le_of_vbfx_wf {g ty vd va n s len} (hw : WellFormed (.vbfx g ty vd va (.imm n) s len) = true) : n.toNat ≤ 31 :=
  of_decide_eq_true (Bool.and_eq_true_iff.1 (Bool.and_eq_true_iff.1 hw).1).2

/-- The forms that choose by a bit between a register and an immediate, or between two directions. -/
theorem instr_of_encodeV_choice {i : Instr} {r : VRaw} (e : Bool) (h : encodeV i = some r) (hw : WellFormed i = true)
    (hi : match i with | .vbfx .. | .vfsh .. | .vmovpToVector .. | .vmovpToPredicate .. => True | _ => False) :
    ({ r with e := e } : VRaw).instr = some i := by
  cases i <;> cases hi <;> cases h
  case' vbfx ty _ _ pos _ _ =>
    cases pos
    case' vec => refine eq_some_of_bind ty rfl (ofCode_tyField _) (eq_some_of_ite_neg rfl ?_ (eq_some_of_guardOpt rfl ?_ ?_))
    case' imm n =>
      have := toNat_le_of_vbfx_wf hw
      refine eq_some_of_bind ty rfl (ofCode_tyField _) (eq_some_of_ite rfl ?_ (eq_some_of_guardOpt rfl ?_ ?_))
  case' vfsh ty _ _ _ n =>
    cases n
    case' vec => refine eq_some_of_bind ty rfl (ofCode_tyField _) (eq_some_of_ite_neg rfl ?_ (eq_some_of_guardOpt rfl ?_ ?_))
    case' imm => refine eq_some_of_bind ty rfl (ofCode_tyField _) (eq_some_of_ite rfl ?_ (eq_some_of_guardOpt rfl ?_ ?_))
  case' vmovpToPredicate pd va =>
    refine eq_some_of_ite rfl ?_ (eq_some_of_ite rfl ?_ (eq_some_of_map pd rfl ((vpreg_iff _ _).2 rfl) rfl))
  case' vmovpToVector vd pa =>
    refine eq_some_of_ite rfl ?_ (eq_some_of_ite_neg rfl ?_ (eq_some_of_bind pa rfl ((vpreg_iff _ _).2 rfl) rfl))
  all_goals simp only [Instr.vbfx.injEq, Instr.vfsh.injEq, VAmt.imm.injEq, encV1, vraw, VRaw.guard, VRaw.plain, VRaw.noRnd, VRaw.noB,
    VRaw.noC,
    VRaw.a, VRaw.b, VRaw.c, fld, fbit, bits, ← BitVec.toNat_inj, toNat_append_eq, toNat_extractLsb'_eq, BitVec.toNat_ofNat,
    BitVec.toNat_setWidth, getLsbD_eq_iff, beq_iff_eq, Bool.and_eq_true, Bool.not_eq_true', true_and, and_true]
  all_goals simp [-BitVec.toNat_ofBool]
  all_goals omega

/-- The conversions, whose part and format stand in aux. -/
theorem instr_of_encodeV_convert {i : Instr} {r : VRaw} (e : Bool) (h : encodeV i = some r)
    (hi : match i with | .vcvt .. | .vpack .. | .vunpk .. | .vquant .. | .vdeq .. => True | _ => False) :
    ({ r with e := e } : VRaw).instr = some i := by
  cases i <;> cases hi <;> cases h
  case' vpack ty _ _ _ | vunpk ty _ _ _ => refine eq_some_of_bind ty rfl (ofCode_tyField _) (eq_some_of_guardOpt rfl ?_ ?_)
  case' vcvt g o d p =>
    have := d.code_lt
    refine eq_some_of_bind o rfl (un_encVUn g _ e o _) (eq_some_of_bind d rfl ((Ty.ofCode_iff _ _).2 ?_) (eq_some_of_guardOpt rfl ?_ ?_))
  case' vquant fmt _ rnd _ _ _ | vdeq fmt rnd _ _ _ =>
    have := fmt.code_lt
    refine eq_some_of_bind rnd rfl (ofCode_rndField _) (eq_some_of_guardOpt rfl ?_ ?_)
  all_goals simp only [Instr.vpack.injEq, Instr.vunpk.injEq, Instr.vcvt.injEq, Instr.vquant.injEq, Instr.vdeq.injEq, encVUn, encVLog,
    encV1, vraw, VRaw.guard, VRaw.noRnd, VRaw.noB, VRaw.noC,
    VRaw.a, VRaw.b, tyField, fld, fbit, bits, ← BitVec.toNat_inj, toNat_append_eq, toNat_extractLsb'_eq, BitVec.toNat_ofNat,
    getLsbD_eq_iff, beq_iff_eq, Bool.and_eq_true, Bool.not_eq_true', true_and, and_true]
  all_goals simp [-BitVec.toNat_ofBool, MxFmt.ofCode_mod]
  all_goals omega

theorem instr_of_encodeV {i : Instr} {r : VRaw} (e : Bool) (h : encodeV i = some r) (hw : WellFormed i = true) :
    ({ r with e := e } : VRaw).instr = some i := by
  cases i <;> cases h
  case vadd g o | vsub g o | vmul g o | vmin g o | vmax g o => exact congrArg (Option.map _) (bin_encVBin g _ e o)
  case vfma g o | vfms g o | vclamp g o => exact congrArg (Option.map _) (ter_encVTer g _ e o)
  case vabs g o | vneg g o | vpopc g o | vclz g o | vrcp g o | vrsq g o | vsqrt g o | vexp2 g o | vlog2 g o | vtanh g o =>
    exact congrArg (Option.map _) (un0_encVUn g _ e o)
  case vshl g o | vshr g o | vsra g o | vrot g o =>
    rcases o with ⟨ty, vd, va, v | k⟩
    · exact congrArg (Option.map _) (shift_encVShift g _ e ⟨ty, vd, va, .vec v⟩)
    · exact congrArg (Option.map _) (shift_encVShift g _ e ⟨ty, vd, va, .imm k⟩)
  case vrotr g o | vrotc g o | vbcr g o | vbcc g o => exact congrArg (Option.map _) (move_encVMove g _ e o)
  case vredr g o | vredc g o | vscanr g o => exact congrArg (Option.map _) (red_encVRed g _ e o)
  case vand | vor | vxor | vnot | vmov | vpclr | vtrn => rfl
  case vptest pd va => exact eq_some_of_bind pd rfl ((vpreg_iff _ _).2 rfl) rfl
  case vlut ty vd va gb => exact eq_some_of_bind ty rfl (ofCode_tyField _) (eq_some_of_bind gb rfl ((vgreg_iff _ _).2 rfl) rfl)
  case vbcs ty vd ga => exact eq_some_of_bind ty rfl (ofCode_tyField _) (eq_some_of_bind ga rfl ((vgreg_iff _ _).2 rfl) rfl)
  case vbfx | vfsh | vmovpToVector | vmovpToPredicate => exact instr_of_encodeV_choice e rfl hw trivial
  case vcvt | vpack | vunpk | vquant | vdeq => exact instr_of_encodeV_convert e rfl trivial
  case' vsel | vli => refine eq_some_of_guardOpt rfl ?_ ?_
  case' vgath gb sh => refine eq_some_of_bind gb rfl ((vgreg_iff _ _).2 rfl) (eq_some_of_guardOpt rfl ?_ ?_)
  case' vscat gc sh => refine eq_some_of_bind gc rfl ((vgreg_iff _ _).2 rfl) (eq_some_of_guardOpt rfl ?_ ?_)
  case' vcmp ty c pd va vb =>
    have := c.code_lt
    refine eq_some_of_bind ty rfl (ofCode_tyField _) (eq_some_of_bind c rfl ((FCond.ofCode_iff _ _).2 ?_)
      (eq_some_of_bind pd rfl ((vpreg_iff _ _).2 rfl) (eq_some_of_guardOpt rfl rfl ?_)))
  all_goals simp only [Instr.vsel.injEq, Instr.vli.injEq, Instr.vgath.injEq, Instr.vscat.injEq, encVLog, encV1, vraw, VRaw.guard,
    VRaw.plain, VRaw.noRnd, VRaw.noC,
    VRaw.a, VRaw.b, fld, fbit, bits, ← BitVec.toNat_inj, toNat_append_eq, toNat_extractLsb'_eq, BitVec.toNat_ofNat,
    toNat_b1_getLsbD, getLsbD_eq_iff, beq_iff_eq, Bool.and_eq_true, Bool.not_eq_true', true_and, and_true]
  all_goals simp [-BitVec.toNat_ofBool]
  all_goals omega

end Sys2Proof
end

section
/-! PROOFS. Decode and encode agree on M syllables (R23, R42). -/

namespace Sys2Proof

/-! Decoded, then encoded. -/

theorem encodeM_of_instr (r : MRaw) : EncodesTo encodeM { r with e := true } r.instr := by
  unfold MRaw.instr
  split
  case' h_21 =>  -- `wake`, whose unit chooses the fields that are reserved
    refine encodesTo_ite.2 ⟨fun hc => ?_, fun _ => encodesTo_none⟩
    revert hc
    split
  all_goals obtain ⟨e, opc, p, neg, tkw, tks, swap, sh, opa, opb, acc, fmt, mode, aux⟩ := r
  all_goals
    simp only [encodesTo_none, encodesTo_guardOpt, encodesTo_bind, Bind.bind, Rnd.ofCode_iff,
      MmaFmt.ofCode_iff, MmaxFmt.ofCode_iff, MmaaFmt.ofCode_iff, DrainFmt.ofCode_iff, CompKind.ofCode_iff, ClkUnit.ofCode_iff,
      mgreg_iff, MRaw.head, encodeM, mraw, Option.some.injEq, Bool.and_eq_true, decide_eq_true_eq, beq_iff_eq, Bool.not_eq_true',
      and_imp] at *
  all_goals
    intros
    subst_vars
    simp only [MRaw.mk.injEq, rndField, ← BitVec.toNat_inj, toNat_append_eq, toNat_extractLsb'_eq, toNat_b1_getLsbD,
      BitVec.toNat_ofNat, true_and, and_true, getLsbD_eq_iff, fbit, fld, bits] at *
  all_goals simp [-BitVec.toNat_ofBool] at *
  all_goals omega

/-! Encoded, then decoded. -/

theorem vbank_fields (k : BitVec 3) :
    fld (0#10 ++ k ++ 1#2) 1 0 = 1 ∧ fld (0#10 ++ k ++ 1#2) 14 5 = 0 ∧ (0#10 ++ k ++ 1#2).extractLsb' 2 3 = k := by
  simp only [fld, bits, ← BitVec.toNat_inj, toNat_append_eq, toNat_extractLsb'_eq]
  simp
  omega

theorem spbank_fields (k : BitVec 5) :
    fld (0#5 ++ k ++ 0#3 ++ 2#2) 1 0 = 2 ∧ fld (0#5 ++ k ++ 0#3 ++ 2#2) 4 2 = 0 ∧ fld (0#5 ++ k ++ 0#3 ++ 2#2) 14 10 = 0 ∧
      (0#5 ++ k ++ 0#3 ++ 2#2).extractLsb' 5 5 = k := by
  simp only [fld, bits, ← BitVec.toNat_inj, toNat_append_eq, toNat_extractLsb'_eq]
  simp
  omega

theorem instr_of_encodeM_wake {h : MHead} {u : WakeUnit} {r : MRaw} (e : Bool) (hr : encodeM (.wake h u) = some r) :
    ({ r with e := e } : MRaw).instr = some (.wake h u) := by
  cases u <;> simp only [encodeM, Option.some.injEq] at hr <;> subst hr
  case array =>
    have h0 : fld 0#15 1 0 = 0 ∧ fld 0#15 14 2 = 0 := by decide
    simp [MRaw.instr, mraw, MRaw.head, h0]
  case vbank k => simp [MRaw.instr, mraw, MRaw.head, vbank_fields]
  case spbank k => simp [MRaw.instr, mraw, MRaw.head, spbank_fields]

theorem instr_of_encodeM {i : Instr} {r : MRaw} (e : Bool) (h : encodeM i = some r) : ({ r with e := e } : MRaw).instr = some i := by
  cases i <;> cases h
  case' mma f _ _ _ _ =>
    have := f.code_lt
    refine eq_some_of_bind f rfl ((MmaFmt.ofCode_iff _ _).2 ?_) (eq_some_of_guardOpt rfl ?_ ?_)
  case' mmax f _ _ _ _ _ _ =>
    have := f.code_lt
    refine eq_some_of_bind f rfl ((MmaxFmt.ofCode_iff _ _).2 ?_) (eq_some_of_guardOpt rfl ?_ ?_)
  case' mmaa f _ _ _ _ _ _ =>
    have := f.code_lt
    refine eq_some_of_bind f rfl ((MmaaFmt.ofCode_iff _ _).2 ?_) (eq_some_of_guardOpt rfl ?_ ?_)
  case' mdrain f rnd _ _ _ _ _ _ =>
    have := f.code_lt
    have := rnd.code_lt
    refine eq_some_of_bind f rfl ((DrainFmt.ofCode_iff _ _).2 ?_) (eq_some_of_bind rnd rfl ((Rnd.ofCode_iff _ _).2 ?_)
      (eq_some_of_guardOpt rfl ?_ ?_))
  case' copy a b _ _ _ k _ | copyt a b _ _ _ _ _ k _ =>
    have := k.code_lt
    refine eq_some_of_bind a rfl ((mgreg_iff _ _).2 rfl) (eq_some_of_bind b rfl ((mgreg_iff _ _).2 rfl)
      (eq_some_of_bind k rfl ((CompKind.ofCode_iff _ _).2 ?_) (eq_some_of_guardOpt rfl ?_ ?_)))
  case' nlaunch a b _ _ =>
    refine eq_some_of_bind a rfl ((mgreg_iff _ _).2 rfl) (eq_some_of_bind b rfl ((mgreg_iff _ _).2 rfl) (eq_some_of_guardOpt rfl ?_ ?_))
  case psave b | pload b => exact eq_some_of_bind b rfl ((mgreg_iff _ _).2 rfl) rfl
  case unlease | pstart | pstop => rfl
  case' qflush gd => refine eq_some_of_bind gd rfl ((mgreg_iff _ _).2 rfl) (eq_some_of_guardOpt rfl ?_ ?_)
  case' clkdiv u _ =>
    have := u.code_lt
    refine eq_some_of_bind u rfl ((ClkUnit.ofCode_iff _ _).2 ?_) (eq_some_of_guardOpt rfl ?_ ?_)
  case wake => exact instr_of_encodeM_wake e rfl
  case' mmai | mzero | mload | lease | twait | tsig => refine eq_some_of_guardOpt rfl ?_ ?_
  all_goals simp only [Instr.mma.injEq, Instr.mmai.injEq, Instr.mmax.injEq, Instr.mmaa.injEq, Instr.mzero.injEq, Instr.mload.injEq,
    Instr.mdrain.injEq, Instr.lease.injEq, Instr.twait.injEq, Instr.tsig.injEq, Instr.copy.injEq, Instr.copyt.injEq, Instr.nlaunch.injEq,
    Instr.qflush.injEq, Instr.clkdiv.injEq, mraw, MRaw.head, rndField,
    fld, fbit, bits, ← BitVec.toNat_inj, toNat_append_eq, toNat_extractLsb'_eq, BitVec.toNat_ofNat,
    getLsbD_eq_iff, beq_iff_eq, Bool.and_eq_true, Bool.not_eq_true', decide_eq_true_eq, true_and, and_true]
  all_goals simp [-BitVec.toNat_ofBool]
  all_goals omega

end Sys2Proof
end

section
/-! PROOFS. Decode and encode agree on X syllables (R25, R43). -/

namespace Sys2Proof

/-! Decoded, then encoded. -/

theorem encLsrc_of_lsrc {r : XRaw} {v : LSrc} (h : r.lsrc = some v) :
    encLsrc { r with gd := 0, ga := 0, gb := 0, scope := 0, aux := 0 } (r.aux.extractLsb' 0 5) v = r := by
  obtain ⟨e, opc, p, neg, gd, ga, gb, scope, vpl, aux⟩ := r
  simp only [XRaw.lsrc, Option.ite_none_right_eq_some, Bool.and_eq_true, beq_iff_eq] at h
  obtain ⟨⟨⟨rfl, rfl⟩, rfl⟩, h⟩ := h
  split at h
  all_goals
    next hb =>
      obtain ⟨hc, rfl⟩ := guardOpt_eq_some.1 h
      simp only [encLsrc, XRaw.mk.injEq, fbit, fld, bits, getLsbD_eq_iff, beq_iff_eq, ← BitVec.toNat_inj,
        toNat_append_eq, toNat_extractLsb'_eq, true_and] at *
      simp at *
      omega

theorem xraw_guard {r : XRaw} {n : Nat} (h : r.opc.toNat = n) :
    { xraw r.guard n with vpl := r.vpl } = { r with e := true, gd := 0, ga := 0, gb := 0, scope := 0, aux := 0 } := by
  subst h
  simp [xraw, XRaw.guard]

theorem encLsrc_xraw_of_lsrc {r : XRaw} {n : Nat} {v : LSrc} (hn : r.opc.toNat = n) (h : r.lsrc = some v) :
    encLsrc { xraw r.guard n with vpl := r.vpl } (r.aux.extractLsb' 0 5) v = { r with e := true } :=
  (congrArg (encLsrc · _ v) (xraw_guard hn)).trans (encLsrc_of_lsrc (r := { r with e := true }) h)

theorem encodeX_of_instr (r : XRaw) : EncodesTo encodeX { r with e := true } r.instr := by
  unfold XRaw.instr
  split
  case h_3 hopc =>
    refine encodesTo_bind.2 fun k hk => encodesTo_bind.2 fun v hv => encodesTo_some.2 (congrArg some ?_)
    exact (XRaw.entry_iff _ _).1 hk ▸ encLsrc_xraw_of_lsrc hopc hv
  case h_5 hopc => exact encodesTo_map.2 fun v hv => congrArg some (encLsrc_xraw_of_lsrc hopc hv)
  case' h_33 =>  -- the forms of `redf`, which aux<1:0> chooses
    refine encodesTo_ite.2 ⟨fun hc => ?_, fun _ => encodesTo_none⟩
    revert hc
    split
  all_goals obtain ⟨e, opc, p, neg, gd, ga, gb, scope, vpl, aux⟩ := r
  case' h_32 =>
    refine encodesTo_ite.2 ⟨fun hc => encodesTo_ite.2 ⟨fun hb => ?_, fun hb => ?_⟩, fun _ => encodesTo_none⟩
    all_goals revert hc
  case' h_42 =>
    refine encodesTo_guardOpt.2 fun hc => ?_
    simp only [Bool.and_eq_true, Bool.or_eq_true] at hc
    obtain ⟨⟨⟨_, _⟩, _ | _⟩, _⟩ := hc
  all_goals
    simp only [encodesTo_none, encodesTo_guardOpt, encodesTo_bind, encodesTo_map, encodesTo_ite, guardOpt_eq_some, Bind.bind,
      Option.bind_eq_some_iff,
      Option.ite_none_right_eq_some, Scope.ofCode_iff,
      XRaw.entry_iff, XRaw.guard, XRaw.atomic, XRaw.atomic0, XRaw.bar, XRaw.ringGet, XRaw.ringPut, XRaw.rg, encodeX, xraw, encAtomic,
      encRingGet, encRingPut, encRg, Option.some.injEq, Bool.and_eq_true, beq_iff_eq, Bool.not_eq_true', Bool.not_eq_true,
      implies_true, and_true, forall_exists_index, and_imp] at *
  all_goals
    intros
    subst_vars
    simp only [XRaw.mk.injEq, scopeField, ← BitVec.toNat_inj, toNat_append_eq, toNat_extractLsb'_eq, toNat_b1_getLsbD,
      BitVec.toNat_ofNat, true_and, and_true, getLsbD_eq_iff, fbit, fld, bits] at *
  all_goals simp [-BitVec.toNat_ofBool, Wd.code_ofCode_mod, AOrd.code_ofCode_mod] at *
  all_goals omega

/-! Encoded, then decoded. -/

theorem ofCode_scopeField (s : Scope) : Scope.ofCode (scopeField s).toNat = some s := by cases s <;> rfl

theorem lsrc_encLsrc {r : XRaw} (e : Bool) (f : BitVec 5) (v : LSrc) (h : r.gd = 0 ∧ r.gb = 0 ∧ r.scope = 0 ∧ r.ga = 0) :
    ({ encLsrc r f v with e := e } : XRaw).lsrc = some v ∧ (encLsrc r f v).aux.extractLsb' 0 5 = f := by
  obtain ⟨e, opc, p, neg, gd, ga, gb, scope, vpl, aux⟩ := r
  obtain ⟨rfl, rfl, rfl, rfl⟩ := h
  cases v
  case' reg => refine ⟨eq_some_of_ite rfl rfl (eq_some_of_ite_neg rfl ?_ (eq_some_of_guardOpt rfl ?_ ?_)), ?_⟩
  case' imm => refine ⟨eq_some_of_ite rfl rfl (eq_some_of_ite rfl ?_ (eq_some_of_guardOpt rfl ?_ ?_)), ?_⟩
  all_goals simp only [encLsrc, LSrc.imm.injEq, fbit, fld, bits, getLsbD_eq_iff, beq_iff_eq, ← BitVec.toNat_inj, toNat_append_eq,
    toNat_extractLsb'_eq]
  all_goals simp
  all_goals omega

theorem encLsrc_eq (r : XRaw) (f : BitVec 5) (v : LSrc) : ∃ ga aux, encLsrc r f v = { r with ga := ga, aux := aux } := by
  cases v <;> exact ⟨_, _, rfl⟩

section Shared
variable (g : Guard) (n : Nat) (e : Bool)

theorem atomic_encAtomic (o : AForm) (gc : GReg) :
    ({ encAtomic g n o gc with e := e } : XRaw).atomic = some o ∧ (encAtomic g n o gc).aux.extractLsb' 0 5 = gc := by
  obtain ⟨gd, ga, gb, s, ord, d⟩ := o
  have := ord.code_lt
  refine ⟨eq_some_of_bind s rfl (ofCode_scopeField s) (eq_some_of_guardOpt rfl ?_ ?_), ?_⟩
  all_goals simp only [encAtomic, xraw, AForm.mk.injEq, fbit, fld, bits, getLsbD_eq_iff, beq_iff_eq, ← BitVec.toNat_inj, toNat_append_eq,
    toNat_extractLsb'_eq, BitVec.toNat_ofNat, Bool.and_eq_true, Bool.not_eq_true']
  all_goals simp [-BitVec.toNat_ofBool, AOrd.ofCode_mod]
  all_goals omega

theorem atomic0_encAtomic (o : AForm) : ({ encAtomic g n o 0 with e := e } : XRaw).atomic0 = some o := by
  refine eq_some_of_ite rfl ?_ (atomic_encAtomic g n e o 0).1
  simp only [encAtomic, xraw, fld, bits, beq_iff_eq, toNat_append_eq]
  simp

theorem ringGet_encRingGet (o : RingGet) (x : BitVec 24) : ({ encRingGet g n o with e := e, aux := x } : XRaw).ringGet = some o :=
  eq_some_of_bind o.ring rfl ((XRaw.entry_iff _ _).2 rfl) rfl

theorem ringPut_encRingPut (o : RingPut) : ({ encRingPut g n o with e := e } : XRaw).ringPut = some o :=
  eq_some_of_bind o.ring rfl ((XRaw.entry_iff _ _).2 rfl) rfl

theorem bar_append (r : XRaw) (b : BitVec 7) (h : r.vpl = 0) : ({ r with aux := 0#17 ++ b } : XRaw).bar = some b := by
  refine eq_some_of_guardOpt rfl ?_ ?_
  all_goals simp only [h, fld, bits, beq_iff_eq, ← BitVec.toNat_inj, toNat_append_eq, toNat_extractLsb'_eq, Bool.and_eq_true]
  all_goals simp
  all_goals omega

end Shared

theorem instr_of_encodeX_redx {g : Guard} {ga : GReg} {c : RedSrc} {r : XRaw} (e : Bool) (h : encodeX (.redx g ga c) = some r) :
    ({ r with e := e } : XRaw).instr = some (.redx g ga c) := by
  cases c <;> simp only [encodeX, Option.some.injEq] at h <;> subst h
  case' scalar => refine eq_some_of_ite rfl ?_ (eq_some_of_ite_neg rfl ?_ (eq_some_of_guardOpt rfl ?_ ?_))
  case' vector => refine eq_some_of_ite rfl ?_ (eq_some_of_ite rfl ?_ (eq_some_of_guardOpt rfl rfl ?_))
  all_goals simp only [Instr.redx.injEq, RedSrc.scalar.injEq, xraw, XRaw.guard, fld, fbit, bits, ← BitVec.toNat_inj,
    toNat_append_eq, toNat_extractLsb'_eq, getLsbD_eq_iff, beq_iff_eq, Bool.and_eq_true, true_and]
  all_goals simp
  all_goals omega

theorem redfOpen_fields (a : BitVec 9) :
    fld (0#12 ++ a ++ 0#3) 23 12 = 0 ∧ fld (0#12 ++ a ++ 0#3) 1 0 = 0 ∧ fbit (0#12 ++ a ++ 0#3) 2 = false ∧
      (0#12 ++ a ++ 0#3).extractLsb' 3 9 = a := by
  simp only [fld, fbit, bits, getLsbD_eq_iff, ← BitVec.toNat_inj, toNat_append_eq, toNat_extractLsb'_eq]
  simp
  omega

theorem redf_fields (bf : Bool) :
    fld (0#21 ++ b1 bf ++ 1#2) 23 12 = 0 ∧ fld (0#21 ++ b1 bf ++ 1#2) 1 0 = 1 ∧ fld (0#21 ++ b1 bf ++ 1#2) 11 3 = 0 ∧ fbit (0#21 ++ b1 bf ++ 1#2) 2 = bf ∧
    fld (0#21 ++ b1 bf ++ 2#2) 23 12 = 0 ∧ fld (0#21 ++ b1 bf ++ 2#2) 1 0 = 2 ∧ fld (0#21 ++ b1 bf ++ 2#2) 11 3 = 0 ∧ fbit (0#21 ++ b1 bf ++ 2#2) 2 = bf := by
  revert bf
  decide

theorem redfSt_fields : fld 3#24 23 12 = 0 ∧ fld 3#24 1 0 = 3 ∧ fld 3#24 11 2 = 0 := by decide

theorem instr_of_encodeX_redf {i : Instr} {r : XRaw} (e : Bool) (h : encodeX i = some r)
    (hi : match i with | .redfOpen .. | .redfRd .. | .redfFin .. | .redfSt .. => True | _ => False) :
    ({ r with e := e } : XRaw).instr = some i := by
  cases i <;> cases hi <;> cases h
  all_goals simp [XRaw.instr, xraw, XRaw.guard, redfOpen_fields, redf_fields, redfSt_fields, -BitVec.getLsbD_eq_getElem]

theorem instr_of_encodeX {i : Instr} {r : XRaw} (e : Bool) (h : encodeX i = some r) : ({ r with e := e } : XRaw).instr = some i := by
  cases i <;> cases h
  case aadd g o | aand g o | aor g o | axor g o | amin g o | amax g o | aminu g o | amaxu g o | axchg g o | afadd g o =>
    exact congrArg (Option.map _) (atomic0_encAtomic g _ e o)
  case acas g o gc =>
    exact eq_some_of_map o rfl (atomic_encAtomic g _ e o gc).1 (congrArg (Instr.acas g o) (atomic_encAtomic g 0x29 e o gc).2)
  case rclaim g o | rwaitf g o | rwaite g o => exact congrArg (Option.map _) (ringGet_encRingGet g _ e o 0)
  case rpub g o | rrel g o => exact congrArg (Option.map _) (ringPut_encRingPut g _ e o)
  case rgsplit | rgmerge => rfl
  case qrew | mark | rgfill | spwake | launch => rfl
  case sems s _ _ | fence s => exact eq_some_of_bind s rfl (ofCode_scopeField s) rfl
  case bset b _ _ => exact eq_some_of_bind b rfl (bar_append _ b rfl) rfl
  case barr s b _ | bwait s _ b _ | barw s _ b _ =>
    exact eq_some_of_bind b rfl (bar_append _ b rfl) (eq_some_of_bind s rfl (ofCode_scopeField s) rfl)
  case lset g k f v =>
    obtain ⟨hv, hf⟩ := lsrc_encLsrc (r := { xraw g 0x08 with vpl := 0#1 ++ k }) e f v ⟨rfl, rfl, rfl, rfl⟩
    obtain ⟨ga, aux, hr⟩ := encLsrc_eq { xraw g 0x08 with vpl := 0#1 ++ k } f v
    rw [hr] at hv hf ⊢
    exact eq_some_of_bind k rfl ((XRaw.entry_iff _ _).2 rfl) (eq_some_of_bind v rfl hv (congrArg (fun f => some (Instr.lset g k f v)) hf))
  case psetPattern g q f v =>
    obtain ⟨hv, hf⟩ := lsrc_encLsrc (r := { xraw g 0x0A with vpl := q }) e f v ⟨rfl, rfl, rfl, rfl⟩
    obtain ⟨ga, aux, hr⟩ := encLsrc_eq { xraw g 0x0A with vpl := q } f v
    rw [hr] at hv hf ⊢
    exact eq_some_of_map v rfl hv (congrArg (fun f => Instr.psetPattern g q f v) hf)
  case redx g ga c => exact instr_of_encodeX_redx e rfl
  case redfOpen | redfRd | redfFin | redfSt => exact instr_of_encodeX_redf e rfl trivial
  case' lget g gd k f => refine eq_some_of_bind k rfl ((XRaw.entry_iff _ _).2 rfl) (eq_some_of_guardOpt rfl ?_ ?_)
  case' rinit g k _ _ _ => refine eq_some_of_bind k rfl ((XRaw.entry_iff _ _).2 rfl) (eq_some_of_guardOpt rfl ?_ ?_)
  case' rstat g o w => refine eq_some_of_ite rfl ?_ (eq_some_of_map o rfl (ringGet_encRingGet g _ e o _) ?_)
  case' rgpin g o un => refine eq_some_of_ite rfl ?_ (eq_some_of_map o rfl rfl ?_)
  case' semw s _ _ _ _ => refine eq_some_of_bind s rfl (ofCode_scopeField s) (eq_some_of_guardOpt rfl ?_ ?_)
  case' acas2 s ord =>
    have := ord.code_lt
    refine eq_some_of_bind s rfl (ofCode_scopeField s) (eq_some_of_guardOpt rfl ?_ ?_)
  case' ldacq s _ _ _ w _ | strel s _ _ _ w =>
    have := w.code_lt
    refine eq_some_of_bind s rfl (ofCode_scopeField s) (eq_some_of_guardOpt rfl ?_ ?_)
  case' vst va _ _ _ =>
    obtain ⟨o, lu⟩ := va
    refine eq_some_of_guardOpt rfl ?_ ?_
  case' vld | qstat | bstat | rgprobe | bankoff | spdrop | node => refine eq_some_of_guardOpt rfl ?_ ?_
  case' rginv dv _ _ _ =>
    cases dv
    all_goals refine eq_some_of_guardOpt rfl ?_ ?_
  all_goals simp only [Instr.lget.injEq, Instr.vld.injEq, Instr.vst.injEq, Instr.qstat.injEq, Instr.bstat.injEq, Instr.rgprobe.injEq,
    Instr.bankoff.injEq, Instr.spdrop.injEq, Instr.node.injEq, Instr.rginv.injEq, Instr.rinit.injEq,
    Instr.rstat.injEq, Instr.rgpin.injEq, Instr.semw.injEq, Instr.acas2.injEq, Instr.ldacq.injEq, Instr.strel.injEq, VSrc.mk.injEq,
    xraw, XRaw.guard, encRingGet, encRg,
    fld, fbit, bits, ← BitVec.toNat_inj, toNat_append_eq, toNat_extractLsb'_eq, BitVec.toNat_ofNat,
    getLsbD_eq_iff, beq_iff_eq, Bool.and_eq_true, Bool.not_eq_true', true_and, and_true]
  all_goals simp [-BitVec.toNat_ofBool, Wd.ofCode_mod, AOrd.ofCode_mod]
  all_goals omega

end Sys2Proof
end

section
/-! PROOFS. Whole syllables: the raw fields and the word of each class determine each other (R13, R21 to R25), and one class encodes an
instruction. -/

namespace Sys2Proof

/-! Fields and words. -/

theorem SRaw.ofWord_toWord (r : SRaw) : ofWord r.toWord = r := by
  obtain ⟨e, opc, p, neg, gd, ga, gb, i, imm⟩ := r
  simp only [toWord, ofWord, SRaw.mk.injEq, ← BitVec.toNat_inj, toNat_append_eq, toNat_extractLsb'_eq, getLsbD_eq_iff]
  simp [-BitVec.toNat_ofBool]
  omega

theorem VRaw.ofWord_toWord (r : VRaw) : ofWord r.toWord = r := by
  obtain ⟨e, opc, p, neg, ty, vd, va, vb, vc, lua, lub, luc, rnd, sat, aux⟩ := r
  simp only [toWord, ofWord, VRaw.mk.injEq, ← BitVec.toNat_inj, toNat_append_eq, toNat_extractLsb'_eq, getLsbD_eq_iff]
  simp [-BitVec.toNat_ofBool]
  omega

theorem MRaw.ofWord_toWord (r : MRaw) : ofWord r.toWord = r := by
  obtain ⟨e, opc, p, neg, tkw, tks, swap, sh, opa, opb, acc, fmt, mode, aux⟩ := r
  simp only [toWord, ofWord, MRaw.mk.injEq, ← BitVec.toNat_inj, toNat_append_eq, toNat_extractLsb'_eq, getLsbD_eq_iff]
  simp [-BitVec.toNat_ofBool]
  omega

theorem XRaw.ofWord_toWord (r : XRaw) : ofWord r.toWord = r := by
  obtain ⟨e, opc, p, neg, gd, ga, gb, scope, vpl, aux⟩ := r
  simp only [toWord, ofWord, XRaw.mk.injEq, ← BitVec.toNat_inj, toNat_append_eq, toNat_extractLsb'_eq, getLsbD_eq_iff]
  simp [-BitVec.toNat_ofBool]
  omega

/-! A word is put together again from its class and fields, the highest first. -/

theorem div_pow_append (x s l : Nat) : x / 2 ^ (s + l) * 2 ^ l + x / 2 ^ s % 2 ^ l = x / 2 ^ s := by
  rw [Nat.pow_add, ← Nat.div_div_eq_div_mul, Nat.div_add_mod']

theorem div_pow_append_bit (x s : Nat) : x / 2 ^ (s + 1) * 2 ^ 1 + x / 2 ^ s % 2 = x / 2 ^ s := div_pow_append x s 1

theorem end_append_class {w : Word} {k : Nat} (h : syllClass w = k) : w.toNat / 2 ^ 63 % 2 * 2 ^ 2 + k = w.toNat / 2 ^ 61 := by
  rw [syllClass, toNat_extractLsb'_eq] at h
  omega

theorem SRaw.toWord_ofWord {w : Word} (h : syllClass w = 0) : (ofWord w).toWord = w := by
  have hc : w.toNat / 2 ^ 63 % 2 * 2 ^ 2 + (BitVec.toNat 0#2) = w.toNat / 2 ^ 61 := end_append_class h
  simp only [toWord, ofWord, ← BitVec.toNat_inj, toNat_append_eq, toNat_extractLsb'_eq, toNat_b1_getLsbD, hc]
  rw [div_pow_append _ 53 8, div_pow_append _ 49 4, div_pow_append_bit _ 48, div_pow_append _ 43 5, div_pow_append _ 38 5,
    div_pow_append _ 33 5, div_pow_append_bit _ 32, div_pow_append _ 0 32]
  exact Nat.div_one _

theorem VRaw.toWord_ofWord {w : Word} (h : syllClass w = 1) : (ofWord w).toWord = w := by
  have hc : w.toNat / 2 ^ 63 % 2 * 2 ^ 2 + (BitVec.toNat 1#2) = w.toNat / 2 ^ 61 := end_append_class h
  simp only [toWord, ofWord, ← BitVec.toNat_inj, toNat_append_eq, toNat_extractLsb'_eq, toNat_b1_getLsbD, hc]
  rw [div_pow_append _ 53 8, div_pow_append _ 49 4, div_pow_append_bit _ 48, div_pow_append _ 44 4, div_pow_append _ 38 6,
    div_pow_append _ 32 6, div_pow_append _ 26 6, div_pow_append _ 20 6, div_pow_append_bit _ 19, div_pow_append_bit _ 18,
    div_pow_append_bit _ 17, div_pow_append _ 14 3, div_pow_append_bit _ 13, div_pow_append _ 0 13]
  exact Nat.div_one _

theorem MRaw.toWord_ofWord {w : Word} (h : syllClass w = 2) : (ofWord w).toWord = w := by
  have hc : w.toNat / 2 ^ 63 % 2 * 2 ^ 2 + (BitVec.toNat 2#2) = w.toNat / 2 ^ 61 := end_append_class h
  simp only [toWord, ofWord, ← BitVec.toNat_inj, toNat_append_eq, toNat_extractLsb'_eq, toNat_b1_getLsbD, hc]
  rw [div_pow_append _ 55 6, div_pow_append _ 51 4, div_pow_append_bit _ 50, div_pow_append _ 46 4, div_pow_append _ 42 4,
    div_pow_append_bit _ 41, div_pow_append _ 39 2, div_pow_append _ 33 6, div_pow_append _ 27 6, div_pow_append _ 23 4,
    div_pow_append _ 19 4, div_pow_append _ 15 4, div_pow_append _ 0 15]
  exact Nat.div_one _

theorem XRaw.toWord_ofWord {w : Word} (h : syllClass w = 3) : (ofWord w).toWord = w := by
  have hc : w.toNat / 2 ^ 63 % 2 * 2 ^ 2 + (BitVec.toNat 3#2) = w.toNat / 2 ^ 61 := end_append_class h
  simp only [toWord, ofWord, ← BitVec.toNat_inj, toNat_append_eq, toNat_extractLsb'_eq, toNat_b1_getLsbD, hc]
  rw [div_pow_append _ 53 8, div_pow_append _ 49 4, div_pow_append_bit _ 48, div_pow_append _ 43 5, div_pow_append _ 38 5,
    div_pow_append _ 33 5, div_pow_append _ 30 3, div_pow_append _ 24 6, div_pow_append _ 0 24]
  exact Nat.div_one _

theorem syllClass_lt (w : Word) : syllClass w < 4 := (w.extractLsb' 61 2).isLt

theorem SRaw.syllClass_toWord (r : SRaw) : syllClass r.toWord = 0 := by
  simp only [syllClass, toWord, toNat_append_eq, toNat_extractLsb'_eq]
  simp [-BitVec.toNat_ofBool]
  omega

theorem VRaw.syllClass_toWord (r : VRaw) : syllClass r.toWord = 1 := by
  simp only [syllClass, toWord, toNat_append_eq, toNat_extractLsb'_eq]
  simp [-BitVec.toNat_ofBool]
  omega

theorem MRaw.syllClass_toWord (r : MRaw) : syllClass r.toWord = 2 := by
  simp only [syllClass, toWord, toNat_append_eq, toNat_extractLsb'_eq]
  simp [-BitVec.toNat_ofBool]
  omega

theorem XRaw.syllClass_toWord (r : XRaw) : syllClass r.toWord = 3 := by
  simp only [syllClass, toWord, toNat_append_eq, toNat_extractLsb'_eq]
  simp [-BitVec.toNat_ofBool]
  omega

/-! The end bit is a field of every class. -/

theorem SRaw.syllEnd_toWord (r : SRaw) : syllEnd r.toWord = r.e := congrArg SRaw.e r.ofWord_toWord
theorem VRaw.syllEnd_toWord (r : VRaw) : syllEnd r.toWord = r.e := congrArg VRaw.e r.ofWord_toWord
theorem MRaw.syllEnd_toWord (r : MRaw) : syllEnd r.toWord = r.e := congrArg MRaw.e r.ofWord_toWord
theorem XRaw.syllEnd_toWord (r : XRaw) : syllEnd r.toWord = r.e := congrArg XRaw.e r.ofWord_toWord

/-! One class encodes an instruction, and one does where the instruction has a guard. -/

theorem encodeS_eq_none_of_V {i : Instr} {r : VRaw} (h : encodeV i = some r) : encodeS i = none := by
  cases i <;> cases h <;> rfl

theorem encodeSV_eq_none_of_M {i : Instr} {r : MRaw} (h : encodeM i = some r) : encodeS i = none ∧ encodeV i = none := by
  cases i <;> cases h <;> exact ⟨rfl, rfl⟩

theorem encodeSVM_eq_none_of_X {i : Instr} {r : XRaw} (h : encodeX i = some r) : encodeS i = none ∧ encodeV i = none ∧ encodeM i = none := by
  cases i <;> cases h <;> exact ⟨rfl, rfl, rfl⟩

theorem isSome_guardOf (i : Instr) :
    (Machine.guardOf i).isSome = ((encodeS i).isSome || (encodeV i).isSome || (encodeM i).isSome || (encodeX i).isSome) := by
  cases i <;> rfl

theorem encodeSyllable_ne_none {i : Instr} (h : Machine.guardOf i ≠ none) (e : Bool) : encodeSyllable e i ≠ none := by
  have hi := isSome_guardOf i
  rw [Option.isSome_iff_ne_none.2 h] at hi
  intro hn
  unfold encodeSyllable at hn
  split at hn
  · cases hn
  split at hn
  · cases hn
  split at hn
  · cases hn
  simp_all

/-! Encoded syllables decode, and a syllable that decodes is the encoding of what it decodes to. -/

theorem rawInstr_of_encodeSyllable {e : Bool} {i : Instr} {w : Word} (hw : WellFormed i = true) (h : encodeSyllable e i = some w) :
    rawInstr w = some i ∧ syllEnd w = e := by
  unfold encodeSyllable at h
  split at h
  next hr =>
    obtain rfl := Option.some.inj h
    exact ⟨by simp only [rawInstr, SRaw.syllClass_toWord, SRaw.ofWord_toWord, instr_of_encodeS e hr], SRaw.syllEnd_toWord _⟩
  split at h
  next hr =>
    obtain rfl := Option.some.inj h
    exact ⟨by simp only [rawInstr, VRaw.syllClass_toWord, VRaw.ofWord_toWord, instr_of_encodeV e hr hw], VRaw.syllEnd_toWord _⟩
  split at h
  next hr =>
    obtain rfl := Option.some.inj h
    exact ⟨by simp only [rawInstr, MRaw.syllClass_toWord, MRaw.ofWord_toWord, instr_of_encodeM e hr], MRaw.syllEnd_toWord _⟩
  obtain ⟨r, hr, rfl⟩ := Option.map_eq_some_iff.1 h
  exact ⟨by simp only [rawInstr, XRaw.syllClass_toWord, XRaw.ofWord_toWord, instr_of_encodeX e hr], XRaw.syllEnd_toWord _⟩

theorem encodeSyllable_of_rawInstr {w : Word} {i : Instr} (h : rawInstr w = some i) : encodeSyllable (syllEnd w) i = some w := by
  unfold rawInstr at h
  split at h
  next hc =>
    simp only [encodeSyllable, encodeS_of_instr _ i h]
    exact congrArg some (SRaw.toWord_ofWord hc)
  next hc =>
    have hr := encodeV_of_instr _ i h
    simp only [encodeSyllable, encodeS_eq_none_of_V hr, hr]
    exact congrArg some (VRaw.toWord_ofWord hc)
  next hc =>
    have hr := encodeM_of_instr _ i h
    simp only [encodeSyllable, encodeSV_eq_none_of_M hr, hr]
    exact congrArg some (MRaw.toWord_ofWord hc)
  next h0 h1 h2 =>
    have hr := encodeX_of_instr _ i h
    have hc : syllClass w = 3 := by
      have := syllClass_lt w
      grind
    simp only [encodeSyllable, encodeSVM_eq_none_of_X hr, hr]
    exact congrArg some (XRaw.toWord_ofWord hc)

theorem decodeSyllable_eq_ok (w : Word) (i : Instr) : decodeSyllable w = .ok i ↔ rawInstr w = some i ∧ WellFormed i = true := by
  unfold decodeSyllable
  cases rawInstr w with
  | none => simp
  | some j =>
    by_cases hne : j = i
    · subst hne
      cases hc : opcodeOk j <;> cases ho : operandOk j <;> simp [WellFormed, hc, ho]
    · cases hc : opcodeOk j <;> cases ho : operandOk j <;> simp [hc, ho, hne]

end Sys2Proof
end

section
/-! PROOFS. Near-memory words decode to what they encode (R30, R44, R239 to R250), and with the syllables decode and encode agree. -/

namespace Sys2Proof

/-! Words with bit 15 clear, `litx` apart. -/

theorem nmw_fields (o : Nat) (x : BitVec 10) (ho : o < 32) :
    (nmw o x).getLsbD 15 = false ∧ fld (nmw o x) 15 10 = o ∧ (nmw o x).extractLsb' 0 10 = x := by
  simp only [nmw, fld, bits, getLsbD_eq_iff, ← BitVec.toNat_inj, toNat_append_eq, toNat_extractLsb'_eq, BitVec.toNat_ofNat]
  simp
  omega

theorem decodeNm_nmw {o : Nat} {x : BitVec 10} {i : Instr} (ws : List NmWord) (ho : o < 32) (h1 : o ≠ 1) (hp : nmPlain (nmw o x) = some i)
    (hi : opcodeOk i = true) : decodeNm (nmw o x :: ws) = some (i, ws) := by
  obtain ⟨h15, hop, -⟩ := nmw_fields o x ho
  simp [decodeNm, h15, hop, h1, hp, hi, -BitVec.getLsbD_eq_getElem]

/-! What the operands of a word are read as. -/

theorem operand_imm (v : BitVec 9) : fbit (1#1 ++ v) 9 = true ∧ (1#1 ++ v).extractLsb' 0 9 = v := by
  simp only [fbit, getLsbD_eq_iff, ← BitVec.toNat_inj, toNat_append_eq, toNat_extractLsb'_eq]
  simp
  omega

theorem operand_size (s : BitVec 2) :
    fld (0#8 ++ s) 8 2 = 0 ∧ fbit (0#8 ++ s) 9 = false ∧ (0#8 ++ s).extractLsb' 0 2 = s ∧
    fld (1#1 ++ 0#7 ++ s) 8 2 = 0 ∧ fbit (1#1 ++ 0#7 ++ s) 9 = true ∧ (1#1 ++ 0#7 ++ s).extractLsb' 0 2 = s := by
  revert s
  decide

theorem operand_racc (t : BitVec 2) (one : Bool) :
    fld (0#7 ++ b1 one ++ t) 9 3 = 0 ∧ fbit (0#7 ++ b1 one ++ t) 2 = one ∧ (0#7 ++ b1 one ++ t).extractLsb' 0 2 = t := by
  revert t one
  decide

theorem operand_rfin (bf keep : Bool) :
    fld (0#8 ++ b1 keep ++ b1 bf) 9 2 = 0 ∧ fbit (0#8 ++ b1 keep ++ b1 bf) 0 = bf ∧ fbit (0#8 ++ b1 keep ++ b1 bf) 1 = keep := by
  revert bf keep
  decide

theorem operand_semw (eq : Bool) : fld (0#9 ++ b1 eq) 9 1 = 0 ∧ fbit (0#9 ++ b1 eq) 0 = eq := by
  revert eq
  decide

theorem operand_mvx (o : MvxForm) (x : BitVec 10) (hx : x = b1 o.sat ++ 0#1 ++ b1 o.vi8 ++ b1 o.acc ++ b1 o.exp ++ o.b ++ o.wf) :
    fbit x 8 = false ∧ (⟨fbit x 9, fbit x 7, fbit x 6, fbit x 5, x.extractLsb' 3 2, x.extractLsb' 0 3⟩ : MvxForm) = o := by
  subst hx
  obtain ⟨sat, vi8, acc, exp, b, wf⟩ := o
  simp only [fbit, getLsbD_eq_iff, MvxForm.mk.injEq, ← BitVec.toNat_inj, toNat_append_eq, toNat_extractLsb'_eq]
  simp [-BitVec.toNat_ofBool]
  omega

/-! `lit` and `litx`. -/

theorem decodeNm_lit (v : BitVec 15) (ws : List NmWord) : decodeNm ((1#1 ++ v) :: ws) = some (.lit v, ws) := by
  have hv : (1#1 ++ v : NmWord).getLsbD 15 = true ∧ (1#1 ++ v : NmWord).extractLsb' 0 15 = v := by
    simp only [getLsbD_eq_iff, ← BitVec.toNat_inj, toNat_append_eq, toNat_extractLsb'_eq]
    simp
    omega
  simp [decodeNm, hv, -BitVec.getLsbD_eq_getElem]

theorem litx_operand (n : BitVec 2) (x : Bool) :
    fld (nmw 1 (0#7 ++ b1 x ++ n)) 9 3 = 0 ∧ (nmw 1 (0#7 ++ b1 x ++ n)).extractLsb' 0 2 = n ∧ (nmw 1 (0#7 ++ b1 x ++ n)).getLsbD 2 = x := by
  revert n x
  decide

theorem nmValue_litx (n : BitVec 2) (v : BitVec 64) (h : v.toNat < 2 ^ (16 * (n.toNat + 1))) :
    nmValue ([v.extractLsb' 0 16, v.extractLsb' 16 16, v.extractLsb' 32 16, v.extractLsb' 48 16].take (n.toNat + 1)) = v.toNat := by
  have hn : n.toNat < 4 := n.isLt
  generalize n.toNat = k at h hn
  obtain rfl | rfl | rfl | rfl : k = 0 ∨ k = 1 ∨ k = 2 ∨ k = 3 := by omega
  all_goals
    simp only [List.take, nmValue, toNat_extractLsb'_eq] at *
    omega

theorem length_litx {α : Type} (a b c d : α) (n : BitVec 2) : ([a, b, c, d].take (n.toNat + 1)).length = n.toNat + 1 := by
  have := n.isLt
  rw [List.length_take, Nat.min_eq_left]
  show n.toNat + 1 ≤ 4
  omega

theorem decodeNm_litx_append {w : NmWord} {n : BitVec 2} {x : Bool} {l : List NmWord} (ws : List NmWord)
    (h15 : w.getLsbD 15 = false) (hop : fld w 15 10 = 1) (hz : fld w 9 3 = 0) (hn : w.extractLsb' 0 2 = n) (hx : w.getLsbD 2 = x)
    (hlen : l.length = n.toNat + 1) : decodeNm (w :: l ++ ws) = some (.litx n x (BitVec.ofNat 64 (nmValue l)), ws) := by
  simp only [decodeNm, List.cons_append, h15, hop, hz, hn, hx]
  simp [List.take_left' hlen, List.drop_left' hlen, hlen]

theorem decodeNm_litx (n : BitVec 2) (x : Bool) (v : BitVec 64) (ws : List NmWord) (h : v.toNat < 2 ^ (16 * (n.toNat + 1))) :
    decodeNm (encodeNm (.litx n x v) ++ ws) = some (.litx n x v, ws) := by
  obtain ⟨h15, hop, -⟩ := nmw_fields 1 (0#7 ++ b1 x ++ n) (by decide)
  obtain ⟨hz, hn, hx⟩ := litx_operand n x
  refine (decodeNm_litx_append ws h15 hop hz hn hx (length_litx _ _ _ _ n)).trans ?_
  rw [nmValue_litx n v h, BitVec.ofNat_toNat, BitVec.setWidth_eq]

theorem toNat_lt_of_litx_ok {n : BitVec 2} {x : Bool} {v : BitVec 64} (h : opcodeOk (.litx n x v) = true) :
    v.toNat < 2 ^ (16 * (n.toNat + 1)) := by
  have h : decide (v.toNat < 2 ^ (16 * (n.toNat + 1))) = true := h
  exact of_decide_eq_true h

theorem decodeNm_encodeNm {i : Instr} (ws : List NmWord) (hw : WellFormed i = true) (h : encodeNm i ≠ []) :
    decodeNm (encodeNm i ++ ws) = some (i, ws) := by
  have hi : opcodeOk i = true := (Bool.and_eq_true_iff.1 hw).1
  cases i
  case lit v => exact decodeNm_lit v ws
  case litx n x v => exact decodeNm_litx n x v ws (toNat_lt_of_litx_ok hi)
  case dup | drop | swap | nmOver | nmAdd | nmSub | nmAnd | nmShl | mvwait | red | vin | vout | rowclaim | rowrel | nmSems | nmFence | next
      | nmEnd | nmNop =>
    exact decodeNm_nmw ws (by decide) (by decide) rfl hi
  case mvx o =>
    obtain ⟨h8, ho⟩ := operand_mvx o _ rfl
    refine decodeNm_nmw ws (by decide) (by decide) ?_ hi
    simp only [nmPlain, nmw_fields, Nat.reduceLT, h8, ho]
    rfl
  case' nmAddImm | nmSubImm | nmAndImm | nmShlImm | nmLdWs | nmLdMem | nmStWs | nmStMem | racc | rfin | nmSemw | nmLoop | nmBr | nmJmp
      | nmTrap =>
    refine decodeNm_nmw ws (by decide) (by decide) ?_ hi
    simp only [nmPlain, nmw_fields, Nat.reduceLT, operand_imm, operand_size, operand_racc, operand_rfin, operand_semw, ite_true,
      ite_false, Bool.false_eq_true]
  case nmLdWs | nmLdMem | nmStWs | nmStMem | racc | rfin | nmSemw => rfl
  all_goals exact absurd rfl h

end Sys2Proof

namespace Sys2Proof.Machine

/-- Settles O56: class by class the fields a syllable is encoded with are those it is decoded to, and the other way round. -/
theorem decodeEncodeAgree : Obligations.DecodeEncodeAgree := by
  refine ⟨fun e i w hw h => ?_, fun i h e => encodeSyllable_ne_none h e, fun w i h => ?_, fun i ws hw h => decodeNm_encodeNm ws hw h⟩
  · obtain ⟨hi, he⟩ := rawInstr_of_encodeSyllable hw h
    exact ⟨(decodeSyllable_eq_ok w i).2 ⟨hi, hw⟩, he⟩
  · obtain ⟨hi, hw⟩ := (decodeSyllable_eq_ok w i).1 h
    exact ⟨encodeSyllable_of_rawInstr hi, hw⟩

end Sys2Proof.Machine
end

section
/-! PROOFS. A syllable that is ready is finished with what its effect comes to (R18, R19, R290). -/

namespace Sys2Proof.Machine

section Ready
variable {s u : State} {g : Guard} {ds : Strand → List Dst} {k : Strand → Res} {i : Instr} {p : Bool}

theorem exec_of_ready (hi : exec i s = syllable s p g ds k) (hp : p = false ∨ s.me.sys.priv = true) (h : Ready s g (ds s.me)) :
    exec i s = finish (k s.me) :=
  hi.trans (syllable_ready p hp h)

theorem issuesAt_of_ready (hi : exec i s = syllable s false g ds k) (h : Ready s g (ds s.me)) (hk : k s.me = .ok u) : IssuesAt i s u := by
  rw [IssuesAt, exec_of_ready hi (.inl rfl) h, hk]
  rfl

theorem issues_of_ready {t : Strand} (hi : exec i s = syllable s false g ds k) (h : Ready s g (ds s.me)) (hk : k s.me = .ok (s.setMe t)) :
    Issues i s t :=
  issuesAt_of_ready hi h hk

theorem holdsAt_of_ready (hi : exec i s = syllable s false g ds k) (h : Ready s g (ds s.me)) (hk : k s.me = .hold u) : HoldsAt i s u := by
  rw [HoldsAt, exec_of_ready hi (.inl rfl) h, hk]
  rfl

theorem traps_of_ready {r : TrapRec} (hi : exec i s = syllable s false g ds k) (h : Ready s g (ds s.me)) (hk : k s.me = .trap s r) :
    Traps i s r := by
  rw [Traps, exec_of_ready hi (.inl rfl) h, hk]
  rfl

theorem issuesAt_of_ready_priv (hi : exec i s = syllable s true g ds k) (hp : s.me.sys.priv = true) (h : Ready s g (ds s.me))
    (hk : k s.me = .ok u) : IssuesAt i s u := by
  rw [IssuesAt, exec_of_ready hi (.inr hp) h, hk]
  rfl

theorem holdsAt_of_ready_priv (hi : exec i s = syllable s true g ds k) (hp : s.me.sys.priv = true) (h : Ready s g (ds s.me))
    (hk : k s.me = .hold u) : HoldsAt i s u := by
  rw [HoldsAt, exec_of_ready hi (.inr hp) h, hk]
  rfl

theorem traps_of_ready_priv {r : TrapRec} (hi : exec i s = syllable s true g ds k) (hp : s.me.sys.priv = true) (h : Ready s g (ds s.me))
    (hk : k s.me = .trap s r) : Traps i s r := by
  rw [Traps, exec_of_ready hi (.inr hp) h, hk]
  rfl

theorem sendsG_of_ready {gd : GReg} {v : Word} {poison : Bool} {lat : Nat} (hi : exec i s = syllable s false g ds k)
    (h : Ready s g (ds s.me)) (hk : k s.me = sendG s s.me gd v poison lat) : SendsG i s gd v poison lat :=
  issues_of_ready hi h hk

theorem sendsP_of_ready {pd : PRegNo} {v m : Mask} {poison keep : Bool} (hi : exec i s = syllable s false g ds k)
    (h : Ready s g (ds s.me)) (hk : k s.me = sendP s s.me (s.me.pp pd.toNat) v poison m keep) : SendsP i s pd v poison m keep :=
  issues_of_ready hi h hk

end Ready

/-! The shapes that several forms share. -/

theorem sendsG_of_sUn {s : State} {g : Guard} {gd ga : GReg} {i : Instr} {lat : Nat} (f : Word → Word)
    (hi : exec i s = sUn s g gd ga lat f) (h : Ready s g [.g gd.toNat, .g ga.toNat]) :
    SendsG i s gd (f (s.me.g ga).val) ((s.me.g ga).poison || gp s g) lat :=
  sendsG_of_ready hi h rfl

theorem sendsP_of_pLogic {s : State} {g : Guard} {i : Instr} (o : PBin) (f : Mask → Mask → Mask) (hi : exec i s = pLogic s g o f)
    (h : Ready s g [.p (s.me.pp o.pd.toNat), .p (s.me.pp o.pa.toNat), .p (s.me.pp o.pb.toNat)]) :
    SendsP i s o.pd (f (s.me.p o.pa).val (s.me.p o.pb).val) ((s.me.p o.pa).poison || (s.me.p o.pb).poison || gp s g)
      (BitVec.allOnes 1024) false :=
  sendsP_of_ready hi h rfl

/-! The functions of R82, R83 and R88 in terms of their operands' values. -/

theorem absW_eq (a : Word) : absW a = if a.toInt < 0 then 0 - a else a := by
  simp [absW, BitVec.msb_eq_toInt]

theorem clzW_eq (a : Word) : clzW a = if a = 0 then 64 else BitVec.ofNat 64 (63 - Nat.log2 a.toNat) := by
  by_cases h : a = 0
  · subst h; rfl
  · have : a.toNat ≠ 0 := fun h0 => h (BitVec.eq_of_toNat_eq h0)
    rw [clzW, clzN, if_neg h, if_neg (by simpa using this)]

theorem ofNat_wrap (x : Int) : BitVec.ofNat 64 (wrap 64 x) = BitVec.ofInt 64 x := by
  rw [← BitVec.toNat_inj, wrap, BitVec.toNat_ofNat, BitVec.toNat_ofInt]
  omega

theorem bfxN_eq (a : Word) (p len : Nat) (sx : Bool) : BitVec.ofNat 64 (bfxN 64 a.toNat p len sx) =
    if sx then BitVec.ofInt 64 (signed len ((a.toNat >>> p) % 2 ^ len)) else BitVec.ofNat 64 ((a.toNat >>> p) % 2 ^ len) := by
  rw [bfxN, Nat.mod_eq_of_lt a.isLt]
  cases sx
  · rfl
  · exact ofNat_wrap _

theorem fshN_eq (a b : Word) (n : Nat) : BitVec.ofNat 64 (fshN 64 a.toNat b.toNat n) = ((a ++ b) >>> n).setWidth 64 := by
  rw [← BitVec.toNat_inj, BitVec.toNat_setWidth, BitVec.toNat_ushiftRight, toNat_append_eq, BitVec.toNat_ofNat, fshN,
    Nat.mod_eq_of_lt a.isLt, Nat.mod_eq_of_lt b.isLt, Nat.mod_mod]

theorem ofNat_b2n_ne_zero (m : Mask) : BitVec.ofNat 64 (b2n (m != 0)) = if m = 0 then 0 else 1 := by
  by_cases h : m = 0
  · rw [if_pos h, bne_eq_false_iff_eq.2 h]
    rfl
  · rw [if_neg h, bne_iff_ne.2 h]
    rfl

/-- Settles O2: each form sends its function of the operands, which is what R79 and R82 to R84 give. -/
theorem scalarFieldResults : Obligations.ScalarFieldResults := by
  unfold Obligations.ScalarFieldResults
  intro s g gd ga gb x y
  refine ⟨fun imm h => sendsG_of_ready (by unfold exec; rfl) (by exact h) (by rfl), fun sh disp h => sendsG_of_ready (by unfold exec; rfl) (by exact h) (by rfl), fun h => ?_,
    fun imm h => sendsG_of_ready (by unfold exec; rfl) (by exact h) (by rfl), fun pos len sx h => ?_, fun pos len h => sendsG_of_ready (by unfold exec; rfl) (by exact h) (by rfl), fun n h => ?_,
    fun b h => sendsG_of_ready (by unfold exec; rfl) (by exact h) (by rfl)⟩
  · rw [← absW_eq, ← clzW_eq]
    exact ⟨sendsG_of_sUn absW rfl h, sendsG_of_sUn clzW rfl h, sendsG_of_sUn ctzW rfl h, sendsG_of_sUn popW rfl h,
      fun w => sendsG_of_sUn (bswapN (8 / 2 ^ w.toNat)) rfl h, fun imm => sendsG_of_sUn (fun a => imm ++ a.extractLsb' 0 32) rfl h⟩
  · intro p f
    rw [← bfxN_eq]
    exact sendsG_of_ready (by unfold exec; rfl) (by exact h) (by rfl)
  · rw [← fshN_eq]
    exact sendsG_of_ready (by unfold exec; rfl) (by exact h) (by rfl)

/-- Settles O4: each form sends its function of the operands, which is what R85 to R88 give. -/
theorem predicateResults : Obligations.PredicateResults := by
  unfold Obligations.PredicateResults
  intro s g t
  refine ⟨fun pd ga b c h => sendsP_of_ready (by unfold exec; rfl) (by exact h) (by rfl), fun o pc neg h hp => ?_, fun gd pa k h => sendsG_of_ready (by unfold exec; rfl) (by exact h) (by rfl),
    fun pd ga k h => sendsP_of_ready (by unfold exec; rfl) (by exact h) (by rfl), fun pd pa pb h => ?_, fun pd pa h => sendsP_of_ready (by unfold exec; rfl) (by exact h) (by rfl),
    fun pd r h => sendsP_of_ready (by unfold exec; rfl) (by exact h) (by rfl), fun pd v h => sendsP_of_ready (by unfold exec; rfl) (by exact h) (by rfl), fun gd pa h => ?_⟩
  · intro m v
    refine sendsG_of_ready (by unfold exec; rfl) (by exact h) ?_
    have hs : ¬(s.me.p pc).poison = true := by rw [hp]; exact Bool.false_ne_true
    simp only [Strand.pneg, bne_iff_ne, if_neg hs]
    rfl
  · exact ⟨sendsP_of_pLogic ⟨pd, pa, pb⟩ (· &&& ·) rfl h, sendsP_of_pLogic ⟨pd, pa, pb⟩ (· ||| ·) rfl h, sendsP_of_pLogic ⟨pd, pa, pb⟩ (· ^^^ ·) rfl h⟩
  · rw [← ofNat_b2n_ne_zero]
    exact ⟨sendsG_of_ready (by unfold exec; rfl) (by exact h) (by rfl), sendsG_of_ready (by unfold exec; rfl) (by exact h) (by rfl)⟩

end Sys2Proof.Machine
end

section
/-! PROOFS. Scalar floating point, control transfers, loops and waits (R92 to R98, R102). -/

namespace Sys2Proof.Machine

/-! Scalar floating point: the draw of a stochastic rounding, and the format a type names. -/

theorem drawS_eq (t : Strand) (m : RM) : t.drawS m =
    (if m = .rsr then ((drawStep t.sys.seed).extractLsb' 16 16).toNat else 0, if m = .rsr then t.draw 1 else t) := by
  unfold Strand.drawS
  by_cases h : m = .rsr
  · subst h; rfl
  · rw [if_neg h, if_neg h, if_neg (by simpa using h)]

theorem fmtOf_eq {t : Ty} {f : Fmt} (h : tyFmt t = some f) : fmtOf t = f := by rw [fmtOf, h]; rfl

/-- Settles O6: each form sends the function of its format, with the strand's draw where the rounding is stochastic. -/
theorem scalarFloatResults : Obligations.ScalarFloatResults := by
  unfold Obligations.ScalarFloatResults
  intro s g o f hf t m u t1 x bad sends
  have hu : s.me.drawS (s.me.mode o.rnd) = (u, t1) := drawS_eq _ _
  refine ⟨fun h => ?_, fun gc h => ?_, fun d h => ?_, fun pd c h => ?_⟩
  · have fBin_ready (f') : fBin s g o f' = finish (sendF s t1 o.gd (f' f m o.sat u (x o.ga) (x o.gb)) bad 4) := by
      rw [fBin, syllable_ready false (.inl rfl) (by exact h)]
      simp only [hu, fmtOf_eq hf]
      rfl
    exact ⟨fBin_ready Fmt.add, fBin_ready Fmt.sub, fBin_ready Fmt.mul⟩
  · refine issues_of_ready (by unfold exec; rfl) (by exact h) ?_
    simp only [hu, fmtOf_eq hf]
    rfl
  · refine issues_of_ready (by unfold exec; rfl) (by exact h) ?_
    simp only [hu]
    rfl
  · refine issues_of_ready (by unfold exec; rfl) (by exact h) ?_
    simp only [fmtOf_eq hf]
    rfl

/-! Control transfers. -/

/-- A strand that is put back as it was. -/
theorem conclude_setMe_me (s : State) : conclude (s.setMe s.me) = conclude s := by
  simp only [conclude, State.me_setMe, State.setMe_setMe, State.setMe_cur]

section Control
variable {s : State} {g : Guard} {ds : Strand → List Dst} {k : Strand → Res} {i : Instr}

theorem issues_of_control {t : Strand} (hi : exec i s = control s g ds k) (hg : gp s g = false) (h : Ready s g (ds s.me))
    (hk : k s.me = .ok (s.setMe t)) : Issues i s t :=
  issues_of_ready hi h ((if_neg (by rw [show (s.me.p g.p).poison = false from hg]; exact Bool.false_ne_true)).trans hk)

theorem transfer_of_aligned (t : Strand) {a : Word} (n : Nat) (h : a.toNat % 8 = 0) :
    transfer s t a n = .ok (s.setMe { t with pend := t.pend ++ [.jump a n] }) :=
  if_neg (by simp [h])

theorem issues_of_control_still (hi : exec i s = control s g ds k) (hg : gp s g = false) (h : Ready s g (ds s.me))
    (hk : k s.me = .ok s) : Issues i s s.me := by
  have hp : ¬(s.me.p g.p).poison = true := by rw [show (s.me.p g.p).poison = false from hg]; exact Bool.false_ne_true
  rw [Issues, conclude_setMe_me, hi, control, syllable_ready false (.inl rfl) h, if_neg hp, hk]
  rfl

end Control

/-- Settles O10: each form is `control` of a transfer to its target, or of nothing. -/
theorem controlTransfers : Obligations.ControlTransfers := by
  unfold Obligations.ControlTransfers
  intro s g hg t jump dest next linked
  refine ⟨fun pa neg all disp h hp ha => ?_, fun disp h ha => ?_, fun gd disp h ha => ?_, fun ga h hp ha => ?_,
    fun gd ga imm h hp ha => ?_, fun q c disp h ha => ?_⟩
  · intro m taken
    have hk (x : Res) : (if (s.me.p pa).poison then trapIf s 0x1A 0 else x) = x :=
      if_neg (by rw [show (s.me.p pa).poison = false from hp]; exact Bool.false_ne_true)
    by_cases ht : taken = true
    · rw [if_pos ht]
      exact issues_of_control (by unfold exec; rfl) hg (by exact h) ((hk _).trans ((if_pos ht).trans (transfer_of_aligned _ 3 ha)))
    · rw [if_neg ht]
      exact issues_of_control_still (by unfold exec; rfl) hg (by exact h) ((hk _).trans (if_neg ht))
  · exact issues_of_control (by unfold exec; rfl) hg (by exact h) (transfer_of_aligned _ 3 ha)
  · exact issues_of_control (by unfold exec; rfl) hg (by exact h) (transfer_of_aligned _ 3 ha)
  · refine issues_of_control (by unfold exec; rfl) hg (by exact h) ?_
    exact (if_neg (by rw [hp]; exact Bool.false_ne_true)).trans (transfer_of_aligned _ 3 ha)
  · refine issues_of_control (by unfold exec; rfl) hg (by exact h) ?_
    exact (if_neg (by rw [hp]; exact Bool.false_ne_true)).trans (transfer_of_aligned _ 3 ha)
  · by_cases hq : t.sys.qeos.getLsbD q.toNat = true
    · rw [if_pos hq]
      exact issues_of_control (by unfold exec; rfl) hg (by exact h) ((if_pos hq).trans (transfer_of_aligned _ 3 ha))
    · rw [if_neg hq]
      exact issues_of_control_still (by unfold exec; rfl) hg (by exact h) (if_neg hq)

/-! Loops and rotation (R96). -/

theorem allOnes_mask_ne_zero : BitVec.allOnes 1024 ≠ 0 := fun h => by
  simpa using congrArg (·.getLsbD 0) h

theorem uniform_slt_eq (n : Word) : uniform ((0 : Word).slt n) = if 0 < n.toInt then BitVec.allOnes 1024 else 0 := by
  simp only [uniform, BitVec.slt_iff_toInt_lt]
  rfl

theorem uniform_slt_ne_zero (n : Word) : uniform ((0 : Word).slt n) ≠ 0 ↔ 0 < n.toInt := by
  rw [uniform_slt_eq]
  by_cases h : 0 < n.toInt
  · rw [if_pos h]
    exact iff_of_true allOnes_mask_ne_zero h
  · rw [if_neg h]
    exact iff_of_false (fun hz => hz rfl) h

section Rotation
variable (b : BitVec 4) (i : Nat)

theorem toNat_succ_base : (b + 1).toNat = (b.toNat + 1) % 16 := BitVec.toNat_add b 1

theorem mapV_inside (h : 8 ≤ i ∧ i < 24) : mapV b i = 8 + (i + 8 - b.toNat) % 16 := by
  rw [mapV, if_pos (by simp; omega)]
  omega

theorem mapV_outside (h : i < 8 ∨ 24 ≤ i) : mapV b i = i := if_neg (by simp; omega)

theorem mapP_inside (h : 8 ≤ i ∧ i < 16) : mapP b i = 8 + (i + 8 - b.toNat) % 8 := by
  rw [mapP, if_pos (by simp; omega)]
  omega

theorem mapP_outside (h : i < 8 ∨ 16 ≤ i) : mapP b i = i := if_neg (by simp; omega)

end Rotation

theorem rotation_renames (b : BitVec 4) :
    (∀ i, 8 ≤ i → i < 23 → mapV (b + 1) (i + 1) = mapV b i) ∧ mapV (b + 1) 8 = mapV b 23 ∧
    (∀ i, 8 ≤ i → i < 15 → mapP (b + 1) (i + 1) = mapP b i) ∧ mapP (b + 1) 8 = mapP b 15 ∧
    (∀ i, i < 8 ∨ 24 ≤ i → mapV b i = i) ∧ (∀ i, i < 8 → mapP b i = i) ∧
    (∀ i, 8 ≤ i → i < 24 → 8 ≤ mapV b i ∧ mapV b i < 24) ∧ (∀ i, 8 ≤ i → i < 16 → 8 ≤ mapP b i ∧ mapP b i < 16) ∧
    (∀ i j, 8 ≤ i → i < 24 → 8 ≤ j → j < 24 → mapV b i = mapV b j → i = j) := by
  have hb := b.isLt
  have hb1 := toNat_succ_base b
  refine ⟨fun i h1 h2 => ?_, ?_, fun i h1 h2 => ?_, ?_, fun i h => mapV_outside b i h, fun i h => mapP_outside b i (.inl h),
    fun i h1 h2 => ?_, fun i h1 h2 => ?_, fun i j h1 h2 h3 h4 h => ?_⟩
  · rw [mapV_inside _ _ (by omega), mapV_inside _ _ (by omega)]
    omega
  · rw [mapV_inside _ _ (by omega), mapV_inside _ _ (by omega)]
    omega
  · rw [mapP_inside _ _ (by omega), mapP_inside _ _ (by omega)]
    omega
  · rw [mapP_inside _ _ (by omega), mapP_inside _ _ (by omega)]
    omega
  · rw [mapV_inside _ _ (by omega)]
    omega
  · rw [mapP_inside _ _ (by omega)]
    omega
  · rw [mapV_inside _ _ (by omega), mapV_inside _ _ (by omega)] at h
    omega

/-- Settles O11: the form's tests are those of the statement, and both rotated names are taken modulo their span. -/
theorem loopAndRotation : Obligations.LoopAndRotation := by
  unfold Obligations.LoopAndRotation
  refine ⟨fun s g gd sm disp => ?_, rotation_renames⟩
  intro t old h hg hp hold ha n p8 u0 u
  have hp8 : uniform ((0 : Word).slt ((s.me.g gd).val - 1)) = p8 := uniform_slt_eq n
  have hany : (t.g gd).poison = true ∨ (old.map (fun i => vAt t.r.p i)).any (fun p => p.poison) = true → False := by
    rintro (hgd | ho)
    · exact Bool.false_ne_true (hp.symm.trans hgd)
    · obtain ⟨p, hmem, hpo⟩ := List.any_eq_true.1 ho
      obtain ⟨i, hi, rfl⟩ := List.mem_map.1 hmem
      exact Bool.false_ne_true ((hold i hi).symm.trans hpo)
  have hjump : ((uniform ((0 : Word).slt n) != 0) || (old.map (fun i => vAt t.r.p i)).any (fun p => p.val != 0)) = true ↔
      (0 < n.toInt ∨ ∃ i ∈ old, (vAt t.r.p i).val ≠ 0) := by
    rw [Bool.or_eq_true, bne_iff_ne, uniform_slt_ne_zero]
    simp only [List.any_map, List.any_eq_true, Function.comp, bne_iff_ne]
  refine issues_of_control (by unfold exec; rfl) hg (by exact h) ((if_neg (fun hc => hany (Bool.or_eq_true_iff.1 hc))).trans ?_)
  by_cases hj : 0 < n.toInt ∨ ∃ i ∈ old, (vAt t.r.p i).val ≠ 0
  · refine ((if_pos (hjump.2 hj)).trans (transfer_of_aligned _ 1 ha)).trans ?_
    rw [if_pos hj, hp8]
    rfl
  · refine (if_neg (fun hc => hj (hjump.1 hc))).trans ?_
    rw [if_neg hj, hp8, List.append_nil]
    rfl

/-! Waits (R98). -/

theorem wfeFrom_none {o : Option Nat} (x : Res) (y : Nat → Res) : o = none → (match o with | none => x | some d => y d) = x := by
  rintro rfl
  rfl

theorem wfeFrom_some {o : Option Nat} {d : Nat} (x : Res) (y : Nat → Res) :
    o = some d → (match o with | none => x | some d => y d) = y d := by
  rintro rfl
  rfl

/-- Settles O12: each form is its effect; `wfe` first asks for an event, then for its count, then for the time. -/
theorem waitForms : Obligations.WaitForms := by
  unfold Obligations.WaitForms
  intro s g t
  refine ⟨fun h => ?_, fun h => issues_of_ready (by unfold exec; rfl) (by exact h) (by rfl), fun gd ga mask h hp => ?_⟩
  · refine Eq.trans ?_ (congrArg Host.Outcome.next (conclude_setMe_me s).symm)
    exact issuesAt_of_ready (by unfold exec; rfl) (by exact h) (by rfl)
  intro got u done
  have hpo (x : Res) : (if (s.me.g ga).poison then trapIf s 0x1A 0 else x) = x :=
    if_neg (by rw [show (s.me.g ga).poison = false from hp]; exact Bool.false_ne_true)
  have hgot (x y : Res) (hg : got = 0) : (if got != 0 then x else y) = y := if_neg (by simp [hg])
  have hval (x y : Res) (hv : (t.g ga).val ≠ 0) : (if (t.g ga).val.toNat == 0 then x else y) = y :=
    if_neg (fun h0 => hv (BitVec.eq_of_toNat_eq (beq_iff_eq.1 h0)))
  refine ⟨fun hg => ?_, fun hg hv => ?_, fun hg hv hw => ?_, fun d hg hv hw hd => ?_⟩
  · exact issues_of_ready (by unfold exec; rfl) (by exact h) ((hpo _).trans (if_pos (bne_iff_ne.2 hg)))
  · exact holdsAt_of_ready (by unfold exec; rfl) (by exact h) ((hpo _).trans ((hgot _ _ hg).trans (if_pos (beq_iff_eq.2 (congrArg BitVec.toNat hv)))))
  · refine holdsAt_of_ready (by unfold exec; rfl) (by exact h) ((hpo _).trans ((hgot _ _ hg).trans ((hval _ _ hv).trans ?_)))
    exact wfeFrom_none _ _ hw
  · refine issues_of_ready (by unfold exec; rfl) (by exact h) ((hpo _).trans ((hgot _ _ hg).trans ((hval _ _ hv).trans ?_)))
    refine (wfeFrom_some _ _ hw).trans (if_pos (Bool.or_eq_true_iff.2 (.inr (decide_eq_true ?_))))
    exact hd

end Sys2Proof.Machine
end

section
/-! PROOFS. System registers and layout fields read back, and the others stay (R158, R159, R233). -/

namespace Sys2Proof.Machine

/-! System registers. -/

/-- The registers that hold what software writes. -/
def heldRegs : List Nat :=
  [0x003, 0x004, 0x005, 0x007, 0x008, 0x00A, 0x00B, 0x00C, 0x00D, 0x018, 0x019, 0x01A, 0x01B, 0x01C, 0x020, 0x021, 0x022, 0x023,
   0x024, 0x025, 0x026, 0x027, 0x028, 0x030, 0x031, 0x032]

theorem getLsbD_of_undefined_zero {v d : Word} {i : Nat} (h : v &&& ~~~d = 0) (hv : v.getLsbD i = true) : d.getLsbD i = true := by
  have hi := congrArg (·.getLsbD i) h
  have := BitVec.lt_of_getLsbD hv
  simpa [hv, this] using hi

/-- A register of k bits keeps a value with no bit beyond them. -/
theorem zeroExtend_extractLsb' {v d : Word} {k : Nat} (h : v &&& ~~~d = 0) (hd : ∀ i < 64, d.getLsbD i = true → i < k) :
    (v.extractLsb' 0 k).zeroExtend 64 = v := by
  refine BitVec.eq_of_getLsbD_eq fun i hi => ?_
  have hb (hv : v.getLsbD i = true) : i < k := hd i hi (getLsbD_of_undefined_zero h hv)
  simp only [BitVec.zeroExtend, BitVec.getLsbD_setWidth, BitVec.getLsbD_extractLsb', Nat.zero_add, hi, decide_true, Bool.true_and]
  by_cases hik : i < k
  · simp [hik]
  · simpa [hik] using fun hv => hik (hb hv)

theorem and_not_seven {v d : Word} (h : v &&& ~~~d = 0) (hd : d = ~~~7) : v &&& ~~~7 = v := by
  subst hd
  refine BitVec.eq_of_getLsbD_eq fun i hi => ?_
  rw [BitVec.getLsbD_and, Bool.and_eq_left_iff_imp]
  exact getLsbD_of_undefined_zero h

/-- What a write leaves: every register but the one it names. -/
theorem writeSys_other (t : Strand) (n : Nat) (v : Word) :
    let y := (t.writeSys n v).sys
    (t.writeSys n v).clock = t.clock ∧ (t.writeSys n v).r.live = t.r.live ∧
    (n ≠ 0x00E → (t.writeSys n v).r.banks = t.r.banks ∧ y.idle = t.sys.idle) ∧ y.il = t.sys.il ∧ y.priv = t.sys.priv ∧
    (n ≠ 0x002 → y.ppriv = t.sys.ppriv) ∧ (n ≠ 0x003 → y.rot = t.sys.rot) ∧ (n ≠ 0x004 → y.fmode = t.sys.fmode) ∧
    (n ≠ 0x005 → y.fflags = t.sys.fflags) ∧ (n ≠ 0x006 → y.seed = t.sys.seed) ∧ (n ≠ 0x007 → y.qeos = t.sys.qeos) ∧
    (n ≠ 0x008 → y.evt = t.sys.evt) ∧ (n ≠ 0x00A → y.deadline = t.sys.deadline) ∧ (n ≠ 0x00B → y.barl = t.sys.barl) ∧
    (n ≠ 0x00C → y.tkmap0 = t.sys.tkmap0) ∧ (n ≠ 0x00D → y.tkmap1 = t.sys.tkmap1) ∧ y.kinfo = t.sys.kinfo ∧
    (∀ k, n ≠ 0x018 + k → vAt y.dom k = vAt t.sys.dom k) ∧ (n ≠ 0x020 → y.tcause = t.sys.tcause) ∧ (n ≠ 0x021 → y.tpc = t.sys.tpc) ∧
    (n ≠ 0x022 → y.tva = t.sys.tva) ∧ (n ≠ 0x023 → y.tpos0 = t.sys.tpos0) ∧ (n ≠ 0x024 → y.tpos1 = t.sys.tpos1) ∧
    (∀ k, n ≠ 0x025 + k → vAt y.tcut k = vAt t.sys.tcut k) ∧ (n ≠ 0x028 → y.ttag = t.sys.ttag) ∧
    (n ≠ 0x030 → y.asid = t.sys.asid) ∧ (n ≠ 0x031 → y.dbg = t.sys.dbg) ∧ (n ≠ 0x032 → y.bpa = t.sys.bpa) := by
  unfold Strand.writeSys
  split
  case h_13 | h_14 | h_15 | h_16 | h_17 => 
    simp
    intro k hk
    exact vAt_vSet_other _ _ _ _ (by omega)
  case h_23 | h_24 | h_25 => 
    simp
    intro k hk
    exact vAt_vSet_other _ _ _ _ (by omega)
  all_goals simp

theorem sysRead_writeSys_other (s : State) {n m : Nat} (v : Word) (he : n ≠ 0x002 ∧ n ≠ 0x00E) (hm : m ≠ n) :
    (s.setMe (s.me.writeSys n v)).sysRead s.cur m = s.sysRead s.cur m := by
  have hn : n ≠ m := hm.symm
  have hme : (s.setMe (s.me.writeSys n v)).strand s.cur = s.me.writeSys n v := State.me_setMe s _
  have hself : s.strand s.cur = s.me := rfl
  obtain ⟨hclock, hlive, hbanks, hil, hpriv, hppriv, hrot, hfmode, hfflags, hseed, hqeos, hevt, hdeadline, hbarl, htkmap0, htkmap1, hkinfo,
    hdom, htcause, htpc, htva, htpos0, htpos1, htcut, httag, hasid, hdbg, hbpa⟩ := writeSys_other s.me n v
  unfold State.sysRead
  rw [hme, hself]
  split <;> simp [*]

theorem sysRead_writeSys_same (s : State) {n : Nat} (v : Word) (hn : n ∈ heldRegs) (hv : v &&& ~~~sysDefined n = 0) :
    (s.setMe (s.me.writeSys n v)).sysRead s.cur n = v := by
  have hme : (s.setMe (s.me.writeSys n v)).strand s.cur = s.me.writeSys n v := State.me_setMe s _
  unfold State.sysRead
  rw [hme]
  simp only [heldRegs, List.mem_cons, List.not_mem_nil, or_false] at hn
  rcases hn with rfl | rfl | rfl | rfl | rfl | rfl | rfl | rfl | rfl | rfl | rfl | rfl | rfl | rfl | rfl | rfl | rfl | rfl | rfl | rfl | rfl |
    rfl | rfl | rfl | rfl | rfl
  all_goals simp only [Strand.writeSys]
  · exact zeroExtend_extractLsb' hv (by decide)
  · exact zeroExtend_extractLsb' hv (by decide)
  · exact zeroExtend_extractLsb' hv (by decide)
  · exact zeroExtend_extractLsb' hv (by decide)
  · exact zeroExtend_extractLsb' hv (by decide)
  · exact zeroExtend_extractLsb' hv (by decide)
  · exact vAt_vSet_self _ _ _ (by decide)
  · exact vAt_vSet_self _ _ _ (by decide)
  · exact vAt_vSet_self _ _ _ (by decide)
  · exact vAt_vSet_self _ _ _ (by decide)
  · exact vAt_vSet_self _ _ _ (by decide)
  · exact zeroExtend_extractLsb' hv (by decide)
  · exact vAt_vSet_self _ _ _ (by decide)
  · exact vAt_vSet_self _ _ _ (by decide)
  · exact vAt_vSet_self _ _ _ (by decide)
  · exact zeroExtend_extractLsb' hv (by decide)
  · exact zeroExtend_extractLsb' hv (by decide)
  · exact and_not_seven hv rfl

/-! Layout fields. -/

theorem zeroExtend_ofNat_toNat {v : Word} {k : Nat} (h : v.toNat < 2 ^ k) : (BitVec.ofNat k v.toNat).zeroExtend 64 = v := by
  refine BitVec.eq_of_toNat_eq ?_
  rw [BitVec.zeroExtend, BitVec.toNat_setWidth, BitVec.toNat_ofNat, Nat.mod_eq_of_lt h, Nat.mod_eq_of_lt v.isLt]

theorem ofNat_b2n_of_le_one {v : Word} (h : v.toNat ≤ 1) : BitVec.ofNat 64 (b2n (v.toNat == 1)) = v := by
  refine BitVec.eq_of_toNat_eq ?_
  obtain h0 | h1 : v.toNat = 0 ∨ v.toNat = 1 := by omega
  · rw [h0]; rfl
  · rw [h1]; rfl

theorem lt_of_fmtOk {n : Nat} (h : fmtOk n = true) : n < 2 ^ 5 := by
  simp [fmtOk] at h
  omega

section Layout
variable {l l' : Layout} {f : Nat} {v : Word} (h : l.put f v = some l')
include h

theorem layout_get_put_same : l'.get f = v ∧ f ≤ 12 := by
  unfold Layout.put at h
  split at h
  all_goals simp only [Option.some.injEq, Option.ite_none_right_eq_some, reduceCtorEq] at h
  case h_1 => subst h; exact ⟨rfl, by decide⟩
  all_goals
    obtain ⟨hv, rfl⟩ := h
    refine ⟨?_, by decide⟩
    simp only [Layout.get]
  case h_2 => exact zeroExtend_ofNat_toNat (lt_of_fmtOk hv)
  case h_3 => exact beq_iff_eq.1 hv
  case h_4 | h_5 | h_6 | h_7 | h_8 =>
    rw [vAt_vSet_self _ _ _ (by decide)]
    exact beq_iff_eq.1 hv
  case h_9 | h_10 | h_11 | h_12 => exact zeroExtend_ofNat_toNat (by omega)
  case h_13 => exact ofNat_b2n_of_le_one hv

theorem layout_put_other :
    (f ≠ 0 → l'.base = l.base) ∧ (f ≠ 1 → l'.fmt = l.fmt) ∧ (f ≠ 2 → l'.rstr = l.rstr) ∧ (∀ k, f ≠ 3 + k → vAt l'.lst k = vAt l.lst k) ∧
    (f ≠ 8 → l'.bperm = l.bperm) ∧ (f ≠ 9 → l'.xf = l.xf) ∧ (f ≠ 10 → l'.dfmt = l.dfmt) ∧ (f ≠ 11 → l'.rnd = l.rnd) ∧
    (f ≠ 12 → l'.sat = l.sat) := by
  unfold Layout.put at h
  split at h
  all_goals simp only [Option.some.injEq, Option.ite_none_right_eq_some, reduceCtorEq] at h
  case h_1 => subst h; simp
  all_goals obtain ⟨hv, rfl⟩ := h
  case h_4 | h_5 | h_6 | h_7 | h_8 =>
    simp only [ne_eq, implies_true, true_and, and_true]
    exact fun k hk => vAt_vSet_other _ _ _ _ (by omega)
  all_goals simp

theorem layout_get_put_other {k : Nat} (hk : k ≠ f) : l'.get k = l.get k := by
  have hf : f ≠ k := hk.symm
  obtain ⟨hbase, hfmt, hrstr, hlst, hbperm, hxf, hdfmt, hrnd, hsat⟩ := layout_put_other h
  unfold Layout.get
  split <;> simp [*]

end Layout

/-- Settles O18: a write changes the one register or field it names, and keeps a value with no reserved bit. -/
theorem registersReadBack : Obligations.RegistersReadBack := by
  unfold Obligations.RegistersReadBack
  refine ⟨fun s n m v hn => ⟨sysRead_writeSys_same s v hn, fun hm => sysRead_writeSys_other s v ?_ hm, ?_⟩, fun l l' f k v h =>
    ⟨(layout_get_put_same h).1, fun hk => layout_get_put_other h hk, (layout_get_put_same h).2⟩⟩
  · revert hn
    clear hm
    revert n
    decide
  · rw [sysRead_seed]
    exact congrArg (fun t : Strand => t.sys.seed.zeroExtend 64) (State.me_setMe s _)

end Sys2Proof.Machine
end

section
/-! PROOFS. What reading and translating may change (R382 to R395, R427 to R430): the code's repair of a line and its records, requests,
walks and fills on their way, and range tables. No strand, kernel, bank or register changes, every memory keeps its canonical form, and
with no soft error pending every byte reads as before. -/

namespace Sys2Proof.Machine

/-- The machine but for what a read may change. -/
def State.rest (s : State) : State :=
  { s with dram := [], cores := [], nmus := [], rtabs := [], m := default, log := [], asks := [], net := [], fresh := 0, gathers := [],
           denials := [], walks := [], fills := [] }

/-- t is s after the error code has done its work. -/
structure Corrects (s t : State) : Prop where
  rest : t.rest = s.rest
  dramOk : Memory.wf s.dram = true → Memory.wf t.dram = true

/-- t is s after reads and translations. -/
structure Looks (s t : State) : Prop extends Corrects s t where
  still : s.m.flips = [] → (∀ a, memGet t.dram a = memGet s.dram a) ∧ t.m.flips = []

theorem Corrects.trans {s t u : State} (h : Corrects s t) (k : Corrects t u) : Corrects s u :=
  ⟨k.rest.trans h.rest, fun hs => k.dramOk (h.dramOk hs)⟩

theorem Looks.refl (s : State) : Looks s s := ⟨⟨rfl, id⟩, fun h => ⟨fun _ => rfl, h⟩⟩

theorem Looks.trans {s t u : State} (h : Looks s t) (k : Looks t u) : Looks s u :=
  ⟨h.toCorrects.trans k.toCorrects, fun hs => by
    obtain ⟨h1, h2⟩ := h.still hs
    obtain ⟨k1, k2⟩ := k.still h2
    exact ⟨fun a => (k1 a).trans (h1 a), k2⟩⟩

/-- Device memory and its soft errors are untouched. -/
theorem Looks.of_rest {s t : State} (h : t.rest = s.rest) (hd : t.dram = s.dram) (hm : t.m.flips = s.m.flips) : Looks s t :=
  ⟨⟨h, fun hs => hd ▸ hs⟩, fun hs => ⟨fun _ => by rw [hd], hm.trans hs⟩⟩

theorem looks_ite {s t u : State} {c : Prop} [Decidable c] (h : Looks s t) (k : Looks s u) : Looks s (if c then t else u) := by
  split
  · exact h
  · exact k

section Use
variable {s t : State} (h : Looks s t)
include h

/-- Whatever the rest determines is as it was. -/
theorem Looks.field {α : Type} (f : State → α) (hf : ∀ s : State, f s.rest = f s) : f t = f s := by rw [← hf, h.rest, hf]

theorem Looks.strands : t.strands = s.strands := h.field State.strands fun _ => rfl
theorem Looks.cur : t.cur = s.cur := h.field State.cur fun _ => rfl
theorem Looks.chip : t.chip = s.chip := h.field State.chip fun _ => rfl
theorem Looks.host : t.host = s.host := h.field State.host fun _ => rfl
theorem Looks.peer : t.peer = s.peer := h.field State.peer fun _ => rfl
theorem Looks.strand (n : Nat) : t.strand n = s.strand n := by rw [State.strand, State.strand, h.strands]
theorem Looks.me : t.me = s.me := by rw [State.me, State.me, h.cur, h.strand]

theorem Looks.memOk (hs : s.memOk) : t.memOk := by
  obtain ⟨hd, hc, hh, hp⟩ := hs
  exact ⟨h.dramOk hd, h.chip ▸ hc, h.host ▸ hh, h.peer ▸ hp⟩

theorem Looks.sameMemory (hs : s.m.flips = []) : SameMemory s t := fun a =>
  ⟨(h.still hs).1 a, by rw [h.chip], by rw [h.host], by rw [h.peer]⟩

end Use

/-! The error code (R427 to R430). -/

section Code
variable (s : State)

theorem looks_tellDriver (a b c : Word) : Looks s (s.tellDriver a b c) := .of_rest rfl rfl rfl

theorem looks_report (a b c : Nat) : Looks s (s.report a b c) :=
  looks_ite (Looks.of_rest rfl rfl rfl) (.of_rest rfl rfl rfl)

theorem looks_setCarried (l : Nat) (on : Bool) : Looks s (s.setCarried l on) := .of_rest rfl rfl rfl

theorem corrects_clearFlips (l : Nat) : Corrects s (s.clearFlips l) := ⟨rfl, id⟩

theorem wf_foldl {α : Type} {f : Mem → α → Mem} (hf : ∀ m x, Memory.wf m = true → Memory.wf (f m x) = true) (xs : List α) {m : Mem}
    (h : Memory.wf m = true) : Memory.wf (xs.foldl f m) = true := by
  induction xs generalizing m with
  | nil => exact h
  | cons x xs ih => exact ih (hf m x h)

theorem corrects_takeBits (l : Nat) : Corrects s (s.takeBits l) := by
  refine ⟨rfl, fun h => wf_foldl (fun m f hm => ?_) _ h⟩
  dsimp only
  split
  · exact wf_writeBytes _ _ hm
  · exact hm

theorem looks_countError (l : Nat) (fresh : Bool) : Looks s (s.countError l fresh) :=
  looks_ite (Looks.trans (by exact .of_rest rfl rfl rfl) (looks_report _ _ _ _)) (.of_rest rfl rfl rfl)

theorem corrects_readLine (l : Nat) : Corrects s (s.readLine l).1 := by
  have hbad : Corrects s (if s.carried l then (s.takeBits l, true)
      else (((s.takeBits l).setCarried l true |>.countError l true).report 430 1 (64 * l), true)).1 := by
    split
    · exact corrects_takeBits s l
    · exact (corrects_takeBits s l).trans ((looks_setCarried _ l true).trans ((looks_countError _ l true).trans
        (looks_report _ _ _ _))).toCorrects
  unfold State.readLine
  simp only
  split
  · exact (Looks.refl s).toCorrects
  · exact (corrects_clearFlips s l).trans ((looks_countError _ l false).trans (looks_report _ _ _ _)).toCorrects
  · exact hbad
  · split
    · exact hbad
    · exact ⟨rfl, fun h => wf_writeBytes _ _ h⟩

theorem wrong_of_flips_nil (l : Nat) (h : s.m.flips = []) : s.wrong l = [] := by
  rw [State.wrong, h]
  rfl

theorem readLine_of_flips_nil (l : Nat) (h : s.m.flips = []) : s.readLine l = (s, s.carried l) := by
  unfold State.readLine
  rw [wrong_of_flips_nil s l h]
  rfl

theorem looks_readLine (l : Nat) : Looks s (s.readLine l).1 :=
  ⟨corrects_readLine s l, fun h => by rw [readLine_of_flips_nil s l h]; exact ⟨fun _ => rfl, h⟩⟩

theorem looks_readLines (ls : List Nat) : Looks s (s.readLines ls).1 := by
  induction ls generalizing s with
  | nil => exact Looks.refl s
  | cons l ls ih => exact (looks_readLine s l).trans (ih _)

theorem looks_readDram (pa n : Nat) : Looks s (s.readDram pa n).1 := looks_readLines s _

theorem looks_readAt (sp : Space) (pa n : Nat) : Looks s (s.readAt sp pa n).1 := by
  cases sp with
  | dram => exact looks_readDram s pa n
  | chip | host | peer | red => exact Looks.refl s

end Code

/-! Requests and gathered reads. -/

section Gathers
variable (s : State)

theorem looks_send (r : Req) : Looks s (s.send r) := .of_rest rfl rfl rfl

theorem looks_foldl {α : Type} {f : State → α → State} (h : ∀ s a, Looks s (f s a)) (xs : List α) : Looks s (xs.foldl f s) := by
  induction xs generalizing s with
  | nil => exact Looks.refl s
  | cons x xs ih => exact (h s x).trans (ih _)

theorem looks_sendAll (rs : List Req) : Looks s (s.sendAll rs) := looks_foldl s looks_send rs

theorem looks_forget (src : Src) : Looks s (s.forget src) := .of_rest rfl rfl rfl

theorem looks_getAt (src : Src) (asid : BitVec 16) (g : Seg) : Looks s (s.getAt src asid g).1 := by
  unfold State.getAt
  split
  · exact Looks.refl s
  split
  · exact Looks.refl s
  simp only
  split
  · exact Looks.refl s
  · exact Looks.trans (by exact .of_rest rfl rfl rfl) (looks_sendAll _ _)

theorem looks_getEach (src : Src) (asid : BitVec 16) (gs : List Seg) : Looks s (s.getEach src asid gs).1 := by
  induction gs generalizing s with
  | nil => exact Looks.refl s
  | cons g gs ih => exact (looks_getAt s src asid g).trans (ih _)

theorem looks_getSegs (src : Src) (asid : BitVec 16) (gs : List Seg) : Looks s (s.getSegs src asid gs).1 := looks_getEach s src asid _

theorem looks_readZoned (src : Src) (pa n : Nat) : Looks s (s.readZoned src pa n).1 := by
  unfold State.readZoned
  split
  · exact looks_getSegs s _ _ _
  · exact Looks.refl s

end Gathers

/-! Translation. -/

section Translate
variable (s : State)

theorem looks_dirEntry (src : Src) (asid : BitVec 16) : Looks s (s.dirEntry src asid).1 := by
  have h := looks_readZoned s src ((s.mgr 0x108).toNat + 32 * asid.toNat) 32
  unfold State.dirEntry
  simp only
  split
  · exact h
  · exact h
  · exact h
  · split <;> exact h

theorem looks_readRec (src : Src) (e : DirEntry) (i : Nat) : Looks s (s.readRec src e i).1 := looks_readZoned s _ _ _

theorem looks_walkSearch (src : Src) (e : DirEntry) (va k lo hi : Nat) : Looks s (walkSearch src e va k lo hi s).1 := by
  induction k generalizing s lo hi with
  | zero => exact Looks.refl s
  | succ k ih =>
    unfold walkSearch
    split
    · simp only
      split
      · exact looks_readRec s _ _ _
      · split <;> exact (looks_readRec s _ _ _).trans (ih _ _ _)
    · exact Looks.refl s

theorem looks_acceptRec (src : Src) (e : DirEntry) (i va : Nat) : Looks s (s.acceptRec src e i va).1 := by
  have h := looks_readRec s src e i
  unfold State.acceptRec
  simp only
  split
  · exact h
  split
  · exact h.trans (looks_ite (looks_report _ _ _ _) (Looks.refl _))
  split
  · dsimp only
    exact h.trans (looks_report _ _ _ _)
  · split <;> exact h

theorem looks_walk (src : Src) (asid : BitVec 16) (va : Nat) : Looks s (s.walk src asid va).1 := by
  have h := looks_dirEntry s src asid
  unfold State.walk
  simp only
  split
  · exact h
  split
  · exact h
  split
  · exact h.trans (looks_walkSearch _ _ _ _ _ _ _)
  · exact h.trans ((looks_walkSearch _ _ _ _ _ _ _).trans (looks_acceptRec _ _ _ _ _))

theorem looks_setRtab (p : Party) (t : List RtEntry) : Looks s (s.setRtab p t) := by
  unfold State.setRtab
  split
  · exact .of_rest rfl rfl rfl
  · split <;> exact .of_rest rfl rfl rfl

theorem looks_mapBit (p : Party) (r : RangeRec) (g : Nat) : Looks s (s.mapBit p r g).1 := looks_readZoned s _ _ _

theorem looks_askFill (src : Src) (asid : BitVec 16) (gva : Nat) (rgfill : Option Nat) : Looks s (s.askFill src asid gva rgfill) := by
  unfold State.askFill
  simp only
  split <;> split <;> exact .of_rest rfl rfl rfl

theorem looks_deny (srcs : List Src) (asid : BitVec 16) (va : Nat) (c : BitVec 7) : Looks s (s.deny srcs asid va c) := .of_rest rfl rfl rfl

theorem looks_mapped (p : Party) : Looks s (s.mapped p) := looks_forget s _

theorem looks_residency (src : Src) (e : RtEntry) (va : Nat) : Looks s (s.residency src e va).1 := by
  have h := looks_mapBit s src.party e.r (e.r.granule va)
  unfold State.residency
  simp only
  split
  · exact Looks.refl s
  split
  · exact Looks.refl s
  split
  · exact Looks.refl s
  split
  · exact h
  · exact h.trans (looks_mapped _ _)
  · exact h.trans ((looks_mapped _ _).trans (looks_setRtab _ _ _))
  · have hd := h.trans (looks_dirEntry _ (.walker src.party 0) e.asid)
    split
    · exact hd
    · exact hd.trans (looks_mapped _ _)
    · split
      · exact hd.trans ((looks_mapped _ _).trans (looks_askFill _ _ _ _ _))
      · exact hd.trans (looks_mapped _ _)

theorem looks_askWalk (src : Src) (asid : BitVec 16) (va : Nat) : Looks s (s.askWalk src asid va).1 := by
  unfold State.askWalk
  simp only
  split
  · exact Looks.refl s
  · split <;> exact .of_rest rfl rfl rfl

theorem looks_ranges (src : Src) (asid : BitVec 16) (res : Bool) (k va len off : Nat) : Looks s (s.ranges src asid res k va len off).1 := by
  induction k generalizing s va len off with
  | zero => exact Looks.refl s
  | succ k ih =>
    unfold State.ranges
    split
    · exact looks_askWalk s _ _ _
    next e _ =>
      have h : Looks s (if res then s.residency src e va else (s, .ok ())).1 := by
        split
        · exact looks_residency s _ _ _
        · exact Looks.refl s
      simp only
      split
      · exact h
      split
      · exact h
      generalize (if e.r.partialRes || e.r.moving then _ else _ : Nat) = stop
      split
      · exact h
      · exact h.trans (ih _ _ _ _)

theorem looks_resolve (src : Src) (m n : Nat) (asid : BitVec 16) (p : Perm) (align : Nat) (a : Word) (len : Nat) :
    Looks s (s.resolve src m n asid p align a len).1 := by
  have h := looks_ranges s src asid true (len / 2 ^ 16 + 66) a.toNat len 0
  unfold State.resolve
  split
  · exact Looks.refl s
  split
  · exact Looks.refl s
  simp only
  split
  · split
    · exact h
    · exact h
    · split <;> exact h
  · split <;> exact Looks.refl s
  · split <;> exact Looks.refl s
  · exact Looks.refl s

end Translate

end Sys2Proof.Machine
end

section
/-! PROOFS. Taking a trap (R101, R442 to R446): the record is written before the handler is looked for, and looking for it changes of the
strand only where it goes. -/

namespace Sys2Proof.Machine

/-! Where a trap goes changes of its strand the phase, the pc and whether it is still entering. -/

/-- t is s after strand n has been sent to its handler, or to the host. -/
structure Sent (n : Nat) (s t : State) : Prop where
  cur : t.cur = s.cur
  others : ∀ k, k ≠ n → t.strand k = s.strand k
  strand : ∃ ph pc en, t.strand n = { s.strand n with phase := ph, pc := pc, entering := en }

theorem Sent.of_looks {n : Nat} {s u t : State} (h : Looks s u) (k : Sent n u t) : Sent n s t :=
  ⟨k.cur.trans h.cur, fun j hj => (k.others j hj).trans (h.strand j), by rw [← h.strand n]; exact k.strand⟩

theorem looks_settled (s : State) (n : Nat) : Looks s (s.settled n) := looks_ite (Looks.refl s) (looks_forget s _)

theorem sent_modStrand (n : Nat) (s : State) {f : Strand → Strand}
    (hf : ∀ t, ∃ ph pc en, f t = { t with phase := ph, pc := pc, entering := en }) : Sent n s (s.modStrand n f) := by
  refine ⟨rfl, fun k hk => State.strand_setStrand_other s n k _ hk, ?_⟩
  rw [State.modStrand, State.strand_setStrand]
  exact hf _

theorem sent_stopForHost (n : Nat) (s : State) : Sent n s (s.stopForHost n) := by
  have h := sent_modStrand n (s.settled n) (f := fun t => { t with phase := .hostStop, entering := false }) fun t => ⟨_, _, _, rfl⟩
  obtain ⟨hcur, hothers, hstrand⟩ := h.of_looks (looks_settled s n)
  exact ⟨hcur, hothers, hstrand⟩

theorem sent_enterHandler (n : Nat) (s : State) : Sent n s (s.enterHandler n) := by
  have hwait (u : State) : Sent n u (u.modStrand n (fun t => { t with entering := true })) :=
    sent_modStrand n u fun t => ⟨_, _, _, rfl⟩
  unfold State.enterHandler
  simp only
  split
  · exact sent_stopForHost n s
  have hr := looks_readDram s ((s.mgr 0x110).toNat + 16 * (s.strand n).sys.asid.toNat) 16
  split
  · exact (sent_stopForHost n _).of_looks hr
  have hq := hr.trans (looks_resolve _ (.strand n) (coreOf n) n (s.strand n).sys.asid { r := true } 8
    (BitVec.ofNat 64 (word (s.readDram ((s.mgr 0x110).toNat + 16 * (s.strand n).sys.asid.toNat) 16).2.1 0 +
      8 * ((s.strand n).sys.tcause.toNat % 128))) 8)
  split
  · exact (hwait _).of_looks hq
  · next g _ =>
    split
    · exact (hwait _).of_looks hq
    have hv := hq.trans (looks_readAt _ g.sp g.pa 8)
    split
    · exact (sent_stopForHost n _).of_looks hv
    · exact (sent_modStrand n _ fun t => ⟨_, _, _, rfl⟩).of_looks (hv.trans (looks_settled _ n))
  · exact (sent_stopForHost n _).of_looks hq

/-! The record (R446). -/

/-- The strand as a trap of the bundle about to issue leaves it, before it goes anywhere. -/
def Strand.recorded (t : Strand) (r : TrapRec) : Strand :=
  { t with
    sys := { t.sys with
      tcause := r.cause, tpc := t.pc, tva := r.tva, tpos0 := r.pos0, tpos1 := r.pos1, tcut := t.cut, ttag := r.tag,
      ppriv := t.sys.priv, priv := true, il := true
      qeos := match r.eos with | some q => t.sys.qeos ||| BitVec.ofNat 8 (2 ^ q) | none => t.sys.qeos }
    ilUpTo := t.bundle, iss := .trapped, pend := [], more := false, blen := 1, wfeFrom := none, wfeOut := false,
    stepDue := none, bpSkip := false }

/-- The machine with a trap's record made: what waited for the strand is withdrawn. -/
def State.recorded (s : State) (r : TrapRec) : State :=
  let s0 := ((s.withdraw s.cur).forget (.strand s.cur)).forget (.other (300 + s.cur))
  { s0 with shoots := s0.shoots.map (fun (h : Shoot) => if h.strand == some s.cur then { h with strand := none } else h) }.setStrand s.cur
    (s.me.recorded r)

theorem trapped_eq (s : State) (r : TrapRec) :
    trapped s r = if s.me.sys.priv then (s.recorded r).stopForHost s.cur else (s.recorded r).enterHandler s.cur := rfl

theorem sent_trapped (s : State) (r : TrapRec) : Sent s.cur (s.recorded r) (trapped s r) := by
  rw [trapped_eq]
  split
  · exact sent_stopForHost _ _
  · exact sent_enterHandler _ _

theorem recorded_strand (s : State) (r : TrapRec) : (s.recorded r).strand s.cur = s.me.recorded r :=
  State.strand_setStrand _ _ _

theorem recorded_strand_other (s : State) (r : TrapRec) (k : Nat) (hk : k ≠ s.cur) : (s.recorded r).strand k = s.strand k :=
  State.strand_setStrand_other _ _ _ _ hk

/-- A trap leaves its strand with the record made, whatever it finds in the handler's table. -/
theorem trapped_me (s : State) (r : TrapRec) : ∃ ph pc en, (trapped s r).me = { s.me.recorded r with phase := ph, pc := pc, entering := en } := by
  obtain ⟨hcur, -, hstrand⟩ := sent_trapped s r
  rw [recorded_strand] at hstrand
  rw [State.me, hcur]
  exact hstrand

theorem trapped_strand_other (s : State) (r : TrapRec) (k : Nat) (hk : k ≠ s.cur) : (trapped s r).strand k = s.strand k :=
  ((sent_trapped s r).others k hk).trans (recorded_strand_other s r k hk)

theorem exec_trap (s : State) (g : Guard) (c : BitVec 32) (h : Ready s g []) :
    exec (.trap g c) s = .next (trapped s { cause := 0x3F, tva := c.zeroExtend 64 }) :=
  traps_of_ready (by unfold exec; rfl) (by exact h) (by rfl)

theorem exec_brk (s : State) (g : Guard) (c : BitVec 32) (h : Ready s g []) :
    exec (.brk g c) s = .next (trapped s { cause := 0x39, tva := c.zeroExtend 64 }) :=
  traps_of_ready (by unfold exec; rfl) (by exact h) (by rfl)

/-- Settles O13: what a trap leaves is the strand with its record, but for where it goes. -/
theorem trapEntry : Obligations.TrapEntry := by
  unfold Obligations.TrapEntry
  refine ⟨fun s g c h => ?_, fun s r => ?_⟩
  · intro entered
    have hent {i : Instr} {cause : BitVec 8} (hi : exec i s = .next (trapped s { cause := cause, tva := c.zeroExtend 64 })) : entered i cause := by
      obtain ⟨ph, pc, en, hme⟩ := trapped_me s { cause := cause, tva := c.zeroExtend 64 }
      refine ⟨_, hi, rfl, ?_⟩
      rw [hme]
      exact ⟨rfl, rfl, rfl, rfl, rfl, rfl, rfl, rfl, rfl⟩
    exact ⟨hent (exec_trap s g c h), hent (exec_brk s g c h)⟩
  · intro y x
    obtain ⟨ph, pc, en, hme⟩ := trapped_me s r
    simp only [y, hme]
    exact ⟨rfl, rfl, rfl, rfl, rfl, rfl, rfl, rfl, rfl, rfl, rfl, rfl, rfl, rfl, rfl, rfl, rfl, rfl, rfl, rfl, rfl,
      fun k hk => trapped_strand_other s r k hk⟩

end Sys2Proof.Machine
end

section
/-! PROOFS. Where a trap goes (R443, R444), a return and the end of a bundle (R16, R101, R298, R452), and what traps (R15, R72, R136,
R189). -/

namespace Sys2Proof.Machine

/-! The handler. -/

section Handler
variable {s : State} {n : Nat}

/-- The entry of the trap table for the strand's ASID. -/
def State.tableAt (s : State) (n : Nat) : Nat := (s.mgr 0x110).toNat + 16 * (s.strand n).sys.asid.toNat

/-- The table's entry, read. -/
def State.tableEntry (s : State) (n : Nat) : State × List Byte × List Nat := s.readDram (s.tableAt n) 16

/-- The trap table has no entry from which a handler's address may be taken. -/
def noTable (q : State × List Byte × List Nat) : Prop := q.2.2 ≠ [] ∨ word q.2.1 0 = 0 ∨ word q.2.1 0 % 8 ≠ 0

theorem enterHandler_of_not_zoned (h : s.zoned (s.tableAt n) 16 = false) : s.enterHandler n = s.stopForHost n := by
  unfold State.tableAt at h
  simp [State.enterHandler, h]

theorem enterHandler_of_bad_table (h : s.zoned (s.tableAt n) 16 = true) (hbad : noTable (s.tableEntry n)) :
    s.enterHandler n = (s.tableEntry n).1.stopForHost n := by
  unfold State.enterHandler
  refine (if_neg (by simpa [State.tableAt] using h)).trans (if_pos ?_)
  simpa [or_assoc, noTable, State.tableEntry, State.tableAt] using hbad

theorem enterHandler_of_handler {s3 : State} {seg : Seg} (h : s.zoned (s.tableAt n) 16 = true)
    (hgood : ¬ noTable (s.tableEntry n)) {a : Word}
    (ha : a = BitVec.ofNat 64 (word (s.tableEntry n).2.1 0 + 8 * ((s.strand n).sys.tcause.toNat % 128))) (hwin : winOf a = .d)
    (hres : (s.tableEntry n).1.resolve (.strand n) (coreOf n) n (s.strand n).sys.asid { r := true } 8 a 8 = (s3, .ok [seg]))
    (hpend : s3.pendingAt (.strand n) seg.sp seg.pa 8 true = false)
    (hv : (s3.readAt seg.sp seg.pa 8).2.2 = []) (he : ofBytes (s3.readAt seg.sp seg.pa 8).2.1 ≠ 0)
    (hea : ofBytes (s3.readAt seg.sp seg.pa 8).2.1 % 8 = 0) :
    s.enterHandler n = ((s3.readAt seg.sp seg.pa 8).1.settled n).modStrand n (fun t =>
      { t with pc := BitVec.ofNat 64 (ofBytes (s3.readAt seg.sp seg.pa 8).2.1), entering := false }) := by
  subst ha
  unfold State.enterHandler
  refine (if_neg (by simpa [State.tableAt] using h)).trans ((if_neg ?_).trans ?_)
  · simpa [or_assoc, noTable, State.tableEntry, State.tableAt] using hgood
  · unfold State.tableEntry State.tableAt at hres hwin
    dsimp only
    rw [hres]
    simp [hpend, hv, he, hea, hwin]

end Handler

theorem settled_asks (s : State) (n : Nat) : (s.settled n).asks = s.asks := by
  unfold State.settled
  split <;> rfl

/-- Settles O14: a trap is its record and then the handler's table, read once. -/
theorem trapDestination : Obligations.TrapDestination := by
  unfold Obligations.TrapDestination
  refine ⟨fun s r => ?_, fun s r hp => ?_⟩
  · intro t s0 s1 y t1 s2 at' q hta a hp
    have he : trapped s r = s2.enterHandler s.cur :=
      (trapped_eq s r).trans (if_neg (by rw [show s.me.sys.priv = false from hp]; exact Bool.false_ne_true))
    have hs : s2.strand s.cur = t1 := State.strand_setStrand _ _ _
    have hat : s2.tableAt s.cur = at' := by rw [State.tableAt, hs]; rfl
    have hq : s2.tableEntry s.cur = q := by rw [State.tableEntry, hat]
    rw [he]
    refine ⟨fun hz => ?_, fun hz hb => ?_, fun s3 seg hz hg hn ha8 hw hr hpe hv he0 he8 => ?_⟩
    · exact enterHandler_of_not_zoned (by rw [hat]; exact hz)
    · rw [enterHandler_of_bad_table (by rw [hat]; exact hz) (by rw [hq]; exact hb), hq]
    · refine enterHandler_of_handler (a := a) (by rw [hat]; exact hz) ?_ (by rw [hq, hs]) hw (by rw [hq, hs]; exact hr) hpe hv he0 he8
      rw [hq]
      rintro (h | h | h)
      · exact h hg
      · exact hn h
      · exact h ha8
  · have he : trapped s r = (s.recorded r).stopForHost s.cur := (trapped_eq s r).trans (if_pos hp)
    rw [he]
    refine ⟨?_, ?_⟩
    · rw [State.me, (sent_stopForHost s.cur (s.recorded r)).cur]
      exact congrArg Strand.phase (State.strand_setStrand _ _ _)
    · refine ⟨((s.recorded r).settled s.cur).fresh, ?_⟩
      have ht : ((s.recorded r).strand s.cur).sys.tcause = r.cause := by rw [recorded_strand]; rfl
      show ((s.recorded r).settled s.cur).asks ++ [{ kind := 3, a := _, b := ((s.recorded r).strand s.cur).sys.tcause.zeroExtend 64,
      .. }] = _
      rw [settled_asks, ht]
      rfl

end Sys2Proof.Machine
end

section
/-! PROOFS. A return and the end of a bundle (R16, R100, R101, R298, R452). -/

namespace Sys2Proof.Machine

/-! What the writes that wait for a bundle's end leave alone. -/

theorem clearIl_eq (t : Strand) : ∃ il, t.clearIl = { t with sys := { t.sys with il := il } } := by
  unfold Strand.clearIl
  split
  · exact ⟨_, rfl⟩
  · exact ⟨_, rfl⟩

/-- What no write of a bundle's end changes. -/
structure KeepsPace (t u : Strand) : Prop where
  iss : u.iss = t.iss
  pend : u.pend = t.pend
  bundle : u.bundle = t.bundle
  flights : u.flights = t.flights
  clock : u.clock = t.clock

theorem keepsPace_writeSys (t : Strand) (n : Nat) (v : Word) : KeepsPace t (t.writeSys n v) := by
  unfold Strand.writeSys
  split <;> exact ⟨rfl, rfl, rfl, rfl, rfl⟩

theorem keepsPace_apply (t : Strand) (p : Pend) : KeepsPace t (t.apply p) := by
  cases p
  case sys n v => exact keepsPace_writeSys t n v
  all_goals exact ⟨rfl, rfl, rfl, rfl, rfl⟩

theorem keepsPace_foldl (ps : List Pend) (t : Strand) : KeepsPace t (ps.foldl (fun (x : Strand) p => x.apply p) t) := by
  induction ps generalizing t with
  | nil => exact ⟨rfl, rfl, rfl, rfl, rfl⟩
  | cons p ps ih =>
    obtain ⟨h1, h2, h3, h4, h5⟩ := ih (t.apply p)
    obtain ⟨k1, k2, k3, k4, k5⟩ := keepsPace_apply t p
    exact ⟨h1.trans k1, h2.trans k2, h3.trans k3, h4.trans k4, h5.trans k5⟩

/-! The end of a bundle. -/

/-- The strand as the cycle of its bundle leaves it, before the writes that waited for its end. -/
def Strand.cycled (t : Strand) (il : Bool) : Strand :=
  ({ t with sys := { t.sys with il := il }, pc := t.pc + BitVec.ofNat 64 (8 * t.blen), bundle := t.bundle + 1, iss := .issued, pend := [],
            wfeFrom := none, wfeOut := false, bpSkip := false } : Strand).pass t.bundleTicks

theorem endBundle_eq (t : Strand) : ∃ il step, t.endBundle =
    { t.pend.foldl (fun (x : Strand) p => x.apply p) (t.cycled il) with stepDue := step } := by
  obtain ⟨il, h⟩ := clearIl_eq t
  exact ⟨il, _, by unfold Strand.endBundle; rw [h]; rfl⟩

theorem conclude_me {s : State} (h : s.me.more = false) : (conclude s).me = s.me.endBundle := by
  unfold conclude
  rw [if_neg (by simp [h]), State.settled]
  split <;> exact State.me_setMe _ _

theorem bundleTicks_of_no_clkdiv {t : Strand} (h : ∀ d, .clkdiv d ∉ t.pend) : t.bundleTicks = t.e.divS := by
  unfold Strand.bundleTicks
  rw [List.findSome?_eq_none_iff.mpr]
  · exact Nat.one_mul _
  · rintro (_ | _ | _ | _ | _ | _ | d) hp
    case clkdiv => exact absurd hp (h d)
    all_goals rfl

/-! A return. -/

theorem mem_returnFrom_of_stopped {t : Strand} {c : Cmd} (hc : c ∈ t.e.cmds) (hs : c.st = .stopped) (hf : ∀ f ∈ t.e.faults, f.id ≠ c.id) :
    { c with st := .running } ∈ t.returnFrom.e.cmds := by
  refine List.mem_map.mpr ⟨c, hc, if_pos ?_⟩
  simpa [hs] using hf

theorem mem_returnFrom_of_not {t : Strand} {c : Cmd} (hc : c ∈ t.e.cmds) (h : c.st ≠ .stopped ∨ ∃ f ∈ t.e.faults, f.id = c.id) :
    c ∈ t.returnFrom.e.cmds := by
  refine List.mem_map.mpr ⟨c, hc, if_neg ?_⟩
  rcases h with h | ⟨f, hf, he⟩
  · simp [h]
  · simpa using fun _ => ⟨f, hf, he⟩

theorem issues_eret {s : State} {g : Guard} (hp : s.me.sys.priv = true) (h : Ready s g []) (hg : gp s g = false)
    (ha : s.me.sys.tpc.toNat % 8 = 0) : Issues (.eret g) s { s.me with pend := s.me.pend ++ [.eret] } := by
  refine issuesAt_of_ready_priv (by unfold exec; rfl) hp (by exact h) ?_
  have hg' : (s.me.p g.p).poison = false := hg
  simp [hg', ha, Strand.defer]

/-- Settles O16: a bundle's end is one cycle and then the writes that waited for it. -/
theorem returnAndBundleEnd : Obligations.ReturnAndBundleEnd := by
  unfold Obligations.ReturnAndBundleEnd
  refine ⟨⟨fun s g hp h hg ha => issues_eret hp h hg ha, fun t => ?_⟩, fun s hm => ?_⟩
  · exact ⟨rfl, rfl, rfl, rfl, rfl, fun c hc hs hf => mem_returnFrom_of_stopped hc hs hf, fun c hc h => mem_returnFrom_of_not hc h⟩
  · intro t u
    obtain ⟨il, step, hu⟩ := endBundle_eq t
    replace hu : u = _ := (conclude_me hm).trans hu
    obtain ⟨h1, h2, h3, h4, h5⟩ := keepsPace_foldl t.pend (t.cycled il)
    rw [hu]
    refine ⟨h1, h2, h3, OnlyMe_conclude s, h4, fun h => h5.trans (congrArg (t.clock + ·) (bundleTicks_of_no_clkdiv h)), fun h => ?_,
      fun a n h => ?_,
      fun h => ?_, fun h => ?_, fun h => ?_, fun d h => ?_⟩
    all_goals rw [h]
    · exact ⟨rfl, rfl, rfl, rfl, rfl⟩
    · exact ⟨rfl, rfl⟩
    · exact ⟨rfl, BitVec.add_sub_cancel _ _, rfl⟩
    · exact ⟨rfl, rfl, rfl⟩
    · exact ⟨rfl, rfl⟩
    · have ht : t.bundleTicks = d := by rw [Strand.bundleTicks, h]; rfl
      refine ⟨rfl, congrArg (t.clock + ·) ht, ?_, rfl⟩
      show t.clock + t.bundleTicks + 7 * d = _
      rw [ht]
      omega

end Sys2Proof.Machine
end

section
/-! PROOFS. System and shape registers (R99, R100, R139, R233), and what traps (R15, R72, R136, R189). -/

namespace Sys2Proof.Machine

section Registers
variable {s : State} {g : Guard} {n : BitVec 12} {r : GReg}

theorem sendsG_sysr (hp : s.me.sys.priv = true ∨ n.toNat < 0x020) (h : Ready s g [.g r.toNat]) :
    SendsG (.sysr g r n) s r (s.sysRead s.cur n.toNat) (gp s g) 2 := by
  have hu : (!userReads n.toNat) = false ∨ s.me.sys.priv = true := hp.symm.imp_left fun hn => by simp [userReads, hn]
  exact (exec_of_ready (i := .sysr g r n) (by unfold exec; rfl) hu (by exact h)).trans rfl

theorem sysw_of_held (hp : s.me.sys.priv = true ∨ userWrites n.toNat = true) (h : Ready s g [.g r.toNat])
    (hv : (s.me.g r).poison = false) (hb : s.me.sysBad n.toNat (s.me.g r).val = false) {u : State}
    (hu : (if n = 0x009 then (if (s.me.g r).val.getLsbD 0 then s.modStrand (otherOf s.cur) (fun o => o.setEvt 6) else s)
      else if n = 0x008 then s.setMe (s.me.writeSys 0x008 (s.me.g r).val)
      else s.setMe (s.me.defer (.sys n.toNat (s.me.g r).val))) = u) : IssuesAt (.sysw g n r) s u := by
  have hp' : (!userWrites n.toNat) = false ∨ s.me.sys.priv = true := hp.symm.imp_left fun hn => by simp [hn]
  refine (exec_of_ready (by unfold exec; rfl) hp' (by exact h)).trans ?_
  subst hu
  simp only [hv, hb, Bool.false_eq_true, if_false]
  split
  · rfl
  · split <;> rfl

end Registers

/-- Settles O17. -/
theorem systemAndShapeForms : Obligations.SystemAndShapeForms := by
  unfold Obligations.SystemAndShapeForms
  refine ⟨fun s g n r => ⟨sendsG_sysr, fun hp h hv hb => ⟨fun h9 h8 => ?_, fun h8 => ?_, fun h9 ht => ?_, fun h9 hf => ?_⟩⟩,
    fun s g k f => ⟨fun r h hv hf => ?_, fun v h hf => ?_, fun v h hf => ?_, fun r h hv => ?_, fun gd sh h => ?_⟩⟩
  · exact sysw_of_held hp h hv hb ((if_neg h9).trans (if_neg h8))
  · exact sysw_of_held hp h hv hb ((if_neg (by rw [h8]; decide)).trans (if_pos h8))
  · exact sysw_of_held hp h hv hb ((if_pos h9).trans (if_pos ht))
  · exact sysw_of_held hp h hv hb ((if_pos h9).trans (if_neg (by rw [hf]; exact Bool.false_ne_true)))
  · refine issues_of_ready (by unfold exec; rfl) (by exact h) ?_
    simp [hv, hf, Strand.defer]
  · refine issues_of_ready (by unfold exec; rfl) (by exact h) ?_
    simp [hf, Strand.defer]
  · refine traps_of_ready (by unfold exec; rfl) (by exact h) ?_
    simp [hf, trapIf]
  · refine traps_of_ready (by unfold exec; rfl) (by exact h) ?_
    simp [hv, trapIf]
  · exact sendsG_of_ready (by unfold exec; rfl) (by exact h) rfl

/-! What traps. -/

theorem privileged_traps {s : State} {i : Instr} (hi : needsPriv i = true) (h : s.me.sys.priv = false) : Traps i s { cause := 0x04 } := by
  have hg : ∃ g, guardOf i = some g := by
    cases i
    case eret | rgsplit | rgmerge | rginv | rgpin | sysr | sysw => exact ⟨_, rfl⟩
    all_goals exact absurd hi Bool.false_ne_true
  obtain ⟨g, hg⟩ := hg
  obtain ⟨ds, k, e⟩ := exec_isSyllable s hg
  rw [Traps, e, hi, syllable_privileged h]

section Checks
variable {s s1 : State} {g : Guard} {o : SBin} {w : Wd} {sx : Bool} {c : BitVec 7} {va : Word}
  (h : Ready s g (.g o.gd.toNat :: .g o.ga.toNat :: srcBReg o.b))
include h

theorem traps_ld_of_poison (hb : ((s.me.g o.ga).poison || (s.me.srcB o.b).poison) = true) : Traps (.ld g o w sx) s { cause := 0x1A } := by
  refine traps_of_ready (by unfold exec; rfl) (by exact h) ?_
  exact if_pos hb

theorem traps_st_of_poison (hb : ((s.me.g o.ga).poison || (s.me.srcB o.b).poison) = true) : Traps (.st g o w) s { cause := 0x1A } := by
  refine traps_of_ready (by unfold exec; rfl) (by exact h) ?_
  exact if_pos hb

theorem traps_st_of_poisoned_data (hb : ((s.me.g o.ga).poison || (s.me.srcB o.b).poison) = false)
    (hd : ((s.me.g o.gd).poison || gp s g) = true) : Traps (.st g o w) s { cause := 0x19 } := by
  refine traps_of_ready (by unfold exec; rfl) (by exact h) ?_
  simp only [hb]
  exact if_pos hd

theorem ld_of_fault (hb : ((s.me.g o.ga).poison || (s.me.srcB o.b).poison) = false)
    (hc : s.check { r := true } 1 ((s.me.g o.ga).val + (s.me.srcB o.b).val) (wdBytes w) = (s1, .fault c va)) :
    exec (.ld g o w sx) s = .next (trapped s1 { cause := c.zeroExtend 8, tva := va }) := by
  refine (exec_of_ready (by unfold exec; rfl) (.inl rfl) (by exact h)).trans ?_
  simp only [hb, Bool.false_eq_true, if_false, scalarLoad, checked, hc]
  rfl

theorem st_of_fault (hb : ((s.me.g o.ga).poison || (s.me.srcB o.b).poison) = false) (hd : ((s.me.g o.gd).poison || gp s g) = false)
    (hc : s.check { w := true } 1 ((s.me.g o.ga).val + (s.me.srcB o.b).val) (wdBytes w) = (s1, .fault c va)) :
    exec (.st g o w) s = .next (trapped s1 { cause := c.zeroExtend 8, tva := va }) := by
  unfold gp at hd
  refine (exec_of_ready (by unfold exec; rfl) (.inl rfl) (by exact h)).trans ?_
  simp only [hb, hd, Bool.false_eq_true, if_false, scalarStore, checked, hc]
  rfl

end Checks

section Families
variable {s : State} {g : Guard} {h : MHead} {i : Instr} {c : BitVec 7} {ds : Strand → List Dst} {k : Strand → Res}

theorem exec_guardedM (hi : exec i s = guardedM c s h ds k) (hr : Ready s h.g (ds s.me)) :
    exec i s = finish (if gp s h.g then trapIf s c 0 else k (s.me.swapIn h)) :=
  hi.trans (syllable_ready false (.inl rfl) hr)

theorem exec_control (hi : exec i s = control s g ds k) (hr : Ready s g (ds s.me)) :
    exec i s = finish (if gp s g then trapIf s 0x1A 0 else k s.me) :=
  hi.trans (syllable_ready false (.inl rfl) hr)

end Families

section Commands
variable {s : State} {h : MHead} {n : BitVec 7} (hr : Ready s h.g [])
include hr

theorem exec_lease : exec (.lease h n) s =
    finish (if gp s h.g then trapIf s 0x1A 0 else enqueue s (s.me.swapIn h) h 1 (.lease h n) {}) :=
  exec_guardedM (i := .lease h n) (ds := fun _ => []) (k := fun t => enqueue s t h 1 (.lease h n) {}) (by unfold exec; rfl) hr

theorem traps_lease_of_poison (hg : gp s h.g = true) : Traps (.lease h n) s { cause := 0x1A } :=
  (exec_lease hr).trans (congrArg finish (if_pos hg))

theorem traps_lease_of_unmapped (hg : gp s h.g = false) (hk : (s.me.swapIn h).tkOk h 1 = false) : Traps (.lease h n) s { cause := 0x03 } := by
  refine (exec_lease hr).trans ?_
  simp [hg, enqueue, hk, trapIf, finish]

theorem holdsAt_lease_of_full (hg : gp s h.g = false) (hk : (s.me.swapIn h).tkOk h 1 = true)
    (hq : 16 ≤ ((s.me.swapIn h).queue 1).length) : HoldsAt (.lease h n) s s := by
  refine (exec_lease hr).trans ?_
  simp [hg, enqueue, hk, show queueDepth 1 = 16 from rfl, hq, finish]

end Commands

section Jump
variable {s : State} {g : Guard} {gd ga : GReg} {imm : BitVec 32} (h : Ready s g [.g gd.toNat, .g ga.toNat])
include h

theorem exec_jr : exec (.jr g gd ga imm) s =
    finish (if gp s g then trapIf s 0x1A 0 else if (s.me.g ga).poison then trapIf s 0x1A 0
      else transfer s (s.me.fly (.g gd.toNat) (.s { val := s.me.link, poison := false }) 0 1 true) ((s.me.g ga).val + imm.signExtend 64) 3) :=
  exec_control (i := .jr g gd ga imm) (ds := fun _ => [.g gd.toNat, .g ga.toNat]) (by unfold exec; rfl) h

theorem traps_jr_of_poisoned_guard (hg : gp s g = true) : Traps (.jr g gd ga imm) s { cause := 0x1A } :=
  (exec_jr h).trans (congrArg finish (if_pos hg))

theorem traps_jr_of_poison (hg : gp s g = false) (hp : (s.me.g ga).poison = true) : Traps (.jr g gd ga imm) s { cause := 0x1A } := by
  refine (exec_jr h).trans ?_
  simp [hg, hp, trapIf, finish]

theorem traps_jr_of_misaligned (hg : gp s g = false) (hp : (s.me.g ga).poison = false)
    (ha : ((s.me.g ga).val + imm.signExtend 64).toNat % 8 ≠ 0) :
    Traps (.jr g gd ga imm) s { cause := 0x0A, tva := (s.me.g ga).val + imm.signExtend 64 } := by
  have hb : (((s.me.g ga).val + imm.signExtend 64).toNat % 8 != 0) = true := bne_iff_ne.mpr ha
  refine (exec_jr h).trans ?_
  simp only [hg, hp, transfer, hb, if_true, Bool.false_eq_true, if_false]
  rfl

end Jump

/-- Settles O15. -/
theorem whatTraps : Obligations.WhatTraps := by
  unfold Obligations.WhatTraps
  exact ⟨fun s i hi h => privileged_traps hi h,
    fun s g gd ga imm h => ⟨traps_jr_of_poisoned_guard h, traps_jr_of_poison h, traps_jr_of_misaligned h⟩,
    fun s s1 g o w sx c va h => ⟨fun hb => ⟨traps_ld_of_poison h hb, traps_st_of_poison h hb⟩, traps_st_of_poisoned_data h,
      ld_of_fault h, st_of_fault h⟩,
    fun s h n hr => ⟨traps_lease_of_poison hr, traps_lease_of_unmapped hr, holdsAt_lease_of_full hr⟩⟩

end Sys2Proof.Machine
end

section
/-! PROOFS. `Round` and NaN operands (R51, R57, R59, R68, R94). -/

namespace Sys2Proof.Machine

/-! NaN operands. -/

section Nan
variable {rdn s : Bool} {v : Val} {f : Fmt} {mode : RM} {sat : Bool} {u : Nat}

theorem isNan_iff {v : Val} : v.isNan = true ↔ ∃ s, v = .nan s := by
  cases v <;> simp [Val.isNan]

theorem sumTerms_nan_left (rdn s : Bool) (v : Val) : sumTerms rdn [.nan s, v.term] = .nan (s || v.isSig) := by
  cases v with
  | nan t => simp [sumTerms, Val.term, Val.isSig]
  | inf n => cases n <;> simp [sumTerms, Val.term, Val.isSig]
  | fin n m e => simp [sumTerms, Val.term, Val.isSig]

theorem sumTerms_nan_right (rdn s : Bool) (v : Val) : sumTerms rdn [v.term, .nan s] = .nan (s || v.isSig) := by
  cases v with
  | nan t => simp [sumTerms, Val.term, Val.isSig, Bool.or_comm]
  | inf n => cases n <;> simp [sumTerms, Val.term, Val.isSig]
  | fin n m e => simp [sumTerms, Val.term, Val.isSig]

theorem mulTerm_nan_left (s : Bool) (v : Val) : mulTerm (.nan s) v = .nan (s || v.isSig) := by
  cases v <;> simp [mulTerm, Val.isSig]

theorem mulTerm_nan_right (s : Bool) (v : Val) : mulTerm v (.nan s) = .nan (s || v.isSig) := by
  cases v <;> simp [mulTerm, Val.isSig, Bool.or_comm]

theorem ofTerm_nan (hf : f.sp = .ieee) (mode : RM) (sat : Bool) (u : Nat) (i : Bool) :
    f.ofTerm mode sat u (.nan i) = (f.nan, if i then fInvalid else 0) := by
  simp [Fmt.ofTerm, hf, flagIf]

/-- Settles O8. -/
theorem nanOperands : Obligations.NanOperands := by
  unfold Obligations.NanOperands
  intro f hf mode sat u a b ha sig
  have hi : f.sp = .ieee := by
    simp only [List.mem_cons, List.not_mem_nil, or_false] at hf
    rcases hf with rfl | rfl | rfl | rfl <;> rfl
  obtain ⟨s, hs⟩ := isNan_iff.mp ha
  have hsig : sig = (s || (f.val b).isSig) := by simp only [sig, hs]; rfl
  rw [hsig]
  refine ⟨?_, ?_, ?_, ?_, fun c => ?_, fun c => ?_⟩
  · rw [Fmt.add, hs]
    exact (congrArg _ (sumTerms_nan_left _ s _)).trans (ofTerm_nan hi ..)
  · rw [Fmt.add, hs]
    exact (congrArg _ (sumTerms_nan_right _ s _)).trans (ofTerm_nan hi ..)
  · rw [Fmt.mul, hs, mulTerm_nan_left]
    exact ofTerm_nan hi ..
  · rw [Fmt.mul, hs, mulTerm_nan_right]
    exact ofTerm_nan hi ..
  · cases c <;> simp [Fmt.cmp, ha]
  · cases c <;> simp [Fmt.cmp, hs, Val.isNan, Val.isSig, flagIf]

end Nan

/-! Rounding a value that the format holds. -/

theorem bit_eq_one {x n : Nat} (h : x < 2 ^ (n + 1)) : x = (if bit x n then 2 ^ n else 0) + x % 2 ^ n := by
  have hd : x / 2 ^ n < 2 := Nat.div_lt_of_lt_mul (Nat.pow_succ 2 n ▸ h)
  have hx := Nat.div_add_mod x (2 ^ n)
  rcases Nat.lt_succ_iff_lt_or_eq.mp hd with h0 | h1
  · have h0 : x / 2 ^ n = 0 := Nat.lt_one_iff.mp h0
    rw [h0] at hx
    simp [bit, h0]
    omega
  · simp only [bit, h1]
    rw [h1] at hx
    simp
    omega

/-- A code is its sign over its exponent field over its fraction. -/
theorem code_eq (f : Fmt) {x : Nat} (hx : x < 2 ^ f.width) :
    x = f.signed (bit x (f.eb + f.mb)) (x / 2 ^ f.mb % 2 ^ f.eb * 2 ^ f.mb + x % 2 ^ f.mb) := by
  have hw : f.width = f.eb + f.mb + 1 := by unfold Fmt.width; omega
  have hlow : x % 2 ^ (f.eb + f.mb) = x / 2 ^ f.mb % 2 ^ f.eb * 2 ^ f.mb + x % 2 ^ f.mb := by
    rw [Nat.add_comm f.eb, Nat.pow_add, Nat.mod_mul, Nat.mul_comm, Nat.add_comm]
  rw [← hlow]
  refine (bit_eq_one (by rw [← hw]; exact hx)).trans ?_
  unfold Fmt.signed Fmt.signW
  split <;> omega

/-- The magnitude and exponent of a finite code, by its exponent field and its fraction. -/
structure FinCode (f : Fmt) (ex fr m : Nat) (e : Int) : Prop where
  fr_lt : fr < 2 ^ f.mb
  le_max : ex * 2 ^ f.mb + fr ≤ f.maxCode
  num : ex = 0 ∧ m = fr ∧ e = f.emin - f.mb ∨ ex ≠ 0 ∧ m = 2 ^ f.mb + fr ∧ e = (ex : Int) - f.bias - f.mb

theorem finCode_of_number {f : Fmt} {ex fr m : Nat} {neg neg' : Bool} {e : Int} (hfr : fr < 2 ^ f.mb)
    (hle : ex * 2 ^ f.mb + fr ≤ f.maxCode)
    (h : (if ex == 0 then Val.fin neg fr (f.emin - f.mb) else .fin neg (2 ^ f.mb + fr) ((ex : Int) - f.bias - f.mb)) = .fin neg' m e) :
    neg' = neg ∧ FinCode f ex fr m e := by
  split at h
  · next h0 =>
    injection h with h1 h2 h3
    exact ⟨h1.symm, hfr, hle, .inl ⟨by simpa using h0, h2.symm, h3.symm⟩⟩
  · next h0 =>
    injection h with h1 h2 h3
    exact ⟨h1.symm, hfr, hle, .inr ⟨by simpa using h0, h2.symm, h3.symm⟩⟩

/-- The codes of a format that are no NaN and no infinity end at its greatest. -/
def MaxIsGreatest (f : Fmt) : Prop :=
  ∀ ex fr, ex < 2 ^ f.eb → fr < 2 ^ f.mb →
    (match f.sp with | .ieee => ex ≠ f.emax | .e4m3 => ¬(ex = f.emax ∧ fr = 7) | .none => True) → ex * 2 ^ f.mb + fr ≤ f.maxCode

theorem val_fin {f : Fmt} {x m : Nat} {neg : Bool} {e : Int} (hmax : MaxIsGreatest f) (h : f.val x = .fin neg m e) :
    neg = bit x (f.eb + f.mb) ∧ FinCode f (x / 2 ^ f.mb % 2 ^ f.eb) (x % 2 ^ f.mb) m e := by
  have hfr : x % 2 ^ f.mb < 2 ^ f.mb := Nat.mod_lt _ (Nat.two_pow_pos _)
  have hm := hmax (x / 2 ^ f.mb % 2 ^ f.eb) (x % 2 ^ f.mb) (Nat.mod_lt _ (Nat.two_pow_pos _)) hfr
  unfold Fmt.val at h
  simp only at h
  cases hs : f.sp with
  | ieee =>
    simp only [hs] at h hm
    split at h
    · split at h <;> cases h
    · next hne => exact finCode_of_number hfr (hm (by simpa using hne)) h
  | e4m3 =>
    simp only [hs] at h hm
    split at h
    · cases h
    · next hne => exact finCode_of_number hfr (hm (by simpa using hne)) h
  | none =>
    simp only [hs] at h hm
    exact finCode_of_number hfr (hm trivial) h

theorem roundAt_of_ge {mode : RM} {u m : Nat} {neg : Bool} {e q : Int} (h : q ≤ e) :
    roundAt mode u neg m e q = (m * 2 ^ (e - q).toNat, false) := if_pos h

section Finite
variable {f : Fmt} {ex fr m : Nat} {e : Int} (hc : FinCode f ex fr m e)
include hc

theorem FinCode.m_lt : m < 2 ^ (f.mb + 1) := by
  obtain ⟨hfr, -, ⟨-, hm, -⟩ | ⟨-, hm, -⟩⟩ := hc <;> rw [Nat.pow_succ] <;> omega

theorem FinCode.log2_le (h0 : m ≠ 0) : Nat.log2 m ≤ f.mb := by
  have := (Nat.log2_lt h0).mpr hc.m_lt
  omega

/-- The value's own place is that of the second rounding (R59). -/
theorem FinCode.place (h0 : m ≠ 0) : max (e + Nat.log2 m) f.emin - f.mb = e := by
  obtain ⟨hfr, -, ⟨-, hm, he⟩ | ⟨hne, hm, he⟩⟩ := hc
  · have hl : Nat.log2 m < f.mb := (Nat.log2_lt h0).mpr (by omega)
    omega
  · have hl : Nat.log2 m = f.mb := (Nat.log2_eq_iff h0).mpr ⟨by omega, by rw [Nat.pow_succ]; omega⟩
    have hb : f.emin = 1 - (f.bias : Int) := rfl
    omega

/-- The code that `Round` makes of the value is the value's own. -/
theorem FinCode.code : (if m < 2 ^ f.mb then m
    else if m < 2 ^ (f.mb + 1) then (e + f.mb + f.bias).toNat * 2 ^ f.mb + (m - 2 ^ f.mb)
    else (e + f.mb + f.bias + 1).toNat * 2 ^ f.mb) = ex * 2 ^ f.mb + fr := by
  have hlt := hc.m_lt
  obtain ⟨hfr, -, ⟨hex, hm, he⟩ | ⟨hne, hm, he⟩⟩ := hc
  · rw [if_pos (by omega), hm, hex]
    omega
  · rw [if_neg (by omega), if_pos hlt, show e + f.mb + f.bias = (ex : Int) by omega, hm]
    simp

/-- The value has its exponent in the format's range, or one below it. -/
theorem FinCode.exponent_le (h0 : m ≠ 0) (hbig : 2 ^ f.mb ≤ f.maxCode) :
    e + Nat.log2 m - f.mb < ((f.maxCode / 2 ^ f.mb : Nat) : Int) - f.bias - f.mb ∨
    ex = f.maxCode / 2 ^ f.mb ∧ Nat.log2 m = f.mb ∧ e = ((f.maxCode / 2 ^ f.mb : Nat) : Int) - f.bias - f.mb ∧ m = 2 ^ f.mb + fr := by
  have hpos := Nat.two_pow_pos f.mb
  have hex : ex ≤ f.maxCode / 2 ^ f.mb := (Nat.le_div_iff_mul_le hpos).mpr (Nat.le_trans (Nat.le_add_right _ _) hc.le_max)
  have hone : 1 ≤ f.maxCode / 2 ^ f.mb := (Nat.one_le_div_iff hpos).mpr hbig
  have hmin : f.emin = 1 - (f.bias : Int) := rfl
  obtain ⟨hfr, -, ⟨-, hm, he⟩ | ⟨-, hm, he⟩⟩ := hc
  · have hl : Nat.log2 m < f.mb := (Nat.log2_lt h0).mpr (by omega)
    exact .inl (by omega)
  · have hl : Nat.log2 m = f.mb := (Nat.log2_eq_iff h0).mpr ⟨by omega, by rw [Nat.pow_succ]; omega⟩
    rcases Nat.lt_or_eq_of_le hex with h | h
    · exact .inl (by omega)
    · exact .inr ⟨h, hl, by omega, hm⟩

/-- With its exponent unbounded the value is no greater than the greatest (R58). -/
theorem FinCode.magLe_max (h0 : m ≠ 0) (hbig : 2 ^ f.mb ≤ f.maxCode) :
    magLe (m * 2 ^ (f.mb - Nat.log2 m)) (e + Nat.log2 m - f.mb) (2 ^ f.mb + f.maxCode % 2 ^ f.mb)
      (((f.maxCode / 2 ^ f.mb : Nat) : Int) - f.bias - f.mb) = true := by
  rcases hc.exponent_le h0 hbig with hlt | ⟨hex, hl, he, hm⟩
  · have hn : m * 2 ^ (f.mb - Nat.log2 m) < 2 ^ f.mb * 2 := by
      calc m * 2 ^ (f.mb - Nat.log2 m)
        _ < 2 ^ (Nat.log2 m + 1) * 2 ^ (f.mb - Nat.log2 m) := Nat.mul_lt_mul_of_pos_right Nat.lt_log2_self (Nat.two_pow_pos _)
        _ = 2 ^ f.mb * 2 := by rw [← Nat.pow_add, ← Nat.pow_succ]; congr 1; have := hc.log2_le h0; omega
    have htwo : 2 ≤ 2 ^ ((((f.maxCode / 2 ^ f.mb : Nat) : Int) - f.bias - f.mb) - (e + Nat.log2 m - f.mb)).toNat :=
      Nat.le_self_pow (by omega) 2
    refine (if_neg (by omega)).trans (decide_eq_true ?_)
    exact Nat.le_trans (Nat.le_of_lt hn) (Nat.mul_le_mul (Nat.le_add_right _ _) htwo)
  · have hle := hc.le_max
    have hd := Nat.div_add_mod f.maxCode (2 ^ f.mb)
    have hfr : fr ≤ f.maxCode % 2 ^ f.mb := by
      rw [hex, Nat.mul_comm] at hle
      omega
    refine (if_pos (by omega)).trans (decide_eq_true ?_)
    rw [hl, hm, show (e + (f.mb : Int) - f.mb - (((f.maxCode / 2 ^ f.mb : Nat) : Int) - f.bias - f.mb)).toNat = 0 by omega]
    simpa using hfr

end Finite

theorem round_of_finCode {f : Fmt} {ex fr m : Nat} {e : Int} (hc : FinCode f ex fr m e) (hbig : 2 ^ f.mb ≤ f.maxCode)
    (mode : RM) (sat : Bool) (u : Nat) (neg : Bool) : f.round mode sat u neg m e = (f.signed neg (ex * 2 ^ f.mb + fr), 0) := by
  unfold Fmt.round
  by_cases h0 : m = 0
  · have hz : ex * 2 ^ f.mb + fr = 0 := by
      have := Nat.two_pow_pos f.mb
      obtain ⟨hfr, -, ⟨hex, hm, he⟩ | ⟨hne, hm, he⟩⟩ := hc
      · subst hex; omega
      · omega
    rw [hz]
    exact if_pos (by simpa using h0)
  · have hun : roundAt mode u neg m e (e + Nat.log2 m - f.mb) = (m * 2 ^ (f.mb - Nat.log2 m), false) := by
      have hl := hc.log2_le h0
      rw [roundAt_of_ge (by omega), show (e - (e + (Nat.log2 m : Int) - f.mb)).toNat = f.mb - Nat.log2 m by omega]
    have hr : roundAt mode u neg m e e = (m, false) := by rw [roundAt_of_ge (Int.le_refl e)]; simp
    simp only [beq_iff_eq, h0, if_false, hun, hc.magLe_max h0 hbig, hc.place h0, hr, hc.code, Bool.not_true, Bool.and_false,
      Bool.false_eq_true]
    rfl

/-- Settles O7. -/
theorem roundKeepsRepresentable : Obligations.RoundKeepsRepresentable := by
  unfold Obligations.RoundKeepsRepresentable
  intro f hf mode sat u x m neg e _ hx h
  have hmax : MaxIsGreatest f ∧ 2 ^ f.mb ≤ f.maxCode := by
    simp only [List.mem_cons, List.not_mem_nil, or_false] at hf
    rcases hf with rfl | rfl | rfl | rfl | rfl | rfl | rfl
    all_goals refine ⟨fun ex fr hex hfr h => ?_, by decide⟩
    all_goals
      simp only [Fmt.f64, Fmt.f32, Fmt.f16, Fmt.bf16, Fmt.e4m3, Fmt.e5m2, Fmt.e2m1, Fmt.emax, Fmt.maxCode] at hex hfr h ⊢
      omega
  obtain ⟨hneg, hc⟩ := val_fin hmax.1 h
  rw [round_of_finCode hc hmax.2, hneg, ← code_eq f hx]

end Sys2Proof.Machine
end

section
/-! PROOFS. What elements come to (R63, R105, R106, R129). -/

namespace Sys2Proof.Machine

/-! Elements of a packed register. -/

theorem elem_pack (w : Nat) (l : List Nat) (n : Nat) : elem (pack w l) w n = l.getD n 0 % 2 ^ w := by
  induction l generalizing n with
  | nil => simp [pack, elem]
  | cons v vs ih =>
    cases n with
    | zero => simp [pack, elem, Nat.shiftLeft_eq]
    | succ n =>
      have hs : (v % 2 ^ w + pack w vs <<< w) >>> ((n + 1) * w) = pack w vs >>> (n * w) := by
        have hlt : v % 2 ^ w < 2 ^ w := Nat.mod_lt _ (Nat.two_pow_pos w)
        rw [Nat.add_mul, Nat.one_mul, Nat.add_comm (n * w), Nat.shiftRight_add, Nat.shiftRight_eq_div_pow _ w, Nat.shiftLeft_eq,
          Nat.add_mul_div_right _ _ (Nat.two_pow_pos w), Nat.div_eq_of_lt hlt, Nat.zero_add]
      rw [List.getD_cons_succ, ← ih, elem, pack, hs, elem]

theorem shiftRight_succ_mul (a n w : Nat) : a >>> w >>> (n * w) = a >>> ((n + 1) * w) := by
  rw [← Nat.shiftRight_add, Nat.add_mul, Nat.one_mul, Nat.add_comm]

theorem repeat_succ_apply {α : Type} (f : α → α) (n : Nat) (a : α) : Nat.repeat f (n + 1) a = Nat.repeat f n (f a) := repeat_add f n 1 a

/-- The generator after n draws, where the rounding draws. -/
def drawnN (rsr : Bool) (n : Nat) (g : BitVec 32) : BitVec 32 := if rsr then Nat.repeat drawStep n g else g

theorem drawnN_succ (rsr : Bool) (n : Nat) (g : BitVec 32) : drawnN rsr (n + 1) g = drawnN rsr n (if rsr then drawStep g else g) := by
  cases rsr
  · rfl
  · exact repeat_succ_apply drawStep n g

/-- Element n of the loop's result: of the elements n, with the generator's state after n + 1 draws. -/
theorem getD_elemLoop {w : Nat} {m : Mask} {rsr : Bool} {f : Nat → Nat → Nat → Nat → Coded} {k i n a b c : Nat} {g : BitVec 32} (hn : n < k) :
    (elemLoop w m rsr f k i g a b c).1.getD n 0 =
      if m.getLsbD ((i + n) * w / 32) then (f (drawBits (drawnN rsr (n + 1) g)) (elem a w n) (elem b w n) (elem c w n)).1 else 0 := by
  induction n generalizing k i g a b c with
  | zero =>
    obtain ⟨k, rfl⟩ := Nat.exists_eq_add_of_lt hn
    rw [Nat.zero_add, elemLoop, drawnN_succ]
    simp only [elem, Nat.zero_mul, Nat.shiftRight_zero, Nat.add_zero]
    split <;> cases rsr <;> rfl
  | succ n ih =>
    obtain ⟨j, rfl⟩ : ∃ j, k = j + 1 := ⟨k - 1, by omega⟩
    have h := ih (k := j) (i := i + 1) (a := a >>> w) (b := b >>> w) (c := c >>> w) (g := if rsr then drawStep g else g) (by omega)
    simp only [elem, shiftRight_succ_mul, ← drawnN_succ, Nat.add_right_comm i 1 n] at h
    rw [elemLoop]
    refine Eq.trans ?_ (h.trans ?_)
    · simp only
      split <;> rfl
    · rfl

/-! The least and the greatest of a list. -/

/-- An operation that picks one of its operands, no greater than either, picks the least of a list. -/
theorem foldl_least {op : Int → Int → Int} {le : Int → Int → Prop} (htrans : ∀ a b c, le a b → le b c → le a c)
    (hsel : ∀ a b, op a b = a ∨ op a b = b) (hl : ∀ a b, le (op a b) a) (hr : ∀ a b, le (op a b) b) (hrefl : ∀ a, le a a)
    (xs : List Int) (a : Int) : xs.foldl op a ∈ a :: xs ∧ ∀ y ∈ a :: xs, le (xs.foldl op a) y := by
  induction xs generalizing a with
  | nil => exact ⟨List.mem_singleton.mpr rfl, fun y hy => by rw [List.mem_singleton.mp hy]; exact hrefl a⟩
  | cons x xs ih =>
    obtain ⟨hmem, hle⟩ := ih (op a x)
    have hop := hle (op a x) List.mem_cons_self
    refine ⟨?_, fun y hy => ?_⟩
    · rcases List.mem_cons.mp hmem with h | h
      · rw [List.foldl_cons, h]
        rcases hsel a x with h | h <;> rw [h] <;> simp
      · exact List.mem_cons_of_mem _ (List.mem_cons_of_mem _ h)
    · rcases List.mem_cons.mp hy with rfl | hy
      · exact htrans _ _ _ hop (hl _ _)
      rcases List.mem_cons.mp hy with rfl | hy
      · exact htrans _ _ _ hop (hr _ _)
      · exact hle y (List.mem_cons_of_mem _ hy)

theorem foldl_min_spec (xs : List Int) (a : Int) :
    xs.foldl (fun a b => min a b) a ∈ a :: xs ∧ ∀ y ∈ a :: xs, xs.foldl (fun a b => min a b) a ≤ y :=
  foldl_least (le := fun a b => a ≤ b) (fun _ _ _ => Int.le_trans) (fun _ _ => by omega) Int.min_le_left Int.min_le_right Int.le_refl xs a

theorem foldl_max_spec (xs : List Int) (a : Int) :
    xs.foldl (fun a b => max a b) a ∈ a :: xs ∧ ∀ y ∈ a :: xs, y ≤ xs.foldl (fun a b => max a b) a :=
  foldl_least (le := fun a b => b ≤ a) (fun _ _ _ h k => Int.le_trans k h) (fun _ _ => by omega) Int.le_max_left Int.le_max_right Int.le_refl xs a

/-- The reduction of a line that is not empty starts from its first element. -/
theorem mem_of_mem_head {xs : List Int} (h : xs ≠ []) {x : Int} (hx : x ∈ xs.headD 0 :: xs) : x ∈ xs := by
  cases xs with
  | nil => exact absurd rfl h
  | cons y ys => simpa using hx

/-- Settles O29. -/
theorem elementMeaning : Obligations.ElementMeaning := by
  unfold Obligations.ElementMeaning
  refine ⟨fun t g ty rsr bs f n hn => ?_, fun ty md sat l hty => ?_⟩
  · intro out e
    have hel : elem out.bits ty.width n = (if out.mask.getLsbD (n * ty.width / 32) then
        (f (drawBits (drawnN rsr (n + 1) t.sys.seed)) (e 0) (e 1) (e 2)).1 else 0) % 2 ^ ty.width := by
      refine (elem_pack _ _ _).trans (congrArg (· % 2 ^ ty.width) ((getD_elemLoop hn).trans ?_))
      rw [Nat.zero_add]
      rfl
    have hd : drawnN rsr (n + 1) t.sys.seed = if rsr then drawN (n + 1) t.sys.seed else t.sys.seed := by
      have hb : n + 1 ≤ 2 ^ 127 := by
        have := Nat.div_le_self 32768 ty.width
        omega
      rw [drawN_eq_repeat _ hb]
      rfl
    refine ⟨fun h => ?_, fun h => ?_, rfl, fun h => ?_⟩
    · rw [hel, if_pos h, hd]
    · rw [hel, if_neg (by rw [h]; exact Bool.false_ne_true), Nat.zero_mod]
    · exact if_neg (by simpa using h)
  · intro xs
    have hf : tyFmt ty = none := by rcases hty with rfl | rfl <;> rfl
    have hw : ty.width = 32 := by rcases hty with rfl | rfl <;> rfl
    refine ⟨?_, fun hne => ⟨⟨_, mem_of_mem_head hne (foldl_min_spec xs _).1, fun y hy => ?_, ?_⟩,
      ⟨_, mem_of_mem_head hne (foldl_max_spec xs _).1, fun y hy => ?_, ?_⟩⟩⟩
    · simp only [reduceLine, hf, List.sum_eq_foldl]
      rfl
    · exact (foldl_min_spec xs _).2 y (List.mem_cons_of_mem _ hy)
    · simp only [reduceLine, hf, hw, xs]
    · exact (foldl_max_spec xs _).2 y (List.mem_cons_of_mem _ hy)
    · simp only [reduceLine, hf, hw, xs]

end Sys2Proof.Machine
end

section
/-! PROOFS. A store performed at an on-chip home (R325, R358). -/

namespace Sys2Proof.Machine

/-! The bytes of a store, and what a write to on-chip memory leaves alone. -/

theorem writtenRuns_whole (i : Nat) (b : Byte) (bs : List Byte) :
    writtenRuns i ((b :: bs).map (fun x => (x, 0))) = [(i, (b :: bs).map (fun x => (x, 0)))] := by
  induction bs generalizing i b with
  | nil => rfl
  | cons c bs ih =>
    have h := ih (i + 1) c
    rw [List.map_cons, writtenRuns, h]
    simp

theorem zip_zeros (d : List Byte) : d.zip (d.map (fun _ => (0 : Byte))) = d.map (fun x => (x, 0)) := by
  induction d with
  | nil => rfl
  | cons b d ih => exact congrArg ((b, 0) :: ·) ih

/-- The machine after bytes have been written to on-chip memory: its contents, and what the write leaves. -/
structure Wrote (s t : State) (pa : Nat) (d : List Byte) : Prop where
  chip : t.chip = writeBytes s.chip pa d
  dram : t.dram = s.dram
  host : t.host = s.host
  peer : t.peer = s.peer
  net : t.net = s.net
  drops : ∀ c k, ((t.core c).bank k).drops = ((s.core c).bank k).drops

theorem wrote_retest {s t : State} {pa : Nat} {d : List Byte} (h : Wrote s t pa d) (sp : Space) (a n : Nat) :
    Wrote s (t.retest sp a n) pa d := by
  obtain ⟨h1, h2, h3, h4, h5, h6⟩ := h
  unfold State.retest
  split <;> exact ⟨h1, h2, h3, h4, h5, h6⟩

theorem wrote_writeChip (s : State) (pa : Nat) (d : List Byte) : Wrote s (s.writeChip pa d) pa d := by
  unfold State.writeChip
  simp only
  split
  · next c off _ =>
    refine ⟨rfl, rfl, rfl, rfl, rfl, fun c' k => ?_⟩
    by_cases hc : c' = c
    · subst hc
      rw [State.core_modCore]
      rfl
    · rw [State.core_modCore_other _ _ _ _ hc]
      rfl
  · exact ⟨rfl, rfl, rfl, rfl, rfl, fun _ _ => rfl⟩

theorem wrote_storeBytes (s : State) (pa : Nat) (d : List Byte) : Wrote s (s.storeBytes .chip pa (d.zip (d.map (fun _ => 0)))) pa d := by
  rw [zip_zeros]
  cases d with
  | nil => exact ⟨rfl, rfl, rfl, rfl, rfl, fun _ _ => rfl⟩
  | cons b bs =>
    have hall : ((b :: bs).map (fun x => (x, (0 : BitVec 8)))).all (fun b => b.2 == 0) = true := by simp
    have hbytes : ((b :: bs).map (fun x => (x, (0 : BitVec 8)))).map (fun b => b.1) = b :: bs := by simp [Function.comp_def]
    have hrun : s.storeBytes .chip pa ((b :: bs).map (fun x => (x, 0))) = s.writeAt .chip pa (b :: bs) false := by
      rw [State.storeBytes, writtenRuns_whole, List.foldl_cons, List.foldl_nil]
      exact (if_pos hall).trans (by rw [hbytes]; rfl)
    rw [hrun]
    exact wrote_retest (wrote_writeChip s pa (b :: bs)) _ _ _

/-! A request leaves the queues. -/

theorem settle_sublist (before es : List Req) : (settle before es).Sublist es := by
  induction es generalizing before with
  | nil => exact List.Sublist.refl _
  | cons e es ih =>
    unfold settle
    split
    · exact (ih _).cons _
    · exact (ih _).cons_cons _

theorem id_ne_of_mem_dropReq {s : State} {id : Nat} {e : Req} (h : e ∈ (s.dropReq id).net) : e.id ≠ id := by
  have hm := (List.mem_filter.mp ((settle_sublist [] _).subset h)).2
  simpa using hm

theorem settleBank_of_no_drops {s : State} {c k : Nat} (h : ((s.core c).bank k).drops = []) : s.settleBank c k = s :=
  if_pos (by rw [h]; rfl)

theorem settleAt_of_no_drops {s : State} {pa : Nat} (h : ∀ c o, target pa = .sp c o → ∀ k, ((s.core c).bank k).drops = []) :
    s.settleAt .chip pa = s := by
  unfold State.settleAt
  simp only
  split
  · next c o hc =>
    induction List.range 32 with
    | nil => rfl
    | cons k ks ih =>
      rw [List.foldl_cons, settleBank_of_no_drops (h c o hc k)]
      exact ih
  · rfl

theorem releases_eq (s : State) (r : Req) : ∃ net, s.releases r = { s with net := net } := by
  unfold State.releases
  split
  · exact ⟨_, rfl⟩
  · exact ⟨_, rfl⟩

/-- Settles O25. -/
theorem chipStorePerformed : Obligations.ChipStorePerformed := by
  unfold Obligations.ChipStorePerformed
  intro s r d hdue hsp hop hm hfull hdrops
  have hready : s.chipReadyFor r.pa r.id = true := by
    unfold State.chipFull at hfull
    unfold State.chipReadyFor
    split
    · next c o hc =>
      rw [hc] at hfull
      simpa [hdrops c o hc] using hfull
    · rfl
  have hperf : s.perform r = s.storeBytes .chip r.pa (d.zip (d.map (fun _ => 0))) := by
    simp [State.perform, hop, hsp]
  obtain ⟨hchip, hdram, hhost, hpeer, -, hd⟩ := wrote_storeBytes s r.pa d
  obtain ⟨net, hrel⟩ := releases_eq (s.perform r) r
  let t := ({ s.perform r with net := net } : State).dropReq r.id
  have ht : s.complete r = t := by
    rw [State.complete, hrel, State.retire, hm, hsp]
    refine settleAt_of_no_drops fun c o hc k => ?_
    exact ((congrArg (fun u : State => ((u.core c).bank k).drops) hperf).trans (hd c k)).trans (hdrops c o hc k)
  have hb {α : Type} (f : State → α) (hf : ∀ u : State, ∀ n, f { u with net := n } = f u) :
      f t = f (s.storeBytes .chip r.pa (d.zip (d.map (fun _ => 0)))) := by
    rw [← hperf]; exact (hf _ _).trans (hf _ _)
  refine ⟨t, ?_, fun i hi => ?_, fun a ha => ?_, fun a => ⟨?_, ?_, ?_⟩, fun e he => id_ne_of_mem_dropReq he⟩
  · rw [← ht]
    show event s (match s.due r.id with | some r => _ | none => none) = _
    rw [hdue]
    simp [event, hsp, hready]
  · rw [hb (·.chip) (fun _ _ => rfl), hchip, memGet_writeBytes]
    rw [if_pos (by omega), Nat.add_sub_cancel_left]
  · rw [hb (·.chip) (fun _ _ => rfl), hchip]
    exact memGet_writeBytes_outside _ _ _ _ ha
  · rw [hb (·.dram) (fun _ _ => rfl), hdram]
  · rw [hb (·.host) (fun _ _ => rfl), hhost]
  · rw [hb (·.peer) (fun _ _ => rfl), hpeer]

end Sys2Proof.Machine
end

section
/-! PROOFS. What issuing a syllable leaves alone (R16, R104): the end of a bundle and a hold change of a calm strand only its clock and its
place; what the syllable itself has changed stays. -/

namespace Sys2Proof.Machine

/-! The strand: time and the end of a bundle that left no write. -/

/-- u is t after its bundle has ended or held: registers, engines and results on their way stand. -/
structure Calm (t u : Strand) : Prop where
  r : u.r = t.r
  e : u.e = t.e
  flights : u.flights = t.flights
  sys : { u.sys with deadline := t.sys.deadline, il := t.sys.il } = t.sys
  il : u.sys.il = true → t.sys.il = true
  pend : u.pend = t.pend

theorem calm_clearIl (t : Strand) : Calm t t.clearIl := by
  unfold Strand.clearIl
  split
  · exact ⟨rfl, rfl, rfl, rfl, fun h => absurd h Bool.false_ne_true, rfl⟩
  · exact ⟨rfl, rfl, rfl, rfl, id, rfl⟩

theorem calm_idleCycle (t : Strand) : Calm t t.idleCycle := by
  obtain ⟨hr, he, hf, hs, hi, hp⟩ := calm_clearIl t
  exact ⟨hr, he, hf, hs, hi, hp⟩

theorem calm_endBundle (t : Strand) (h : t.pend = []) : Calm t t.endBundle := by
  obtain ⟨hr, he, hf, hs, -, -, -, -, -, -, hp⟩ := endBundle_calm t h
  refine ⟨hr, he, hf, hs, fun hi => (calm_clearIl t).il ?_, hp.trans h.symm⟩
  unfold Strand.endBundle at hi
  rw [h] at hi
  exact hi

theorem calm_iss (t : Strand) (x : Iss) : Calm t { t with iss := x } := ⟨rfl, rfl, rfl, rfl, id, rfl⟩

/-! The machine. -/

/-- Nothing but the acting strand, and what has been read for it, differs. -/
def Beside (s t : State) : Prop := SameMemory s t ∧ OnlyMine s t ∧ (s.denials = [] → OnlyMe s t)

/-- v is s, or s with another acting strand. -/
def Acted (K : Strand → Strand → Prop) (s v : State) : Prop := v = s ∨ ∃ u, v = s.setMe u ∧ K s.me u

theorem beside_setMe (s : State) (u : Strand) : Beside s (s.setMe u) := by
  obtain ⟨h, ho⟩ := OnlyMe_setMe s u
  exact ⟨fun _ => ⟨rfl, rfl, rfl, rfl⟩, ⟨rfl, ho⟩, fun _ => ⟨h, ho⟩⟩

theorem beside_settled (s : State) (u : Strand) : Beside s ((s.setMe u).settled s.cur) := by
  unfold State.settled
  split
  · exact beside_setMe s u
  · next hd =>
    refine ⟨fun _ => ⟨rfl, rfl, rfl, rfl⟩, ⟨rfl, (OnlyMe_setMe s u).2⟩, fun h => absurd ?_ hd⟩
    show s.denials.isEmpty = true
    rw [h]
    rfl

theorem beside_conclude {K : Strand → Strand → Prop} {s v : State} (h : Acted K s v) : Beside s (conclude v) := by
  unfold conclude
  rcases h with rfl | ⟨u, rfl, -⟩
  · split
    · exact beside_setMe _ _
    · exact beside_settled _ _
  · split
    · rw [State.setMe_setMe]; exact beside_setMe _ _
    · rw [State.setMe_setMe]; exact beside_settled _ _

theorem beside_held {K : Strand → Strand → Prop} {s v : State} (h : Acted K s v) : Beside s (held v) := by
  unfold held
  rcases h with rfl | ⟨u, rfl, -⟩
  · exact beside_setMe _ _
  · rw [State.setMe_setMe]; exact beside_setMe _ _

theorem calm_conclude (v : State) (h : v.me.pend = []) : Calm v.me (conclude v).me := by
  cases hm : v.me.more with
  | true =>
    rw [conclude, if_pos hm, State.me_setMe]
    exact calm_iss _ _
  | false =>
    rw [conclude_me hm]
    exact calm_endBundle _ h

theorem calm_held (v : State) : Calm v.me (held v).me := by
  rw [held, State.me_setMe]
  obtain ⟨hr, he, hf, hs, hi, hp⟩ := calm_idleCycle { v.me with iss := .held }
  exact ⟨hr, he, hf, hs, hi, hp⟩

theorem trapped_iss (s : State) (r : TrapRec) : (trapped s r).me.iss = .trapped := by
  obtain ⟨ph, pc, en, h⟩ := trapped_me s r
  rw [h]
  rfl

/-! A syllable whose effect changes the acting strand alone. -/

/-- What is said of a strand before and after a syllable's effect still stands after the bundle's end. -/
structure StrandFrame (K : Strand → Strand → Prop) : Prop where
  refl : ∀ t, K t t
  calm : ∀ t u v, K t u → Calm u v → K t v
  pend : ∀ t u, K t u → u.pend = t.pend

/-- What an effect comes to, where it does not trap. -/
def ActsAs (K : Strand → Strand → Prop) (s : State) : Res → Prop
  | .ok v => Acted K s v
  | .hold v => Acted K s v
  | .trap _ _ => True

section Frame
variable {K : Strand → Strand → Prop} (hK : StrandFrame K) {s t v : State}
include hK

theorem Acted.me (h : Acted K s v) : K s.me v.me := by
  rcases h with rfl | ⟨u, rfl, h⟩
  · exact hK.refl _
  · rw [State.me_setMe]; exact h

theorem frame_conclude (hp : s.me.pend = []) (h : Acted K s v) : Beside s (conclude v) ∧ K s.me (conclude v).me :=
  ⟨beside_conclude h, hK.calm _ _ _ (h.me hK) (calm_conclude v ((hK.pend _ _ (h.me hK)).trans hp))⟩

theorem frame_held (h : Acted K s v) : Beside s (held v) ∧ K s.me (held v).me :=
  ⟨beside_held h, hK.calm _ _ _ (h.me hK) (calm_held v)⟩

theorem frame_syllable {p : Bool} {g : Guard} {ds : Strand → List Dst} {k : Strand → Res} (hp : s.me.pend = [])
    (hk : ActsAs K s (k s.me)) (h : syllable s p g ds k = .next t) (ht : t.me.iss ≠ .trapped) : Beside s t ∧ K s.me t.me := by
  rcases syllable_cases h with ⟨-, -, rfl⟩ | ⟨-, rfl⟩ | ⟨-, -, rfl⟩ | ⟨-, -, -, rfl⟩ | ⟨-, hf⟩
  · exact absurd (trapped_iss _ _) ht
  · exact frame_held hK (.inl rfl)
  · exact frame_conclude hK hp (.inl rfl)
  · exact frame_held hK (.inl rfl)
  · rcases finish_cases hf with ⟨v, hv, rfl⟩ | ⟨v, hv, rfl⟩ | ⟨v, x, -, rfl⟩
    · rw [hv] at hk
      exact frame_conclude hK hp hk
    · rw [hv] at hk
      exact frame_held hK hk
    · exact absurd (trapped_iss _ _) ht

end Frame

/-! Scalar forms: one result on its way, maybe a draw. -/

/-- u is t with results sent to d, and with time passed. -/
structure SendsTo (d : Dst) (t u : Strand) : Prop where
  r : u.r = t.r
  e : u.e = t.e
  sys : { u.sys with seed := t.sys.seed, deadline := t.sys.deadline, il := t.sys.il } = t.sys
  il : u.sys.il = true → t.sys.il = true
  flights : ∃ fs, u.flights = t.flights ++ fs ∧ ∀ f ∈ fs, f.dst = d
  pend : u.pend = t.pend

theorem strandFrame_sendsTo (d : Dst) : StrandFrame (SendsTo d) where
  refl t := ⟨rfl, rfl, rfl, id, ⟨[], by simp, by simp⟩, rfl⟩
  calm t u v h k := by
    obtain ⟨hr, he, hs, hi, ⟨fs, hf, hd⟩, hp⟩ := h
    refine ⟨k.r.trans hr, k.e.trans he, ?_, fun h => hi (k.il h), ⟨fs, k.flights.trans hf, hd⟩, k.pend.trans hp⟩
    have hk := congrArg (fun y : SysRegs => { y with seed := t.sys.seed, deadline := t.sys.deadline, il := t.sys.il }) k.sys
    exact hk.trans hs
  pend _ _ h := h.pend

theorem sendsTo_fly (t : Strand) (d : Dst) (v : FVal) (flags : BitVec 6) (lat : Nat) (fixed : Bool) : SendsTo d t (t.fly d v flags lat fixed) :=
  ⟨rfl, rfl, rfl, id, ⟨_, rfl, by simp⟩, rfl⟩

theorem sendsTo_draw {d : Dst} {t u : Strand} (n : Nat) (h : SendsTo d (t.draw n) u) : SendsTo d t u := by
  obtain ⟨hr, he, hs, hi, hf, hp⟩ := h
  refine ⟨hr, he, ?_, hi, hf, hp⟩
  exact congrArg (fun y : SysRegs => { y with seed := t.sys.seed }) hs

theorem sendsTo_drawS (t : Strand) (m : RM) (d : Dst) (v : FVal) (flags : BitVec 6) (lat : Nat) (fixed : Bool) :
    SendsTo d t ((t.drawS m).2.fly d v flags lat fixed) := by
  unfold Strand.drawS
  split
  · exact sendsTo_draw 1 (sendsTo_fly _ _ _ _ _ _)
  · exact sendsTo_fly _ _ _ _ _ _

/-- The outcome is that of a syllable whose effect does to its strand no more than K says. -/
def FormOf (K : Strand → Strand → Prop) (s : State) (o : Host.Outcome State Fault Refusal) : Prop :=
  ∃ p g ds k, o = syllable s p g ds k ∧ ActsAs K s (k s.me)

section Scalar
variable {s : State} {g : Guard}

theorem actsAs_sendG (gd : GReg) (v : Word) (poison : Bool) (lat : Nat) :
    ActsAs (SendsTo (.g gd.toNat)) s (sendG s s.me gd v poison lat) := .inr ⟨_, rfl, sendsTo_fly _ _ _ _ _ _⟩

theorem actsAs_sendP (i : Nat) (v : Mask) (poison : Bool) (m : Mask) (k : Bool) :
    ActsAs (SendsTo (.p i)) s (sendP s s.me i v poison m k) := .inr ⟨_, rfl, sendsTo_fly _ _ _ _ _ _⟩

theorem formOf_sBin (o : SBin) (lat : Nat) (f : Word → Word → Word) : FormOf (SendsTo (.g o.gd.toNat)) s (sBin s g o lat f) :=
  ⟨_, _, _, _, rfl, actsAs_sendG _ _ _ _⟩

theorem formOf_sUn (gd ga : GReg) (lat : Nat) (f : Word → Word) : FormOf (SendsTo (.g gd.toNat)) s (sUn s g gd ga lat f) :=
  ⟨_, _, _, _, rfl, actsAs_sendG _ _ _ _⟩

theorem formOf_sDiv (o : SBin) (f : Word → Word → Word) : FormOf (SendsTo (.g o.gd.toNat)) s (sDiv s g o f) := by
  refine ⟨_, _, _, _, rfl, ?_⟩
  dsimp only
  split
  · exact .inl rfl
  · exact .inr ⟨_, rfl, rfl, rfl, rfl, id, ⟨_, rfl, by simp⟩, rfl⟩

theorem formOf_pLogic (o : PBin) (f : Mask → Mask → Mask) : FormOf (SendsTo (.p (s.me.pp o.pd.toNat))) s (pLogic s g o f) :=
  ⟨_, _, _, _, rfl, actsAs_sendP _ _ _ _ _⟩

theorem formOf_fBin (o : FBin) (f : Fmt → RM → Bool → Nat → Nat → Nat → Coded) : FormOf (SendsTo (.g o.gd.toNat)) s (fBin s g o f) :=
  ⟨_, _, _, _, rfl, .inr ⟨_, rfl, sendsTo_drawS _ _ _ _ _ _ _⟩⟩

theorem formOf_sel (o : SBin) (pc : PRegNo) (neg : Bool) : FormOf (SendsTo (.g o.gd.toNat)) s (execSel g o pc neg s) := by
  refine ⟨_, _, _, _, rfl, ?_⟩
  dsimp only
  split
  · trivial
  · exact actsAs_sendG _ _ _ _

end Scalar

/-- Each scalar form that has a destination sends its result there and does no more. -/
theorem exec_scalar {s : State} {i : Instr} {d : Dst} (h : scalarDest s.me i = some d) : FormOf (SendsTo d) s (exec i s) := by
  unfold exec
  cases i <;> cases h  -- none is left of the forms without a destination
  case add | sub | mul | mulh | mulhu | and | or | xor | andn | shl | shr | sra | rot | min | max | minu | maxu => exact formOf_sBin _ _ _
  case div | divu | rem | remu => exact formOf_sDiv _ _
  case abs | clz | ctz | popc | bswap | lih => exact formOf_sUn _ _ _ _
  case pand | por | pxor => exact formOf_pLogic _ _
  case fadd | fsub | fmul => exact formOf_fBin _ _
  case ffma | fcvt => exact ⟨_, _, _, _, rfl, .inr ⟨_, rfl, sendsTo_drawS _ _ _ _ _ _ _⟩⟩
  case fcmp => exact ⟨_, _, _, _, rfl, .inr ⟨_, rfl, sendsTo_fly _ _ _ _ _ _⟩⟩
  case sel => exact formOf_sel _ _ _
  case cmp | movpToPredicate | psetPredicate | pnot => exact ⟨_, _, _, _, rfl, actsAs_sendP _ _ _ _ _⟩
  all_goals exact ⟨_, _, _, _, rfl, actsAs_sendG _ _ _ _⟩

end Sys2Proof.Machine
end

section
/-! PROOFS. What issuing a vector form leaves alone (R109, R110, R351 to R353), and the frames of every form (R16, R104, R318). -/

namespace Sys2Proof.Machine

/-! What a vector form may change of its strand: ports, banks, live registers, end-of-stream bits, the generator, results on their way. -/

/-- u is t after ports have been popped, banks woken, registers claimed or freed, and results sent. -/
structure Works (t u : Strand) : Prop where
  r : { u.r with live := t.r.live, banks := t.r.banks } = t.r
  e : { u.e with ports := t.e.ports } = t.e
  sys : { u.sys with seed := t.sys.seed, deadline := t.sys.deadline, qeos := t.sys.qeos, il := t.sys.il } = t.sys
  il : u.sys.il = true → t.sys.il = true
  flights : ∃ fs, u.flights = t.flights ++ fs
  pend : u.pend = t.pend

theorem Works.refl (t : Strand) : Works t t := ⟨rfl, rfl, rfl, id, ⟨[], by simp⟩, rfl⟩

theorem Works.trans {t u v : Strand} (h : Works t u) (k : Works u v) : Works t v := by
  obtain ⟨hr, he, hs, hi, ⟨fs, hf⟩, hp⟩ := h
  obtain ⟨kr, ke, ks, ki, ⟨gs, kf⟩, kp⟩ := k
  refine ⟨?_, ?_, ?_, fun h => hi (ki h), ⟨fs ++ gs, by rw [kf, hf, List.append_assoc]⟩, kp.trans hp⟩
  · exact (congrArg (fun y : Regs => { y with live := t.r.live, banks := t.r.banks }) kr).trans hr
  · exact (congrArg (fun y : Engines => { y with ports := t.e.ports }) ke).trans he
  · exact (congrArg (fun y : SysRegs =>
      { y with seed := t.sys.seed, deadline := t.sys.deadline, qeos := t.sys.qeos, il := t.sys.il }) ks).trans hs

theorem strandFrame_works : StrandFrame Works where
  refl := Works.refl
  calm t u v h k := by
    refine h.trans ⟨by rw [k.r], by rw [k.e], ?_, k.il, ⟨[], by rw [k.flights, List.append_nil]⟩, k.pend⟩
    exact congrArg (fun y : SysRegs => { y with seed := u.sys.seed, qeos := u.sys.qeos }) k.sys
  pend _ _ h := h.pend

theorem works_foldl {α : Type} (f : Strand → α → Strand) (hf : ∀ t a, Works t (f t a)) (as : List α) (t : Strand) :
    Works t (as.foldl f t) := by
  induction as generalizing t with
  | nil => exact .refl t
  | cons a as ih => exact (hf t a).trans (ih _)

theorem works_wakeBank (t : Strand) (k : Nat) : Works t (t.wakeBank k) := by
  unfold Strand.wakeBank
  dsimp only
  split
  · exact .refl t
  · exact ⟨rfl, rfl, rfl, id, ⟨[], by simp⟩, rfl⟩

theorem works_touch (t : Strand) (i : Nat) : Works t (t.touch i) := ⟨rfl, rfl, rfl, id, ⟨[], by simp [Strand.touch]⟩, rfl⟩

theorem works_killV (t : Strand) (i : Nat) : Works t (t.killV i) := by
  unfold Strand.killV
  split
  · exact .refl t
  · exact ⟨rfl, rfl, rfl, id, ⟨[], by simp⟩, rfl⟩

theorem works_claimV (t : Strand) (i : Nat) : Works t (t.claimV i) :=
  ((works_wakeBank t (i / 4)).trans (works_touch _ i)).trans ⟨rfl, rfl, rfl, id, ⟨[], by simp [Strand.claimV]⟩, rfl⟩

theorem works_setPort (t : Strand) (q : Nat) (p : Port) : Works t (t.setPort q p) :=
  ⟨rfl, rfl, rfl, id, ⟨[], by simp⟩, rfl⟩

theorem works_setEos (t : Strand) (q : Nat) : Works t (t.setEos q) := ⟨rfl, rfl, rfl, id, ⟨[], by simp [Strand.setEos]⟩, rfl⟩

theorem works_draw (t : Strand) (n : Nat) : Works t (t.draw n) := ⟨rfl, rfl, rfl, id, ⟨[], by simp [Strand.draw]⟩, rfl⟩

theorem works_vuFree (t : Strand) (n : Nat) : Works t { t with vuFree := n } := ⟨rfl, rfl, rfl, id, ⟨[], by simp⟩, rfl⟩

theorem works_fly (t : Strand) (d : Dst) (v : FVal) (flags : BitVec 6) (lat : Nat) (fixed : Bool) : Works t (t.fly d v flags lat fixed) :=
  ⟨rfl, rfl, rfl, id, ⟨_, rfl⟩, rfl⟩

/-! Sources and destinations. -/

theorem works_popAll {u : Strand} {qs : List Nat} {t : Strand} {pb : List (Nat × Block)} (h : popAll t qs = .ok (pb, u)) : Works t u := by
  induction qs generalizing t pb with
  | nil =>
    cases h
    exact .refl _
  | cons q qs ih =>
    rw [popAll] at h
    cases hpop : t.pop q with
    | wait => rw [hpop] at h; cases h
    | trap r => rw [hpop] at h; cases h
    | zero =>
      rw [hpop] at h
      cases hr : popAll (t.setEos q) qs with
      | error => simp only [hr] at h; cases h
      | ok r =>
        simp only [hr] at h
        cases h
        exact (works_setEos t q).trans (ih hr)
    | block b p =>
      rw [hpop] at h
      dsimp only at h
      split at h
      · cases h
      cases hr : popAll (t.setPort q p) qs with
      | error => rw [hr] at h; cases h
      | ok r =>
        rw [hr] at h
        cases h
        exact (works_setPort t q p).trans (ih hr)

/-- Reading sources, where it does not trap, leaves the strand so. -/
def Srcs.FromStrand (t : Strand) : Srcs → Prop
  | .ok _ u => Works t u
  | .hold u => Works t u
  | .trap _ => True

theorem works_readSrcs (t : Strand) (os : List VSrc) : (t.readSrcs os).FromStrand t := by
  unfold Strand.readSrcs
  dsimp only
  split
  · exact Works.refl t
  split
  · trivial
  split
  · exact works_foldl _ (fun t i => works_wakeBank t _) _ t
  split
  · exact Works.refl t
  · trivial
  · next pb t1 hpop =>
    refine ((works_popAll hpop).trans (works_foldl _ (fun t i => works_touch t i) _ t1)).trans (works_foldl _ (fun t o => ?_) _ _)
    split
    · exact works_killV t _
    · exact .refl t

theorem works_flyV (t : Strand) (vd : Opnd) (b : Block) (m : Mask) (flags : BitVec 6) (lat : Nat) : Works t (t.flyV vd b m flags lat) := by
  unfold Strand.flyV
  split
  · exact (works_claimV t _).trans (works_fly _ _ _ _ _ _)
  · exact (works_setPort t _ _).trans (works_fly _ _ _ _ _ _)

theorem actsAs_deliverV {s : State} {t : Strand} (h : Works s.me t) (vd : Opnd) (b : Block) (m : Mask) (flags : BitVec 6) (lat : Nat) :
    ActsAs Works s (deliverV s t vd b m flags lat) := by
  unfold deliverV
  split
  · exact .inr ⟨_, rfl, h.trans (works_flyV ..)⟩
  dsimp only
  split
  · trivial
  split
  · exact .inl rfl
  · trivial
  · exact .inr ⟨_, rfl, (h.trans (works_setEos t _)).trans (works_fly ..)⟩
  · exact .inr ⟨_, rfl, h.trans (works_flyV ..)⟩

/-! Vector forms. -/

section Forms
variable {s : State} {g : Guard}

theorem formOf_vForm (vd : Opnd) (keep : Bool) (os : List VSrc) (ds : Strand → List Dst) (f64 pg : Bool) (lat : Nat)
    (k : Strand → List Block → VOut) : FormOf Works s (vForm s g vd keep os ds f64 pg lat k) := by
  refine ⟨_, _, _, _, rfl, ?_⟩
  dsimp only
  split
  · exact .inl rfl
  have hw := works_readSrcs s.me (if (keep && vd.isV) = true then os ++ [{ o := vd, lu := false }] else os)
  split
  · next u hu =>
    rw [hu] at hw
    exact .inr ⟨u, rfl, hw⟩
  · trivial
  · next bs u hu =>
    rw [hu] at hw
    exact actsAs_deliverV ((Works.trans hw (works_draw u _)).trans (works_vuFree _ _)) _ _ _ _ _

theorem formOf_vPred (pd : PRegNo) (os : List VSrc) (f64 : Bool) (k : Strand → List Block → Mask × Bool × Mask × Bool × BitVec 6) :
    FormOf Works s (vPred s g pd os f64 k) := by
  refine ⟨_, _, _, _, rfl, ?_⟩
  dsimp only
  split
  · exact .inl rfl
  have hw := works_readSrcs s.me os
  split
  · next u hu =>
    rw [hu] at hw
    exact .inr ⟨u, rfl, hw⟩
  · trivial
  · next bs u hu =>
    rw [hu] at hw
    exact .inr ⟨_, rfl, (Works.trans hw (works_vuFree u _)).trans (works_fly ..)⟩

theorem formOf_vArith {ty rnd sat vd os lat f k} : FormOf Works s (vArith s g ty rnd sat vd os lat f k) := formOf_vForm ..
theorem formOf_vLogic {vd os f} : FormOf Works s (vLogic s g vd os f) := formOf_vForm ..
theorem formOf_vInt {ty vd os f} : FormOf Works s (vInt s g ty vd os f) := formOf_vForm ..
theorem formOf_vSpecial {fn o} : FormOf Works s (vSpecial fn s g o) := formOf_vForm ..
theorem formOf_vAxis {vd va lat f} : FormOf Works s (vAxis s g vd va lat f) := formOf_vForm ..

end Forms

theorem exec_vector {s : State} {i : Instr} (h : vectorForm i = true) : FormOf Works s (exec i s) := by
  unfold exec
  cases i <;> cases h  -- the vector forms are left
  case vadd | vsub | vmul | vfma | vfms | vmin | vmax | vabs | vneg | vclamp => exact formOf_vArith
  case vand | vor | vxor | vnot => exact formOf_vLogic
  case vshl | vshr | vsra | vrot | vpopc | vclz | vbfx | vfsh => exact formOf_vInt
  case vrcp | vrsq | vsqrt | vexp2 | vlog2 | vtanh => exact formOf_vSpecial
  case vrotr | vrotc | vbcr | vbcc | vtrn => exact formOf_vAxis
  case vcmp | vmovpToPredicate | vptest => exact formOf_vPred ..
  all_goals exact formOf_vForm ..

/-! Forms that ask a home to store (R90, R186, R193, R198, R200): at issue they put requests on their way. -/

/-- u has the register files of t. -/
structure KeepsFiles (t u : Strand) : Prop where
  g : u.r.g = t.r.g
  p : u.r.p = t.r.p
  v : u.r.v = t.r.v
  tiles : u.r.tiles = t.r.tiles
  pend : u.pend = t.pend

theorem KeepsFiles.refl (t : Strand) : KeepsFiles t t := ⟨rfl, rfl, rfl, rfl, rfl⟩

theorem KeepsFiles.trans {t u v : Strand} (h : KeepsFiles t u) (k : KeepsFiles u v) : KeepsFiles t v :=
  ⟨k.g.trans h.g, k.p.trans h.p, k.v.trans h.v, k.tiles.trans h.tiles, k.pend.trans h.pend⟩

theorem Works.keepsFiles {t u : Strand} (h : Works t u) : KeepsFiles t u :=
  ⟨(congrArg Regs.g h.r :), (congrArg Regs.p h.r :), (congrArg Regs.v h.r :), (congrArg Regs.tiles h.r :), h.pend⟩

theorem keepsFiles_raise_draw (t : Strand) (f : BitVec 6) (n : Nat) : KeepsFiles t ((t.raise f).draw n) := ⟨rfl, rfl, rfl, rfl, rfl⟩

theorem Calm.keepsFiles {t u : Strand} (h : Calm t u) : KeepsFiles t u :=
  ⟨congrArg Regs.g h.r, congrArg Regs.p h.r, congrArg Regs.v h.r, congrArg Regs.tiles h.r, h.pend⟩

/-- v is s with requests on their way: no memory has changed, and the acting strand has its register files. -/
structure Asks (s v : State) : Prop where
  cur : v.cur = s.cur
  memory : s.m.flips = [] → SameMemory s v ∧ v.m.flips = []
  me : KeepsFiles s.me v.me

theorem SameMemory.refl (s : State) : SameMemory s s := fun _ => ⟨rfl, rfl, rfl, rfl⟩

theorem SameMemory.trans {s u v : State} (h : SameMemory s u) (k : SameMemory u v) : SameMemory s v := fun a => by
  obtain ⟨h1, h2, h3, h4⟩ := h a
  obtain ⟨k1, k2, k3, k4⟩ := k a
  exact ⟨k1.trans h1, k2.trans h2, k3.trans h3, k4.trans h4⟩

theorem Asks.refl (s : State) : Asks s s := ⟨rfl, fun h => ⟨.refl s, h⟩, .refl _⟩

theorem Asks.trans {s u v : State} (h : Asks s u) (k : Asks u v) : Asks s v :=
  ⟨k.cur.trans h.cur, fun hs => by
    obtain ⟨h1, h2⟩ := h.memory hs
    obtain ⟨k1, k2⟩ := k.memory h2
    exact ⟨h1.trans k1, k2⟩, h.me.trans k.me⟩

theorem Looks.asks {s v : State} (h : Looks s v) : Asks s v :=
  ⟨h.cur, fun hs => ⟨h.sameMemory hs, (h.still hs).2⟩, by rw [h.me]; exact .refl _⟩

theorem Asks.setMe {s v : State} (h : Asks s v) {u : Strand} (hu : KeepsFiles s.me u) : Asks s (v.setMe u) :=
  ⟨h.cur, h.memory, by rw [State.me_setMe]; exact hu⟩

theorem asks_modCore (s : State) (c : Nat) (f : Core → Core) : Asks s (s.modCore c f) := ⟨rfl, fun h => ⟨.refl s, h⟩, .refl _⟩

theorem asks_chipWake (s : State) (pa : Nat) : Asks s (s.chipWake pa) := by
  unfold State.chipWake
  split
  · unfold State.wakeSp
    dsimp only
    split
    · exact .refl s
    · exact asks_modCore _ _ _
  · exact .refl s

theorem asks_wakeSegs (s : State) (gs : List Seg) : Asks s (s.wakeSegs gs) := by
  unfold State.wakeSegs
  induction gs generalizing s with
  | nil => exact .refl s
  | cons g gs ih =>
    refine Asks.trans ?_ (ih _)
    dsimp only
    split
    · exact asks_chipWake s _
    · exact .refl s

theorem asks_conclude {s v : State} (hp : s.me.pend = []) (h : Asks s v) : Asks s (conclude v) := by
  have hc := conclude_cases v
  refine ⟨?_, fun hs => ?_, h.me.trans (calm_conclude v (h.me.pend.trans hp)).keepsFiles⟩
  · obtain ⟨t, e | e⟩ := hc <;> rw [e] <;> exact h.cur
  · obtain ⟨hm, hf⟩ := h.memory hs
    refine ⟨hm.trans (conclude_memory v), ?_⟩
    obtain ⟨t, e | e⟩ := hc <;> rw [e] <;> exact hf

theorem asks_held {s v : State} (h : Asks s v) : Asks s (held v) := h.setMe (h.me.trans (by
  have hk := (calm_held v).keepsFiles
  rwa [held, State.me_setMe] at hk))

/-- What an effect that sends requests comes to, where it does not trap. -/
def ResAsks (s : State) : Res → Prop
  | .ok v => Asks s v
  | .hold v => Asks s v
  | .trap _ _ => True

theorem resAsks_unless {s v : State} {c : Prop} [Decidable c] {x : BitVec 7} {a : Word} {r : Res} (h : ResAsks s r) :
    ResAsks s (if c then trapIf v x a else r) := by
  split
  · trivial
  · exact h

theorem resAsks_orHold {s v : State} {r : Res} (hv : Asks s v) (h : ResAsks s r) : ResAsks s (orHold v r) := by
  cases r
  case hold => exact hv
  all_goals exact h

theorem resAsks_checked {s : State} {r : State × Chk} {k : State → List Seg → Res} (hr : Asks s r.1)
    (hk : ∀ gs, ResAsks s (k r.1 gs)) : ResAsks s (checked r k) := by
  unfold checked
  split
  · exact hk _
  · trivial
  · exact hr

theorem asks_check (s : State) (p : Perm) (align : Nat) (a : Word) (len : Nat) : Asks s (s.check p align a len).1 :=
  (looks_resolve _ _ _ _ _ _ _ _ _).asks

section Sending
variable {s v : State} (h : Asks s v)
include h

theorem resAsks_sendStore (gs : List Seg) (bs : List OutByte) (mk : Req → Req) : ResAsks s (sendStore v gs bs mk) := by
  unfold sendStore
  dsimp only
  split
  · exact h
  · exact (h.trans (asks_wakeSegs v gs)).trans (looks_sendAll _ _).asks

theorem resAsks_sendBlock (gs : List Seg) (bs : List OutByte) : ResAsks s (sendBlock v gs bs) := by
  unfold sendBlock
  dsimp only
  split
  · exact h
  · exact (h.trans (asks_wakeSegs v gs)).trans (looks_sendAll _ _).asks

theorem resAsks_sendOne (r : Req) (f : Option (Dst × FVal × LandForm)) : ResAsks s (sendOne v r f) := by
  unfold sendOne
  split
  · exact h
  have hw : Asks s (if r.sp == .chip then v.chipWake r.pa else v) := by
    split
    · exact h.trans (asks_chipWake v _)
    · exact h
  cases f with
  | none => exact hw.trans (looks_send _ _).asks
  | some d =>
    refine Asks.trans (hw.setMe ?_) (looks_send _ _).asks
    exact ⟨hw.me.g, hw.me.p, hw.me.v, hw.me.tiles, hw.me.pend⟩

theorem resAsks_object (p : Perm) (a : Word) (n : Nat) (k : State → Seg → Res) (hk : ∀ u x, Asks s u → ResAsks s (k u x)) :
    ResAsks s (object v p a n k) := by
  have hc := h.trans (asks_check v p n a n)
  refine resAsks_checked hc fun gs => ?_
  split
  · exact hk _ _ hc
  · exact hc

end Sending

theorem resAsks_atomic (s : State) (op : AtomOp) (a : Word) (n : Nat) (b c : BitVec 128) (sc : Scope) (ord : AOrd)
    (f : Option (Dst × FVal × LandForm)) : ResAsks s (atomic s op a n b c sc ord f) :=
  resAsks_object (.refl s) _ _ _ _ fun _ _ h => resAsks_sendOne h _ _

theorem resAsks_scalarStore (s : State) (v a : Word) (w align : Nat) (rel : Bool) (sc : Scope) :
    ResAsks s (scalarStore s v a w align rel sc) :=
  resAsks_checked (asks_check _ _ _ _ _) fun _ => resAsks_sendStore (asks_check _ _ _ _ _) _ _ _

theorem resAsks_handle {s : State} {h : SReg} {wr : Bool} {k : Nat → Nat → Res} (hk : ∀ u n, ResAsks s (k u n)) :
    ResAsks s (handle s h wr k) := resAsks_unless (resAsks_unless (resAsks_unless (hk _ _)))

theorem looks_foldl_fst {α β : Type} {f : State × β → α → State × β} (hf : ∀ x a, Looks x.1 (f x a).1) (as : List α) (x : State × β) :
    Looks x.1 (as.foldl f x).1 := by
  induction as generalizing x with
  | nil => exact .refl _
  | cons a as ih => exact (hf x a).trans (ih _)

theorem looks_rowSegs (src : Src) (m n : Nat) (asid : BitVec 16) (p : Perm) (l : Layout) (o : Word) (rs : List Nat) (s : State) :
    Looks s (s.rowSegs src m n asid p l o rs).1 := by
  induction rs generalizing s with
  | nil => exact .refl s
  | cons r rs ih =>
    unfold State.rowSegs
    dsimp only
    split
    · exact .refl s
    split
    · exact .refl s
    have hq := looks_foldl_fst (f := fun (x : State × Chk) e =>
      match x.2 with
      | .ok gs =>
        let y := x.1.resolve src m n asid p 1 e.1 e.2.1
        (match y.2 with
         | .ok hs => (y.1, .ok (gs ++ hs.map (fun h => { h with off := r * l.rowBytes + e.2.2 + h.off })))
         | c => (y.1, c))
      | _ => x) (fun x e => by
        have hr := looks_resolve x.1 src m n asid p 1 e.1 e.2.1
        dsimp only
        split
        · split <;> exact hr
        · exact .refl _) (l.parts r (l.rowAddr o r) l.rowBytes) (s, .ok [])
    split
    · split <;> exact hq.trans (ih _)
    · exact hq

/-- The outcome is that of a syllable whose effect sends requests. -/
def AskForm (s : State) (o : Host.Outcome State Fault Refusal) : Prop := ∃ p g ds k, o = syllable s p g ds k ∧ ResAsks s (k s.me)

section StoringForms
variable {s : State} {g : Guard}

theorem askForm_atomicForm (op : AtomOp) (o : AForm) (gc : Option GReg) : AskForm s (atomicForm s g op o gc) :=
  ⟨_, _, _, _, rfl, resAsks_unless (resAsks_unless (resAsks_atomic ..))⟩

theorem askForm_acas2 (gd ga gb gc : GReg) (sc : Scope) (ord : AOrd) : AskForm s (execAcas2 g gd ga gb gc sc ord s) :=
  ⟨_, _, _, _, rfl, resAsks_unless (resAsks_unless (resAsks_atomic ..))⟩

theorem askForm_sems (sc : Scope) (ga gb : GReg) : AskForm s (execSems g sc ga gb s) :=
  ⟨_, _, _, _, rfl, resAsks_unless (resAsks_unless (resAsks_object (.refl s) _ _ _ _ fun _ _ h => resAsks_sendOne h _ _))⟩

theorem askForm_redx (ga : GReg) (c : RedSrc) : AskForm s (execRedx g ga c s) := by
  unfold execRedx
  cases c with
  | scalar gb ty =>
    refine ⟨_, _, _, _, rfl, ?_⟩
    exact resAsks_handle fun u k => resAsks_unless (resAsks_sendOne (.refl s) _ _)
  | vector va =>
    refine ⟨_, _, _, _, rfl, ?_⟩
    refine resAsks_handle fun u k => ?_
    have hw := works_readSrcs s.me [{ o := va, lu := false }]
    split
    · next x hx =>
      rw [hx] at hw
      exact (Asks.refl s).setMe (Works.keepsFiles hw)
    · trivial
    · next bs x hx =>
      rw [hx] at hw
      exact resAsks_unless (resAsks_orHold (.refl s) (resAsks_sendOne ((Asks.refl s).setMe (Works.keepsFiles hw)) _ _))

theorem askForm_st (o : SBin) (w : Wd) : AskForm s (execSt g o w s) :=
  ⟨_, _, _, _, rfl, resAsks_unless (resAsks_unless (resAsks_scalarStore ..))⟩

theorem askForm_strel (sc : Scope) (gd ga : GReg) (off : BitVec 14) (w : Wd) : AskForm s (execStrel g sc gd ga off w s) :=
  ⟨_, _, _, _, rfl, resAsks_unless (resAsks_unless (resAsks_scalarStore ..))⟩

theorem askForm_vscat (va vb : VSrc) (gc : GReg) (sh : BitVec 2) : AskForm s (execVscat g va vb gc sh s) := by
  refine ⟨_, _, _, _, rfl, ?_⟩
  dsimp only
  split
  · exact Asks.refl s
  have hw := works_readSrcs s.me [va, vb]
  split
  · next u hu =>
    rw [hu] at hw
    exact (Asks.refl s).setMe (Works.keepsFiles hw)
  · trivial
  · next bs u hu =>
    rw [hu] at hw
    split
    · trivial
    · exact resAsks_orHold (.refl s) (resAsks_sendBlock ((Asks.refl s).setMe (hw.trans (works_vuFree _ _)).keepsFiles) _ _)

theorem askForm_vst (va : VSrc) (k : LayNo) (ga : GReg) (spl : Bool) : AskForm s (execVst g va k ga spl s) := by
  refine ⟨_, _, _, _, rfl, ?_⟩
  refine resAsks_unless ?_
  have hw := works_readSrcs s.me [va]
  split
  · next u hu =>
    rw [hu] at hw
    exact (Asks.refl s).setMe (Works.keepsFiles hw)
  · trivial
  · next bs u hu =>
    rw [hu] at hw
    refine resAsks_unless (resAsks_unless ?_)
    have hc := (looks_rowSegs (.strand s.cur) (coreOf s.cur) s.cur s.me.sys.asid { w := true }
      ((vAt s.me.r.lay k.toNat).capture s.me.sys.fmode) (((vAt s.me.r.lay k.toNat).capture s.me.sys.fmode).base + (s.me.g ga).val)
      (List.range 16) s).asks
    refine resAsks_checked hc fun gs => ?_
    dsimp only
    refine resAsks_orHold hc (resAsks_sendBlock (hc.setMe ?_) _ _)
    have hu := fun f n => (Works.keepsFiles hw).trans (keepsFiles_raise_draw u f n)
    split
    · exact (hu _ _).trans (works_foldl _ (fun t i => works_killV t _) _ _).keepsFiles
    · exact hu _ _

end StoringForms

theorem exec_storing {s : State} {i : Instr} (h : storingForm i = true) : AskForm s (exec i s) := by
  unfold exec
  cases i <;> cases h  -- the storing forms are left
  case st => exact askForm_st _ _
  case strel => exact askForm_strel _ _ _ _ _
  case vst => exact askForm_vst _ _ _ _
  case vscat => exact askForm_vscat _ _ _ _
  case redx => exact askForm_redx _ _
  case sems => exact askForm_sems _ _ _
  case acas2 => exact askForm_acas2 _ _ _ _ _ _
  all_goals exact askForm_atomicForm _ _ _

theorem frame_askForm {s t : State} {o : Host.Outcome State Fault Refusal} (hf : AskForm s o) (hp : s.me.pend = []) (h : o = .next t)
    (ht : t.me.iss ≠ .trapped) : Asks s t := by
  obtain ⟨p, g, ds, k, ho, hk⟩ := hf
  rw [ho] at h
  rcases syllable_cases h with ⟨-, -, rfl⟩ | ⟨-, rfl⟩ | ⟨-, -, rfl⟩ | ⟨-, -, -, rfl⟩ | ⟨-, hf⟩
  · exact absurd (trapped_iss _ _) ht
  · exact asks_held (.refl s)
  · exact asks_conclude hp (.refl s)
  · exact asks_held (.refl s)
  · rcases finish_cases hf with ⟨v, hv, rfl⟩ | ⟨v, hv, rfl⟩ | ⟨v, x, -, rfl⟩
    · rw [hv] at hk
      exact asks_conclude hp hk
    · rw [hv] at hk
      exact asks_held hk
    · exact absurd (trapped_iss _ _) ht

/-- Settles O60. -/
theorem issueFrames : Obligations.IssueFrames := by
  unfold Obligations.IssueFrames
  refine ⟨fun s t i hp h ht => ?_, fun s t i hm hi hp h ht => ?_⟩
  · intro kept
    refine ⟨fun d hd => ?_, fun hv => ?_⟩
    · obtain ⟨p, g, ds, k, ho, hk⟩ := exec_scalar hd
      obtain ⟨⟨hmem, hmine, hme⟩, hr, he, hs, hi, hf, -⟩ := frame_syllable (strandFrame_sendsTo d) hp hk (ho.symm.trans h) ht
      refine ⟨⟨hmem, hmine, hme, ?_⟩, hr, he, hs, hi, hf⟩
      rw [hr]
      exact ⟨rfl, rfl, rfl, rfl, rfl, rfl, rfl, rfl⟩
    · obtain ⟨p, g, ds, k, ho, hk⟩ := exec_vector hv
      obtain ⟨⟨hmem, hmine, hme⟩, hr, he, hs, hi, hf, -⟩ := frame_syllable strandFrame_works hp hk (ho.symm.trans h) ht
      have hq {α : Type} (f : Regs → α) (hf : ∀ y : Regs, ∀ l b, f { y with live := l, banks := b } = f y) : f t.me.r = f s.me.r :=
        (hf _ _ _).symm.trans (congrArg f hr)
      refine ⟨⟨hmem, hmine, hme, hq Regs.g ?_, hq Regs.p ?_, hq Regs.v ?_, hq Regs.tiles ?_, hq Regs.sh ?_, hq Regs.shadow ?_,
        hq Regs.lay ?_,
        hq Regs.prog ?_⟩, (congrArg Engines.cmds he :), (congrArg Engines.tk he :), hs, hi, hf⟩
      all_goals exact fun _ _ _ => rfl
  · obtain ⟨-, hmem, hg, hp', hv, htl, -⟩ := frame_askForm (exec_storing hi) hp h ht
    exact ⟨(hmem hm).1, hg, hp', hv, htl⟩

end Sys2Proof.Machine
end

section
/-! PROOFS. What a V syllable does once its sources have been read (R105, R106, R109, R133, R134),
and vector arithmetic (R111 to R113), bit,
shift, field, compare, selection and move forms (R114 to R121). -/

namespace Sys2Proof.Machine

section Shape
variable {i : Instr} {s : State} {g : Guard} {vd : Opnd} {keep : Bool} {os : List VSrc} {f64 pg : Bool} {lat : Nat}

/-- The delivery of a block to a port, by what the push finds. -/
theorem deliverV_port {t : Strand} {b : Block} {m : Mask} {flags : BitVec 6} (hv : vd.isV = false) (hb : b.poison &&& m = 0) :
    deliverV s t vd b m flags lat = match t.push (vd.toNat - 32) with
      | .wait => .hold s
      | .trap r => pushTrap s (vd.toNat - 32) r
      | .drop => .ok (s.setMe ((t.setEos (vd.toNat - 32)).fly (.g 0) (.s { val := 0, poison := false }) flags lat true))
      | .slot => .ok (s.setMe (t.flyV vd b m flags lat)) := by
  unfold deliverV
  rw [if_neg (by rw [hv]; exact Bool.false_ne_true)]
  dsimp only
  exact if_neg (by rw [hb, bne_self_eq_false]; exact Bool.false_ne_true)

theorem deliverV_poisoned {t : Strand} {b : Block} {m : Mask} {flags : BitVec 6} (hv : vd.isV = false) (hb : b.poison &&& m ≠ 0) :
    deliverV s t vd b m flags lat = trapIf s 0x19 0 := by
  unfold deliverV
  rw [if_neg (by rw [hv]; exact Bool.false_ne_true)]
  exact if_pos (bne_iff_ne.mpr hb)

theorem exec_of_vForm {ds : Strand → List Dst} {k : Strand → List Block → VOut} (hi : exec i s = vForm s g vd keep os ds f64 pg lat k)
    {bs : List Block} {u : Strand} (hr : Ready s g (s.me.vDest vd ++ s.me.vRegs (os.map (fun o => o.o)) ++ ds s.me))
    (hfree : s.me.vuFree ≤ s.me.clock)
    (hsrc : s.me.readSrcs (if keep && vd.isV then os ++ [{ o := vd, lu := false }] else os) = .ok bs u) :
    exec i s = finish (deliverV s (vTaken s u f64 (k s.me bs)) vd (vBlock s g pg (k s.me bs)) (k s.me bs).mask (k s.me bs).flags
      (if f64 then lat + 2 else lat)) := by
  rw [hi, vForm, syllable_ready false (.inl rfl) hr, if_neg (Nat.not_lt.mpr hfree), hsrc]
  rfl

/-- A form of the shared shape does what is said of a V syllable, with the block it computes. -/
theorem vResult_of_vForm {ds : Strand → List Dst} {k : Strand → List Block → VOut} (hi : exec i s = vForm s g vd keep os ds f64 pg lat k)
    {out : List Block → VOut} (hk : ∀ bs, k s.me bs = out bs) : VResult i s g vd keep os (ds s.me) f64 pg lat out := by
  intro bs u hr hfree hsrc o t after sent
  have hx := exec_of_vForm hi hr hfree hsrc
  rw [hk] at hx
  refine ⟨fun hv => hx.trans (congrArg finish (if_pos hv)), fun hv => ⟨fun hp => ?_, fun hp => ?_⟩⟩
  · rw [deliverV_poisoned hv hp] at hx
    exact hx
  · rw [deliverV_port hv hp] at hx
    refine ⟨fun h => ?_, fun h => ?_, fun r h => ?_, fun h => ?_⟩
    all_goals rw [show (vTaken s u f64 (out bs)).push (vd.toNat - 32) = _ from h] at hx
    all_goals exact hx

theorem vPredResult_of_vPred {pd : PRegNo} {k : Strand → List Block → Mask × Bool × Mask × Bool × BitVec 6}
    (hi : exec i s = vPred s g pd os f64 k) {out : List Block → Mask × Bool × Mask × Bool × BitVec 6} (hk : ∀ bs, k s.me bs = out bs) :
    VPredResult i s g pd os f64 out := by
  intro bs u hr hfree hsrc r t
  rw [Issues, hi, vPred, syllable_ready false (.inl rfl) hr, if_neg (Nat.not_lt.mpr hfree), hsrc]
  dsimp only
  rw [hk]
  rfl

end Shape

/-! Arithmetic. -/

theorem vResult_of_vArith {i : Instr} {s : State} {g : Guard} {ty : Ty} {rnd : Rnd} {sat : Bool} {vd : Opnd} {os : List VSrc} {lat : Nat}
    (f : Fmt → RM → Nat → Nat → Nat → Nat → Coded) (h : Int → Int → Int → Int) (hi : exec i s = vArith s g ty rnd sat vd os lat f h) :
    VResult i s g vd false os [] (ty == .f64) true lat (fun bs => arithOut s g ty rnd sat bs f h) :=
  vResult_of_vForm (ds := fun _ => []) hi fun bs => by
    unfold arithOut
    cases tyFmt ty <;> rfl

/-- Settles O28. -/
theorem vectorArithmeticResults : Obligations.VectorArithmeticResults := by
  unfold Obligations.VectorArithmeticResults
  intro s g ty rnd sat vd va vb vc d two three one
  refine ⟨?_, ?_, ?_, ?_, ?_, ?_, ?_, ?_, ?_, ?_⟩
  all_goals exact vResult_of_vArith _ _ (by unfold exec; rfl)

/-! Bits, shifts and fields. -/

section Bits
variable {i : Instr} {s : State} {g : Guard} {ty : Ty} {vd : Opnd} {os os' : List VSrc}

theorem vResult_of_vLogic (f : Lanes → Lanes → Lanes) (hi : exec i s = vLogic s g vd os f) :
    VResult i s g vd false os [] false true 4 (fun bs =>
      { bits := (f (nth bs 0).bits (nth bs 1).bits).toNat, poison := (nth bs 0).poison ||| (nth bs 1).poison, mask := s.me.mask g,
        flags := 0, draws := 0 }) :=
  vResult_of_vForm (ds := fun _ => []) hi fun _ => rfl

theorem vResult_of_vInt {f h : Nat → Nat → Nat → Nat} (hi : exec i s = vInt s g ty vd os f) (hos : os = os') (hf : ∀ a b c,
  f a b c = h a b c) :
    VResult i s g vd false os' [] false true 4 (fun bs => elementwise s.me g ty false bs (fun _ a b c => (h a b c, 0))) := by
  obtain rfl : f = h := funext fun a => funext fun b => funext fun c => hf a b c
  subst hos
  exact vResult_of_vForm (ds := fun _ => []) hi fun _ => rfl

end Bits

/-- Settles O30. -/
theorem vectorBitAndMoveResults : Obligations.VectorBitAndMoveResults := by
  unfold Obligations.VectorBitAndMoveResults
  refine ⟨fun s g ty vd va vb n => ?_, fun s g vd va vb => ?_⟩
  · intro w logic amts amt int
    have hos : ∀ os, withAmt os n = os ++ amts := fun os => by cases n <;> simp [withAmt, amts]
    have hamt : ∀ x, amtOf n x = amt x := fun x => by cases n <;> rfl
    refine ⟨?_, ?_, ?_, ?_, ?_, ?_, ?_, ?_, ?_, ?_, fun sx len => ?_, ?_⟩
    · exact vResult_of_vLogic (fun a b => a &&& b) (by unfold exec; rfl)
    · exact vResult_of_vLogic (fun a b => a ||| b) (by unfold exec; rfl)
    · exact vResult_of_vLogic (fun a b => a ^^^ b) (by unfold exec; rfl)
    · exact vResult_of_vLogic (fun a _ => ~~~a) (by unfold exec; rfl)
    · refine vResult_of_vInt (by unfold exec; rfl) (hos _) fun a b _ => ?_
      rw [hamt, Nat.shiftLeft_eq]
    · refine vResult_of_vInt (by unfold exec; rfl) (hos _) fun a b _ => ?_
      rw [hamt, Nat.shiftRight_eq_div_pow]
    · refine vResult_of_vInt (by unfold exec; rfl) (hos _) fun a b _ => ?_
      rw [hamt]
    · refine vResult_of_vInt (by unfold exec; rfl) (hos _) fun a b _ => ?_
      simp only [hamt]
      rfl
    · exact vResult_of_vInt (by unfold exec; rfl) rfl fun _ _ _ => rfl
    · exact vResult_of_vInt (by unfold exec; rfl) rfl fun _ _ _ => rfl
    · refine vResult_of_vInt (by unfold exec; rfl) (hos _) fun a b _ => ?_
      rw [hamt, bfxN, Nat.shiftRight_eq_div_pow]
    · refine vResult_of_vInt (by unfold exec; rfl) (hos _) fun a b c => ?_
      rw [hamt, fshN, Nat.shiftRight_eq_div_pow]
  · intro t out
    refine ⟨?_, ?_, fun imm => ?_, fun ty ga => ?_, fun pa => ?_, fun pc neg => ?_, fun pd => ?_, fun pd => ?_, fun pd ty c => ?_⟩
    · exact vResult_of_vForm (ds := fun _ => []) (by unfold exec; rfl) fun _ => rfl
    · exact vResult_of_vForm (ds := fun _ => []) (by unfold exec; rfl) fun _ => rfl
    · exact vResult_of_vForm (ds := fun _ => []) (by unfold exec; rfl) fun _ => rfl
    · exact vResult_of_vForm (ds := fun _ => [.g ga.toNat]) (by unfold exec; rfl) fun _ => rfl
    · exact vResult_of_vForm (ds := fun t => [.p (t.pp pa.toNat)]) (by unfold exec; rfl) fun _ => rfl
    · exact vResult_of_vForm (ds := fun t => [.p (t.pp pc.toNat)]) (by unfold exec; rfl) fun _ => rfl
    · exact vPredResult_of_vPred (by unfold exec; rfl) fun _ => rfl
    · exact vPredResult_of_vPred (by unfold exec; rfl) fun _ => rfl
    · exact vPredResult_of_vPred (by unfold exec; rfl) fun _ => rfl

end Sys2Proof.Machine
end

section
/-! PROOFS. The special functions (R126, R127). -/

namespace Sys2Proof.Machine

/-! On FP32 a special function is that of the operand's value. -/

theorem special_f32 (fn : Nat) (mode : RM) (sat : Bool) (u x : Nat) : special fn .f32 mode sat u x = specialF32 fn sat mode u x (Fmt.f32.val x) := rfl

theorem special_nan {x : Nat} {sig : Bool} (hx : Fmt.f32.val x = .nan sig) (fn : Nat) (mode : RM) (sat : Bool) (u : Nat) :
    special fn .f32 mode sat u x = (0x7FC00000, flagIf sig fInvalid) := by
  rw [special_f32, hx]
  rfl

theorem vResult_of_vSpecial {i : Instr} {s : State} {g : Guard} {o : VUn} (fn : Nat) (hi : exec i s = vSpecial fn s g o) :
    VResult i s g o.vd false [o.va] [] false true 12 (fun bs =>
      elementwise s.me g o.ty (s.me.mode o.rnd == .rsr) bs (fun u a _ _ => special fn o.ty (s.me.mode o.rnd) o.sat u a)) :=
  vResult_of_vForm (ds := fun _ => []) hi fun _ => rfl

section Inputs
variable {x : Nat} {n : Bool} (mode : RM) (sat : Bool) (u : Nat)

/-- The results on an infinity. -/
theorem special_inf (hx : Fmt.f32.val x = .inf n) :
    special 0 .f32 mode sat u x = (Fmt.f32.signed n 0, 0) ∧
    special 1 .f32 mode sat u x = (if n then (Fmt.f32.nan, fInvalid) else (0, 0)) ∧
    special 2 .f32 mode sat u x = (if n then (Fmt.f32.nan, fInvalid) else (Fmt.f32.inf, 0)) ∧
    special 3 .f32 mode sat u x = (if n then (0, 0) else (Fmt.f32.inf, 0)) ∧
    special 4 .f32 mode sat u x = (if n then (Fmt.f32.nan, fInvalid) else (Fmt.f32.inf, 0)) ∧
    special 5 .f32 mode sat u x = (Fmt.f32.signed n 0x3F800000, 0) := by
  simp only [special_f32, hx]
  cases n <;> exact ⟨rfl, rfl, rfl, rfl, rfl, rfl⟩

/-- The results on a zero. -/
theorem special_zero {e : Int} (hx : Fmt.f32.val x = .fin n 0 e) :
    special 0 .f32 mode sat u x = (Fmt.f32.signed n Fmt.f32.inf, fDivzero) ∧
    special 1 .f32 mode sat u x = (Fmt.f32.signed n Fmt.f32.inf, fDivzero) ∧
    special 2 .f32 mode sat u x = (Fmt.f32.signed n 0, 0) ∧
    special 3 .f32 mode sat u x = (0x3F800000, 0) ∧
    special 4 .f32 mode sat u x = (Fmt.f32.signed true Fmt.f32.inf, fDivzero) ∧
    special 5 .f32 mode sat u x = (Fmt.f32.signed n 0, 0) := by
  simp only [special_f32, hx]
  exact ⟨rfl, rfl, rfl, rfl, rfl, rfl⟩

/-- Those that have no value below zero. -/
theorem special_negative {m : Nat} {e : Int} (hm : m ≠ 0) (hx : Fmt.f32.val x = .fin true m e) :
    special 1 .f32 mode sat u x = (Fmt.f32.nan, fInvalid) ∧ special 2 .f32 mode sat u x = (Fmt.f32.nan, fInvalid) ∧
    special 4 .f32 mode sat u x = (Fmt.f32.nan, fInvalid) := by
  have hm' : ¬ (m == 0) = true := by simpa using hm
  simp only [special_f32, hx]
  exact ⟨if_neg hm', if_neg hm', if_neg hm'⟩

end Inputs

/-- Settles O32: each special input by the kind of its value. -/
theorem specialFunctionResults : Obligations.SpecialFunctionResults := by
  unfold Obligations.SpecialFunctionResults
  refine ⟨fun s g o => ?_, fun mode sat u _ => ?_⟩
  · refine ⟨?_, ?_, ?_, ?_, ?_, ?_⟩
    · exact vResult_of_vSpecial 0 (by unfold exec; rfl)
    · exact vResult_of_vSpecial 1 (by unfold exec; rfl)
    · exact vResult_of_vSpecial 2 (by unfold exec; rfl)
    · exact vResult_of_vSpecial 3 (by unfold exec; rfl)
    · exact vResult_of_vSpecial 4 (by unfold exec; rfl)
    · exact vResult_of_vSpecial 5 (by unfold exec; rfl)
  · intro f inf ninf nan nz
    obtain ⟨z0, z1, z2, z3, z4, z5⟩ := special_zero (x := 0) (n := false) (e := -149) mode sat u (by decide)
    obtain ⟨y0, y1, y2, y3, y4, y5⟩ := special_zero (x := nz) (n := true) (e := -149) mode sat u (by decide)
    obtain ⟨p0, p1, p2, p3, p4, p5⟩ := special_inf (x := inf) (n := false) mode sat u (by decide)
    obtain ⟨m0, m1, m2, m3, m4, m5⟩ := special_inf (x := ninf) (n := true) mode sat u (by decide)
    obtain ⟨n1, n2, n4⟩ := special_negative (x := 0xBF800000) (m := 2 ^ 23) (e := -23) mode sat u (by decide) (by decide)
    exact ⟨z0, z1, z2, z3, z4, z5, y0, y1, y2, y3, y4, y5, p0, p1, p2, p3, p4, p5, m0, m1, m2, m3, m4, m5, n1, n2, n4,
      fun fn _ => ⟨special_nan (sig := false) rfl fn mode sat u, special_nan (sig := true) rfl fn mode sat u⟩⟩

end Sys2Proof.Machine
end

section
/-! PROOFS. Blocks as elements, lanes and rows (R105): reading one back from a packed block. -/

namespace Sys2Proof.Machine

/-! Lists. -/

theorem getD_replicate_of_lt {α : Type} {n i : Nat} {a : α} (d : α) (h : i < n) : (List.replicate n a).getD i d = a := by
  rw [List.getD_eq_getElem?_getD, List.getElem?_replicate_of_lt h, Option.getD_some]

theorem getD_append_left {α : Type} {l k : List α} {i : Nat} (d : α) (h : i < l.length) : (l ++ k).getD i d = l.getD i d := by
  rw [List.getD_eq_getElem?_getD, List.getElem?_append_left h, List.getD_eq_getElem?_getD]

theorem getD_append_right {α : Type} {l k : List α} {i : Nat} (d : α) (h : l.length ≤ i) : (l ++ k).getD i d = k.getD (i - l.length) d := by
  rw [List.getD_eq_getElem?_getD, List.getElem?_append_right h, List.getD_eq_getElem?_getD]

theorem getD_of_lt {α : Type} {l : List α} {i : Nat} (d : α) (h : i < l.length) : l.getD i d = l[i] := by
  rw [List.getD_eq_getElem?_getD, List.getElem?_eq_getElem h, Option.getD_some]

/-! Elements. -/

theorem testBit_elem (x w n i : Nat) : (elem x w n).testBit i = (decide (i < w) && x.testBit (n * w + i)) := by
  rw [elem, Nat.testBit_mod_two_pow, Nat.testBit_shiftRight]

theorem elem_lt (x w n : Nat) : elem x w n < 2 ^ w := Nat.mod_lt _ (Nat.two_pow_pos w)

/-- An element inside the kept low bits. -/
theorem elem_mod_two_pow {x m w n : Nat} (h : (n + 1) * w ≤ m) : elem (x % 2 ^ m) w n = elem x w n := by
  rw [Nat.add_mul, Nat.one_mul] at h
  refine Nat.eq_of_testBit_eq fun i => ?_
  rw [testBit_elem, testBit_elem, Nat.testBit_mod_two_pow]
  by_cases hi : i < w
  · rw [show decide (n * w + i < m) = true from decide_eq_true (by omega), Bool.true_and]
  · simp [hi]

/-- An element of a row of k elements is an element of the whole. -/
theorem elem_elem {x w k r c : Nat} (h : c < k) : elem (elem x (k * w) r) w c = elem x w (k * r + c) := by
  refine Nat.eq_of_testBit_eq fun i => ?_
  rw [testBit_elem, testBit_elem, testBit_elem]
  by_cases hi : i < w
  · have hlt : c * w + i < k * w := by
      have h1 : (c + 1) * w ≤ k * w := Nat.mul_le_mul_right w h
      rw [Nat.add_mul, Nat.one_mul] at h1
      omega
    rw [show decide (c * w + i < k * w) = true from decide_eq_true hlt, Bool.true_and,
      show r * (k * w) + (c * w + i) = (k * r + c) * w + i by rw [Nat.add_mul, Nat.mul_comm k r, Nat.mul_assoc, Nat.add_assoc]]
  · simp [hi]

theorem elems_eq (k w x : Nat) : elems k w x = (List.range k).map (elem x w) := by
  induction k generalizing x with
  | zero => rfl
  | succ k ih =>
    rw [elems, ih, List.range_succ_eq_map, List.map_cons, List.map_map]
    have h0 : x % 2 ^ w = elem x w 0 := by rw [elem, Nat.zero_mul, Nat.shiftRight_zero]
    rw [h0]
    refine congrArg (List.cons _) (List.map_congr_left fun n _ => ?_)
    rw [elem, shiftRight_succ_mul]
    rfl

theorem getD_map_range {α : Type} (f : Nat → α) {n k : Nat} (h : n < k) (d : α) : ((List.range k).map f).getD n d = f n := by
  simp [List.getD_eq_getElem?_getD, h]

theorem getD_elems {k w x n : Nat} (h : n < k) : (elems k w x).getD n 0 = elem x w n := by
  rw [elems_eq, getD_map_range _ h]

/-- An element of rows packed one after another. -/
theorem elem_pack_rows {w k m r c : Nat} {rows : List Nat} (hm : k * w = m) (hc : c < k) :
    elem (pack m rows) w (k * r + c) = elem (rows.getD r 0) w c := by
  subst hm
  rw [← elem_elem hc, elem_pack, elem_mod_two_pow]
  exact Nat.mul_le_mul_right w hc

/-! Lanes. -/

theorem testBit_bitsOf (l : List Bool) (n : Nat) : (bitsOf l).testBit n = l.getD n false := by
  induction l generalizing n with
  | nil => simp [bitsOf]
  | cons b bs ih =>
    cases n with
    | zero => cases b <;> simp [bitsOf, b2n, Nat.testBit_zero]
    | succ n =>
      have hd : (b2n b + 2 * bitsOf bs) / 2 = bitsOf bs := by
        have : b2n b < 2 := by cases b <;> decide
        omega
      rw [bitsOf, Nat.testBit_succ, hd, ih, List.getD_cons_succ]

theorem getLsbD_bitsOf_range {w n : Nat} (f : Nat → Bool) (h : n < w) :
    (BitVec.ofNat w (bitsOf ((List.range w).map f))).getLsbD n = f n := by
  rw [BitVec.getLsbD_ofNat, testBit_bitsOf, getD_map_range _ h]
  simp [h]

theorem elem_permLanes {f : Nat → Nat} {b : Block} {n : Nat} (h : n < 1024) :
    elem (permLanes f b).bits.toNat 32 n = elem b.bits.toNat 32 (f n) := by
  rw [permLanes, BitVec.toNat_ofNat, elem_mod_two_pow (by omega), elem_pack, getD_map_range _ h]
  exact Nat.mod_eq_of_lt (elem_lt _ _ _)

theorem getLsbD_permLanes {f : Nat → Nat} {b : Block} {n : Nat} (h : n < 1024) :
    (permLanes f b).poison.getLsbD n = b.poison.getLsbD (f n) := by
  unfold permLanes
  dsimp only
  split
  · next h0 => rw [eq_of_beq h0]; simp
  · exact getLsbD_bitsOf_range _ h

/-! Rows. -/

theorem getD_chunks {α : Type} {n k r : Nat} {l : List α} (h : r < k) : (chunks n k l).getD r [] = (l.drop (n * r)).take n := by
  induction k generalizing r l with
  | zero => omega
  | succ k ih =>
    cases r with
    | zero => rfl
    | succ r =>
      rw [chunks, List.getD_cons_succ, ih (by omega), List.drop_drop, Nat.mul_succ, Nat.add_comm]

theorem length_chunks {α : Type} (n k : Nat) (l : List α) : (chunks n k l).length = k := by
  induction k generalizing l with
  | zero => rfl
  | succ k ih => exact congrArg (· + 1) (ih _)

theorem getD_map_of_lt {α β : Type} {f : α → β} {l : List α} {n : Nat} (h : n < l.length) (a : α) (b : β) :
    (l.map f).getD n b = f (l.getD n a) := by
  simp [List.getD_eq_getElem?_getD, h]

/-- Elements of a type fill a row of 64 lanes. -/
theorem row_width (ty : Ty) : 2048 / ty.width * ty.width = 2048 := by cases ty <;> rfl

theorem row_capacity (ty : Ty) : ty.capacity / 16 = 2048 / ty.width := by cases ty <;> rfl

theorem capacity_rows (ty : Ty) : 2048 / ty.width * 16 = ty.capacity := by cases ty <;> rfl

end Sys2Proof.Machine
end

section
/-! PROOFS. Movement, reduction and scan forms (R128 to R130). -/

namespace Sys2Proof.Machine

theorem vResult_of_vAxis {i : Instr} {s : State} {g : Guard} {vd : Opnd} {va : VSrc} {lat : Nat} (f : Nat → Nat)
    (hi : exec i s = vAxis s g vd va lat f) :
    VResult i s g vd false [va] [] false true lat (fun bs =>
      { bits := (permLanes f (nth bs 0)).bits.toNat, poison := (permLanes f (nth bs 0)).poison, mask := s.me.mask g,
        flags := 0, draws := 0 }) :=
  vResult_of_vForm (ds := fun _ => []) hi fun _ => rfl

/-- A movement puts lane h r c of its source at row r, column c. -/
theorem moves_of_vAxis {i : Instr} {s : State} {g : Guard} {vd : Opnd} {va : VSrc} {lat : Nat} {f : Nat → Nat} {h : Nat → Nat → Nat}
    (hi : exec i s = vAxis s g vd va lat f) (hf : ∀ r c, r < 16 → c < 64 → f (64 * r + c) = h r c) :
    ∃ out, VResult i s g vd false [va] [] false true lat out ∧ ∀ bs r c, r < 16 → c < 64 →
      elem (out bs).bits 32 (64 * r + c) = elem (nth bs 0).bits.toNat 32 (h r c) ∧
      (out bs).poison.getLsbD (64 * r + c) = (nth bs 0).poison.getLsbD (h r c) ∧
      (out bs).mask = s.me.mask g ∧ (out bs).flags = 0 ∧ (out bs).draws = 0 := by
  refine ⟨_, vResult_of_vAxis f hi, fun bs r c hr hc => ?_⟩
  rw [← hf r c hr hc]
  exact ⟨elem_permLanes (by omega), getLsbD_permLanes (by omega), rfl, rfl, rfl⟩

/-! Lines. -/

section Lines
variable (ty : Ty) (m : Mask) (b : Block)

theorem length_lines : (lines ty m b).length = 16 := length_chunks _ _ _

theorem length_row {r : Nat} (h : r < 16) : ((lines ty m b).getD r []).length = 2048 / ty.width := by
  have hw := capacity_rows ty
  rw [lines, getD_chunks h]
  simp only [elems_eq, row_capacity, List.length_take, List.length_drop, List.length_map, List.length_zip, List.length_range]
  have hr : 2048 / ty.width * (r + 1) ≤ 2048 / ty.width * 16 := Nat.mul_le_mul_left _ h
  rw [Nat.mul_succ] at hr
  omega

theorem eq_map_getD {α : Type} (l : List α) (d : α) : l = (List.range l.length).map (fun i => l.getD i d) := by
  refine List.ext_getElem (by simp) fun i h _ => ?_
  simp [h]

/-- A function of every row, by the rows' numbers. -/
theorem map_lines {α : Type} (f : List Part → α) : (lines ty m b).map f = (List.range 16).map (fun i => f ((lines ty m b).getD i [])) := by
  have h := congrArg (List.map f) (eq_map_getD (lines ty m b) [])
  rw [length_lines, List.map_map] at h
  exact h

end Lines

/-- Element c of row r of what packs each row's list. -/
theorem elem_pack_lines {α : Type} (ty : Ty) (m : Mask) (b : Block) (f : List Part → List α) (v : α → Nat) {r c : Nat} (hr : r < 16)
    (hc : c < 2048 / ty.width) :
    elem (pack 2048 ((lines ty m b).map (fun l => pack ty.width ((f l).map v)))) ty.width (2048 / ty.width * r + c) =
      ((f ((lines ty m b).getD r [])).map v).getD c 0 % 2 ^ ty.width := by
  rw [elem_pack_rows (row_width ty) hc, getD_map_of_lt (by rw [length_lines]; exact hr) [], elem_pack]

/-- Settles O33. -/
theorem axisForms : Obligations.AxisForms := by
  unfold Obligations.AxisForms
  refine ⟨fun s g vd va n => ?_, fun s g o => ?_⟩
  · have hn : n.toNat < 64 := n.isLt
    refine ⟨?_, ?_, ?_, ?_, ?_⟩
    all_goals refine moves_of_vAxis (by unfold exec; rfl) fun r c hr hc => ?_
    all_goals
      simp only [trnIdx]
      omega
  · intro t m w k red row
    refine ⟨⟨_, vResult_of_vForm (ds := fun _ => []) (by unfold exec; rfl) fun _ => rfl, fun bs r c hr hc => ⟨?_, rfl⟩⟩,
      ⟨_, vResult_of_vForm (ds := fun _ => []) (by unfold exec; rfl) fun _ => rfl, fun bs r c hr hc => ⟨?_, rfl⟩⟩,
      ⟨_, vResult_of_vForm (ds := fun _ => []) (by unfold exec; rfl) fun _ => rfl, fun bs r c hr hc => ⟨?_, rfl⟩⟩⟩
    · dsimp only
      rw [List.map_map, elem_pack_rows (row_width o.ty) hc, getD_map_of_lt (by rw [length_lines]; exact hr) [], Function.comp, elem_pack]
      rw [getD_replicate_of_lt _ (by rw [length_row _ _ _ hr]; exact hc)]
    · dsimp only
      rw [elem_pack_rows (row_width o.ty) hc, getD_replicate_of_lt _ hr, elem_pack, columns, List.map_map, List.map_map,
        getD_map_range _ (by rw [row_capacity]; exact hc)]
      dsimp only [Function.comp]
      rw [map_lines]
    · dsimp only
      rw [List.map_map]
      exact elem_pack_lines o.ty m (nth bs 0) _ _ hr hc

end Sys2Proof.Machine
end

section
/-! PROOFS. Vector conversions (R122 to R125): a rounding that is not stochastic has no use for a draw; lists of converted elements. -/

namespace Sys2Proof.Machine

/-! The draw matters to stochastic rounding alone (R62, R63). -/

section Draw
variable {mode : RM} (h : mode ≠ .rsr) (u v : Nat)
include h

theorem roundUp_draw (neg : Bool) (n r s : Nat) : roundUp mode u neg n r s = roundUp mode v neg n r s := by
  cases mode with
  | rsr => exact absurd rfl h
  | _ => rfl

theorem roundAt_draw (neg : Bool) (m : Nat) (e q : Int) : roundAt mode u neg m e q = roundAt mode v neg m e q := by
  unfold roundAt
  simp only [roundUp_draw h u v]

theorem round_draw (f : Fmt) (sat neg : Bool) (m : Nat) (e : Int) : f.round mode sat u neg m e = f.round mode sat v neg m e := by
  unfold Fmt.round
  simp only [roundAt_draw h u v]

theorem roundDy_draw (f : Fmt) (sat zneg : Bool) (x : Dy) : f.roundDy mode sat u zneg x = f.roundDy mode sat v zneg x := by
  unfold Fmt.roundDy
  simp only [round_draw h u v]

theorem ofTerm_draw (f : Fmt) (sat : Bool) (t : Term) : f.ofTerm mode sat u t = f.ofTerm mode sat v t := by
  cases t with
  | fin n x => exact roundDy_draw h u v f sat n x
  | _ => rfl

theorem roundInt_draw (neg : Bool) (m : Nat) (e : Int) : roundInt mode u neg m e = roundInt mode v neg m e := by
  unfold roundInt
  simp only [roundAt_draw h u v]

theorem convert_draw (d s : Ty) (sat : Bool) (x : Nat) : convert d s mode sat u x = convert d s mode sat v x := by
  unfold convert
  simp only [round_draw h u v, roundDy_draw h u v, roundInt_draw h u v]

theorem mxElem_draw (f : MxFmt) (x y : Nat) : mxElem f mode u x y = mxElem f mode v x y := by
  unfold mxElem
  simp only [round_draw h u v, roundInt_draw h u v]

theorem mxDequant_draw (f : MxFmt) (sat : Bool) (x scale : Nat) : mxDequant f mode sat u x scale = mxDequant f mode sat v x scale :=
  ofTerm_draw h u v _ _ _

end Draw

/-! Lists of converted elements. -/

/-- Element n of a list of converted elements: its draw is number n + 1. -/
theorem getD_convList {w : Nat} {m : Mask} {f : Nat → Nat → Coded} {i n : Nat} {g : BitVec 32} {xs : List Nat} (hn : n < xs.length) :
    (convList w m f i g xs).1.getD n 0 =
      if m.getLsbD (laneOf w (i + n)) then (f (drawBits (Nat.repeat drawStep (n + 1) g)) (xs.getD n 0)).1 else 0 := by
  induction xs generalizing i n g with
  | nil => exact absurd hn (Nat.not_lt_zero n)
  | cons x xs ih =>
    rw [convList]
    cases n with
    | zero =>
      simp only [Nat.add_zero]
      split <;> rfl
    | succ n =>
      have ht := ih (i := i + 1) (n := n) (g := drawStep g) (Nat.lt_of_succ_lt_succ hn)
      rw [Nat.add_right_comm, ← repeat_succ_apply] at ht
      refine Eq.trans ?_ ht
      simp only
      split <;> rfl

theorem elem_shiftLeft (x w a n : Nat) : elem (x <<< (a * w)) w (a + n) = elem x w n := by
  rw [elem, Nat.add_mul, Nat.shiftRight_add, Nat.shiftLeft_shiftRight, elem]

theorem elem_shiftRight (x w a n : Nat) : elem (x >>> (a * w)) w n = elem x w (a + n) := by
  rw [elem, elem, ← Nat.shiftRight_add, Nat.add_mul]

/-- The draws before and at a position of the register. -/
theorem drawn_at (seed : BitVec 32) {a n : Nat} (h : a + n + 1 ≤ 2 ^ 127) :
    Nat.repeat drawStep (n + 1) (drawN a seed) = drawN (a + n + 1) seed := by
  rw [drawN_eq_repeat _ (by omega), drawN_eq_repeat _ h, ← repeat_add, show n + 1 + a = a + n + 1 by omega]

/-! Packing. -/

theorem zip_elems (k w x y : Nat) : (elems k w x).zip (elems k w y) = (List.range k).map (fun n => (elem x w n, elem y w n)) := by
  rw [elems_eq, elems_eq, List.zip_map']

section Convert
variable {s : State} {g : Guard} {rnd : Rnd} {sat : Bool} {vd : Opnd} {va vb : VSrc}

theorem capacity_le (ty : Ty) : ty.capacity ≤ 8192 := by cases ty <;> decide

/-- The block that `vcvt` computes. -/
def cvtOut (t : Strand) (g : Guard) (o : VUn) (d : Ty) (p : Nat) (bs : List Block) : VOut :=
  let cs := o.ty.capacity
  let cd := d.capacity
  let md := t.mode o.rnd
  let rsr := md == .rsr
  let b := nth bs 0
  let n := min cs cd
  let skip := if cd < cs then p * cd else 0
  let start := if cs < cd then p * cs else 0
  let m := typeMask d (t.mask g) &&& laneSpan (start * d.width / 32) (n * d.width / 32)
  let xs := elems n o.ty.width (b.bits.toNat >>> (skip * o.ty.width))
  let ps := ((elemPoison o.ty.width cs (typePoison o.ty b.poison)).drop skip).take n
  let r := convList d.width m (fun u x => convert d o.ty md o.sat u x) start (if rsr then drawN start t.sys.seed else t.sys.seed) xs
  { bits := pack d.width r.1 <<< (start * d.width)
    poison := if b.poison == 0 then 0 else BitVec.ofNat 1024 (lanePoison d.width start ps 0)
    mask := m, flags := r.2, draws := if rsr then cd else 0 }

/-- Element n of the part that `vcvt` writes. -/
theorem elem_cvtOut {t : Strand} {o : VUn} {d : Ty} {p : Nat} {bs : List Block} {n u : Nat} {at' from' : Nat}
    (hat : at' = if o.ty.capacity < d.capacity then p * o.ty.capacity + n else n)
    (hfrom : from' = if d.capacity < o.ty.capacity then p * d.capacity + n else n)
    (hn : n < min o.ty.capacity d.capacity) (hlt : at' < d.capacity)
    (hm : (cvtOut t g o d p bs).mask.getLsbD (at' * d.width / 32) = true)
    (hu : t.mode o.rnd = .rsr → u = drawBits (drawN (at' + 1) t.sys.seed)) :
    elem (cvtOut t g o d p bs).bits d.width at' =
      (convert d o.ty (t.mode o.rnd) o.sat u (elem (nth bs 0).bits.toNat o.ty.width from')).1 % 2 ^ d.width := by
  have hat' : at' = (if o.ty.capacity < d.capacity then p * o.ty.capacity else 0) + n := by rw [hat]; split <;> omega
  have hfrom' : from' = (if d.capacity < o.ty.capacity then p * d.capacity else 0) + n := by rw [hfrom]; split <;> omega
  have hd := capacity_le d
  generalize hst : (if o.ty.capacity < d.capacity then p * o.ty.capacity else 0) = start at hat'
  generalize hsk : (if d.capacity < o.ty.capacity then p * d.capacity else 0) = skip at hfrom'
  subst hat' hfrom'
  unfold cvtOut at hm ⊢
  simp only [hst, hsk] at hm ⊢
  rw [elem_shiftLeft, elem_pack, getD_convList (by rw [elems_eq]; simpa using hn), getD_elems hn, elem_shiftRight]
  rw [if_pos (by exact hm)]
  by_cases hr : t.mode o.rnd = .rsr
  · rw [hu hr, if_pos (by rw [hr]; rfl), drawn_at _ (by omega)]
  · rw [convert_draw hr _ u]

end Convert

end Sys2Proof.Machine
end

section
/-! PROOFS. MX forms (R55, R124, R125): the elements and scales of a block's groups, and what they are multiplied to. -/

namespace Sys2Proof.Machine

/-! Rows of lanes. -/

theorem getD_rowsOf (b : Block) {r : Nat} (h : r < 16) : (rowsOf b).getD r [] = (List.range 64).map (fun c => elem b.bits.toNat 32 (64 * r + c)) := by
  rw [rowsOf, getD_chunks h, elems_eq]
  refine List.ext_getElem (by simp; omega) fun i h1 h2 => ?_
  simp

theorem length_rowsOf (b : Block) : (rowsOf b).length = 16 := length_chunks _ _ _

/-! One group of 32 values. -/

/-- The element that R55 makes of a value under a scale found for its group. -/
def groupElem (f : MxFmt) (mode : RM) (u : Nat) (sc : Nat × Bool × Bool) (x : Nat) : Nat :=
  if sc.2.1 || sc.2.2 then 0 else (mxElem f mode u sc.1 x).1

/-- One more element of a group, of its scale sc: the elements made, the generator, the flags. -/
def quantStep (f : MxFmt) (mode : RM) (sc : Nat) (a : List (Nat × Bool) × BitVec 32 × BitVec 6) (e : Nat × Bool) :
    List (Nat × Bool) × BitVec 32 × BitVec 6 :=
  let g' := drawStep a.2.1
  let c := mxElem f mode (drawBits g') sc e.1
  ((c.1, e.2) :: a.1, g', if e.2 then a.2.2 ||| c.2 else a.2.2)

section Group
variable {f : MxFmt} {mode : RM} (h : mode ≠ .rsr) (u : Nat)
include h

theorem foldl_quantStep (sc : Nat) (es acc : List (Nat × Bool)) (g : BitVec 32) (fl : BitVec 6) :
    ((es.foldl (quantStep f mode sc) (acc, g, fl)).1.reverse).map (fun e => e.1) =
      acc.reverse.map (fun e => e.1) ++ es.map (fun e => (mxElem f mode u sc e.1).1) := by
  induction es generalizing acc g fl with
  | nil => simp
  | cons e es ih =>
    rw [List.foldl_cons]
    refine (ih _ _ _).trans ?_
    simp [mxElem_draw h (drawBits (drawStep g)) u]

/-- The elements of a group are made one by one, where the rounding draws nothing. -/
theorem quantGroup_elems (g : BitVec 32) (es : List (Nat × Bool)) :
    (quantGroup f mode g es).1.map (fun e => e.1) =
      es.map (fun e => groupElem f mode u (mxScale f (es.map (fun e => e.1))) e.1) := by
  unfold quantGroup groupElem
  generalize mxScale f (es.map (fun e => e.1)) = sc
  obtain ⟨x, nan, zero⟩ := sc
  cases nan with
  | true => simp only [if_true, List.map_map]; rfl
  | false =>
    cases zero with
    | true => simp only [Bool.false_eq_true, if_false, if_true, List.map_map]; rfl
    | false => exact foldl_quantStep h u x es [] g 0

theorem length_quantGroup (g : BitVec 32) (es : List (Nat × Bool)) : (quantGroup f mode g es).1.length = es.length := by
  simpa using congrArg List.length (quantGroup_elems h 0 g es)

/-- Element i of a group. -/
theorem getD_quantGroup (g : BitVec 32) {es : List (Nat × Bool)} {i : Nat} (hi : i < es.length) :
    ((quantGroup f mode g es).1.map (fun e => e.1)).getD i 0 =
      groupElem f mode u (mxScale f (es.map (fun e => e.1))) ((es.map (fun e => e.1)).getD i 0) := by
  rw [quantGroup_elems h u]
  simp [List.getD_eq_getElem?_getD, hi]

/-- Of 64 values, element i of the two groups. -/
theorem getD_quantAll {g : BitVec 32} {es : List (Nat × Bool)} (hl : es.length = 64) {i : Nat} (hi : i < 64) :
    ((quantAll f mode 2 g es).1.map (fun e => e.1)).getD i 0 =
      groupElem f mode u (mxScale f (((es.map (fun e => e.1)).drop (32 * (i / 32))).take 32)) ((es.map (fun e => e.1)).getD i 0) := by
  have hlen : ((quantGroup f mode g (es.take 32)).1.map (fun e => e.1)).length = 32 := by
    rw [List.length_map, length_quantGroup h, List.length_take]
    omega
  rw [quantAll, quantAll, quantAll]
  simp only [List.append_nil, List.map_append]
  by_cases hlow : i < 32
  · rw [getD_append_left _ (by rw [hlen]; exact hlow), getD_quantGroup h u _ (by simp; omega), Nat.div_eq_of_lt hlow]
    simp [List.getD_eq_getElem?_getD, List.map_take, hlow]
  · rw [getD_append_right _ (by rw [hlen]; omega), hlen, getD_quantGroup h u _ (by simp; omega), show i / 32 = 1 by omega]
    simp [List.getD_eq_getElem?_getD, List.map_take, List.map_drop, show i - 32 < 32 by omega, show 32 + (i - 32) = i by omega]

end Group

/-- Row r of the elements written. -/
theorem getD_quantRows {f : MxFmt} {md : RM} {seed : BitVec 32} {m : Mask} {p r0 r : Nat} {rows : List (List Nat)} (hr : r < rows.length) :
    ∃ g, (quantRows f md seed m p r0 rows).1.getD r 0 =
      pack (mxWidth f) ((quantAll f md 2 g ((rows.getD r []).zip ((List.range 64).map (fun i =>
        m.getLsbD (64 * (r0 + r) + (64 * p + i) * mxWidth f / 32))))).1.map (fun e => e.1)) <<< (64 * p * mxWidth f) := by
  induction rows generalizing r0 r with
  | nil => exact absurd hr (Nat.not_lt_zero r)
  | cons row rows ih =>
    rw [quantRows]
    cases r with
    | zero => exact ⟨_, rfl⟩
    | succ r =>
      obtain ⟨g, hg⟩ := ih (r0 := r0 + 1) (r := r) (Nat.lt_of_succ_lt_succ hr)
      rw [Nat.add_right_comm] at hg
      exact ⟨g, hg⟩

theorem length_quantRows (f : MxFmt) (md : RM) (seed : BitVec 32) (m : Mask) (p r0 : Nat) (rows : List (List Nat)) :
    (quantRows f md seed m p r0 rows).1.length = rows.length := by
  induction rows generalizing r0 with
  | nil => rfl
  | cons row rows ih => exact congrArg (· + 1) (ih _)

theorem mx_row_width (f : MxFmt) : 2048 / mxWidth f * mxWidth f = 2048 := by cases f <;> rfl

/-- The elements that the element form writes (R55, step 4). -/
theorem elem_quantRows {f : MxFmt} {md : RM} (h : md ≠ .rsr) (u : Nat) {seed : BitVec 32} {m : Mask} {p r i : Nat} {b : Block} (hr : r < 16)
    (hi : i < 64) (hp : 64 * p + i < 2048 / mxWidth f) :
    elem (pack 2048 (quantRows f md seed m p 0 (rowsOf b)).1) (mxWidth f) (2048 / mxWidth f * r + 64 * p + i) =
      groupElem f md u (mxScale f ((List.range 32).map (fun c => elem b.bits.toNat 32 (64 * r + (32 * (i / 32) + c)))))
        (elem b.bits.toNat 32 (64 * r + i)) % 2 ^ mxWidth f := by
  obtain ⟨g, hg⟩ := getD_quantRows (f := f) (md := md) (seed := seed) (m := m) (p := p) (r0 := 0) (r := r) (rows := rowsOf b)
    (by rw [length_rowsOf]; exact hr)
  rw [getD_rowsOf b hr, List.zip_map'] at hg
  rw [Nat.add_assoc, elem_pack_rows (mx_row_width f) hp, hg, elem_shiftLeft, elem_pack, getD_quantAll h u (by simp) hi]
  simp only [List.map_map, Function.comp_def]
  rw [getD_map_range _ hi]
  congr 4
  refine List.ext_getElem (by simp; omega) fun k _ hk => ?_
  simp

/-! Scales. -/

/-- The bits that a lane keeps beside two bytes lie outside them. -/
theorem testBit_lane_kept {k j : Nat} (hk : k < 2) (hj : j < 16) : ((2 ^ 32 - 1) - (65535 <<< (16 * k))).testBit (16 * k + j) = false := by
  obtain rfl | rfl : k = 0 ∨ k = 1 := by omega
  · rw [show (2 ^ 32 - 1) - (65535 <<< (16 * 0)) = 65535 * 2 ^ 16 by decide, Nat.testBit_mul_two_pow]
    simp
    omega
  · rw [show (2 ^ 32 - 1) - (65535 <<< (16 * 1)) = 2 ^ 16 - 1 by decide, Nat.testBit_two_pow_sub_one]
    simp

/-- A lane with two of its bytes replaced: the byte at place b of the two. -/
theorem elem_lane_bytes {keep q0 q1 k b : Nat} (h0 : q0 < 256) (h1 : q1 < 256) (hk : k < 2) (hb : b < 2) :
    elem ((keep &&& ((2 ^ 32 - 1) - (65535 <<< (16 * k)))) ||| ((q0 + 256 * q1) <<< (16 * k))) 8 (2 * k + b) = if b = 0 then q0 else q1 := by
  have hq : elem (q0 + 256 * q1) 8 b = if b = 0 then q0 else q1 := by
    obtain rfl | rfl : b = 0 ∨ b = 1 := by omega
    · simp [elem]
      omega
    · simp [elem, Nat.shiftRight_eq_div_pow]
      omega
  rw [← hq]
  refine Nat.eq_of_testBit_eq fun i => ?_
  rw [testBit_elem, testBit_elem]
  by_cases hi : i < 8
  · rw [show (2 * k + b) * 8 + i = 16 * k + (8 * b + i) by omega, Nat.testBit_or, Nat.testBit_and, testBit_lane_kept hk (by omega),
      Nat.testBit_shiftLeft]
    simp [Nat.mul_comm b 8]
  · simp [hi]

/-- The exponent of a finite FP32 value. -/
theorem f32_exponent_le {x m : Nat} {n : Bool} {e : Int} (h : Fmt.f32.val x = .fin n m e) (hm : m ≠ 0) : e + Nat.log2 m ≤ 127 := by
  have hmax : MaxIsGreatest Fmt.f32 := fun ex fr hex hfr h => by
    simp only [Fmt.f32, Fmt.emax, Fmt.maxCode] at hex hfr h ⊢
    omega
  obtain ⟨-, hc⟩ := val_fin hmax h
  have hl := hc.log2_le hm
  obtain ⟨hfr, hle, ⟨-, -, he⟩ | ⟨-, -, he⟩⟩ := hc
  · simp only [Fmt.f32, Fmt.emin] at hl he
    omega
  · simp only [Fmt.f32, Fmt.maxCode, Fmt.emax] at hl he hle
    omega

/-- The greatest exponent of a block, so far. -/
def topStep (a : Option Int) (v : Val) : Option Int :=
  match v with
  | .fin _ m e => if m == 0 then a else
      let t : Int := e + Nat.log2 m
      match a with | some b => some (max b t) | none => some t
  | _ => a

theorem topStep_le {a : Option Int} {x : Nat} (ha : ∀ t, a = some t → t ≤ 127) : ∀ t, topStep a (Fmt.f32.val x) = some t → t ≤ 127 := by
  intro t ht
  cases hv : Fmt.f32.val x with
  | nan => rw [hv] at ht; exact ha t ht
  | inf => rw [hv] at ht; exact ha t ht
  | fin n m e =>
    rw [hv, topStep] at ht
    split at ht
    · exact ha t ht
    · next hm =>
      have he := f32_exponent_le hv (by simpa using hm)
      cases a with
      | none => cases ht; exact he
      | some b => cases ht; exact Int.max_le.mpr ⟨ha b rfl, he⟩

theorem foldl_topStep_le {xs : List Nat} {a : Option Int} (ha : ∀ t, a = some t → t ≤ 127) :
    ∀ t, (xs.map Fmt.f32.val).foldl topStep a = some t → t ≤ 127 := by
  induction xs generalizing a with
  | nil => exact ha
  | cons x xs ih => exact ih (topStep_le ha)

theorem mxScale_eq (f : MxFmt) (vs : List Nat) : mxScale f vs =
    if (vs.map Fmt.f32.val).any (fun v => match v with | .fin _ _ _ => false | _ => true) then (255, true, false)
    else match (vs.map Fmt.f32.val).foldl topStep none with
      | none => (0, false, true)
      | some t => ((max 0 (t - mxEmax f + 127)).toNat, false, false) := rfl

theorem mxScale_lt (f : MxFmt) (vs : List Nat) : (mxScale f vs).1 < 256 := by
  rw [mxScale_eq]
  split
  · decide
  split
  · decide
  · next t ht =>
    have h127 := foldl_topStep_le (by simp) t ht
    have hmax : 0 ≤ mxEmax f := by cases f <;> decide
    dsimp only
    omega

end Sys2Proof.Machine
end

section
/-! PROOFS. Vector conversions (R122 to R125, O31). -/

namespace Sys2Proof.Machine

/-- Element n of lists of one length, one after another. -/
theorem getD_flatMap {α β : Type} {f : α → List β} {k : Nat} (hk : 0 < k) {l : List α} (hl : ∀ x ∈ l, (f x).length = k) {n : Nat}
    (hn : n < k * l.length) (a : α) (b : β) : (l.flatMap f).getD n b = (f (l.getD (n / k) a)).getD (n % k) b := by
  induction l generalizing n with
  | nil => exact absurd hn (Nat.not_lt_zero n)
  | cons x xs ih =>
    have hx := hl x (List.mem_cons_self ..)
    rw [List.flatMap_cons]
    by_cases h : n < k
    · rw [getD_append_left _ (by rw [hx]; exact h), Nat.div_eq_of_lt h, Nat.mod_eq_of_lt h]
      rfl
    · obtain ⟨m, rfl⟩ : ∃ m, n = m + k := ⟨n - k, by omega⟩
      rw [List.length_cons, Nat.mul_add_one] at hn
      rw [getD_append_right _ (by rw [hx]; omega), hx, Nat.add_sub_cancel,
        ih (fun y hy => hl y (List.mem_cons_of_mem _ hy)) (by omega),
        Nat.add_div_right _ hk, Nat.add_mod_right]
      rfl

theorem length_flatMap_const {α β : Type} {f : α → List β} {k : Nat} {l : List α} (hl : ∀ x ∈ l, (f x).length = k) :
    (l.flatMap f).length = k * l.length := by
  induction l with
  | nil => rfl
  | cons x xs ih =>
    rw [List.flatMap_cons, List.length_append, hl x (List.mem_cons_self ..), ih fun y hy => hl y (List.mem_cons_of_mem _ hy),
      List.length_cons,
      Nat.mul_add_one, Nat.add_comm]

section
variable {s : State} {g : Guard} {rnd : Rnd} {sat : Bool} {vd : Opnd} {va vb : VSrc}

/-- R123: element n of a block packed of lane by lane results. -/
theorem elem_packed (f : Nat → Nat) {n : Nat} (hn : n < 1024) : elem (pack 32 ((List.range 1024).map f)) 32 n = f n % 2 ^ 32 := by
  rw [elem_pack, getD_map_range f hn]


theorem vcvt_result (src d : Ty) (p : BitVec 4) : ∃ out, VResult (.vcvt g ⟨src, rnd, sat, vd,
  va⟩ d p) s g vd (src.capacity < d.capacity) [va] []
        (src == .f64 || d == .f64) true 5 out ∧
      ∀ bs n u,
        let x := (nth bs 0).bits.toNat
        let at' := if src.capacity < d.capacity then p.toNat * src.capacity + n else n
        let from' := if d.capacity < src.capacity then p.toNat * d.capacity + n else n
        (n < min src.capacity d.capacity → at' < d.capacity → from' < src.capacity → (out bs).mask.getLsbD (at' * d.width / 32) = true →
          (s.me.mode rnd = .rsr → u = drawBits (drawN (at' + 1) s.me.sys.seed)) →
          elem (out bs).bits d.width at' = (convert d src (s.me.mode rnd) sat u (elem x src.width from')).1 % 2 ^ d.width) ∧
        (out bs).draws = (if s.me.mode rnd = .rsr then d.capacity else 0) := by
  refine ⟨cvtOut s.me g ⟨src, rnd, sat, vd, va⟩ d p.toNat, vResult_of_vForm (ds := fun _ => []) (by unfold exec; rfl) fun _ => rfl,
    fun bs n u => ⟨?_, ?_⟩⟩
  · intro hn hat _ hm hu
    exact elem_cvtOut (o := ⟨src, rnd, sat, vd, va⟩) rfl rfl hn hat hm hu
  · simp [cvtOut]

theorem vpack_result (ty : Ty) (p : BitVec 2) :
    ∃ out, VResult (.vpack g ty sat ⟨vd, va, vb⟩ p) s g vd (ty.width != 16) [va, vb] [] false true 4 out ∧
      ∀ bs n, n < 1024 →
        let lane (k : Nat) : Nat := elem (nth bs k).bits.toNat 32 n
        elem (out bs).bits 32 n = packLane ty sat p.toNat (lane 0) (lane 1) (lane 2) % 2 ^ 32 ∧ (out bs).mask = s.me.mask g := by
  refine ⟨_, vResult_of_vForm (ds := fun _ => []) (by unfold exec; rfl) fun _ => rfl, fun bs n hn => ⟨?_, rfl⟩⟩
  simp only [elems_eq, List.zip_map', List.map_map]
  exact elem_packed _ hn

theorem vunpk_result (ty : Ty) (j : BitVec 3) : ∃ out, VResult (.vunpk g ty vd va j) s g vd false [va] [] false true 4 out ∧
      ∀ bs n, n < 1024 →
        let e := elem (elem (nth bs 0).bits.toNat 32 n) ty.width j.toNat
        elem (out bs).bits 32 n = (if ty = .i16 ∨ ty = .i8 then wrap 32 (signed ty.width e) else e) % 2 ^ 32 ∧
          (out bs).mask = s.me.mask g := by
  refine ⟨_, vResult_of_vForm (ds := fun _ => []) (by unfold exec; rfl) fun _ => rfl, fun bs n hn => ⟨?_, rfl⟩⟩
  simp only [elems_eq, List.map_map]
  refine (elem_packed _ hn).trans ?_
  simp only [Function.comp_apply, Bool.or_eq_true, beq_iff_eq]

theorem vquant_elements (fmt : MxFmt) (p : BitVec 3) : ∃ out,
  VResult (.vquant g fmt false rnd vd va p) s g vd true [va] [] false true 5 out ∧
      ∀ bs, (out bs).draws = (if s.me.mode rnd = .rsr then 32768 / mxWidth fmt else 0) ∧
        (out bs).mask = s.me.mask g &&& rowSpan (64 * mxWidth fmt / 32 * p.toNat) (64 * mxWidth fmt / 32) ∧
        ∀ r i u, r < 16 → i < 64 → 64 * p.toNat + i < 2048 / mxWidth fmt → s.me.mode rnd ≠ .rsr →
          (out bs).mask.getLsbD (64 * r + (64 * p.toNat + i) * mxWidth fmt / 32) = true →
          let lane (c : Nat) : Nat := elem (nth bs 0).bits.toNat 32 (64 * r + c)
          let sc := mxScale fmt ((List.range 32).map (fun c => lane (32 * (i / 32) + c)))
          elem (out bs).bits (mxWidth fmt) (2048 / mxWidth fmt * r + 64 * p.toNat + i) =
            (if sc.2.1 || sc.2.2 then 0 else (mxElem fmt (s.me.mode rnd) u sc.1 (lane i)).1) % 2 ^ mxWidth fmt := by
  refine ⟨_, vResult_of_vForm (ds := fun _ => []) (by unfold exec; rfl) fun _ => rfl, fun bs => ⟨?_, rfl, ?_⟩⟩
  · simp
  · intro r i u hr hi hp hm _
    exact elem_quantRows hm u hr hi hp

/-- The scale byte that R124 writes for a group. -/
def scaleByte (fmt : MxFmt) (vs : List Nat) : Nat × BitVec 6 :=
  let sc := mxScale fmt vs
  if sc.2.1 then (255, fInvalid) else if sc.2.2 then (0, 0) else (sc.1, 0)

theorem scaleByte_lt (fmt : MxFmt) (vs : List Nat) : (scaleByte fmt vs).1 < 256 := by
  have := mxScale_lt fmt vs
  unfold scaleByte
  dsimp only
  split
  · decide
  split
  · decide
  · exact this

theorem scaleByte_eq (fmt : MxFmt) (vs : List Nat) :
    (scaleByte fmt vs).1 = (if (mxScale fmt vs).2.1 then 255 else if (mxScale fmt vs).2.2 then 0 else (mxScale fmt vs).1) := by
  unfold scaleByte
  dsimp only
  split
  · rfl
  split <;> rfl

/-- What the scale form writes of row e.1, whose lanes are e.2. -/
def scaleRow (fmt : MxFmt) (p : Nat) (old : Block) (m : Mask) (e : Nat × List Nat) : Nat × BitVec 6 :=
  let q (k : Nat) : Nat × BitVec 6 := scaleByte fmt ((e.2.drop (32 * k)).take 32)
  let l := 64 * e.1 + p / 2
  let keep := elem old.bits.toNat 32 l
  let sh := 8 * (2 * p % 4)
  (((keep &&& ((2 ^ 32 - 1) - (65535 <<< sh))) ||| (((q 0).1 + 256 * (q 1).1) <<< sh)) <<< (32 * (p / 2)),
    if m.getLsbD l then (q 0).2 ||| (q 1).2 else 0)

theorem elem_scaleRow (fmt : MxFmt) (p : Nat) (old : Block) (m : Mask) (e : Nat × List Nat) {b : Nat} (hb : b < 2) :
    elem (scaleRow fmt p old m e).1 8 (2 * p + b) = (scaleByte fmt ((e.2.drop (32 * b)).take 32)).1 := by
  rw [scaleRow]
  dsimp only
  rw [show 32 * (p / 2) = (4 * (p / 2)) * 8 by omega, show 2 * p + b = 4 * (p / 2) + (2 * (p % 2) + b) by omega, elem_shiftLeft,
    show 8 * (2 * p % 4) = 16 * (p % 2) by omega, elem_lane_bytes (scaleByte_lt _ _) (scaleByte_lt _ _) (by omega) hb]
  obtain rfl | rfl : b = 0 ∨ b = 1 := by omega
  · rfl
  · rfl

theorem vquant_scales (fmt : MxFmt) (p : BitVec 3) : ∃ out, VResult (.vquant g fmt true rnd vd va p) s g vd true [va] [] false true 5 out ∧
      ∀ bs, (out bs).draws = 0 ∧ (out bs).mask = s.me.mask g &&& rowSpan (p.toNat / 2) 1 ∧
        ∀ r b, r < 16 → b < 2 →
          let sc := mxScale fmt ((List.range 32).map (fun c => elem (nth bs 0).bits.toNat 32 (64 * r + 32 * b + c)))
          elem (out bs).bits 8 (256 * r + 2 * p.toNat + b) = (if sc.2.1 then 255 else if sc.2.2 then 0 else sc.1) % 256 := by
  refine ⟨_, vResult_of_vForm (ds := fun _ => []) (by unfold exec; rfl) fun _ => rfl, fun bs => ⟨rfl, rfl, fun r b hr hb => ?_⟩⟩
  change elem (pack 2048 ((((List.range 16).zip (rowsOf (nth bs 0))).map
    (scaleRow fmt p.toNat (nth bs 1) (s.me.mask g &&& rowSpan (p.toNat / 2) 1))).map (fun r => r.1))) 8 _ = _
  have hp := p.isLt
  rw [Nat.add_assoc, elem_pack_rows (by rfl) (by omega), List.map_map,
    getD_map_of_lt (by simp [length_rowsOf]; exact hr) (0, []) 0, Function.comp_apply, elem_scaleRow _ _ _ _ _ hb,
    ← scaleByte_eq, Nat.mod_eq_of_lt (scaleByte_lt _ _)]
  congr 2
  have hz : (((List.range 16).zip (rowsOf (nth bs 0))).getD r (0, [])).2 = (rowsOf (nth bs 0)).getD r [] := by
    have hl : r < (rowsOf (nth bs 0)).length := by rw [length_rowsOf]; exact hr
    rw [getD_of_lt _ (by rw [List.length_zip, List.length_range]; omega), List.getElem_zip, getD_of_lt _ hl]
  rw [hz, getD_rowsOf _ hr]
  refine List.ext_getElem (by simp; omega) fun i h1 h2 => ?_
  simp [Nat.add_assoc]

theorem length_of_mem_chunks {α : Type} {n k : Nat} {l row : List α} (hl : l.length = n * k) (h : row ∈ chunks n k l) : row.length = n := by
  induction k generalizing l with
  | zero => cases h
  | succ k ih =>
    rw [Nat.mul_add_one] at hl
    rcases List.mem_cons.mp h with rfl | h
    · rw [List.length_take]
      omega
    · exact ih (by rw [List.length_drop]; omega) h

/-- Element c of row r of elements in rows of k. -/
theorem getD_row {k w r c x : Nat} (hr : r < 16) (hc : c < k) : ((chunks k 16 (elems (k * 16) w x)).getD r []).getD c 0 = elem x w (k * r + c) := by
  have hlt : k * r + c < k * 16 := by
    have h : k * r + k ≤ k * 16 := Nat.mul_le_mul_left k hr
    omega
  rw [getD_chunks hr, ← getD_elems hlt]
  simp [List.getD_eq_getElem?_getD, hc]

/-- The elements that `vdeq` multiplies: of every row of k elements those of part p. -/
def mxParts (k w p x : Nat) : List Nat := (chunks k 16 (elems (k * 16) w x)).flatMap (fun row => (row.drop (64 * p)).take 64)

/-- The scale byte that goes with each of them. -/
def mxScales (p x : Nat) : List Nat :=
  (chunks 256 16 (elems 4096 8 x)).flatMap (fun row => ((row.drop (2 * p)).take 2).flatMap (fun x => List.replicate 32 x))

theorem length_row_of_elems {k w x : Nat} {row : List Nat} (h : row ∈ chunks k 16 (elems (k * 16) w x)) : row.length = k :=
  length_of_mem_chunks (by rw [elems_eq, List.length_map, List.length_range]) h

section
variable {k w p x : Nat} (hp : 64 * p + 64 ≤ k)
include hp

theorem length_part_of_row : ∀ row ∈ chunks k 16 (elems (k * 16) w x), ((row.drop (64 * p)).take 64).length = 64 := fun row h => by
  rw [List.length_take, List.length_drop, length_row_of_elems h]
  omega

theorem length_mxParts : (mxParts k w p x).length = 1024 := by
  rw [mxParts, length_flatMap_const (length_part_of_row hp), length_chunks]

theorem getD_mxParts {n : Nat} (hn : n < 1024) : (mxParts k w p x).getD n 0 = elem x w (k * (n / 64) + 64 * p + n % 64) := by
  rw [mxParts, getD_flatMap (by decide) (length_part_of_row hp) (by rw [length_chunks]; omega) [], Nat.add_assoc,
    ← getD_row (by omega) (by omega)]
  simp [List.getD_eq_getElem?_getD, Nat.mod_lt]

end

section
variable {p x : Nat} (hp : p < 8)
include hp

theorem length_scales_of_row : ∀ row ∈ chunks 256 16 (elems 4096 8 x),
    (((row.drop (2 * p)).take 2).flatMap (fun x => List.replicate 32 x)).length = 64 := fun row h => by
  rw [length_flatMap_const (fun _ _ => List.length_replicate), List.length_take, List.length_drop, length_row_of_elems h]
  omega

theorem length_mxScales : (mxScales p x).length = 1024 := by
  rw [mxScales, length_flatMap_const (length_scales_of_row hp), length_chunks]

theorem getD_mxScales {n : Nat} (hn : n < 1024) : (mxScales p x).getD n 0 = elem x 8 (256 * (n / 64) + 2 * p + n % 64 / 32) := by
  have hl : ((chunks 256 16 (elems 4096 8 x)).getD (n / 64) []).length = 256 := by
    rw [getD_chunks (by omega), List.length_take, List.length_drop, elems_eq, List.length_map, List.length_range]
    omega
  rw [mxScales, getD_flatMap (by decide) (length_scales_of_row hp) (by rw [length_chunks]; omega) [], Nat.add_assoc,
    ← getD_row (by omega) (by omega),
    getD_flatMap (k := 32) (by decide) (fun _ _ => List.length_replicate) (by rw [List.length_take, List.length_drop, hl]; omega) 0,
    List.getD_eq_getElem?_getD, List.getElem?_replicate_of_lt (by omega)]
  simp [List.getD_eq_getElem?_getD, show n % 64 / 32 < 2 by omega]

end

theorem getD_map_zip {α β γ : Type} {f : α × β → γ} {xs : List α} {ys : List β} {n : Nat} (hx : n < xs.length) (hy : n < ys.length) (a : α) (b : β)
    (c : γ) : ((xs.zip ys).map f).getD n c = f (xs.getD n a, ys.getD n b) := by
  rw [getD_of_lt _ (by rw [List.length_map, List.length_zip]; omega), List.getElem_map, List.getElem_zip, getD_of_lt _ hx, getD_of_lt _ hy]

theorem laneOf_32 (n : Nat) : laneOf 32 n = n := Nat.mul_div_cancel n (by decide)

theorem mx_byte (f : MxFmt) : 2 ^ mxWidth f ≤ 256 := by cases f <;> decide

theorem mx_elements (f : MxFmt) : 32768 / mxWidth f = 2048 / mxWidth f * 16 := by cases f <;> rfl

/-- A part of a row that begins within it lies within it. -/
theorem part_le {f : MxFmt} {p c : Nat} (h : 64 * p + c < 2048 / mxWidth f) : 64 * p + 64 ≤ 2048 / mxWidth f := by
  have hk : 2048 / mxWidth f = 64 * 4 ∨ 2048 / mxWidth f = 64 * 8 := by
    cases f
    all_goals decide
  omega

theorem vdeq_result (fmt : MxFmt) (p : BitVec 3) : ∃ out, VResult (.vdeq g fmt rnd sat ⟨vd, va, vb⟩ p) s g vd false [va,
  vb] [] false true 5 out ∧
      ∀ bs n, n < 1024 → s.me.mode rnd ≠ .rsr → 64 * p.toNat + n % 64 < 2048 / mxWidth fmt → (s.me.mask g).getLsbD n = true →
        let w := mxWidth fmt
        let e := elem (nth bs 0).bits.toNat w (2048 / w * (n / 64) + 64 * p.toNat + n % 64)
        let x := elem (nth bs 1).bits.toNat 8 (256 * (n / 64) + 2 * p.toNat + n % 64 / 32)
        ∀ u, elem (out bs).bits 32 n = (mxDequant fmt (s.me.mode rnd) sat u e x).1 % 2 ^ 32 := by
  refine ⟨_, vResult_of_vForm (ds := fun _ => []) (by unfold exec; rfl) fun _ => rfl, fun bs n hn hm hp hb => ?_⟩
  dsimp only
  intro u
  have hlx := length_mxParts (w := mxWidth fmt) (x := (nth bs 0).bits.toNat) (part_le hp)
  have hls := length_mxScales (x := (nth bs 1).bits.toNat) p.isLt
  have he := getD_map_zip (f := fun e : Nat × Nat => e.1 + 256 * e.2) (by rw [hlx]; exact hn) (by rw [hls]; exact hn) 0 0 0
  rw [getD_mxParts (part_le hp) hn, getD_mxScales p.isLt hn] at he
  have hlt : elem (nth bs 0).bits.toNat (mxWidth fmt) (2048 / mxWidth fmt * (n / 64) + 64 * p.toNat + n % 64) < 256 :=
    Nat.lt_of_lt_of_le (elem_lt _ _ _) (mx_byte fmt)
  rw [elem_pack, mx_elements, getD_convList (by rw [List.length_map, List.length_zip]; exact Nat.lt_min.mpr ⟨hlx ▸ hn, hls ▸ hn⟩),
    if_pos (by rw [Nat.zero_add, laneOf_32]; exact hb), mxDequant_draw hm _ u]
  refine congrArg (fun e : Nat => (mxDequant fmt _ sat u (e % 256) (e / 256)).1 % 2 ^ 32) he |>.trans ?_
  dsimp only
  rw [Nat.add_mul_mod_self_left, Nat.mod_eq_of_lt hlt, Nat.add_mul_div_left _ _ (by decide), Nat.div_eq_of_lt hlt, Nat.zero_add]

end

/-- Settles O31. -/
theorem vectorConversionResults : Obligations.VectorConversionResults := by
  unfold Obligations.VectorConversionResults
  intro s g rnd sat vd va vb
  exact ⟨vcvt_result, vpack_result, vunpk_result, vquant_elements, vquant_scales, vdeq_result⟩

end Sys2Proof.Machine
end

section
/-! PROOFS. Sample words (R21 to R25, O58). -/

namespace Sys2Proof.Machine

/-- Opcode 0x00 of no class stands for an instruction. -/
theorem decodeSyllable_opcode_zero (c : BitVec 2) : decodeSyllable (1#1 ++ c ++ 0#61) = .error .opcode := by
  have hc : ∀ c : BitVec 2, c = 0 ∨ c = 1 ∨ c = 2 ∨ c = 3 := by decide
  have hw : (1#1 ++ c ++ 0#61 : BitVec 64) = 0x8000000000000000 + BitVec.ofNat 64 (c.toNat * 2 ^ 61) := by
    revert c
    decide
  rw [hw]
  obtain rfl | rfl | rfl | rfl := hc c
  all_goals rfl

/-- `li` with an immediate of all ones. -/
theorem decodeSyllable_li : decodeSyllable (0x8000000000000000 + 0x24 * 2 ^ 53 + 1 * 2 ^ 43 + 2 ^ 32 + 0xFFFFFFFF) =
    .ok (.li { p := 0, neg := false } 1 0xFFFFFFFF) := by
  have h : (0x8000000000000000 + 0x24 * 2 ^ 53 + 1 * 2 ^ 43 + 2 ^ 32 + 0xFFFFFFFF : BitVec 64) = BitVec.ofNat 64 0x84800801FFFFFFFF := by
    decide
  rw [h]
  rfl

/-- Settles O58: each word is decoded. -/
theorem sampleWordsDecode : Obligations.SampleWordsDecode := by
  exact ⟨rfl, rfl, rfl, rfl, decodeSyllable_li, rfl, rfl, rfl, decodeSyllable_opcode_zero, rfl, rfl, rfl, rfl, rfl, rfl, rfl, rfl⟩

end Sys2Proof.Machine
end

section
/-! PROOFS. The part after a device reset (R232 to R235, O54). -/

namespace Sys2Proof.Machine

theorem vAt_replicate {α : Type} [Inhabited α] {n i : Nat} (a : α) (h : i < n) : vAt (Vector.replicate n a) i = a := by
  simp [vAt, h]

theorem strand_reset (n : Nat) : State.reset.strand n = Strand.reset := rfl

theorem core_reset (c : Nat) : State.reset.core c = Core.reset := rfl

theorem g_reset (r : GReg) : Strand.reset.g r = { val := 0, poison := false } := by
  unfold Strand.g
  split
  · rfl
  · exact vAt_replicate _ r.isLt

/-- Without a rotation a predicate's name is its register (R96). -/
theorem mapP_zero (p : PRegNo) : mapP 0 p.toNat = p.toNat := by
  unfold mapP
  split
  · next h =>
    obtain ⟨h1, h2⟩ : 8 ≤ p.toNat ∧ p.toNat ≤ 15 := by simpa using h
    have h3 : 8 + (p.toNat - 8 + 16 - 0) % 8 = p.toNat := by omega
    exact h3
  · rfl

theorem vAt_predicates {p : PRegNo} (hp : p ≠ 0) : vAt Strand.reset.r.p (mapP Strand.reset.sys.rot p.toNat) = { val := 0, poison := false } := by
  have h0 : ¬ 0 = p.toNat := fun h => hp (BitVec.eq_of_toNat_eq h.symm)
  refine (congrArg _ (mapP_zero p)).trans ?_
  have h16 : p.toNat < 16 := p.isLt
  simp [vAt, Strand.reset, Regs.reset, h0, h16]

theorem p_reset : ∀ p : PRegNo, Strand.reset.p p = { val := if p = 0 then BitVec.allOnes 1024 else 0, poison := false } := by
  intro p
  unfold Strand.p
  by_cases hp : p = 0
  · rw [if_pos hp, if_pos hp]
  · rw [if_neg hp, if_neg hp]
    exact vAt_predicates hp

theorem bankOff_reset : ∀ i < 32, Strand.reset.bankOff i = true := by
  decide

/-- A system register that reads 0 after reset. -/
theorem sysRead_reset_zero (n : Nat) : ∀ r ∈ [0x001, 0x002, 0x003, 0x004, 0x005, 0x007, 0x008, 0x009, 0x00A, 0x00B, 0x00C, 0x00D,
  0x010, 0x020, 0x021, 0x022,
    0x023, 0x024, 0x025, 0x026, 0x027, 0x028, 0x031, 0x032], State.reset.sysRead n r = 0 := by
  simp only [List.forall_mem_cons, List.not_mem_nil, false_imp_iff, implies_true, and_true]
  refine ⟨?_, ?_, ?_, ?_, ?_, ?_, ?_, ?_, ?_, ?_, ?_, ?_, ?_, ?_, ?_, ?_, ?_, ?_, ?_, ?_, ?_, ?_, ?_, ?_⟩
  case refine_13 => exact congrArg (BitVec.ofNat 64) (Nat.zero_div 2)
  all_goals rfl

theorem sysRead_reset_idle (n : Nat) : (State.reset.sysRead n 0x00E).extractLsb' 16 16 = 256 := by
  change (BitVec.ofNat 64 (Strand.reset.r.live.toNat * 2 ^ 32 + Strand.reset.sys.idle.toNat * 2 ^ 16 +
    codes (Strand.reset.r.banks.toList.map (fun b => b.st)))).extractLsb' 16 16 = 256
  decide

/-- Settles O54. -/
theorem resetState : Obligations.ResetState := by
  refine ⟨⟨rfl, rfl, rfl, rfl⟩, rfl, rfl, rfl, rfl, fun n => ?_, fun u => ⟨rfl, rfl, fun _ => rfl, fun _ => rfl⟩, rfl, rfl⟩
  rw [strand_reset]
  refine ⟨rfl, rfl, rfl, rfl, rfl, rfl, rfl, rfl, g_reset, p_reset, fun i hi => ⟨?_, bankOff_reset i hi⟩, fun i hi => ?_,
    fun k hk => ?_, rfl, rfl,
    sysRead_reset_idle n, rfl, sysRead_reset_zero n⟩
  · exact BitVec.getLsbD_zero
  · exact congrArg Tile.written (vAt_replicate _ hi)
  · exact ⟨vAt_replicate _ hk, (vAt_replicate _ hk).trans (vAt_replicate _ hk).symm⟩

end Sys2Proof.Machine
end

section
/-! PROOFS. A step runs the decoded instruction (R13 to R18, O57). -/

namespace Sys2Proof.Machine

/-! A move of the plan. -/

section Moves
variable {s s0 : State} (hu : s0.t.tripped = none)
include hu

theorem step_of_event {i : Instr} (hm : nextMove s = (.event i, s0)) (hi : isEvent i = true) : step s = exec i s0 := by
  rw [step, hm, makeMove, if_neg (by rw [hu]; exact Bool.false_ne_true)]
  exact if_pos hi

theorem step_of_nmu {u : Nat} (hm : nextMove s = (.nmu u, s0)) (hlt : u < numNmus) : step s = stepNmu u s0 := by
  rw [step, hm, makeMove, if_neg (by rw [hu]; exact Bool.false_ne_true)]
  exact if_pos hlt

theorem step_of_strand {n : Nat} (hm : nextMove s = (.strand n, s0)) (hlt : n < numStrands) : step s = stepStrand n s0 := by
  rw [step, hm, makeMove, if_neg (by rw [hu]; exact Bool.false_ne_true)]
  exact if_pos hlt

end Moves

theorem stepNmu_running {s : State} {u : Nat} {i : Instr} {ws : List (BitVec 16)} (hr : (s.nmu u).run.isSome = true)
    (hd : decodeNm (s.nmu u).nextWords = some (i, ws)) : stepNmu u s = exec i { s with unit := u } := by
  have hn : ¬ (({ s with unit := u } : State).nmu u).run.isNone = true := by
    rw [← Option.not_isSome, show (({ s with unit := u } : State).nmu u).run.isSome = true from hr]
    exact Bool.false_ne_true
  rw [stepNmu, if_neg hn, show decodeNm (({ s with unit := u } : State).nmu u).nextWords = _ from hd]

/-- A strand that runs, with no trap due and no delay to wait out, issues its bundle. -/
theorem stepStrand_running {s : State} {n : Nat} (hp : (s.strand n).phase = .running) (he : (prelude n s).me.entering = false)
    (hb : boundary (prelude n s) = none) (hc : (prelude n s).me.readyAt ≤ (prelude n s).me.clock) : stepStrand n s = issueBundle (prelude n s) := by
  rw [stepStrand, if_neg (by rw [hp]; exact Bool.false_ne_true)]
  dsimp only
  rw [if_neg (by rw [he]; exact Bool.false_ne_true), hb]
  exact if_neg (Nat.not_lt.mpr hc)

/-! A bundle. -/

/-- No syllable of a bundle that decodes, in its privilege state, has a static fault, and the bundle's instructions are those decoded. -/
theorem staticFault_none {t : Strand} {w : Word} {i : Instr} (hd : decodeSyllable w = .ok i) (hp : needsPriv i = true → t.sys.priv = true) :
    staticFault t w = none := by
  rw [staticFault, hd]
  refine if_neg fun h => ?_
  obtain ⟨h1, h2⟩ := Bool.and_eq_true_iff.mp h
  rw [hp h1] at h2
  cases h2

theorem findSome_staticFault {t : Strand} {ws : List Word} {is : List Instr} (hd : ws.map decodeSyllable = is.map Except.ok)
    (hp : ∀ i ∈ is, needsPriv i = true → t.sys.priv = true) : ws.findSome? (fun w => staticFault t w) = none := by
  refine List.findSome?_eq_none_iff.mpr fun w hw => ?_
  have hm : decodeSyllable w ∈ is.map Except.ok := by
    rw [← hd]
    exact List.mem_map_of_mem hw
  obtain ⟨i, hi, h⟩ := List.mem_map.mp hm
  exact staticFault_none h.symm (hp i hi)

theorem decoded_eq {ws : List Word} {is : List Instr} (hd : ws.map decodeSyllable = is.map Except.ok) : decoded ws = is := by
  induction ws generalizing is with
  | nil => rw [(List.map_eq_nil_iff.mp hd.symm)]; rfl
  | cons w ws ih =>
    cases is with
    | nil => cases hd
    | cons i is =>
      obtain ⟨h, ht⟩ := List.cons.inj hd
      rw [decoded, List.filterMap_cons, h]
      exact congrArg (i :: ·) (ih ht)

/-! A single syllable. -/

theorem fetchFrom_ne_nil (s : State) (n : Nat) (pc a : Word) (k : Nat) : s.fetchFrom n pc (k + 1) a ≠ .ok [] := by
  rw [State.fetchFrom]
  split
  · exact nofun
  · split
    · exact nofun
    · exact nofun
  · split
    · exact nofun
    · split
      · exact nofun
      · next h => exact fun hr => h _ hr

/-- The fetch of a single syllable ended at it. -/
theorem syllEnd_of_fetchFrom {s : State} {n : Nat} {pc a : Word} {k : Nat} {w : Word} (h : s.fetchFrom n pc (k + 2) a = .ok [w]) : syllEnd w = true := by
  rw [State.fetchFrom] at h
  split at h
  · cases h
  · split at h
    · cases h
    · cases h
  · split at h
    · next he =>
      obtain rfl := (List.cons.inj (Fetched.ok.inj h)).1
      exact he
    · split at h
      · next ws hw =>
        obtain ⟨-, rfl⟩ := List.cons.inj (Fetched.ok.inj h)
        exact absurd hw (fetchFrom_ne_nil _ _ _ _ _)
      · next hw => exact absurd h (hw _)

theorem framed_of_fetch {s : State} {n : Nat} {w : Word} (h : s.fetch n = .ok [w]) : framed [w] = true := by
  rw [State.fetch] at h
  split at h
  · next ws hw =>
    dsimp only at h
    split at h
    · cases h
    · cases h
    · obtain rfl := Fetched.ok.inj h
      exact syllEnd_of_fetchFrom hw
  · next hw => exact absurd h (hw _)

/-! The next bundle of the acting strand, as fetched. -/

section Fetched
variable {u : State} {n : Nat} (hn : u.cur = n)
include hn

theorem noteFetch_me (k : Nat) : (u.noteFetch n k).me = u.me := by
  subst hn
  rfl

theorem issueBundle_ok {ws : List Word} {is : List Instr} (hf : u.fetch n = .ok ws) (hfr : framed ws = true) (hc : conflicts u.me ws = false)
    (hd : ws.map decodeSyllable = is.map Except.ok) (hp : ∀ i ∈ is, needsPriv i = true → u.me.sys.priv = true) :
    issueBundle u = runBundle (u.noteFetch n ws.length) is := by
  rw [issueBundle, hn, hf]
  dsimp only
  rw [noteFetch_me hn, if_neg (by rw [hfr, hc]; exact Bool.false_ne_true), findSome_staticFault hd hp, decoded_eq hd]

theorem issueBundle_miss {row : Nat} (hf : u.fetch n = .miss row) : issueBundle u = .next (held u) := by
  rw [issueBundle, hn, hf]

theorem issueBundle_fault {c : BitVec 8} {va : Word} (hf : u.fetch n = .fault c va) :
    issueBundle u = .next (trapped (u.reported n) { cause := c, tva := va }) := by
  rw [issueBundle, hn, hf]

theorem issueBundle_illegal {ws : List Word} (hf : u.fetch n = .ok ws) (h : framed ws = false ∨ conflicts u.me ws = true) :
    issueBundle u = .next (trapped (u.noteFetch n ws.length) { cause := 0x02 }) := by
  rw [issueBundle, hn, hf]
  dsimp only
  rw [noteFetch_me hn, if_pos]
  rcases h with h | h
  · rw [h]; rfl
  · rw [h, Bool.or_true]

theorem issueBundle_static {w : Word} {c : BitVec 8} (hf : u.fetch n = .ok [w])
    (hs : staticFault u.me w = some c) : issueBundle u = .next (trapped (u.noteFetch n 1) { cause := c }) := by
  rw [issueBundle, hn, hf]
  dsimp only
  rw [noteFetch_me hn, if_neg (by rw [framed_of_fetch hf]; exact Bool.false_ne_true), List.findSome?_cons, hs]
  rfl

end Fetched

/-- A strand's next bundle, with what its fetch finds. -/
theorem strand_step {s s0 : State} (hu : s0.t.tripped = none) {n : Nat} (hm : nextMove s = (.strand n, s0)) (hlt : n < numStrands)
    (hp : (s0.strand n).phase = .running) (he : (prelude n s0).me.entering = false) (hb : boundary (prelude n s0) = none)
    (hc : (prelude n s0).me.readyAt ≤ (prelude n s0).me.clock) : step s = issueBundle (prelude n s0) :=
  (step_of_strand hu hm hlt).trans (stepStrand_running hp he hb hc)

/-- Two syllables each of which can issue: the second follows the first. -/
theorem runBundle_pair {s u v r : State} {i j : Instr} (hi : isWfe i = false) (hj : isWfe j = false) (h1 : exec i (prepare s 2 true) = .next u)
    (hu : u.me.iss = .issued) (h2 : exec j (prepare s 2 true) = .next v) (hv : v.me.iss = .issued)
    (h3 : exec j ((u.setMe { u.me with iss := .none }).setMe { (u.setMe { u.me with iss := .none }).me with more := false, iss := .none }) = .next r)
    (hr : r.me.iss = .issued) : runBundle s [i, j] = .next r := by
  have hne : ([j] : List Instr) = [] → False := List.cons_ne_nil j []
  have hstop : stopper (prepare s 2 true) [i, j] = none := by
    rw [stopper]
    simp [hi, hj, probe, h1, h2, hu, hv]
  have hall : runAll (prepare s 2 true) [i, j] = .next r := by
    rw [runAll, h1]
    · exact (if_pos (beq_iff_eq.mpr hu)).trans h3
    · exact hne
  rw [runBundle]
  · dsimp only [List.length_cons, List.length_nil]
    rw [hstop]
    dsimp only
    rw [hall]
    exact if_pos (beq_iff_eq.mpr hr)
  · exact fun k h => hne (List.cons.inj h).2

/-- The syllable at an address of the code. -/
theorem fetchOne_loaded {s : State} {n : Nat} {k : Kernel} {r : Row} {a : Word} (hk : s.kernel (s.strand n).kernel = some k) (hd : winOf a = .d)
    (hlo : k.codeBase.toNat ≤ a.toNat) (hhi : a.toNat + 8 ≤ k.codeBase.toNat + k.codeLen)
    (hr : s.rowOf n ((a.toNat - k.codeBase.toNat) / 4096) = some r) (hf : r.fault = []) :
    s.fetchOne n a = .ok (BitVec.ofNat 64 (readNat r.code ((a.toNat - k.codeBase.toNat) % 4096) 8)) := by
  have hc : s.codeRange n = (k.codeBase.toNat, k.codeLen) := by
    rw [State.codeRange, hk]
  rw [State.fetchOne, hc, if_neg (by rw [hd]; exact Bool.false_ne_true), if_neg (by simpa using ⟨hlo, hhi⟩), hr]
  dsimp only
  rw [Row.loading, hf]
  rfl

/-- Settles O57. -/
theorem stepRunsDecoded : Obligations.StepRunsDecoded := by
  refine ⟨fun s m ms h => by rw [nextMove, h], fun s s0 _ hu => ⟨?_, ?_, fun i hm hi => step_of_event hu hm hi⟩, fun s i => rfl, ?_, ?_⟩
  · intro n hm hlt hp u he hb hc
    have hstep : step s = issueBundle u := strand_step hu hm hlt hp he hb hc
    rw [hstep]
    refine ⟨fun ws is hf hfr hcf hd hpr => issueBundle_ok rfl hf hfr hcf hd hpr, fun row hf => issueBundle_miss rfl hf,
      fun c va hf => issueBundle_fault rfl hf, fun ws hf h => issueBundle_illegal rfl hf h, fun w hf => ⟨fun hd => ?_, fun hd => ?_⟩⟩
    · exact issueBundle_static rfl hf (by rw [staticFault, hd])
    · exact issueBundle_static rfl hf (by rw [staticFault, hd])
  · intro u i ws hm hlt hr hd
    rw [step_of_nmu hu hm hlt, stepNmu_running hr hd]
  · intro s u v i j r hi hj s0 h1 h2 h3 h4 x h5 h6
    exact runBundle_pair hi hj h1 h2 h3 h4 h5 h6
  · intro s n k r a hk hd hlo hhi o hr hf
    exact fetchOne_loaded hk hd hlo hhi hr hf

end Sys2Proof.Machine
end

section
/-! PROOFS. Scalar loads and stores (R90, R91, R189, R203): one rule for each step from the checks to the requests sent. -/

namespace Sys2Proof.Machine

theorem gp_false {s : State} {g : Guard} (h : gp s g = false) : (s.me.p g.p).poison = false := h

/-! The checks. -/

section Checks
variable {s s1 : State} {p : Perm} {al n : Nat} {a : Word} {gs : List Seg}

theorem checked_ok (h : s.check p al a n = (s1, .ok gs)) (k : State → List Seg → Res) : checked (s.check p al a n) k = k s1 gs := by
  rw [h]
  rfl

/-- The checks look: the acting strand is the same after them. -/
theorem looks_check (h : s.check p al a n = (s1, .ok gs)) : Looks s s1 := by
  have hl : Looks s (s.check p al a n).1 := looks_resolve s _ _ _ _ _ _ _ _
  rw [h] at hl
  exact hl

theorem object_ok {x : Seg} (h : s.check p n a n = (s1, .ok (x :: gs))) (k : State → Seg → Res) : object s p a n k = k s1 x :=
  checked_ok h _

end Checks

/-! Requests that find places (R322). -/

section Places
variable {s : State} {gs : List Seg} {mk : Req → Req}

theorem sendLoad_ok {d : Dst} {v : FVal} {form : LandForm} (h : s.room (.strand s.cur) (loadReqs s gs mk) = true) :
    sendLoad s gs d v form mk = .ok (loadSent s gs d v form mk) :=
  if_neg (by rw [Bool.not_eq_true']; exact fun hf => Bool.false_ne_true (hf.symm.trans h))

/-- The whole bytes of a store, in its requests. -/
theorem storeReqs_whole (bs : List Byte) (g : Seg) :
    ReqOp.store ((((whole bs).drop g.off).take g.len).map (fun b => b.1)) ((((whole bs).drop g.off).take g.len).map (fun b => b.2)) =
      .store ((bs.drop g.off).take g.len) (((bs.drop g.off).take g.len).map (fun _ => 0)) := by
  rw [whole, ← List.map_drop, ← List.map_take, List.map_map, List.map_map]
  exact congrArg (fun l => ReqOp.store l _) (List.map_id _)

theorem sendStore_ok {bs : List Byte} (h : s.room (.strand s.cur) (storesOf s gs bs mk) = true) :
    sendStore s gs (whole bs) mk = .ok ((s.wakeSegs gs).sendAll (storesOf s gs bs mk)) := by
  have hrs : gs.map (fun g =>
      let l := ((whole bs).drop g.off).take g.len
      mk (mkReq (.strand s.cur) (.store (l.map (fun b => b.1)) (l.map (fun b => b.2))) g s.me.sys.asid 0)) = storesOf s gs bs mk :=
    List.map_congr_left fun g _ => by
      dsimp only
      rw [storeReqs_whole]
  rw [sendStore, hrs]
  exact if_neg (by simp [h])

end Places

/-! Loads. -/

section Loads
variable {s s1 : State} {gd : GReg} {a : Word} {w al : Nat} {sx poison acq : Bool} {sc : Scope} {gs : List Seg}

/-- A load that goes by requests: an acquire always, another where its way is queued. -/
theorem scalarLoad_queued (h : s.check { r := true } al a w = (s1,
  .ok gs)) (hw : acq = true ∨ s1.wayL s1.cur (winOf a == .l) gs = .queued)
    (hr : s1.room (.strand s.cur) (loadReqs s1 (cutAll 8 gs) (fun r => { r with acq := acq, scope := sc })) = true) :
    scalarLoad s gd a w sx al poison acq sc = .ok (loadSent s1 (cutAll 8 gs) (.g gd.toNat) (.s { val := 0, poison := poison }) (.scalar w sx)
      (fun r => { r with acq := acq, scope := sc })) := by
  have hway : (if acq then LWay.queued else s1.wayL s1.cur (winOf a == .l) gs) = .queued := by
    cases acq with
    | true => rfl
    | false => exact hw.resolve_left Bool.false_ne_true
  rw [scalarLoad, checked_ok h]
  dsimp only
  rw [hway]
  exact sendLoad_ok (by rw [(looks_check h).cur]; exact hr)

theorem scalarLoad_hold (h : s.check { r := true } al a w = (s1, .ok gs)) (hw : s1.wayL s1.cur (winOf a == .l) gs = .hold) :
    scalarLoad s gd a w sx al poison false sc = .hold s1 := by
  rw [scalarLoad, checked_ok h]
  dsimp only
  rw [if_neg Bool.false_ne_true, hw]

/-- The flight of a load that reads at issue, its bytes come. -/
def fixedFlight (t : Strand) (gd : GReg) (raw : Mem) (bad : List Nat) (poison : Bool) (w : Nat) (sx : Bool) : Flight :=
  Flight.finish { tag := t.newTag, bundle := t.bundle, dst := .g gd.toNat, val := .s { val := 0, poison := poison }, flags := 0,
                  due := t.clock + t.cyc 8, last := 0, fixed := true, need := 0, raw := raw, rawPoison := bad, form := .scalar w sx,
                  hint := [] }

theorem scalarLoad_fixed (h : s.check { r := true } al a w = (s1, .ok gs)) (hw : s1.wayL s1.cur (winOf a == .l) gs = .fixed) :
    scalarLoad s gd a w sx al poison false sc =
      let r := s1.peekAll s1.cur gs
      .ok (s1.setMe { s1.me with flights := s1.me.flights ++ [fixedFlight s1.me gd r.1 r.2 poison w sx] }) := by
  rw [scalarLoad, checked_ok h]
  dsimp only
  rw [if_neg Bool.false_ne_true, hw]
  rfl

theorem execLd_ready {g : Guard} {o : SBin} {wd : Wd} (h : Ready s g (.g o.gd.toNat :: .g o.ga.toNat :: srcBReg o.b))
    (ha : (s.me.g o.ga).poison = false) (hb : (s.me.srcB o.b).poison = false) :
    exec (.ld g o wd sx) s = finish (scalarLoad s o.gd ((s.me.g o.ga).val + (s.me.srcB o.b).val) (wdBytes wd) sx 1 (gp s g) false .sd) := by
  refine (exec_of_ready (by unfold exec; rfl) (.inl rfl) (by exact h)).trans (congrArg finish (if_neg ?_))
  rw [ha, hb]
  exact Bool.false_ne_true

theorem execLdacq_ready {g : Guard} {gd ga : GReg} {off : BitVec 14} {wd : Wd} (h : Ready s g [.g gd.toNat, .g ga.toNat])
    (ha : (s.me.g ga).poison = false) :
    exec (.ldacq g sc gd ga off wd sx) s =
      finish (scalarLoad s gd ((s.me.g ga).val + off.signExtend 64) (wdBytes wd) sx (wdBytes wd) (gp s g) true sc) := by
  refine (exec_of_ready (by unfold exec; rfl) (.inl rfl) (by exact h)).trans (congrArg finish (if_neg ?_))
  rw [ha]
  exact Bool.false_ne_true

end Loads

/-- Settles O19: the load goes the way that its bytes and the strand's own accesses leave. -/
theorem loadForms : Obligations.LoadForms := by
  intro s s1 g gs w sx n
  refine ⟨fun o h ha hb hc => ?_, fun sc gd ga off h ha hc hr => ?_⟩
  · have hx := execLd_ready (sx := sx) (wd := w) h ha hb
    refine ⟨fun hw => ?_, fun hw => ?_, fun hw hr => ?_⟩
    · exact ⟨_, hx.trans (congrArg finish (scalarLoad_fixed hc hw)), rfl, rfl, congrArg (s1.me.clock + ·) rfl, rfl, rfl, rfl⟩
    · exact hx.trans (congrArg finish (scalarLoad_hold hc hw))
    · exact hx.trans (congrArg finish (scalarLoad_queued hc (.inr hw) hr))
  · exact (execLdacq_ready h ha).trans (congrArg finish (scalarLoad_queued hc (.inl rfl) hr))

/-! The four memories: what is on its way changes none. -/

def State.mems (s : State) : Mem × Mem × Mem × Mem := (s.dram, s.chip, s.host, s.peer)

theorem sameMems_iff {s t : State} : t.mems = s.mems ↔ t.dram = s.dram ∧ t.chip = s.chip ∧ t.host = s.host ∧ t.peer = s.peer := by
  simp [State.mems]

theorem mems_foldl {α : Type} {f : State → α → State} (h : ∀ s a,
  (f s a).mems = s.mems) (s : State) (xs : List α) : (xs.foldl f s).mems = s.mems := by
  induction xs generalizing s with
  | nil => rfl
  | cons x xs ih => exact (ih _).trans (h s x)

theorem mems_chipWake (s : State) (pa : Nat) : (s.chipWake pa).mems = s.mems := by
  unfold State.chipWake State.wakeSp
  split
  · dsimp only
    split <;> rfl
  · rfl

theorem mems_wakeSegs (s : State) (gs : List Seg) : (s.wakeSegs gs).mems = s.mems := by
  refine mems_foldl (fun s g => ?_) s gs
  split
  · exact mems_chipWake s _
  · rfl

theorem mems_sendAll (s : State) (rs : List Req) : (s.sendAll rs).mems = s.mems := mems_foldl (f := State.send) (fun _ _ => rfl) s rs

/-! Stores. -/

theorem scalarStore_ok {s s1 : State} {v a : Word} {w al : Nat} {rel : Bool} {sc : Scope} {gs : List Seg}
    (h : s.check { w := true } al a w = (s1, .ok gs))
    (hr : s1.room (.strand s.cur) (storesOf s1 (cutAll 8 gs) (toBytes w v.toNat) (fun r => { r with rel := rel, scope := sc })) = true) :
    scalarStore s v a w al rel sc =
      .ok ((s1.wakeSegs (cutAll 8 gs)).sendAll (storesOf s1 (cutAll 8 gs) (toBytes w v.toNat) (fun r => { r with rel := rel, scope := sc }))) := by
  rw [scalarStore, checked_ok h]
  exact sendStore_ok (by rw [(looks_check h).cur]; exact hr)

/-- Settles O20. -/
theorem storeForms : Obligations.StoreForms := by
  intro s s1 g gs w n
  refine ⟨fun o h ha hb hd hg hc hr => ?_, fun sc gd ga off h ha hd hg hc hr => ?_, fun rs a => ?_⟩
  · refine issuesAt_of_ready (by unfold exec; rfl) (by exact h) ?_
    rw [if_neg (by simp [ha, hb]), if_neg (by simp [hd, gp_false hg])]
    exact scalarStore_ok hc hr
  · refine issuesAt_of_ready (by unfold exec; rfl) (by exact h) ?_
    rw [if_neg (by simp [ha]), if_neg (by simp [hd, gp_false hg])]
    exact scalarStore_ok hc hr
  · obtain ⟨hd, hc, hh, hp⟩ := sameMems_iff.mp ((mems_sendAll _ rs).trans (mems_wakeSegs s1 (cutAll 8 gs)))
    exact ⟨by rw [hd], by rw [hc], by rw [hh], by rw [hp]⟩

end Sys2Proof.Machine
end

section
/-! PROOFS. Atomics, reductions, semaphores and order (R193 to R202). -/

namespace Sys2Proof.Machine

theorem sendOne_ok {s : State} {r : Req} (f : Option (Dst × FVal × LandForm)) (h : s.room (.strand s.cur) [r] = true) :
    sendOne s r f = .ok (oneSent s r f) := by
  refine (if_neg (by simp [h])).trans ?_
  cases f <;> rfl

/-! Atomics. -/

theorem ordAcq_eq (o : AOrd) : ordAcq o = (o == .acq || o == .ar) := by cases o <;> rfl

theorem ordRel_eq (o : AOrd) : ordRel o = (o == .rel || o == .ar) := by cases o <;> rfl

/-- The request of an atomic. -/
def atomReq (s : State) (op : AtomOp) (x : Seg) (b c : BitVec 128) (sc : Scope) (ord : AOrd) (ret merges : Bool) : Req :=
  { mkReq (.strand s.cur) (.atom op b c ret) x s.me.sys.asid 0 with
      scope := sc, acq := ord == .acq || ord == .ar, rel := ord == .rel || ord == .ar, mergeable := !ret && ord == .rlx && merges }

section Atomics
variable {s s1 : State} {x : Seg} {gs : List Seg}

theorem atomic_ok {op : AtomOp} {a : Word} {n : Nat} {b c : BitVec 128} {sc : Scope} {ord : AOrd} {f : Option (Dst × FVal × LandForm)}
    (h : s.check { a := true } n a n = (s1, .ok (x :: gs)))
    (hr : s1.room (.strand s1.cur) [atomReq s1 op x b c sc ord f.isSome op.merges] = true) :
    atomic s op a n b c sc ord f = .ok (oneSent s1 (atomReq s1 op x b c sc ord f.isSome op.merges) f) := by
  have hreq : { mkReq (.strand s1.cur) (.atom op b c f.isSome) x s1.me.sys.asid 0 with
      scope := sc, acq := ordAcq ord, rel := ordRel ord, mergeable := f.isNone && ord == .rlx && op.merges } =
      atomReq s1 op x b c sc ord f.isSome op.merges := by
    rw [ordAcq_eq, ordRel_eq, ← Option.not_isSome]
    rfl
  rw [atomic, object_ok h]
  exact (congrArg (sendOne s1 · f) hreq).trans (sendOne_ok f hr)

/-- Where the old value goes: nowhere where the result register is g0. -/
def oldTo (o : AForm) : Option (Dst × FVal × LandForm) :=
  if o.gd = 0 then none else some (.g o.gd.toNat, .s { val := 0, poison := false }, .scalar (if o.d then 8 else 4) false)

theorem oldTo_isSome (o : AForm) : (oldTo o).isSome = (o.gd != 0) := by
  unfold oldTo
  by_cases h : o.gd = 0
  · rw [if_pos h, h]
    rfl
  · rw [if_neg h, bne_iff_ne.mpr h]
    rfl

/-- The low bytes of a register that an atomic takes. -/
def lowBytes (t : Strand) (o : AForm) (r : GReg) : BitVec 128 := BitVec.ofNat 128 ((t.g r).val.toNat % 2 ^ (8 * if o.d then 8 else 4))

theorem mergeable_eq (o : AForm) (m : Bool) : (!(o.gd != 0) && o.ord == .rlx && m) = (o.gd == 0 && o.ord == .rlx && m) := by
  rw [bne, Bool.not_not]

variable {g : Guard} {o : AForm} {i : Instr} {op : AtomOp} (ha : (s.me.g o.ga).poison = false) (hb : (s.me.g o.gb).poison = false)
  (hg : gp s g = false) (hc : s.check { a := true } (if o.d then 8 else 4) (s.me.g o.ga).val (if o.d then 8 else 4) = (s1, .ok (x :: gs)))
include ha hb hg hc

/-- An atomic without a compare value issues. -/
theorem issuesAt_of_atomicForm (hi : exec i s = atomicForm s g op o none) (h : Ready s g [.g o.gd.toNat, .g o.ga.toNat, .g o.gb.toNat])
    (hr : s1.room (.strand s1.cur) [atomReq s1 op x (lowBytes s.me o o.gb) 0 o.scope o.ord (o.gd != 0) op.merges] = true) :
    IssuesAt i s (oneSent s1 (atomReq s1 op x (lowBytes s.me o o.gb) 0 o.scope o.ord (o.gd != 0) op.merges) (oldTo o)) := by
  refine issuesAt_of_ready (hi.trans rfl) (by exact h) ?_
  rw [← oldTo_isSome] at hr ⊢
  rw [if_neg (by simp [ha]), if_neg (by simp [hb, gp_false hg])]
  exact atomic_ok hc hr

theorem issuesAt_acas {gc : GReg} (h : Ready s g [.g o.gd.toNat, .g o.ga.toNat, .g o.gb.toNat,
  .g gc.toNat]) (hgc : (s.me.g gc).poison = false)
    (hr : s1.room (.strand s1.cur) [atomReq s1 .cas x (lowBytes s.me o o.gb) (lowBytes s.me o gc) o.scope o.ord (o.gd != 0) false] = true) :
    IssuesAt (.acas g o gc) s
      (oneSent s1 (atomReq s1 .cas x (lowBytes s.me o o.gb) (lowBytes s.me o gc) o.scope o.ord (o.gd != 0) false) (oldTo o)) := by
  have hi : exec (.acas g o gc) s = atomicForm s g .cas o (some gc) := by
    unfold exec
    rfl
  refine issuesAt_of_ready (hi.trans rfl) (by exact h) ?_
  rw [← oldTo_isSome] at hr ⊢
  rw [if_neg (by simp [ha]),
    if_neg (by simp [hb, hgc, gp_false hg])]
  exact atomic_ok (op := .cas) hc hr

end Atomics

/-- A double compare-and-swap issues. -/
theorem issuesAt_acas2 {s s1 : State} {g : Guard} {x : Seg} {gs : List Seg} {gd ga gb gc : GReg} {sc : Scope} {ord : AOrd}
    (h : Ready s g [.gpair gd.toNat, .g ga.toNat, .gpair gb.toNat, .gpair gc.toNat]) (hp : ∀ r ∈ [ga, gb, gb + 1, gc, gc + 1],
    (s.me.g r).poison = false)
    (hg : gp s g = false) (hc : s.check { a := true } 16 (s.me.g ga).val 16 = (s1, .ok (x :: gs)))
    (hr : s1.room (.strand s1.cur) [atomReq s1 .cas x ((s.me.g (gb + 1)).val ++ (s.me.g gb).val) ((s.me.g (gc + 1)).val ++ (s.me.g gc).val) sc ord
      true false] = true) :
    IssuesAt (.acas2 g gd ga gb gc sc ord) s
      (oneSent s1 (atomReq s1 .cas x ((s.me.g (gb + 1)).val ++ (s.me.g gb).val) ((s.me.g (gc + 1)).val ++ (s.me.g gc).val) sc ord true false)
        (some (.gpair gd.toNat, .v ⟨0, 0⟩ 0, .pair))) := by
  simp only [List.forall_mem_cons, List.not_mem_nil, false_imp_iff, implies_true, and_true] at hp
  obtain ⟨ha, hb, hb1, hc0, hc1⟩ := hp
  refine issuesAt_of_ready (by unfold exec; rfl) (by exact h) ?_
  dsimp only
  rw [if_neg (by simp [ha]),
    if_neg (by rw [hb, hb1, hc0, hc1, gp_false hg]; exact Bool.false_ne_true)]
  exact atomic_ok (op := .cas) hc hr

/-- Settles O21. -/
theorem atomicForms : Obligations.AtomicForms := by
  intro s s1 g x gs
  refine ⟨fun o gc ha hb hg hc => ?_, fun gd ga gb gc sc ord h hp hg hc hr => issuesAt_acas2 h hp hg hc hr⟩
  have sends : ∀ {i : Instr} {op : AtomOp}, exec i s = atomicForm s g op o none → Ready s g [.g o.gd.toNat, .g o.ga.toNat,
    .g o.gb.toNat] →
      s1.room (.strand s1.cur) [atomReq s1 op x (lowBytes s.me o o.gb) 0 o.scope o.ord (o.gd != 0) op.merges] = true →
      IssuesAt i s (oneSent s1 (atomReq s1 op x (lowBytes s.me o o.gb) 0 o.scope o.ord (o.gd != 0) op.merges) (oldTo o)) :=
    fun hi h hr => issuesAt_of_atomicForm ha hb hg hc hi h hr
  simp only [atomReq, mergeable_eq] at sends
  refine ⟨fun h => ⟨?_, ?_, ?_, ?_, ?_, ?_, ?_, ?_, ?_, ?_⟩, fun h hgc hr => ?_⟩
  case refine_10 =>
    have hm : (if o.d then AtomOp.fadd64 else .fadd32).merges = true := by
      split <;> rfl
    have hx := sends (i := .afadd g o) (by unfold exec; rfl) h
    rw [hm] at hx
    exact hx
  case refine_11 =>
    have hx := issuesAt_acas ha hb hg hc h hgc
    simp only [atomReq, mergeable_eq] at hx
    exact hx hr
  all_goals exact sends (by unfold exec; rfl) h

/-! Reductions. -/

theorem handle_unit (w : Word) : wbits w 12 6 = w.toNat / 64 % 128 := rfl

theorem handle_acc (w : Word) : wbits w 5 0 = w.toNat % 64 := by
  show w.toNat / 1 % 64 = w.toNat % 64
  rw [Nat.div_one]

section Handles
variable {s : State} {g : Guard} {i : Instr} {r : GReg} {wr : Bool} {ds : Strand → List Dst} {k : Strand → Nat → Nat → Res}
  (hi : exec i s = syllable s false g ds (fun t => handle s (t.g r) wr (k t))) (h : Ready s g (ds s.me))
include hi h

/-- What stops a form on a handle. -/
theorem refused_of_handle :
    ((s.me.g r).poison = true → Traps i s { cause := 0x1A }) ∧
    ((s.me.g r).poison = false → 2 ^ 13 ≤ (s.me.g r).val.toNat → Traps i s { cause := 0x03 }) ∧
    ((s.me.g r).poison = false → (s.me.g r).val.toNat < 2 ^ 13 →
      s.nmuOk (coreOf s.cur) ((s.me.g r).val.toNat / 64 % 128) (if wr then 1 else 0) = false → Traps i s { cause := 0x40 }) := by
  refine ⟨fun hp => traps_of_ready hi h ?_, fun hp hb => traps_of_ready hi h ?_, fun hp hb hn => traps_of_ready hi h ?_⟩
  · exact if_pos hp
  · rw [handle, if_neg (by simp [hp])]
    exact if_pos hb
  · rw [handle, if_neg (by simp [hp]), if_neg (Nat.not_le.mpr hb)]
    exact if_pos (by rw [handle_unit, hn]; rfl)

theorem issuesAt_of_handle (hp : (s.me.g r).poison = false) (hb : (s.me.g r).val.toNat < 2 ^ 13)
    (hn : s.nmuOk (coreOf s.cur) ((s.me.g r).val.toNat / 64 % 128) (if wr then 1 else 0) = true) {u : State}
    (hk : k s.me ((s.me.g r).val.toNat / 64 % 128) ((s.me.g r).val.toNat % 64) = .ok u) : IssuesAt i s u := by
  refine issuesAt_of_ready hi h ?_
  rw [handle, if_neg (by simp [hp]), if_neg (Nat.not_le.mpr hb)]
  dsimp only
  rw [handle_unit, handle_acc]
  exact (if_neg (by simp [hn])).trans hk

end Handles

/-- What a `redx` of a scalar does behind its handle. -/
def redxScalar (s : State) (g : Guard) (gb : GReg) (ty : BitVec 2) (t : Strand) (u k : Nat) : Res :=
  if (t.g gb).poison || (t.p g.p).poison then trapIf s 0x19 0
  else
    let v := if ty == 0 then (t.g gb).val.setWidth 32 else ((t.g gb).val.setWidth 16).setWidth 32
    sendOne s (redReq s (.redx [(k, v, ty.toNat, false)]) u k) none

theorem exec_redx_scalar (s : State) (g : Guard) (ga gb : GReg) (ty : BitVec 2) : exec (.redx g ga (.scalar gb ty)) s =
    syllable s false g (fun _ => [.g ga.toNat, .g gb.toNat]) (fun t => handle s (t.g ga) true (redxScalar s g gb ty t)) := by
  unfold exec
  rfl

/-- What a `redx` of a register does behind its handle. -/
def redxVector (s : State) (g : Guard) (va : Opnd) (t : Strand) (u k : Nat) : Res :=
  match t.readSrcs [{ o := va, lu := false }] with
  | .hold x => .hold (s.setMe x)
  | .trap r => .trap s r
  | .ok bs x =>
    let b := bs.headD ⟨0, 0⟩
    let m := t.mask g
    if b.poison &&& m != 0 || (t.p g.p).poison then trapIf s 0x19 0
    else
      let xs := (activeElems 32 m).map (fun n => ((k + n % 64) % 64, BitVec.ofNat 32 (elem b.bits.toNat 32 n), 0, false))
      orHold s (sendOne (s.setMe x) (redReq s (.redx xs) u k) none)

theorem exec_redx_vector (s : State) (g : Guard) (ga : GReg) (va : Opnd) : exec (.redx g ga (.vector va)) s =
    syllable s false g (fun t => t.vRegs [va] ++ [.g ga.toNat]) (fun t => handle s (t.g ga) true (redxVector s g va t)) := by
  unfold exec
  rfl

section Reductions
variable {s : State} {g : Guard} {gd ga : GReg}

/-- The request of a form on the handle in ga. -/
def handleReq (s : State) (ga : GReg) (op : ReqOp) : Req :=
  mkReq (.strand s.cur) op { sp := .red ((s.me.g ga).val.toNat / 64 % 128), pa := (s.me.g ga).val.toNat % 64, len := 1, va := 0, off := 0 }
    s.me.sys.asid 0

/-- A form of `redf` that returns a value: what stops it, and what it sends. -/
theorem refused_of_redfForm {i : Instr} {wr : Bool} {op : ReqOp} (hi : exec i s = redfForm s g gd ga wr op)
    (h : Ready s g [.g gd.toNat, .g ga.toNat]) :
    ((s.me.g ga).poison = true → Traps i s { cause := 0x1A }) ∧
    ((s.me.g ga).poison = false → 2 ^ 13 ≤ (s.me.g ga).val.toNat → Traps i s { cause := 0x03 }) ∧
    ((s.me.g ga).poison = false → (s.me.g ga).val.toNat < 2 ^ 13 →
      s.nmuOk (coreOf s.cur) ((s.me.g ga).val.toNat / 64 % 128) (if wr then 1 else 0) = false → Traps i s { cause := 0x40 }) :=
  refused_of_handle (hi.trans rfl) (by exact h)

theorem issuesAt_of_redfForm {i : Instr} {wr : Bool} {op : ReqOp} (hi : exec i s = redfForm s g gd ga wr op)
    (h : Ready s g [.g gd.toNat, .g ga.toNat]) (hp : (s.me.g ga).poison = false) (hb : (s.me.g ga).val.toNat < 2 ^ 13)
    (hn : s.nmuOk (coreOf s.cur) ((s.me.g ga).val.toNat / 64 % 128) (if wr then 1 else 0) = true)
    (hr : s.room (.strand s.cur) [handleReq s ga op] = true) :
    IssuesAt i s (oneSent s (handleReq s ga op) (some (.g gd.toNat, .s { val := 0, poison := gp s g }, .scalar 8 false))) :=
  issuesAt_of_handle (hi.trans rfl) (by exact h) hp hb hn (sendOne_ok _ hr)

variable (hp : (s.me.g ga).poison = false) (hb : (s.me.g ga).val.toNat < 2 ^ 13)
  (hn : s.nmuOk (coreOf s.cur) ((s.me.g ga).val.toNat / 64 % 128) 1 = true) (hg : gp s g = false)
include hp hb hn hg

theorem issuesAt_redx_scalar {gb : GReg} {ty : BitVec 2} (h : Ready s g [.g ga.toNat,
  .g gb.toNat]) (hgb : (s.me.g gb).poison = false) {v : BitVec 32}
    (hv : v = if ty = 0 then (s.me.g gb).val.setWidth 32 else ((s.me.g gb).val.setWidth 16).setWidth 32)
    (hr : s.room (.strand s.cur) [handleReq s ga (.redx [((s.me.g ga).val.toNat % 64, v, ty.toNat, false)])] = true) :
    IssuesAt (.redx g ga (.scalar gb ty)) s (oneSent s (handleReq s ga (.redx [((s.me.g ga).val.toNat % 64, v, ty.toNat,
    false)])) none) := by
  refine issuesAt_of_handle (exec_redx_scalar s g ga gb ty) (by exact h) hp hb hn ?_
  rw [redxScalar, if_neg (by simp [hgb, gp_false hg])]
  have hv' : (if ty == 0 then (s.me.g gb).val.setWidth 32 else ((s.me.g gb).val.setWidth 16).setWidth 32) = v := by
    rw [hv]
    exact ite_congr (propext beq_iff_eq) (fun _ => rfl) fun _ => rfl
  dsimp only
  rw [hv']
  exact sendOne_ok none hr

theorem issuesAt_redx_vector {va : Opnd} {b : Block} {t1 : Strand} (h : Ready s g (s.me.vRegs [va] ++ [.g ga.toNat]))
    (hs : s.me.readSrcs [{ o := va, lu := false }] = .ok [b] t1) (hm : b.poison &&& s.me.mask g = 0) {xs : List (Nat × BitVec 32 × Nat × Bool)}
    (hxs : xs = (activeElems 32 (s.me.mask g)).map (fun n => (((s.me.g ga).val.toNat % 64 + n % 64) % 64,
    BitVec.ofNat 32 (elem b.bits.toNat 32 n), 0,
      false)))
    (hr : (s.setMe t1).room (.strand s.cur) [handleReq s ga (.redx xs)] = true) :
    IssuesAt (.redx g ga (.vector va)) s (oneSent (s.setMe t1) (handleReq s ga (.redx xs)) none) := by
  refine issuesAt_of_handle (exec_redx_vector s g ga va) (by exact h) hp hb hn ?_
  rw [redxVector, hs]
  dsimp only [List.headD_cons]
  rw [← hxs]
  refine (if_neg ?_).trans (congrArg (orHold s) (sendOne_ok none hr))
  rw [hm, bne_self_eq_false, show (s.me.p g.p).poison = false from hg]
  exact Bool.false_ne_true

theorem issuesAt_redfOpen {anchor : BitVec 9} (h : Ready s g [.g ga.toNat]) (hr : s.room (.strand s.cur) [handleReq s ga (.redfOpen anchor.toInt)] = true) :
    IssuesAt (.redfOpen g ga anchor) s (oneSent s (handleReq s ga (.redfOpen anchor.toInt)) none) := by
  refine issuesAt_of_handle (r := ga) (wr := true) (by unfold exec; rfl) (by exact h) hp hb hn ((if_neg ?_).trans (sendOne_ok none hr))
  rw [show (s.me.p g.p).poison = false from hg]
  exact Bool.false_ne_true

end Reductions

/-- Settles O23: a form stops at its handle, or sends its request. -/
theorem reductionForms : Obligations.ReductionForms := by
  intro s g ga t h u k grant req refused
  refine ⟨fun gb ty hr => ?_, fun va hr => ?_, fun anchor hr => ?_, fun gd hr => ⟨fun bf => ⟨?_, ?_⟩, ?_⟩,
    fun hp hb hn => ⟨fun gb ty hr hgb hg => ?_,
    fun va b t1 hr hs hm hg => ?_, fun anchor hr hg => ?_⟩, fun gd bf hr hp hb => ⟨fun hn hroom => ?_, fun hn hroom => ?_,
    fun hn hroom => ?_⟩⟩
  · exact refused_of_handle (exec_redx_scalar s g ga gb ty) (by exact hr)
  · exact refused_of_handle (exec_redx_vector s g ga va) (by exact hr)
  · exact refused_of_handle (wr := true) (by unfold exec; rfl) (by exact hr)
  · exact refused_of_redfForm (wr := false) (by unfold exec; rfl) hr
  · exact refused_of_redfForm (wr := true) (by unfold exec; rfl) hr
  · exact refused_of_redfForm (wr := false) (by unfold exec; rfl) hr
  · exact issuesAt_redx_scalar hp hb hn hg hr hgb rfl
  · exact issuesAt_redx_vector hp hb hn hg hr hs hm rfl
  · exact issuesAt_redfOpen hp hb hn hg hr
  · exact issuesAt_of_redfForm (wr := false) (by unfold exec; rfl) hr hp hb hn hroom
  · exact issuesAt_of_redfForm (wr := true) (by unfold exec; rfl) hr hp hb hn hroom
  · exact issuesAt_of_redfForm (wr := false) (by unfold exec; rfl) hr hp hb hn hroom

/-! Semaphores and order. -/

section Semw
variable {s s1 : State} {g : Guard} {sc : Scope} {gd ga gb : GReg} {eq : Bool} (h : Ready s g [.g gd.toNat, .g ga.toNat, .g gb.toNat])
  (ha : (s.me.g ga).poison = false) (hb : (s.me.g gb).poison = false)
include h ha hb

/-- A waiter that has been woken hands over the value that satisfied it. -/
theorem semw_woken {w : Waiter} {v : Word} {bad : Bool} (hw : s.waiterOf (.strand s.cur) = some w) (hs : w.sat = some (v,
  bad)) (hk : w.woken = true) :
    IssuesAt (.semw g sc gd ga gb eq) s ((s.dropWaiter (.strand s.cur)).setMe
      ((s.dropWaiter (.strand s.cur)).me.fly (.g gd.toNat) (.s { val := v, poison := bad || gp s g }) 0 2 true)) := by
  refine issuesAt_of_ready (by unfold exec; rfl) (by exact h) ?_
  rw [if_neg (by simp [ha, hb]), hw]
  dsimp only
  rw [hs, hk]
  rfl

theorem semw_asleep {w : Waiter} (hw : s.waiterOf (.strand s.cur) = some w) (hk : w.woken = false) : HoldsAt (.semw g sc gd ga gb eq) s s := by
  refine holdsAt_of_ready (by unfold exec; rfl) (by exact h) ?_
  rw [if_neg (by simp [ha, hb]), hw]
  dsimp only
  rw [hk]
  cases w.sat with
  | none => rfl
  | some _ => rfl

theorem semw_underway (hw : s.waiterOf (.strand s.cur) = none) (hn : ∃ e ∈ s.net, e.src = .strand s.cur ∧ e.op.isSemw = true) :
    HoldsAt (.semw g sc gd ga gb eq) s s := by
  refine holdsAt_of_ready (by unfold exec; rfl) (by exact h) ?_
  rw [if_neg (by simp [ha, hb]), hw]
  refine if_pos (List.any_eq_true.mpr ?_)
  obtain ⟨e, he, hsrc, hop⟩ := hn
  exact ⟨e, he, by rw [hsrc, hop, beq_self_eq_true]; rfl⟩

theorem semw_sent (hw : s.waiterOf (.strand s.cur) = none) (hn : ∀ e ∈ s.net,
  e.src = .strand s.cur → e.op.isSemw = false) {x : Seg} {gs : List Seg}
    (hc : s.check { r := true } 8 (s.me.g ga).val 8 = (s1, .ok (x :: gs))) {r : Req}
    (hreq : r = { mkReq (.strand s1.cur) (.semw eq (s.me.g gb).val) x s1.me.sys.asid 0 with scope := sc, acq := true })
    (hr : s1.room (.strand s1.cur) [r] = true) : HoldsAt (.semw g sc gd ga gb eq) s (oneSent s1 r none) := by
  have hany : ¬ s.net.any (fun e => e.src == .strand s.cur && e.op.isSemw) = true := by
    intro hc
    obtain ⟨e, he, hb⟩ := List.any_eq_true.mp hc
    obtain ⟨hsrc, hop⟩ := Bool.and_eq_true_iff.mp hb
    exact Bool.false_ne_true ((hn e he (eq_of_beq hsrc)).symm.trans hop)
  refine holdsAt_of_ready (by unfold exec; rfl) (by exact h) ?_
  rw [if_neg (by simp [ha, hb]), hw]
  dsimp only
  rw [if_neg hany, object_ok hc, ← hreq, sendOne_ok none hr]

end Semw

/-- What an order entry stands behind: the strand's own accesses, and those its core has published where it carries them. -/
theorem sendOrder_behind {s : State} {cum : Bool}
    (h : ∃ e ∈ s.net, e.done = false ∧ (e.src = .strand s.cur ∨ (cum = true ∧ e.pub = true ∧ e.src.core = some (coreOf s.cur)))) :
    s.sendOrder cum = s.send (mkReq (.strand s.cur) (.order cum) { sp := .dram, pa := 0, len := 0, va := 0, off := 0 } s.me.sys.asid 0) := by
  obtain ⟨e, he, hd, hs⟩ := h
  refine if_pos (List.any_eq_true.mpr ⟨e, he, ?_⟩)
  rcases hs with hs | ⟨hc, hp, hs⟩
  · simp [hd, hs]
  · simp [hd, hc, hp, hs]

theorem sendOrder_first {s : State} {cum : Bool}
    (h : ¬ ∃ e ∈ s.net, e.done = false ∧ (e.src = .strand s.cur ∨ (cum = true ∧ e.pub = true ∧ e.src.core = some (coreOf s.cur)))) :
    s.sendOrder cum = s := by
  refine if_neg fun hc => h ?_
  obtain ⟨e, he, hb⟩ := List.any_eq_true.mp hc
  exact ⟨e, he, by simpa [and_assoc] using hb⟩

theorem issuesAt_fence {s : State} {g : Guard} {sc : Scope} (h : Ready s g []) : IssuesAt (.fence g sc) s (s.sendOrder (sc != .sd)) :=
  issuesAt_of_ready (by unfold exec; rfl) (by exact h) rfl

theorem issuesAt_mark {s : State} {g : Guard} (h : Ready s g []) : IssuesAt (.mark g) s (s.sendOrder false) :=
  issuesAt_of_ready (by unfold exec; rfl) (by exact h) rfl

/-- Settles O24. -/
theorem semaphoreAndOrderForms : Obligations.SemaphoreAndOrderForms := by
  intro s s1 g x gs
  refine ⟨fun sc ga gb h ha hb hg hc hr => ?_, fun sc gd ga gb eq h ha hb => ⟨fun w v bad hw hs hk => semw_woken h ha hb hw hs hk,
    fun w hw hk => semw_asleep h ha hb hw hk, fun hw hn => semw_underway h ha hb hw hn,
    fun hw hn hc hr => semw_sent h ha hb hw hn hc rfl hr⟩,
    fun h => ⟨fun sc hn => ?_, fun sc hn => ?_, fun hn => ?_, fun hn => ?_⟩⟩
  · refine issuesAt_of_ready (by unfold exec; rfl) (by exact h) ?_
    rw [if_neg (by simp [ha]), if_neg (by simp [hb, gp_false hg]),
      object_ok hc]
    exact sendOne_ok none hr
  · rw [← sendOrder_behind hn]
    exact issuesAt_fence h
  · have hx := issuesAt_fence (sc := sc) h
    rw [sendOrder_first hn] at hx
    exact hx
  · rw [← sendOrder_behind hn]
    exact issuesAt_mark h
  · have hx := issuesAt_mark h
    rw [sendOrder_first hn] at hx
    exact hx

end Sys2Proof.Machine
end

section
/-! PROOFS. Events on the way of a request to its home (R186, R192, R196, R201, R434, O27). -/

namespace Sys2Proof.Machine

section Request
variable {s : State} {r : Req}

/-! On-chip homes. -/

theorem exec_homeAccess (s : State) (id : Nat) : exec (.homeAccess id) s = execHomeAccess id s := by
  unfold exec
  rfl

theorem homeAccess_ready (hd : s.due r.id = some r) (hsp : r.sp = .chip) (hr : s.chipReadyFor r.pa r.id = true) :
    exec (.homeAccess r.id) s = .next (s.complete r) := by
  rw [exec_homeAccess, execHomeAccess, hd]
  dsimp only
  rw [if_neg (by simp [hsp]), if_pos hr]
  rfl

theorem homeAccess_asleep (hd : s.due r.id = some r) (hsp : r.sp = .chip) (hr : s.chipReadyFor r.pa r.id = false) :
    exec (.homeAccess r.id) s = .next (s.chipWake r.pa) := by
  rw [exec_homeAccess, execHomeAccess, hd]
  dsimp only
  rw [if_neg (by simp [hsp]), if_neg (by simp [hr])]
  rfl

/-- An atomic performed at an unpoisoned object of on-chip memory. -/
theorem perform_atom {op : AtomOp} {b c : BitVec 128} {ret : Bool} (hsp : r.sp = .chip) (hop : r.op = .atom op b c ret)
    (hbad : (s.readChip r.pa r.len).2 = []) :
    s.perform r =
      let n := atomNew op r.len (ofBytes (readBytes s.chip r.pa r.len)) b.toNat c.toNat
      let s1 := match n.1 with | some v => s.writeAt .chip r.pa (toBytes r.len v) false | none => s
      if ret then s1.answer r 0 (readBytes s.chip r.pa r.len) [] n.2 else s1 := by
  have hq : s.readAt r.sp r.pa r.len = (s, readBytes s.chip r.pa r.len, []) := by
    rw [hsp, State.readAt, ← hbad]
    rfl
  rw [State.perform, hop]
  dsimp only
  rw [hq, hsp]
  exact if_neg (by simp)

/-! Reduction engines. -/

theorem exec_reductionApply (s : State) (id : Nat) : exec (.reductionApply id) s = execReductionApply id s := by
  unfold exec
  rfl

/-- What becomes of a request in the arrival buffer: of a vector of contributions the first is applied, another request is performed. -/
def applied (s : State) (r : Req) : Option State :=
  match r.op with
  | .redx (x :: y :: xs) => some ((s.perform { r with op := .redx [x] }).setReq { r with op := .redx (y :: xs) })
  | _ => some (s.complete r)

variable {u : Nat} (hd : s.due r.id = some r) (hsp : r.sp = .red u)
include hd hsp

/-- A request at a reduction engine: taken into the arrival buffer or refused, and, where it stands there, applied. -/
theorem reductionApply_due : execReductionApply r.id s = event s (
    if r.accept.isNone then
      if s.arrivals u < 32 || r.kept then some { s.setReq { r with accept := some s.fresh } with fresh := s.fresh + 1 } else some (s.setReq r.refuse)
    else applied s r) := by
  rw [execReductionApply, hd]
  dsimp only
  split
  · next v hv =>
    obtain rfl := Space.red.inj (hv.symm.trans hsp)
    rfl
  · next h => exact absurd hsp (h u)

theorem reductionApply_accepts (ha : r.accept = none) (h : s.arrivals u < 32 ∨ 2 ≤ r.refusals) :
    exec (.reductionApply r.id) s = .next { s.setReq { r with accept := some s.fresh } with fresh := s.fresh + 1 } := by
  have hc : (s.arrivals u < 32 || r.kept) = true := by simpa [Req.kept] using h
  rw [exec_reductionApply, reductionApply_due hd hsp, if_pos (by simp [ha]), if_pos hc]
  rfl

theorem reductionApply_refuses (ha : r.accept = none) (h : 32 ≤ s.arrivals u) (hk : r.refusals < 2) :
    exec (.reductionApply r.id) s = .next (s.setReq { r with away := true, refusals := r.refusals + 1 }) := by
  have hc : ¬ (s.arrivals u < 32 || r.kept) = true := by
    rw [Req.kept, Bool.or_eq_true, decide_eq_true_eq, decide_eq_true_eq]
    omega
  rw [exec_reductionApply, reductionApply_due hd hsp, if_pos (by simp [ha]), if_neg hc]
  rfl

theorem reductionApply_applies (ha : r.accept.isSome = true) : exec (.reductionApply r.id) s = event s (applied s r) := by
  rw [exec_reductionApply, reductionApply_due hd hsp, if_neg (by simp [Option.isSome_iff_ne_none.mp ha])]

omit hd in
theorem perform_redx {xs : List (Nat × BitVec 32 × Nat × Bool)} (hop : r.op = .redx xs) :
    s.perform r = xs.foldl (fun (s : State) x => s.setAcc u x.1 ((s.acc u x.1).contribute (redFmt x.2.2.1) x.2.1.toNat x.2.2.2)) s := by
  rw [State.perform, hop]
  dsimp only
  rw [hsp]

omit hd in
theorem perform_redfOpen {a : Int} (hop : r.op = .redfOpen a) : s.perform r = s.setAcc u r.pa (Acc.open a) := by
  rw [State.perform, hop]
  dsimp only
  rw [hsp]

end Request

/-! Routers, refusals, waiters. -/

theorem exec_routerMerge (s : State) (a b : Nat) : exec (.routerMerge a b) s = execRouterMerge a b s := by
  unfold exec
  rfl

theorem routerMerge_merges {s : State} {r q : Req} {op : AtomOp} {x y c d : BitVec 128} (hr : s.req r.id = some r) (hq : s.req q.id = some q)
    (hop : r.op = .atom op x c false) (hop' : q.op = .atom op y d false) (hm : r.mergesWith q = true) (hf : s.free r = true)
    (hb : s.freeBut r q = true) :
    exec (.routerMerge r.id q.id) s = .next (s.setReq { r with
      op := .atom op (BitVec.ofNat 128 ((atomNew op r.len x.toNat y.toNat 0).1.getD 0)) c false
      merged := r.merged ++ [q.id] ++ q.merged }) := by
  rw [exec_routerMerge, execRouterMerge, hr, hq]
  dsimp only
  rw [hop, hop']
  dsimp only
  rw [if_pos (by simp [hm, hf, hb])]
  rfl

theorem exec_requestResend (s : State) (id : Nat) : exec (.requestResend id) s = execRequestResend id s := by
  unfold exec
  rfl

theorem requestResend_sends {s : State} {r : Req} (hr : s.req r.id = some r) (ha : r.away = true) :
    exec (.requestResend r.id) s = .next (s.setReq { r with away := false }) := by
  rw [exec_requestResend, execRequestResend, hr]
  dsimp only
  rw [if_pos ha]
  rfl

theorem req_of_due {s : State} {id : Nat} {r : Req} (h : s.due id = some r) : s.req id = some r ∧ r.away = false := by
  rw [State.due] at h
  split at h
  · next q hq =>
    split at h
    · next hc =>
      obtain rfl := Option.some.inj h
      refine ⟨hq, ?_⟩
      obtain ⟨⟨-, hw⟩, -⟩ : (s.free q = true ∧ (!q.away) = true) ∧ (!q.op.isOrder) = true := by simpa using hc
      simpa using hw
    · cases h
  · cases h

theorem requestResend_refuses {s : State} {r : Req} (hd : s.due r.id = some r) (hf : r.refusable = true) :
    exec (.requestResend r.id) s = .next (s.setReq { r with away := true, refusals := r.refusals + 1 }) := by
  obtain ⟨hr, ha⟩ := req_of_due hd
  rw [exec_requestResend, execRequestResend, hr]
  dsimp only
  rw [if_neg (by simp [ha]), if_pos hf, hd]
  rfl

theorem semaphoreWaiterWake_wakes {s : State} {w : Waiter} (hw : s.waiters.find? (fun x => x.id == w.id) = some w) (hs : w.sat.isSome = true)
    (hk : w.woken = false)
    (hfirst : ∀ x ∈ s.waiters, x.sp = w.sp → x.pa = w.pa → x.sat.isSome = true → x.woken = false → x.id = w.id ∨ w.id < x.id) :
    exec (.semaphoreWaiterWake w.id) s = .next
      { s with waiters := s.waiters.map (fun x => if x.id == w.id then { x with woken := true } else x) } := by
  have hall : s.waiters.all (fun (x : Waiter) => x.id == w.id || x.woken || x.sat.isNone || x.sp != w.sp || x.pa != w.pa || w.id < x.id) = true := by
    refine List.all_eq_true.mpr fun x hx => ?_
    have h := hfirst x hx
    refine Decidable.byContradiction fun hc => ?_
    simp only [Bool.or_eq_true, not_or, beq_iff_eq, bne_iff_ne, ne_eq, Decidable.not_not, decide_eq_true_eq, Option.isNone_iff_eq_none] at hc
    obtain ⟨⟨⟨⟨⟨hid, hwk⟩, hst⟩, hsp⟩, hpa⟩, hlt⟩ := hc
    exact (h hsp hpa (Option.isSome_iff_ne_none.mpr hst) (by simpa using hwk)).elim hid hlt
  have hx : exec (.semaphoreWaiterWake w.id) s = execSemaphoreWaiterWake w.id s := by
    unfold exec
    rfl
  rw [hx, execSemaphoreWaiterWake, hw]
  dsimp only
  rw [hall, if_neg (by simp [Option.isSome_iff_ne_none.mp hs, hk])]
  rfl

/-- Settles O27. -/
theorem requestEvents : Obligations.RequestEvents := by
  intro s r
  refine ⟨fun op b c ret hd hsp hop hr => ⟨homeAccess_ready hd hsp hr, fun hbad => perform_atom hsp hop hbad⟩,
    fun hd hsp hr => homeAccess_asleep hd hsp hr, fun u hd hsp => ⟨fun ha h => reductionApply_accepts hd hsp ha h,
      fun ha h hk => reductionApply_refuses hd hsp ha h hk, fun k v ty p ha hop => ⟨?_, perform_redx hsp hop⟩, fun k v ty p x xs ha hop => ?_,
      fun a ha hop => ⟨?_, perform_redfOpen hsp hop⟩⟩,
    fun q op x y c d hr hq hop hop' hm hf hb => routerMerge_merges hr hq hop hop' hm hf hb, fun hr ha => requestResend_sends hr ha,
    fun hd hf => requestResend_refuses hd hf, fun w hw hs hk hfirst => semaphoreWaiterWake_wakes hw hs hk hfirst⟩
  · rw [reductionApply_applies hd hsp ha, applied, hop]
    rfl
  · rw [reductionApply_applies hd hsp ha, applied, hop]
    dsimp only
    rw [perform_redx (r := { r with op := .redx [(k, v, ty, p)] }) hsp rfl]
    rfl
  · rw [reductionApply_applies hd hsp ha, applied, hop]
    rfl

end Sys2Proof.Machine
end

section
/-! PROOFS. Vector memory (R131, R132, R186, R187, O34, O35). -/

namespace Sys2Proof.Machine

/-! Indexed access. -/

theorem exec_vgath (s : State) (g : Guard) (vd : Opnd) (va : VSrc) (gb : GReg) (sh : BitVec 2) :
    exec (.vgath g vd va gb sh) s = vLoadElems s g vd va gb 32 (fun b i => b + BitVec.ofNat 64 (i * 2 ^ sh.toNat)) := by
  have h : exec (.vgath g vd va gb sh) s = vLoadElems s g vd va gb 32 (fun b i => b + BitVec.ofNat 64 (i <<< sh.toNat)) := by
    unfold exec
    rfl
  simpa only [Nat.shiftLeft_eq] using h

theorem exec_vlut (s : State) (g : Guard) (ty : Ty) (vd : Opnd) (va : VSrc) (gb : GReg) :
    exec (.vlut g ty vd va gb) s = vLoadElems s g vd va gb ty.width (fun b i => b + BitVec.ofNat 64 (i * (ty.width / 8))) := by
  unfold exec
  rfl

section Gather
variable {s : State} {g : Guard} {vd : Opnd} {va : VSrc} {gb : GReg} {w : Nat} {addr : Word → Nat → Word} {i : Instr} {b : Block} {u : Strand}
  {gs : List Seg}
  (hi : exec i s = vLoadElems s g vd va gb w addr) (hfree : s.me.vuFree ≤ s.me.clock)
  (h : Ready s g (s.me.vDest vd ++ s.me.vRegs [va.o] ++ [.g gb.toNat])) (hsrc : s.me.readSrcs [va] = .ok [b] u)
  (hseg : s.elemSegs { r := true } (w / 8) (fun n => addr (s.me.g gb).val (elem b.bits.toNat w n))
    (fun n => (s.me.g gb).poison || b.poison.getLsbD (laneOf w n)) (fun _ => false) (activeElems w (s.me.mask g)) = .ok gs)
include hi hfree h hsrc hseg

/-- The elements' reads, to a register. -/
theorem gather_register (hv : vd.isV = true)
    (hr : (s.setMe (u.claimV (s.me.pv vd.toNat)).sending).room (.strand s.cur) (loadReqs (s.setMe (u.claimV (s.me.pv vd.toNat)).sending) gs id) = true) :
    IssuesAt i s (loadSent (s.setMe (u.claimV (s.me.pv vd.toNat)).sending) gs (.v (s.me.pv vd.toNat))
      (.v { bits := 0, poison := allPoison (gp s g) } (s.me.mask g)) .elems id) := by
  refine issuesAt_of_ready (hi.trans rfl) (by exact h) ?_
  rw [if_neg (Nat.not_lt.mpr hfree), hsrc]
  dsimp only
  rw [show nth [b] 0 = b from rfl, hseg]
  dsimp only
  rw [if_pos hv]
  exact congrArg (orHold s) (sendLoad_ok hr)

/-- What a gather to an outbound port comes to, its elements' checks passed. -/
theorem exec_gather_port (hv : vd.isV = false) : exec i s = finish (
    if !gs.all (fun x => s.chipFull x.pa) then .hold (s.wakeSegs gs)
    else if (s.me.p g.p).poison || gs.any (fun x => !(s.readChip x.pa x.len).2.isEmpty) then trapIf s 0x19 0
    else match s.me.push (vd.toNat - 32) with
    | .wait => .hold s
    | .trap r => pushTrap s (vd.toNat - 32) r
    | .drop => .ok (s.setMe (u.setEos (vd.toNat - 32)).sending)
    | .slot => orHold s (sendLoad (s.setMe (u.setPort (vd.toNat - 32)
        { vAt u.e.ports (vd.toNat - 32) with accepted := (vAt u.e.ports (vd.toNat - 32)).accepted + 1 }).sending) gs (.q (vd.toNat - 32))
        (.v { bits := 0, poison := allPoison (gp s g) } (s.me.mask g)) .elems id)) := by
  refine (exec_of_ready (hi.trans rfl) (.inl rfl) (by exact h)).trans (congrArg finish ?_)
  rw [if_neg (Nat.not_lt.mpr hfree), hsrc]
  dsimp only
  rw [show nth [b] 0 = b from rfl, hseg]
  dsimp only
  exact if_neg (by simp [hv])

theorem gather_banks (hv : vd.isV = false) (hb : ∃ x ∈ gs, s.chipFull x.pa = false) : HoldsAt i s (s.wakeSegs gs) := by
  have hall : ¬ gs.all (fun x => s.chipFull x.pa) = true := by simpa using hb
  exact (exec_gather_port hi hfree h hsrc hseg hv).trans (congrArg finish (if_pos (by simpa using hall)))

theorem gather_poison (hv : vd.isV = false) (hb : ∀ x ∈ gs, s.chipFull x.pa = true)
    (hp : gp s g = true ∨ ∃ x ∈ gs, (s.readChip x.pa x.len).2 ≠ []) : Traps i s { cause := 0x19 } := by
  have hall : gs.all (fun x => s.chipFull x.pa) = true := by simpa using hb
  have hbad : ((s.me.p g.p).poison || gs.any (fun x => !(s.readChip x.pa x.len).2.isEmpty)) = true := by simpa [gp] using hp
  exact (exec_gather_port hi hfree h hsrc hseg hv).trans (congrArg finish ((if_neg (by simp [hall])).trans (if_pos hbad)))

/-- What a gather to an outbound port comes to, its elements in full banks and unpoisoned: what the push finds. -/
theorem exec_gather_push (hv : vd.isV = false) (hb : ∀ x ∈ gs, s.chipFull x.pa = true) (hg : gp s g = false)
    (hp : ∀ x ∈ gs, (s.readChip x.pa x.len).2 = []) : exec i s = finish (match s.me.push (vd.toNat - 32) with
    | .wait => .hold s
    | .trap r => pushTrap s (vd.toNat - 32) r
    | .drop => .ok (s.setMe (u.setEos (vd.toNat - 32)).sending)
    | .slot => orHold s (sendLoad (s.setMe (u.setPort (vd.toNat - 32)
        { vAt u.e.ports (vd.toNat - 32) with accepted := (vAt u.e.ports (vd.toNat - 32)).accepted + 1 }).sending) gs (.q (vd.toNat - 32))
        (.v { bits := 0, poison := allPoison (gp s g) } (s.me.mask g)) .elems id)) := by
  have hall : gs.all (fun x => s.chipFull x.pa) = true := by simpa using hb
  have hbad : ((s.me.p g.p).poison || gs.any (fun x => !(s.readChip x.pa x.len).2.isEmpty)) = false := by simpa [gp_false hg] using hp
  refine (exec_gather_port hi hfree h hsrc hseg hv).trans (congrArg finish ?_)
  exact (if_neg (by simp [hall])).trans (if_neg (by simp [hbad]))

end Gather

/-- Places for the requests of a block (R333). -/
theorem sendBlock_ok {s : State} {gs : List Seg} {bs : List OutByte} {rs : List Req} (hrs : rs = storeReqs (.strand s.cur) s.me.sys.asid (s.fresh + 1) bs gs)
    (h : s.room (.strand s.cur) rs = true) : sendBlock s gs bs = .ok ((s.wakeSegs gs).sendAll rs) := by
  subst hrs
  exact if_neg (by simp [h])

theorem asid_of_readSrcs {t u : Strand} {os : List VSrc} {bs : List Block} (h : t.readSrcs os = .ok bs u) : u.sys.asid = t.sys.asid := by
  have hw := works_readSrcs t os
  rw [h] at hw
  exact (congrArg SysRegs.asid (Works.sys hw) :)

/-- Settles O34: elements that pass their checks are read or written, or stop at their banks, their poison or their port. -/
theorem indexedForms : Obligations.IndexedForms := by
  intro s g vd va vb gb sh ty b d u gs t hfree busy gather
  have hgather : ∀ {i : Instr} {w : Nat} {addr : Word → Nat → Word},
    exec i s = vLoadElems s g vd va gb w addr → gather i w (addr (t.g gb).val) := by
    intro i w addr hi h hsrc hseg v
    refine ⟨fun hv hr => gather_register hi hfree h hsrc hseg hv hr, fun hv => ⟨fun hb => gather_banks hi hfree h hsrc hseg hv hb,
      fun hb hp => gather_poison hi hfree h hsrc hseg hv hb hp, fun hb hg hp => ?_⟩⟩
    have hx := exec_gather_push hi hfree h hsrc hseg hv hb hg hp
    refine ⟨fun hq hr => ?_, fun hq => ?_, fun r hq => ?_, fun hq => ?_⟩
    · rw [show s.me.push (vd.toNat - 32) = _ from hq] at hx
      exact hx.trans (congrArg (fun r => finish (orHold s r)) (sendLoad_ok hr))
    · rw [show s.me.push (vd.toNat - 32) = _ from hq] at hx
      exact hx
    · rw [show s.me.push (vd.toNat - 32) = _ from hq] at hx
      exact hx
    · rw [show s.me.push (vd.toNat - 32) = _ from hq] at hx
      exact hx
  have hvgath := hgather (exec_vgath s g vd va gb sh)
  have hvlut := hgather (exec_vlut s g ty vd va gb)
  refine ⟨hvgath, hvlut, fun h hsrc hseg hr => ?_⟩
  refine issuesAt_of_ready (by unfold exec; rfl) (by exact h) ?_
  rw [if_neg (Nat.not_lt.mpr hfree), show s.me.readSrcs [va, vb] = _ from hsrc]
  simp only [Nat.shiftLeft_eq]
  rw [show nth [d, b] 0 = d from rfl, show nth [d, b] 1 = b from rfl, show (s.me.p g.p).poison = gp s g from rfl,
    show s.elemSegs _ _ _ _ _ _ = _ from hseg]
  refine congrArg (orHold s) (sendBlock_ok (s := s.setMe u.sending) ?_ hr)
  rw [State.me_setMe, show u.sending.sys.asid = u.sys.asid from rfl, asid_of_readSrcs hsrc]
  rfl

end Sys2Proof.Machine
end

section
/-! PROOFS. Blocks through a layout (R186, R187, R292, R351, R356, O35). -/

namespace Sys2Proof.Machine

/-- The layout of a `vld` or `vst` at its issue. -/
def layoutAt (t : Strand) (k : LayNo) : Layout := (vAt t.r.lay k.toNat).capture t.sys.fmode

/-- The checks of a block's sixteen rows. -/
def State.blockSegs (s : State) (p : Perm) (k : LayNo) (ga : GReg) : State × Chk :=
  s.rowSegs (.strand s.cur) (coreOf s.cur) s.cur s.me.sys.asid p (layoutAt s.me k) ((layoutAt s.me k).base + (s.me.g ga).val) (List.range 16)

section Load
variable {s s1 : State} {g : Guard} {vd : Opnd} {k : LayNo} {ga : GReg} {gs : List Seg} {lu : Bool}

/-- The rows a block uses, and whether all of them are reached through L. -/
def usedBy (s : State) (g : Guard) (k : LayNo) (gs : List Seg) : List Seg := (layoutAt s.me k).used (s.me.mask g) gs

/-- The strand once its destination is claimed and its draws are made. -/
def vldTaken (s s1 : State) (vd : Opnd) (k : LayNo) : Strand :=
  (s1.me.claimV (s.me.pv vd.toNat)).draw (if (layoutAt s.me k).draws then (layoutAt s.me k).capacity else 0)

/-- The value a `vld` is to bring. -/
def vldValue (s : State) (g : Guard) (k : LayNo) : FVal :=
  .v { bits := 0, poison := allPoison (gp s g) } ((layoutAt s.me k).lanes (s.me.mask g))

/-- The spans of on-chip memory that a last-use hint names. -/
def hintSpans (lu : Bool) (hs : List Seg) : List (Nat × Nat) := if lu then (hs.filter (fun x => x.sp == .chip)).map (fun x => (x.pa,
x.len)) else []

/-- The flight of a `vld` that reads at issue, its rows read. -/
def vldFlight (s s1 : State) (g : Guard) (vd : Opnd) (k : LayNo) (hs : List Seg) : Flight :=
  let u := vldTaken s s1 vd k
  let r := s1.peekAll s1.cur hs
  Flight.finish { tag := u.newTag, bundle := u.bundle, dst := .v (s.me.pv vd.toNat), val := vldValue s g k, flags := 0,
                  due := u.clock + u.cyc 10, last := 0, fixed := s.me.bankFull (s.me.pv vd.toNat), need := 0, raw := r.1,
                  rawPoison := r.2,
                  form := .block (layoutAt s.me k) s.me.sys.seed, hint := [] }

/-- A flight whose answer carries a last-use hint. -/
def hinted (tag : Nat) (hint : List (Nat × Nat)) (t : Strand) : Strand :=
  { t with flights := t.flights.map (fun (f : Flight) => if f.tag == tag then { f with hint := hint } else f) }

variable (ha : (s.me.g ga).poison = false) (h : Ready s g (s.me.vDest vd ++ [.g ga.toNat])) (hl : (layoutAt s.me k).noBlock true = false)
  (hseg : s.blockSegs { r := true } k ga = (s1, .ok gs))
include ha h hl hseg

/-- A `vld` whose rows have passed their checks. -/
theorem exec_vld_checked : exec (.vld g vd k ga lu) s = finish (
    match s1.wayL s1.cur ((usedBy s g k gs).all (fun x => winOf x.va == .l)) (usedBy s g k gs) with
    | .hold => .hold s1
    | .fixed => .ok ((s1.setMe { vldTaken s s1 vd k with flights := (vldTaken s s1 vd k).flights ++ [vldFlight s s1 g vd k (usedBy s g k gs)] }).lastUse
        s1.cur (hintSpans lu (usedBy s g k gs)))
    | .queued => orHold s1 (match sendLoad (s1.setMe (vldTaken s s1 vd k)) (cutAll 16 (usedBy s g k gs)) (.v (s.me.pv vd.toNat)) (vldValue s g k)
          (.block (layoutAt s.me k) s.me.sys.seed) id with
        | .ok x => .ok (x.modStrand s1.cur (hinted (vldTaken s s1 vd k).newTag (hintSpans lu (usedBy s g k gs))))
        | r => r)) := by
  refine (exec_of_ready (by unfold exec; rfl) (.inl rfl) (by exact h)).trans (congrArg finish ?_)
  refine (if_neg (by exact fun hc => Bool.false_ne_true (hl.symm.trans hc))).trans ((if_neg (by simp [ha])).trans ?_)
  refine (congrArg (checked · _) hseg).trans ?_
  rfl

theorem vld_hold (hw : s1.wayL s1.cur ((usedBy s g k gs).all (fun x => winOf x.va == .l)) (usedBy s g k gs) = .hold) :
    HoldsAt (.vld g vd k ga lu) s s1 := by
  have hx := exec_vld_checked (lu := lu) ha h hl hseg
  rw [hw] at hx
  exact hx

theorem vld_fixed (hw : s1.wayL s1.cur ((usedBy s g k gs).all (fun x => winOf x.va == .l)) (usedBy s g k gs) = .fixed) :
    IssuesAt (.vld g vd k ga lu) s ((s1.setMe { vldTaken s s1 vd k with
      flights := (vldTaken s s1 vd k).flights ++ [vldFlight s s1 g vd k (usedBy s g k gs)] }).lastUse s1.cur (hintSpans lu (usedBy s g k gs))) := by
  have hx := exec_vld_checked (lu := lu) ha h hl hseg
  rw [hw] at hx
  exact hx

theorem vld_queued (hw : s1.wayL s1.cur ((usedBy s g k gs).all (fun x => winOf x.va == .l)) (usedBy s g k gs) = .queued)
    (hr : (s1.setMe (vldTaken s s1 vd k)).room (.strand s1.cur) (loadReqs (s1.setMe (vldTaken s s1 vd k)) (cutAll 16 (usedBy s g k gs)) id) = true) :
    IssuesAt (.vld g vd k ga lu) s ((loadSent (s1.setMe (vldTaken s s1 vd k)) (cutAll 16 (usedBy s g k gs)) (.v (s.me.pv vd.toNat)) (vldValue s g k)
      (.block (layoutAt s.me k) s.me.sys.seed) id).modStrand s1.cur (hinted (vldTaken s s1 vd k).newTag (hintSpans lu (usedBy s g k gs)))) := by
  have hx := exec_vld_checked (lu := lu) ha h hl hseg
  rw [hw] at hx
  dsimp only at hx
  rw [sendLoad_ok (by exact hr)] at hx
  exact hx

end Load

/-- What is on its way changes no strand. -/
theorem strands_chipWake (s : State) (pa : Nat) : (s.chipWake pa).strands = s.strands ∧ (s.chipWake pa).cur = s.cur := by
  unfold State.chipWake State.wakeSp
  split
  · dsimp only
    split <;> exact ⟨rfl, rfl⟩
  · exact ⟨rfl, rfl⟩

theorem strands_wakeSegs (s : State) (gs : List Seg) : (s.wakeSegs gs).strands = s.strands ∧ (s.wakeSegs gs).cur = s.cur := by
  unfold State.wakeSegs
  induction gs generalizing s with
  | nil => exact ⟨rfl, rfl⟩
  | cons g gs ih =>
    obtain ⟨h1, h2⟩ := ih (if g.sp == .chip then s.chipWake g.pa else s)
    have hw : (if g.sp == .chip then s.chipWake g.pa else s).strands = s.strands ∧ (if g.sp == .chip then s.chipWake g.pa else s).cur = s.cur := by
      split
      · exact strands_chipWake s _
      · exact ⟨rfl, rfl⟩
    exact ⟨h1.trans hw.1, h2.trans hw.2⟩

theorem me_sendAll (s : State) (rs : List Req) : (s.sendAll rs).me = s.me := (looks_sendAll s rs).me

theorem me_loadSent (s : State) (gs : List Seg) (d : Dst) (v : FVal) (form : LandForm) (mk : Req → Req) :
    (loadSent s gs d v form mk).me = { s.me with flights := s.me.flights ++ [gathering s.me d v gs.length form] } := by
  obtain ⟨h1, h2⟩ := strands_wakeSegs (s.setMe { s.me with flights := s.me.flights ++ [gathering s.me d v gs.length form] }) gs
  rw [loadSent, me_sendAll, State.me, State.strand, h1, h2]
  exact State.me_setMe s _

theorem cur_loadSent (s : State) (gs : List Seg) (d : Dst) (v : FVal) (form : LandForm) (mk : Req → Req) : (loadSent s gs d v form mk).cur = s.cur :=
  (looks_sendAll _ _).cur.trans (strands_wakeSegs _ gs).2

theorem me_modStrand {s : State} {n : Nat} {f : Strand → Strand} (h : s.cur = n) : (s.modStrand n f).me = f s.me := by
  subst h
  exact State.strand_modStrand s s.cur f

/-- The flight of a load under way, with its hint. -/
theorem hinted_flight (t : Strand) (d : Dst) (v : FVal) (n : Nat) (form : LandForm) (hint : List (Nat × Nat)) :
    { gathering t d v n form with hint := hint } ∈
      (hinted t.newTag hint { t with flights := t.flights ++ [gathering t d v n form] }).flights := by
  refine List.mem_map.mpr ⟨gathering t d v n form, List.mem_append_right _ (List.mem_singleton_self _), if_pos ?_⟩
  exact beq_self_eq_true _

/-- Settles O35. -/
theorem blockForms : Obligations.BlockForms := by
  intro s s1 g vd va k ga gs t l o ha
  refine ⟨fun lu h hl hseg => ⟨fun hw => vld_hold ha h hl hseg hw, fun hw hr => ?_, fun hw => ?_⟩,
    fun spl bl u h hl hsrc hb hg hseg hr => ?_⟩
  · refine ⟨_, vld_queued ha h hl hseg hw hr, rfl, { gathering (vldTaken s s1 vd k) (.v (s.me.pv vd.toNat)) (vldValue s g k)
      (cutAll 16 (usedBy s g k gs)).length (.block (layoutAt s.me k) s.me.sys.seed) with hint := hintSpans lu (usedBy s g k gs) }, ?_,
      rfl, rfl, rfl, rfl⟩
    rw [me_modStrand (by rw [cur_loadSent]; rfl), me_loadSent, State.me_setMe]
    exact hinted_flight _ _ _ _ _ _
  · exact ⟨_, vld_fixed ha h hl hseg hw, rfl, rfl, rfl⟩
  · refine issuesAt_of_ready (by unfold exec; rfl) (by exact h) ?_
    dsimp only
    rw [if_neg (by exact fun hc => Bool.false_ne_true (hl.symm.trans hc)), show s.me.readSrcs [va] = _ from hsrc]
    dsimp only
    rw [if_neg (by simp [show (s.me.g ga).poison = false from ha]), show nth [bl] 0 = bl from rfl,
      if_neg (by rw [gp_false hg, Bool.or_false]; exact fun hc => Bool.false_ne_true (hb.symm.trans hc))]
    refine (congrArg (checked · _) hseg).trans (congrArg (orHold s1) (sendBlock_ok ?_ (by exact hr)))
    rw [State.me_setMe]
    rfl

end Sys2Proof.Machine
end

section
/-! PROOFS. Commands that enter a queue (R24, R136 to R140, R173, R176): what an entry leaves, stated once for every command. -/

namespace Sys2Proof.Machine

/-! The strand after an entry. -/

theorem swapIn_eq (t : Strand) (h : MHead) : t.swapIn h =
    { t with r := { t.r with sh := if h.swap then vSet t.r.sh h.sh.toNat (vAt t.r.shadow h.sh.toNat) else t.r.sh } } := by
  unfold Strand.swapIn
  split <;> rfl

theorem foldl_touch (rs : List Nat) (t : Strand) : ∃ b, rs.foldl (fun (u : Strand) i => u.touch i) t = { t with r := { t.r with banks := b } } := by
  induction rs generalizing t with
  | nil => exact ⟨_, rfl⟩
  | cons i rs ih =>
    obtain ⟨b, hb⟩ := ih (t.touch i)
    exact ⟨b, hb⟩

/-- The claims of a command, each behind those of its port. -/
theorem foldl_claim (id : Nat) (cs : List (Nat × Nat)) (t : Strand) :
    ∃ ps, cs.foldl (fun (u : Strand) k => u.claim id k) t = { t with e := { t.e with ports := ps } } ∧
      ∀ q, q < 8 → (vAt ps q).claims = (vAt t.e.ports q).claims ++ (cs.filter (fun k => k.1 == q)).map (fun k => (id, k.2)) := by
  induction cs generalizing t with
  | nil => exact ⟨_, rfl, fun q _ => (List.append_nil _).symm⟩
  | cons c cs ih =>
    obtain ⟨ps, hps, hc⟩ := ih (t.claim id c)
    refine ⟨ps, hps, fun q hq => (hc q hq).trans ?_⟩
    rw [List.filter_cons]
    by_cases h : c.1 = q
    · subst h
      rw [if_pos (beq_self_eq_true _), List.map_cons]
      simp [Strand.claim, Strand.setPort, hq]
    · rw [if_neg (by simpa using h)]
      simp [Strand.claim, Strand.setPort, vAt_vSet_other _ _ _ _ (Ne.symm h)]

/-! The machine after an entry. -/

/-- A capture writes nothing but what a command captures. -/
def Captures (f : Cmd → Cmd) : Prop :=
  ∀ c : Cmd, (f c).id = c.id ∧ (f c).engine = c.engine ∧ (f c).op = c.op ∧ (f c).st = c.st ∧ (f c).seq = c.seq ∧ (f c).tag = c.tag ∧
    (f c).shape = c.shape ∧ (f c).locks = c.locks ∧ (f c).seed0 = c.seed0

/-- The command an entry makes. -/
def entryCmd (s : State) (t : Strand) (h : MHead) (e : Nat) (op : Instr) (x : Entry) : Cmd := x.fill { (t.newCmd s.fresh e h op) with locks := x.regs }

/-- The strand that an entry leaves. -/
def enteredMe (s : State) (t : Strand) (h : MHead) (e : Nat) (op : Instr) (x : Entry) : Strand :=
  let c := entryCmd s t h e op x
  let t := x.regs.foldl (fun (u : Strand) i => u.touch i) t
  let t := x.claims.foldl (fun (u : Strand) k => u.claim c.id k) t
  { t with e := { t.e with cmds := t.e.cmds ++ [c], seq := vSet t.e.seq e (vAt t.e.seq e + 1) } }.draw x.draws

/-- The machine that an entry leaves. -/
def entered (s : State) (t : Strand) (h : MHead) (e : Nat) (op : Instr) (x : Entry) : State :=
  let s' := if e == 1 then s else s.publish (.strand s.cur) s.fresh
  { s' with fresh := s'.fresh + 1 }.setMe (enteredMe s t h e op x)

theorem queueDepth_eq (e : Nat) : queueDepth e = if 3 ≤ e ∧ e ≤ 10 then 4 else 16 := by
  simp [queueDepth]

theorem bankFull_not_off {t : Strand} {i : Nat} (h : t.bankFull i = true) : t.bankOff i = false := by
  rw [Strand.bankOff, eq_of_beq h]
  rfl

/-- A command with its tokens mapped, room in its queue, its ports at rest and its registers in full banks enters. -/
theorem enqueue_ok {s : State} {t : Strand} {h : MHead} {e : Nat} {op : Instr} {x : Entry} (hk : t.tkOk h e = true)
    (hq : (t.queue e).length < if 3 ≤ e ∧ e ≤ 10 then 4 else 16) (hp : ∀ q ∈ x.ports, (vAt t.e.ports q).rew = none)
    (hr : ∀ r ∈ x.regs, t.bankFull r = true) : enqueue s t h e op x = .ok (entered s t h e op x) := by
  have hports : x.ports.any (fun q => (vAt t.e.ports q).rew.isSome) = false := by
    rw [List.any_eq_false]
    intro q hq
    simp [hp q hq]
  have hdrain : x.regs.any (fun i => t.drains i && !t.bankFull i) = false := by
    rw [List.any_eq_false]
    intro r hr'
    simp [hr r hr']
  have hfull : x.regs.any (fun i => !t.bankFull i) = false := by
    rw [List.any_eq_false]
    intro r hr'
    simp [hr r hr']
  have hoff : x.regs.find? (fun i => t.bankOff i) = none := by
    rw [List.find?_eq_none]
    intro r hr'
    simp [bankFull_not_off (hr r hr')]
  rw [← queueDepth_eq] at hq
  rw [enqueue, hk, hports, hdrain, hoff, hfull]
  simp only [Bool.not_true, Bool.false_eq_true, if_false, if_neg (Nat.not_le.mpr hq)]
  rfl

section Entry
variable {s : State} {t : Strand} {h : MHead} {e : Nat} {op : Instr} {x : Entry}

/-- The strand of an entry, written out: what differs from the strand the command came from. -/
theorem enteredMe_eq : ∃ b ps, enteredMe s t h e op x = { t with
      r := { t.r with banks := b }
      e := { t.e with ports := ps, cmds := t.e.cmds ++ [entryCmd s t h e op x], seq := vSet t.e.seq e (vAt t.e.seq e + 1) }
      sys := { t.sys with seed := drawN x.draws t.sys.seed } } ∧
    ∀ q, q < 8 → (vAt ps q).claims =
      (vAt t.e.ports q).claims ++ (x.claims.filter (fun k => k.1 == q)).map (fun k => ((entryCmd s t h e op x).id, k.2)) := by
  obtain ⟨b, hb⟩ := foldl_touch x.regs t
  obtain ⟨ps, hps, hc⟩ := foldl_claim (entryCmd s t h e op x).id x.claims (x.regs.foldl (fun (u : Strand) i => u.touch i) t)
  refine ⟨b, ps, ?_, ?_⟩
  · rw [enteredMe, hps, hb]
    rfl
  · rw [hb] at hc
    exact hc

theorem entered_rest : { entered s t h e op x with strands := s.strands, fresh := s.fresh, net := s.net } = s := by
  unfold entered
  split <;> rfl

theorem entered_net : (entered s t h e op x).net = if e = 1 then s.net else (s.publish (.strand s.cur) s.fresh).net := by
  unfold entered
  by_cases h1 : e = 1
  · rw [if_pos (beq_iff_eq.mpr h1), if_pos h1]
    rfl
  · rw [if_neg (by simpa using h1), if_neg h1]
    rfl

theorem entered_strand (n : Nat) (hn : n ≠ s.cur) : (entered s t h e op x).strand n = s.strand n := by
  unfold entered
  split <;> exact State.strand_setMe_other _ _ _ hn

theorem entered_me : (entered s t h e op x).me = enteredMe s t h e op x := State.me_setMe _ _

end Entry

/-- What is said of a command that enters its queue, from what its syllable does: the strand it comes from is the acting strand with the swap
made and, it may be, other registers live. -/
theorem entersQueue_of_enqueue {i : Instr} {s : State} {h : MHead} {cause : BitVec 7} {ds : Strand → List Dst} {k : Strand → Res} {e : Nat} {x : Entry}
    {live : BitVec 32} {P : Cmd → Prop} {rs : List Dst} (hi : exec i s = guardedM cause s h ds k) (hds : ds s.me = rs)
    (hk : k (s.me.swapIn h) = enqueue s { s.me.swapIn h with r := { (s.me.swapIn h).r with live := live } } h e i x) (hf : Captures x.fill)
    (hP : P (entryCmd s { s.me.swapIn h with r := { (s.me.swapIn h).r with live := live } } h e i x)) :
    EntersQueue i s h rs e x.regs x.ports x.claims x.draws P := by
  subst hds
  intro hr hg htk hq hp hb
  have hx := exec_guardedM hi hr
  rw [if_neg (by simp [hg]), hk, enqueue_ok (by exact htk) (by exact hq) (by exact hp) (by exact hb)] at hx
  refine ⟨_, entryCmd s { s.me.swapIn h with r := { (s.me.swapIn h).r with live := live } } h e i x, hx,
    ⟨entered_rest, entered_net, entered_strand⟩, ?_⟩
  obtain ⟨b, ps, hme, hc⟩ := enteredMe_eq (s := s) (t := { s.me.swapIn h with r := { (s.me.swapIn h).r with live := live } }) (h := h) (e := e)
    (op := i) (x := x)
  obtain ⟨h1, h2, h3, h4, h5, h6, h7, h8, h9⟩ := hf
    { (Strand.newCmd { s.me.swapIn h with r := { (s.me.swapIn h).r with live := live } } s.fresh e h i) with locks := x.regs }
  rw [entered_me, hme]
  rw [swapIn_eq] at *
  refine ⟨rfl, h1, h2, h3, h4, h5, h6, h7, h8, h9, fun he => vAt_vSet_self _ _ _ he, rfl, rfl, hc, rfl, rfl, rfl, rfl, rfl, rfl, rfl,
    rfl, rfl, rfl,
    rfl, hP⟩

end Sys2Proof.Machine
end

section
/-! PROOFS. Commands of the engines' queues (R135 to R183, O36, O37). -/

namespace Sys2Proof.Machine

theorem captures_id : Captures id := fun _ => ⟨rfl, rfl, rfl, rfl, rfl, rfl, rfl, rfl, rfl⟩

/-- A command whose syllable comes to its entry, the strand as the swap leaves it. -/
theorem entersQueue_plain {i : Instr} {s : State} {h : MHead} {ds : Strand → List Dst} {e : Nat} (k : Strand → Res) (x : Entry)
    {P : Cmd → Prop} {rs : List Dst} (hi : exec i s = mSyllable s h ds k) (hds : ds s.me = rs)
    (hk : k (s.me.swapIn h) = enqueue s (s.me.swapIn h) h e i x) (hf : Captures x.fill) (hP : P (entryCmd s (s.me.swapIn h) h e i x)) :
    EntersQueue i s h rs e x.regs x.ports x.claims x.draws P :=
  entersQueue_of_enqueue (cause := 0x1A) (k := k) (live := (s.me.swapIn h).r.live) hi hds hk hf hP

/-- A command that captures nothing and names neither register nor port. -/
theorem entersQueue_bare {i : Instr} {s : State} {h : MHead} {e : Nat} {P : Cmd → Prop}
    (hi : exec i s = mSyllable s h (fun _ => []) (fun t => enqueue s t h e i {})) (hP : P (entryCmd s (s.me.swapIn h) h e i {})) :
    EntersQueue i s h [] e [] [] [] 0 P :=
  entersQueue_plain (fun t => enqueue s t h e i {}) {} hi rfl rfl captures_id hP

/-! Array commands (R135 to R152). -/

section Array
variable {s : State} {h : MHead} {i : Instr}

/-- A register operand carries one K-block only (R142). -/
theorem oneBlock {sh : Shape} (ho : lockNames i = [] ∨ prodBlocks i sh ≤ 1) : (!(lockNames i).isEmpty && decide (prodBlocks i sh > 1)) = false := by
  rcases ho with ho | ho
  · rw [ho]
    rfl
  · rw [decide_eq_false (Nat.not_lt.mpr ho), Bool.and_false]

/-- What a product comes to behind its guard. -/
def productStep (s : State) (h : MHead) (i : Instr) (draws : Nat) (t : Strand) : Res :=
  let sh := vAt t.r.sh h.sh.toNat
  if !(lockNames i).isEmpty && prodBlocks i sh > 1 then trapIf s 0x03 0 else enqueue s t h 1 i (arrayEntry t h i draws id)

theorem entersQueue_product {draws : Nat} {P : Cmd → Prop} (hi : exec i s = product s h i draws)
    (ho : lockNames i = [] ∨ prodBlocks i (vAt (s.me.swapIn h).r.sh h.sh.toNat) ≤ 1)
    (hP : ∀ c : Cmd, c.dstLock = none → P c) :
    EntersQueue i s h (sourceRegs i s.me) 1 ((lockNames i).map (fun r => (s.me.swapIn h).pv r))
      ((claimsOf i (vAt (s.me.swapIn h).r.sh h.sh.toNat)).map (fun c => c.1)) (claimsOf i (vAt (s.me.swapIn h).r.sh h.sh.toNat)) draws P :=
  entersQueue_plain (productStep s h i draws) (arrayEntry (s.me.swapIn h) h i draws id) hi rfl
    (if_neg (by exact fun hc => Bool.false_ne_true ((oneBlock ho).symm.trans hc))) captures_id (hP _ rfl)

/-- What `mmaa` comes to behind its guard. -/
def mmaaStep (s : State) (h : MHead) (i : Instr) (draws : Nat) (t : Strand) : Res :=
  let sh := vAt t.r.sh h.sh.toNat
  if 64 < sh.k.toNat || (!(lockNames i).isEmpty && prodBlocks i sh > 1) then trapIf s 0x03 0
  else enqueue s t h 1 i (arrayEntry t h i draws id)

theorem entersQueue_mmaa {draws : Nat} {P : Cmd → Prop} (hi : exec i s = mSyllable s h (sourceRegs i) (mmaaStep s h i draws))
    (ho : lockNames i = [] ∨ prodBlocks i (vAt (s.me.swapIn h).r.sh h.sh.toNat) ≤ 1) (hk : (vAt (s.me.swapIn h).r.sh h.sh.toNat).k.toNat ≤ 64)
    (hP : ∀ c : Cmd, c.dstLock = none → P c) :
    EntersQueue i s h (sourceRegs i s.me) 1 ((lockNames i).map (fun r => (s.me.swapIn h).pv r))
      ((claimsOf i (vAt (s.me.swapIn h).r.sh h.sh.toNat)).map (fun c => c.1)) (claimsOf i (vAt (s.me.swapIn h).r.sh h.sh.toNat)) draws P := by
  refine entersQueue_plain (mmaaStep s h i draws) (arrayEntry (s.me.swapIn h) h i draws id) hi rfl (if_neg ?_) captures_id (hP _ rfl)
  rw [decide_eq_false (Nat.not_lt.mpr hk), Bool.false_or]
  exact fun hc => Bool.false_ne_true ((oneBlock ho).symm.trans hc)

/-- What `mload` comes to behind its guard. -/
theorem entersQueue_mload {acc : BitVec 4} {a : Opnd} {all : Bool} {p : BitVec 2} {P : Cmd → Prop} (hP : ∀ c : Cmd,
  c.dstLock = none → P c) :
    EntersQueue (.mload h acc a all p) s h (sourceRegs (.mload h acc a all p) s.me) 1
      ((lockNames (.mload h acc a all p)).map (fun r => (s.me.swapIn h).pv r))
      ((claimsOf (.mload h acc a all p) (vAt (s.me.swapIn h).r.sh h.sh.toNat)).map (fun c => c.1))
      (claimsOf (.mload h acc a all p) (vAt (s.me.swapIn h).r.sh h.sh.toNat)) 0 P :=
  entersQueue_plain (fun t => enqueue s t h 1 (.mload h acc a all p) (arrayEntry t h (.mload h acc a all p) 0 id))
    (arrayEntry (s.me.swapIn h) h (.mload h acc a all p) 0 id) (by unfold exec; rfl) rfl rfl captures_id (hP _ rfl)

/-- What a drain captures beside its parameters: the register it is to write and its rounding. -/
def drainFill (t : Strand) (rnd : Rnd) (a : Opnd) (c : Cmd) : Cmd :=
  { c with dstLock := if a.isV then some (t.pv a.toNat) else none, md := (t.mode rnd).code }

/-- What a drain comes to behind its guard: its destination register is live from issue (R351). -/
def drainStep (s : State) (h : MHead) (i : Instr) (fmt : DrainFmt) (rnd : Rnd) (a : Opnd) (t : Strand) : Res :=
  let t' := if a.isV then { t with r := { t.r with live := setBit32 t.r.live (t.pv a.toNat) true } } else t
  enqueue s t' h 1 i (arrayEntry t h i (if drainConverts fmt && t.mode rnd == .rsr then drainCount fmt else 0) (drainFill t rnd a))

theorem drainStep_live (s : State) (h : MHead) (i : Instr) (fmt : DrainFmt) (rnd : Rnd) (a : Opnd) (t : Strand) : drainStep s h i fmt rnd a t =
    enqueue s { t with r := { t.r with live := if a.isV then setBit32 t.r.live (t.pv a.toNat) true else t.r.live } } h 1 i
      (arrayEntry t h i (if drainConverts fmt && t.mode rnd == .rsr then drainCount fmt else 0) (drainFill t rnd a)) := by
  unfold drainStep
  cases a.isV <;> rfl

theorem exec_mdrain (s : State) (h : MHead) (fmt : DrainFmt) (rnd : Rnd) (sat clr : Bool) (a : Opnd) (acc : BitVec 4) (b : Opnd) (p : BitVec 2) :
    exec (.mdrain h fmt rnd sat clr a acc b p) s =
      guardedM 0x1A s h (fun t => t.vDest a ++ sourceRegs (.mdrain h fmt rnd sat clr a acc b p) t)
        (drainStep s h (.mdrain h fmt rnd sat clr a acc b p) fmt rnd a) := by
  unfold exec
  rfl

end Array

/-- Settles O36. -/
theorem arrayCommandsEnter : Obligations.ArrayCommandsEnter := by
  intro s h i t sh regs claims dst enters one
  refine ⟨?_, ?_, ?_, ?_, ?_, ?_, ?_, ?_, ?_⟩
  · rintro fmt z acc a b rfl ho
    exact entersQueue_product (by unfold exec; rfl) ho fun _ hc => hc
  · rintro i4 sa sb sat z acc a b rfl ho
    exact entersQueue_product (by unfold exec; rfl) ho fun _ hc => hc
  · rintro fmt z acc a b sa sb rfl ho
    exact entersQueue_product (by unfold exec; rfl) ho fun _ hc => hc
  · rintro fmt rsr sat z acc a b rfl ho hk
    exact entersQueue_mmaa (by unfold exec; rfl) ho hk fun _ hc => hc
  · rintro acc c rfl
    exact entersQueue_bare (by unfold exec; rfl) rfl
  · rintro acc a all p rfl
    exact entersQueue_mload fun _ hc => hc
  · rintro fmt rnd sat clr a acc b p rfl
    exact entersQueue_of_enqueue (exec_mdrain s h fmt rnd sat clr a acc b p) rfl (drainStep_live ..) (fun _ => ⟨rfl, rfl, rfl, rfl,
      rfl, rfl, rfl, rfl, rfl⟩)
      ⟨rfl, rfl⟩
  · rintro n rfl
    exact entersQueue_bare (by unfold exec; rfl) rfl
  · rintro rfl
    exact entersQueue_bare (by unfold exec; rfl) rfl

end Sys2Proof.Machine
end

section
/-! PROOFS. Port, copy and near commands (R165 to R183, O37). -/

namespace Sys2Proof.Machine

section Ports
variable {s : State} {h : MHead} {q : Opnd} {gb : GReg}

/-- What a `pstart` captures (R165). -/
def startFill (l : Layout) (p : Prog) (c : Cmd) : Cmd := { c with src := l, prog := p }

/-- What `pstart` comes to behind its guard. -/
def pstartStep (s : State) (h : MHead) (q : Opnd) (t : Strand) : Res :=
  let k := portNo q
  let p := vAt t.r.prog k
  let l := (vAt t.r.lay p.lay.toNat).capture t.sys.fmode
  if !p.startOk l k then trapIf s 0x20 0
  else enqueue s t h (portEngine k) (.pstart h q) { ports := [k], fill := startFill l p, draws := if l.draws then p.length * l.capacity else 0 }

theorem exec_pstart : exec (.pstart h q) s = mSyllable s h (fun _ => []) (pstartStep s h q) := by
  unfold exec
  rfl

theorem entersQueue_pstart {p : Prog} {l : Layout} (hp : p = vAt (s.me.swapIn h).r.prog (portNo q))
    (hl : l = (vAt (s.me.swapIn h).r.lay p.lay.toNat).capture (s.me.swapIn h).sys.fmode) (hok : p.startOk l (portNo q) = true) :
    EntersQueue (.pstart h q) s h [] (portEngine (portNo q)) [] [portNo q] [] (if l.draws then p.length * l.capacity else 0)
      (fun c => c.src = l ∧ c.prog = p) := by
  refine entersQueue_plain (pstartStep s h q) { ports := [portNo q], fill := startFill l p, draws := if l.draws then p.length * l.capacity else 0 }
    exec_pstart rfl ?_ (fun _ => ⟨rfl, rfl, rfl, rfl, rfl, rfl, rfl, rfl, rfl⟩) ⟨rfl, rfl⟩
  rw [pstartStep, ← hp, ← hl, if_neg (by simp [hok])]

theorem entersQueue_pstop : EntersQueue (.pstop h q) s h [] (portEngine (portNo q)) [] [portNo q] [] 0 (fun _ => True) :=
  entersQueue_plain (fun t => enqueue s t h (portEngine (portNo q)) (.pstop h q) { ports := [portNo q] }) { ports := [portNo q] }
    (by unfold exec; rfl) rfl rfl captures_id trivial

/-- An image's address captured. -/
def imageFill (a : Word) (c : Cmd) : Cmd := { c with ops := vSet c.ops 1 a }

theorem imageEntry_ok {t : Strand} {i : Instr} (hp : (t.g gb).poison = false) (hc : classify (t.g gb).val 128 = .ok (winOf (t.g gb).val))
    (ha : (t.g gb).val.toNat % 8 = 0) : imageEntry s t h q gb i =
      enqueue s t h (portEngine (portNo q)) i { ports := [portNo q], fill := imageFill (t.g gb).val } := by
  rw [imageEntry, if_neg (by simp [hp]), hc]
  exact if_neg (by simp [ha])

/-- No failure of the port's stream waits to be raised (R168). -/
theorem outward_calm {t : Strand} {k : Nat} {r : Res} (h : calmPort t k) : outward s t k r = r := by
  unfold outward
  dsimp only
  split
  · next f hf => exact if_pos (by simpa using h f hf)
  · rfl

variable (hp : ((s.me.swapIn h).g gb).poison = false) (hc : classify ((s.me.swapIn h).g gb).val 128 = .ok (winOf ((s.me.swapIn h).g gb).val))
  (ha : ((s.me.swapIn h).g gb).val.toNat % 8 = 0)
include hp hc ha

theorem entersQueue_psave (hq : calmPort (s.me.swapIn h) (portNo q)) :
    EntersQueue (.psave h q gb) s h [.g gb.toNat] (portEngine (portNo q)) [] [portNo q] [] 0 (fun c => vAt c.ops 1 = ((s.me.swapIn h).g gb).val) :=
  entersQueue_plain (fun t => outward s t (portNo q) (imageEntry s t h q gb (.psave h q gb)))
    { ports := [portNo q], fill := imageFill ((s.me.swapIn h).g gb).val } (by unfold exec; rfl) rfl
    ((outward_calm hq).trans (imageEntry_ok hp hc ha)) (fun _ => ⟨rfl, rfl, rfl, rfl, rfl, rfl, rfl, rfl, rfl⟩) (vAt_vSet_self _ _ _ (by decide))

theorem entersQueue_pload :
    EntersQueue (.pload h q gb) s h [.g gb.toNat] (portEngine (portNo q)) [] [portNo q] [] 0 (fun c => vAt c.ops 1 = ((s.me.swapIn h).g gb).val) :=
  entersQueue_plain (fun t => imageEntry s t h q gb (.pload h q gb)) { ports := [portNo q], fill := imageFill ((s.me.swapIn h).g gb).val }
    (by unfold exec; rfl) rfl (imageEntry_ok hp hc ha) (fun _ => ⟨rfl, rfl, rfl, rfl, rfl, rfl, rfl, rfl, rfl⟩) (vAt_vSet_self _ _ _ (by decide))

end Ports

/-! Copies. -/

theorem firstTrap_none (s : State) (k : Nat) (r : Res) : firstTrap s (List.replicate k none) r = r := by
  induction k with
  | zero => rfl
  | succ k ih => exact ih

/-- What a copy captures of its operands. -/
def opsFill (ops : Vector Word 4) (c : Cmd) : Cmd := { c with ops := ops }

theorem captures_ops (ops : Vector Word 4) : Captures (opsFill ops) := fun _ => ⟨rfl, rfl, rfl, rfl, rfl, rfl, rfl, rfl, rfl⟩

section Copy
variable {s : State} {h : MHead} {a b len : GReg} {exp lu : Bool} {kind : CompKind} {gc : BitVec 5}

/-- The operands of a `copy`. -/
def copyOps (t : Strand) (a b len : GReg) (kind : CompKind) (gc : BitVec 5) : Vector Word 4 :=
  #v[(t.g a).val, (t.g b).val, (t.g len).val, if kind == .sem then (t.g gc).val else 0]

/-- The checks of a `copy` (R177, R178). -/
def copyChecks (s : State) (t : Strand) (a b len : GReg) (exp : Bool) (kind : CompKind) (gc : BitVec 5) : List (Option (BitVec 7 × Word)) :=
  let k := (t.g len).val.toNat
  [ if (t.g a).poison || (t.g b).poison || (t.g len).poison then some (0x1A, 0) else none,
    if 2 ^ 40 < k then some (0x03, 0) else none,
    spanCheck (t.g a).val k, spanCheck (t.g b).val (if exp then min k 1 else k),
    if exp && k != 0 && !ownSpad s.cur (t.g a).val k then some (0x20, 0) else none,
    t.compCheck kind gc ]

theorem exec_copy : exec (.copy h a b len exp lu kind gc) s =
    guardedM 0x19 s h (fun _ => [.g a.toNat, .g b.toNat, .g len.toNat] ++ compReg kind gc) (fun t =>
      firstTrap s (copyChecks s t a b len exp kind gc)
        (enqueue s t h 2 (.copy h a b len exp lu kind gc) { fill := opsFill (copyOps t a b len kind gc) })) := by
  unfold exec
  rfl

theorem copyChecks_pass {t : Strand} (ha : (t.g a).poison = false) (hb : (t.g b).poison = false) (hl : (t.g len).poison = false)
    (hn : (t.g len).val.toNat ≤ 2 ^ 40) (hd : spanCheck (t.g a).val (t.g len).val.toNat = none)
    (hs : spanCheck (t.g b).val (if exp then min (t.g len).val.toNat 1 else (t.g len).val.toNat) = none)
    (ho : exp = true → (t.g len).val.toNat ≠ 0 → ownSpad s.cur (t.g a).val (t.g len).val.toNat = true) (hc : t.compCheck kind gc = none) :
    copyChecks s t a b len exp kind gc = List.replicate 6 none := by
  have hown : (exp && (t.g len).val.toNat != 0 && !ownSpad s.cur (t.g a).val (t.g len).val.toNat) = false := by
    cases exp with
    | false => rfl
    | true =>
      by_cases h0 : (t.g len).val.toNat = 0
      · rw [h0]
        rfl
      · rw [ho rfl h0, Bool.not_true, Bool.and_false]
  rw [copyChecks, ha, hb, hl, if_neg (Nat.not_lt.mpr hn), hd, hs, hown, hc]
  rfl

end Copy

section Copyt
variable {s : State} {h : MHead} {cnt crc : GReg} {dst src : LayNo} {lu chk schk : Bool} {kind : CompKind} {gc : BitVec 5}

/-- A layout as it is captured at issue. -/
def laid (t : Strand) (k : LayNo) : Layout := (vAt t.r.lay k.toNat).capture t.sys.fmode

def copytOps (t : Strand) (cnt crc : GReg) (chk : Bool) (kind : CompKind) (gc : BitVec 5) : Vector Word 4 :=
  #v[(t.g cnt).val, if chk then (t.g crc).val else 0, 0, if kind == .sem then (t.g gc).val else 0]

/-- What a `copyt` captures (R179). -/
def copytFill (ls ld : Layout) (ops : Vector Word 4) (c : Cmd) : Cmd := { c with src := ls, dst := ld, ops := ops }

/-- The checks of a `copyt` (R177, R179). -/
def copytChecks (t : Strand) (cnt crc : GReg) (ld ls : Layout) (chk : Bool) (kind : CompKind) (gc : BitVec 5) : List (Option (BitVec 7 × Word)) :=
  [ if (t.g cnt).poison || (chk && (t.g crc).poison) then some (0x1A, 0) else none,
    if 2 ^ 24 < (t.g cnt).val.toNat then some (0x03, 0) else none,
    if chk then spanCheck (t.g crc).val 8 else none,
    if chk && (t.g crc).val.toNat % 8 != 0 then some (0x0A, (t.g crc).val) else none,
    if !ld.allowed false || !ls.allowed true || ld.regFmt != ls.regFmt || ld.plane != ls.plane then some (0x20, 0) else none,
    t.compCheck kind gc ]

theorem exec_copyt : exec (.copyt h cnt crc dst src lu chk schk kind gc) s =
    guardedM 0x19 s h (fun _ => .g cnt.toNat :: (if chk then [.g crc.toNat] else []) ++ compReg kind gc) (fun t =>
      firstTrap s (copytChecks t cnt crc (laid t dst) (laid t src) chk kind gc)
        (enqueue s t h 2 (.copyt h cnt crc dst src lu chk schk kind gc)
          { fill := copytFill (laid t src) (laid t dst) (copytOps t cnt crc chk kind gc)
            draws := if (laid t dst).draws || (laid t src).draws then (t.g cnt).val.toNat * (laid t dst).capacity else 0 })) := by
  unfold exec
  rfl

theorem copytChecks_pass {t : Strand} {ld ls : Layout} (hp : (t.g cnt).poison = false) (hn : (t.g cnt).val.toNat ≤ 2 ^ 24)
    (hr : chk = true → (t.g crc).poison = false ∧ spanCheck (t.g crc).val 8 = none ∧ (t.g crc).val.toNat % 8 = 0) (hd : ld.allowed false = true)
    (hs : ls.allowed true = true) (hf : ld.regFmt = ls.regFmt) (hpl : ld.plane = ls.plane) (hc : t.compCheck kind gc = none) :
    copytChecks t cnt crc ld ls chk kind gc = List.replicate 6 none := by
  rw [copytChecks, hp, if_neg (Nat.not_lt.mpr hn), hd, hs, hf, hpl, hc, bne_self_eq_false, bne_self_eq_false]
  cases chk with
  | false => rfl
  | true =>
    obtain ⟨h1, h2, h3⟩ := hr rfl
    rw [h1, h2, h3]
    rfl

end Copyt

/-! Near-memory launches. -/

section Near
variable {s : State} {h : MHead} {a b p : GReg} {arg : Bool}

def launchOps (t : Strand) (a b p : GReg) (arg : Bool) : Vector Word 4 := #v[(t.g a).val, (t.g b).val, if arg then (t.g p).val else 0, 0]

/-- What `nlaunch` comes to behind its guard. -/
def nlaunchStep (s : State) (h : MHead) (a b p : GReg) (arg : Bool) (t : Strand) : Res :=
  if (t.g a).poison || (t.g b).poison || (arg && (t.g p).poison) then trapIf s 0x1A 0
  else if 127 < (t.g a).val.toNat || 8191 < (t.g b).val.toNat then trapIf s 0x03 0
  else enqueue s t h 11 (.nlaunch h a b p arg) { fill := opsFill (launchOps t a b p arg) }

theorem exec_nlaunch : exec (.nlaunch h a b p arg) s =
    mSyllable s h (fun _ => [.g a.toNat, .g b.toNat] ++ (if arg then [.g p.toNat] else [])) (nlaunchStep s h a b p arg) := by
  unfold exec
  rfl

theorem nlaunchStep_ok {t : Strand} (ha : (t.g a).poison = false) (hb : (t.g b).poison = false) (hp : arg = true → (t.g p).poison = false)
    (hu : (t.g a).val.toNat ≤ 127) (he : (t.g b).val.toNat ≤ 8191) :
    nlaunchStep s h a b p arg t = enqueue s t h 11 (.nlaunch h a b p arg) { fill := opsFill (launchOps t a b p arg) } := by
  have harg : (arg && (t.g p).poison) = false := by
    cases arg with
    | false => rfl
    | true => exact hp rfl
  rw [nlaunchStep, if_neg (by rw [ha, hb, harg]; exact Bool.false_ne_true)]
  exact if_neg (by simpa using ⟨hu, he⟩)

end Near

/-- Settles O37. -/
theorem engineCommandsEnter : Obligations.EngineCommandsEnter := by
  intro s h t lay
  refine ⟨fun q => fun hok => entersQueue_pstart rfl rfl hok, fun q => entersQueue_pstop, fun q gb hp hc ha => ⟨fun hq => entersQueue_psave hp hc ha hq,
    entersQueue_pload hp hc ha⟩, fun a b len exp lu kind gc => ?_, fun cnt crc dst src lu chk schk kind gc => ?_, fun a b p arg ha hb hp hu he => ?_⟩
  · intro n ha hb hl hn hd hs ho hc
    refine entersQueue_of_enqueue (x := { fill := opsFill (copyOps t a b len kind gc) }) (live := t.r.live)
      (P := fun c => c.ops = copyOps t a b len kind gc) exec_copy rfl ?_ (captures_ops _) rfl
    dsimp only
    rw [show copyChecks s (s.me.swapIn h) a b len exp kind gc = _ from copyChecks_pass ha hb hl hn hd hs ho hc]
    exact firstTrap_none s 6 _
  · intro ld ls n hp hn hr hd hs hf hpl hc
    refine entersQueue_of_enqueue (x := { fill := copytFill (laid t src) (laid t dst) (copytOps t cnt crc chk kind gc), draws := _ })
      (live := t.r.live) (P := fun c => c.src = laid t src ∧ c.dst = laid t dst ∧ c.ops = copytOps t cnt crc chk kind gc) exec_copyt rfl ?_ (fun _ => ⟨rfl, rfl, rfl, rfl, rfl, rfl, rfl, rfl, rfl⟩) ⟨rfl, rfl, rfl⟩
    dsimp only
    rw [show copytChecks (s.me.swapIn h) cnt crc (laid (s.me.swapIn h) dst) (laid (s.me.swapIn h) src) chk kind gc = _ from copytChecks_pass hp hn hr hd hs hf hpl hc]
    exact firstTrap_none s 6 _
  · exact entersQueue_plain _ { fill := opsFill (launchOps t a b p arg) } exec_nlaunch rfl (nlaunchStep_ok ha hb hp hu he) (captures_ops _) rfl

end Sys2Proof.Machine
end

section
/-! PROOFS. Token forms, flushes, clocks and wakes (R174, R175, R184, R185, O38). -/

namespace Sys2Proof.Machine

section Forms
variable {s : State} {h : MHead}

/-- What a syllable of the M class does behind an unpoisoned guard. -/
theorem exec_mSyllable {i : Instr} {ds : Strand → List Dst} {k : Strand → Res} (hi : exec i s = mSyllable s h ds k) (hr : Ready s h.g (ds s.me))
    (hg : gp s h.g = false) : exec i s = finish (k (s.me.swapIn h)) :=
  (exec_guardedM (c := 0x1A) hi hr).trans (congrArg finish (if_neg (by simp [hg])))

/-- What `twait` comes to behind its guard. -/
def twaitStep (s : State) (h : MHead) (e : BitVec 4) (t : Strand) : Res :=
  if e != 0 then enqueue s t h e.toNat (.twait h e) {}
  else if !t.tkOk h 0 then trapIf s 0x03 0
  else if !t.hasTk h.tkw.toNat then .hold s
  else .ok (s.setMe (t.takeTk h.tkw.toNat))

/-- What `tsig` comes to behind its guard. -/
def tsigStep (s : State) (h : MHead) (e : BitVec 4) (t : Strand) : Res :=
  if e != 0 then enqueue s t h e.toNat (.tsig h e) {}
  else if !t.tkOk h 0 then trapIf s 0x03 0
  else if !t.roomTk h.tks.toNat then .hold s
  else .ok (s.setMe (t.pushTk h.tks.toNat))

theorem exec_twait (e : BitVec 4) : exec (.twait h e) s = mSyllable s h (fun _ => []) (twaitStep s h e) := by
  unfold exec
  rfl

theorem exec_tsig (e : BitVec 4) : exec (.tsig h e) s = mSyllable s h (fun _ => []) (tsigStep s h e) := by
  unfold exec
  rfl

theorem entersQueue_twait {e : BitVec 4} (he : e ≠ 0) : EntersQueue (.twait h e) s h [] e.toNat [] [] [] 0 (fun _ => True) :=
  entersQueue_plain (twaitStep s h e) {} (exec_twait e) rfl (if_pos (bne_iff_ne.mpr he)) captures_id trivial

theorem entersQueue_tsig {e : BitVec 4} (he : e ≠ 0) : EntersQueue (.tsig h e) s h [] e.toNat [] [] [] 0 (fun _ => True) :=
  entersQueue_plain (tsigStep s h e) {} (exec_tsig e) rfl (if_pos (bne_iff_ne.mpr he)) captures_id trivial

/-! A token queue of the strand's own. -/

theorem toNat_beq_zero {k : BitVec 4} (hk : k ≠ 0) : (k.toNat == 0) = false := by
  simpa using fun hz => hk (BitVec.eq_of_toNat_eq hz)

theorem hasTk_eq {t : Strand} {k : BitVec 4} (hk : k ≠ 0) : t.hasTk k.toNat = (vAt t.e.tk k.toNat != 0) := by
  rw [Strand.hasTk, toNat_beq_zero hk, Bool.false_or]

theorem roomTk_eq {t : Strand} {k : BitVec 4} (hk : k ≠ 0) : t.roomTk k.toNat = decide (vAt t.e.tk k.toNat < 16) := by
  rw [Strand.roomTk, toNat_beq_zero hk, Bool.false_or]

theorem takeTk_eq {t : Strand} {k : BitVec 4} (hk : k ≠ 0) :
    t.takeTk k.toNat = { t with e := { t.e with tk := vSet t.e.tk k.toNat (vAt t.e.tk k.toNat - 1) } } :=
  if_neg (by simp [toNat_beq_zero hk])

theorem pushTk_tk {t : Strand} {k : BitVec 4} (hk : k ≠ 0) : (t.pushTk k.toNat).e.tk = vSet t.e.tk k.toNat (vAt t.e.tk k.toNat + 1) := by
  rw [Strand.pushTk, if_neg (by simp [toNat_beq_zero hk])]
  dsimp only
  split <;> rfl

section Own
variable (hr : Ready s h.g []) (hg : gp s h.g = false) (hk : (s.me.swapIn h).tkOk h 0 = true)
include hr hg hk

theorem issues_twait (hw : h.tkw ≠ 0) (ht : vAt (s.me.swapIn h).e.tk h.tkw.toNat ≠ 0) :
    Issues (.twait h 0) s ((s.me.swapIn h).takeTk h.tkw.toNat) := by
  refine (exec_mSyllable (exec_twait 0) (by exact hr) hg).trans (congrArg finish ?_ : _ = finish (.ok _))
  rw [twaitStep, if_neg (by decide), if_neg (by simp [hk]), if_neg (by simp [hasTk_eq hw, ht])]

theorem holdsAt_twait (hw : h.tkw ≠ 0) (ht : vAt (s.me.swapIn h).e.tk h.tkw.toNat = 0) : HoldsAt (.twait h 0) s s := by
  refine (exec_mSyllable (exec_twait 0) (by exact hr) hg).trans (congrArg finish ?_ : _ = finish (.hold _))
  rw [twaitStep, if_neg (by decide), if_neg (by simp [hk]), if_pos (by simp [hasTk_eq hw, ht])]

theorem issues_tsig (hw : h.tks ≠ 0) (ht : vAt (s.me.swapIn h).e.tk h.tks.toNat < 16) : Issues (.tsig h 0) s ((s.me.swapIn h).pushTk h.tks.toNat) := by
  refine (exec_mSyllable (exec_tsig 0) (by exact hr) hg).trans (congrArg finish ?_ : _ = finish (.ok _))
  rw [tsigStep, if_neg (by decide), if_neg (by simp [hk]), if_neg (by simp [roomTk_eq hw, ht])]

theorem holdsAt_tsig (hw : h.tks ≠ 0) (ht : 16 ≤ vAt (s.me.swapIn h).e.tk h.tks.toNat) : HoldsAt (.tsig h 0) s s := by
  refine (exec_mSyllable (exec_tsig 0) (by exact hr) hg).trans (congrArg finish ?_ : _ = finish (.hold _))
  rw [tsigStep, if_neg (by decide), if_neg (by simp [hk]), if_pos (by simp [roomTk_eq hw, ht])]

end Own

/-! Clocks and wakes. -/

/-- What `clkdiv` of the strand comes to behind its guard (R184). -/
def clkdivStep (s : State) (d : BitVec 5) (t : Strand) : Res :=
  if t.flights.any (fun f => f.bundle < t.bundle) then .hold s else .ok (s.setMe { t with pend := t.pend ++ [.clkdiv d.toNat] })

theorem exec_clkdiv_strand (d : BitVec 5) : exec (.clkdiv h .strand d) s = mSyllable s h (fun _ => []) (clkdivStep s d) := by
  unfold exec
  rfl

/-- The allotment of the strand's kernel. -/
theorem spmask_setMe {t : Strand} (hk : t.kernel = s.me.kernel) : (s.setMe t).spmask s.cur = s.spmask s.cur := by
  have hs : (s.setMe t).strand s.cur = t := State.strand_setStrand s s.cur t
  rw [State.spmask, State.spmask, hs, hk]
  rfl

section Ready
variable (hr : Ready s h.g []) (hg : gp s h.g = false)
include hr hg

theorem issues_clkdiv {d : BitVec 5} (hf : ∀ f ∈ (s.me.swapIn h).flights, (s.me.swapIn h).bundle ≤ f.bundle) :
    Issues (.clkdiv h .strand d) s { s.me.swapIn h with pend := (s.me.swapIn h).pend ++ [.clkdiv d.toNat] } := by
  refine (exec_mSyllable (exec_clkdiv_strand d) (by exact hr) hg).trans (congrArg finish (if_neg ?_) : _ = finish (.ok _))
  simpa using hf

theorem holdsAt_clkdiv {d : BitVec 5} (hf : ∃ f ∈ (s.me.swapIn h).flights, f.bundle < (s.me.swapIn h).bundle) : HoldsAt (.clkdiv h .strand d) s s := by
  refine (exec_mSyllable (exec_clkdiv_strand d) (by exact hr) hg).trans (congrArg finish (if_pos ?_) : _ = finish (.hold _))
  simpa using hf

theorem issuesAt_wake_array : IssuesAt (.wake h .array) s ((s.setMe (s.me.swapIn h)).wakeArray (coreOf s.cur)) :=
  exec_mSyllable (ds := fun _ => []) (k := fun t => .ok ((s.setMe t).wakeArray (coreOf (s.setMe t).cur))) (by unfold exec; rfl) (by exact hr) hg

theorem issues_wake_vbank (k : BitVec 3) : Issues (.wake h (.vbank k)) s (((s.me.swapIn h).wakeBank k.toNat).touch (4 * k.toNat)) := by
  have hx := exec_mSyllable (i := .wake h (.vbank k)) (ds := fun _ => [])
    (k := fun t => .ok ((s.setMe t).setMe ((t.wakeBank k.toNat).touch (4 * k.toNat)))) (by unfold exec; rfl) (by exact hr) hg
  rw [State.setMe_setMe] at hx
  exact hx

theorem issuesAt_wake_spbank (k : BitVec 5) : IssuesAt (.wake h (.spbank k)) s
    (if (s.spmask s.cur).getLsbD k.toNat then (s.setMe (s.me.swapIn h)).wakeSp (coreOf s.cur) k.toNat else s.setMe (s.me.swapIn h)) := by
  have hx := exec_mSyllable (i := .wake h (.spbank k)) (ds := fun _ => [])
    (k := fun t => .ok (if ((s.setMe t).spmask s.cur).getLsbD k.toNat then (s.setMe t).wakeSp (coreOf s.cur) k.toNat else s.setMe t))
    (by unfold exec; rfl) (by exact hr) hg
  have hk : (s.me.swapIn h).kernel = s.me.kernel := by
    rw [swapIn_eq]
  rw [spmask_setMe hk] at hx
  exact hx

end Ready

/-- What `qflush` comes to behind its guard (R175). -/
def qflushStep (s : State) (e : BitVec 4) (gd : GReg) (t : Strand) : Res :=
  let ds := (t.queue e.toNat).filter (fun c => c.st == .waiting)
  .ok (s.setMe ((t.discardCmds ds).fly (.g gd.toNat) (.s { val := (ds.head?.map (fun c => c.tag)).getD 0, poison := false }) 0 4 true))

theorem exec_qflush (e : BitVec 4) (gd : GReg) : exec (.qflush h e gd) s = mSyllable s h (fun _ => [.g gd.toNat]) (qflushStep s e gd) := by
  unfold exec
  rfl

end Forms

/-- Settles O38. -/
theorem tokenClockAndWakeForms : Obligations.TokenClockAndWakeForms := by
  intro s h t
  refine ⟨fun e he => ⟨entersQueue_twait he, entersQueue_tsig he⟩, fun d => ⟨entersQueue_bare (by unfold exec; rfl) trivial,
    entersQueue_bare (by unfold exec; rfl) trivial⟩, fun hg => ⟨fun hr hk => ⟨fun hw ht => ?_, fun hw ht => holdsAt_twait hr hg hk hw ht,
      fun hw ht => ⟨issues_tsig hr hg hk hw ht, pushTk_tk hw⟩, fun hw ht => holdsAt_tsig hr hg hk hw ht⟩, fun e gd hr => ?_,
      fun d hr => ⟨fun hf => issues_clkdiv hr hg hf, fun hf => holdsAt_clkdiv hr hg hf⟩,
      fun hr => ⟨issuesAt_wake_array hr hg, fun k => issues_wake_vbank hr hg k, fun k => issuesAt_wake_spbank hr hg k⟩⟩⟩
  · rw [← takeTk_eq hw]
    exact issues_twait hr hg hk hw ht
  · exact exec_mSyllable (exec_qflush e gd) (by exact hr) hg

end Sys2Proof.Machine
end

section
/-! PROOFS. Layout fields, patterns, the state of a port and rewinds at issue (R158 to R172, O39). -/

namespace Sys2Proof.Machine

section Forms
variable {s : State} {g : Guard}

/-! Layouts and patterns. -/

/-- What `lset` comes to. -/
def lsetStep (s : State) (k : LayNo) (f : BitVec 5) (v : LSrc) (t : Strand) : Res :=
  if (t.lsrc v).poison then trapIf s 0x1A 0
  else match (vAt t.r.lay k.toNat).put f.toNat (t.lsrc v).val with
    | some l => .ok (s.setMe { t with r := { t.r with lay := vSet t.r.lay k.toNat l } })
    | none => trapIf s 0x03 0

theorem exec_lset (k : LayNo) (f : BitVec 5) (v : LSrc) : exec (.lset g k f v) s = syllable s false g (fun _ => lsrcReg v) (lsetStep s k f v) := by
  unfold exec
  rfl

/-- What `pset` of a pattern comes to. -/
def psetStep (s : State) (q : Opnd) (f : BitVec 5) (v : LSrc) (t : Strand) : Res :=
  if (vAt t.e.ports (portNo q)).rew.isSome then .hold s
  else if (t.lsrc v).poison then trapIf s 0x1A 0
  else match (vAt t.r.prog (portNo q)).put f.toNat (t.lsrc v).val.toNat with
    | some p => .ok (s.setMe { t with r := { t.r with prog := vSet t.r.prog (portNo q) p } })
    | none => trapIf s 0x03 0

theorem exec_pset (q : Opnd) (f : BitVec 5) (v : LSrc) :
    exec (.psetPattern g q f v) s = syllable s false g (fun _ => lsrcReg v) (psetStep s q f v) := by
  unfold exec
  rfl

/-! The state of a port. -/

/-- What `qstat` sends of a port at rest. -/
def statusOf (t : Strand) (k : Nat) (w : BitVec 2) : Word :=
  match w.toNat with
  | 0 => ((vAt t.e.ports k).pos k).1
  | 1 => ((vAt t.e.ports k).pos k).2
  | _ => t.portStatus k

theorem statusOf_eq (t : Strand) (k : Nat) (w : BitVec 2) :
    statusOf t k w = if w = 0 then ((vAt t.e.ports k).pos k).1 else if w = 1 then ((vAt t.e.ports k).pos k).2 else t.portStatus k := by
  obtain ⟨w, hw⟩ := w
  match w, hw with
  | 0, _ => rfl
  | 1, _ => rfl
  | 2, _ => rfl
  | 3, _ => rfl

/-- What `qstat` comes to. -/
def qstatStep (s : State) (g : Guard) (gd : GReg) (q : Opnd) (w : BitVec 2) (t : Strand) : Res :=
  if (vAt t.e.ports (portNo q)).rew.isSome then .hold s
  else outward s t (portNo q) (sendG s t gd (statusOf t (portNo q) w) (t.p g.p).poison 4)

theorem exec_qstat (gd : GReg) (q : Opnd) (w : BitVec 2) : exec (.qstat g gd q w) s = syllable s false g (fun _ => [.g gd.toNat]) (qstatStep s g gd q w) := by
  unfold exec
  rfl

/-- What `qrew` comes to, no failure of its port's stream to be raised (R172). -/
def rewound (s : State) (q : Opnd) (ga gb : GReg) (t : Strand) : Res :=
  let p := vAt t.e.ports (portNo q)
  let w := ((t.g ga).val, (t.g gb).val)
  if (t.g ga).poison || (t.g gb).poison then trapIf s 0x1A 0
  else if !p.captured || !p.posOk (portNo q) w then trapIf s 0x03 0
  else
    let rest := (t.e.cmds.filter (fun c => c.st == .stopped)).map (fun c => c.id)
    .ok ((s.publish (.strand s.cur) s.fresh).setMe (t.setPort (portNo q) { p with rew := some w, resume := rest, fork := s.fresh }))

def qrewStep (s : State) (q : Opnd) (ga gb : GReg) (t : Strand) : Res :=
  if (vAt t.e.ports (portNo q)).rew.isSome then .hold s else outward s t (portNo q) (rewound s q ga gb t)

theorem exec_qrew (q : Opnd) (ga gb : GReg) : exec (.qrew g q ga gb) s = syllable s false g (fun _ => [.g ga.toNat, .g gb.toNat]) (qrewStep s q ga gb) := by
  unfold exec
  rfl

/-- A failure of an outbound stream that nothing has raised yet is raised (R168). -/
theorem outward_raises {t : Strand} {k : Nat} {f : PFault} {r : Res} (hf : (vAt t.e.ports k).fault = some f) (hi : inbound k = false)
    (ht : f.told = false) : outward s t k r = pushTrap s k ((vAt t.e.ports k).faultTrap k f) := by
  unfold outward
  dsimp only
  rw [hf]
  exact if_neg (by simp [hi, ht])

end Forms

/-- Settles O39. -/
theorem layoutAndPortForms : Obligations.LayoutAndPortForms := by
  intro s g t
  refine ⟨fun k f v l h hp hput => ?_, fun k f v h hp hput => ?_, fun gd k f h => ?_, fun q f v p h hw hp hput => ?_, fun q f v h hw hp hput => ?_,
    fun q hw => ⟨fun f v h => ?_, fun gd w h => ?_, fun ga gb h => ?_⟩, fun q f => ?_, fun gd q w h hw hc => ?_, fun q ga gb h hpa hpb => ?_⟩
  · refine issues_of_ready (exec_lset k f v) (by exact h) ?_
    rw [lsetStep, if_neg (by simp [show (s.me.lsrc v).poison = false from hp]), show (vAt s.me.r.lay k.toNat).put _ _ = _ from hput]
  · refine traps_of_ready (exec_lset k f v) (by exact h) ?_
    rw [lsetStep, if_neg (by simp [show (s.me.lsrc v).poison = false from hp]), show (vAt s.me.r.lay k.toNat).put _ _ = _ from hput]
    rfl
  · exact sendsG_of_ready (by unfold exec; rfl) (by exact h) rfl
  · refine issues_of_ready (exec_pset q f v) (by exact h) ?_
    rw [psetStep, if_neg (by simp [show (vAt s.me.e.ports (portNo q)).rew = none from hw]), if_neg (by simp [show (s.me.lsrc v).poison = false from hp]),
      show (vAt s.me.r.prog (portNo q)).put _ _ = _ from hput]
    rfl
  · refine traps_of_ready (exec_pset q f v) (by exact h) ?_
    rw [psetStep, if_neg (by simp [show (vAt s.me.e.ports (portNo q)).rew = none from hw]), if_neg (by simp [show (s.me.lsrc v).poison = false from hp]),
      show (vAt s.me.r.prog (portNo q)).put _ _ = _ from hput]
    rfl
  · exact holdsAt_of_ready (exec_pset q f v) (by exact h) (if_pos hw)
  · exact holdsAt_of_ready (exec_qstat gd q w) (by exact h) (if_pos hw)
  · exact holdsAt_of_ready (exec_qrew q ga gb) (by exact h) (if_pos hw)
  · intro k p hw hf hi ht u
    have hr : ∀ r, outward s s.me (portNo q) r = pushTrap s (portNo q) ((vAt s.me.e.ports (portNo q)).faultTrap (portNo q) f) := fun r =>
      outward_raises hf hi ht
    have hnone : (vAt s.me.e.ports (portNo q)).rew.isSome = false := by
      rw [show (vAt s.me.e.ports (portNo q)).rew = none from hw]
      rfl
    refine ⟨fun gd w h => ?_, fun ga gb h => ?_⟩
    · refine (exec_of_ready (exec_qstat gd q w) (.inl rfl) (by exact h)).trans (congrArg finish ?_ : _ = finish (.trap _ _))
      exact (if_neg (by simp [hnone])).trans (hr _)
    · refine (exec_of_ready (exec_qrew q ga gb) (.inl rfl) (by exact h)).trans (congrArg finish ?_ : _ = finish (.trap _ _))
      exact (if_neg (by simp [hnone])).trans (hr _)
  · have hx : SendsG (.qstat g gd q w) s gd (statusOf s.me (portNo q) w) (gp s g) 4 := by
      refine sendsG_of_ready (exec_qstat gd q w) (by exact h) ?_
      exact (if_neg (by simp [show (vAt s.me.e.ports (portNo q)).rew = none from hw])).trans (outward_calm hc)
    rw [statusOf_eq] at hx
    exact hx
  · intro p hw hc hcap hpos rest
    refine issuesAt_of_ready (exec_qrew q ga gb) (by exact h) ?_
    refine (if_neg (by simp [show (vAt s.me.e.ports (portNo q)).rew = none from hw])).trans ((outward_calm hc).trans ?_)
    rw [rewound]
    dsimp only
    rw [if_neg (by simp [show (s.me.g ga).poison = false from hpa, show (s.me.g gb).poison = false from hpb]),
      if_neg (by simp [show (vAt s.me.e.ports (portNo q)).captured = true from hcap,
        show (vAt s.me.e.ports (portNo q)).posOk (portNo q) ((s.me.g ga).val, (s.me.g gb).val) = true from hpos])]
    rfl

end Sys2Proof.Machine
end

section
/-! PROOFS. Ring forms (R205 to R209, O40). -/

namespace Sys2Proof.Machine

section Rings
variable {s : State} {g : Guard} {i : Instr} {k : BitVec 5} {ds : List Dst} {f : Strand → Ring → Res}

/-- A form on a configured ring of the allotment. -/
theorem exec_of_ringForm (hi : exec i s = ringForm s g k ds f) (h : Ready s g ds) (ho : s.ringOk k.toNat = true) (hn : (s.ring k.toNat).ns ≠ 0) :
    exec i s = finish (f s.me (s.ring k.toNat)) := by
  have hi' : exec i s = syllable s false g (fun _ => ds) (fun t =>
      if !s.ringOk k.toNat then trapIf s 0x40 0 else if (s.ring k.toNat).ns == 0 then trapIf s 0x03 0 else f t (s.ring k.toNat)) := hi
  refine (exec_of_ready hi' (.inl rfl) h).trans (congrArg finish ?_)
  rw [if_neg (by simp [ho]), if_neg (by simp [hn])]

/-- The slot of a publication or a release. -/
def slotStep (s : State) (ga : GReg) (frm : Ring → BitVec 16) (upTo : Ring → BitVec 16) (marks : Ring → BitVec 256)
    (done : Ring → Nat → State) (t : Strand) (r : Ring) : Res :=
  if (t.g ga).poison then trapIf s 0x1A 0
  else match r.slotAt (t.g ga).val (frm r) with
    | none => trapIf s 0x03 0
    | some (i, d) =>
      if (upTo r - frm r).toNat ≤ d || (marks r).getLsbD i then trapIf s 0x03 0
      else if !s.released (.strand s.cur) .co then .hold s
      else .ok (done r i)

theorem exec_rpub (ga : GReg) : exec (.rpub g ⟨k, ga⟩) s = ringForm s g k [.g ga.toNat] (slotStep s ga Ring.r Ring.t Ring.pub (fun r i =>
    ((s.publish (.strand s.cur) s.fresh).setRing k.toNat (r.publish i)).ringEvent (coreOf s.cur) 1)) := by
  unfold exec
  rfl

theorem exec_rrel (ga : GReg) : exec (.rrel g ⟨k, ga⟩) s = ringForm s g k [.g ga.toNat] (slotStep s ga Ring.h Ring.k Ring.rel (fun r i =>
    (s.publish (.strand s.cur) s.fresh).setRing k.toNat (r.free i))) := by
  unfold exec
  rfl

/-- A slot that may be published or released: it is, once the strand's earlier accesses are performed, and the bundle holds before. -/
theorem exec_slotStep {ga : GReg} {frm upTo : Ring → BitVec 16} {marks : Ring → BitVec 256} {done : Ring → Nat → State} {n d : Nat}
    (hi : exec i s = ringForm s g k [.g ga.toNat] (slotStep s ga frm upTo marks done)) (h : Ready s g [.g ga.toNat]) (ho : s.ringOk k.toNat = true)
    (hn : (s.ring k.toNat).ns ≠ 0) (hp : (s.me.g ga).poison = false)
    (hs : (s.ring k.toNat).slotAt (s.me.g ga).val (frm (s.ring k.toNat)) = some (n, d))
    (hd : d < (upTo (s.ring k.toNat) - frm (s.ring k.toNat)).toNat) (hm : (marks (s.ring k.toNat)).getLsbD n = false) :
    (s.released (.strand s.cur) .co = true → IssuesAt i s (done (s.ring k.toNat) n)) ∧
    (s.released (.strand s.cur) .co = false → HoldsAt i s s) := by
  have hx := exec_of_ringForm hi h ho hn
  rw [slotStep, if_neg (by simp [hp]), hs] at hx
  dsimp only at hx
  rw [if_neg (by rw [decide_eq_false (Nat.not_le.mpr hd), hm]; exact Bool.false_ne_true)] at hx
  refine ⟨fun hr => hx.trans (congrArg finish (if_neg ?_)), fun hr => hx.trans (congrArg finish (if_pos ?_))⟩
  · simp [hr]
  · simp [hr]

end Rings

/-- Settles O40. -/
theorem ringForms : Obligations.RingForms := by
  intro s g k t r sends slot ho
  refine ⟨fun ga gb sb o h ha hb hown hal hn hlen => ?_, fun gd w h => ?_, fun hns => ⟨fun gd h => ⟨fun hf => ?_, fun hf => ?_,
    fun hk => ?_,
    fun hk => ?_, fun hf => ?_, fun hf => ?_⟩, fun ga i d h ha => ⟨fun hs hd hm => ?_, fun hs hd hm => ?_⟩⟩⟩
  · refine issuesAt_of_ready (by unfold exec; rfl) (by exact h) ?_
    have hcount : ringCount (s.me.g gb).val.toNat = true := List.contains_iff_mem.mpr hn
    dsimp only
    rw [if_neg (by simp [show (s.me.g ga).poison = false from ha, show (s.me.g gb).poison = false from hb]), if_neg (by simp [ho]),
      show ownOffset s.cur (s.me.g ga).val = some o from hown]
    exact if_neg (by simpa [hal, hcount] using hlen)
  · refine issuesAt_of_ready (by unfold exec; rfl) (by exact h) ?_
    exact if_neg (by simp [ho])
  · exact (exec_of_ringForm (by unfold exec; rfl) h ho hns).trans (congrArg finish (if_neg (Bool.eq_false_iff.mp hf)))
  · exact (exec_of_ringForm (by unfold exec; rfl) h ho hns).trans (congrArg finish (if_pos hf))
  · exact (exec_of_ringForm (by unfold exec; rfl) h ho hns).trans (congrArg finish (if_neg (mt beq_iff_eq.mp hk)))
  · exact (exec_of_ringForm (by unfold exec; rfl) h ho hns).trans (congrArg finish (if_pos (beq_iff_eq.mpr hk)))
  · exact (exec_of_ringForm (by unfold exec; rfl) h ho hns).trans (congrArg finish (if_neg (Bool.eq_false_iff.mp hf)))
  · exact (exec_of_ringForm (by unfold exec; rfl) h ho hns).trans (congrArg finish (if_pos hf))
  · exact exec_slotStep (exec_rpub ga) h ho hns ha hs hd hm
  · exact exec_slotStep (exec_rrel ga) h ho hns ha hs hd hm

end Sys2Proof.Machine
end

section
/-! PROOFS. Barrier forms (R210 to R215, O41). -/

namespace Sys2Proof.Machine

/-! What an arrival leaves of the strands: their registers and the names of them. -/

/-- Every strand of u has the registers it has in s, under the same names. -/
def Named (s u : State) : Prop :=
  u.cur = s.cur ∧ ∀ n, (u.strand n).r = (s.strand n).r ∧ (u.strand n).sys.rot = (s.strand n).sys.rot

theorem Named.refl (s : State) : Named s s := ⟨rfl, fun _ => ⟨rfl, rfl⟩⟩

theorem Named.trans {s u v : State} (h : Named s u) (h' : Named u v) : Named s v :=
  ⟨h'.1.trans h.1, fun n => ⟨(h'.2 n).1.trans (h.2 n).1, (h'.2 n).2.trans (h.2 n).2⟩⟩

theorem Named.gp {s u : State} (h : Named s u) (g : Guard) : gp u g = gp s g := by
  obtain ⟨hc, hn⟩ := h
  rw [Machine.gp, Machine.gp, Strand.p, Strand.p, State.me, State.me, hc, (hn s.cur).1, (hn s.cur).2]

theorem gp_setMe {s : State} {t : Strand} {g : Guard} (hr : t.r = s.me.r) (hn : t.sys.rot = s.me.sys.rot) : gp (s.setMe t) g = gp s g := by
  rw [Machine.gp, Machine.gp, State.me_setMe, Strand.p, Strand.p, hr, hn]

theorem named_modStrand (s : State) (n : Nat) {f : Strand → Strand} (hf : ∀ t, (f t).r = t.r ∧ (f t).sys.rot = t.sys.rot) :
    Named s (s.modStrand n f) := by
  refine ⟨rfl, fun k => ?_⟩
  by_cases hk : k = n
  · subst hk
    rw [State.strand_modStrand]
    exact hf _
  · rw [State.strand_modStrand_other s n k f hk]
    exact ⟨rfl, rfl⟩

theorem named_ringEvent (s : State) (c b : Nat) : Named s (s.ringEvent c b) :=
  (named_modStrand s (2 * c) (f := fun t => t.setEvt b) (fun _ => ⟨rfl, rfl⟩)).trans
    (named_modStrand _ (2 * c + 1) (f := fun t => t.setEvt b) (fun _ => ⟨rfl, rfl⟩))

theorem named_flip (s : State) (c k : Nat) : Named s (s.flip c k) :=
  named_ringEvent (s.setBar c k _) c 2

theorem named_forward (s : State) (c k : Nat) (b : Barrier) : Named s (s.forward c k b) := by
  unfold State.forward
  dsimp only
  split <;> exact Named.refl s

theorem named_settleBar (c k n : Nat) : ∀ s : State, Named s (s.settleBar c k n) := by
  induction n with
  | zero => exact Named.refl
  | succ n ih =>
    intro s
    rw [State.settleBar]
    split
    · exact Named.refl s
    · split
      · exact named_forward _ c k _
      · exact (named_flip s c k).trans (ih _)

theorem named_arriveAt (s : State) (c k d : Nat) : Named s (s.arriveAt c k d) := named_settleBar c k 257 _

/-! The forms. -/

section Forms
variable {s u : State} {g : Guard} {i : Instr} {k : BitVec 7} {ga gd : GReg} {ds : List Dst} {f : Barrier → BitVec 16 → Res}

/-- What a form with an unpoisoned operand does: it traps outside the allotment and on a barrier not configured. -/
theorem exec_of_barForm (hi : exec i s = barForm s g k ga ds f) (h : Ready s g (.g ga.toNat :: ds)) (ha : (s.me.g ga).poison = false) :
    exec i s = finish (if !s.barOk k.toNat then trapIf s 0x40 0 else
      if ((s.core (coreOf s.cur)).bar k.toNat).c == 0 then trapIf s 0x03 0
      else f ((s.core (coreOf s.cur)).bar k.toNat) ((s.me.g ga).val.extractLsb' 0 16)) := by
  have hi' : exec i s = syllable s false g (fun _ => .g ga.toNat :: ds) (fun t =>
      if (t.g ga).poison then trapIf s 0x1A 0
      else if !s.barOk k.toNat then trapIf s 0x40 0
      else if ((s.core (coreOf s.cur)).bar k.toNat).c == 0 then trapIf s 0x03 0
        else f ((s.core (coreOf s.cur)).bar k.toNat) ((t.g ga).val.extractLsb' 0 16)) := hi
  exact (exec_of_ready hi' (.inl rfl) h).trans (congrArg finish (if_neg (by simp [ha])))

theorem barForm_outside (hi : exec i s = barForm s g k ga ds f) (h : Ready s g (.g ga.toNat :: ds)) (ha : (s.me.g ga).poison = false)
    (ho : s.barOk k.toNat = false) : Traps i s { cause := 0x40 } :=
  (exec_of_barForm hi h ha).trans (congrArg finish (if_pos (by rw [ho]; rfl)))

theorem exec_of_barForm_mine (hi : exec i s = barForm s g k ga ds f) (h : Ready s g (.g ga.toNat :: ds)) (ha : (s.me.g ga).poison = false)
    (ho : s.barOk k.toNat = true) :
    exec i s = finish (if ((s.core (coreOf s.cur)).bar k.toNat).c == 0 then trapIf s 0x03 0
      else f ((s.core (coreOf s.cur)).bar k.toNat) ((s.me.g ga).val.extractLsb' 0 16)) :=
  (exec_of_barForm hi h ha).trans (congrArg finish (if_neg (by rw [ho]; exact Bool.false_ne_true)))

theorem barForm_idle (hi : exec i s = barForm s g k ga ds f) (h : Ready s g (.g ga.toNat :: ds)) (ha : (s.me.g ga).poison = false)
    (ho : s.barOk k.toNat = true) (hc : ((s.core (coreOf s.cur)).bar k.toNat).c = 0) : Traps i s { cause := 0x03 } :=
  (exec_of_barForm_mine hi h ha ho).trans (congrArg finish (if_pos (beq_iff_eq.mpr hc)))

theorem exec_of_barForm_set (hi : exec i s = barForm s g k ga ds f) (h : Ready s g (.g ga.toNat :: ds)) (ha : (s.me.g ga).poison = false)
    (ho : s.barOk k.toNat = true) (hc : ((s.core (coreOf s.cur)).bar k.toNat).c ≠ 0) :
    exec i s = finish (f ((s.core (coreOf s.cur)).bar k.toNat) ((s.me.g ga).val.extractLsb' 0 16)) :=
  (exec_of_barForm_mine hi h ha ho).trans (congrArg finish (if_neg (mt beq_iff_eq.mp hc)))

/-- The machine once a wait for q on barrier b is over: the count sent, the stale flag raised where it is late. -/
def waitedOn (u : State) (gd : GReg) (poison : Bool) (b : Barrier) (q : BitVec 16) : State :=
  u.setMe ((if (b.ph - 1 - q).toNat = 0 then u.me else u.me.raise fStale).fly (.g gd.toNat)
    (.s { val := BitVec.ofNat 64 (min (b.ph - 1 - q).toNat 255), poison := poison }) 0 2 true)

theorem waitOn_early {b : Barrier} {q : BitVec 16} (h : (q - b.ph).toNat < 2 ^ 15) : waitOn u g gd b q = .hold u := if_pos h

theorem waitOn_over {b : Barrier} {q : BitVec 16} (h : 2 ^ 15 ≤ (q - b.ph).toNat) (hg : gp u g = gp s g) :
    waitOn u g gd b q = .ok (waitedOn u gd (gp s g) b q) := by
  rw [← hg]
  refine (if_neg (Nat.not_lt.mpr h)).trans ?_
  dsimp only
  unfold waitedOn
  by_cases he : (b.ph - 1 - q).toNat = 0
  · rw [if_pos (beq_iff_eq.mpr he), if_pos he]
    rfl
  · rw [if_neg (mt beq_iff_eq.mp he), if_neg he, sendBack]
    simp only [State.me_setMe, State.setMe_setMe]
    rfl

/-- The strand's barrier latch cleared. -/
def unlatch (u : State) : State := u.setMe { u.me with sys := { u.me.sys with barl := 0 } }

/-- The wait of a `barw`: `sys.barl` is cleared as it is over. -/
def waitBarw (c : Nat) (k : BitVec 7) (g : Guard) (gd : GReg) (q : BitVec 16) (u : State) : Res :=
  match waitOn u g gd ((u.core c).bar k.toNat) q with
  | .ok u => .ok (unlatch u)
  | r => r

theorem exec_barw (sc : Scope) : exec (.barw g sc gd k ga) s = barForm s g k ga [.g gd.toNat] (fun b q =>
    if s.me.sys.barl == barLatch k q then waitBarw (coreOf s.cur) k g gd q s
    else if (q - b.ph).toNat < 2 ^ 15 then
      if b.a.toNat < (q - b.ph).toNat || !s.released (.strand s.cur) sc then .hold s
      else waitBarw (coreOf s.cur) k g gd q (((s.setMe { s.me with sys := { s.me.sys with barl := barLatch k q } }).publish
        (.strand s.cur) s.fresh).arriveAt (coreOf s.cur) k.toNat (q - b.ph).toNat)
    else waitBarw (coreOf s.cur) k g gd q (s.setMe (s.me.raise fStale))) := by
  unfold exec
  rfl

/-- A `barw` that waits for q with the machine at u. -/
theorem waits_of_waitBarw {c : Nat} {q : BitVec 16} (hx : exec i s = finish (waitBarw c k g gd q u)) (hg : gp u g = gp s g) :
    ((q - ((u.core c).bar k.toNat).ph).toNat < 2 ^ 15 → HoldsAt i s u) ∧
    (2 ^ 15 ≤ (q - ((u.core c).bar k.toNat).ph).toNat → IssuesAt i s
      (unlatch (waitedOn u gd (gp s g) ((u.core c).bar k.toNat) q))) := by
  refine ⟨fun h => hx.trans (congrArg finish ?_ : _ = finish (.hold u)), fun h => hx.trans (congrArg finish ?_ : _ = finish (.ok _))⟩
  · rw [waitBarw, waitOn_early h]
  · rw [waitBarw, waitOn_over h hg]

/-- What holds an arrival back: it is too far ahead, or the strand's accesses are not performed. -/
theorem early_iff {n d : Nat} {r : Bool} : (decide (n < d) || !r) = true ↔ n < d ∨ r = false := by
  cases r <;> simp

theorem not_early {n d : Nat} {r : Bool} (h : d ≤ n) (hr : r = true) : ¬(n < d ∨ r = false) :=
  fun hc => hc.elim (Nat.not_lt.mpr h) fun hf => Bool.false_ne_true (hf.symm.trans hr)

end Forms

/-- What R211 asks of the operands of `bset`. -/
theorem bset_legal {x y : Word} (hc : x.extractLsb' 0 16 ≠ 0) (hx : x &&& ~~~0x0000FFFF00FFFFFF = 0) (hy : y &&& ~~~0x8000FFFF0000FF7F = 0)
    (hroot : wbit y 63 = true ∨ y = 0) (hcore : wbits y 15 8 ≤ 143) (hpkg : wbits y 47 32 < 0x1000 ∨ wbits y 47 32 = 0xFFFF) :
    (x.extractLsb' 0 16 == 0 || x &&& ~~~0x0000FFFF00FFFFFF != 0 || y &&& ~~~0x8000FFFF0000FF7F != 0 || (!wbit y 63 && y != 0) ||
      decide (143 < parentCore y) || (decide (0x1000 ≤ (parentPkg y).toNat) && decide ((parentPkg y).toNat < 0xFFFF))) = false := by
  have hpk : (parentPkg y).toNat = wbits y 47 32 := by
    simp [parentPkg, wbits, bits, Nat.shiftRight_eq_div_pow]
  rw [hpk, beq_eq_false_iff_ne.mpr hc, bne_eq_false_iff_eq.mpr hx, bne_eq_false_iff_eq.mpr hy,
    decide_eq_false (Nat.not_lt.mpr (show parentCore y ≤ 143 from hcore))]
  have hr : (!wbit y 63 && y != 0) = false := by
    rcases hroot with h | h <;> simp [h]
  have hp : (decide (0x1000 ≤ wbits y 47 32) && decide (wbits y 47 32 < 0xFFFF)) = false := by
    simp only [Bool.and_eq_false_iff, decide_eq_false_iff_not]
    omega
  rw [hr, hp]
  rfl

/-! A root barrier. -/

theorem core_setBar (s : State) (c k : Nat) (b : Barrier) : ((s.setBar c k b).core c).bar k = b := by
  rw [State.setBar, State.core_modCore, Core.bar]
  exact congrArg (·.getD Barrier.reset) (tget_tput_self _ _ _)

theorem settleBar_still {s : State} {c k n : Nat} {b : Barrier} (hb : (s.core c).bar k = b) (h : b.count 0 < b.c.toNat) :
    s.settleBar c k n = s := by
  cases n with
  | zero => rfl
  | succ n => exact if_pos (by rw [hb]; simp [h])

theorem bar_ringEvent (s : State) (c b c' k : Nat) : ((s.ringEvent c b).core c').bar k = (s.core c').bar k := rfl

/-- A root whose present phase is complete flips. -/
theorem settleBar_root {s : State} {c k n : Nat} {b : Barrier} (hb : (s.core c).bar k = b) (hc : b.count 0 = b.c.toNat) (h0 : 0 < b.c.toNat)
    (hu : b.up = false) (hp : wbit b.parent 63 = false) : s.settleBar c k (n + 1) = (s.flip c k).settleBar c k n := by
  have hne : b.c ≠ 0 := fun h => by rw [h] at h0; exact Nat.lt_irrefl 0 h0
  rw [State.settleBar, hb]
  rw [if_neg (by rw [beq_eq_false_iff_ne.mpr hne, hu, hc]; simp), if_neg (by rw [hp]; exact Bool.false_ne_true)]

theorem bar_flip {s : State} {c k : Nat} {b : Barrier} (hb : (s.core c).bar k = b) : ((s.flip c k).core c).bar k =
    { b with
      ph := b.ph + 1, up := false
      counts := (b.counts.filter (fun e => e.1 != 0)).map (fun e => (e.1 - 1, e.2))
      kids := b.kids.filter (fun x => x.2.2 != b.ph) } := by
  subst hb
  exact core_setBar s c k _

/-- A root's barrier after its flip, with nothing counted but the phase that is complete and no child that waits. -/
theorem bar_flip_root {s : State} {c k m : Nat} {b : Barrier} (hb : (s.core c).bar k = { b with counts := [(0, m)] }) (hu : b.up = false)
    (hk : b.kids = []) : ((s.flip c k).core c).bar k = { b with ph := b.ph + 1, counts := [] } := by
  rw [bar_flip hb]
  obtain ⟨_, _, _, _, _, up, kids⟩ := b
  cases (show up = false from hu)
  cases (show kids = [] from hk)
  rfl

theorem count_arrived (b : Barrier) (d n : Nat) : Barrier.count { b with counts := tput b.counts d n } d = n :=
  congrArg (·.getD 0) (tget_tput_self _ _ _)

/-- The counts of a root for which nothing is counted but its present phase. -/
theorem counts_arrived {b : Barrier} (h : b.counts = [] ∨ b.counts = [(0, b.count 0)]) (n : Nat) : tput b.counts 0 n = [(0, n)] := by
  rcases h with h | h <;> rw [h] <;> rfl

/-- Settles O41. -/
theorem barrierForms : Obligations.BarrierForms := by
  refine ⟨fun s g k => ?_, fun s c k hu => ⟨fun h => ?_, fun h hp hcs hk => ?_⟩⟩
  · intro t c b q waited unlatched waits
    refine ⟨fun ho => ⟨fun ga gb h ha hb => ?_, fun sc ga h ha => ?_, fun sc gd ga h ha => ⟨?_, ?_⟩, fun gd w h => ?_⟩,
      fun ho => ⟨fun ga gb h ha hb hx hx0 hy0 hroot hcore hpkg => ?_, fun gd w h hw => ?_, fun gd w h hw => ?_,
        fun sc gd ga h h' ha hc => ⟨?_, ?_, ?_⟩, fun hc => ⟨fun sc ga h ha => ?_, fun sc gd ga h ha => ?_⟩⟩⟩
    · refine traps_of_ready (by unfold exec; rfl) (by exact h) ?_
      dsimp only
      rw [if_neg (by simp [show (s.me.g ga).poison = false from ha, show (s.me.g gb).poison = false from hb]), if_pos (by rw [ho]; rfl)]
      rfl
    · exact barForm_outside (by unfold exec; rfl) h ha ho
    · exact barForm_outside (by unfold exec; rfl) h ha ho
    · exact barForm_outside (exec_barw sc) h ha ho
    · exact traps_of_ready (by unfold exec; rfl) (by exact h) (if_pos ((Bool.not_eq_true' _).mpr ho))
    · refine issuesAt_of_ready (by unfold exec; rfl) (by exact h) ?_
      dsimp only
      rw [if_neg (by simp [show (s.me.g ga).poison = false from ha, show (s.me.g gb).poison = false from hb]),
        if_neg (by rw [ho]; exact Bool.false_ne_true)]
      exact if_neg (Bool.eq_false_iff.mp (bset_legal hx hx0 hy0 hroot hcore hpkg))
    · refine sendsG_of_ready (by unfold exec; rfl) (by exact h) ?_
      dsimp only
      rw [if_neg (by rw [ho]; exact Bool.false_ne_true), if_neg (mt beq_iff_eq.mp hw)]
      rfl
    · refine sendsG_of_ready (by unfold exec; rfl) (by exact h) ?_
      dsimp only
      rw [if_neg (by rw [ho]; exact Bool.false_ne_true), if_pos (beq_iff_eq.mpr hw)]
      have hup : b2n b.up * 2 ^ 63 = if b.up then 2 ^ 63 else 0 := by cases b.up <;> rfl
      rw [← hup]
      rfl
    · exact barForm_idle (by unfold exec; rfl) h' ha ho hc
    · exact barForm_idle (by unfold exec; rfl) h ha ho hc
    · exact barForm_idle (exec_barw sc) h ha ho hc
    · have hx := exec_of_barForm_set (i := .barr g sc k ga) (ds := []) (by unfold exec; rfl) h ha ho hc
      refine ⟨fun hd hl hr => hx.trans (congrArg finish ?_ : _ = finish (.ok _)),
        fun hd hl => hx.trans (congrArg finish ?_ : _ = finish (.hold s)), fun hd => hx.trans (congrArg finish ?_ : _ = finish (.ok _))⟩
      · exact (if_pos hd).trans (if_neg (mt early_iff.mp (not_early hl hr)))
      · exact (if_pos hd).trans (if_pos (early_iff.mpr hl))
      · exact if_neg (Nat.not_lt.mpr hd)
    · have hx := exec_of_barForm_set (i := .bwait g sc gd k ga) (ds := [.g gd.toNat]) (by unfold exec; rfl) h ha ho hc
      have hw := exec_of_barForm_set (exec_barw sc) h ha ho hc
      refine ⟨fun hd => hx.trans (congrArg finish (waitOn_over hd rfl)), fun hd => hx.trans (congrArg finish (waitOn_early hd)),
        fun hl => ?_,
        fun hl => ⟨fun hd he => ?_, fun hd he hr => ?_, fun hd => ?_⟩⟩
      · exact waits_of_waitBarw (hw.trans (congrArg finish (if_pos (beq_iff_eq.mpr hl)))) rfl
      · exact hw.trans (congrArg finish ((if_neg (mt beq_iff_eq.mp hl)).trans ((if_pos hd).trans (if_pos (early_iff.mpr he)))))
      · refine waits_of_waitBarw (hw.trans (congrArg finish ((if_neg (mt beq_iff_eq.mp hl)).trans ((if_pos hd).trans
          (if_neg (mt early_iff.mp (not_early he hr))))))) ?_
        exact ((named_arriveAt _ _ _ _).gp g).trans (gp_setMe (t := { s.me with sys := _ }) rfl rfl)
      · refine waits_of_waitBarw (hw.trans (congrArg finish ((if_neg (mt beq_iff_eq.mp hl)).trans (if_neg (Nat.not_lt.mpr hd))))) ?_
        exact gp_setMe rfl rfl
  · rw [State.arriveAt, settleBar_still (core_setBar s c k _) (by simpa [count_arrived] using h)]
    exact core_setBar s c k _
  · have hb := core_setBar s c k { (s.core c).bar k with counts := tput ((s.core c).bar k).counts 0 (((s.core c).bar k).count 0 + 1) }
    have hf := bar_flip_root (hb.trans (by rw [counts_arrived hcs])) hu hk
    have h0 : 0 < ((s.core c).bar k).c.toNat := by rw [← h]; exact Nat.succ_pos _
    rw [State.arriveAt, settleBar_root hb ((count_arrived _ 0 _).trans h) h0 hu hp, settleBar_still hf (by exact h0)]
    exact ⟨hf, rfl⟩

end Sys2Proof.Machine
end

section
/-! PROOFS. Near-memory literals, stack, arithmetic and control words (R239 to R241, O42). -/

namespace Sys2Proof.Machine

section Words
variable {s s1 : State} {l : NLaunch} {i : Instr} {pops pushes n : Nat} {k : Nmu → NLaunch → NmRes} {push : List SReg}

/-- A word that acts, the next word in sequence. -/
theorem nm_goes (hi : exec i s = nmWord s pops pushes n k) (h : NmReady s l pops pushes) (hk : k (s.nmu s.unit) l = .go s1 push none) :
    NmDoes i s s1 pops push (((s.nmu s.unit).pc : Int) + (n : Nat)) := by
  obtain ⟨hrun, hpop, hpush⟩ := h
  intro h0 h1
  exact ⟨_, hi.trans (nmWord_go hrun hpop hpush hk (by exact h0) (by exact h1)), nmAfter_frame s s1 pops push _⟩

/-- A word that acts, the next word at an address. -/
theorem nm_jumps {a : Int} (hi : exec i s = nmWord s pops pushes n k) (h : NmReady s l pops pushes)
    (hk : k (s.nmu s.unit) l = .go s1 push (some a)) : NmDoes i s s1 pops push a := by
  obtain ⟨hrun, hpop, hpush⟩ := h
  intro h0 h1
  exact ⟨_, hi.trans (nmWord_go hrun hpop hpush hk (by exact h0) (by exact h1)), nmAfter_frame s s1 pops push _⟩

theorem nm_stops {r d : Nat} {va : Word} (hi : exec i s = nmWord s pops pushes n k) (h : NmReady s l pops pushes)
    (hk : k (s.nmu s.unit) l = .stop s1 r d va) :
    exec i s = .next (s1.stopUnit s.unit r (s.nmu s.unit).pc ((s.nmu s.unit).wordAt (s.nmu s.unit).pc) d va) := by
  obtain ⟨hrun, hpop, hpush⟩ := h
  exact hi.trans (nmWord_stop hrun hpop hpush hk)

theorem nm_holds (hi : exec i s = nmWord s pops pushes n k) (h : NmReady s l pops pushes) (hk : k (s.nmu s.unit) l = .hold s1) :
    exec i s = .next s1 := by
  obtain ⟨hrun, hpop, hpush⟩ := h
  exact hi.trans (nmWord_hold hrun hpop hpush hk)

/-- A word that finds an entry too few. -/
theorem nm_underflow (hi : exec i s = nmWord s pops pushes n k) (hrun : (s.nmu s.unit).run = some l)
    (h : (s.nmu s.unit).stack.length < pops) :
    exec i s = .next (s.stopUnit s.unit 3 (s.nmu s.unit).pc ((s.nmu s.unit).wordAt (s.nmu s.unit).pc) 0 0) := by
  rw [hi, nmWord]
  simp only [hrun]
  exact if_pos h

/-- A word that leaves an entry too many. -/
theorem nm_overflow (hi : exec i s = nmWord s pops pushes n k) (hrun : (s.nmu s.unit).run = some l)
    (hp : pops ≤ (s.nmu s.unit).stack.length) (h : 8 < (s.nmu s.unit).stack.length - pops + pushes) :
    exec i s = .next (s.stopUnit s.unit 2 (s.nmu s.unit).pc ((s.nmu s.unit).wordAt (s.nmu s.unit).pc) 0 0) := by
  rw [hi, nmWord]
  simp only [hrun]
  exact (if_neg (Nat.not_lt.2 hp)).trans (if_pos h)

/-- A word that goes to an address outside the word store. -/
theorem nmWord_astray {a : Int} (h : NmReady s l pops pushes) (hk : k (s.nmu s.unit) l = .go s1 push (some a)) (ha : a < 0 ∨ 8191 < a) :
    nmWord s pops pushes n k = .next ((s1.modNmu s.unit (fun x =>
      { x with stack := push ++ (s.nmu s.unit).stack.drop pops, wait := none, got := none })).stopUnit s.unit 6 (s.nmu s.unit).pc
        ((s.nmu s.unit).wordAt (s.nmu s.unit).pc) 0 0) := by
  obtain ⟨hrun, hpop, hpush⟩ := h
  unfold nmWord
  simp only [hrun, hk]
  rw [if_neg (Nat.not_lt.2 hpop), if_neg (Nat.not_lt.2 hpush), if_pos (by simpa using ha)]

/-- A word of two entries. -/
theorem nm_two {f : Word → Word → Word} (hi : exec i s = nmBin s f) (h : NmReady s l 2 1) :
    NmDoes i s s 2
      [{ val := f ((s.nmu s.unit).top 1).val ((s.nmu s.unit).top 0).val
         poison := ((s.nmu s.unit).top 1).poison || ((s.nmu s.unit).top 0).poison }] (((s.nmu s.unit).pc : Int) + (1 : Nat)) := by
  rw [Bool.or_comm]
  exact nm_goes hi h rfl

/-- A word of an entry and an immediate. -/
theorem nm_one {f : Word → Word → Word} {v : BitVec 9} (hi : exec i s = nmImm s v f) (h : NmReady s l 1 1) :
    NmDoes i s s 1 [{ val := f ((s.nmu s.unit).top 0).val (v.zeroExtend 64), poison := ((s.nmu s.unit).top 0).poison }]
      (((s.nmu s.unit).pc : Int) + (1 : Nat)) :=
  nm_goes hi h rfl

end Words

theorem exec_litx {s : State} (n : BitVec 2) (x : Bool) (v : Word) : exec (.litx n x v) s = nmWord s 0 1 (n.toNat + 2) (fun _ _ =>
    .go s [ent (if x then wrap 64 (signed (16 * (n.toNat + 1)) (v.toNat % 2 ^ (16 * (n.toNat + 1)))) else v.toNat % 2 ^ (16 * (n.toNat + 1)))
      false] none) := by
  unfold exec
  rfl

theorem litx_signed (w x : Nat) : BitVec.ofNat 64 (wrap 64 (signed w (x % 2 ^ w))) = BitVec.ofInt 64 (signed w x) := by
  rw [signed, signed, Nat.mod_mod]
  apply BitVec.eq_of_toNat_eq
  rw [BitVec.toNat_ofNat, BitVec.toNat_ofInt, wrap]
  exact Nat.mod_eq_of_lt (by omega)

theorem litx_value (x : Bool) (w y : Nat) : BitVec.ofNat 64 (if x then wrap 64 (signed w (y % 2 ^ w)) else y % 2 ^ w) =
    if x then BitVec.ofInt 64 (signed w y) else BitVec.ofNat 64 (y % 2 ^ w) := by
  cases x
  · rfl
  · exact litx_signed w y

theorem exec_nmJmp {s : State} (d : BitVec 10) :
    exec (.nmJmp d) s = nmWord s 0 0 1 (fun m _ => .go s [] (some ((m.pc : Int) + d.toInt))) := by
  unfold exec
  rfl

theorem nmShift_eq (x y : Word) : nmShift x y = if 64 ≤ y.toNat % 256 then 0 else x <<< (y.toNat % 256) := rfl

theorem toNat_zeroExtend9 (v : BitVec 9) : (v.zeroExtend 64).toNat = v.toNat := by
  simp
  omega

/-- Settles O42. -/
theorem stackAndControlWords : Obligations.StackAndControlWords := by
  intro s l m a b here goes two one shl looped stops
  have hb (hp : b.poison = false) : ¬((s.nmu s.unit).top 0).poison = true := Bool.eq_false_iff.mp hp
  refine ⟨fun v h => ?_, fun n x v h => ?_, fun h => ?_, fun h => ?_, fun h => ?_, fun h => ?_, fun h => ?_, fun h => ?_, fun h => ?_,
    fun h => ?_,
    fun v => ⟨fun h => ?_, fun h => ?_, fun h => ?_, fun h => ?_⟩,
    fun d h hp => ⟨fun hn hl hd => ?_, fun hn hd => ?_, fun hn hl => ?_, fun hn => ?_, fun hn => ?_⟩,
    fun c x r h hl => ⟨fun hc => ?_, fun hc => ?_⟩, fun h hl => ?_, fun d h => ⟨?_, fun hd => ?_⟩, fun c h => ?_, fun h => ?_,
    fun hr hs => ⟨?_, ?_⟩, fun hr hs => ⟨?_, ?_⟩⟩
  · exact nm_goes (by unfold exec; rfl) (by exact h) rfl
  · rw [← litx_value]
    exact nm_goes (exec_litx n x v) (by exact h) rfl
  · exact nm_goes (by unfold exec; rfl) (by exact h) rfl
  · exact nm_goes (by unfold exec; rfl) (by exact h) rfl
  · exact nm_goes (by unfold exec; rfl) (by exact h) rfl
  · exact nm_goes (by unfold exec; rfl) (by exact h) rfl
  · exact nm_two (f := fun a b => a + b) (by unfold exec; rfl) h
  · exact nm_two (f := fun a b => a - b) (by unfold exec; rfl) h
  · exact nm_two (f := fun a b => a &&& b) (by unfold exec; rfl) h
  · have hd := nm_two (i := .nmShl) (f := nmShift) (by unfold exec; rfl) h
    rw [nmShift_eq] at hd
    exact hd
  · exact nm_one (f := fun a b => a + b) (by unfold exec; rfl) h
  · exact nm_one (f := fun a b => a - b) (by unfold exec; rfl) h
  · exact nm_one (f := fun a b => a &&& b) (by unfold exec; rfl) h
  · have hd := nm_one (i := .nmShlImm v) (f := nmShift) (by unfold exec; rfl) h
    rw [nmShift_eq, toNat_zeroExtend9] at hd
    exact hd
  · refine nm_goes (by unfold exec; rfl) h ?_
    dsimp only
    rw [if_neg (by rw [decide_eq_false (Nat.not_le.mpr hl), Bool.and_false]; exact Bool.false_ne_true), if_neg (hb hp),
      if_neg (Nat.not_lt.mpr hd), if_neg (mt beq_iff_eq.mp hn)]
  · refine nm_jumps (by unfold exec; rfl) h ?_
    dsimp only
    rw [if_neg (by rw [show (s.nmu s.unit).top 0 = b from rfl, hn]; exact Bool.false_ne_true), if_neg (hb hp), if_neg (Nat.not_lt.mpr hd),
      if_pos (beq_iff_eq.mpr hn)]
    rfl
  · refine nm_stops (by unfold exec; rfl) h (if_pos ?_)
    rw [decide_eq_true hl, Bool.and_true]
    exact bne_iff_ne.mpr hn
  · refine nm_jumps (by unfold exec; rfl) h ((if_neg (hb hp)).trans ?_)
    rw [if_neg (mt beq_iff_eq.mp hn)]
  · refine nm_goes (by unfold exec; rfl) h ((if_neg (hb hp)).trans ?_)
    rw [if_pos (beq_iff_eq.mpr hn)]
  · refine nm_goes (by unfold exec; rfl) h ?_
    rw [show (s.nmu s.unit).loops = _ from hl, hc]
    rfl
  · refine nm_jumps (by unfold exec; rfl) h ?_
    rw [show (s.nmu s.unit).loops = _ from hl]
    exact if_neg (mt beq_iff_eq.mp (fun h => hc ((BitVec.sub_eq_iff_eq_add.mp h).trans (BitVec.zero_add _))))
  · refine nm_stops (by unfold exec; rfl) h ?_
    rw [show (s.nmu s.unit).loops = [] from hl]
  · exact nm_jumps (by unfold exec; rfl) h rfl
  · exact (exec_nmJmp d).trans (nmWord_astray (s1 := s) (push := []) h rfl hd)
  · exact nm_stops (by unfold exec; rfl) h rfl
  · exact nm_goes (by unfold exec; rfl) (by exact h) rfl
  · exact nm_underflow (i := .dup) (by unfold exec; rfl) hr (by rw [show (s.nmu s.unit).stack = [] from hs]; exact Nat.one_pos)
  · exact nm_underflow (i := .nmAdd) (by unfold exec execNmAdd nmBin; rfl) hr (by rw [show (s.nmu s.unit).stack = [] from hs]; exact Nat.two_pos)
  · exact nm_overflow (i := .lit 0) (by unfold exec; rfl) hr (Nat.zero_le _) (by rw [show (s.nmu s.unit).stack.length = 8 from hs]; decide)
  · have h8 : (s.nmu s.unit).stack.length = 8 := hs
    exact nm_overflow (i := .dup) (by unfold exec; rfl) hr (by rw [h8]; decide) (by rw [h8]; decide)

end Sys2Proof.Machine
end

section
/-! PROOFS. Near-memory memory, buffer, claim and order words (R242 to R244, R247, R249, R250, R253, O43). -/

namespace Sys2Proof.Machine

/-! What the parts of a word's meaning come to. -/

theorem nmChecked_ok {r : State × NmChk} {s : State} {gs : List Seg} {k : State → List Seg → NmRes} (h : r = (s, .ok gs)) :
    nmChecked r k = k s gs := by
  rw [h]
  rfl

theorem nmAwait_start {m : Nmu} {s : State} {start : NmRes} {done : Mem → List Nat → NmRes} (h : m.wait = none) :
    nmAwait m s start done = start := by
  rw [nmAwait, h]

theorem nmAwait_done {m : Nmu} {s : State} {start : NmRes} {done : Mem → List Nat → NmRes} {d : Mem} {bad : List Nat} (h : m.wait = some 0)
    (hg : m.got = some (d, bad)) : nmAwait m s start done = done d bad := by
  rw [nmAwait, h, hg]
  rfl

/-- A product of the unit that runs and uses the span: the word waits. -/
theorem nmSpan_wait {m : Nmu} {s : State} {o n : Nat} {k : NmRes} {v : Mve} (hv : m.mve = some v)
    (hm : ∃ e ∈ v.vecs ++ v.results, meets (o, n) e = true) : nmSpan m s o n k = .hold s := by
  rw [nmSpan, hv]
  exact if_pos (List.any_eq_true.mpr hm)

theorem any_meets_false {o n : Nat} {l : List (Nat × Nat)} (h : ∀ e ∈ l, meets (o, n) e = false) : ¬ l.any (meets (o, n)) = true :=
  fun hc => by
    obtain ⟨e, he, hm⟩ := List.any_eq_true.mp hc
    exact Bool.false_ne_true ((h e he).symm.trans hm)

theorem nmSpan_free {m : Nmu} {s : State} {o n : Nat} {k : NmRes} (h : spanFree m o n) : nmSpan m s o n k = k := by
  obtain ⟨hrun, hstop⟩ := h
  rw [nmSpan]
  match hm : m.mve, hf : m.mveFault with
  | some v, _ => exact if_neg (any_meets_false (hrun v hm))
  | none, some (r, va, v) => exact if_neg (any_meets_false (hstop r va v hm hf))
  | none, none => rfl

section Moves
variable {s : State} {l : NLaunch} {k : Nmu → NLaunch → Word → Nat → Nat → NmRes}

/-- The operands of `vin` and `vout` as R243 asks for them: an address, an offset and a count of bytes, multiples of 4. -/
def MoveOk (m : Nmu) : Prop :=
  (m.top 2).poison = false ∧ (m.top 1).poison = false ∧ (m.top 0).poison = false ∧
  (m.top 2).val.toNat % 4 = 0 ∧ (m.top 1).val.toNat % 4 = 0 ∧ (m.top 0).val.toNat % 4 = 0 ∧ 4 ≤ (m.top 0).val.toNat ∧
  (m.top 0).val.toNat ≤ 65536 ∧ (m.top 1).val.toNat + (m.top 0).val.toNat ≤ 0x10000

theorem moveOk_clear {m : Nmu} (h : MoveOk m) : ¬((m.top 2).poison || (m.top 1).poison || (m.top 0).poison) = true := by
  obtain ⟨hx, ho, hn, -⟩ := h
  rw [hx, ho, hn]
  exact Bool.false_ne_true

theorem moveOk_inside {m : Nmu} (h : MoveOk m) : ¬((m.top 2).val.toNat % 4 != 0 || (m.top 1).val.toNat % 4 != 0 ||
    (m.top 0).val.toNat % 4 != 0 || decide ((m.top 0).val.toNat < 4) || decide (65536 < (m.top 0).val.toNat) ||
    decide (0x10000 < (m.top 1).val.toNat + (m.top 0).val.toNat)) = true := by
  obtain ⟨-, -, -, hx, ho, hn, h4, hmax, hend⟩ := h
  rw [hx, ho, hn, decide_eq_false (Nat.not_lt.mpr h4), decide_eq_false (Nat.not_lt.mpr hmax), decide_eq_false (Nat.not_lt.mpr hend)]
  exact Bool.false_ne_true

/-- What `vin` and `vout` have in common. -/
def moveStep (s : State) (k : Nmu → NLaunch → Word → Nat → Nat → NmRes) (m : Nmu) (l : NLaunch) : NmRes :=
  if (m.top 2).poison || (m.top 1).poison || (m.top 0).poison then .stop s 0x0F 0 (m.top 2).val
  else if (m.top 2).val.toNat % 4 != 0 || (m.top 1).val.toNat % 4 != 0 || (m.top 0).val.toNat % 4 != 0 ||
      (m.top 0).val.toNat < 4 || 65536 < (m.top 0).val.toNat || 0x10000 < (m.top 1).val.toNat + (m.top 0).val.toNat then .stop s 0x08 0 0
  else nmSpan m s (m.top 1).val.toNat (m.top 0).val.toNat (k m l (m.top 2).val (m.top 1).val.toNat (m.top 0).val.toNat)

theorem moveStep_legal {m : Nmu} (hm : MoveOk m) : moveStep s k m l =
    nmSpan m s (m.top 1).val.toNat (m.top 0).val.toNat (k m l (m.top 2).val (m.top 1).val.toNat (m.top 0).val.toNat) :=
  (if_neg (moveOk_clear hm)).trans (if_neg (moveOk_inside hm))

theorem moveStep_free {m : Nmu} (hm : MoveOk m) (hf : spanFree m (m.top 1).val.toNat (m.top 0).val.toNat) : moveStep s k m l =
    k m l (m.top 2).val (m.top 1).val.toNat (m.top 0).val.toNat :=
  (moveStep_legal hm).trans (nmSpan_free hf)

/-- `vin` on a span that no product uses. -/
def vinStep (s : State) (m : Nmu) (l : NLaunch) (a : Word) (off n : Nat) : NmRes :=
  nmAwait m s
    (nmChecked (s.nmWordCheck l { r := true } a n) (fun s gs =>
      .hold (s.nmAsk (cutAll 64 gs).length ((cutAll 64 gs).map (fun g => nmReq s (.load g.off) g l true)))))
    (fun d bad => .go (s.modNmu s.unit (fun x => x.putBuf off (dense d n) bad)) [] none)

/-- The store of a line of the buffer. -/
def lineReq (s : State) (m : Nmu) (l : NLaunch) (off : Nat) (g : Seg) : Req :=
  nmReq s (.store (readBytes m.vbuf (off + g.off) g.len) (List.replicate g.len 0)) g l false

/-- `vout` on a span that no product uses. -/
def voutStep (s : State) (m : Nmu) (l : NLaunch) (a : Word) (off n : Nat) : NmRes :=
  match m.badLine a off n with
  | some va =>
    if m.wait.isSome then
      if s.net.any (fun r => r.src == .nmu s.unit && !r.done) then .hold s else .stop s 0x0F 0 va
    else nmChecked (s.nmWordCheck l { w := true } a n) (fun s gs =>
      .hold (s.nmAsk 0 (((cutAll 64 gs).filter (fun g => g.va.toNat < va.toNat)).map (lineReq s m l off))))
  | none => nmChecked (s.nmWordCheck l { w := true } a n) (fun s gs => .go (s.sendAll ((cutAll 64 gs).map (lineReq s m l off))) [] none)

theorem exec_vin : exec .vin s = nmWord s 3 0 1 (moveStep s (vinStep s)) := by
  unfold exec
  rfl

theorem exec_vout : exec .vout s = nmWord s 3 0 1 (moveStep s (voutStep s)) := by
  unfold exec
  rfl

end Moves

/-- As many answers are asked for as requests are sent. -/
theorem nmAsk_map (s : State) (gs : List Seg) (f : Seg → Req) : s.nmAsk (gs.map f).length (gs.map f) = s.nmAsk gs.length (gs.map f) := by
  rw [List.length_map]

theorem net_quiet_iff (s : State) (u : Nat) : (∀ r ∈ s.net, r.src = .nmu u → r.done = true) ↔
    s.net.any (fun r => r.src == .nmu u && !r.done) = false := by
  simp [List.any_eq_false]

theorem nmDone_iff (s : State) (u : Nat) : s.nmDone u = true ↔ (s.nmu u).mve = none ∧ ∀ r ∈ s.net, r.src = .nmu u → r.done = true := by
  simp [State.nmDone, List.all_eq_true, Decidable.imp_iff_not_or]

/-! Claims. -/

/-- A bank with this owner has been near-owned. -/
def nearOwned (o : Option Own) : Bool :=
  match o with
  | some .near | some (.main _) => true
  | _ => false

theorem nearOwned_iff (o : Option Own) : nearOwned o = true ↔ o = some .near ∨ ∃ ids, o = some (.main ids) := by
  rcases o with _ | (_ | _ | _ | _) <;> simp [nearOwned]

/-- The machine with the banks of the mask's groups claimed. -/
def claimed (s : State) (x : Word) : State :=
  (((maskBits 16 x.toNat).flatMap (groupBanks s.unit)).foldl (fun (t : State) k => (t.claimBank k).settleOwn k) s).modNmu s.unit
    (fun y => { y with claims := y.claims ||| x.setWidth 16 })

theorem exec_rowclaim {s : State} : exec .rowclaim s = nmWord s 1 0 1 (fun m _ =>
    if (m.top 0).poison then .stop s 0x0F 0 0
    else if 2 ^ 16 ≤ (m.top 0).val.toNat then .stop s 0x11 (m.top 0).val.toNat 0
    else if wbit (s.arb (s.unit / 16)) 0 then .go s [] none
    else if ((maskBits 16 (m.top 0).val.toNat).flatMap (groupBanks s.unit)).all (fun k => nearOwned (tget (claimed s (m.top 0).val).m.own k)) then
      .go (claimed s (m.top 0).val) [] none
    else .hold (claimed s (m.top 0).val)) := by
  unfold exec
  rfl

theorem all_nearOwned_iff (s : State) (ks : List Nat) : ks.all (fun k => nearOwned (tget s.m.own k)) = true ↔
    ∀ k ∈ ks, tget s.m.own k = some .near ∨ ∃ ids, tget s.m.own k = some (.main ids) := by
  simp only [List.all_eq_true, nearOwned_iff]

/-- Settles O43. -/
theorem memoryWords : Obligations.MemoryWords := by
  intro s s1 l gs z u m n x a b next stops asked loads passes
  have clear {y : SReg} (h : y.poison = false) : ¬y.poison = true := Bool.eq_false_iff.mp h
  have both {y w : SReg} (h : y.poison = false) (h' : w.poison = false) : ¬(y.poison || w.poison) = true := by
    rw [h, h']
    exact Bool.false_ne_true
  have whole {y k : Nat} (h : y % k = 0) : ¬(y % k != 0) = true := by
    rw [h]
    exact Bool.false_ne_true
  have idle (h : m.wait = none) : ¬(s.nmu s.unit).wait.isSome = true := by
    rw [show (s.nmu s.unit).wait = none from h]
    exact Bool.false_ne_true
  refine ⟨fun h => ⟨fun hb hn => ⟨fun hlt => ?_, fun hge => ?_, fun d bad hw hg => ?_, fun hw hp => ?_⟩, fun hb => ⟨?_, ?_⟩,
    fun hb hn => ?_⟩,
    fun h ha hb => ⟨fun hn hlt => ?_, fun hn hp => ?_, fun hn hp => ?_⟩,
    fun eq g w v bad h ha hb hn => ⟨fun hw hp => ⟨fun hst => ?_, fun hst => ?_⟩, fun hw hwt hsat hwk => ?_, fun hw hwt => ?_⟩,
    fun h hx ha hb hx4 ho4 hc4 h4 hmax hend => ⟨fun v hv hm => ⟨?_, ?_⟩, fun hf => ⟨fun d bad hw hg => ?_, fun hw hp => ?_,
      fun hl hp => ?_, fun va hl => ⟨fun hw hp => ?_, fun hw hd => ?_⟩⟩⟩,
    fun h hb hlt => ⟨fun harb => ?_, fun harb => ⟨fun ho => ?_, fun ho => ?_⟩, ?_⟩, fun h => ⟨fun hd => ?_, fun hd => ?_, ?_⟩⟩
  · refine nm_goes (by unfold exec; rfl) h ((if_neg (clear hb)).trans (if_neg ?_))
    rw [decide_eq_false (Nat.not_le.mpr hlt), Bool.false_or]
    exact whole hn
  · refine nm_stops (by unfold exec; rfl) h ((if_neg (clear hb)).trans (if_pos ?_))
    rw [decide_eq_true hge]
    rfl
  · exact nm_goes (by unfold exec; rfl) h ((if_neg (clear hb)).trans ((if_neg (whole hn)).trans (nmAwait_done hw hg)))
  · refine (nm_holds (by unfold exec; rfl) h ((if_neg (clear hb)).trans ((if_neg (whole hn)).trans ((nmAwait_start hw).trans
      (nmChecked_ok hp))))).trans ?_
    exact congrArg Host.Outcome.next (nmAsk_map s1 _ _).symm
  · exact nm_stops (by unfold exec; rfl) h (if_pos hb)
  · exact nm_stops (by unfold exec; rfl) h (if_pos hb)
  · exact nm_stops (by unfold exec; rfl) h ((if_neg (clear hb)).trans (if_pos (bne_iff_ne.mpr hn)))
  · refine nm_goes (by unfold exec; rfl) h ((if_neg (both hb ha)).trans (if_neg ?_))
    rw [decide_eq_false (Nat.not_le.mpr hlt), Bool.false_or]
    exact whole hn
  · exact nm_goes (by unfold exec; rfl) h ((if_neg (both hb ha)).trans ((if_neg (whole hn)).trans (nmChecked_ok hp)))
  · exact nm_goes (by unfold exec; rfl) h ((if_neg (both ha hb)).trans ((if_neg (whole hn)).trans (nmChecked_ok hp)))
  · refine nm_holds (by unfold exec; rfl) h ((if_neg (both ha hb)).trans ((if_neg (whole hn)).trans ((if_neg (idle hw)).trans
      ((nmChecked_ok hp).trans (if_neg ?_)))))
    simpa using hst
  · refine nm_stops (by unfold exec; rfl) h ((if_neg (both ha hb)).trans ((if_neg (whole hn)).trans ((if_neg (idle hw)).trans
      ((nmChecked_ok hp).trans (if_pos ?_)))))
    simpa using hst
  · refine nm_goes (by unfold exec; rfl) h ((if_neg (both ha hb)).trans ((if_neg (whole hn)).trans ((if_pos hw).trans ?_)))
    rw [show s.waiterOf (.nmu s.unit) = some w from hwt, Option.map_some, hsat, hwk]
  · refine nm_holds (by unfold exec; rfl) h ((if_neg (both ha hb)).trans ((if_neg (whole hn)).trans ((if_pos hw).trans ?_)))
    rcases hwt with hwt | ⟨hwt, hwk⟩
    · rw [show s.waiterOf (.nmu s.unit) = none from hwt]
      rfl
    · rw [show s.waiterOf (.nmu s.unit) = some w from hwt, Option.map_some, hwk]
      rcases w.sat with _ | ⟨y, poisoned⟩ <;> rfl
  · exact nm_holds exec_vin h ((moveStep_legal ⟨hx, ha, hb, hx4, ho4, hc4, h4, hmax, hend⟩).trans (nmSpan_wait hv hm))
  · exact nm_holds exec_vout h ((moveStep_legal ⟨hx, ha, hb, hx4, ho4, hc4, h4, hmax, hend⟩).trans (nmSpan_wait hv hm))
  · exact nm_goes exec_vin h ((moveStep_free ⟨hx, ha, hb, hx4, ho4, hc4, h4, hmax, hend⟩ hf).trans (nmAwait_done hw hg))
  · refine (nm_holds exec_vin h ((moveStep_free ⟨hx, ha, hb, hx4, ho4, hc4, h4, hmax,
  hend⟩ hf).trans ((nmAwait_start hw).trans (nmChecked_ok hp)))).trans ?_
    exact congrArg Host.Outcome.next (nmAsk_map s1 _ _).symm
  · refine nm_goes exec_vout h ((moveStep_free ⟨hx, ha, hb, hx4, ho4, hc4, h4, hmax, hend⟩ hf).trans ?_)
    rw [voutStep, show (s.nmu s.unit).badLine _ _ _ = none from hl]
    exact nmChecked_ok hp
  · refine nm_holds exec_vout h ((moveStep_free ⟨hx, ha, hb, hx4, ho4, hc4, h4, hmax, hend⟩ hf).trans ?_)
    rw [voutStep, show (s.nmu s.unit).badLine _ _ _ = some va from hl]
    exact (if_neg (idle hw)).trans (nmChecked_ok hp)
  · refine nm_stops exec_vout h ((moveStep_free ⟨hx, ha, hb, hx4, ho4, hc4, h4, hmax, hend⟩ hf).trans ?_)
    rw [voutStep, show (s.nmu s.unit).badLine _ _ _ = some va from hl]
    exact (if_pos hw).trans (if_neg (Bool.eq_false_iff.mp ((net_quiet_iff s _).mp hd)))
  · exact nm_goes exec_rowclaim h ((if_neg (clear hb)).trans ((if_neg (Nat.not_le.mpr hlt)).trans (if_pos harb)))
  · exact nm_goes exec_rowclaim h ((if_neg (clear hb)).trans ((if_neg (Nat.not_le.mpr hlt)).trans
      ((if_neg (Bool.eq_false_iff.mp harb)).trans (if_pos ((all_nearOwned_iff _ _).mpr ho)))))
  · exact nm_holds exec_rowclaim h ((if_neg (clear hb)).trans ((if_neg (Nat.not_le.mpr hlt)).trans
      ((if_neg (Bool.eq_false_iff.mp harb)).trans (if_neg (mt (all_nearOwned_iff _ _).mp ho)))))
  · exact nm_goes (by unfold exec; rfl) h ((if_neg (clear hb)).trans (if_neg (Nat.not_le.mpr hlt)))
  · refine nm_goes (by unfold exec; rfl) h (if_pos hd)
  · refine nm_holds (by unfold exec; rfl) h (if_neg (Bool.eq_false_iff.mp hd))
  · exact nmDone_iff s s.unit

end Sys2Proof.Machine
end

section
/-! PROOFS. What the end of a near-memory kernel leaves of its unit (R237, R252). -/

namespace Sys2Proof.Machine

/-- What every step of a fold leaves as it is, the fold leaves as it is. -/
theorem foldl_keeps {α β : Type} (g : State → β) {f : State → α → State} (hf : ∀ s x, g (f s x) = g s) (l : List α) :
    ∀ s : State, g (l.foldl f s) = g s := by
  induction l with
  | nil => exact fun _ => rfl
  | cons x l ih => exact fun s => (ih (f s x)).trans (hf s x)

/-! Requests withdrawn leave all but the homes as they are. -/

/-- The machine but for its queues, its cores, its on-chip memory and the arbiters: what a request that leaves may let go on. -/
def State.offHomes (s : State) : State := { s with net := [], cores := [], chip := [], m := default }

theorem offHomes_applyDrops (c k : Nat) (ds : List (Nat × Nat × Bool × BitVec 32)) :
    ∀ s : State, (applyDrops c k ds s).offHomes = s.offHomes := by
  induction ds with
  | nil => exact fun _ => rfl
  | cons d ds ih =>
    obtain ⟨n, no, off, mask⟩ := d
    intro s
    rw [applyDrops]
    split
    · rfl
    · rw [ih]
      cases off <;> rfl

theorem offHomes_settleBank (s : State) (c k : Nat) : (s.settleBank c k).offHomes = s.offHomes := by
  unfold State.settleBank
  dsimp only
  split
  · rfl
  · exact offHomes_applyDrops c k _ s

theorem offHomes_settleOwn (s : State) (b : Nat) : (s.settleOwn b).offHomes = s.offHomes := by
  unfold State.settleOwn
  dsimp only
  split
  · split <;> rfl
  · split <;> rfl
  · rfl

theorem offHomes_settleAt (s : State) (sp : Space) (pa : Nat) : (s.settleAt sp pa).offHomes = s.offHomes := by
  unfold State.settleAt
  split
  · split
    · exact foldl_keeps State.offHomes (fun s k => offHomes_settleBank s _ k) _ s
    · rfl
  · split
    · rfl
    · split
      · exact offHomes_settleOwn s _
      · rfl
  · rfl

theorem offHomes_withdrawAll (s : State) (rs : List Req) : (s.withdrawAll rs).offHomes = s.offHomes :=
  foldl_keeps State.offHomes (f := fun s (r : Req) => (s.dropReq r.id).settleAt r.sp r.pa)
    (fun s r => offHomes_settleAt (s.dropReq r.id) r.sp r.pa) rs s

theorem nmus_withdrawAll (s : State) (rs : List Req) : (s.withdrawAll rs).nmus = s.nmus :=
  (congrArg State.nmus (offHomes_withdrawAll s rs) : (s.withdrawAll rs).offHomes.nmus = s.offHomes.nmus)

/-! What a kernel's end clears. -/

/-- m has what m0 has but in the vector buffer. -/
def BufOnly (m0 m : Nmu) : Prop := m = { m0 with vbuf := m.vbuf, vpoison := m.vpoison }

theorem bufOnly_putBuf {m0 m : Nmu} (h : BufOnly m0 m) (off : Nat) (bs : List Byte) (bad : List Nat) : BufOnly m0 (m.putBuf off bs bad) := by
  unfold BufOnly at *
  rw [h]
  rfl

/-- The open results of a stopped product change nothing of its unit but the buffer. -/
theorem bufOnly_mveLost (s : State) (u : Nat) (v : Mve) : BufOnly (s.nmu u) ((s.mveLost u v).nmu u) := by
  suffices h : ∀ (l : List (Nat × Nat)) (t : State), BufOnly (s.nmu u) (t.nmu u) →
      BufOnly (s.nmu u) ((l.foldl (fun (s : State) e => { s with fresh := s.fresh + e.2 }.modNmu u (fun m =>
        m.putBuf e.1 ((List.range e.2).map (fun i => Config.freeByte (s.fresh + i))) [])) t).nmu u) from h v.results s rfl
  intro l
  induction l with
  | nil => exact fun _ ht => ht
  | cons e l ih =>
    refine fun t ht => ih _ ?_
    rw [State.nmu_modNmu]
    exact bufOnly_putBuf ht _ _ _

/-- Nothing of m's kernel is left in m' but its faults. -/
def KernelGone (m m' : Nmu) : Prop :=
  m'.run = none ∧ m'.stack = [] ∧ m'.loops = [] ∧ m'.claims = 0 ∧ m'.mve = none ∧ m'.faults = m.faults

theorem claims_released (c : BitVec 16) : c &&& ~~~BitVec.ofNat 16 ((List.range 16).foldl (fun a g => a + 2 ^ g) 0) = 0 := by
  rw [show ~~~BitVec.ofNat 16 ((List.range 16).foldl (fun a g => a + 2 ^ g) 0) = 0 from by decide]
  exact BitVec.and_zero

theorem nmu_of_nmus {s t : State} (h : t.nmus = s.nmus) (u : Nat) : t.nmu u = s.nmu u := by
  rw [State.nmu, State.nmu, h]

/-- The machine once the unit's claims, waits and reads are dropped. -/
def detached (t : State) (u : Nat) : State :=
  (((t.release u (List.range 16)).dropWaiter (Who.nmu u)).forget (.nmu u)).forget (.mve u)

theorem nmu_detached (t : State) (u : Nat) : (detached t u).nmu u =
    { t.nmu u with claims := (t.nmu u).claims &&& ~~~BitVec.ofNat 16 ((List.range 16).foldl (fun a g => a + 2 ^ g) 0) } := by
  rw [show (detached t u).nmu u = (t.release u (List.range 16)).nmu u from rfl, State.release, State.nmu_modNmu]
  rfl

/-- The unit's state after its kernel. -/
def emptied (m : Nmu) : Nmu :=
  { m with run := none, stack := [], loops := [], mve := none, mveFault := none, wait := none, got := none, abort := false, flags := 0 }

theorem kernelGone_detached {s t : State} {u : Nat} (rs : List Req) (ht : (t.nmu u).faults = (s.nmu u).faults) :
    KernelGone (s.nmu u) ((((detached t u).withdrawAll rs).modNmu u emptied).nmu u) := by
  rw [State.nmu_modNmu, nmu_of_nmus (nmus_withdrawAll _ rs), nmu_detached]
  exact ⟨rfl, rfl, rfl, claims_released _, rfl, ht⟩

theorem kernelGone_clearUnit (s : State) (u : Nat) : KernelGone (s.nmu u) ((s.clearUnit u).nmu u) := by
  unfold State.clearUnit
  split
  case _ v _ =>
    refine kernelGone_detached _ ?_
    rw [bufOnly_mveLost s u v]
  case _ => exact kernelGone_detached (t := s) _ rfl

/-- The fault with which a kernel stops. -/
def faultOf (m : Nmu) (r pc : Nat) (w : NmWord) (d : Nat) (va : Word) : NmFault :=
  { reason := BitVec.ofNat 8 r, pc := pc, word := w, depth := m.stack.length, loops := m.loops.length, detail := BitVec.ofNat 48 d,
    va := nmTva r va }

section Stops
variable {s : State} {u r pc d : Nat} {w : NmWord} {va : Word} {l : NLaunch}

theorem nmu_stopUnit_command (hrun : (s.nmu u).run = some l) (hc : l.fromCmd.isSome = true) :
    (s.stopUnit u r pc w d va).nmu u =
      { (s.clearUnit u).nmu u with faults := ((s.clearUnit u).nmu u).faults ++ [(l, faultOf (s.nmu u) r pc w d va)] } := by
  obtain ⟨c, hc⟩ := Option.isSome_iff_exists.mp hc
  unfold State.stopUnit
  simp only [hrun, hc]
  exact State.nmu_modNmu _ u _

theorem nmu_stopUnit_kernel (hrun : (s.nmu u).run = some l) (hc : l.fromCmd.isSome = false) :
    (s.stopUnit u r pc w d va).nmu u = (s.clearUnit u).nmu u := by
  have hc := Option.not_isSome_iff_eq_none.mp (Bool.eq_false_iff.mp hc)
  unfold State.stopUnit
  simp only [hrun, hc]
  rfl

end Stops

end Sys2Proof.Machine
end

section
/-! PROOFS. Near-memory engine words; how a kernel begins and ends (R236, R237, R245 to R248, R252, R254, R288, R45, O44). -/

namespace Sys2Proof.Machine

/-! Reductions (R248). -/

section Reductions
variable {s : State} {l : NLaunch}

theorem nmHandle_ok {h : SReg} {b : Nat} {k : Nat → Nat → NmRes} (hh : h.val.toNat < 2 ^ 13)
    (ho : s.nmuOk (144 + s.unit) (h.val.toNat / 64 % 128) b = true) :
    nmHandle s h b k = k (h.val.toNat / 64 % 128) (h.val.toNat % 64) := by
  have ho' : s.nmuOk (144 + s.unit) (wbits h.val 12 6) b = true := ho
  refine (if_neg (Nat.not_le.mpr hh)).trans ((if_neg ?_).trans ?_)
  · rw [ho']
    exact Bool.false_ne_true
  · simp [wbits, bits]

/-- What `racc` and `rfin` have in common. -/
def elemsStep (s : State) (w top b : Nat) (k : Nmu → NLaunch → Nat → Nat → Nat → Nat → NmRes) (m : Nmu) (l : NLaunch) : NmRes :=
  if (m.top 2).poison || (m.top 1).poison || (m.top 0).poison then .stop s 0x0F 0 0
  else if 2 ^ 13 ≤ (m.top 2).val.toNat then .stop s 0x11 (m.top 2).val.toNat 0
  else if (m.top 0).val.toNat < 1 || top < (m.top 0).val.toNat then .stop s 0x11 (m.top 0).val.toNat 0
  else if (m.top 1).val.toNat % w != 0 || 0x10000 < (m.top 1).val.toNat + (m.top 0).val.toNat * w then .stop s 0x08 0 0
  else nmSpan m s (m.top 1).val.toNat ((m.top 0).val.toNat * w)
    (nmHandle s (m.top 2) b (fun v a => k m l v a (m.top 1).val.toNat (m.top 0).val.toNat))

/-- The operands of `racc` and `rfin` as R248 asks for them, elements of w bytes, at most top of them. -/
structure ElemsOk (m : Nmu) (w top : Nat) : Prop where
  clear : ∀ i, i < 3 → (m.top i).poison = false
  handle : (m.top 2).val.toNat < 2 ^ 13
  some : 1 ≤ (m.top 0).val.toNat
  most : (m.top 0).val.toNat ≤ top
  aligned : (m.top 1).val.toNat % w = 0
  inside : (m.top 1).val.toNat + (m.top 0).val.toNat * w ≤ 0x10000

theorem elemsStep_legal {m : Nmu} {w top b : Nat} {k : Nmu → NLaunch → Nat → Nat → Nat → Nat → NmRes} (hm : ElemsOk m w top)
    (hf : spanFree m (m.top 1).val.toNat ((m.top 0).val.toNat * w))
    (ho : s.nmuOk (144 + s.unit) ((m.top 2).val.toNat / 64 % 128) b = true) : elemsStep s w top b k m l =
      k m l ((m.top 2).val.toNat / 64 % 128) ((m.top 2).val.toNat % 64) (m.top 1).val.toNat (m.top 0).val.toNat := by
  obtain ⟨hclear, hh, h1, htop, hw, hend⟩ := hm
  have hp : ¬((m.top 2).poison || (m.top 1).poison || (m.top 0).poison) = true := by
    rw [hclear 2 (by decide), hclear 1 (by decide), hclear 0 (by decide)]
    exact Bool.false_ne_true
  have hc : ¬(decide ((m.top 0).val.toNat < 1) || decide (top < (m.top 0).val.toNat)) = true := by
    rw [decide_eq_false (Nat.not_lt.mpr h1), decide_eq_false (Nat.not_lt.mpr htop)]
    exact Bool.false_ne_true
  have ho' : ¬((m.top 1).val.toNat % w != 0 || decide (0x10000 < (m.top 1).val.toNat + (m.top 0).val.toNat * w)) = true := by
    rw [hw, decide_eq_false (Nat.not_lt.mpr hend)]
    exact Bool.false_ne_true
  exact (if_neg hp).trans ((if_neg (Nat.not_le.mpr hh)).trans ((if_neg hc).trans ((if_neg ho').trans ((nmSpan_free hf).trans (nmHandle_ok hh ho)))))

/-- A contribution of `racc`: the i-th element of the span. -/
def contribution (m : Nmu) (t : BitVec 2) (one : Bool) (w o c k i : Nat) : Nat × BitVec 32 × Nat × Bool :=
  (if one then k else (k + i) % 64, BitVec.ofNat 32 (readNat m.vbuf (o + w * i) w), t.toNat,
  (m.bufBad o (w * c)).any (fun j => j / w == i))

theorem buf_eq (m : Nmu) (o n : Nat) : m.buf o n = (List.range n).map (fun j => (memGet m.vbuf (o + j), (m.bufBad o n).contains j)) := by
  rw [Nmu.buf, readBytes, List.zip_map']

/-- Bytes o + w i to o + w i + w - 1 of the buffer, as the i-th chunk of a span from o on. -/
theorem chunk_buf (m : Nmu) {w o c i : Nat} (hi : i < c) : ((m.buf o (w * c)).drop (w * i)).take w =
    (List.range w).map (fun j => (memGet m.vbuf (o + w * i + j), (m.bufBad o (w * c)).contains (w * i + j))) := by
  have hle : w * i + w ≤ w * c := by
    calc w * i + w = w * (i + 1) := (Nat.mul_add_one w i).symm
      _ ≤ w * c := Nat.mul_le_mul_left w hi
  rw [buf_eq]
  refine List.ext_getElem (by simp; omega) fun j _ _ => ?_
  simp [Nat.add_assoc]

theorem any_chunk {bad : List Nat} {w i : Nat} (hw : 0 < w) : (List.range w).any (fun j => bad.contains (w * i + j)) = bad.any (fun j => j / w == i) := by
  rw [Bool.eq_iff_iff, List.any_eq_true, List.any_eq_true]
  constructor
  · rintro ⟨j, hj, hb⟩
    refine ⟨w * i + j, List.contains_iff_mem.mp hb, beq_iff_eq.mpr ?_⟩
    rw [Nat.mul_add_div hw, Nat.div_eq_of_lt (List.mem_range.mp hj), Nat.add_zero]
  · rintro ⟨j, hj, he⟩
    refine ⟨j % w, List.mem_range.mpr (Nat.mod_lt j hw), List.contains_iff_mem.mpr ?_⟩
    rw [← beq_iff_eq.mp he, Nat.div_add_mod]
    exact hj

theorem contributions_eq (m : Nmu) (t : BitVec 2) (one : Bool) {w : Nat} (o c k : Nat) (hw : 0 < w) :
    ((chunks w c (m.buf o (w * c))).zip (List.range c)).map (fun e =>
      (if one then k else (k + e.2) % 64, BitVec.ofNat 32 (ofBytes (e.1.map (fun b => b.1))), t.toNat, e.1.any (fun b => b.2))) =
    (List.range c).map (contribution m t one w o c k) := by
  refine List.ext_getElem (by simp [length_chunks]) fun i hi hi' => ?_
  have hc : i < c := by simpa using hi'
  have hch : (chunks w c (m.buf o (w * c)))[i]'(by rw [length_chunks]; exact hc) =
      (List.range w).map (fun j => (memGet m.vbuf (o + w * i + j), (m.bufBad o (w * c)).contains (w * i + j))) := by
    rw [← chunk_buf m hc, ← getD_chunks hc, getD_of_lt]
  simp only [List.getElem_map, List.getElem_zip, List.getElem_range, hch, List.map_map, List.any_map]
  rw [contribution, ← any_chunk hw]
  rfl

/-- What `racc` does with the elements of its span. -/
def raccStep (s : State) (t : BitVec 2) (one : Bool) (w : Nat) (m : Nmu) (l : NLaunch) (v a off n : Nat) : NmRes :=
  .go (s.sendAll [nmRed s (.redx (((chunks w n (m.buf off (w * n))).zip (List.range n)).map (fun e =>
    (if one then a else (a + e.2) % 64, BitVec.ofNat 32 (ofBytes (e.1.map (fun b => b.1))), t.toNat,
    e.1.any (fun b => b.2))))) l v a false]) [] none

theorem exec_racc (t : BitVec 2) (one : Bool) : exec (.racc t one) s =
    nmWord s 3 0 1 (elemsStep s (if t == 0 then 4 else 2) 16384 1 (raccStep s t one (if t == 0 then 4 else 2))) := by
  unfold exec
  rfl

/-- What `rfin` does with the elements of its span. -/
def rfinStep (s : State) (bf keep : Bool) (m : Nmu) (l : NLaunch) (v a off n : Nat) : NmRes :=
  nmAwait m s
    (.hold (s.nmAsk 1 [nmRed s (.rfin 0 n bf keep) l v a true]))
    (fun d bad => .go (s.modNmu s.unit (fun x => (List.range n).foldl (fun (x : Nmu) i =>
      x.putBuf (off + (if bf then 2 else 4) * i) (((dense d ((if bf then 2 else 4) * n)).drop ((if bf then 2 else 4) * i)).take (if bf then 2 else 4))
        ((bad.filter (fun j => j / (if bf then 2 else 4) == i)).map (fun j => j - (if bf then 2 else 4) * i))) x)) [] none)

theorem exec_rfin (bf keep : Bool) : exec (.rfin bf keep) s =
    nmWord s 3 0 1 (elemsStep s (if bf then 2 else 4) 64 (if keep then 0 else 1) (rfinStep s bf keep)) := by
  unfold exec
  rfl

end Reductions

/-! Words that report a stopped product or end the kernel. -/

section Ends
variable {s s1 : State} {l : NLaunch} {i : Instr} {pops pushes n : Nat} {k : Nmu → NLaunch → NmRes}

theorem nm_reports (hi : exec i s = nmWord s pops pushes n k) (h : NmReady s l pops pushes) (hk : k (s.nmu s.unit) l = .stopMve s1) :
    exec i s = .next (s1.reportMve s.unit) := by
  obtain ⟨hrun, hp, hq⟩ := h
  rw [hi, nmWord]
  simp only [hrun, hk]
  exact (if_neg (Nat.not_lt.2 hp)).trans (if_neg (Nat.not_lt.2 hq))

theorem nm_ends (hi : exec i s = nmWord s pops pushes n k) (h : NmReady s l pops pushes) (hk : k (s.nmu s.unit) l = .fin s1) :
    exec i s = .next (s1.endUnit s.unit) := by
  obtain ⟨hrun, hp, hq⟩ := h
  rw [hi, nmWord]
  simp only [hrun, hk]
  exact (if_neg (Nat.not_lt.2 hp)).trans (if_neg (Nat.not_lt.2 hq))

theorem reportMve_of_fault {u : Nat} {r : BitVec 8} {va : Word} {v : Mve} (hf : (s.nmu u).mveFault = some (r, va, v)) :
    s.reportMve u = s.stopUnit u r.toNat v.pc ((encodeNm (.mvx v.op)).headD 0) 0 va := by
  rw [State.reportMve, hf]

end Ends

/-! Reductions that open an accumulator. -/

/-- What `red` does. -/
def redStep (s : State) (m : Nmu) (l : NLaunch) : NmRes :=
  if (m.top 1).poison || (m.top 0).poison then .stop s 0x0F 0 0
  else if 2 ^ 13 ≤ (m.top 1).val.toNat then .stop s 0x11 (m.top 1).val.toNat 0
  else if (m.top 0).val.toInt < -256 || 255 < (m.top 0).val.toInt then .stop s 0x11 (m.top 0).val.toNat 0
  else nmHandle s (m.top 1) 1 (fun v k =>
    if m.wait.isNone then .hold (s.nmAsk 1 [nmRed s (.redfOpen (m.top 0).val.toInt) l v k true])
    else if s.net.any (fun r => r.src == .nmu s.unit && !r.op.posted) then .hold s
    else .go s [] none)

theorem exec_red {s : State} : exec .red s = nmWord s 2 0 1 (redStep s) := by
  unfold exec
  rfl

theorem redStep_legal {s : State} {m : Nmu} {l : NLaunch} (hs : ∀ i, i < 2 → (m.top i).poison = false) (hx : (m.top 1).val.toNat < 2 ^ 13)
    (h0 : -256 ≤ (m.top 0).val.toInt) (h1 : (m.top 0).val.toInt ≤ 255) (ho : s.nmuOk (144 + s.unit) ((m.top 1).val.toNat / 64 % 128) 1 = true) :
    redStep s m l =
      if m.wait.isNone then .hold (s.nmAsk 1 [nmRed s (.redfOpen (m.top 0).val.toInt) l ((m.top 1).val.toNat / 64 % 128)
        ((m.top 1).val.toNat % 64) true])
      else if s.net.any (fun r => r.src == .nmu s.unit && !r.op.posted) then .hold s
      else .go s [] none := by
  rw [redStep, if_neg (by rw [hs 1 (by decide), hs 0 (by decide)]; exact Bool.false_ne_true), if_neg (Nat.not_le.mpr hx),
    if_neg (by rw [decide_eq_false (Int.not_lt.mpr h0), decide_eq_false (Int.not_lt.mpr h1)]; exact Bool.false_ne_true), nmHandle_ok hx ho]

/-! Events of a unit. -/

/-- The accesses of the unit's words before the `mvx` of a product are performed. -/
theorem product_due {s : State} {u : Nat} {v : Mve} (h : ∀ r ∈ s.net, r.src = .nmu u → r.done = true ∨ v.fork ≤ r.id) :
    ¬s.net.any (fun r => r.src == .nmu u && !r.done && r.id < v.fork) = true := by
  rw [List.any_eq_true]
  rintro ⟨r, hr, hc⟩
  simp only [Bool.and_eq_true, beq_iff_eq, Bool.not_eq_true', decide_eq_true_eq] at hc
  obtain ⟨⟨hsrc, hdone⟩, hid⟩ := hc
  rcases h r hr hsrc with h | h
  · exact Bool.false_ne_true (hdone.symm.trans h)
  · exact absurd hid (Nat.not_lt.mpr h)

/-- What a product's next row comes to. -/
def rowStep (u : Nat) (v : Mve) : Weights → State
  | .ok t row => (t.modNmu u (fun y => { y.mveStep v v.done row with
      mve := if v.done + 1 < v.rows then some { v with done := v.done + 1 } else none })).forget (.mve u)
  | .wait t => t
  | .stop t r va => ((t.mveLost u v).modNmu u (fun y => { y with mve := none, mveFault := some (BitVec.ofNat 8 r, va, v) })).forget (.mve u)

theorem exec_product {s : State} {u : Nat} {v : Mve} {l : NLaunch} (hrun : (s.nmu u).run = some l) (hv : (s.nmu u).mve = some v)
    (hq : ∀ r ∈ s.net, r.src = .nmu u → r.done = true ∨ v.fork ≤ r.id) :
    exec (.mveProductEnd u) s = .next (rowStep u v (s.mveRow u l.asid v v.done)) := by
  unfold exec execMveProductEnd
  dsimp only
  rw [hv, hrun]
  dsimp only
  rw [if_neg (product_due hq)]
  cases s.mveRow u l.asid v v.done <;> rfl

theorem exec_launch {s : State} {u : Nat} {l : NLaunch} {q : List NLaunch} (hrun : (s.nmu u).run = none) (hq : (s.nmu u).queue = l :: q)
    (hc : l.code = none) : exec (.nmuLaunchAccept u) s = .next (s.beginUnit u { l with asid := s.launchAsid l } q) := by
  unfold exec execNmuLaunchAccept
  dsimp only
  rw [if_neg (by rw [hrun]; exact Bool.false_ne_true), hq]
  dsimp only
  rw [hc]
  rfl

/-- An abort of a unit that runs, at a word other than a `red` or `rfin` whose request has been performed. -/
theorem exec_abort {s : State} {u : Nat} {l : NLaunch} (hrun : (s.nmu u).run = some l) (ha : (s.nmu u).abort = true) (hr : s.redDone u = false) :
    exec (.nmuAbort u) s = .next
      (if (s.nmu u).wordAt (s.nmu u).pc == 0x7000 && (s.nmu u).mveFault.isNone && s.nmDone u then s.endUnit u
       else s.stopUnit u 0x13 (s.nmu u).pc ((s.nmu u).wordAt (s.nmu u).pc) 0 0) := by
  unfold exec execNmuAbort
  dsimp only
  rw [if_neg (by rw [hrun, ha, hr]; exact Bool.false_ne_true)]
  split <;> rfl

theorem exec_noWord {s : State} {u : Nat} {l : NLaunch} (hrun : (s.nmu u).run = some l) (hd : decodeNm (s.nmu u).nextWords = none) :
    exec (.illegalWord u) s = .next (s.stopUnit u
      (if ((s.nmu u).wordAt (s.nmu u).pc).toNat / 2 ^ 10 == 1 && bits ((s.nmu u).wordAt (s.nmu u).pc).toNat 9 3 == 0 then 6 else 1)
      (s.nmu u).pc ((s.nmu u).wordAt (s.nmu u).pc) 0 0) := by
  unfold exec execIllegalWord
  dsimp only
  rw [if_neg (by rw [hrun, hd]; exact Bool.false_ne_true)]
  rfl

/-- Settles O44. -/
theorem engineWordsAndKernelEnds : Obligations.EngineWordsAndKernelEnds := by
  intro s l u m h o c next calm sane red
  have no {α : Type} {y : Option α} (h : y = none) : ¬y.isSome = true := by
    rw [h]
    exact Bool.false_ne_true
  have clear {y : SReg} (h : y.poison = false) : ¬y.poison = true := Bool.eq_false_iff.mp h
  refine ⟨fun f hr hs hcalm hd8 hd hlim hin hapart => ?_, fun hr hcalm => ?_, fun hr hm => ?_, fun r va v hr hm hf => ?_,
    fun v t hrun hv hq => ⟨fun row hrow => ?_, fun hrow => ?_, fun r va hrow => ?_⟩,
    fun hr hs hx ha0 ha1 ho => ⟨fun hw => ?_, fun hw hq => ?_⟩,
    fun hr hs hh hc => ⟨fun t one hc' ho hend hf hg => ?_, fun bf keep hc' ho hend hf hg => ⟨fun hw => ?_, fun d bad hw hgot => ?_⟩⟩,
    fun hr hm hd => ?_, fun hr hd => ?_, fun q hrun hq hcode => ?_, fun hrun hab hred hw => ?_, fun hrun hab hred hw hm hd => ?_,
    fun hrun hdec => ⟨fun hx => ?_, fun hx => ?_⟩, fun r d w va hrun => ?_⟩
  · obtain ⟨hmve, hmf⟩ := hcalm
    refine nm_goes (by unfold exec; rfl) hr ?_
    dsimp only
    rw [if_neg (no hmve), if_neg (no hmf), if_neg (clear (hs 0 Nat.one_pos)), if_neg (by
      rw [show ((s.nmu s.unit).top 0).val.toNat % 8 = 0 from hd8, decide_eq_false (Nat.not_lt.mpr hd)]
      exact Bool.false_ne_true),
      show mveLimit _ = none from hlim]
    refine if_neg ?_
    rw [List.all_eq_true.mpr fun e he => decide_eq_true (hin e he), List.any_eq_false.mpr fun b hb => ?_]
    · exact Bool.false_ne_true
    · exact Bool.eq_false_iff.mp (List.any_eq_false.mpr fun a ha => Bool.eq_false_iff.mp (hapart a ha b hb))
  · obtain ⟨hmve, hmf⟩ := hcalm
    exact nm_goes (by unfold exec; rfl) hr ((if_neg (no hmve)).trans (if_neg (no hmf)))
  · exact nm_holds (by unfold exec; rfl) hr (if_pos hm)
  · refine (nm_reports (by unfold exec; rfl) hr ((if_neg (no hm)).trans (if_pos ?_))).trans ?_
    · rw [show (s.nmu s.unit).mveFault = _ from hf]
      rfl
    · rw [reportMve_of_fault hf]
  · rw [exec_product hrun hv hq, hrow]
    rfl
  · rw [exec_product hrun hv hq, hrow]
    rfl
  · rw [exec_product hrun hv hq, hrow]
    rfl
  · exact nm_holds exec_red hr ((redStep_legal hs hx ha0 ha1 ho).trans (if_pos (by rw [show (s.nmu s.unit).wait = none from hw]; rfl)))
  · refine nm_goes exec_red hr ((redStep_legal hs hx ha0 ha1 ho).trans ((if_neg (mt Option.isNone_iff_eq_none.mp hw)).trans (if_neg ?_)))
    simpa [List.any_eq_true] using hq
  · have hx := exec_racc (s := s) t one
    simp only [beq_iff_eq] at hx
    refine nm_goes hx hr ((elemsStep_legal ⟨hs, hh, hc, hc', ho, hend⟩ hf hg).trans ?_)
    rw [raccStep, contributions_eq _ _ _ _ _ _ (by split <;> decide)]
    rfl
  · exact nm_holds (exec_rfin bf keep) hr ((elemsStep_legal ⟨hs, hh, hc, hc', ho, hend⟩ hf hg).trans (nmAwait_start hw))
  · exact nm_goes (exec_rfin bf keep) hr ((elemsStep_legal ⟨hs, hh, hc, hc', ho, hend⟩ hf hg).trans (nmAwait_done hw hgot))
  · refine nm_ends (by unfold exec; rfl) hr ((if_neg ?_).trans (if_neg (no hm)))
    rw [show s.nmDone s.unit = true from hd]
    exact Bool.false_ne_true
  · refine nm_holds (by unfold exec; rfl) hr (if_pos ?_)
    rw [show s.nmDone s.unit = false from hd]
    rfl
  · refine ⟨exec_launch hrun hq hcode, ?_⟩
    rw [State.beginUnit, State.nmu_modNmu]
    exact ⟨rfl, rfl, rfl, rfl, rfl, rfl, rfl⟩
  · refine (exec_abort hrun hab hred).trans (congrArg Host.Outcome.next (if_neg ?_))
    simp only [Bool.and_eq_true, beq_iff_eq, Option.isNone_iff_eq_none]
    rintro ⟨⟨h1, h2⟩, h3⟩
    exact hw.elim (· h1) fun hw => hw.elim (· h2) fun hw => Bool.false_ne_true (hw.symm.trans h3)
  · refine (exec_abort hrun hab hred).trans (congrArg Host.Outcome.next (if_pos ?_))
    simp only [Bool.and_eq_true, beq_iff_eq, Option.isNone_iff_eq_none]
    exact ⟨⟨hw, hm⟩, hd⟩
  · refine (exec_noWord hrun hdec).trans ?_
    rw [if_neg (by simpa only [Bool.and_eq_true, beq_iff_eq] using hx)]
  · refine (exec_noWord hrun hdec).trans ?_
    rw [if_pos (by simpa only [Bool.and_eq_true, beq_iff_eq] using hx)]
  · obtain ⟨hrun', hstack, hloops, hclaims, hmve, hfaults⟩ := kernelGone_clearUnit s s.unit
    cases hc : l.fromCmd.isSome with
    | true =>
      intro t
      have ht : t.nmu s.unit = _ := nmu_stopUnit_command hrun hc
      rw [show t.nmu u = _ from ht]
      exact ⟨hrun', hstack, hloops, hclaims, hmve, fun _ => ⟨faultOf m r m.pc w d va, by rw [hfaults], rfl, rfl, rfl, rfl, rfl, rfl⟩⟩
    | false =>
      intro t
      have ht : t.nmu s.unit = _ := nmu_stopUnit_kernel hrun hc
      rw [show t.nmu u = _ from ht]
      exact ⟨hrun', hstack, hloops, hclaims, hmve, fun hf => absurd hf Bool.false_ne_true⟩

end Sys2Proof.Machine
end

section
/-! PROOFS. Range edits, invalidation, probe and fill (R217 to R224, O45). -/

namespace Sys2Proof.Machine

/-! What every directory edit does (R218 to R220). -/

/-- What an edit reads its directory as. -/
def editSrc (s : State) : Src := .other (300 + s.cur)

section Edit
variable {s s1 : State} {g : Guard} {o : RgForm} {i : Instr}
  {k : State → Src → BitVec 16 → Nat → DirEntry → RangeRec → Nat → Edited}

/-- The status of an edit on its way, with the machine at u. -/
def editRet (s : State) (o : RgForm) (u : State) (n : Nat) : Res :=
  .ok ((u.forget (editSrc s)).setMe ((u.forget (editSrc s)).me.fly (.g o.gd.toNat) (.s { val := BitVec.ofNat 64 n, poison := false }) 0 1 false))

/-- What an edit that has found its record at u comes to. -/
def editFound (s : State) (o : RgForm) (va : Word) (u : State) : Edited → Res
  | .status n => if u.intact (editSrc s) then editRet s o u n else .hold (u.forget (editSrc s))
  | .wait v => .hold v
  | .poison v => trapIf v 0x41 va
  | .done v => editRet s o v 0

/-- What an edit comes to from what its walk gives. -/
def editWalked (s : State) (o : RgForm) (va : Word) (k : State → DirEntry → RangeRec → Nat → Edited) (u : State) :
    Except (Option (BitVec 7)) (DirEntry × RangeRec × Nat) → Res
  | .error none => .hold u
  | .error (some c) => if c == 0x41 then trapIf u c va else editRet s o u 1
  | .ok (e, r, n) => editFound s o va u (k u e r n)

/-- The steps of an edit, in their order. -/
theorem exec_editForm (hi : exec i s = editForm s g o k) (hp : s.me.sys.priv = true)
    (h : Ready s g [.g o.gd.toNat, .g o.ga.toNat, .g o.gb.toNat]) : exec i s = finish (
      if (s.me.g o.ga).poison || (s.me.g o.gb).poison then trapIf s 0x1A 0
      else if 2 ^ 16 ≤ (s.me.g o.gb).val.toNat then trapIf s 0x03 0
      else if (s.me.p g.p).poison then trapIf s 0x19 0
      else if !s.released (.strand s.cur) .dv then .hold s
      else if winOf (s.me.g o.ga).val != .d then editRet s o s 1
      else editWalked s o (s.me.g o.ga).val (fun u => k u (editSrc s) ((s.me.g o.gb).val.setWidth 16) (s.me.g o.ga).val.toNat)
        (s.walk (editSrc s) ((s.me.g o.gb).val.setWidth 16) (s.me.g o.ga).val.toNat).1
        (s.walk (editSrc s) ((s.me.g o.gb).val.setWidth 16) (s.me.g o.ga).val.toNat).2) := by
  refine (exec_of_ready hi (.inr hp) h).trans (congrArg finish ?_)
  dsimp only
  refine ite_congr rfl (fun _ => rfl) fun _ => ite_congr rfl (fun _ => rfl) fun _ => ite_congr rfl (fun _ => rfl) fun _ =>
    ite_congr rfl (fun _ => rfl) fun _ => ite_congr rfl (fun _ => rfl) fun _ => ?_
  rw [show Src.other (300 + s.cur) = editSrc s from rfl]
  generalize s.walk (editSrc s) ((s.me.g o.gb).val.setWidth 16) (s.me.g o.ga).val.toNat = w
  obtain ⟨u, (_ | c) | ⟨e, r, n⟩⟩ := w
  · rfl
  · rfl
  · dsimp only [editWalked]
    cases k u (editSrc s) ((s.me.g o.gb).val.setWidth 16) (s.me.g o.ga).val.toNat e r n <;> rfl

/-- The edit may read the directory: its operands are right, and the strand's accesses are performed. -/
structure EditDue (s : State) (g : Guard) (o : RgForm) : Prop where
  priv : s.me.sys.priv = true
  ready : Ready s g [.g o.gd.toNat, .g o.ga.toNat, .g o.gb.toNat]
  clearA : (s.me.g o.ga).poison = false
  clearB : (s.me.g o.gb).poison = false
  asid : (s.me.g o.gb).val.toNat < 2 ^ 16
  guard : gp s g = false
  after : s.released (.strand s.cur) .dv = true

theorem edit_poisoned (hi : exec i s = editForm s g o k) (hp : s.me.sys.priv = true)
    (h : Ready s g [.g o.gd.toNat, .g o.ga.toNat, .g o.gb.toNat]) (hb : (s.me.g o.ga).poison = true ∨ (s.me.g o.gb).poison = true) :
    Traps i s { cause := 0x1A } :=
  (exec_editForm hi hp h).trans (congrArg finish (if_pos ((Bool.or_eq_true _ _).mpr hb)))

section Clear
variable (hi : exec i s = editForm s g o k) (hp : s.me.sys.priv = true) (h : Ready s g [.g o.gd.toNat, .g o.ga.toNat, .g o.gb.toNat])
  (ha : (s.me.g o.ga).poison = false) (hb : (s.me.g o.gb).poison = false)
include hi hp h ha hb

theorem exec_edit_clear : exec i s = finish (
      if 2 ^ 16 ≤ (s.me.g o.gb).val.toNat then trapIf s 0x03 0
      else if (s.me.p g.p).poison then trapIf s 0x19 0
      else if !s.released (.strand s.cur) .dv then .hold s
      else if winOf (s.me.g o.ga).val != .d then editRet s o s 1
      else editWalked s o (s.me.g o.ga).val (fun u => k u (editSrc s) ((s.me.g o.gb).val.setWidth 16) (s.me.g o.ga).val.toNat)
        (s.walk (editSrc s) ((s.me.g o.gb).val.setWidth 16) (s.me.g o.ga).val.toNat).1
        (s.walk (editSrc s) ((s.me.g o.gb).val.setWidth 16) (s.me.g o.ga).val.toNat).2) := by
  refine (exec_editForm hi hp h).trans (congrArg finish (if_neg ?_))
  rw [ha, hb]
  exact Bool.false_ne_true

theorem edit_wide (hw : 2 ^ 16 ≤ (s.me.g o.gb).val.toNat) : Traps i s { cause := 0x03 } :=
  (exec_edit_clear hi hp h ha hb).trans (congrArg finish (if_pos hw))

theorem edit_early (hw : (s.me.g o.gb).val.toNat < 2 ^ 16) (hg : gp s g = false) (hr : s.released (.strand s.cur) .dv = false) :
    HoldsAt i s s :=
  (exec_edit_clear hi hp h ha hb).trans (congrArg finish ((if_neg (Nat.not_le.mpr hw)).trans ((if_neg (Bool.eq_false_iff.mp hg)).trans
    (if_pos ((Bool.not_eq_true' _).mpr hr)))))

end Clear

section Due
variable (hi : exec i s = editForm s g o k) (h : EditDue s g o)
include hi h

theorem exec_edit_due : exec i s = finish (
      if winOf (s.me.g o.ga).val != .d then editRet s o s 1
      else editWalked s o (s.me.g o.ga).val (fun u => k u (editSrc s) ((s.me.g o.gb).val.setWidth 16) (s.me.g o.ga).val.toNat)
        (s.walk (editSrc s) ((s.me.g o.gb).val.setWidth 16) (s.me.g o.ga).val.toNat).1
        (s.walk (editSrc s) ((s.me.g o.gb).val.setWidth 16) (s.me.g o.ga).val.toNat).2) := by
  obtain ⟨hp, hr, ha, hb, hw, hg, hrel⟩ := h
  refine (exec_edit_clear hi hp hr ha hb).trans (congrArg finish ((if_neg (Nat.not_le.mpr hw)).trans ((if_neg (Bool.eq_false_iff.mp hg)).trans
    (if_neg ?_))))
  rw [hrel]
  exact Bool.false_ne_true

theorem edit_outside (hw : winOf (s.me.g o.ga).val ≠ .d) : Edits i s o s 1 :=
  (exec_edit_due hi h).trans (congrArg finish (if_pos (bne_iff_ne.mpr hw)))

variable {q : Except (Option (BitVec 7)) (DirEntry × RangeRec × Nat)} (hw : winOf (s.me.g o.ga).val = .d)
  (hq : s.walk (.other (300 + s.cur)) ((s.me.g o.gb).val.setWidth 16) (s.me.g o.ga).val.toNat = (s1, q))
include hw hq

theorem exec_edit_walked : exec i s = finish (editWalked s o (s.me.g o.ga).val
    (fun u => k u (editSrc s) ((s.me.g o.gb).val.setWidth 16) (s.me.g o.ga).val.toNat) s1 q) := by
  have hq' : s.walk (editSrc s) ((s.me.g o.gb).val.setWidth 16) (s.me.g o.ga).val.toNat = (s1, q) := hq
  refine (exec_edit_due hi h).trans (congrArg finish ((if_neg ?_).trans ?_))
  · rw [hw]
    decide
  · rw [hq']

end Due

theorem exec_edit_found {e : DirEntry} {r : RangeRec} {n : Nat} (hi : exec i s = editForm s g o k) (h : EditDue s g o)
    (hw : winOf (s.me.g o.ga).val = .d)
    (hq : s.walk (.other (300 + s.cur)) ((s.me.g o.gb).val.setWidth 16) (s.me.g o.ga).val.toNat = (s1, .ok (e, r, n))) :
    exec i s = finish (editFound s o (s.me.g o.ga).val s1
      (k s1 (.other (300 + s.cur)) ((s.me.g o.gb).val.setWidth 16) (s.me.g o.ga).val.toNat e r n)) :=
  exec_edit_walked hi h hw hq

theorem reports_of_found {u : State} {n : Nat} (hx : exec i s = finish (editFound s o (s.me.g o.ga).val u (.status n))) : Reports i s o u n :=
  ⟨fun h => hx.trans (congrArg finish (if_pos h) : _ = finish (.ok _)),
    fun h => hx.trans (congrArg finish (if_neg (Bool.eq_false_iff.mp h)) : _ = finish (.hold _))⟩

theorem comesTo_of_found {u : State} {x : Edited} (hx : exec i s = finish (editFound s o (s.me.g o.ga).val u x)) : ComesTo i s o u x := by
  cases x with
  | status n => exact reports_of_found hx
  | wait v => exact hx
  | poison v => exact hx
  | done v => exact hx

end Edit

end Sys2Proof.Machine
end

section
/-! PROOFS. The forms of directory edits, invalidation, probe and fill, each on its own (R217 to R224, O45). -/

namespace Sys2Proof.Machine

/-! What each edit does with its record (R219). -/

section Found
variable {s : State} {g : Guard} {o : RgForm} {src : Src} {asid : BitVec 16} {va : Nat} {e : DirEntry} {r : RangeRec} {n : Nat}

/-- A split, with its record found. -/
def splitFound (s : State) (src : Src) (asid : BitVec 16) (va : Nat) (e : DirEntry) (r : RangeRec) (n : Nat) : Edited :=
  if r.moving then .status 5
  else if e.count == e.cap then .status 2
  else if va % 2 ^ 16 != 0 || va - r.base == 0 || (r.partialRes && (va - r.base) % 2 ^ 24 != 0) then .status 3
  else s.splice src asid e n 1 [r.part 0 (va - r.base), r.part (va - r.base) r.size]

/-- A merge, with the record above read. -/
def mergeRead (src : Src) (asid : BitVec 16) (e : DirEntry) (r : RangeRec) (n : Nat) (s : State) (bs : List Byte) : Edited :=
  match parseRec bs with
  | none => .status 4
  | some u =>
    if u.base != r.base + r.size then .status 4
    else if u.moving then .status 5
    else if !({ r with asid := u.asid, base := u.base, length := u.length, mdie := u.mdie, map := u.map } == u) ||
        !(!r.partialRes || (r.size % 2 ^ 24 == 0 && u.map == r.map + r.size / 2 ^ 24)) || !s.recOk u then .status 4
    else s.splice src asid e n 2 [{ r with length := r.length + u.length }]

/-- What a merge's read of the record above comes to. -/
def mergeAsked (src : Src) (asid : BitVec 16) (e : DirEntry) (r : RangeRec) (n : Nat) (s : State) :
    Except (Option (BitVec 7)) (List Byte) → Edited
  | .error none => .wait s
  | .error (some c) => if c == 0x41 then .poison s else .status 4
  | .ok bs => mergeRead src asid e r n s bs

/-- A merge, with the lower record found. -/
def mergeFound (s : State) (src : Src) (asid : BitVec 16) (_ : Nat) (e : DirEntry) (r : RangeRec) (n : Nat) : Edited :=
  if r.moving then .status 5
  else
    let q := if n + 1 < e.count then s.readRec src e (n + 1) else (s, .error (some 0x10))
    mergeAsked src asid e r n q.1 q.2

/-- A pin or an unpin, with its record found. -/
def pinFound (un : Bool) (s : State) (src : Src) (asid : BitVec 16) (_ : Nat) (e : DirEntry) (r : RangeRec) (n : Nat) : Edited :=
  if r.moving then .status 5
  else if !s.mayEdit src asid e n then .wait (if s.intact src then s else s.forget src)
  else .done ((s.rewalk asid).putRec e n { r with pinned := !un })

theorem exec_rgsplit : exec (.rgsplit g o) s = editForm s g o splitFound := by
  unfold exec
  rfl

theorem exec_rgmerge : exec (.rgmerge g o) s = editForm s g o mergeFound := by
  unfold exec execRgmerge
  refine congrArg (editForm s g o) ?_
  funext s src asid va e r n
  unfold mergeFound
  refine ite_congr rfl (fun _ => rfl) fun _ => ?_
  generalize (if n + 1 < e.count then s.readRec src e (n + 1) else (s, .error (some 0x10))) = q
  obtain ⟨v, (_ | c) | bs⟩ := q <;> rfl

theorem exec_rgpin (un : Bool) : exec (.rgpin g o un) s = editForm s g o (pinFound un) := by
  unfold exec
  rfl

/-- What the three forms have in common: each is an edit, which answers status 5 where its record moves. -/
theorem edit_of_form {un : Bool} {i : Instr} (h : i = .rgsplit g o ∨ i = .rgmerge g o ∨ i = .rgpin g o un) :
    ∃ k : State → Src → BitVec 16 → Nat → DirEntry → RangeRec → Nat → Edited,
      exec i s = editForm s g o k ∧ ∀ u src asid va e r n, r.moving = true → k u src asid va e r n = .status 5 := by
  rcases h with rfl | rfl | rfl
  · exact ⟨_, exec_rgsplit, fun _ _ _ _ _ _ _ h => if_pos h⟩
  · exact ⟨_, exec_rgmerge, fun _ _ _ _ _ _ _ h => if_pos h⟩
  · exact ⟨_, exec_rgpin un, fun _ _ _ _ _ _ _ h => if_pos h⟩

theorem part_low (r : RangeRec) (d : Nat) : r.part 0 d = { r with length := d / 2 ^ 16 } := by
  simp [RangeRec.part]

theorem splitFound_full (hm : r.moving = false) (hc : e.count = e.cap) : splitFound s src asid va e r n = .status 2 :=
  (if_neg (Bool.eq_false_iff.mp hm)).trans (if_pos (beq_iff_eq.mpr hc))

/-- Where a record may be split. -/
theorem splitPlace_iff : (va % 2 ^ 16 != 0 || va - r.base == 0 || (r.partialRes && (va - r.base) % 2 ^ 24 != 0)) = true ↔
    va % 2 ^ 16 ≠ 0 ∨ va - r.base = 0 ∨ (r.partialRes = true ∧ (va - r.base) % 2 ^ 24 ≠ 0) := by
  simp only [Bool.or_eq_true, Bool.and_eq_true, bne_iff_ne, beq_iff_eq, or_assoc]

theorem splitFound_misplaced (hm : r.moving = false) (hc : e.count ≠ e.cap)
    (hd : va % 2 ^ 16 ≠ 0 ∨ va - r.base = 0 ∨ (r.partialRes = true ∧ (va - r.base) % 2 ^ 24 ≠ 0)) :
    splitFound s src asid va e r n = .status 3 :=
  (if_neg (Bool.eq_false_iff.mp hm)).trans ((if_neg (mt beq_iff_eq.mp hc)).trans (if_pos (splitPlace_iff.mpr hd)))

theorem splitFound_legal (hm : r.moving = false) (hc : e.count ≠ e.cap) (ha : va % 2 ^ 16 = 0) (h0 : va - r.base ≠ 0)
    (hp : r.partialRes = true → (va - r.base) % 2 ^ 24 = 0) : splitFound s src asid va e r n =
      s.splice src asid e n 1 [{ r with length := (va - r.base) / 2 ^ 16 },
        { r with base := r.base + (va - r.base), length := (r.size - (va - r.base)) / 2 ^ 16, map := r.map + (va - r.base) / 2 ^ 24 }] := by
  refine (if_neg (Bool.eq_false_iff.mp hm)).trans ((if_neg (mt beq_iff_eq.mp hc)).trans ((if_neg (mt splitPlace_iff.mp ?_)).trans ?_))
  · rintro (h | h | ⟨hr, h⟩)
    · exact h ha
    · exact h0 h
    · exact h (hp hr)
  · rw [part_low]
    rfl

theorem mergeFound_last (hm : r.moving = false) (hc : e.count ≤ n + 1) : mergeFound s src asid va e r n = .status 4 := by
  refine (if_neg (Bool.eq_false_iff.mp hm)).trans ?_
  dsimp only
  rw [if_neg (Nat.not_lt.mpr hc)]
  rfl

theorem mergeFound_read {s2 : State} {bs : List Byte} (hm : r.moving = false) (hc : n + 1 < e.count)
    (hq : s.readRec src e (n + 1) = (s2, .ok bs)) : mergeFound s src asid va e r n = mergeRead src asid e r n s2 bs := by
  refine (if_neg (Bool.eq_false_iff.mp hm)).trans ?_
  dsimp only
  rw [if_pos hc, hq]
  rfl

/-- The upper record continues the lower and agrees with it (R219). -/
theorem mergeAgree_iff {u : RangeRec} : (!({ r with asid := u.asid, base := u.base, length := u.length, mdie := u.mdie, map := u.map } == u) ||
    !(!r.partialRes || (r.size % 2 ^ 24 == 0 && u.map == r.map + r.size / 2 ^ 24)) || !s.recOk u) = false ↔
    { r with asid := u.asid, base := u.base, length := u.length, mdie := u.mdie, map := u.map } = u ∧
      (r.partialRes = true → r.size % 2 ^ 24 = 0 ∧ u.map = r.map + r.size / 2 ^ 24) ∧ s.recOk u = true := by
  cases r.partialRes <;> simp [and_assoc]

section Merge
variable {bs : List Byte} {u : RangeRec} (hu : parseRec bs = some u)
include hu

theorem mergeRead_apart (hb : u.base ≠ r.base + r.size) : mergeRead src asid e r n s bs = .status 4 := by
  rw [mergeRead, hu]
  exact if_pos (bne_iff_ne.mpr hb)

theorem mergeRead_moving (hb : u.base = r.base + r.size) (hm : u.moving = true) : mergeRead src asid e r n s bs = .status 5 := by
  rw [mergeRead, hu]
  exact (if_neg (by rw [hb]; simp)).trans (if_pos hm)

theorem mergeRead_checked (hb : u.base = r.base + r.size) (hm : u.moving = false) : mergeRead src asid e r n s bs =
    if !({ r with asid := u.asid, base := u.base, length := u.length, mdie := u.mdie, map := u.map } == u) ||
        !(!r.partialRes || (r.size % 2 ^ 24 == 0 && u.map == r.map + r.size / 2 ^ 24)) || !s.recOk u then .status 4
    else s.splice src asid e n 2 [{ r with length := r.length + u.length }] := by
  rw [mergeRead, hu]
  exact (if_neg (by rw [hb]; simp)).trans (if_neg (Bool.eq_false_iff.mp hm))

end Merge

theorem mergeRead_none {bs : List Byte} (hu : parseRec bs = none) : mergeRead src asid e r n s bs = .status 4 := by
  rw [mergeRead, hu]

theorem pinFound_free {un : Bool} (hm : r.moving = false) (h : s.mayEdit src asid e n = true) :
    pinFound un s src asid va e r n = .done ((s.rewalk asid).putRec e n { r with pinned := !un }) :=
  (if_neg (Bool.eq_false_iff.mp hm)).trans (if_neg (by rw [h]; exact Bool.false_ne_true))

theorem pinFound_busy {un : Bool} (hm : r.moving = false) (h : s.mayEdit src asid e n = false) :
    pinFound un s src asid va e r n = .wait (if s.intact src then s else s.forget src) :=
  (if_neg (Bool.eq_false_iff.mp hm)).trans (if_pos ((Bool.not_eq_true' _).mpr h))

/-- Records replaced, with records above them. -/
theorem splice_above {s2 : State} {drop : Nat} {rs : List RangeRec} {above : List Byte} (hn : n + drop < e.count)
    (hq : s.readZoned src (e.dbase + 32 * (n + drop)) (32 * (e.count - n - drop)) = (s2, .data above false))
    (hm : s2.mayEdit src asid e n = true) (ha : above ≠ []) : s.splice src asid e n drop rs =
      .done ((((s2.rewalk asid).writeZoned (e.dbase + 32 * n) (rs.flatMap RangeRec.bytes)).writeZoned (e.dbase + 32 * (n + rs.length))
        above).putCount asid e (e.count - drop + rs.length)) := by
  have h0 : (e.count - n - drop == 0) = false := beq_eq_false_iff_ne.mpr (by omega)
  unfold State.splice
  dsimp only
  rw [h0, if_neg Bool.false_ne_true, hq]
  dsimp only
  rw [if_neg (by rw [hm]; exact Bool.false_ne_true), if_neg (by simpa using ha)]

/-- Records replaced at the directory's end. -/
theorem splice_end {drop : Nat} {rs : List RangeRec} (hn : n + drop = e.count) (hm : s.mayEdit src asid e n = true) :
    s.splice src asid e n drop rs = .done (((s.rewalk asid).writeZoned (e.dbase + 32 * n) (rs.flatMap RangeRec.bytes)).putCount asid e
      (e.count - drop + rs.length)) := by
  have h0 : (e.count - n - drop == 0) = true := beq_iff_eq.mpr (by omega)
  unfold State.splice
  dsimp only
  rw [h0, if_pos rfl]
  dsimp only
  rw [if_neg (by rw [hm]; exact Bool.false_ne_true)]
  rfl

end Found

end Sys2Proof.Machine
end

section
/-! PROOFS. Range edits, invalidation, probe and fill put together (O45). -/

namespace Sys2Proof.Machine

section Forms
variable {s : State} {g : Guard}

/-! Invalidation (R221). -/

/-- `rginv` of a strand with a shootdown of its own. -/
def invGoes (s : State) (dv : Bool) (h : Shoot) : Res :=
  let u := if dv then s else s.acknowledge h (coreOf s.cur)
  if u.shoots.any (fun (x : Shoot) => x.id == h.id && !x.todo.isEmpty) then .hold u
  else .ok { u with shoots := u.shoots.filter (fun (x : Shoot) => x.id != h.id) }

/-- `rginv` that sends a shootdown out. -/
def invStarts (s : State) (dv : Bool) (asid : BitVec 16) (span : Option (Nat × Nat)) : Res :=
  let u := s.shoot asid span (some s.cur) (if dv then parties else [coreOf s.cur])
  .hold (if dv then u else u.receive { id := s.fresh, asid := asid, span := span, strand := some s.cur, todo := [coreOf s.cur], got := [] }
    (coreOf s.cur))

theorem exec_rginv (dv all : Bool) (ga gb : GReg) (hp : s.me.sys.priv = true) (h : Ready s g [.g ga.toNat, .g gb.toNat]) :
    exec (.rginv g dv all ga gb) s = finish (
      if (!all && (s.me.g ga).poison) || (s.me.g gb).poison then trapIf s 0x1A 0
      else if 2 ^ 16 ≤ (s.me.g gb).val.toNat then trapIf s 0x03 0
      else if !s.released (.strand s.cur) (if dv then .dv else .co) then .hold s
      else (s.shoots.find? (fun (h : Shoot) => h.strand == some s.cur)).elim
        (invStarts s dv ((s.me.g gb).val.setWidth 16) (if all then none else some ((s.me.g ga).val.toNat, 1))) (invGoes s dv)) := by
  refine (exec_of_ready (by unfold exec; rfl) (.inr hp) (by exact h)).trans (congrArg finish ?_)
  dsimp only
  refine ite_congr rfl (fun _ => rfl) fun _ => ite_congr rfl (fun _ => rfl) fun _ => ite_congr rfl (fun _ => rfl) fun _ => ?_
  cases s.shoots.find? (fun (h : Shoot) => h.strand == some s.cur) with
  | some h => rfl
  | none =>
    rw [State.shoot, List.getLast?_append]
    cases dv <;> rfl

/-- A shootdown all of whose parties have acknowledged. -/
theorem shoot_over_iff (l : List Shoot) (id : Nat) : l.any (fun (x : Shoot) => x.id == id && !x.todo.isEmpty) = true ↔
    ∃ x ∈ l, x.id = id ∧ x.todo ≠ [] := by
  simp [List.any_eq_true]

/-! Queries (R223, R224). -/

/-- The answer of a query on its way, with the machine at u. -/
def answer (s : State) (g : Guard) (gd : GReg) (u : State) (v : Nat) : Res :=
  .ok (u.setMe (u.me.fly (.g gd.toNat) (.s { val := BitVec.ofNat 64 v, poison := gp s g }) 0 1 false))

/-- The word of an entry's record that tells whether the granule is resident (R223). -/
def probeInfo (r : RangeRec) (res : Bool) : Nat :=
  2 ^ 63 + b2n res * 2 ^ 62 + b2n r.partialRes * 2 ^ 61 + b2n r.moving * 2 ^ 60 + b2n r.pinned * 2 ^ 59 +
    b2n r.compactible * 2 ^ 58 + b2n r.r * 2 ^ 52 + b2n r.w * 2 ^ 51 + b2n r.x * 2 ^ 50 + b2n r.a * 2 ^ 49 + b2n r.n * 2 ^ 48 +
    r.zone.toNat * 2 ^ 44 + r.gen.toNat * 2 ^ 36

/-- What a probe of residency answers once the map has been read. -/
def probeMap (s : State) (g : Guard) (gd : GReg) (a : Word) (r : RangeRec) (u : State) : Except (Option (BitVec 7)) Bool → Res
  | .error none => .hold u
  | .error (some c) =>
    if c == 0x41 then trapIf (u.mapped (coreOf s.cur)) c a else answer s g gd (u.mapped (coreOf s.cur)) (probeInfo r false)
  | .ok b => answer s g gd (u.mapped (coreOf s.cur)) (probeInfo r b)

/-- A probe whose range stands in the core's table. -/
def probeHit (s : State) (g : Guard) (gd : GReg) (a : Word) (w : BitVec 2) (x : RtEntry) : Res :=
  if w == 1 then answer s g gd s (translated a.toNat (s.offsetAt x.r a.toNat))
  else if w == 2 then answer s g gd s x.r.base
  else if w == 3 then answer s g gd s x.r.length
  else if !x.r.partialRes || x.kept.contains (x.r.granule a.toNat) then answer s g gd s (probeInfo x.r true)
  else probeMap s g gd a x.r (s.mapBit (coreOf s.cur) x.r (x.r.granule a.toNat)).1 (s.mapBit (coreOf s.cur) x.r (x.r.granule a.toNat)).2

/-- A probe whose range does not: what its walk gives. -/
def probeMiss (s : State) (g : Guard) (gd : GReg) (a : Word) (u : State) : Option (BitVec 7) → Res
  | some c => if c == 0x41 then trapIf u c a else answer s g gd u 0
  | none => .hold u

section Probe
variable {gd ga : GReg} {w : BitVec 2}

theorem exec_rgprobe (h : Ready s g [.g gd.toNat, .g ga.toNat]) : exec (.rgprobe g gd ga w) s = finish (
    if (s.me.g ga).poison then trapIf s 0x1A 0
    else if winOf (s.me.g ga).val != .d then answer s g gd s 0
    else (s.rtFind (coreOf s.cur) s.me.sys.asid (s.me.g ga).val.toNat).elim
      (probeMiss s g gd (s.me.g ga).val (s.askWalk (.strand s.cur) s.me.sys.asid (s.me.g ga).val.toNat).1
        (s.askWalk (.strand s.cur) s.me.sys.asid (s.me.g ga).val.toNat).2)
      (probeHit s g gd (s.me.g ga).val w)) := by
  refine (exec_of_ready (by unfold exec; rfl) (.inl rfl) (by exact h)).trans (congrArg finish ?_)
  dsimp only
  refine ite_congr rfl (fun _ => rfl) fun _ => ite_congr rfl (fun _ => rfl) fun _ => ?_
  cases s.rtFind (coreOf s.cur) s.me.sys.asid (s.me.g ga).val.toNat with
  | none =>
    dsimp only [Option.elim]
    cases (s.askWalk (.strand s.cur) s.me.sys.asid (s.me.g ga).val.toNat).2 <;> rfl
  | some x =>
    refine ite_congr rfl (fun _ => rfl) fun _ => ite_congr rfl (fun _ => rfl) fun _ => ite_congr rfl (fun _ => rfl) fun _ =>
      ite_congr rfl (fun _ => rfl) fun _ => ?_
    rcases (s.mapBit (coreOf s.cur) x.r (x.r.granule (s.me.g ga).val.toNat)).2 with (_ | c) | b <;> rfl

theorem exec_rgprobe_clear (h : Ready s g [.g gd.toNat, .g ga.toNat]) (ha : (s.me.g ga).poison = false) (ho : winOf (s.me.g ga).val = .d) :
    exec (.rgprobe g gd ga w) s = finish ((s.rtFind (coreOf s.cur) s.me.sys.asid (s.me.g ga).val.toNat).elim
      (probeMiss s g gd (s.me.g ga).val (s.askWalk (.strand s.cur) s.me.sys.asid (s.me.g ga).val.toNat).1
        (s.askWalk (.strand s.cur) s.me.sys.asid (s.me.g ga).val.toNat).2)
      (probeHit s g gd (s.me.g ga).val w)) := by
  refine (exec_rgprobe h).trans (congrArg finish ((if_neg (Bool.eq_false_iff.mp ha)).trans (if_neg ?_)))
  rw [ho]
  decide

end Probe

/-- A strand that still has `rgfill` requests under way. -/
theorem filled_pending {n : Nat} (h : (∃ w ∈ s.wants, w.n = n) ∨ ∃ f ∈ s.fills, n ∈ f.rgfill) : s.filled n = s := by
  refine if_pos ?_
  simpa [List.any_eq_true] using h

theorem filled_none {n : Nat} (hw : ∀ w ∈ s.wants, w.n ≠ n) (hf : ∀ f ∈ s.fills, n ∉ f.rgfill) :
    s.filled n = s.modStrand n (fun t => t.setEvt 5) := by
  refine if_neg ?_
  simpa [List.any_eq_true] using ⟨hw, hf⟩

end Forms

/-- Settles O45. -/
theorem rangeForms : Obligations.RangeForms := by
  intro s s1 g o un t va asid src form
  refine ⟨fun hp h => ⟨fun i hf hb => ?_, fun ha hb => ⟨fun i hf hw => ?_, fun hw hg => ⟨fun i hf hr => ?_, fun hr => ⟨fun i hf ho => ?_,
    fun ho => ⟨fun i hf hq => ?_, fun i hf hq => ?_, fun i c hf hc hq => ?_, fun r n e hq => ⟨fun hm i hf => ?_, fun hm => ?_⟩⟩⟩⟩⟩⟩,
    fun e n drop rs hle => ⟨fun s2 above hn hq hm ha => splice_above hn hq hm ha, fun hn hm => splice_end hn hm⟩,
    fun dv all ga gb hp h => ?_, fun gd ga w h => ?_, fun ga gb h => ?_⟩
  · obtain ⟨k, hi, -⟩ := edit_of_form hf
    exact edit_poisoned hi hp h hb
  · obtain ⟨k, hi, -⟩ := edit_of_form hf
    exact edit_wide hi hp h ha hb hw
  · obtain ⟨k, hi, -⟩ := edit_of_form hf
    exact edit_early hi hp h ha hb hw hg hr
  · obtain ⟨k, hi, -⟩ := edit_of_form hf
    exact edit_outside hi ⟨hp, h, ha, hb, hw, hg, hr⟩ ho
  · obtain ⟨k, hi, -⟩ := edit_of_form hf
    exact exec_edit_walked hi ⟨hp, h, ha, hb, hw, hg, hr⟩ ho hq
  · obtain ⟨k, hi, -⟩ := edit_of_form hf
    exact exec_edit_walked hi ⟨hp, h, ha, hb, hw, hg, hr⟩ ho hq
  · obtain ⟨k, hi, -⟩ := edit_of_form hf
    exact (exec_edit_walked hi ⟨hp, h, ha, hb, hw, hg, hr⟩ ho hq).trans (congrArg finish (if_neg (mt beq_iff_eq.mp hc)) : _ = finish (.ok _))
  · obtain ⟨k, hi, hk⟩ := edit_of_form hf
    exact reports_of_found ((exec_edit_found hi ⟨hp, h, ha, hb, hw, hg, hr⟩ ho hq).trans (by rw [hk _ _ _ _ _ _ _ hm]))
  · have due : EditDue s g o := ⟨hp, h, ha, hb, hw, hg, hr⟩
    have hsplit := exec_edit_found exec_rgsplit due ho hq
    have hmerge := exec_edit_found exec_rgmerge due ho hq
    have hpin := exec_edit_found (exec_rgpin un) due ho hq
    refine ⟨fun hme => ?_, fun hme => ?_, fun hc => ?_, fun hc hd => ?_, fun hc h16 hd h24 => ?_, fun hc => ?_, fun s2 bs hc hread =>
      ⟨fun hu => ?_, fun u hu => ⟨fun hb' => ?_, fun hb' hmv => ?_, fun hb' hmv hag => ?_, fun hb' hmv hag => ?_⟩⟩⟩
    · rw [pinFound_free hm hme] at hpin
      exact hpin
    · rw [pinFound_busy hm hme] at hpin
      exact hpin
    · rw [splitFound_full hm hc] at hsplit
      exact reports_of_found hsplit
    · rw [splitFound_misplaced hm hc hd] at hsplit
      exact reports_of_found hsplit
    · rw [splitFound_legal hm hc h16 hd h24] at hsplit
      exact comesTo_of_found hsplit
    · rw [mergeFound_last hm hc] at hmerge
      exact reports_of_found hmerge
    · rw [mergeFound_read hm hc hread, mergeRead_none hu] at hmerge
      exact reports_of_found hmerge
    · rw [mergeFound_read hm hc hread, mergeRead_apart hu hb'] at hmerge
      exact reports_of_found hmerge
    · rw [mergeFound_read hm hc hread, mergeRead_moving hu hb' hmv] at hmerge
      exact reports_of_found hmerge
    · rw [mergeFound_read hm hc hread, mergeRead_checked hu hb' hmv, if_pos (Bool.not_eq_false _ ▸ mt mergeAgree_iff.mp hag)] at hmerge
      exact reports_of_found hmerge
    · rw [mergeFound_read hm hc hread, mergeRead_checked hu hb' hmv, if_neg (Bool.eq_false_iff.mp (mergeAgree_iff.mpr hag))] at hmerge
      exact comesTo_of_found hmerge
  · have hx := exec_rginv dv all ga gb hp h
    have hpoison : ((!all && (s.me.g ga).poison) || (s.me.g gb).poison) = true ↔
        (all = false ∧ (s.me.g ga).poison = true) ∨ (s.me.g gb).poison = true := by simp
    refine ⟨fun hb => hx.trans (congrArg finish (if_pos (hpoison.mpr hb))), fun ha hb => ?_⟩
    have hclear : ¬((!all && (s.me.g ga).poison) || (s.me.g gb).poison) = true := fun hc =>
      (hpoison.mp hc).elim (fun hc => Bool.false_ne_true ((ha hc.1).symm.trans hc.2)) fun hc => Bool.false_ne_true (hb.symm.trans hc)
    replace hx := hx.trans (congrArg finish (if_neg hclear))
    refine ⟨fun hw => hx.trans (congrArg finish (if_pos hw)), fun hw => ?_⟩
    replace hx := hx.trans (congrArg finish (if_neg (Nat.not_le.mpr hw)))
    refine ⟨fun hr => hx.trans (congrArg finish (if_pos ((Bool.not_eq_true' _).mpr hr))), fun hr => ?_⟩
    replace hx := hx.trans (congrArg finish (if_neg (by rw [hr]; exact Bool.false_ne_true)))
    refine ⟨fun ho hd => ?_, fun ho hd => ?_, fun x ho => ?_⟩
    · subst hd
      rw [show s.shoots.find? _ = none from ho] at hx
      exact hx
    · subst hd
      rw [show s.shoots.find? _ = none from ho] at hx
      exact hx
    · rw [show s.shoots.find? _ = some x from ho] at hx
      exact ⟨fun hall => hx.trans (congrArg finish (if_neg (mt (shoot_over_iff _ _).mp fun ⟨y, hy, hid, hn⟩ => hn (hall y hy hid))) :
          _ = finish (.ok _)),
        fun hex => hx.trans (congrArg finish (if_pos ((shoot_over_iff _ _).mpr hex)) : _ = finish (.hold _))⟩
  · refine ⟨fun ha => (exec_rgprobe h).trans (congrArg finish (if_pos ha)), fun ha => ⟨fun ho => ?_, fun ho hf => ?_, fun x ho hf => ?_⟩⟩
    · exact (exec_rgprobe h).trans (congrArg finish ((if_neg (Bool.eq_false_iff.mp ha)).trans (if_pos (bne_iff_ne.mpr ho))))
    · have hx := exec_rgprobe_clear (w := w) h ha ho
      rw [show s.rtFind _ _ _ = none from hf] at hx
      refine ⟨fun hq => ?_, fun k hk hq => ?_⟩
      · rw [show s.askWalk _ _ _ = (s1, none) from hq] at hx
        exact hx
      · rw [show s.askWalk _ _ _ = (s1, some k) from hq] at hx
        exact hx.trans (congrArg finish (if_neg (mt beq_iff_eq.mp hk)) : _ = finish (.ok _))
    · have hx (w : BitVec 2) : exec (.rgprobe g gd ga w) s = finish (probeHit s g gd (s.me.g ga).val w x) := by
        rw [exec_rgprobe_clear h ha ho, show s.rtFind _ _ _ = some x from hf]
        rfl
      have hinfo := hx 0
      rw [probeHit, if_neg (by decide), if_neg (by decide), if_neg (by decide)] at hinfo
      refine ⟨hx 1, hx 2, hx 3, fun hk => ?_, fun hpart hk => ?_⟩
      · exact hinfo.trans (congrArg finish (if_pos (by simpa using hk)) : _ = finish (.ok _))
      · replace hinfo := hinfo.trans (congrArg finish (if_neg (by rw [hpart]; simpa using hk)))
        refine ⟨fun hq => ?_, fun b hq => ?_, fun y hy hq => ?_⟩
        · rw [show s.mapBit _ _ _ = _ from hq] at hinfo
          exact hinfo
        · rw [show s.mapBit _ _ _ = _ from hq] at hinfo
          exact hinfo
        · rw [show s.mapBit _ _ _ = _ from hq] at hinfo
          exact hinfo.trans (congrArg finish (if_neg (mt beq_iff_eq.mp hy)) : _ = finish (.ok _))
  · refine ⟨fun hb => traps_of_ready (by unfold exec; rfl) (by exact h) (if_pos ((Bool.or_eq_true _ _).mpr hb)), fun ha hb => ?_⟩
    have hclear : ¬((s.me.g ga).poison || (s.me.g gb).poison) = true := by
      rw [show (s.me.g ga).poison = false from ha, show (s.me.g gb).poison = false from hb]
      exact Bool.false_ne_true
    refine ⟨fun hlt => ?_, fun hle hw => ?_, fun hle hf => ?_, fun hle hw hf => ?_⟩
    · refine issuesAt_of_ready (by unfold exec; rfl) (by exact h) ((if_neg hclear).trans (congrArg Res.ok ?_))
      rw [if_pos hlt]
      exact filled_pending (.inl ⟨_, List.mem_append_right _ (List.mem_singleton_self _), rfl⟩)
    · refine issuesAt_of_ready (by unfold exec; rfl) (by exact h) ((if_neg hclear).trans (congrArg Res.ok ?_))
      rw [if_neg (Nat.not_lt.mpr hle)]
      exact filled_pending (.inl hw)
    · refine issuesAt_of_ready (by unfold exec; rfl) (by exact h) ((if_neg hclear).trans (congrArg Res.ok ?_))
      rw [if_neg (Nat.not_lt.mpr hle)]
      exact filled_pending (.inr hf)
    · refine issuesAt_of_ready (by unfold exec; rfl) (by exact h) ((if_neg hclear).trans (congrArg Res.ok ?_))
      rw [if_neg (Nat.not_lt.mpr hle)]
      exact filled_none hw hf

end Sys2Proof.Machine
end

section
/-! PROOFS. Vector banks that go off (R226, R350): their registers are dead and zero, nothing else changes. -/

namespace Sys2Proof.Machine

theorem getLsbD_setBit32 (b : BitVec 32) (i j : Nat) (on : Bool) (hj : j < 32) :
    (setBit32 b i on).getLsbD j = if j = i then on else b.getLsbD j := by
  have hbit : (BitVec.ofNat 32 (2 ^ i)).getLsbD j = decide (i = j) := by
    rw [BitVec.getLsbD_ofNat, Nat.testBit_two_pow]
    simp [hj]
  cases on
  · rw [setBit32, if_neg Bool.false_ne_true, BitVec.getLsbD_and, BitVec.getLsbD_not, hbit]
    by_cases h : j = i
    · simp [h]
    · simp [h, hj, Ne.symm h]
  · rw [setBit32, if_pos rfl, BitVec.getLsbD_or, hbit]
    by_cases h : j = i
    · simp [h]
    · simp [h, Ne.symm h]

/-! What keeps a strand's other registers. -/

/-- u is as t in its scalar and predicate registers, its tiles, its engines and its phase. -/
def VectorOnly (t u : Strand) : Prop :=
  u.r.g = t.r.g ∧ u.r.p = t.r.p ∧ u.r.tiles = t.r.tiles ∧ u.e = t.e ∧ u.phase = t.phase

theorem VectorOnly.refl (t : Strand) : VectorOnly t t := ⟨rfl, rfl, rfl, rfl, rfl⟩

theorem VectorOnly.trans {t u v : Strand} (h : VectorOnly t u) (h' : VectorOnly u v) : VectorOnly t v := by
  obtain ⟨hg, hp, ht, he, hf⟩ := h
  obtain ⟨hg', hp', ht', he', hf'⟩ := h'
  exact ⟨hg'.trans hg, hp'.trans hp, ht'.trans ht, he'.trans he, hf'.trans hf⟩

theorem vectorOnly_foldl {α : Type} {f : Strand → α → Strand} (hf : ∀ t x, VectorOnly t (f t x)) (l : List α) :
    ∀ t : Strand, VectorOnly t (l.foldl f t) := by
  induction l with
  | nil => exact VectorOnly.refl
  | cons x l ih => exact fun t => (hf t x).trans (ih (f t x))

/-! A register cleared, and a bank. -/

/-- A register dead and zero. -/
def clearV (t : Strand) (i : Nat) : Strand :=
  { t.setV i ⟨0, 0⟩ with r := { (t.setV i ⟨0, 0⟩).r with live := setBit32 t.r.live i false } }

theorem offV_eq (t : Strand) (k : Nat) : t.offV k =
    { (bankRegs k).foldl clearV t with r := { ((bankRegs k).foldl clearV t).r with
        banks := vSet ((bankRegs k).foldl clearV t).r.banks k
          { st := .off, wake := none, idleFrom := ((bankRegs k).foldl clearV t).clock, struck := [] } } } := rfl

theorem live_clearV_foldl (l : List Nat) (i : Nat) (hi : i < 32) :
    ∀ t : Strand, (l.foldl clearV t).r.live.getLsbD i = (t.r.live.getLsbD i && !l.contains i) := by
  induction l with
  | nil => exact fun t => (Bool.and_true _).symm
  | cons x l ih =>
    intro t
    rw [List.foldl_cons, ih, List.contains_cons, show (clearV t x).r.live = setBit32 t.r.live x false from rfl,
      getLsbD_setBit32 _ _ _ _ hi]
    by_cases h : i = x
    · simp [h]
    · rw [if_neg h, beq_eq_false_iff_ne.mpr h, Bool.false_or]

theorem v_clearV_foldl (l : List Nat) (i : Nat) (hi : i < 32) :
    ∀ t : Strand, vAt (l.foldl clearV t).r.v i = if i ∈ l then ⟨0, 0⟩ else vAt t.r.v i := by
  induction l with
  | nil => exact fun t => rfl
  | cons x l ih =>
    intro t
    rw [List.foldl_cons, ih]
    by_cases hl : i ∈ l
    · rw [if_pos hl, if_pos (List.mem_cons_of_mem _ hl)]
    · rw [if_neg hl, show (clearV t x).r.v = vSet t.r.v x ⟨0, 0⟩ from rfl]
      by_cases hx : i = x
      · subst hx
        rw [vAt_vSet_self _ _ _ hi, if_pos (List.mem_cons_self ..)]
      · rw [vAt_vSet_other _ _ _ _ hx, if_neg fun hc => (List.mem_cons.mp hc).elim hx hl]

theorem mem_bankRegs (k i : Nat) : i ∈ bankRegs k ↔ i / 4 = k := by
  simp only [bankRegs, List.mem_cons, List.not_mem_nil, or_false]
  omega

theorem live_offV (t : Strand) (k i : Nat) (hi : i < 32) : (t.offV k).r.live.getLsbD i = (t.r.live.getLsbD i && i / 4 != k) := by
  refine (live_clearV_foldl (bankRegs k) i hi t).trans (congrArg _ ?_)
  rw [Bool.eq_iff_iff, Bool.not_eq_true', List.contains_eq_mem, decide_eq_false_iff_not, mem_bankRegs, bne_iff_ne]

theorem v_offV (t : Strand) (k i : Nat) (hi : i < 32) : vAt (t.offV k).r.v i = if i / 4 = k then ⟨0, 0⟩ else vAt t.r.v i := by
  refine (v_clearV_foldl (bankRegs k) i hi t).trans ?_
  simp only [mem_bankRegs]

theorem bankOff_offV (t : Strand) (k : Nat) (hk : k < 8) : (t.offV k).bankOff (4 * k) = true := by
  have h : (t.offV k).bank (4 * k) = { st := .off, wake := none, idleFrom := ((bankRegs k).foldl clearV t).clock, struck := [] } := by
    rw [Strand.bank, Nat.mul_div_cancel_left k (by decide)]
    exact vAt_vSet_self _ _ _ hk
  rw [Strand.bankOff, h]
  rfl

theorem vectorOnly_offV (t : Strand) (k : Nat) : VectorOnly t (t.offV k) :=
  vectorOnly_foldl (f := clearV) (fun _ _ => ⟨rfl, rfl, rfl, rfl, rfl⟩) (bankRegs k) t

theorem flights_clearV_foldl (l : List Nat) : ∀ t : Strand, (l.foldl clearV t).flights = t.flights := by
  induction l with
  | nil => exact fun _ => rfl
  | cons x l ih => exact fun t => ih (clearV t x)

theorem flights_offV (t : Strand) (k : Nat) : (t.offV k).flights = t.flights := by
  rw [offV_eq]
  exact flights_clearV_foldl (bankRegs k) t

/-! Results of the bundle wake their banks again. -/

theorem vectorOnly_claimV (t : Strand) (i : Nat) : VectorOnly t (t.claimV i) := by
  unfold Strand.claimV Strand.wakeBank
  dsimp only
  split <;> exact ⟨rfl, rfl, rfl, rfl, rfl⟩

/-- A result of the bundle wakes its bank. -/
def rewakeStep (u : Strand) (f : Flight) : Strand :=
  match f.dst with
  | .v i =>
    if u.bankFull i then u
    else { u.claimV i with flights := (u.claimV i).flights.map (fun x => if x.tag == f.tag then { x with fixed := false } else x) }
  | _ => u

theorem rewake_eq (t : Strand) : t.rewake = (t.flights.filter (fun f => f.bundle == t.bundle)).foldl rewakeStep t := rfl

theorem vectorOnly_rewake (t : Strand) : VectorOnly t t.rewake := by
  rw [rewake_eq]
  refine vectorOnly_foldl (fun u f => ?_) _ t
  unfold rewakeStep
  split
  · split
    · exact VectorOnly.refl u
    · exact vectorOnly_claimV u _
  · exact VectorOnly.refl u

theorem rewake_idle {t : Strand} (h : t.flights = []) : t.rewake = t := by
  rw [Strand.rewake, h]
  rfl

/-! The registers a `node` keeps (R230). -/

/-- The live registers that a `node` keeps. -/
def nodeLive (t : Strand) (keep : List Nat) : BitVec 32 :=
  (List.range 32).foldl (fun (l : BitVec 32) i => if keep.contains i then l else setBit32 l i false) t.r.live

theorem getLsbD_nodeLive (t : Strand) (keep : List Nat) (i : Nat) (hi : i < 32) :
    (nodeLive t keep).getLsbD i = (t.r.live.getLsbD i && keep.contains i) := by
  have fold : ∀ (l : List Nat) (b : BitVec 32), (l.foldl (fun (l : BitVec 32) i => if keep.contains i then l else setBit32 l i false) b).getLsbD i =
      (b.getLsbD i && (keep.contains i || !l.contains i)) := by
    intro l
    induction l with
    | nil => intro b; simp
    | cons x l ih =>
      intro b
      rw [List.foldl_cons, ih, List.contains_cons]
      by_cases h : i = x
      · subst h
        cases keep.contains i <;> simp [getLsbD_setBit32 _ _ _ _ hi]
      · rw [beq_eq_false_iff_ne.mpr h, Bool.false_or]
        cases keep.contains x
        · rw [if_neg Bool.false_ne_true, getLsbD_setBit32 _ _ _ _ hi, if_neg h]
        · rw [if_pos rfl]
  rw [nodeLive, fold]
  simp [hi]

/-- A bank of which no register is live goes off. -/
def dropBank (u : Strand) (k : Nat) : Strand := if (bankRegs k).any (fun i => u.r.live.getLsbD i) then u else u.offV k

theorem vectorOnly_dropBank (u : Strand) (k : Nat) : VectorOnly u (dropBank u k) := by
  unfold dropBank
  split
  · exact VectorOnly.refl u
  · exact vectorOnly_offV u k

theorem live_dropBank (u : Strand) (k : Nat) : (dropBank u k).r.live = u.r.live := by
  unfold dropBank
  split
  case isTrue => rfl
  case isFalse h =>
    refine BitVec.eq_of_getLsbD_eq fun i hi => ?_
    rw [live_offV u k i hi]
    by_cases hk : i / 4 = k
    · have hdead : u.r.live.getLsbD i = false := by
        simpa using fun hl => h (List.any_eq_true.mpr ⟨i, (mem_bankRegs k i).mpr hk, hl⟩)
      rw [hdead, Bool.false_and]
    · rw [bne_iff_ne.mpr hk, Bool.and_true]

theorem flights_dropBank (u : Strand) (k : Nat) : (dropBank u k).flights = u.flights := by
  unfold dropBank
  split
  · rfl
  · exact flights_offV u k

theorem live_dropBank_foldl (l : List Nat) : ∀ u : Strand, (l.foldl dropBank u).r.live = u.r.live := by
  induction l with
  | nil => exact fun _ => rfl
  | cons k l ih => exact fun u => (ih _).trans (live_dropBank u k)

theorem flights_dropBank_foldl (l : List Nat) : ∀ u : Strand, (l.foldl dropBank u).flights = u.flights := by
  induction l with
  | nil => exact fun _ => rfl
  | cons k l ih => exact fun u => (ih _).trans (flights_dropBank u k)

end Sys2Proof.Machine
end

section
/-! PROOFS. Bank masks, graph nodes and `launch` (R225 to R230, R350, R454, O46). -/

namespace Sys2Proof.Machine

/-! Bank masks (R225, R227, R228). -/

section Masks
variable {s : State} {g : Guard} {gb : GReg} {k : List Nat → Res} {i : Instr}

theorem exec_of_maskForm (hi : exec i s = maskForm s g gb k) (h : Ready s g [.g gb.toNat]) : exec i s = finish (
    if (s.me.g gb).poison then trapIf s 0x1A 0
    else if 2 ^ 32 ≤ (s.me.g gb).val.toNat then trapIf s 0x03 0
    else if (s.me.g gb).val.setWidth 32 &&& ~~~s.spmask s.cur != 0 then trapIf s 0x40 0
    else k (maskBits 32 (s.me.g gb).val.toNat)) :=
  exec_of_ready hi (.inl rfl) h

theorem exec_of_mask (hi : exec i s = maskForm s g gb k) (h : Ready s g [.g gb.toNat]) (hp : (s.me.g gb).poison = false)
    (hw : (s.me.g gb).val.toNat < 2 ^ 32) (hm : (s.me.g gb).val.setWidth 32 &&& ~~~s.spmask s.cur = 0) :
    exec i s = finish (k (maskBits 32 (s.me.g gb).val.toNat)) :=
  (exec_of_maskForm hi h).trans (congrArg finish ((if_neg (Bool.eq_false_iff.mp hp)).trans ((if_neg (Nat.not_le.mpr hw)).trans
    (if_neg (by rw [hm]; decide)))))

/-- A drop of strand s.cur, with number no, left at bank k. -/
def leaveDrop (c no : Nat) (off : Bool) (w : BitVec 32) (s : State) (k : Nat) : State :=
  (s.modCore c (fun x => x.setBank k { x.bank k with drops := (x.bank k).drops ++ [(s.cur, no, off, w)] })).settleBank c k

theorem exec_spdrop (off : Bool) : exec (.spdrop g gb off) s = maskForm s g gb (fun ks =>
    if ks.isEmpty then .ok s
    else .ok (ks.foldl (leaveDrop (coreOf s.cur) s.fresh off (ks.foldl (fun (m : BitVec 32) k => setBit32 m k true) 0)) (s.sendOrder false))) := by
  unfold exec
  rfl

theorem exec_spwake : exec (.spwake g gb) s = maskForm s g gb (fun ks =>
    if ks.all (fun k => ((s.core (coreOf s.cur)).bank k).st == .full) then .ok s
    else .hold (ks.foldl (fun (s' : State) k => s'.wakeSp (coreOf s.cur) k) s)) := by
  unfold exec
  rfl

theorem maskBits_empty_iff {m : Word} (h : m.toNat < 2 ^ 32) : (maskBits 32 m.toNat).isEmpty = true ↔ m = 0 := by
  rw [List.isEmpty_iff, maskBits, List.filter_eq_nil_iff]
  constructor
  · intro hb
    refine BitVec.eq_of_toNat_eq (Nat.eq_of_testBit_eq fun j => ?_)
    by_cases hj : j < 32
    · simpa using hb j (List.mem_range.mpr hj)
    · rw [Nat.testBit_lt_two_pow (Nat.lt_of_lt_of_le h (Nat.pow_le_pow_right (by decide) (Nat.not_lt.mp hj)))]
      simp
  · rintro rfl j -
    simp

end Masks

theorem any_loud_iff (t : Strand) (ks : List Nat) : ks.any (fun k => !t.bankQuiet k) = true ↔ ∃ k ∈ ks, t.bankQuiet k = false := by
  simp only [List.any_eq_true, Bool.not_eq_true']

theorem all_full_iff (c : Core) (ks : List Nat) : ks.all (fun k => (c.bank k).st == .full) = true ↔ ∀ k ∈ ks, (c.bank k).st = .full := by
  simp only [List.all_eq_true, beq_iff_eq]

/-! Drops (R227). -/

theorem settleBank_drop {s : State} {d k n no : Nat} {off : Bool} {w : BitVec 32} (hb : ((s.core d).bank k).drops = [(n, no, off, w)])
    (hw : ((s.core d).bank k).waking = none) (h1 : s.toBank d k no = false) (h2 : s.toBanks n no w = false) :
    s.settleBank d k = if off then (s.modCore d (fun x => x.setBank k { (s.core d).bank k with drops := [] })).spOff d k
      else (s.modCore d (fun x => x.setBank k { (s.core d).bank k with drops := [] })).spRetain d k := by
  rw [State.settleBank, hb]
  refine (if_neg Bool.false_ne_true).trans ((if_neg ?_).trans ?_)
  · rw [hw, h1, h2]
    exact Bool.false_ne_true
  · cases off <;> rfl

theorem settleBank_waits {s : State} {d k n no : Nat} {off : Bool} {w : BitVec 32} {ds : List (Nat × Nat × Bool × BitVec 32)}
    (hb : ((s.core d).bank k).drops = (n, no, off, w) :: ds)
    (h : ((s.core d).bank k).waking ≠ none ∨ s.toBank d k no = true ∨ s.toBanks n no w = true) : s.settleBank d k = s := by
  rw [State.settleBank, hb]
  refine (if_neg Bool.false_ne_true).trans (if_pos ?_)
  simpa [Option.isSome_iff_ne_none, or_assoc] using h

/-! Graph nodes (R230). -/

/-- What a `node` waits for. -/
def nodeBusy (s : State) (offs : List Nat) : Bool :=
  s.me.flights.any (fun f => f.bundle < s.me.bundle) || s.me.e.cmds.any (fun x => x.engine == 1 && x.bundle < s.me.bundle) ||
    offs.any (fun k => ((s.core (coreOf s.cur)).bank k).waking.isSome || !((s.core (coreOf s.cur)).bank k).drops.isEmpty ||
      s.busyBank (coreOf s.cur) k)

theorem nodeBusy_iff (s : State) (offs : List Nat) : nodeBusy s offs = true ↔
    (∃ f ∈ s.me.flights, f.bundle < s.me.bundle) ∨ (∃ x ∈ s.me.e.cmds, x.engine = 1 ∧ x.bundle < s.me.bundle) ∨
      ∃ k ∈ offs, ((s.core (coreOf s.cur)).bank k).waking ≠ none ∨ ((s.core (coreOf s.cur)).bank k).drops ≠ [] ∨
        s.busyBank (coreOf s.cur) k = true := by
  simp only [nodeBusy, Bool.or_eq_true, List.any_eq_true, Bool.and_eq_true, decide_eq_true_eq, beq_iff_eq, Option.isSome_iff_ne_none,
    Bool.not_eq_true', List.isEmpty_eq_false_iff, or_assoc, ne_eq]

/-- The strand with the registers and tiles that a `node` keeps. -/
def nodeKeeps (t : Strand) (keep : List Nat) (tiles : BitVec 16) : Strand :=
  { t with r := { t.r with
    live := nodeLive t keep
    tiles := Vector.ofFn (fun (i : Fin 16) => { t.r.tiles[i] with written := t.r.tiles[i].written && tiles.getLsbD i }) } }

/-- The strand after a `node`. -/
def nodeStrand (s : State) (a : Word) (tiles : BitVec 16) : Strand :=
  let t := ((List.range 8).foldl dropBank (nodeKeeps s.me ((maskBits 32 a.toNat).map (fun i => s.me.pv i)) tiles)).rewake
  if s.nodeEvicts s.cur then { t with phase := .evicting true false } else t

theorem exec_node {s : State} {g : Guard} {ga gb : GReg} (tiles : BitVec 16) (h : Ready s g [.g ga.toNat, .g gb.toNat]) :
    exec (.node g ga gb tiles) s = finish (
      if (s.me.g ga).poison || (s.me.g gb).poison then trapIf s 0x1A 0
      else if 2 ^ 32 ≤ (s.me.g ga).val.toNat || 2 ^ 32 ≤ (s.me.g gb).val.toNat then trapIf s 0x03 0
      else if nodeBusy s (maskBits 32 ((s.spmask s.cur) &&& ~~~((s.me.g gb).val.setWidth 32)).toNat) then .hold s
      else .ok ((maskBits 32 ((s.spmask s.cur) &&& ~~~((s.me.g gb).val.setWidth 32)).toNat).foldl
        (fun (u : State) k => u.spOff (coreOf s.cur) k) (s.setMe (nodeStrand s (s.me.g ga).val tiles)))) :=
  exec_of_ready (i := .node g ga gb tiles) (by unfold exec; rfl) (.inl rfl) (by exact h)

theorem nodeStrand_frame (s : State) (a : Word) (tiles : BitVec 16) :
    (nodeStrand s a tiles).r.g = s.me.r.g ∧ (nodeStrand s a tiles).r.p = s.me.r.p ∧ (nodeStrand s a tiles).e = s.me.e ∧
      (nodeStrand s a tiles).phase = (if s.nodeEvicts s.cur then .evicting true false else s.me.phase) ∧
      (nodeStrand s a tiles).r.tiles = (nodeKeeps s.me [] tiles).r.tiles := by
  obtain ⟨hg, hp, ht, he, hf⟩ := (vectorOnly_foldl vectorOnly_dropBank (List.range 8)
    (nodeKeeps s.me ((maskBits 32 a.toNat).map (fun i => s.me.pv i)) tiles)).trans (vectorOnly_rewake _)
  unfold nodeStrand
  dsimp only
  split
  · exact ⟨hg, hp, he, rfl, ht⟩
  · exact ⟨hg, hp, he, hf, ht⟩

theorem nodeStrand_live (s : State) (a : Word) (tiles : BitVec 16) (hf : s.me.flights = []) :
    (nodeStrand s a tiles).r.live = nodeLive s.me ((maskBits 32 a.toNat).map (fun i => s.me.pv i)) := by
  have hr := rewake_idle ((flights_dropBank_foldl (List.range 8) (nodeKeeps s.me ((maskBits 32 a.toNat).map (fun i => s.me.pv i)) tiles)).trans hf)
  have hl := live_dropBank_foldl (List.range 8) (nodeKeeps s.me ((maskBits 32 a.toNat).map (fun i => s.me.pv i)) tiles)
  unfold nodeStrand
  dsimp only
  rw [hr]
  split <;> exact hl

theorem contains_maskNames (m i : Nat) (f : Nat → Nat) : ((maskBits 32 m).map f).contains i = (List.range 32).any (fun n => m.testBit n && f n == i) := by
  rw [Bool.eq_iff_iff, List.contains_iff_mem, List.mem_map, List.any_eq_true]
  simp only [maskBits, List.mem_filter, Bool.and_eq_true, beq_iff_eq, and_assoc]

theorem written_nodeKeeps (t : Strand) (keep : List Nat) (tiles : BitVec 16) (i : Nat) (hi : i < 16) :
    (vAt (nodeKeeps t keep tiles).r.tiles i).written = ((vAt t.r.tiles i).written && tiles.getLsbD i) := by
  simp [nodeKeeps, vAt, hi]

/-! `launch` (R229). -/

section Launch
variable {s s1 : State} {g : Guard} {gd ga gb : GReg} {gs : List Seg}

/-- The result of a launch on its way. -/
def launchRet (s : State) (gd : GReg) (u : State) (v : Nat) (bad : Bool) : Res :=
  .ok ((u.forget (editSrc s)).setMe ((u.forget (editSrc s)).me.fly (.g gd.toNat) (.s { val := BitVec.ofNat 64 v, poison := bad }) 0 1 false))

/-- A launch with its record and the queue's descriptor read. -/
def launchInto (s : State) (gd : GReg) (die desc : Nat) (rec : List (Byte × Bool)) (u : State) (bs : List Byte) : Res :=
  let lg := bits (word bs 1) 4 0
  let prod := bits (word bs 2) 31 0
  let cons := bits (word bs 2) 63 32
  let slot := word bs 0 + 64 * (prod % 2 ^ lg)
  if !bit (word bs 1) 9 || 20 < lg || !u.dramOk die true desc || !u.dramOk die true slot then trapIf u 0x40 0
  else if !u.intact (editSrc s) then .hold (u.forget (editSrc s))
  else if 2 ^ lg ≤ (prod + 2 ^ 32 - cons) % 2 ^ 32 then launchRet s gd u (2 ^ 63) false
  else if !u.settledLines desc 32 || !u.settledLines slot 64 then .hold u
  else
    let x := ofBytes (rec.map (fun b => b.1))
    let w0 := x % 2 ^ 64
    let ctl := w0 % 2 ^ 16 + prod % 2 ^ 16 * 2 ^ 16 + bits w0 56 32 * 2 ^ 32 + prod / 2 ^ 16 % 2 ^ 7 * 2 ^ 57
    launchRet s gd ((u.writeAt .dram (desc + 16) (toBytes 4 (prod + 1)) false).writeAt .dram slot (toBytes 64 (x - w0 + ctl)) false) prod false

/-- A launch with its record read. -/
def launchDesc (s : State) (gd : GReg) (die desc : Nat) (rec : List (Byte × Bool)) (u : State) : Got → Res
  | .wait => .hold u
  | .none => trapIf u 0x40 0
  | .data _ true => launchRet s gd u 0 true
  | .data bs false => launchInto s gd die desc rec u bs

/-- A launch whose record is being read. -/
def launchRead (s : State) (gd : GReg) (a : Word) (q : Nat) (s1 u : State) : Option (List (Byte × Bool)) → Res
  | none => .hold u
  | some rec =>
    if rec.any (fun b => b.2) then trapIf u 0x19 a
    else launchDesc s gd (272 + dieOf (coreOf s1.cur)) (s1.queueAt q) rec (u.queueDesc (editSrc s) (272 + dieOf (coreOf s1.cur)) q).1
      (u.queueDesc (editSrc s) (272 + dieOf (coreOf s1.cur)) q).2

theorem exec_launchCommand (h : Ready s g [.g gd.toNat, .g ga.toNat,
  .g gb.toNat]) (ha : (s.me.g ga).poison = false) (hb : (s.me.g gb).poison = false)
    (hq : (s.me.g gb).val.toNat < 2 ^ 16) (hg : gp s g = false) (hc : s.check { r := true } 64 (s.me.g ga).val 64 = (s1, .ok gs)) :
    exec (.launch g gd ga gb) s = finish (if !s1.released (.strand s1.cur) .dv then .hold s1
      else launchRead s gd (s.me.g ga).val (s.me.g gb).val.toNat s1 (s1.getSegs (editSrc s) s.me.sys.asid gs).1
        (s1.getSegs (editSrc s) s.me.sys.asid gs).2) := by
  refine (exec_of_ready (by unfold exec; rfl) (.inl rfl) (by exact h)).trans (congrArg finish ?_)
  dsimp only
  rw [if_neg (by rw [ha, hb]; exact Bool.false_ne_true), if_neg (Nat.not_le.mpr hq),
    if_neg (Bool.eq_false_iff.mp (show (s.me.p g.p).poison = false from hg)), checked_ok hc]
  refine ite_congr rfl (fun _ => rfl) fun _ => ?_
  rw [show Src.other (300 + s.cur) = editSrc s from rfl]
  cases (s1.getSegs (editSrc s) s.me.sys.asid gs).2 with
  | none => rfl
  | some rec =>
    refine ite_congr rfl (fun _ => rfl) fun _ => ?_
    rcases (((s1.getSegs (editSrc s) s.me.sys.asid gs).1).queueDesc (editSrc s) (272 + dieOf (coreOf s1.cur)) (s.me.g gb).val.toNat).2 with
      _ | _ | ⟨bs, _ | _⟩ <;> rfl

end Launch

/-- What a queue has to be for a device to produce into it, with both addresses writable (R229). -/
theorem launchAdmits_iff {u : State} {die desc slot lg : Nat} {on : Bool} :
    (!on || decide (20 < lg) || !u.dramOk die true desc || !u.dramOk die true slot) = false ↔
      on = true ∧ lg ≤ 20 ∧ u.dramOk die true desc = true ∧ u.dramOk die true slot = true := by
  simp [and_assoc]

theorem node_clear {s : State} {ga gb : GReg} {x : Res} (ha : (s.me.g ga).poison = false) (hb : (s.me.g gb).poison = false)
    (hwa : (s.me.g ga).val.toNat < 2 ^ 32) (hwb : (s.me.g gb).val.toNat < 2 ^ 32) :
    (if (s.me.g ga).poison || (s.me.g gb).poison then trapIf s 0x1A 0
      else if 2 ^ 32 ≤ (s.me.g ga).val.toNat || 2 ^ 32 ≤ (s.me.g gb).val.toNat then trapIf s 0x03 0 else x) = x := by
  rw [ha, hb, decide_eq_false (Nat.not_le.mpr hwa), decide_eq_false (Nat.not_le.mpr hwb)]
  rfl

/-- Settles O46. -/
theorem bankForms : Obligations.BankForms := by
  intro s g ga gb t c m named
  refine ⟨fun b h => ⟨fun hq => ?_, fun hq => ?_⟩, fun k i hi => ⟨live_offV t k i hi, fun hk => ?_, fun hk => ?_, bankOff_offV t k⟩,
    fun h i off hf => ?_, fun h hp hw hm => ⟨fun hall => ?_, fun hex => ?_, fun off => ⟨fun h0 => ?_, fun h0 => ?_⟩⟩,
    fun d k n no off w ds hb => ⟨fun hw h1 h2 hds => ?_, fun hw => settleBank_waits hb hw⟩,
    fun tiles h => ⟨fun hb => ?_, fun ha hb => ⟨fun hw => ?_, fun hwa hwb => ⟨fun hstill => ?_, fun hstill => ?_⟩⟩⟩,
    fun gd s1 gs h ha hb hq hg hc => ?_⟩
  · exact issues_of_ready (by unfold exec; rfl) (by exact h) (if_neg (mt (any_loud_iff _ _).mp fun ⟨k, hk, hl⟩ =>
      Bool.false_ne_true (hl.symm.trans (hq k hk))))
  · exact holdsAt_of_ready (by unfold exec; rfl) (by exact h) (if_pos ((any_loud_iff _ _).mpr hq))
  · rw [v_offV t k i hi, if_pos hk]
  · rw [v_offV t k i hi, if_neg hk]
  · have hx : ∃ k, exec i s = maskForm s g gb k := by
      rcases hf with rfl | rfl
      · exact ⟨_, exec_spwake⟩
      · exact ⟨_, exec_spdrop off⟩
    obtain ⟨k, hi⟩ := hx
    have hx := exec_of_maskForm hi h
    exact ⟨fun hp => hx.trans (congrArg finish (if_pos hp)),
      fun hp hw => hx.trans (congrArg finish ((if_neg (Bool.eq_false_iff.mp hp)).trans (if_pos hw))),
      fun hp hw hm => hx.trans (congrArg finish ((if_neg (Bool.eq_false_iff.mp hp)).trans ((if_neg (Nat.not_le.mpr hw)).trans
        (if_pos (bne_iff_ne.mpr hm)))))⟩
  · exact (exec_of_mask exec_spwake h hp hw hm).trans (congrArg finish (if_pos ((all_full_iff _ _).mpr hall)) :
      _ = finish (.ok s))
  · exact (exec_of_mask exec_spwake h hp hw hm).trans (congrArg finish (if_neg (mt (all_full_iff _ _).mp fun ha =>
      hex.elim fun k hk => hk.2 (ha k hk.1))) :
      _ = finish (.hold _))
  · exact (exec_of_mask (exec_spdrop off) h hp hw hm).trans (congrArg finish (if_pos ((maskBits_empty_iff hw).mpr h0)) : _ = finish (.ok s))
  · exact (exec_of_mask (exec_spdrop off) h hp hw hm).trans (congrArg finish (if_neg (mt (maskBits_empty_iff hw).mp h0)) : _ = finish (.ok _))
  · subst hds
    exact settleBank_drop hb hw h1 h2
  · exact (exec_node tiles h).trans (congrArg finish (if_pos ((Bool.or_eq_true _ _).mpr hb)))
  · refine (exec_node tiles h).trans (congrArg finish ((if_neg ?_).trans (if_pos ?_)))
    · rw [show (s.me.g ga).poison = false from ha, show (s.me.g gb).poison = false from hb]
      exact Bool.false_ne_true
    · simpa using hw
  · have hx := exec_node (s := s) (g := g) (ga := ga) (gb := gb) tiles h
    rw [node_clear ha hb hwa hwb] at hx
    exact hx.trans (congrArg finish (if_pos ((nodeBusy_iff s _).mpr hstill)))
  · have hx := exec_node (s := s) (g := g) (ga := ga) (gb := gb) tiles h
    rw [node_clear ha hb hwa hwb] at hx
    obtain ⟨hg, hp, he, hph, ht⟩ := nodeStrand_frame s (s.me.g ga).val tiles
    refine ⟨nodeStrand s (s.me.g ga).val tiles, hx.trans (congrArg finish (if_neg (mt (nodeBusy_iff s _).mp hstill)) : _ = finish (.ok _)),
      hg, hp, he, hph, fun i hi => ?_, fun hf i hi => ?_⟩
    · rw [ht]
      exact written_nodeKeeps s.me [] tiles i hi
    · exact (congrArg (·.getLsbD i) (nodeStrand_live s _ tiles hf)).trans
        ((getLsbD_nodeLive _ _ _ hi).trans (congrArg _ (contains_maskNames ..)))
  · have hx := exec_launchCommand h ha hb hq hg hc
    refine ⟨fun hr => hx.trans (congrArg finish (if_pos ((Bool.not_eq_true' _).mpr hr))), fun hr => ?_⟩
    replace hx := hx.trans (congrArg finish (if_neg (by rw [hr]; exact Bool.false_ne_true)))
    refine ⟨fun s2 hs2 => ?_, fun s2 rec hs2 => ?_⟩
    · rw [show s1.getSegs (editSrc s) s.me.sys.asid gs = _ from hs2] at hx
      exact hx
    rw [show s1.getSegs (editSrc s) s.me.sys.asid gs = _ from hs2] at hx
    refine ⟨fun hbad => hx.trans (congrArg finish (if_pos ?_)), fun hclean => ?_⟩
    · simpa [List.any_eq_true] using hbad
    replace hx := hx.trans (congrArg finish (if_neg (by simpa [List.any_eq_true] using hclean)))
    refine ⟨fun s3 hd => ?_, fun s3 hd => ?_, fun s3 bs hd => ?_⟩
    · rw [show s2.queueDesc (editSrc s) _ _ = _ from hd] at hx
      exact hx
    · rw [show s2.queueDesc (editSrc s) _ _ = _ from hd] at hx
      exact hx
    rw [show s2.queueDesc (editSrc s) _ _ = _ from hd] at hx
    intro lg prod cons desc slot admits sends
    refine ⟨fun hadm => hx.trans (congrArg finish (if_pos (Bool.not_eq_false _ ▸ mt launchAdmits_iff.mp hadm)) : _ = finish (.trap s3 _)),
      fun hadm hi => ?_, fun hadm hi hfull => ?_, fun hadm hi hroom => ⟨fun hl => ?_, fun hl1 hl2 => ?_⟩⟩
    all_goals
      replace hx := hx.trans (congrArg finish (if_neg (Bool.eq_false_iff.mp (launchAdmits_iff.mpr hadm))))
    · exact hx.trans (congrArg finish (if_pos ((Bool.not_eq_true' _).mpr hi)) : _ = finish (.hold _))
    all_goals replace hx := hx.trans (congrArg finish (if_neg (by rw [show s3.intact (editSrc s) = true from hi]; exact Bool.false_ne_true)))
    · exact hx.trans (congrArg finish (if_pos hfull) : _ = finish (.ok _))
    all_goals replace hx := hx.trans (congrArg finish (if_neg (Nat.not_le.mpr hroom)))
    · exact hx.trans (congrArg finish (if_pos (by simpa using hl)) : _ = finish (.hold _))
    · exact hx.trans (congrArg finish (if_neg (by rw [hl1, hl2]; exact Bool.false_ne_true)) : _ = finish (.ok _))

end Sys2Proof.Machine
end

section
/-! PROOFS. Commands start, go on and finish (R136, R143, R153 to R156, R173, R301, O47). -/

namespace Sys2Proof.Machine

/-! A command starts. -/

section Start
variable {s : State} {n e : Nat} {c : Cmd}

theorem exec_commandStart (he : (s.strand n).engines = true) (hn : (s.strand n).nextToStart e = some c)
    (ht : (s.strand n).hasTk c.tkw = true) (hm : s.mayStart n c = true) :
    exec (.engineCommandStart n e) s = .next
      (if counted c.op && (s.core (coreOf n)).holder == some (n % 2) && s.flipDue n then s.endRun n else s.startCmd n c) := by
  unfold exec execEngineCommandStart
  dsimp only
  rw [hn]
  dsimp only
  rw [if_neg (by rw [he, ht, hm]; exact Bool.false_ne_true)]
  split <;> rfl

/-- The next command to start stands in its queue. -/
theorem mem_of_nextToStart {t : Strand} (h : t.nextToStart e = some c) : c ∈ t.e.cmds := by
  suffices hq : c ∈ t.queue e from (List.mem_filter.mp hq).1
  unfold Strand.nextToStart at h
  split at h
  · exact List.mem_of_find?_eq_some h
  · split at h
    case h_1 a d rest heq =>
      rw [heq]
      split at h
      · cases h
        exact List.mem_cons_self ..
      · split at h
        · cases h
          exact List.mem_cons_of_mem _ (List.mem_cons_self ..)
        · cases h
    case h_2 a heq =>
      rw [heq]
      split at h
      · cases h
        exact List.mem_cons_self ..
      · cases h
    case h_3 => cases h

theorem cmds_takeTk (t : Strand) (k : Nat) : (t.takeTk k).e.cmds = t.e.cmds := by
  unfold Strand.takeTk
  split <;> rfl

theorem r_takeTk (t : Strand) (k : Nat) : (t.takeTk k).r = t.r := by
  unfold Strand.takeTk
  split <;> rfl

theorem tk_takeTk_self {t : Strand} {k : Nat} (h0 : k ≠ 0) (hk : k < 16) : vAt (t.takeTk k).e.tk k = vAt t.e.tk k - 1 := by
  rw [Strand.takeTk, if_neg (mt beq_iff_eq.mp h0)]
  exact vAt_vSet_self _ _ _ hk

theorem tk_takeTk_other {t : Strand} {k j : Nat} (h : j ≠ k) : vAt (t.takeTk k).e.tk j = vAt t.e.tk j := by
  unfold Strand.takeTk
  split
  · rfl
  · exact vAt_vSet_other _ _ _ _ h

theorem mem_setCmd {t : Strand} {c' : Cmd} (h : c ∈ t.e.cmds) (hid : c'.id = c.id) : c' ∈ (t.setCmd c').e.cmds :=
  List.mem_map.mpr ⟨c, h, if_pos (beq_iff_eq.mpr hid.symm)⟩

/-- A token form starts: its token is taken. -/
theorem startCmd_token {h : MHead} {x : BitVec 4} (ho : c.op = .twait h x ∨ c.op = .tsig h x) :
    s.startCmd n c = s.setStrand n (((s.strand n).takeTk c.tkw).setCmd { c with st := .running }) := by
  rcases ho with ho | ho <;> simp only [State.startCmd, ho]

end Start

/-! A command finishes. -/

section Finish
variable {s : State} {n : Nat} {c : Cmd}

/-- What a running command's end comes to. -/
theorem exec_finish_running (hc : (s.strand n).cmd c.id = some c) (hst : c.st = .running) : exec (.engineCommandFinish n c.id) s = event s
    (if c.engine == 1 then s.arrayFinish n c else if c.engine == 2 then s.copyFinish n c else if c.engine == 11 then s.nearFinish n c
     else s.portFinish n c) := by
  unfold exec execEngineCommandFinish
  dsimp only
  rw [hc]
  dsimp only
  rw [hst]

theorem exec_finish_ending (hc : (s.strand n).cmd c.id = some c) (hst : c.st = .ending) (hr : (s.strand n).roomTk c.tks = true) :
    exec (.engineCommandFinish n c.id) s = .next (s.setStrand n (((s.strand n).dropCmd c.id).pushTk c.tks)) := by
  unfold exec execEngineCommandFinish
  dsimp only
  rw [hc]
  dsimp only
  rw [hst]
  dsimp only
  rw [Strand.leave, if_pos hr]
  rfl

/-- The array may go on with a command without K-blocks. -/
theorem not_arrayBusy (hr : (s.strand n).runs c = true) (hn : counted c.op = false) (hg : (s.core (coreOf n)).gated = false) :
    ¬(!(s.strand n).runs c || (counted c.op && decide (c.done < c.blocks)) || (s.core (coreOf n)).gated) = true := by
  rw [hr, hn, hg]
  exact Bool.false_ne_true

theorem engine_of_runs {t : Strand} (h : t.runs c = true) : c.engine = 1 := by
  simp only [Strand.runs, Bool.and_eq_true, beq_iff_eq] at h
  exact h.1.2

section Array
variable (hc : (s.strand n).cmd c.id = some c) (hst : c.st = .running) (hr : (s.strand n).runs c = true)
include hc hst hr

theorem exec_finish_array : exec (.engineCommandFinish n c.id) s = event s (s.arrayFinish n c) :=
  (exec_finish_running hc hst).trans (congrArg (event s) (if_pos (beq_iff_eq.mpr (engine_of_runs hr))))

variable (hg : (s.core (coreOf n)).gated = false)
include hg

theorem exec_finish_lease {h : MHead} {k : BitVec 7} (ho : c.op = .lease h k) : exec (.engineCommandFinish n c.id) s =
    .next ((s.endRun n).modStrand n (fun u => { u with e := { u.e with leaseN := k.toNat } }.finishCmd c)) := by
  rw [exec_finish_array hc hst hr, State.arrayFinish]
  dsimp only
  rw [if_neg (not_arrayBusy hr (by rw [ho]; rfl) hg), ho]
  rfl

theorem exec_finish_unlease {h : MHead} (ho : c.op = .unlease h) : exec (.engineCommandFinish n c.id) s =
    .next ((s.endRun n).modStrand n (fun u => u.finishCmd c)) := by
  rw [exec_finish_array hc hst hr, State.arrayFinish]
  dsimp only
  rw [if_neg (not_arrayBusy hr (by rw [ho]; rfl) hg), ho]
  rfl

theorem exec_finish_mzero {h : MHead} {a k : BitVec 4} (ho : c.op = .mzero h a k) : exec (.engineCommandFinish n c.id) s =
    .next (s.setStrand n (((s.strand n).zeroTiles a.toNat (k.toNat + 1)).finishCmd c)) := by
  have hg' : (s.strand n).goArray c = .ok (((s.strand n).zeroTiles a.toNat (k.toNat + 1)).finishCmd c) := by
    unfold Strand.goArray
    rw [if_neg (by rw [ho]; exact Bool.false_ne_true), ho]
  rw [exec_finish_array hc hst hr, State.arrayFinish]
  dsimp only
  rw [if_neg (not_arrayBusy hr (by rw [ho]; rfl) hg), hg', ho]
  rfl

end Array

/-- A token form of a P queue. -/
theorem exec_finish_token {h : MHead} {x : BitVec 4} (hc : (s.strand n).cmd c.id = some c) (hst : c.st = .running) (h3 : 3 ≤ c.engine)
    (h10 : c.engine ≤ 10) (hp : (s.strand n).engines = true ∨ (s.strand n).leaving = true) (hh : (s.strand n).isHead c = true)
    (ho : c.op = .twait h x ∨ c.op = .tsig h x) :
    exec (.engineCommandFinish n c.id) s = .next (s.setStrand n ((s.strand n).finishCmd c)) := by
  rw [exec_finish_running hc hst, if_neg (by simp; omega), if_neg (by simp; omega), if_neg (by simp; omega), State.portFinish]
  dsimp only
  rw [if_neg (by rw [(Bool.or_eq_true _ _).mpr hp, hh]; exact Bool.false_ne_true)]
  rcases ho with ho | ho <;> rw [ho] <;> rfl

/-- A command that finishes with room for its token leaves its queue. -/
theorem cmds_finishCmd {t : Strand} (hr : t.roomTk c.tks = true) : ∀ x ∈ (t.finishCmd c).e.cmds, x.id ≠ c.id := by
  have hdrop : ∀ x ∈ (t.dropCmd c.id).e.cmds, x.id ≠ c.id := fun x hx => bne_iff_ne.mp (List.mem_filter.mp hx).2
  rw [Strand.finishCmd, if_pos hr]
  unfold Strand.pushTk
  split
  · exact hdrop
  · dsimp only
    split <;> exact hdrop

theorem tk_touchAll (l : List Nat) : ∀ t : Strand, (l.foldl (fun (u : Strand) i => u.touch i) t).e = t.e := by
  induction l with
  | nil => exact fun _ => rfl
  | cons i l ih => exact fun t => ih (t.touch i)

theorem tk_dropCmd (t : Strand) (id : Nat) : (t.dropCmd id).e.tk = t.e.tk := by
  unfold Strand.dropCmd
  dsimp only
  cases t.cmd id with
  | none => rfl
  | some c => exact congrArg Engines.tk (tk_touchAll _ t)

theorem tk_finishCmd {t : Strand} (hr : t.roomTk c.tks = true) (h0 : c.tks ≠ 0) (h16 : c.tks < 16) :
    vAt (t.finishCmd c).e.tk c.tks = vAt t.e.tk c.tks + 1 := by
  have hpush : vAt ((t.dropCmd c.id).pushTk c.tks).e.tk c.tks = vAt (t.dropCmd c.id).e.tk c.tks + 1 := by
    rw [Strand.pushTk, if_neg (mt beq_iff_eq.mp h0)]
    dsimp only
    split <;> exact vAt_vSet_self _ _ _ h16
  rw [Strand.finishCmd, if_pos hr, hpush, tk_dropCmd]

end Finish

end Sys2Proof.Machine
end

section
/-! PROOFS. Products on the array, copies and their rings, grants of the array (R143, R153 to R156, R178, R180, R205 to R208, O47). -/

namespace Sys2Proof.Machine

section Products
variable {s : State} {n : Nat} {c : Cmd}

/-- What a K-block of strand n's product comes to. -/
def blockEntered (s : State) (n : Nat) (c : Cmd) : Go → Option State
  | .ok u =>
    if c.blocks ≤ c.done + 1 then some ((s.setStrand n u).countBlock n)
    else if (s.setStrand n u).flipDue n then some ((s.setStrand n u).endRun n) else some (s.setStrand n u)
  | _ => none

section Block
variable (hc : (s.strand n).cmd c.id = some c) (hr : (s.strand n).runs c = true) (hn : counted c.op = true) (hd : c.done < c.blocks)
  (hh : (s.core (coreOf n)).holder = some (n % 2)) (hg : (s.core (coreOf n)).gated = false)
include hc hr hn hd hh hg

/-- The holder's product takes its next K-block, unless the array flips before it. -/
theorem exec_kblock : exec (.productKBlock n c.id) s =
    event s (if s.flipDue n then some (s.endRun n) else blockEntered s n c ((s.strand n).goProduct c)) := by
  unfold exec execProductKBlock
  dsimp only
  rw [hc]
  dsimp only
  rw [if_neg (by rw [hr, hn, hh, hg, decide_eq_false (Nat.not_le.mpr hd)]; simp)]
  cases (s.strand n).goProduct c <;> rfl

theorem exec_kblock_flips (hf : s.flipDue n = true) : exec (.productKBlock n c.id) s = .next (s.endRun n) := by
  rw [exec_kblock hc hr hn hd hh hg, if_pos hf]
  rfl

theorem exec_kblock_enters {u : Strand} (hf : s.flipDue n = false) (hu : (s.strand n).goProduct c = .ok u) :
    exec (.productKBlock n c.id) s = event s (blockEntered s n c (.ok u)) := by
  rw [exec_kblock hc hr hn hd hh hg, if_neg (Bool.eq_false_iff.mp hf), hu]

end Block

/-- An array command that meets a fault stops; a product's run ends with it. -/
theorem exec_productStop {r : TrapRec} (hc : (s.strand n).cmd c.id = some c) (hr : (s.strand n).runs c = true)
    (hf : (s.strand n).goArray c = .fault r) (hh : counted c.op = true → (s.core (coreOf n)).holder = some (n % 2)) :
    exec (.productStop n c.id) s = .next
      (if counted c.op then (s.setStrand n ((s.strand n).stopCmd c r)).endRun n else s.setStrand n ((s.strand n).stopCmd c r)) := by
  have hgo : ¬(!(s.strand n).runs c || (counted c.op && (s.core (coreOf n)).holder != some (n % 2))) = true := by
    rw [hr]
    cases hn : counted c.op with
    | false => exact Bool.false_ne_true
    | true => rw [hh hn]; simp
  unfold exec execProductStop
  dsimp only
  rw [hc]
  dsimp only
  rw [if_neg hgo, hf]
  rfl

end Products

/-! Copies (R178, R180). -/

section Copies
variable {s : State} {n : Nat} {c : Cmd} (hc : (s.strand n).cmd c.id = some c)
include hc

theorem exec_granule_bytes {h : MHead} {a b len : GReg} {exp lu : Bool} {kind : CompKind} {gc : BitVec 5}
    (hr : (s.strand n).copyRuns c = true) (hd : c.done < c.whole) (ho : c.op = .copy h a b len exp lu kind gc) :
    exec (.copyGranule n c.id) s = .next (s.copyBytes n c exp) := by
  unfold exec execCopyGranule
  dsimp only
  rw [hc]
  dsimp only
  rw [if_neg (by rw [hr, decide_eq_false (Nat.not_le.mpr hd)]; exact Bool.false_ne_true), ho]
  rfl

theorem exec_granule_block {h : MHead} {cnt crc : GReg} {dst src : LayNo} {lu chk schk : Bool} {kind : CompKind} {gc : BitVec 5}
    (hr : (s.strand n).copyRuns c = true) (hd : c.done < c.whole) (ho : c.op = .copyt h cnt crc dst src lu chk schk kind gc) :
    exec (.copyGranule n c.id) s = .next (s.copyBlock n c chk schk) := by
  unfold exec execCopyGranule
  dsimp only
  rw [hc]
  dsimp only
  rw [if_neg (by rw [hr, decide_eq_false (Nat.not_le.mpr hd)]; exact Bool.false_ne_true), ho]
  rfl

end Copies

/-- A granule of a plain copy, once its source has been read and its destination's checks pass. -/
theorem copyBytes_goes {s s1 s2 u : State} {n : Nat} {c : Cmd} {bs : List (Byte × Bool)} {gs : List Seg}
    (hs : State.segSource n c.id (s.engineSpan (.copy n c.id) n { r := true } 1 (vAt c.ops 1 + BitVec.ofNat 64 c.done)
      (min 256 (c.whole - c.done))) = .ok s1 bs [])
    (hd : s1.engineSpan (.copy n c.id) n { w := true } 1 (vAt c.ops 0 + BitVec.ofNat 64 c.done) (min 256 (c.whole - c.done)) =
      (s2, some (gs, none)))
    (hw : s2.engineWrite (.copy n c.id) n c.id (whole (bs.map (fun b => b.1))) gs = some u) :
    s.copyBytes n c false = (u.modStrand n (fun t => t.setCmd { c with
      done := c.done + min 256 (c.whole - c.done)
      uses := [(vAt c.ops 1 + BitVec.ofNat 64 (c.done + min 256 (c.whole - c.done) - 1), s1.fresh),
        (vAt c.ops 0 + BitVec.ofNat 64 (c.done + min 256 (c.whole - c.done) - 1), s1.fresh)] })).forget (.copy n c.id) := by
  unfold State.copyBytes
  dsimp only
  rw [if_neg Bool.false_ne_true, hs]
  dsimp only
  rw [hd, State.copyOut]
  dsimp only
  rw [hw]
  rfl

/-! A copy that completes in a ring (R180, R208). -/

section Ring
variable {s : State} {n : Nat} {c : Cmd} {h : MHead} {a b len : GReg} {exp : Bool} {gc : BitVec 5}
  (hc : (s.strand n).cmd c.id = some c) (ho : c.op = .copy h a b len exp false .ring gc)
include ho

theorem lastSpans_plain : s.lastSpans n c = (s, some []) := by
  unfold State.lastSpans
  rw [ho]

theorem record_plain : c.record = none := by
  unfold Cmd.record
  rw [ho]

include hc

theorem exec_ringCompletion : exec (.copyRingCompletion n c.id) s = event s (s.finishCopy n c .ring gc.toNat) := by
  unfold exec execCopyRingCompletion
  dsimp only
  rw [hc]
  dsimp only
  rw [ho]

variable (hst : c.st = .running) (he : c.engine = 2) (hw : c.whole ≤ c.done) (hs : s.stored (.copy n c.id) = true)
include hst he hw hs

theorem exec_ringCompletion_publishes (hf : c.fin = 2) (hp : (s.strand n).engines = true ∨ (s.strand n).leaving = true) :
    exec (.copyRingCompletion n c.id) s = .next ((s.publishSlot n c gc.toNat).endCopy n c []) := by
  rw [exec_ringCompletion hc ho, State.finishCopy]
  dsimp only
  rw [if_neg ?_, lastSpans_plain ho]
  · dsimp only
    rw [record_plain ho, hf]
    rfl
  · have hp' : ((s.strand n).engines || ((s.strand n).leaving && c.fin == 2)) = true := by
      rw [hf]
      rcases hp with hp | hp <;> simp [hp]
    rw [hp', Cmd.live, hst, he, decide_eq_false (Nat.not_lt.mpr hw), hs]
    decide

theorem exec_ringCompletion_claims (hf : c.fin = 0) (hp : (s.strand n).engines = true) :
    exec (.copyRingCompletion n c.id) s = event s (s.claimSlot n c gc.toNat) := by
  rw [exec_ringCompletion hc ho, State.finishCopy]
  dsimp only
  rw [if_neg ?_, lastSpans_plain ho]
  · dsimp only
    rw [record_plain ho, hf]
    rfl
  · rw [hp, Cmd.live, hst, he, decide_eq_false (Nat.not_lt.mpr hw), hs]
    simp

end Ring

/-- A slot claimed: the ring is the strand's, configured and not full, and the tag's checks pass. -/
theorem claimSlot_goes {s s1 u : State} {n j : Nat} {c : Cmd} {k : Kernel} {g : Ring} {gs : List Seg}
    (hg : (tget (s.core (coreOf n)).rings j).getD Ring.reset = g) (hk : s.kernel (s.strand n).kernel = some k)
    (hm : k.ringmask.getLsbD j = true) (hns : g.ns ≠ 0) (hfull : g.full = false)
    (hs : s.engineSpan (.copy n c.id) n { w := true } 1 (BitVec.ofNat 64 (0xFF00000000000000 + g.slot g.t)) 8 = (s1, some (gs, none)))
    (hw : s1.engineWrite (.copy n c.id) n c.id (whole (toBytes 8 c.tag.toNat)) gs = some u) :
    s.claimSlot n c j = some ((u.modCore (coreOf n) (fun x => { x with rings := tput x.rings j { g with t := g.t + 1 } })).toStage n
      { c with ops := vSet c.ops 3 (g.t.zeroExtend 64) } 2) := by
  unfold State.claimSlot
  dsimp only
  rw [hg, if_neg (by rw [hk, Option.map_some, Option.getD_some, hm]; exact Bool.false_ne_true), if_neg (mt beq_iff_eq.mp hns),
    if_neg (Bool.eq_false_iff.mp hfull), hs]
  dsimp only
  rw [hw]

/-! Grants (R153, R154). -/

/-- A free array goes to a strand that requests, of two to the one that did not hold the last run. -/
theorem exec_grant {s : State} {c : Nat} (hg : (s.core c).gated = false) (hh : (s.core c).holder = none) :
    exec (.arrayGrant c) s = event s (
      if s.requests (2 * c) && s.requests (2 * c + 1) then some (s.giveArray c (some (1 - (s.core c).lastHolder)))
      else if s.requests (2 * c) then some (s.giveArray c (some 0))
      else if s.requests (2 * c + 1) then some (s.giveArray c (some 1)) else none) := by
  unfold exec execArrayGrant
  dsimp only
  rw [if_neg (Bool.eq_false_iff.mp hg), hh]

end Sys2Proof.Machine
end

section
/-! PROOFS. Faults of engines, pattern streams and rewinds; the events of a strand's engines put together (R165, R168, R172, R342,
R448, O47). -/

namespace Sys2Proof.Machine

/-! Faults (R448, R466). -/

section Faults
variable {s : State} {n : Nat}

theorem findSome_one {α β : Type} {l : List α} {f : α → Option β} {u : α} {b : β} (hu : u ∈ l) (hb : f u = some b)
    (ho : ∀ v, v ≠ u → f v = none) : l.findSome? f = some b := by
  induction l with
  | nil => cases hu
  | cons x l ih =>
    rw [List.findSome?_cons]
    by_cases hx : x = u
    · rw [hx, hb]
    · rw [ho x hx]
      exact ih ((List.mem_cons.mp hu).resolve_left (Ne.symm hx))

/-- The engine fault that a near-memory kernel's fault becomes. -/
def nearEFault (c : Cmd) (u : Nat) (f : NmFault) : EFault :=
  { id := c.id, cause := if 2 ≤ f.reason.toNat ∧ f.reason.toNat ≤ 5 then 0x30 else 0x31, tva := f.va, tpos0 := (f.words u).1,
    tpos1 := (f.words u).2, ttag := c.ttag, eos := none }

/-- The fault of a near-memory kernel ends its `nlaunch`. -/
theorem exec_delivery_near {c : Cmd} {u : Nat} {l : NLaunch} {f : NmFault} (hc : (s.strand n).cmd c.id = some c) (hu : u < numNmus)
    (ho : ∀ v, v ≠ u → (s.nmu v).faults = []) (hf : (s.nmu u).faults = [(l, f)]) (hl : l.fromCmd = some (n, c.id)) :
    exec (.engineFaultDelivery n c.id) s = .next ((s.modNmu u (fun m => { m with faults := [] })).setStrand n
      { (s.strand n).dropCmd c.id with
        e := { ((s.strand n).dropCmd c.id).e with faults := ((s.strand n).dropCmd c.id).e.faults ++ [nearEFault c u f] } }) := by
  have hnear : (List.range numNmus).findSome? (fun u => ((s.nmu u).faults.find? (fun f => f.1.fromCmd == some (n, c.id))).map
      (fun f => (u, f.2))) = some (u, f) := by
    refine findSome_one (List.mem_range.mpr hu) ?_ fun v hv => ?_
    · simp [hf, hl]
    · simp [ho v hv]
  have hmod : s.modNmu u (fun m => { m with faults := m.faults.filter (fun f => f.1.fromCmd != some (n, c.id)) }) =
      s.modNmu u (fun m => { m with faults := [] }) := by
    rw [State.modNmu, State.modNmu]
    simp [hf, hl]
  have hcause : (if decide (2 ≤ f.reason.toNat) && decide (f.reason.toNat ≤ 5) then (0x30 : BitVec 7) else 0x31) =
      if 2 ≤ f.reason.toNat ∧ f.reason.toNat ≤ 5 then 0x30 else 0x31 := by
    simp only [Bool.and_eq_true, decide_eq_true_eq]
  unfold exec execEngineFaultDelivery
  dsimp only
  rw [hnear, hc]
  dsimp only
  rw [hmod, hcause]
  rfl

/-- No unit holds a fault of a command. -/
theorem near_none (hf : ∀ u, u < numNmus → (s.nmu u).faults = []) (id : Nat) : (List.range numNmus).findSome?
    (fun u => ((s.nmu u).faults.find? (fun f => f.1.fromCmd == some (n, id))).map (fun f => (u, f.2))) = none := by
  rw [List.findSome?_eq_none_iff]
  intro u hu
  simp [hf u (List.mem_range.mp hu)]

/-- The fault that stands first is taken at the boundary. -/
theorem boundary_fault {f : EFault} (hp : (s.strand n).sys.priv = false) (hd : (s.strand n).dlHit = false)
    (hf : firstFault (s.strand n).e.faults = some f) :
    boundary { s with cur := n } = some (({ s with cur := n } : State).takeFault n f) := by
  have hme : ({ s with cur := n } : State).me = s.strand n := rfl
  unfold boundary
  dsimp only
  rw [hme, if_neg (Bool.eq_false_iff.mp hd), if_neg (Bool.eq_false_iff.mp hp), hf]

theorem exec_delivery_taken {f : EFault} (hn : ∀ u, u < numNmus → (s.nmu u).faults = []) (hr : (s.strand n).phase = .running)
    (hp : (s.strand n).sys.priv = false) (hd : (s.strand n).dlHit = false) (he : (s.strand n).entering = false)
    (hf : firstFault (s.strand n).e.faults = some f) :
    exec (.engineFaultDelivery n f.id) s = .next (({ s with cur := n } : State).takeFault n f) := by
  unfold exec execEngineFaultDelivery
  dsimp only
  rw [near_none hn f.id]
  dsimp only
  rw [if_pos (by rw [hr, hp, hd, he, hf]; simp), boundary_fault hp hd hf]
  rfl

end Faults

/-! Pattern streams (R168, R342). -/

section Streams
variable {s : State} {n q : Nat}

theorem exec_blockFetch (hq : q < 6) (he : (s.strand n).engines = true ∨ (s.strand n).feeds q = true) (hl : (s.strand n).portLive q = true)
    (hc : (vAt (s.strand n).e.ports q).captured = true) (hs : (vAt (s.strand n).e.ports q).spent q = false)
    (hf : (vAt (s.strand n).e.ports q).fault = none)
    (hr : (vAt (s.strand n).e.ports q).rew = none ∨ (s.strand n).claimsRest q = false) (hb : (vAt (s.strand n).e.ports q).buf.length < 4) :
    exec (.patternBlockFetch n q) s = .next (s.fetchBlock n q) := by
  have hrew : ((vAt (s.strand n).e.ports q).rew.isNone || !(s.strand n).claimsRest q) = true := by
    rcases hr with h | h <;> simp [h]
  unfold exec execPatternBlockFetch
  dsimp only
  rw [if_pos (by rw [decide_eq_true hq, (Bool.or_eq_true _ _).mpr he, hl, hc, hs, hf, hrew, decide_eq_true hb]; rfl)]
  rfl

/-- A block whose rows pass their checks and have come enters the port. -/
theorem fetchBlock_enters {s1 s2 : State} {x : List Seg × Option Fail} {bs : List (Byte × Bool)}
    (hx : (vAt (s.strand n).e.ports q).lay.xf ≠ 1)
    (hrows : s.engineRows (.port n q) n { r := true } (vAt (s.strand n).e.ports q).lay ((vAt (s.strand n).e.ports q).lay.origin
      (indices (vAt (s.strand n).e.ports q).nextNo (vAt (s.strand n).e.ports q).prog.counts)) (List.range 16) = (s1, some x))
    (hread : s1.engineRead (.port n q) n (vAt (s.strand n).e.ports q).fork x = (s2, some (.ok bs))) :
    s.fetchBlock n q = (s2.modStrand n (fun t => t.enter q ((vAt (s.strand n).e.ports q).lay.toBlock
      ((vAt (s.strand n).e.ports q).seedAt (vAt (s.strand n).e.ports q).nextNo) (BitVec.allOnes 1024) bs)
      [((vAt (s.strand n).e.ports q).lay.lastVa ((vAt (s.strand n).e.ports q).lay.origin
        (indices (vAt (s.strand n).e.ports q).nextNo (vAt (s.strand n).e.ports q).prog.counts)), s.fresh)])).forget (.port n q) := by
  unfold State.fetchBlock
  dsimp only
  rw [if_neg (mt beq_iff_eq.mp hx), hrows]
  dsimp only
  rw [hread]

theorem port_enter (w : Strand) (b : InBlock) (uses : List (Word × Nat)) (hq : q < 8) :
    (vAt (w.enter q b uses).e.ports q).nextNo = (vAt w.e.ports q).nextNo + 1 ∧
    (vAt (w.enter q b uses).e.ports q).buf =
      (vAt w.e.ports q).buf ++ [{ b.blk with pos := posWords (vAt w.e.ports q) q (vAt w.e.ports q).nextNo 0, mine := true }] := by
  have h : vAt (w.enter q b uses).e.ports q = { vAt w.e.ports q with
      buf := (vAt w.e.ports q).buf ++ [{ b.blk with pos := posWords (vAt w.e.ports q) q (vAt w.e.ports q).nextNo 0, mine := true }]
      nextNo := (vAt w.e.ports q).nextNo + 1
      uses := uses } := vAt_vSet_self _ _ _ hq
  rw [h]
  exact ⟨rfl, rfl⟩

theorem exec_blockWrite {b : PBlock} {bs : List PBlock} (hq : q = 6 ∨ q = 7)
    (he : ((s.strand n).engines = true ∧ (s.strand n).portLive q = true) ∨ (s.strand n).leaving = true)
    (hc : (vAt (s.strand n).e.ports q).captured = true) (hf : (vAt (s.strand n).e.ports q).fault = none)
    (hb : (vAt (s.strand n).e.ports q).buf = b :: bs) : exec (.patternBlockWrite n q) s = .next (s.writeBlock n q b) := by
  have hq' : (q == 6 || q == 7) = true := by rcases hq with h | h <;> simp [h]
  have h1 : ((s.strand n).engines || (s.strand n).leaving) = true := by rcases he with ⟨h, -⟩ | h <;> simp [h]
  have h2 : ((s.strand n).portLive q || (s.strand n).leaving) = true := by rcases he with ⟨-, h⟩ | h <;> simp [h]
  unfold exec execPatternBlockWrite
  dsimp only
  rw [if_pos (by rw [hq', h1, h2, hc, hf]; rfl), hb]
  rfl

theorem writeBlock_waits {b : PBlock} (h : (vAt (s.strand n).e.ports q).sent = true) (hs : s.stored (.port n q) = false) :
    s.writeBlock n q b = s := by
  unfold State.writeBlock
  dsimp only
  rw [if_pos h, if_neg (Bool.eq_false_iff.mp hs)]

theorem writeBlock_frees {b : PBlock} (h : (vAt (s.strand n).e.ports q).sent = true) (hs : s.stored (.port n q) = true) :
    s.writeBlock n q b = (s.modStrand n (fun t => (t.setPort q { vAt t.e.ports q with
      buf := (vAt t.e.ports q).buf.drop 1, sent := false, nextNo := (vAt t.e.ports q).nextNo + 1 }).raise
        ((vAt (s.strand n).e.ports q).lay.fromBlock ((vAt (s.strand n).e.ports q).seedAt (vAt (s.strand n).e.ports q).nextNo) b
          (BitVec.allOnes 1024)).flags)).forget (.port n q) := by
  unfold State.writeBlock
  dsimp only
  rw [if_pos h, if_pos hs]

theorem writeBlock_sends {b : PBlock} {s1 u : State} {gs : List Seg} (h : (vAt (s.strand n).e.ports q).sent = false)
    (hrows : s.engineRows (.port n q) n { w := true } (vAt (s.strand n).e.ports q).lay ((vAt (s.strand n).e.ports q).lay.origin
      (indices (vAt (s.strand n).e.ports q).nextNo (vAt (s.strand n).e.ports q).prog.counts)) (List.range 16) = (s1, some (gs, none)))
    (hw : s1.engineWrite (.port n q) n (vAt (s.strand n).e.ports q).fork ((vAt (s.strand n).e.ports q).lay.fromBlock
      ((vAt (s.strand n).e.ports q).seedAt (vAt (s.strand n).e.ports q).nextNo) b (BitVec.allOnes 1024)).bytes gs = some u) :
    s.writeBlock n q b = u.modStrand n (fun t => t.setPort q { vAt t.e.ports q with sent := true, uses :=
      [((vAt (s.strand n).e.ports q).lay.lastVa ((vAt (s.strand n).e.ports q).lay.origin
        (indices (vAt (s.strand n).e.ports q).nextNo (vAt (s.strand n).e.ports q).prog.counts)), s.fresh)] }) := by
  unfold State.writeBlock
  dsimp only
  rw [if_neg (Bool.eq_false_iff.mp h), hrows]
  dsimp only
  rw [hw]

/-- A rewind, once the port's claims rest and its pushes are over (R172). -/
theorem exec_rewind {w : Word × Word} (hq : q < 8) (hw : (vAt (s.strand n).e.ports q).rew = some w) (hc : (s.strand n).claimsRest q = true)
    (ho : inbound q = true ∨ ((s.strand n).pushes q = 0 ∧ ((vAt (s.strand n).e.ports q).buf = [] ∨ (vAt (s.strand n).e.ports q).fault ≠ none))) :
    exec (.rewind n q) s = .next ((s.setStrand n (((s.strand n).setPort q { vAt (s.strand n).e.ports q with
      rew := none, resume := [], buf := [], sent := false, fault := none,
      nextNo := linear ((posIndices w).zip (vAt (s.strand n).e.ports q).prog.counts),
      accepted := linear ((posIndices w).zip (vAt (s.strand n).e.ports q).prog.counts),
      stopped := (s.strand n).stopActs q }).clearEos q)).forget (.port n q)) := by
  have ho' : (inbound q || ((s.strand n).pushes q == 0 && ((vAt (s.strand n).e.ports q).buf.isEmpty ||
      (vAt (s.strand n).e.ports q).fault.isSome))) = true := by
    simpa [Option.isSome_iff_ne_none] using ho
  unfold exec execRewind
  dsimp only
  rw [hw]
  dsimp only
  rw [if_pos (by rw [decide_eq_true hq, hc, ho']; rfl)]
  rfl

end Streams

end Sys2Proof.Machine
end

section
/-! PROOFS. The events of a strand's engines put together (O47). -/

namespace Sys2Proof.Machine

/-- Settles O47. -/
theorem engineEvents : Obligations.EngineEvents := by
  intro s n t core does holds
  refine ⟨fun e c he hn ht hm => ⟨fun hc hh hf => ?_, fun hno => ?_, fun h x ho => ?_⟩, fun c hc => ?_, fun hg hh => ⟨fun ha hb => ?_,
    fun ha hb => ?_,
    fun ha hb => ?_⟩, fun c u l f hc hu ho hf hl => exec_delivery_near hc hu ho hf hl,
    fun f hn hr hp hd he hf => exec_delivery_taken hn hr hp hd he hf, fun f => rfl, fun q => ?_⟩
  · refine (exec_commandStart he hn ht hm).trans (congrArg Host.Outcome.next (if_pos ?_))
    rw [hc, hf, show (s.core (coreOf n)).holder = some (n % 2) from hh]
    simp
  · refine (exec_commandStart he hn ht hm).trans (congrArg Host.Outcome.next (if_neg ?_))
    simpa only [Bool.and_eq_true, beq_iff_eq, Decidable.not_and_iff_not_or_not, Bool.not_eq_true, or_assoc] using hno
  · have hmem : c ∈ ((s.strand n).takeTk c.tkw).e.cmds := by
      rw [cmds_takeTk]
      exact mem_of_nextToStart hn
    intro u
    have hu : u = ((s.strand n).takeTk c.tkw).setCmd { c with st := .running } := by
      rw [show u = (s.startCmd n c).strand n from rfl, startCmd_token ho]
      exact State.strand_setStrand ..
    rw [hu]
    exact ⟨mem_setCmd hmem rfl, r_takeTk _ _, fun h0 h16 => tk_takeTk_self h0 h16, fun k hk => tk_takeTk_other hk⟩
  · intro fin
    refine ⟨fun hst hr hg => ⟨fun h k ho => exec_finish_lease hc hst hr hg ho, fun h ho => exec_finish_unlease hc hst hr hg ho,
      fun h a k ho => exec_finish_mzero hc hst hr hg ho⟩, fun hst h3 h10 hp hh ⟨h, x, ho⟩ => exec_finish_token hc hst h3 h10 hp hh ho,
      fun hst hr => exec_finish_ending hc hst hr, fun hr => ⟨cmds_finishCmd hr, tk_finishCmd hr⟩,
      fun hr => ⟨fun hn hd hh hg => ⟨fun hf => ?_,
        fun u hf hu => ⟨fun hd' => ?_, fun hd' => ?_⟩⟩, fun r hf => ⟨fun hn hh => ?_, fun hn => ?_⟩⟩,
      fun hr hd => ⟨fun h a b len exp lu kind gc ho => exec_granule_bytes hc hr hd ho,
        fun h cnt crc dst src lu chk schk kind gc ho => exec_granule_block hc hr hd ho⟩,
      fun s1 bs s2 gs u => ?_, fun h a b len exp gc ho hst he hw hs => ⟨fun hf hp => ?_,
      fun k s1 gs u hf hp hk hm hns hfull hsp hwr => ?_⟩⟩
    · exact exec_kblock_flips hc hr hn hd hh hg hf
    · refine (exec_kblock_enters hc hr hn hd hh hg hf hu).trans ?_
      rw [blockEntered, if_neg (Nat.not_le.mpr hd')]
      split <;> rfl
    · refine (exec_kblock_enters hc hr hn hd hh hg hf hu).trans ?_
      rw [blockEntered, if_pos (Nat.le_of_eq hd')]
      rfl
    · exact (exec_productStop hc hr hf fun _ => hh).trans (congrArg Host.Outcome.next (if_pos hn))
    · exact (exec_productStop hc hr hf fun h => absurd (hn.symm.trans h) Bool.false_ne_true).trans
        (congrArg Host.Outcome.next (if_neg (Bool.eq_false_iff.mp hn)))
    · intro k src from' to' h1 h2 h3
      exact copyBytes_goes h1 h2 h3
    · exact exec_ringCompletion_publishes hc ho hst he hw hs hf hp
    · change exec (.copyRingCompletion n c.id) s = _
      refine (exec_ringCompletion_claims hc ho hst he hw hs hf hp).trans ?_
      rw [claimSlot_goes rfl hk hm hns hfull hsp hwr]
      rfl
  · refine (exec_grant hg hh).trans ?_
    rw [if_neg (by rw [show s.requests (2 * coreOf n + 1) = false from hb]; simp), if_pos ha]
    rfl
  · refine (exec_grant hg hh).trans ?_
    rw [show s.requests (2 * coreOf n) = false from ha, show s.requests (2 * coreOf n + 1) = true from hb]
    rfl
  · refine (exec_grant hg hh).trans ?_
    rw [show s.requests (2 * coreOf n) = true from ha, show s.requests (2 * coreOf n + 1) = true from hb]
    rfl
  · intro p src o rows all
    refine ⟨fun hq he hl hc hs hf hr hb => exec_blockFetch hq he hl hc hs hf hr hb,
      fun s1 x s2 bs hx hrows hread => fetchBlock_enters hx hrows hread,
      fun w b uses hq => port_enter w b uses hq, fun b bs hq he hc hf hb => ?_, fun w hq hw hc ho => exec_rewind hq hw hc ho⟩
    exact ⟨exec_blockWrite hq he hc hf hb, fun h hs => writeBlock_waits h hs, fun h hs => writeBlock_frees h hs,
      fun s1 gs u h hrows hw => writeBlock_sends h hrows hw⟩

end Sys2Proof.Machine
end

section
/-! PROOFS. Events of a strand and of its core's power (R98, R104, R185, R226, R350, R354, R436, R442, R463, R475, O48). -/

namespace Sys2Proof.Machine

/-! What is due at a strand's boundary. -/

section Boundary
variable {s : State} {n : Nat}

theorem exec_resultLanding {f : Flight} (hf : (s.strand n).flights.find? (fun x => x.tag == f.tag) = some f) (h0 : f.need = 0)
    (hr : f.form = .ready) (hx : f.fixed = false) (hd : f.due ≤ (s.strand n).clock)
    (hb : ∀ i, f.dst = .v i → (s.strand n).bankFull i = true) (hh : (s.strand n).heldBack f = false) :
    exec (.resultLanding n f.tag) s = .next (s.setStrand n ((s.strand n).land f).clearIl) := by
  have hbank : (match f.dst with | .v i => (s.strand n).bankFull i | _ => true) = true := by
    split
    · exact hb _ ‹_›
    · rfl
  unfold exec execResultLanding
  dsimp only
  rw [hf]
  dsimp only
  rw [if_pos]
  · rfl
  · simp [h0, hr, hx, hd, hh]
    exact hbank

theorem exec_deadlineExpiry (hp : (s.strand n).phase = .running) (he : (s.strand n).entering = false) (hd : (s.strand n).dlHit = true) :
    exec (.deadlineExpiry n) s =
      .next ((s.setStrand n { s.strand n with dlHit := false }).takeTrap n { cause := 0x38 } false) := by
  unfold exec execDeadlineExpiry
  dsimp only
  rw [hp, hd, he]
  rfl

/-- At a boundary that a running strand has not left for a handler, trap entry takes what is due. -/
theorem exec_trapEntry (hp : (s.strand n).phase = .running) (he : (s.strand n).entering = false) :
    exec (.trapEntry n) s = event s (boundary { s with cur := n }) := by
  unfold exec execTrapEntry
  dsimp only
  rw [hp, he]
  rfl

theorem exec_trapEntry_entering (hp : (s.strand n).phase = .running) (he : (s.strand n).entering = true) :
    exec (.trapEntry n) s = .next (s.enterHandler n) := by
  unfold exec execTrapEntry
  dsimp only
  rw [hp, he]
  rfl

theorem boundary_deadline (hd : (s.strand n).dlHit = true) :
    boundary { s with cur := n } =
      some (({ s.setStrand n { s.strand n with dlHit := false } with cur := n } : State).takeTrap n { cause := 0x38 } false) := by
  have hme : ({ s with cur := n } : State).me = s.strand n := rfl
  unfold boundary
  dsimp only
  rw [hme, if_pos hd]
  rfl

theorem boundary_step {b : Nat} (hd : (s.strand n).dlHit = false) (hf : (s.strand n).e.faults = [])
    (hb : (s.strand n).stepDue = some b) (h1 : (s.strand n).sys.dbg.getLsbD 1 = false) :
    boundary { s with cur := n } = some (({ s with cur := n } : State).takeTrap n { cause := 0x3A } false) := by
  have hme : ({ s with cur := n } : State).me = s.strand n := rfl
  unfold boundary
  dsimp only
  rw [hme, if_neg (Bool.eq_false_iff.mp hd), hf, firstFault, ite_self, hb]
  dsimp only
  rw [h1, if_neg (by rw [Bool.false_and]; exact Bool.false_ne_true)]

theorem exec_wfeTimeout {d : Nat} (hw : (s.strand n).wfeFrom = some d) (hp : (s.strand n).phase = .running)
    (hd : d ≤ (s.strand n).clock) (ho : (s.strand n).wfeOut = false) :
    exec (.wfeTimeout n) s = .next (s.setStrand n { s.strand n with wfeOut := true }) := by
  unfold exec execWfeTimeout
  dsimp only
  rw [hw]
  dsimp only
  rw [if_pos (by simp [hp, hd, ho])]
  rfl

end Boundary

/-! The array's gate. -/

section Gate
variable {s : State} {c : Nat}

theorem exec_arrayGate (hc : c < numCores) (hg : (s.core c).gated = false) (h0 : (s.strand (2 * c)).onArray = false)
    (h1 : (s.strand (2 * c + 1)).onArray = false) :
    exec (.arrayGate c) s = .next (s.modCore c (fun x => { x with gated := true, gateWake := none })) := by
  unfold exec execArrayGate
  dsimp only
  rw [if_pos (by simp [hc, hg, h0, h1])]
  rfl

theorem exec_arrayWake_begins (hg : (s.core c).gated = true) (hw : (s.core c).gateWake = none)
    (h : ¬((s.strand (2 * c)).onArray = false ∧ (s.strand (2 * c + 1)).onArray = false)) :
    exec (.arrayWake c) s = .next (s.wakeArray c) := by
  unfold exec execArrayWake
  dsimp only
  rw [hg, hw]
  dsimp only
  rw [Bool.not_true, if_neg Bool.false_ne_true, if_pos (by simpa [Decidable.imp_iff_not_or] using h)]
  rfl

theorem exec_arrayWake_waking {w : Nat × Nat} (hg : (s.core c).gated = true) (hw : (s.core c).gateWake = some w) :
    exec (.arrayWake c) s =
      .next (if s.ticksOver c 32 w then s.modCore c (fun x => { x with gated := false, gateWake := none }) else s) := by
  unfold exec execArrayWake
  dsimp only
  rw [hg, hw]
  dsimp only
  rw [Bool.not_true, if_neg Bool.false_ne_true]
  split <;> rfl

end Gate

/-! Banks go to retention and wake. -/

section Bank
variable {s : State} {n k : Nat}

theorem exec_bankIdle (hk : k < 8) (hp : (s.strand n).phase = .running) (hb : (vAt (s.strand n).r.banks k).st = .full)
    (hi : (s.strand n).sys.idle ≠ 0) (hl : ∀ i, i / 4 = k → (s.strand n).r.live.getLsbD i = false)
    (hf : (s.strand n).flights = []) (hc : (s.strand n).e.cmds = [])
    (ht : (vAt (s.strand n).r.banks k).idleFrom + 2 * (s.strand n).sys.idle.toNat ≤ (s.strand n).clock) :
    exec (.bankIdle n k) s = .next (s.setStrand n { s.strand n with r := { (s.strand n).r with
      banks := vSet (s.strand n).r.banks k { vAt (s.strand n).r.banks k with st := .ret, wake := none, struck := [] } } }) := by
  have hlive : (bankRegs k).all (fun i => !(s.strand n).r.live.getLsbD i) = true :=
    List.all_eq_true.mpr fun i h => by rw [hl i ((mem_bankRegs k i).mp h)]; rfl
  unfold exec execBankIdle
  dsimp only
  rw [hf, hc, hlive, if_pos (by simpa [hk, hp, hb, ht] using hi)]
  rfl

theorem exec_bankWake_vec {w : Nat} (hk : k < 8) (hw : (vAt (s.strand n).r.banks k).wake = some w)
    (h : w ≤ (s.strand n).clock ∨ (s.strand n).phase ≠ .running) :
    exec (.bankWake (.vec n k)) s = .next (s.setStrand n ((s.strand n).wokenV k)) := by
  unfold exec execBankWake
  dsimp only
  rw [if_pos hk, hw]
  dsimp only
  rw [if_pos (by simpa using h)]
  rfl

/-- Register i with the poison of parity errors found in lanes m. -/
def Strand.poisonV (t : Strand) (i : Nat) (m : Mask) : Strand := t.setV i { vAt t.r.v i with poison := (vAt t.r.v i).poison ||| m }

theorem v_poisonV_self (t : Strand) {i : Nat} (m : Mask) (hi : i < 32) :
    vAt (t.poisonV i m).r.v i = { vAt t.r.v i with poison := (vAt t.r.v i).poison ||| m } :=
  vAt_vSet_self _ _ _ hi

theorem v_poisonV_other (t : Strand) {i j : Nat} (m : Mask) (h : j ≠ i) : vAt (t.poisonV i m).r.v j = vAt t.r.v j :=
  vAt_vSet_other _ _ _ _ h

/-- The poisoning of the first p registers of bank k leaves a later register as it was. -/
theorem v_poison_fold_later (k : Nat) (m : Nat → Mask) (t : Strand) (p i : Nat) (h : 4 * k + p ≤ i) :
    vAt ((List.range p).foldl (fun (u : Strand) j => u.poisonV (4 * k + j) (m j)) t).r.v i = vAt t.r.v i := by
  induction p with
  | zero => rfl
  | succ p ih =>
    rw [List.range_succ, List.foldl_append]
    exact (v_poisonV_other _ _ (by omega)).trans (ih (by omega))

theorem v_poison_fold (k : Nat) (m : Nat → Mask) (t : Strand) {p j : Nat} (hj : j < p) (h : 4 * k + j < 32) :
    vAt ((List.range p).foldl (fun (u : Strand) j => u.poisonV (4 * k + j) (m j)) t).r.v (4 * k + j) =
      { vAt t.r.v (4 * k + j) with poison := (vAt t.r.v (4 * k + j)).poison ||| m j } := by
  induction p with
  | zero => exact absurd hj (Nat.not_lt_zero j)
  | succ p ih =>
    rw [List.range_succ, List.foldl_append]
    rcases Nat.lt_succ_iff_lt_or_eq.mp hj with hlt | rfl
    · exact (v_poisonV_other _ _ (by omega)).trans (ih hlt)
    · refine (v_poisonV_self _ _ h).trans ?_
      rw [v_poison_fold_later k m t j _ (Nat.le_refl _)]

/-- What a wake makes of the registers: those of a retained bank are poisoned in the lanes struck. -/
theorem v_wokenV (t : Strand) (k : Nat) : (t.wokenV k).r.v =
    (if (vAt t.r.banks k).st == .ret then
      (List.range 4).foldl (fun (u : Strand) j => u.poisonV (4 * k + j) (struckLanes (vAt t.r.banks k) j)) t else t).r.v := rfl

theorem v_wokenV_ret {t : Strand} {j : Nat} (hk : k < 8) (hr : (vAt t.r.banks k).st = .ret) (hj : j < 4) :
    vAt (t.wokenV k).r.v (4 * k + j) = { vAt t.r.v (4 * k + j) with
      poison := (vAt t.r.v (4 * k + j)).poison ||| struckLanes (vAt t.r.banks k) j } := by
  rw [v_wokenV, if_pos (beq_iff_eq.mpr hr)]
  exact v_poison_fold k _ t hj (by omega)

theorem struckLanes_nil {b : VBank} (h : b.struck = []) (j : Nat) : struckLanes b j = 0 := by
  rw [struckLanes, h]
  rfl

theorem v_poisonV_zero (t : Strand) (i j : Nat) : vAt (t.poisonV i 0).r.v j = vAt t.r.v j := by
  by_cases h : j = i
  · subst h
    by_cases hj : j < 32
    · exact (v_poisonV_self t 0 hj).trans (congrArg (Block.mk _) BitVec.or_zero)
    · unfold Strand.poisonV Strand.setV vAt vSet
      rw [dif_neg hj, dif_neg hj]
  · exact v_poisonV_other t 0 h

theorem v_poison_fold_zero (l : List Nat) (k j : Nat) (t : Strand) :
    vAt (l.foldl (fun (u : Strand) i => u.poisonV (4 * k + i) 0) t).r.v j = vAt t.r.v j := by
  induction l generalizing t with
  | nil => rfl
  | cons a l ih => exact (ih _).trans (v_poisonV_zero t _ j)

theorem v_wokenV_clean {t : Strand} (h : (vAt t.r.banks k).st = .off ∨ (vAt t.r.banks k).struck = []) (j : Nat) :
    vAt (t.wokenV k).r.v j = vAt t.r.v j := by
  rw [v_wokenV]
  split
  case isFalse => rfl
  case isTrue hr =>
    have hs : (vAt t.r.banks k).struck = [] := h.resolve_left fun h0 => by rw [h0] at hr; exact absurd hr (by decide)
    simp only [struckLanes_nil hs]
    exact v_poison_fold_zero (List.range 4) k j t

theorem st_wokenV (t : Strand) (hk : k < 8) : (vAt (t.wokenV k).r.banks k).st = .full :=
  congrArg VBank.st (vAt_vSet_self _ _ _ hk)

theorem bank_setBank (x : Core) (b : SpBank) (hk : k < 32) : (x.setBank k b).bank k = b := by
  unfold Core.bank Core.setBank vSet
  simp [hk]

/-- A bank at which no drop waits stays as it is. -/
theorem settleBank_none {s : State} {c k : Nat} (h : ((s.core c).bank k).drops = []) : s.settleBank c k = s := by
  rw [State.settleBank, h]
  rfl

end Bank

section Scratch
variable {s : State} {c k : Nat} {w : Nat × Nat}

/-- The time of a wake's bank. -/
theorem wakeCycles_eq (b : BankSt) : b.wakeCycles = if b = .off then 96 else 24 := by
  cases b <;> rfl

theorem exec_bankWake_early (hk : k < 32) (hw : ((s.core c).bank k).waking = some w)
    (ht : s.ticksOver c (if ((s.core c).bank k).st = .off then 96 else 24) w = false) : exec (.bankWake (.sp c k)) s = .next s := by
  unfold exec execBankWake
  dsimp only
  rw [if_pos hk, hw]
  dsimp only
  rw [wakeCycles_eq, ht]
  rfl

theorem exec_bankWake_done (hk : k < 32) (hw : ((s.core c).bank k).waking = some w)
    (ht : s.ticksOver c (if ((s.core c).bank k).st = .off then 96 else 24) w = true) (hd : ((s.core c).bank k).drops = []) :
    exec (.bankWake (.sp c k)) s = .next (s.modCore c (fun y =>
      { y.setBank k { (s.core c).bank k with st := .full, waking := none, struck := [] } with
        marked := if ((s.core c).bank k).st == .ret then y.marked ++ ((s.core c).bank k).struck.filter (fun w => !y.marked.contains w)
          else y.marked })) := by
  unfold exec execBankWake
  dsimp only
  rw [if_pos hk, hw]
  dsimp only
  rw [wakeCycles_eq, ht, if_neg (by simp), settleBank_none]
  · rfl
  · rw [State.core_modCore]
    exact (congrArg SpBank.drops (bank_setBank _ _ hk)).trans hd

theorem exec_bankWake_kept (hk : k < 32) (hw : ((s.core c).bank k).waking = some w)
    (ht : s.ticksOver c (if ((s.core c).bank k).st = .off then 96 else 24) w = true) (hd : ((s.core c).bank k).drops = [])
    (hr : ((s.core c).bank k).st ≠ .ret) : exec (.bankWake (.sp c k)) s =
      .next (s.modCore c (fun y => y.setBank k { (s.core c).bank k with st := .full, waking := none, struck := [] })) := by
  rw [exec_bankWake_done hk hw ht hd]
  simp only [if_neg (mt beq_iff_eq.mp hr)]
  rfl

theorem exec_bankWake_ret (hk : k < 32) (hw : ((s.core c).bank k).waking = some w)
    (ht : s.ticksOver c (if ((s.core c).bank k).st = .off then 96 else 24) w = true) (hd : ((s.core c).bank k).drops = [])
    (hr : ((s.core c).bank k).st = .ret) : exec (.bankWake (.sp c k)) s =
      .next (s.modCore c (fun y => { y.setBank k { (s.core c).bank k with st := .full, waking := none, struck := [] } with
        marked := y.marked ++ ((s.core c).bank k).struck.filter (fun w => !y.marked.contains w) })) := by
  rw [exec_bankWake_done hk hw ht hd]
  simp only [if_pos (beq_iff_eq.mpr hr)]

end Scratch

/-! Soft errors. -/

section SoftError
variable {s : State}

/-- Register reg with the bits of one lane flipped. -/
def struckReg (t : Strand) (reg lane : Nat) (flip : BitVec 32) : Strand :=
  t.setV reg { vAt t.r.v reg with bits := (vAt t.r.v reg).bits ^^^ BitVec.ofNat 32768 (flip.toNat * 2 ^ (32 * lane)) }

/-- A bank after the error: a retained one has the pair among those struck. -/
def VBank.strike (b : VBank) (e : Nat × Nat) : VBank :=
  if b.st == .ret && !b.struck.contains e then { b with struck := e :: b.struck } else b

theorem exec_softError_vec {n reg lane : Nat} {flip : BitVec 32} (hr : reg < 32) (hl : lane < 1024) (hf : flip ≠ 0)
    (hb : (vAt (s.strand n).r.banks (reg / 4)).st ≠ .off) :
    let t := s.strand n
    let u := struckReg t reg lane flip
    exec (.softError (.vec n reg lane flip)) s = .next (s.setStrand n { u with
      r := { u.r with banks := vSet u.r.banks (reg / 4) ((vAt t.r.banks (reg / 4)).strike (reg % 4, lane / 2)) } }) := by
  intro t u
  unfold exec execSoftError
  dsimp only
  rw [if_pos (by simpa [hr, hl, hb] using hf)]
  rfl

theorem vSet_vAt_self {α : Type} [Inhabited α] {n : Nat} (v : Vector α n) (i : Nat) : vSet v i (vAt v i) = v := by
  unfold vSet vAt
  split <;> simp

theorem exec_softError_vec_full {n reg lane : Nat} {flip : BitVec 32} (hr : reg < 32) (hl : lane < 1024) (hf : flip ≠ 0)
    (hb : (vAt (s.strand n).r.banks (reg / 4)).st = .full) :
    exec (.softError (.vec n reg lane flip)) s = .next (s.setStrand n (struckReg (s.strand n) reg lane flip)) := by
  have hx := exec_softError_vec (s := s) (n := n) hr hl hf (by rw [hb]; decide)
  dsimp only at hx
  have hsame : vSet (struckReg (s.strand n) reg lane flip).r.banks (reg / 4) (vAt (s.strand n).r.banks (reg / 4)) =
      (struckReg (s.strand n) reg lane flip).r.banks := vSet_vAt_self _ _
  rw [hx, VBank.strike, if_neg (by rw [hb]; exact Bool.false_ne_true), hsame]

theorem exec_softError_vec_ret {n reg lane : Nat} {flip : BitVec 32} (hr : reg < 32) (hl : lane < 1024) (hf : flip ≠ 0)
    (hb : (vAt (s.strand n).r.banks (reg / 4)).st = .ret) (he : (reg % 4, lane / 2) ∉ (vAt (s.strand n).r.banks (reg / 4)).struck) :
    let t := s.strand n
    let b := vAt t.r.banks (reg / 4)
    let u := struckReg t reg lane flip
    exec (.softError (.vec n reg lane flip)) s = .next (s.setStrand n { u with
      r := { u.r with banks := vSet u.r.banks (reg / 4) { b with struck := (reg % 4, lane / 2) :: b.struck } } }) := by
  have hx := exec_softError_vec (s := s) (n := n) hr hl hf (by rw [hb]; decide)
  dsimp only at hx ⊢
  rw [hx, VBank.strike, if_pos (by simp [hb, he])]

theorem exec_softError_sp {off c o : Nat} {flip : BitVec 8} (ht : target off = .sp c o) (hf : flip ≠ 0)
    (hb : ((s.core c).bank (bankOf o)).st = .full) :
    exec (.softError (.sp off flip)) s = .next { s with chip := memPut s.chip off (memGet s.chip off ^^^ flip) } := by
  unfold exec execSoftError
  dsimp only
  rw [ht]
  dsimp only
  rw [if_pos (by simpa [hb] using hf), if_neg (by rw [hb]; exact Bool.false_ne_true)]
  rfl

theorem exec_softError_dram {line sym : Nat} {flip : BitVec 16} (hl : line < 2 ^ 33) (hs : sym < 36) (h0 : s.m.flips = []) (hf : flip ≠ 0) :
    exec (.softError (.dram line sym flip)) s = .next { s with m := { s.m with flips := [(line, sym, flip)] } } := by
  unfold exec execSoftError
  dsimp only
  rw [if_pos (by rw [decide_eq_true hl, decide_eq_true hs]; rfl), h0]
  dsimp only [List.find?_nil, List.filter_nil, Option.map_none, Option.getD_none]
  simp only [show (0 : BitVec 16) ^^^ flip = flip from BitVec.zero_xor, if_neg (mt beq_iff_eq.mp hf)]
  rfl

theorem exec_softError_acc {u k : Nat} (hu : u < numNmus) (hk : k < 64) :
    exec (.softError (.acc u k)) s =
      .next ((s.setAcc u k { s.acc u k with status := (s.acc u k).status ||| 16 }).report 436 u k) := by
  unfold exec execSoftError
  dsimp only
  rw [if_pos (by simp [hu, hk])]
  rfl

end SoftError

/-- Settles O48, an equation for each event. -/
theorem strandAndPowerEvents : Obligations.StrandAndPowerEvents := by
  unfold Obligations.StrandAndPowerEvents
  intro s n t does
  refine ⟨fun f hf h0 hr hx hd hb hh => exec_resultLanding hf h0 hr hx hd hb hh, fun hp he hd => ⟨exec_deadlineExpiry hp he hd, ?_⟩,
    fun hp he hd _ hf b hb h1 => ?_, fun d hw hp hd ho => exec_wfeTimeout hw hp hd ho, fun hp he => exec_trapEntry_entering hp he,
    fun c hc => ⟨fun hg ⟨h0, h1⟩ => exec_arrayGate hc hg h0 h1, fun hg hw h => exec_arrayWake_begins hg hw h,
      fun w hg hw => ⟨fun ht => ?_, fun ht => ?_⟩⟩,
    fun k hk => ⟨fun hp hb hi hl hf hc ht => exec_bankIdle hk hp hb hi hl hf hc ht, fun w hw h => exec_bankWake_vec hk hw h,
      fun h => ⟨v_wokenV_clean h, st_wokenV t hk⟩, fun hr j hj => v_wokenV_ret hk hr hj⟩,
    fun c k w hk hw => ⟨fun ht => exec_bankWake_early hk hw ht, fun ht hd =>
      ⟨fun hr => exec_bankWake_kept hk hw ht hd hr, fun hr => exec_bankWake_ret hk hw ht hd hr⟩⟩,
    fun reg lane flip hr hl hf => ⟨fun hb => exec_softError_vec_full hr hl hf hb, fun hb he => exec_softError_vec_ret hr hl hf hb he⟩,
    fun off flip c o ht hf hb => exec_softError_sp ht hf hb, fun line sym flip hl hs h0 hf => exec_softError_dram hl hs h0 hf,
    fun u k hu hk => exec_softError_acc hu hk⟩
  · exact (exec_trapEntry hp he).trans (congrArg (event s) (boundary_deadline hd))
  · exact (exec_trapEntry hp he).trans (congrArg (event s) (boundary_step hd hf hb h1))
  · exact (exec_arrayWake_waking hg hw).trans (congrArg _ (if_pos ht))
  · exact (exec_arrayWake_waking hg hw).trans (congrArg _ (if_neg (Bool.eq_false_iff.mp ht)))

end Sys2Proof.Machine
end

section
/-! PROOFS. Events at the arbiters and at the homes outside (R192, R416 to R433, R468, R474, R476, O49). -/

namespace Sys2Proof.Machine

/-! Acceptance. -/

section Accept
variable {s : State} {r : Req} {p : Place}

/-- A request to device memory that stands before its arbiter: whether it may enter, and what it then does. -/
theorem exec_arbiterAccept (hr : s.req r.id = some r) (hsp : r.sp = .dram) (ho : r.op.isOrder = false) (hp : s.place r.pa = some p)
    (ha : r.accept = none) (hw : r.away = false)
    (ht : (if r.early then s.inTurn r && !s.lineWrites r else s.mayEnter r) = true) :
    exec (.arbiterAccept r.id) s = .next
      (if s.queueFull r && !r.kept then s.setReq { r with away := true, refusals := r.refusals + 1 }
       else if r.early then s.takeStore r else { s.setReq { r with accept := some s.fresh } with fresh := s.fresh + 1 }) := by
  unfold exec execArbiterAccept
  dsimp only
  rw [hr]
  dsimp only
  rw [if_neg (by simp [hsp, ho, hp, ha, hw]), if_neg (by rw [ht]; exact Bool.false_ne_true)]
  split
  · rfl
  · split <;> rfl

/-- A full queue refuses, at most twice. -/
theorem refuses_iff : (s.queueFull r && !r.kept) = true ↔ s.queueFull r = true ∧ r.refusals < 2 := by
  rw [Bool.and_eq_true, Bool.not_eq_true', Req.kept, decide_eq_false_iff_not, Nat.not_le]

theorem not_refuses (h : s.queueFull r = false ∨ 2 ≤ r.refusals) : ¬(s.queueFull r && !r.kept) = true := fun hc => by
  obtain ⟨hq, hn⟩ := refuses_iff.mp hc
  rcases h with h | h
  · rw [hq] at h
    exact Bool.noConfusion h
  · exact absurd hn (Nat.not_lt.mpr h)

theorem inTurn_of_early (he : r.early = true) (ht : s.inTurn r = true) (hl : s.lineWrites r = false) :
    (if r.early then s.inTurn r && !s.lineWrites r else s.mayEnter r) = true := by
  rw [if_pos he, ht, hl]
  rfl

theorem mayEnter_of_late (he : r.early = false) (hm : s.mayEnter r = true) :
    (if r.early then s.inTurn r && !s.lineWrites r else s.mayEnter r) = true := by
  rw [if_neg (Bool.eq_false_iff.mp he), hm]

end Accept

/-! Service and the bounds. -/

section Serve
variable {s : State} {r : Req} {p : Place}

theorem exec_arbiterServe (hr : s.req r.id = some r) (hsp : r.sp = .dram) (hp : s.place r.pa = some p) (ha : r.accept ≠ none)
    (hripe : s.ripe r = true) (hc : s.pressed p.bank r = true ∨ (s.candidate p.bank r = true ∧ s.chosen p.bank r = true)) :
    let u := (if r.done then s.retire r else s.complete r).charge r
    exec (.arbiterServe r.id) s = .next { u with m := { u.m with row := tput u.m.row p.bank p.row } } := by
  intro u
  obtain ⟨k, hk⟩ := Option.ne_none_iff_exists'.mp ha
  unfold exec execArbiterServe
  dsimp only
  rw [hr]
  dsimp only
  rw [hk, hp]
  dsimp only
  rw [if_neg (by simp [hsp, hripe]), if_pos (by simpa using hc)]
  rfl

theorem exec_ageCapExpiry (hr : s.req r.id = some r) (he : s.eligible r = true) :
    exec (.ageCapExpiry r.id) s = .next (s.setReq { r with capped := true }) := by
  unfold exec execAgeCapExpiry
  dsimp only
  rw [hr]
  dsimp only
  rw [if_pos he]
  rfl

/-- The eligible main requests that wait for a bank. -/
def State.mainBatch (s : State) (b : Nat) : List Nat :=
  ((s.bankQueue b).filter (fun r => s.isMain r && s.eligible r)).map (fun r => r.id)

theorem exec_yieldBoundExpiry {b : Nat} (hb : tget s.m.own b = some .near)
    (h : ∃ e ∈ s.bankQueue b, s.isMain e = true ∧ s.eligible e = true) :
    exec (.yieldBoundExpiry b) s = .next { s with m := { s.m with own := tput s.m.own b (.main (s.mainBatch b)) } } := by
  obtain ⟨e, he, hm, hg⟩ := h
  have hne : (s.mainBatch b).isEmpty = false := List.isEmpty_eq_false_iff.mpr
    (List.ne_nil_of_mem (List.mem_map_of_mem (List.mem_filter.mpr ⟨he, by rw [hm, hg]; rfl⟩)))
  unfold exec execYieldBoundExpiry
  dsimp only
  rw [hb]
  exact congrArg (event s) (if_neg (Bool.eq_false_iff.mp hne))

end Serve

/-! Refresh and its scrub read. -/

section Refresh

/-- What the scrub read leaves of the arbiters: the rows open, how far the scrubber has come, the requests on their way. -/
def State.arbiters (s : State) : Tbl Nat × Tbl Nat × List Req := (s.m.row, s.m.scrub, s.net)

variable (s : State)

theorem arbiters_report (a b c : Nat) : (s.report a b c).arbiters = s.arbiters := by
  unfold State.report
  dsimp only
  split <;> rfl

theorem arbiters_countError (l : Nat) (fresh : Bool) : (s.countError l fresh).arbiters = s.arbiters := by
  refine (apply_ite State.arbiters _ _ _).trans ?_
  rw [arbiters_report]
  exact ite_self _

theorem arbiters_readLine (l : Nat) : (s.readLine l).1.arbiters = s.arbiters := by
  have hbad : (if s.carried l then (s.takeBits l, true)
      else (((s.takeBits l).setCarried l true |>.countError l true).report 430 1 (64 * l), true)).1.arbiters = s.arbiters := by
    split
    · rfl
    · exact (arbiters_report _ _ _ _).trans (arbiters_countError _ _ _)
  unfold State.readLine
  dsimp only
  split
  · rfl
  · exact (arbiters_report _ _ _ _).trans (arbiters_countError _ _ _)
  · exact hbad
  · split
    · exact hbad
    · rfl

/-- The scrub's read of the next line of a bank. -/
def State.scrubRead (s : State) (b : Nat) : State :=
  match s.lineOfBank b ((tget s.m.scrub b).getD 0) with
  | some a => (s.readLine (a / 64)).1
  | none => s

theorem arbiters_scrubRead (b : Nat) : (s.scrubRead b).arbiters = s.arbiters := by
  unfold State.scrubRead
  split
  · exact arbiters_readLine s _
  · rfl

theorem strands_scrubRead (b : Nat) : (s.scrubRead b).strands = s.strands := by
  unfold State.scrubRead
  split
  · exact (looks_readLine s _).strands
  · rfl

/-- A scrub changes, besides what its read does, the place it has come to, and at the end of a pass the lines it counts. -/
theorem scrubNext_eq (b : Nat) : ∃ errs, s.scrubNext b = { s.scrubRead b with
    m := { (s.scrubRead b).m with
      scrub := tput (s.scrubRead b).m.scrub b (((tget s.m.scrub b).getD 0 + 1) % 2 ^ 20), errs := errs } } := by
  unfold State.scrubNext
  dsimp only
  split
  · exact ⟨_, rfl⟩
  · exact ⟨_, rfl⟩

theorem tget_tdel_self {α : Type} (t : Tbl α) (k : Nat) : tget (tdel t k) k = none := by
  induction t with
  | nil => rfl
  | cons e t ih =>
    unfold tdel
    rw [List.filter_cons]
    split
    · rename_i h
      exact (if_neg (by simpa using h)).trans ih
    · exact ih

theorem tget_tdel_other {α : Type} (t : Tbl α) {k j : Nat} (h : j ≠ k) : tget (tdel t k) j = tget t j := by
  induction t with
  | nil => rfl
  | cons e t ih =>
    unfold tdel
    rw [List.filter_cons]
    split
    · exact ite_congr rfl (fun _ => rfl) fun _ => ih
    · rename_i hk
      have he : e.1 = k := by simpa using hk
      exact ih.trans (if_neg (by rw [he]; exact h.symm)).symm

theorem exec_refresh {b : Nat} (hb : b < 8192) :
    exec (.refresh b) s = .next { s.scrubNext b with m := { (s.scrubNext b).m with row := tdel (s.scrubNext b).m.row b } } := by
  unfold exec execRefresh
  dsimp only
  rw [if_pos hb]
  rfl

theorem refresh_effect {b : Nat} (hb : b < 8192) : ∃ u, exec (.refresh b) s = .next u ∧ tget u.m.row b = none ∧
    (∀ k, k ≠ b → tget u.m.row k = tget s.m.row k) ∧ tget u.m.scrub b = some (((tget s.m.scrub b).getD 0 + 1) % 2 ^ 20) ∧
    u.strands = s.strands ∧ u.net = s.net := by
  obtain ⟨errs, he⟩ := scrubNext_eq s b
  obtain ⟨hrow, hscrub⟩ := Prod.ext_iff.mp (arbiters_scrubRead s b)
  refine ⟨_, exec_refresh s hb, tget_tdel_self _ _, fun k hk => ?_, ?_, ?_, ?_⟩
  · rw [he]
    exact (tget_tdel_other _ hk).trans (congrArg (tget · k) hrow)
  · rw [he]
    exact tget_tput_self _ _ _
  · rw [he]
    exact strands_scrubRead s b
  · rw [he]
    exact congrArg Prod.snd hscrub

end Refresh

/-! Budgets. -/

section Budget
variable (s : State)

theorem tget_map_range {α : Type} (f : Nat → α) {m k : Nat} (l : Nat) (hl : l ≤ k) (hk : k < l + m) :
    tget ((List.range' l m).map fun i => (i, f i)) k = some (f k) := by
  induction m generalizing l with
  | zero => omega
  | succ m ih =>
    rw [List.range'_succ, List.map_cons, tget]
    by_cases h : l = k
    · rw [if_pos h, h]
    · rw [if_neg h]
      exact ih (l + 1) (by omega) (by omega)

theorem exec_budgetInterval :
    exec .budgetInterval s = .next { s with m := { s.m with budget := (List.range 144).map (fun k => (k, s.allowance k)) } } := by
  unfold exec
  rfl

theorem exec_budgetWatchdogExpiry : exec .budgetWatchdogExpiry s = .next { s with m := { s.m with watchdog := true } } := by
  unfold exec
  rfl

end Budget

/-! Host memory and peers. -/

section Outside
variable {s : State} {r : Req}

theorem exec_hostPortCompletion {cells : List Host.Cell} {poison : Bool} (hd : s.due r.id = some r) (hsp : r.sp = .host) :
    exec (.hostPortCompletion r.id cells poison) s = .next ((s.outsideWrites .host cells).performOutside r poison) := by
  unfold exec execHostPortCompletion
  dsimp only
  rw [hd]
  exact congrArg (event s) (if_pos (beq_iff_eq.mpr hsp))

theorem exec_peerAcknowledgement {cells : List Host.Cell} {poison : Bool} (hd : s.due r.id = some r) (hsp : r.sp = .peer)
    (hp : s.peerOk (bits r.pa 51 40) = true) :
    exec (.peerAcknowledgement r.id cells poison) s = .next ((s.outsideWrites .peer cells).performOutside r poison) := by
  unfold exec execPeerAcknowledgement
  dsimp only
  rw [hd]
  exact congrArg (event s) (if_pos (by rw [hsp, hp]; rfl))

theorem performOutside_clean : s.performOutside r false = s.complete r := rfl

/-- A request outside the part that merged with none leaves the queues and nothing else. -/
theorem retire_outside (hm : r.merged = []) (hsp : r.sp = .host ∨ r.sp = .peer) : s.retire r = s.dropReq r.id := by
  unfold State.retire
  rw [hm]
  rcases hsp with h | h <;> rw [h] <;> rfl

theorem performOutside_load {off : Nat} (hop : r.op = .load off) (hm : r.merged = []) (hsp : r.sp = .host ∨ r.sp = .peer) :
    s.performOutside r true = (s.answer r off (s.readAt r.sp r.pa r.len).2.1 (List.range r.len) 0).dropReq r.id := by
  unfold State.performOutside
  rw [if_neg (by simp), hop]
  exact retire_outside hm hsp

end Outside

/-- Settles O49, an equation for each event. -/
theorem arbiterEvents : Obligations.ArbiterEvents := by
  unfold Obligations.ArbiterEvents
  intro s r p does
  refine ⟨fun hr hsp ho hp => ⟨fun ha hw => ⟨fun he ht hl => ?_, fun he hm => ?_⟩,
      fun ha hripe hc => exec_arbiterServe hr hsp hp ha hripe hc, fun he => exec_ageCapExpiry hr he⟩,
    fun b hb h => exec_yieldBoundExpiry hb h, fun b hb => refresh_effect s hb,
    ⟨_, exec_budgetInterval s, rfl, fun k hk => ?_⟩, exec_budgetWatchdogExpiry s,
    fun cells hd => ⟨fun hsp => exec_hostPortCompletion hd hsp, fun hsp hp => exec_peerAcknowledgement hd hsp hp⟩,
    fun off hd hop hm => ⟨fun hsp => ?_, fun hsp hp => ?_⟩⟩
  · have hx := exec_arbiterAccept hr hsp ho hp ha hw (inTurn_of_early he ht hl)
    exact ⟨fun hq hn => hx.trans (congrArg _ (if_pos (refuses_iff.mpr ⟨hq, hn⟩))),
      fun h => hx.trans (congrArg _ ((if_neg (not_refuses h)).trans (if_pos he)))⟩
  · have hx := exec_arbiterAccept hr hsp ho hp ha hw (mayEnter_of_late he hm)
    exact ⟨fun hq hn => hx.trans (congrArg _ (if_pos (refuses_iff.mpr ⟨hq, hn⟩))),
      fun h => hx.trans (congrArg _ ((if_neg (not_refuses h)).trans (if_neg (Bool.eq_false_iff.mp he))))⟩
  · exact (congrArg (fun l => tget (l.map fun k => (k, s.allowance k)) k) List.range_eq_range').trans
      (tget_map_range s.allowance (m := 144) 0 (Nat.zero_le k) (by omega))
  · have hl := performOutside_load (s := s) hop hm (.inl hsp)
    rw [hsp] at hl
    exact (exec_hostPortCompletion hd hsp).trans (congrArg _ hl)
  · have hl := performOutside_load (s := s) hop hm (.inr hsp)
    rw [hsp] at hl
    exact (exec_peerAcknowledgement hd hsp hp).trans (congrArg _ hl)

end Sys2Proof.Machine
end

section
/-! PROOFS. Walks of the directory and shootdowns (R222, R387, R388, O50). -/

namespace Sys2Proof.Machine

/-! Walks. -/

section Walks
variable {s s1 s2 : State} {w : Walk} {slot : Nat}

theorem exec_rangeWalk (hw : s.walks.find? (fun (x : Walk) => x.id == w.id) = some w) :
    exec (.rangeWalk w.id slot) s = event s (s.goWalk w slot) := by
  unfold exec execRangeWalk
  dsimp only
  rw [hw]

/-- The source of a walk. -/
def Walk.src (w : Walk) : Src := .walker w.party (w.id + 1)

/-- What a walk that has come to something leaves: an entry and its end, or its cause; or it waits. -/
def State.walked (s : State) (w : Walk) (slot : Nat) : Except (Option (BitVec 7)) (RangeRec × Nat) → State
  | .error none => s
  | .error (some c) => (s.endWalk w).deny w.waiting w.asid w.va.toNat c
  | .ok (r, i) =>
    match s.fillEntry w.party slot w.asid i r with
    | some s1 => s1.endWalk w
    | none => s

theorem walked_entered {r : RangeRec} {i : Nat} {v : State} (h : s.fillEntry w.party slot w.asid i r = some v) :
    s.walked w slot (.ok (r, i)) = v.endWalk w := by
  dsimp only [State.walked]
  rw [h]

theorem walked_full {r : RangeRec} {i : Nat} (h : s.fillEntry w.party slot w.asid i r = none) : s.walked w slot (.ok (r, i)) = s := by
  dsimp only [State.walked]
  rw [h]

/-- A walk whose host's answer is still to come waits, and fails once it is late. -/
theorem goWalk_asked (ha : w.asked = true) (hn : w.ans = none) :
    s.goWalk w slot = if w.late then some (s.walked w slot (.error (some 0x10))) else none := by
  unfold State.goWalk
  dsimp only
  rw [ha, hn]
  exact if_pos rfl

theorem exec_walkDeadline (hw : s.walks.find? (fun (x : Walk) => x.id == w.id) = some w) (ha : w.asked = true) (hn : w.ans = none)
    (hl : w.late = false) : exec (.walkDeadline w.id) s = .next
      { s with walks := s.walks.map (fun (x : Walk) => if x.id == w.id then { x with late := true } else x)
               asks := s.asks.filter (fun a => !(a.kind == 1 && a.tag == w.id)) } := by
  unfold exec execWalkDeadline
  dsimp only
  rw [hw]
  dsimp only
  rw [ha, hn, hl]
  rfl

/-- A walk that waits for no answer reads the directory's entry. -/
theorem not_waits (h : w.asked = false ∨ w.ans ≠ none) : ¬(w.asked && w.ans.isNone) = true := by
  rcases h with h | h <;> simp [h]

section Entry
variable (h : w.asked = false ∨ w.ans ≠ none)
include h

theorem goWalk_stops {c : Option (BitVec 7)} (hd : s.dirEntry w.src w.asid = (s1, .error c)) :
    s.goWalk w slot = some (s1.walked w slot (.error c)) := by
  unfold State.goWalk
  dsimp only
  refine (if_neg (not_waits h)).trans ?_
  rw [Walk.src] at hd
  rw [hd]
  cases c <;> rfl

variable {e : DirEntry} (hd : s.dirEntry w.src w.asid = (s1, .ok e))
include hd

theorem goWalk_walks {q : Except (Option (BitVec 7)) (DirEntry × RangeRec × Nat)} (hn : w.ans = none) (hh : e.hwalk = true)
    (hq : s1.walk w.src w.asid w.va.toNat = (s2, q)) : s.goWalk w slot = some (s2.walked w slot (q.map (fun x => x.2))) := by
  unfold State.goWalk
  dsimp only
  refine (if_neg (not_waits h)).trans ?_
  rw [Walk.src] at hd hq
  rw [hd, hn]
  dsimp only
  rw [hh, hq]
  rcases q with (_ | c) | ⟨_, r, i⟩ <;> rfl

theorem goWalk_asks (hn : w.ans = none) (hh : e.hwalk = false) : s.goWalk w slot = some
    ((({ s1 with walks := s1.walks.map (fun (x : Walk) => if x.id == w.id then { x with asked := true } else x) } : State).forget
      w.src).askTagged 1 (w.asid.setWidth 64) w.va w.id) := by
  unfold State.goWalk
  dsimp only
  refine (if_neg (not_waits h)).trans ?_
  rw [Walk.src] at hd
  rw [hd, hn]
  dsimp only
  rw [hh]
  rfl

theorem goWalk_answered {a : BitVec 32} {q : Except (Option (BitVec 7)) RangeRec} (hn : w.ans = some a)
    (hq : s1.acceptRec w.src e a.toNat w.va.toNat = (s2, q)) :
    s.goWalk w slot = some (s2.walked w slot (q.map (fun r => (r, a.toNat)))) := by
  unfold State.goWalk
  dsimp only
  refine (if_neg (not_waits h)).trans ?_
  rw [Walk.src] at hd hq
  rw [hd, hn]
  dsimp only
  rw [hq]
  rcases q with (_ | c) | r <;> rfl

end Entry

end Walks

/-! Shootdowns. -/

section Shootdowns
variable {s : State} {h : Shoot} {p : Party}

/-- Shootdowns that every party has acknowledged go, but for those a strand waits for. -/
def State.sweepShoots (s : State) : State := { s with shoots := s.shoots.filter (fun (x : Shoot) => !(x.todo.isEmpty && x.strand.isNone)) }

theorem exec_shootdown (hf : s.shoots.find? (fun (h' : Shoot) => h'.id == h.id) = some h) (hp : p ∈ h.todo) :
    exec (.shootdown h.id p) s = .next ((if h.got.contains p then s else s.receive h p).acknowledge h p).sweepShoots := by
  unfold exec execShootdown
  dsimp only
  rw [hf]
  exact congrArg (event s) (if_neg (by simp [hp]))

theorem exec_shootdown_first (hf : s.shoots.find? (fun (h' : Shoot) => h'.id == h.id) = some h) (hp : p ∈ h.todo) (hg : p ∉ h.got) :
    exec (.shootdown h.id p) s = .next ((s.receive h p).acknowledge h p).sweepShoots := by
  rw [exec_shootdown hf hp, if_neg (by simpa using hg)]

theorem exec_shootdown_again (hf : s.shoots.find? (fun (h' : Shoot) => h'.id == h.id) = some h) (hp : p ∈ h.todo) (hg : p ∈ h.got) :
    exec (.shootdown h.id p) s = .next (s.acknowledge h p).sweepShoots := by
  rw [exec_shootdown hf hp, if_pos (by simpa using hg)]

theorem rtab_setRtab (s : State) (p : Party) (t : List RtEntry) : (s.setRtab p t).rtab p = t := by
  unfold State.setRtab State.rtab
  split
  · exact congrArg Core.rtab (State.core_modCore s p _)
  · split
    · exact congrArg Nmu.rtab (State.nmu_modNmu s _ _)
    · exact congrArg (·.getD []) (tget_tput_self s.rtabs p t)

/-- A table is one of a core, of a unit, or of the rest. -/
theorem rtab_congr {t : State} (hc : t.cores = s.cores) (hn : t.nmus = s.nmus) (hr : t.rtabs = s.rtabs) (p : Party) :
    t.rtab p = s.rtab p := by
  unfold State.rtab State.core State.nmu
  rw [hc, hn, hr]

theorem rtabs_withdrawAll (s : State) (rs : List Req) : (s.withdrawAll rs).rtabs = s.rtabs :=
  (congrArg State.rtabs (offHomes_withdrawAll s rs) : (s.withdrawAll rs).offHomes.rtabs = s.offHomes.rtabs)

theorem rtab_dropAsked (s : State) (h : Shoot) (p : Party) : (s.dropAsked h p).rtab p = s.rtab p := by
  unfold State.dropAsked
  split
  case isFalse => rfl
  case isTrue hp =>
    have hge : ¬p < 144 ∧ ¬p < 272 := by
      rcases Bool.or_eq_true _ _ ▸ hp with h | h <;> rw [beq_iff_eq.mp h] <;> decide
    unfold State.rtab
    rw [if_neg hge.1, if_neg hge.2, if_neg hge.1, if_neg hge.2]
    exact congrArg (fun l => (tget l p).getD []) (rtabs_withdrawAll _ _)

theorem rtab_forget (s : State) (src : Src) (p : Party) : (s.forget src).rtab p = s.rtab p := rfl

/-- A party whose table is empty has nothing that a shootdown makes invalid. -/
theorem rtab_receive_nil (hp : s.rtab p = []) : (s.receive h p).rtab p = [] := by
  unfold State.receive
  refine (rtab_setRtab _ p _).trans ?_
  refine (congrArg (List.map _) (?_ : _ = ([] : List RtEntry))).trans rfl
  refine (foldl_keeps (State.rtab · p) (fun s (w : Walk) => rtab_forget s (.walker p (w.id + 1)) p) _ _).trans ?_
  rw [rtab_forget, rtab_dropAsked, hp]

/-- What an acknowledgement leaves of its shootdown. -/
theorem todo_acknowledge (hp : s.rtab p = []) (x : Shoot) (hx : x ∈ (s.acknowledge h p).shoots) (hi : x.id = h.id) : p ∉ x.todo := by
  unfold State.acknowledge at hx
  rw [hp, if_neg (by simp)] at hx
  obtain ⟨y, _, rfl⟩ := List.mem_map.mp hx
  split at hi
  · rename_i hy
    rw [if_pos hy]
    exact fun hm => by simpa using (List.mem_filter.mp hm).2
  · rename_i hne
    exact absurd (beq_iff_eq.mpr hi) hne

end Shootdowns

end Sys2Proof.Machine
end

section
/-! PROOFS. Residency fills (R394, R395, O50). -/

namespace Sys2Proof.Machine

section Fills
variable {s s1 s2 : State} {f : Fill}

theorem exec_fillComplete (hf : s.fills.find? (fun y => y.id == f.id) = some f) (ha : f.hostAsked = false) (hr : s.fillRuns f = true) :
    exec (.fillComplete f.id) s = .next (s.goFill f) := by
  unfold exec execFillComplete
  dsimp only
  rw [hf]
  exact congrArg (event s) (if_neg (by simp [ha, hr]))

/-- The source of a fill. -/
def Fill.src (f : Fill) : Src := .fill f.die f.id

/-- Bytes of a granule that a range has. -/
def Fill.need (f : Fill) (r : RangeRec) : Nat := min (2 ^ 21) (r.base + r.size - f.gva)

/-- What a fill whose range is known does next. -/
def State.fillOn (s : State) (f : Fill) (r : RangeRec) : State :=
  if f.begun.isNone then
    if !r.partialRes then s.endFill f none else { s with fresh := s.fresh + 1 }.setFill { f with begun := some s.fresh }
  else if f.done < f.need r then s.fillPart f r (f.need r)
  else if !s.stored f.src then s
  else if f.set then s.endFill f none
  else s.fillMap f r

theorem goFill_waits (h : s.fillRange f = (s1, .error none)) : s.goFill f = s1 := by
  unfold State.goFill
  dsimp only
  rw [h]

theorem goFill_fails {c : BitVec 7} (h : s.fillRange f = (s1, .error (some c))) : s.goFill f = s1.endFill f (some c) := by
  unfold State.goFill
  dsimp only
  rw [h]

theorem goFill_found {x : RtEntry} (h : s.fillRange f = (s1, .ok x)) : s.goFill f = s.fillOn f x.r := by
  unfold State.goFill
  dsimp only
  rw [h]
  rfl

section On
variable {r : RangeRec}

theorem fillOn_whole (hb : f.begun = none) (hr : r.partialRes = false) : s.fillOn f r = s.endFill f none := by
  rw [State.fillOn, hb, hr]
  rfl

theorem fillOn_begins (hb : f.begun = none) (hr : r.partialRes = true) :
    s.fillOn f r = ({ s with fresh := s.fresh + 1 } : State).setFill { f with begun := some s.fresh } := by
  rw [State.fillOn, hb, hr]
  rfl

variable (hb : f.begun ≠ none)
include hb

theorem fillOn_part (hd : f.done < f.need r) : s.fillOn f r = s.fillPart f r (f.need r) := by
  rw [State.fillOn, if_neg (mt Option.isNone_iff_eq_none.mp hb), if_pos hd]

/-- A fill all of whose bytes are sent. -/
theorem fillOn_sent (hd : f.need r ≤ f.done) :
    s.fillOn f r = if !s.stored f.src then s else if f.set then s.endFill f none else s.fillMap f r := by
  rw [State.fillOn, if_neg (mt Option.isNone_iff_eq_none.mp hb), if_neg (Nat.not_lt.mpr hd)]

end On

/-! A part of a fill. -/

section Part
variable {r : RangeRec} {n : Nat} {bs : List Byte} (hd : s.descriptor f r = (s1, .ok bs))
include hd

theorem fillPart_none (hb : s1.backing f.src (274 + f.die) bs (f.gva + f.done) (min 4096 (n - f.done)) = (s2, .none)) :
    s.fillPart f r n = s2.endFill f (some 0x12) := by
  unfold State.fillPart
  dsimp only
  rw [Fill.src] at hb
  rw [hd]
  dsimp only
  rw [hb]

theorem fillPart_sends {data : List Byte} {u : State}
    (hb : s1.backing f.src (274 + f.die) bs (f.gva + f.done) (min 4096 (n - f.done)) = (s2, .data data false)) :
    let va := f.gva + f.done
    let k := min 4096 (n - f.done)
    let g : Seg := { sp := .dram, pa := translated va (s2.offsetAt r va), len := k, va := BitVec.ofNat 64 va, off := 0 }
    s2.refused (274 + f.die) 0 f.asid true [g] = none → s2.putSegs f.src f.asid (whole data) [g] = some u →
    s.fillPart f r n = (u.forget f.src).setFill { f with done := f.done + k } := by
  intro va k g hr hp
  unfold State.fillPart
  dsimp only
  rw [Fill.src] at hb hp
  rw [hd]
  dsimp only
  rw [hb]
  dsimp only
  refine (if_neg (by rw [hr]; exact Bool.false_ne_true)).trans ?_
  rw [hp]
  rfl

end Part

theorem exec_fillDeadline {x : RtEntry} {bs : List Byte} (hf : s.fills.find? (fun y => y.id == f.id) = some f)
    (hw : wbit (s.mgr 0x1000) 8 = true) (hs : f.set = false) (hb : f.begun ≠ none ∨ f.hostAsked = true)
    (hx : s.fillRange f = (s1, .ok x)) (hd : s1.descriptor f x.r = (s2, .ok bs)) (h0 : bits (word bs 3) 15 0 ≠ 0) :
    exec (.fillDeadline f.id) s = .next (s2.endFill f (some 0x12)) := by
  have hc : ¬(!wbit (s.mgr 0x1000) 8 || f.set || (f.begun.isNone && !f.hostAsked)) = true := by
    rw [hw, hs]
    rcases hb with h | h <;> simp [h]
  unfold exec execFillDeadline
  dsimp only
  rw [hf]
  refine congrArg (event s) ((if_neg hc).trans ?_ : _ = some _)
  rw [hx]
  dsimp only
  rw [hd]
  exact if_neg (mt beq_iff_eq.mp h0)

end Fills

end Sys2Proof.Machine
end

section
/-! PROOFS. Requests to a compactor (R399, R400, R403, R404, O50). -/

namespace Sys2Proof.Machine

section Requests
variable {s s1 s2 u : State} {d : Nat} {bs : List Byte}

/-! The head of a free compactor's queue. -/

section Head
variable (hd : d < 2) (hm : tget s.moves d = none) (hh : s.moveHead d = (s1, some bs))
include hd hm hh

theorem exec_moveRequest (hk : bits (word bs 0) 63 62 ≠ 1) : exec (.moveRequest d) s = .next (s1.goMoveRequest d bs) := by
  unfold exec execMoveRequest
  dsimp only
  unfold State.moveNext
  rw [if_neg (by simp [hd, hm]), hh]
  exact congrArg (event s) (if_neg (by simp [hk]))

theorem exec_retireRequest (hk : bits (word bs 0) 63 62 = 1) : exec (.retireRequest d) s = .next (s1.goRetireRequest d bs) := by
  unfold exec execRetireRequest
  dsimp only
  unfold State.moveNext
  rw [if_neg (by simp [hd, hm]), hh]
  exact congrArg (event s) (if_neg (by simp [hk]))

end Head

/-! Move requests. -/

theorem goMoveRequest_fails {st gen : Nat} (h : s.moveCheck d bs true = (s2, .error (some (st, gen)))) :
    s.goMoveRequest d bs = s2.moveEnds d (word bs 3) st gen := by
  unfold State.goMoveRequest
  dsimp only
  rw [h]

/-- A span that is not clear of another overlaps it. -/
theorem not_overlap_iff {old new size : Nat} :
    (new + size ≤ old ∨ old + size ≤ new) ↔ (new < old + size → new + size ≤ old) := by omega

variable {e : DirEntry} {r : RangeRec} {i : Nat} {gs : List Nat}

theorem goMoveRequest_checked (h : s.moveCheck d bs true = (s2, .ok (e, r, i)))
    (hl : s2.retiredList (compactor d) = (u, some gs)) :
    let asid := BitVec.ofNat 16 (word bs 0)
    let newOff := BitVec.ofNat 64 (word bs 2)
    let old := translated r.base r.offset
    let r' := { r with moving := true, mdie := d }
    s.goMoveRequest d bs =
      if old / 2 ^ 52 != 0 || newOff.toNat % 2 ^ 16 != 0 || !u.placeOk gs r.zone.toNat (translated r.base newOff) r.size ||
          (translated r.base newOff < old + r.size && old < translated r.base newOff + r.size) ||
          !u.moveGranted d old (translated r.base newOff) r.size then u.moveEnds d (word bs 3) 3 r.gen.toNat
      else if !u.mayEdit (compactor d) asid e i then (if u.intact (compactor d) then u else u.forget (compactor d))
      else (((u.rewalk asid).putRec e i r').moveTaken d).startMove d false asid r' newOff 0 (word bs 3) := by
  intro asid newOff old r'
  unfold State.goMoveRequest
  dsimp only
  rw [h]
  dsimp only
  rw [hl]

/-- The conditions under which a move request is granted. -/
def State.moveMay (s : State) (d : Nat) (gs : List Nat) (r : RangeRec) (newOff : Word) : Prop :=
  let old := translated r.base r.offset
  let new := translated r.base newOff
  old / 2 ^ 52 = 0 ∧ newOff.toNat % 2 ^ 16 = 0 ∧ s.placeOk gs r.zone.toNat new r.size = true ∧
    (new + r.size ≤ old ∨ old + r.size ≤ new) ∧ s.moveGranted d old new r.size = true

theorem moveMay_iff {newOff : Word} : s.moveMay d gs r newOff ↔
    ¬(translated r.base r.offset / 2 ^ 52 != 0 || newOff.toNat % 2 ^ 16 != 0 ||
      !s.placeOk gs r.zone.toNat (translated r.base newOff) r.size ||
      (translated r.base newOff < translated r.base r.offset + r.size && translated r.base r.offset < translated r.base newOff + r.size) ||
      !s.moveGranted d (translated r.base r.offset) (translated r.base newOff) r.size) = true := by
  unfold State.moveMay
  generalize translated r.base r.offset = old
  generalize translated r.base newOff = new
  simp only [Bool.or_eq_true, Bool.not_eq_true', Bool.and_eq_true, decide_eq_true_eq, bne_iff_ne, not_or, not_and, Decidable.not_not,
    Nat.not_lt, Bool.not_eq_false, not_overlap_iff, and_assoc]

theorem goMoveRequest_refused {newOff : Word} (hw : newOff = BitVec.ofNat 64 (word bs 2))
    (h : s.moveCheck d bs true = (s2, .ok (e, r, i))) (hl : s2.retiredList (compactor d) = (u, some gs)) (hm : ¬u.moveMay d gs r newOff) :
    s.goMoveRequest d bs = u.moveEnds d (word bs 3) 3 r.gen.toNat := by
  subst hw
  exact (goMoveRequest_checked h hl).trans (if_pos (Decidable.not_not.mp (mt moveMay_iff.mpr hm)))

theorem goMoveRequest_starts {newOff : Word} (hw : newOff = BitVec.ofNat 64 (word bs 2))
    (h : s.moveCheck d bs true = (s2, .ok (e, r, i))) (hl : s2.retiredList (compactor d) = (u, some gs)) (hm : u.moveMay d gs r newOff)
    (he : u.mayEdit (compactor d) (BitVec.ofNat 16 (word bs 0)) e i = true) :
    let asid := BitVec.ofNat 16 (word bs 0)
    let r' := { r with moving := true, mdie := d }
    s.goMoveRequest d bs = (((u.rewalk asid).putRec e i r').moveTaken d).startMove d false asid r' newOff 0 (word bs 3) := by
  subst hw
  exact (goMoveRequest_checked h hl).trans ((if_neg (moveMay_iff.mp hm)).trans (if_neg (by rw [he]; exact Bool.false_ne_true)))

/-! Retire requests. -/

theorem goRetireRequest_fails {st gen : Nat} (h : s.moveCheck d bs false = (s2, .error (some (st, gen)))) :
    s.goRetireRequest d bs = s2.moveEnds d (word bs 3) st gen := by
  unfold State.goRetireRequest
  dsimp only
  rw [h]

/-- The granule to retire, in bytes. -/
def retirePa (bs : List Byte) : Nat := word bs 2 / 2 ^ 16 * 2 ^ 16

/-- The span of a record that a retirement at pa moves. -/
def RangeRec.retireLo (r : RangeRec) (pa : Nat) : Nat :=
  let x := pa - translated r.base r.offset
  if r.partialRes then x / 2 ^ 24 * 2 ^ 24 else x
def RangeRec.retireHi (r : RangeRec) (pa : Nat) : Nat :=
  if r.partialRes then min (r.retireLo pa + 2 ^ 24) r.size else pa - translated r.base r.offset + 2 ^ 16

/-- The part of the record that moves, and the parts the record is split into. -/
def RangeRec.retireMid (r : RangeRec) (d pa : Nat) : RangeRec := { r.part (r.retireLo pa) (r.retireHi pa) with moving := true, mdie := d }
def RangeRec.retireParts (r : RangeRec) (d pa : Nat) : List RangeRec :=
  (if r.retireLo pa == 0 then [] else [r.part 0 (r.retireLo pa)]) ++ [r.retireMid d pa] ++
    (if r.retireHi pa == r.size then [] else [r.part (r.retireHi pa) r.size])

/-- The record holds the granule. -/
def RangeRec.holds (r : RangeRec) (pa : Nat) : Prop :=
  let old := translated r.base r.offset
  old / 2 ^ 52 = 0 ∧ old ≤ pa ∧ pa < old + r.size

theorem RangeRec.holds_iff {pa : Nat} : r.holds pa ↔ ¬(translated r.base r.offset / 2 ^ 52 != 0 ||
    pa < translated r.base r.offset || translated r.base r.offset + r.size ≤ pa) = true := by
  unfold RangeRec.holds
  simp only [Bool.or_eq_true, decide_eq_true_eq, bne_iff_ne, not_or, Decidable.not_not, Nat.not_lt, Nat.not_le, and_assoc]

/-- What a retirement does whose parts the directory has room for. -/
def State.retireOn (s : State) (d : Nat) (bs : List Byte) (e : DirEntry) (r : RangeRec) (i : Nat) : State :=
  let src := compactor d
  let pa := retirePa bs
  let asid := BitVec.ofNat 16 (word bs 0)
  let a := r.retireLo pa
  let b := r.retireHi pa
  let old := translated r.base r.offset
  let l := s.retiredList src
  let p := l.1.spare src r.zone.toNat ((b - a) / 2 ^ 16)
  match l.2, p.2 with
  | none, _ => p.1
  | _, .error _ => p.1
  | _, .ok none => p.1.moveEnds d (word bs 3) 6 r.gen.toNat
  | some gs, .ok (some (ta, at', used)) =>
    if !p.1.intact src || !p.1.settledLines at' 8 then (if p.1.intact src then p.1 else p.1.forget src)
    else if !p.1.placeOk gs r.zone.toNat ta (b - a) || (ta < old + b && old + a < ta + (b - a)) ||
        !p.1.moveGranted d (old + a) ta (b - a) then (p.1.writeZoned at' used).moveEnds d (word bs 3) 3 r.gen.toNat
    else match p.1.splice src asid e i 1 (r.retireParts d pa) with
      | .status n => p.1.moveEnds d (word bs 3) n r.gen.toNat
      | .wait s => s
      | .poison s => s.moveEnds d (word bs 3) 1 r.gen.toNat
      | .done s =>
        ((s.writeZoned at' used).moveTaken d).startMove d true asid (r.retireMid d pa)
          (BitVec.ofNat 64 ta - BitVec.ofNat 64 (r.retireMid d pa).base) (pa / 2 ^ 16) (word bs 3)

theorem goRetireRequest_checked (h : s.moveCheck d bs false = (s2, .ok (e, r, i))) :
    s.goRetireRequest d bs =
      if translated r.base r.offset / 2 ^ 52 != 0 || retirePa bs < translated r.base r.offset ||
          translated r.base r.offset + r.size ≤ retirePa bs then s2.moveEnds d (word bs 3) 1 r.gen.toNat
      else if e.cap < e.count + (r.retireParts d (retirePa bs)).length - 1 then s2.moveEnds d (word bs 3) 5 r.gen.toNat
      else s2.retireOn d bs e r i := by
  have hpa : word bs 2 / 2 ^ 16 * 2 ^ 16 = retirePa bs := rfl
  have hlo : (if r.partialRes then (retirePa bs - translated r.base r.offset) / 2 ^ 24 * 2 ^ 24
      else retirePa bs - translated r.base r.offset) = r.retireLo (retirePa bs) := rfl
  have hhi : (if r.partialRes then min (r.retireLo (retirePa bs) + 2 ^ 24) r.size
      else retirePa bs - translated r.base r.offset + 2 ^ 16) = r.retireHi (retirePa bs) := rfl
  have hmid : { r.part (r.retireLo (retirePa bs)) (r.retireHi (retirePa bs)) with moving := true, mdie := d } =
      r.retireMid d (retirePa bs) := rfl
  unfold State.goRetireRequest
  dsimp only
  rw [h]
  dsimp only
  rw [hpa, hlo, hhi, hmid]
  refine ite_congr rfl (fun _ => rfl) fun _ => ite_congr rfl (fun _ => rfl) fun _ => ?_
  unfold State.retireOn RangeRec.retireParts
  dsimp only
  generalize State.spare _ _ _ _ = p
  generalize s2.retiredList (compactor d) = l
  obtain ⟨l1, _ | gs⟩ := l <;> obtain ⟨p1, _ | _ | ⟨ta, at', used⟩⟩ := p
  case some.ok.some =>
    refine ite_congr rfl (fun _ => rfl) fun _ => ite_congr rfl (fun _ => rfl) fun _ => ?_
    generalize State.splice _ _ _ _ _ _ _ = q
    cases q <;> rfl
  all_goals rfl

section Retire
variable (h : s.moveCheck d bs false = (s2, .ok (e, r, i)))
include h

theorem goRetireRequest_elsewhere (hh : ¬r.holds (retirePa bs)) : s.goRetireRequest d bs = s2.moveEnds d (word bs 3) 1 r.gen.toNat :=
  (goRetireRequest_checked h).trans (if_pos (Decidable.not_not.mp (mt RangeRec.holds_iff.mpr hh)))

variable (hh : r.holds (retirePa bs))
include hh

theorem goRetireRequest_full (hc : e.cap < e.count + (r.retireParts d (retirePa bs)).length - 1) :
    s.goRetireRequest d bs = s2.moveEnds d (word bs 3) 5 r.gen.toNat :=
  (goRetireRequest_checked h).trans ((if_neg (RangeRec.holds_iff.mp hh)).trans (if_pos hc))

theorem goRetireRequest_room (hc : e.count + (r.retireParts d (retirePa bs)).length ≤ e.cap + 1) :
    s.goRetireRequest d bs = s2.retireOn d bs e r i :=
  (goRetireRequest_checked h).trans ((if_neg (RangeRec.holds_iff.mp hh)).trans (if_neg (by omega)))

end Retire

theorem retireOn_starts {v w : State} {ta at' : Nat} {used : List Byte} {lo hi pa : Nat} (hpa : retirePa bs = pa)
    (ha : r.retireLo pa = lo) (hb : r.retireHi pa = hi) (hl : s.retiredList (compactor d) = (u, some gs))
    (hs : u.spare (compactor d) r.zone.toNat ((hi - lo) / 2 ^ 16) = (v, .ok (some (ta, at', used))))
    (hi' : v.intact (compactor d) = true) (hset : v.settledLines at' 8 = true) (hok : v.placeOk gs r.zone.toNat ta (hi - lo) = true)
    (hclear : ta + (hi - lo) ≤ translated r.base r.offset + lo ∨ translated r.base r.offset + hi ≤ ta)
    (hg : v.moveGranted d (translated r.base r.offset + lo) ta (hi - lo) = true)
    (hsp : v.splice (compactor d) (BitVec.ofNat 16 (word bs 0)) e i 1 (r.retireParts d pa) = .done w) :
    s.retireOn d bs e r i = ((w.writeZoned at' used).moveTaken d).startMove d true (BitVec.ofNat 16 (word bs 0)) (r.retireMid d pa)
      (BitVec.ofNat 64 ta - BitVec.ofNat 64 (r.retireMid d pa).base) (pa / 2 ^ 16) (word bs 3) := by
  subst hpa ha hb
  have hover : ¬(ta < translated r.base r.offset + r.retireHi (retirePa bs) &&
      translated r.base r.offset + r.retireLo (retirePa bs) < ta + (r.retireHi (retirePa bs) - r.retireLo (retirePa bs))) = true := by
    rw [Bool.and_eq_true, decide_eq_true_eq, decide_eq_true_eq]
    omega
  unfold State.retireOn
  dsimp only
  rw [hl]
  dsimp only
  rw [hs]
  dsimp only
  rw [if_neg (by rw [hi', hset]; exact Bool.false_ne_true), if_neg (by rw [hok, hg, Bool.eq_false_iff.mpr hover]; exact Bool.false_ne_true), hsp]

end Requests

end Sys2Proof.Machine
end

section
/-! PROOFS. A compactor's move goes on and ends, and messages of barriers (R212, R400 to R403, R473, O50). -/

namespace Sys2Proof.Machine

section Moves
variable {s s1 s2 : State} {d : Nat} {v : Move'}

/-! One granule. -/

theorem exec_compactorGranule (hv : s.moveAt d = some v) (h1 : v.stage = 1) : exec (.compactorGranule d) s = event s (s.goGranule d v) := by
  unfold exec execCompactorGranule
  dsimp only
  rw [hv]
  exact congrArg (event s) (if_pos (beq_iff_eq.mpr h1))

theorem goGranule_removed (hr : s.moveRec d v = (s1, .ok none)) : s.goGranule d v = some (s1.moveStops d v) := by
  unfold State.goGranule
  dsimp only
  rw [hr]

/-- A compactor goes on to the next granule. -/
def State.nextGranule (s : State) (d : Nat) (v : Move') : State :=
  { (s.mapped (276 + d)).forget (compactor d) with moves := tput s.moves d { v with m := v.m + 1 } }

/-- A granule is copied, and what holds its translation follows it. -/
def State.granuleCopied (s : State) (v : Move') (va old new : Nat) : State :=
  ((s.copyLines (old / 64) (new / 64) 1024).redirect v.asid va old new).settleGranule old

section Record
variable {e : DirEntry} {r : RangeRec} {i : Nat} (hr : s.moveRec d v = (s1, .ok (some (e, r, i)))) (hm : v.m < r.length)
  (hf : ∀ f ∈ s1.fills, f.asid = v.asid → f.gva = r.granuleVa (r.granule (r.base + 2 ^ 16 * v.m)) → f.begun = none ∧ f.hostAsked = false)
include hr hm hf

/-- A granule that no fill is in flight into: by whether it is resident. -/
theorem goGranule_free : s.goGranule d v =
    match (if r.partialRes then s1.mapBit (276 + d) r (r.granule (r.base + 2 ^ 16 * v.m)) else (s1, .ok true)) with
    | (w, .error none) => some w
    | (w, .ok false) => some (w.nextGranule d v)
    | (w, _) => some ((w.granuleCopied v (r.base + 2 ^ 16 * v.m) (translated (r.base + 2 ^ 16 * v.m) r.offset)
        (translated (r.base + 2 ^ 16 * v.m) v.newOff)).nextGranule d v) := by
  have hany : ¬(s1.fills.any (fun f => f.asid == v.asid && f.gva == r.granuleVa (r.granule (r.base + 2 ^ 16 * v.m)) &&
      (f.begun.isSome || f.hostAsked))) = true := by
    rw [List.any_eq_true]
    rintro ⟨f, hmem, hc⟩
    simp only [Bool.and_eq_true, beq_iff_eq] at hc
    obtain ⟨⟨ha, hg⟩, hb⟩ := hc
    obtain ⟨hn, hh⟩ := hf f hmem ha hg
    rw [hn, hh] at hb
    exact Bool.noConfusion hb
  unfold State.goGranule
  dsimp only
  rw [hr]
  dsimp only
  rw [if_neg (Nat.not_le.mpr hm), if_neg hany]
  generalize (if r.partialRes then s1.mapBit (276 + d) r (r.granule (r.base + 2 ^ 16 * v.m)) else (s1, .ok true)) = q
  obtain ⟨w, (_ | _) | (_ | _)⟩ := q <;> rfl

theorem goGranule_resident
    (hb : r.partialRes = false ∨ s1.mapBit (276 + d) r (r.granule (r.base + 2 ^ 16 * v.m)) = (s2, .ok true)) :
    s.goGranule d v = some (((if r.partialRes then s2 else s1).granuleCopied v (r.base + 2 ^ 16 * v.m)
      (translated (r.base + 2 ^ 16 * v.m) r.offset) (translated (r.base + 2 ^ 16 * v.m) v.newOff)).nextGranule d v) := by
  rw [goGranule_free hr hm hf]
  cases hp : r.partialRes with
  | false => rfl
  | true =>
    rw [if_pos rfl, hb.resolve_left (by rw [hp]; exact Bool.noConfusion)]
    rfl

theorem goGranule_absent (hp : r.partialRes = true)
    (hb : s1.mapBit (276 + d) r (r.granule (r.base + 2 ^ 16 * v.m)) = (s2, .ok false)) :
    s.goGranule d v = some (s2.nextGranule d v) := by
  rw [goGranule_free hr hm hf, if_pos hp, hb]

end Record

/-! The end of a move. -/

theorem exec_moveFinish_removed (hv : s.moveAt d = some v) (h1 : v.stage = 1) (hr : s.moveRec d v = (s1, .ok none)) :
    exec (.moveFinish d) s = .next (s1.moveStops d v) := by
  unfold exec execMoveFinish
  dsimp only
  rw [hv]
  refine congrArg (event s) ((if_neg (by rw [h1]; decide)).trans ?_ : _ = some _)
  rw [hr]

theorem exec_moveFinish_placed {e : DirEntry} {r : RangeRec} {i : Nat} (hv : s.moveAt d = some v) (h1 : v.stage = 1)
    (hr : s.moveRec d v = (s1, .ok (some (e, r, i)))) (hm : r.length ≤ v.m) (he : s1.mayEdit (compactor d) v.asid e i = true) :
    let u := ((s1.rewalk v.asid).putRec e i { r with offset := v.newOff, moving := false, mdie := 0, gen := r.gen + 1 }).forget (compactor d)
    let t := u.shoot v.asid (some (r.base, r.size)) none parties
    exec (.moveFinish d) s = .next
      { t with moves := tput t.moves d { v with stage := 3, m := r.length, shoot := u.fresh, gen := (r.gen + 1).toNat } } := by
  intro u t
  unfold exec execMoveFinish
  dsimp only
  rw [hv]
  refine congrArg (event s) ((if_neg (by rw [h1]; decide)).trans ?_ : _ = some _)
  rw [hr]
  exact (if_neg (Nat.not_lt.mpr hm)).trans (if_neg (by rw [he]; exact Bool.false_ne_true))

theorem exec_moveFinish_reports (hv : s.moveAt d = some v) (h3 : v.stage = 3) :
    let u := { s.moveStatus d v.compl 0 v.gen with moves := tdel s.moves d }
    exec (.moveFinish d) s = .next (if v.retire then u.retireGranule v.granule else u) := by
  intro u
  unfold exec execMoveFinish
  dsimp only
  rw [hv]
  exact congrArg (event s) (if_pos (beq_iff_eq.mpr h3))

end Moves

/-! Messages of barriers. -/

section Messages
variable {s : State} {k : Nat} {m : BMsg} (hk : s.bmsgs[k]? = some m)
include hk

section Arrival
variable (hf : m.flip = false)
include hf

theorem exec_arrival_leaves (hp : m.pkg ≠ 0xFFFF) :
    exec (.barrierParentArrival k) s =
      .next { s with bmsgs := s.bmsgs.eraseIdx k, linkOut := s.linkOut ++ [(m.pkg.toNat, m.bytes, false)] } := by
  unfold exec execBarrierParentArrival
  dsimp only
  rw [hk]
  exact congrArg (event s) ((if_neg (by rw [hf]; exact Bool.false_ne_true)).trans (if_pos (bne_iff_ne.mpr hp)))

/-- An arrival at a barrier of the package. -/
theorem exec_arrival_here (hp : m.pkg = 0xFFFF) :
    let b := (s.core m.core).bar m.bar
    let x := (m.ph - b.ph).toNat
    let u := { s with bmsgs := s.bmsgs.eraseIdx k }
    exec (.barrierParentArrival k) s = event s (
      if b.c == 0 || 2 ^ 15 ≤ x then some u
      else if b.a.toNat < x then none
      else some ((u.setBar m.core m.bar { b with kids := b.kids ++ [(m.fromCore, m.fromBar, m.ph)] }).arriveAt m.core m.bar x)) := by
  intro b x u
  unfold exec execBarrierParentArrival
  dsimp only
  rw [hk]
  exact congrArg (event s) ((if_neg (by rw [hf]; exact Bool.false_ne_true)).trans (if_neg (by rw [hp]; decide)))

end Arrival

theorem exec_flipDown_leaves (hf : m.flip = true) (hc : 1000 ≤ m.core) :
    exec (.barrierFlipDown k) s =
      .next { s with bmsgs := s.bmsgs.eraseIdx k, linkOut := s.linkOut ++ [(m.core - 1000, m.bytes, false)] } := by
  unfold exec execBarrierFlipDown
  dsimp only
  rw [hk]
  exact congrArg (event s) ((if_neg (by rw [hf]; exact Bool.false_ne_true)).trans (if_pos hc))

theorem exec_flipDown_here (hf : m.flip = true) (hc : m.core < 1000) :
    exec (.barrierFlipDown k) s = .next (({ s with bmsgs := s.bmsgs.eraseIdx k } : State).flipDown m.core m.bar m.ph) := by
  unfold exec execBarrierFlipDown
  dsimp only
  rw [hk]
  exact congrArg (event s) ((if_neg (by rw [hf]; exact Bool.false_ne_true)).trans (if_neg (Nat.not_le.mpr hc)))

end Messages

end Sys2Proof.Machine
end

section
/-! PROOFS. The events of ranges, fills, compactors and barriers together (O50). -/

namespace Sys2Proof.Machine

/-- An arrival that is not dropped. -/
theorem arrival_in_range {c : BitVec 16} {x : Nat} (hc : c ≠ 0) (hx : x < 2 ^ 15) : ¬(c == 0 || 2 ^ 15 ≤ x) = true := by
  rw [beq_false_of_ne hc, decide_eq_false (Nat.not_le.mpr hx)]
  exact Bool.false_ne_true

theorem arrival_dropped {c : BitVec 16} {x : Nat} (h : c = 0 ∨ 2 ^ 15 ≤ x) : (c == 0 || 2 ^ 15 ≤ x) = true := by
  simpa using h

/-- The parts of a record that a retirement splits, as O50 spells them. -/
theorem retireParts_spelt (r : RangeRec) (d pa : Nat) :
    (if r.retireLo pa = 0 then [] else [r.part 0 (r.retireLo pa)]) ++ [r.retireMid d pa] ++
      (if r.retireHi pa = r.size then [] else [r.part (r.retireHi pa) r.size]) = r.retireParts d pa := by
  unfold RangeRec.retireParts
  simp only [beq_iff_eq]

/-- Settles O50, an equation for each event. -/
theorem rangeAndBarrierEvents : Obligations.RangeAndBarrierEvents := by
  unfold Obligations.RangeAndBarrierEvents
  intro s s1 s2 d bs e r i does
  refine ⟨fun w slot hw => ?walk, fun h p hf hp => ⟨fun hg => ?first, fun hg => exec_shootdown_again hf hp hg⟩, fun f x hf => ?fill,
    fun hd hm hh => ?request, fun v hv => ?move, fun k m hk => ?message⟩
  case walk =>
    have hx (u : Option State) (hu : s.goWalk w slot = u) : exec (.rangeWalk w.id slot) s = event s u :=
      hu ▸ exec_rangeWalk hw
    refine ⟨fun ha hn => ⟨fun hl => hx _ ((goWalk_asked ha hn).trans (if_neg (Bool.eq_false_iff.mp hl))),
        fun hl => hx _ ((goWalk_asked ha hn).trans (if_pos hl)), fun hl => exec_walkDeadline hw ha hn hl⟩,
      fun h => ⟨fun hd => hx _ (goWalk_stops h hd), fun c hd => hx _ (goWalk_stops h hd), fun hd =>
        ⟨fun hn hh => ⟨fun hq => hx _ (goWalk_walks h hd hn hh hq), fun c hq => hx _ (goWalk_walks h hd hn hh hq), fun e' hq => ?_⟩,
          fun hn hh => hx _ (goWalk_asks h hd hn hh),
          fun a hn => ⟨fun hq => hx _ (goWalk_answered h hd hn hq), fun c hq => hx _ (goWalk_answered h hd hn hq), fun hq => ?_⟩⟩⟩⟩
    · have hg := goWalk_walks (slot := slot) h hd hn hh hq
      exact ⟨fun v hv => hx _ (hg.trans (congrArg some (walked_entered hv))), fun hv => hx _ (hg.trans (congrArg some (walked_full hv)))⟩
    · have hg := goWalk_answered (slot := slot) h hd hn hq
      exact ⟨fun v hv => hx _ (hg.trans (congrArg some (walked_entered hv))), fun hv => hx _ (hg.trans (congrArg some (walked_full hv)))⟩
  case first => exact ⟨exec_shootdown_first hf hp hg, fun hr x hx hi => todo_acknowledge (rtab_receive_nil hr) x hx hi⟩
  case fill =>
    refine ⟨fun ha hr => ?_, fun hd => ⟨fun hb => fillPart_none hd hb, fun data u hb hr hp => fillPart_sends hd hb hr hp⟩,
      fun hw hs hb hx hd h0 => exec_fillDeadline hf hw hs hb hx hd h0⟩
    have hx (u : State) (hu : s.goFill f = u) : exec (.fillComplete f.id) s = .next u := hu ▸ exec_fillComplete hf ha hr
    refine ⟨fun h => hx _ (goFill_waits h), fun c h => hx _ (goFill_fails h), fun h => ?_⟩
    have hg := goFill_found h
    refine ⟨fun hb hp => hx _ (hg.trans (fillOn_whole hb hp)), fun hb hp => hx _ (hg.trans (fillOn_begins hb hp)), fun hb =>
      ⟨fun hd => hx _ (hg.trans (fillOn_part hb hd)), fun hd hs => ?_, fun hd hs hset => ?_, fun hd hs hset => ?_⟩⟩
    · exact hx _ (hg.trans ((fillOn_sent hb hd).trans (if_pos ((Bool.not_eq_true' _).mpr hs))))
    · exact hx _ (hg.trans ((fillOn_sent hb hd).trans
        ((if_neg (by rw [Fill.src, hs]; exact Bool.false_ne_true)).trans (if_pos hset))))
    · exact hx _ (hg.trans ((fillOn_sent hb hd).trans
        ((if_neg (by rw [Fill.src, hs]; exact Bool.false_ne_true)).trans (if_neg (Bool.eq_false_iff.mp hset)))))
  case request =>
    refine ⟨fun hk => ⟨fun st gen hc => ?_, fun u gs hc hl => ⟨fun hm' => ?_, fun hm' he => ?_⟩⟩,
      fun hk => ⟨fun st gen hc => ?_, fun hc => ⟨fun hn => ?_, fun hin hcap => ?_,
        fun u gs v ta at' used w hin hcap hl hs hi hset hok hcl hg hsp => ?_⟩⟩⟩
    · exact (exec_moveRequest hd hm hh hk).trans (congrArg _ (goMoveRequest_fails hc))
    · exact (exec_moveRequest hd hm hh hk).trans (congrArg _ (goMoveRequest_refused rfl hc hl hm'))
    · exact (exec_moveRequest hd hm hh hk).trans (congrArg _ (goMoveRequest_starts rfl hc hl hm' he))
    · exact (exec_retireRequest hd hm hh hk).trans (congrArg _ (goRetireRequest_fails hc))
    · exact (exec_retireRequest hd hm hh hk).trans (congrArg _ (goRetireRequest_elsewhere hc hn))
    · have hcap' : e.cap < e.count + (r.retireParts d (retirePa bs)).length - 1 := by
        rw [← retireParts_spelt]
        exact hcap
      exact (exec_retireRequest hd hm hh hk).trans (congrArg _ (goRetireRequest_full hc hin hcap'))
    · have hcap' : e.count + (r.retireParts d (retirePa bs)).length ≤ e.cap + 1 := by
        rw [← retireParts_spelt]
        exact hcap
      have hsp' : v.splice (compactor d) (BitVec.ofNat 16 (word bs 0)) e i 1 (r.retireParts d (retirePa bs)) = .done w := by
        rw [← retireParts_spelt]
        exact hsp
      exact (exec_retireRequest hd hm hh hk).trans (congrArg _ ((goRetireRequest_room hc hin hcap').trans
        (retireOn_starts rfl rfl rfl hl hs hi hset hok hcl hg hsp')))
  case move =>
    refine ⟨fun h1 hr => ⟨(exec_compactorGranule hv h1).trans (congrArg (event s) (goGranule_removed hr)), exec_moveFinish_removed hv h1 hr⟩,
      fun h1 hr => ⟨fun hm hf => ⟨fun hb => ?_, fun hp hb => ?_⟩, fun hm he => exec_moveFinish_placed hv h1 hr hm he⟩,
      fun h3 => exec_moveFinish_reports hv h3⟩
    · exact (exec_compactorGranule hv h1).trans (congrArg (event s) (goGranule_resident hr hm hf hb))
    · exact (exec_compactorGranule hv h1).trans (congrArg (event s) (goGranule_absent hr hm hf hp hb))
  case message =>
    refine ⟨fun hf hp => ?_, fun hf hp => exec_arrival_leaves hk hf hp, fun hf hc => exec_flipDown_here hk hf hc,
      fun hf hc => exec_flipDown_leaves hk hf hc⟩
    have hx := exec_arrival_here hk hf hp
    refine ⟨fun hc ha hl => ?_, fun hc ha hl => ?_, fun h => ?_⟩
    · exact hx.trans (congrArg (event s) ((if_neg (arrival_in_range hc hl)).trans (if_neg (Nat.not_lt.mpr ha))))
    · exact hx.trans (congrArg (event s) ((if_neg (arrival_in_range hc hl)).trans (if_pos ha)))
    · exact hx.trans (congrArg (event s) (if_pos (arrival_dropped h)))

end Sys2Proof.Machine
end

section
/-! PROOFS. The dispatcher takes slots of work queues (R261, R263, R271, O51). -/

namespace Sys2Proof.Machine

section Take
variable {s s1 s2 s3 : State} {q : Nat} {bs w : List Byte}

/-! A queue's descriptor. -/

/-- The consumer index of a descriptor, the records between it and the producer index, and the size of the ring. -/
def descCons (bs : List Byte) : Nat := bits (word bs 2) 63 32
def descHeld (bs : List Byte) : Nat := (bits (word bs 2) 31 0 + 2 ^ 32 - descCons bs) % 2 ^ 32
def descLg (bs : List Byte) : Nat := bits (word bs 1) 4 0
def descSlot (bs : List Byte) : Nat := word bs 0 + 64 * (descCons bs % 2 ^ descLg bs)

/-- A legal configuration. -/
def descLegal (bs : List Byte) : Prop := bits (word bs 1) 63 46 = 0 ∧ bits (word bs 1) 6 5 = 0 ∧ bits (word bs 1) 8 7 ≠ 3 ∧ descLg bs ≤ 20

theorem descLegal_iff : descLegal bs ↔
    ¬(bits (word bs 1) 63 46 != 0 || bits (word bs 1) 6 5 != 0 || bits (word bs 1) 8 7 == 3 || 20 < bits (word bs 1) 4 0) = true := by
  unfold descLegal descLg
  simp only [Bool.or_eq_true, bne_iff_ne, beq_iff_eq, decide_eq_true_eq, not_or, Decidable.not_not, Nat.not_lt, and_assoc, ne_eq]

/-- What a descriptor that was read leads to. -/
def State.descRead (s : State) (q : Nat) (bs : List Byte) : State :=
  if descHeld bs == 0 || !s.dramOk dispatcher true (s.queueAt q) then s.forget (takeSrc q)
  else if bits (word bs 1) 63 46 != 0 || bits (word bs 1) 6 5 != 0 || bits (word bs 1) 8 7 == 3 || 20 < bits (word bs 1) 4 0 then
    (s.forget (takeSrc q)).queueError (takeSrc q) q 9 0
  else if !bit (word bs 1) 10 then s.forget (takeSrc q)
  else if 2 ^ descLg bs < descHeld bs then (s.forget (takeSrc q)).queueError (takeSrc q) q 8 (BitVec.ofNat 32 (descCons bs))
  else if 4096 ≤ s.heldCount then s.forget (takeSrc q)
  else s.takeSlot q bs

theorem exec_queueTake_waits (hq : q < 65536) (hd : s.queueDesc (takeSrc q) dispatcher q = (s1, .wait)) :
    exec (.queueTake q) s = .next s1 := by
  unfold exec execQueueTake
  dsimp only
  rw [if_neg (Nat.not_le.mpr hq), hd]
  rfl

theorem exec_queueTake_read (hq : q < 65536) (hd : s.queueDesc (takeSrc q) dispatcher q = (s1, .data bs false)) :
    exec (.queueTake q) s = .next (s1.descRead q bs) := by
  unfold exec execQueueTake
  dsimp only
  rw [if_neg (Nat.not_le.mpr hq), hd]
  unfold State.descRead
  simp only [← apply_ite some]
  rfl

section Read

theorem descRead_empty (h : descHeld bs = 0) : s.descRead q bs = s.forget (takeSrc q) := by
  rw [State.descRead, if_pos (by rw [h]; rfl)]

variable (h0 : descHeld bs ≠ 0) (hok : s.dramOk dispatcher true (s.queueAt q) = true)
include h0 hok

theorem not_idle : ¬(descHeld bs == 0 || !s.dramOk dispatcher true (s.queueAt q)) = true := by
  rw [hok, beq_false_of_ne h0]
  exact Bool.false_ne_true

theorem descRead_illegal (hl : ¬descLegal bs) : s.descRead q bs = (s.forget (takeSrc q)).queueError (takeSrc q) q 9 0 := by
  rw [State.descRead, if_neg (not_idle h0 hok), if_pos (Decidable.not_not.mp (mt descLegal_iff.mpr hl))]

variable (hl : descLegal bs)
include hl

theorem descRead_off (hb : bit (word bs 1) 10 = false) : s.descRead q bs = s.forget (takeSrc q) := by
  rw [State.descRead, if_neg (not_idle h0 hok), if_neg (descLegal_iff.mp hl), if_pos ((Bool.not_eq_true' _).mpr hb)]

variable (hb : bit (word bs 1) 10 = true)
include hb

theorem descRead_on : s.descRead q bs =
    if 2 ^ descLg bs < descHeld bs then (s.forget (takeSrc q)).queueError (takeSrc q) q 8 (BitVec.ofNat 32 (descCons bs))
    else if 4096 ≤ s.heldCount then s.forget (takeSrc q) else s.takeSlot q bs := by
  rw [State.descRead, if_neg (not_idle h0 hok), if_neg (descLegal_iff.mp hl), if_neg (by rw [hb]; exact Bool.false_ne_true)]

end Read

/-! The slot at the consumer index. -/

/-- The slot has been taken: the consumer index goes up. -/
def State.tookSlot (s : State) (q : Nat) (bs : List Byte) : State :=
  (s.forget (takeSrc q)).queueWrite (takeSrc q) q 20 (storeOp 4 (descCons bs + 1))

theorem takeSlot_denied (h : s.dramOk dispatcher false (descSlot bs) = false) :
    s.takeSlot q bs = (s.tookSlot q bs).retireRecord (takeSrc q) q 5 (BitVec.ofNat 32 (descCons bs)) := by
  unfold State.takeSlot
  dsimp only
  rw [descSlot, descCons, descLg] at h
  rw [if_neg (by rw [h]; exact Bool.false_ne_true)]
  rfl

/-- A slot that has not been written yet. -/
def slotStale (bs w : List Byte) : Prop :=
  bits (word w 0) 31 16 ≠ descCons bs % 2 ^ 16 ∨ bits (word w 0) 63 57 ≠ descCons bs / 2 ^ 16 % 2 ^ 7

theorem slotStale_iff : slotStale bs w ↔
    (bits (word w 0) 31 16 != descCons bs % 2 ^ 16 || bits (word w 0) 63 57 != descCons bs / 2 ^ 16 % 2 ^ 7) = true := by
  unfold slotStale
  simp only [Bool.or_eq_true, bne_iff_ne]

section Slot
variable {g : Got} (hok : s.dramOk dispatcher false (descSlot bs) = true)
include hok

theorem takeSlot_waits (hr : s.readZoned (takeSrc q) (descSlot bs) 64 = (s2, .wait)) : s.takeSlot q bs = s2 := by
  unfold State.takeSlot
  dsimp only
  rw [descSlot, descCons, descLg] at hok hr
  rw [if_pos hok, hr]

theorem takeSlot_poisoned (hr : s.readZoned (takeSrc q) (descSlot bs) 64 = (s2, .data w true)) :
    s.takeSlot q bs = (s2.tookSlot q bs).retireRecord (takeSrc q) q 5 (BitVec.ofNat 32 (descCons bs)) := by
  unfold State.takeSlot
  dsimp only
  rw [descSlot, descCons, descLg] at hok hr
  rw [if_pos hok, hr]
  rfl

/-- What the record in a slot comes to. -/
def admittedSlot (q : Nat) (bs : List Byte) : Disp Kernel → State
  | .wait s1 => s1
  | .fail s1 code => (s1.tookSlot q bs).retireRecord (takeSrc q) q code (BitVec.ofNat 32 (descCons bs))
  | .ok s1 k =>
    let s2 := s1.tookSlot q bs
    { s2 with d := { s2.d with kernels := s2.d.kernels ++ [k], nextId := s2.d.nextId + 1 } }

/-- A slot that was read whole. -/
theorem takeSlot_whole (hr : s.readZoned (takeSrc q) (descSlot bs) 64 = (s2, .data w false)) :
    s.takeSlot q bs =
      if bits (word w 0) 31 16 != descCons bs % 2 ^ 16 || bits (word w 0) 63 57 != descCons bs / 2 ^ 16 % 2 ^ 7 then s2.forget (takeSrc q)
      else if bits (word w 0) 3 0 == 0 then (s2.tookSlot q bs).retireRecord (takeSrc q) q 0 (BitVec.ofNat 32 (descCons bs))
      else admittedSlot q bs (s2.admission q (BitVec.ofNat 32 (descCons bs)) (word bs 1) w) := by
  unfold State.takeSlot
  dsimp only
  rw [descSlot, descCons, descLg] at hok hr
  rw [if_pos hok, hr]
  dsimp only
  refine ite_congr rfl (fun _ => rfl) fun _ => ite_congr rfl (fun _ => rfl) fun _ => ?_
  unfold descCons
  generalize s2.admission q (BitVec.ofNat 32 (bits (word bs 2) 63 32)) (word bs 1) w = a
  cases a <;> rfl

variable (hr : s.readZoned (takeSrc q) (descSlot bs) 64 = (s2, .data w false))
include hr

theorem takeSlot_stale (hs : slotStale bs w) : s.takeSlot q bs = s2.forget (takeSrc q) :=
  (takeSlot_whole hok hr).trans (if_pos (slotStale_iff.mp hs))

variable (hs : ¬slotStale bs w)
include hs

theorem takeSlot_nothing (hz : bits (word w 0) 3 0 = 0) :
    s.takeSlot q bs = (s2.tookSlot q bs).retireRecord (takeSrc q) q 0 (BitVec.ofNat 32 (descCons bs)) :=
  (takeSlot_whole hok hr).trans ((if_neg (mt slotStale_iff.mpr hs)).trans (if_pos (beq_iff_eq.mpr hz)))

theorem takeSlot_record (hz : bits (word w 0) 3 0 ≠ 0) :
    s.takeSlot q bs = admittedSlot q bs (s2.admission q (BitVec.ofNat 32 (descCons bs)) (word bs 1) w) :=
  (takeSlot_whole hok hr).trans ((if_neg (mt slotStale_iff.mpr hs)).trans (if_neg (mt beq_iff_eq.mp hz)))

end Slot

end Take

end Sys2Proof.Machine
end

section
/-! PROOFS. Held records become ready, age and are placed; a kernel's end (R272 to R288, O51). -/

namespace Sys2Proof.Machine

section Held
variable {s s1 : State} {k : Kernel} (hk : s.kernel k.id = some k)
include hk

/-! Readiness and ageing. -/

section Ready
variable (h0 : k.stage = 0)
include h0

theorem exec_recordReady_waits (hc : allCond k.conds s = .wait s1) : exec (.recordReady k.id) s = .next s1 := by
  unfold exec execRecordReady
  dsimp only
  rw [hk]
  refine congrArg (event s) ((if_neg (by rw [h0]; exact Bool.false_ne_true)).trans ?_ : _ = some _)
  rw [hc]

theorem exec_recordReady_tested {b : Bool} (hc : allCond k.conds s = .ok s1 b) :
    exec (.recordReady k.id) s = .next (if b then (s1.unhold k).setKernel { k with stage := 1 } else s1) := by
  unfold exec execRecordReady
  dsimp only
  rw [hk]
  refine congrArg (event s) ((if_neg (by rw [h0]; exact Bool.false_ne_true)).trans ?_ : _ = some _)
  rw [hc]

theorem exec_recordReady_fails {c : Nat} (hc : allCond k.conds s = .fail s1 c) :
    let u := (s1.unhold k).retireRecord k.src k.queue c k.index
    exec (.recordReady k.id) s = .next { u with d := { u.d with kernels := u.d.kernels.filter (fun x => x.id != k.id) } } := by
  intro u
  unfold exec execRecordReady
  dsimp only
  rw [hk]
  refine congrArg (event s) ((if_neg (by rw [h0]; exact Bool.false_ne_true)).trans ?_ : _ = some _)
  rw [hc]

end Ready

theorem exec_priorityAgeing (hs : k.stage < 2) (hb : k.sbound ≠ 0) (ha : k.age < 4) :
    exec (.priorityAgeing k.id) s = .next (s.setKernel { k with age := k.age + 1 }) := by
  unfold exec execPriorityAgeing
  dsimp only
  rw [hk]
  exact congrArg (event s) (if_pos (by simp [hs, hb, ha]))

/-! Placement. -/

section Place
variable (hw : s.waits k = true) (hs : k.isSaved = false) (ht : s.isTop k = true)
include hw hs ht

theorem exec_placement_preempts {u : State} (hK : isK k.typ = true) (hp : s.placeable k [] = false)
    (hu : s.preempt k (fun freed => s.placeable k freed) = some u) : exec (.placement k.id []) s = .next u := by
  unfold exec execPlacement
  dsimp only
  rw [hk]
  refine congrArg (event s) ((if_neg ?_).trans ((if_pos ?_).trans ((if_neg ?_).trans hu)) : _ = some _)
  · simp [hw, hs, ht]
  · simp [hK]
  · simp [hp]

/-- The record's turn: it is placed in part, or the next of its level; u is the machine once that is settled. -/
def State.turnsTo (s : State) (k : Kernel) (u : State) : Prop :=
  (k.stage = 2 ∧ u = s) ∨
  (k.stage ≠ 2 ∧ (∀ x ∈ s.d.kernels, x.stage = 2 → x.id ≠ k.id → x.eff = k.eff → s.placeable x [] = false) ∧
    ∃ tbl q, s.nextRecord k.eff = some (k, tbl, q) ∧ u = { s with d := { s.d with
      deficit := tput tbl (65536 * k.eff + q) ((tget tbl (65536 * k.eff + q)).getD 0 - k.cost), served := tput s.d.served k.eff q } })

/-- What a record whose turn has come does on the slots it is given. -/
def State.placeOn (s u : State) (k : Kernel) (slots : List Nat) : Option State :=
  if !isK k.typ then (if slots.isEmpty then some ((u.startUnits k).endTurn k) else none)
  else if slots.length % k.unit == 0 && k.taken + slots.length ≤ k.strands && (!k.gang || slots.length == k.strands) &&
      slots.all (fun n => s.fits k [] n) && k.shapeFits slots then some ((u.takeSlots k slots).endTurn k)
  else none

theorem exec_placement_turn {slots : List Nat} {u : State} (hg : (slots.isEmpty && isK k.typ) = false) (hu : s.turnsTo k u) :
    exec (.placement k.id slots) s = event s (s.placeOn u k slots) := by
  have hgo : ¬(!s.waits k || k.isSaved || !s.isTop k) = true := by simp [hw, hs, ht]
  unfold exec execPlacement
  dsimp only
  rw [hk]
  refine congrArg (event s) ((if_neg hgo).trans ((if_neg (Bool.eq_false_iff.mp hg)).trans ?_))
  rcases hu with ⟨h2, rfl⟩ | ⟨h2, hall, tbl, q, hn, rfl⟩
  · rw [if_pos (beq_iff_eq.mpr h2)]
    rfl
  · have hpart : ¬(s.d.kernels.any (fun x => x.stage == 2 && x.id != k.id && x.eff == k.eff && s.placeable x [])) = true := by
      rw [List.any_eq_true]
      rintro ⟨x, hx, hc⟩
      simp only [Bool.and_eq_true, beq_iff_eq, bne_iff_ne] at hc
      obtain ⟨⟨⟨hst, hid⟩, heff⟩, hpl⟩ := hc
      exact Bool.false_ne_true ((hall x hx hst hid heff).symm.trans hpl)
    rw [if_neg (mt beq_iff_eq.mp h2), if_neg hpart, hn]
    dsimp only
    rw [if_pos (beq_iff_eq.mpr rfl)]
    rfl

theorem exec_placement_strands {slots : List Nat} {u : State} (hu : s.turnsTo k u) (hK : isK k.typ = true) (hne : slots ≠ [])
    (hunit : slots.length % k.unit = 0) (htaken : k.taken + slots.length ≤ k.strands)
    (hgang : k.gang = true → slots.length = k.strands) (hfits : ∀ m ∈ slots, s.fits k [] m = true) (hshape : k.shapeFits slots = true) :
    exec (.placement k.id slots) s = .next ((u.takeSlots k slots).endTurn k) := by
  have hall : slots.all (fun n => s.fits k [] n) = true := List.all_eq_true.mpr hfits
  have hg : (!k.gang || slots.length == k.strands) = true := by
    cases hk : k.gang with
    | false => rfl
    | true => exact beq_iff_eq.mpr (hgang hk)
  rw [exec_placement_turn hk hw hs ht (by simp [hne]) hu, State.placeOn, hK, if_neg (by simp), if_pos]
  · rfl
  · rw [hall, hg, hshape, hunit, decide_eq_true htaken]
    rfl

theorem exec_placement_units {u : State} (hu : s.turnsTo k u) (hK : isK k.typ = false) :
    exec (.placement k.id []) s = .next ((u.startUnits k).endTurn k) := by
  rw [exec_placement_turn hk hw hs ht (by rw [hK]; rfl) hu, State.placeOn, hK]
  rfl

end Place

/-! The end of a kernel. -/

theorem exec_kernelEnd (h2 : 2 ≤ k.stage) (hp : s.pending k = false) (ha : s.accepted k = false)
    (hK : isK k.typ = true → (k.hostEnd = true ∨ k.taken = k.strands) ∧ k.ended.length = k.placed.length)
    (hN : isK k.typ = false → k.nmus = []) :
    let u := ((k.held.foldl (fun (x : State) c =>
      (x.clearAllot k c).modCore c (fun y => { y with rows := y.rows.filter (fun r => r.kernel != k.id) })) s).forget k.src).queueDone
        k.src k.queue
    exec (.kernelEnd k.id) s = .next { u with d := { u.d with kernels := u.d.kernels.filter (fun x => x.id != k.id) } } := by
  intro u
  have hdone : (if isK k.typ then (k.hostEnd || k.taken == k.strands) && k.ended.length == k.placed.length else k.nmus.isEmpty) = true := by
    split
    · rename_i h
      obtain ⟨h1, h2⟩ := hK h
      simpa [h2] using h1
    · rename_i h
      rw [hN (Bool.eq_false_iff.mpr h)]
      rfl
  unfold exec execKernelEnd
  dsimp only
  rw [hk]
  exact congrArg (event s) (if_neg (by simp only [hdone, hp, ha, Nat.not_lt.mpr h2]; simp))

/-! The grace period of an eviction. -/

/-- The strands of a kernel. -/
def State.strandsOf (s : State) (k : Kernel) : List Nat := k.placed.filter (fun m => (s.strand m).kernel == k.id)

theorem exec_gracePeriodExpiry (he : k.evict = .requested)
    (hr : ∀ m ∈ s.strandsOf k, (s.strand m).phase = .running → (s.strand m).entering = false ∧ (s.strand m).stepDue = none) :
    exec (.gracePeriodExpiry k.id) s =
      .next (((s.strandsOf k).foldl (fun (x : State) m => x.evictStrand k m) s).setKernel { k with evict := .forced }) := by
  have hany : ((s.strandsOf k).any fun n => (s.strand n).phase == .running && ((s.strand n).entering || (s.strand n).stepDue.isSome)) =
      false := by
    rw [List.any_eq_false]
    intro m hm hc
    rw [Bool.and_eq_true, beq_iff_eq] at hc
    obtain ⟨h1, h2⟩ := hr m hm hc.1
    rw [h1, h2] at hc
    exact Bool.false_ne_true hc.2
  unfold exec execGracePeriodExpiry
  dsimp only
  rw [hk]
  refine congrArg (event s) (if_neg ?_ : _ = some _)
  rw [State.strandsOf] at hany
  rw [he, hany]
  decide

end Held

end Sys2Proof.Machine
end

section
/-! PROOFS. Strands start and end, rows are loaded, kernels are saved and come back (R280 to R285, R455 to R461, O51). -/

namespace Sys2Proof.Machine

/-! Starts. -/

section Start
variable {s : State} {n : Nat} {k : Kernel}

/-- The placed strands that start with strand n. -/
def State.mates (s : State) (k : Kernel) (n : Nat) : List Nat :=
  if k.gang then k.placed.filter (fun m => dieOf (coreOf m) == dieOf (coreOf n) && (s.strand m).phase == .placed &&
    (s.strand m).kernel == k.id) else [n]

theorem exec_strandStart (hk : s.kernel k.id = some k) (ht : (s.strand n).kernel = k.id) (hp : (s.strand n).phase = .placed)
    (hr : s.rowsIn k (coreOf n) = true) (hg : k.gang = true → ∀ m ∈ k.placed, s.rowsIn k (coreOf m) = true) :
    exec (.strandStart n) s = .next ((s.mates k n).foldl (fun u m => u.start k m) s) := by
  have hall : (k.gang && !k.placed.all (fun m => s.rowsIn k (coreOf m))) = false := by
    cases hgang : k.gang with
    | false => rfl
    | true => rw [List.all_eq_true.mpr (hg hgang)]; rfl
  unfold exec execStrandStart
  dsimp only
  rw [ht, hk]
  refine congrArg (event s) ((if_neg (by rw [hp, hr, hall]; decide)).trans ?_ : _ = some _)
  unfold State.mates
  split <;> rfl

theorem strand_start_self : (s.start k n).strand n = k.fresh n (s.strand n).rank := State.strand_setStrand s n _

theorem strand_start_other {m : Nat} (h : m ≠ n) : (s.start k n).strand m = s.strand m := State.strand_setStrand_other s n m _ h

/-- The registers after arguments have been put into them, from a number up. -/
theorem vAt_putArgs (args : List Word) (v : Vector SReg 32) (b j : Nat) (hj : j < 32) :
    vAt ((args.zip (List.range' b args.length)).foldl (fun (v : Vector SReg 32) e => vSet v (e.2 + 1) { val := e.1, poison := false }) v) j =
      if b + 1 ≤ j ∧ j < b + 1 + args.length then { val := args.getD (j - 1 - b) 0, poison := false } else vAt v j := by
  induction args generalizing v b with
  | nil =>
    rw [if_neg (by simp)]
    rfl
  | cons a args ih =>
    rw [List.length_cons, List.range'_succ, List.zip_cons_cons, List.foldl_cons, ih]
    rcases Nat.lt_trichotomy j (b + 1) with h | h | h
    · rw [if_neg (by omega), if_neg (by omega), vAt_vSet_other _ _ _ _ (by omega)]
    · rw [if_neg (by omega), if_pos (by omega), h, vAt_vSet_self _ _ _ (by omega), Nat.add_sub_cancel, Nat.sub_self]
      rfl
    · rw [vAt_vSet_other _ _ _ _ (by omega)]
      refine ite_congr (propext (by omega)) (fun _ => ?_) fun _ => rfl
      rw [show j - 1 - b = j - 1 - (b + 1) + 1 by omega, List.getD_cons_succ]

theorem g_fresh (r j : Nat) (hj : j < 32) : vAt (k.fresh n r).r.g j =
    if 1 ≤ j ∧ j < 1 + k.args.length then { val := k.args.getD (j - 1) 0, poison := false } else vAt Regs.reset.g j := by
  unfold Kernel.fresh
  dsimp only
  rw [List.range_eq_range']
  exact (vAt_putArgs k.args _ 0 j hj).trans (by rw [Nat.zero_add, Nat.sub_zero])

theorem g_fresh_arg (r : Nat) {i : Nat} (hi : i < k.args.length) (h31 : i < 31) :
    vAt (k.fresh n r).r.g (i + 1) = { val := k.args.getD i 0, poison := false } := by
  rw [g_fresh r _ (by omega), if_pos (by omega), Nat.add_sub_cancel]

theorem g_fresh_rest (r : Nat) {i : Nat} (hi : k.args.length < i) (h32 : i < 32) :
    vAt (k.fresh n r).r.g i = { val := 0, poison := false } := by
  rw [g_fresh r _ h32, if_neg (by omega)]
  unfold vAt Regs.reset
  rw [dif_pos h32]
  exact Vector.getElem_replicate h32

end Start

/-! Ends. -/

section End
variable {s : State} {n : Nat} {k : Kernel}

theorem exec_strandEnd (ht : (s.strand n).kernel = k.id) (hp : (s.strand n).phase = .halted) (hf : (s.strand n).flights = [])
    (hc : (s.strand n).e.cmds = []) (he : (s.strand n).e.faults = [] ∨ (s.strand n).sys.priv = true) :
    let u := ((s.endRun n).quit n).modStrand n (fun t => t.ends)
    u.kernel k.id = some k → exec (.strandEnd n) s = .next (u.setKernel { k with ended := k.ended ++ [n], endNo := u.fresh }) := by
  intro u hu
  have hfault : (!((s.strand n).e.faults.isEmpty || (s.strand n).sys.priv)) = false := by
    rcases he with h | h <;> simp [h]
  unfold exec execStrandEnd
  dsimp only
  refine congrArg (event s) ((if_neg (by rw [hp, hf, hc, hfault]; decide)).trans ?_ : _ = some _)
  rw [ht, hu]

end End

/-! Rows of code. -/

section Rows
variable {s : State} {n row : Nat} {k : Kernel} (hn : n < numStrands) (hk : s.rowFor n row = some k)
include hn hk

theorem exec_rowLoad_part {r : Row} {f : Nat × Nat × BitVec 7 × Word}
    (hr : ((s.core (coreOf n)).rowsOf k.id).find? (fun r => r.n == row) = some r) (hf : r.fault.find? (fun f => f.2.2.1 == 0) = some f) :
    exec (.rowLoad n row) s = .next (s.loadPart n k row f) := by
  unfold exec execRowLoad
  dsimp only
  refine congrArg (event s) ((if_neg (Nat.not_le.mpr hn)).trans ?_ : _ = some _)
  rw [hk]
  dsimp only
  rw [hr]
  dsimp only
  rw [hf]
  rfl

theorem exec_rowLoad_reserved {x : Core} (hr : ((s.core (coreOf n)).rowsOf k.id).find? (fun r => r.n == row) = none)
    (hx : s.rowRoom (coreOf n) k row (((s.strand n).pc.toNat - k.codeBase.toNat) / 4096) = some x) :
    exec (.rowLoad n row) s = .next (s.modCore (coreOf n) (fun y => { y with rows := x.rows ++ [k.newRow row y.fetchNo] })) := by
  unfold exec execRowLoad
  dsimp only
  refine congrArg (event s) ((if_neg (Nat.not_le.mpr hn)).trans ?_ : _ = some _)
  rw [hk]
  dsimp only
  rw [hr]
  dsimp only
  rw [hx]
  rfl

end Rows

/-! Saving. -/

section Save
variable {s : State} {k : Kernel}

theorem none_settles (hset : ∀ m ∈ k.leftSlots, (s.strand m).mustSettle = false) : k.leftSlots.find? (fun n => (s.strand n).mustSettle) = none :=
  List.find?_eq_none.mpr fun m hm => by rw [hset m hm]; exact Bool.false_ne_true

theorem mem_setBitsOf {n m b : Nat} : b ∈ setBitsOf n m ↔ b < n ∧ m.testBit b = true := by
  rw [setBitsOf, List.mem_filter, List.mem_range]

/-- Nothing waits at the kernel's banks, and no message of its barriers is on its way. -/
theorem allot_quiet
    (hb : ∀ c ∈ k.cores, ∀ b, b < 32 → k.spmask.getLsbD b = true → ((s.core c).bank b).waking = none ∧ ((s.core c).bank b).drops = [])
    (hm : ∀ x ∈ s.bmsgs, x.pkg = 0xFFFF → x.core ∈ k.cores → k.barmask.getLsbD x.bar = false) :
    k.cores.all (fun c =>
      (setBitsOf 32 k.spmask.toNat).all (fun b => ((s.core c).bank b).waking.isNone && ((s.core c).bank b).drops.isEmpty) &&
      s.bmsgs.all (fun m => m.pkg != 0xFFFF || m.core != c || !k.barmask.getLsbD m.bar)) = true := by
  refine List.all_eq_true.mpr fun c hc => ?_
  rw [Bool.and_eq_true, List.all_eq_true, List.all_eq_true]
  constructor
  · intro b h
    obtain ⟨hlt, hbit⟩ := mem_setBitsOf.mp h
    obtain ⟨h1, h2⟩ := hb c hc b hlt hbit
    rw [h1, h2]
    rfl
  · intro x hx
    by_cases h1 : x.pkg = 0xFFFF
    · by_cases h2 : x.core = c
      · rw [hm x hx h1 (h2 ▸ hc), Bool.not_false, Bool.or_true]
      · simp [h2]
    · rw [bne_iff_ne.mpr h1]
      rfl

variable (hk : s.kernel k.id = some k)
include hk

theorem exec_save_settles {m : Nat} (hm : k.leftSlots.find? (fun n => (s.strand n).mustSettle) = some m) :
    exec (.saveImageWrite k.id) s = .next (s.setStrand m (s.strand m).settle) := by
  unfold exec execSaveImageWrite
  dsimp only
  rw [hk]
  dsimp only
  rw [hm]
  rfl

/-- A leaving strand at rest still holds its core's array. -/
def State.givesUp (s : State) (n : Nat) : Bool :=
  (s.strand n).leaving && (s.strand n).rests && (s.core (coreOf n)).holder == some (n % 2)

variable (hset : ∀ m ∈ k.leftSlots, (s.strand m).mustSettle = false)
include hset

theorem exec_save_gives {m : Nat} (hm : k.leftSlots.find? s.givesUp = some m) : exec (.saveImageWrite k.id) s = .next (s.endRun m) := by
  unfold exec execSaveImageWrite
  dsimp only
  rw [hk]
  dsimp only
  rw [none_settles hset]
  dsimp only
  unfold State.givesUp at hm
  rw [hm]
  rfl

theorem exec_save_sends {a : Nat} {u : State}
    (hl : ∀ m ∈ k.leftSlots, s.givesUp m = false ∧ (s.strand m).leaving = true ∧ (s.strand m).rests = true ∧ s.awaited m = false)
    (he : k.evict = .requested ∨ k.evict = .forced) (hne : k.leftSlots = [] → k.stage ≠ 3) (hacc : s.accepted k = false)
    (hb : ∀ c ∈ k.cores, ∀ b, b < 32 → k.spmask.getLsbD b = true → ((s.core c).bank b).waking = none ∧ ((s.core c).bank b).drops = [])
    (hm : ∀ x ∈ s.bmsgs, x.pkg = 0xFFFF → x.core ∈ k.cores → k.barmask.getLsbD x.bar = false)
    (ha : s.saveSpace (s.images k).length = some a) (hs : s.dispSpan true a (s.images k).length = true)
    (hu : s.putSegs k.src 0 (whole (s.images k)) [{ sp := .dram, pa := a, len := (s.images k).length, va := 0, off := 0 }] = some u) :
    exec (.saveImageWrite k.id) s = .next (s.saveAt k a (s.images k).length u) := by
  have hgives : k.leftSlots.find? s.givesUp = none :=
    List.find?_eq_none.mpr fun m hm => by rw [(hl m hm).1]; exact Bool.false_ne_true
  have hev : (k.evict == .requested || k.evict == .forced) = true := by rcases he with h | h <;> rw [h] <;> rfl
  have hst : (k.leftSlots.isEmpty && k.stage == 3) = false := by
    cases hx : k.leftSlots with
    | nil => exact beq_false_of_ne (hne hx)
    | cons => rfl
  have hrest : k.leftSlots.all (fun n => (s.strand n).leaving && (s.strand n).rests) = true :=
    List.all_eq_true.mpr fun m hm => by rw [(hl m hm).2.1, (hl m hm).2.2.1]; rfl
  have haw : k.leftSlots.any (fun n => s.awaited n) = false :=
    List.any_eq_false.mpr fun m hm => by rw [(hl m hm).2.2.2]; exact Bool.false_ne_true
  have hquiet := allot_quiet hb hm
  unfold exec execSaveImageWrite
  dsimp only
  rw [hk]
  dsimp only
  rw [none_settles hset]
  dsimp only
  unfold State.givesUp at hgives
  rw [hgives]
  refine congrArg (event s) ((if_neg ?_).trans ?_ : _ = some _)
  · rw [hst, hev, hrest, hquiet, haw, hacc]
    decide
  · rw [ha]
    dsimp only
    rw [if_neg (by rw [hs]; exact Bool.false_ne_true), hu]
    rfl

end Save

/-! Resumption. -/

section Resume
variable {s s1 : State} {k : Kernel} {a size : Nat} (hk : s.kernel k.id = some k) (he : k.evict = .saved a size)
  (hh : k.hostEnd = false) (ht : s.isTop k = true) (hi : ∀ m ∈ k.leftSlots, (s.strand m).phase = .idle)
  (hc : ∀ c ∈ k.cores, s.compatible k [] c = true) (hd : s.dispSpan false a size = true)
include hk he hh ht hi hc hd

/-- What reading the images comes to. -/
def State.resumed (k : Kernel) (r : State × Option (List (Byte × Bool))) : State :=
  match r.2 with
  | none => r.1
  | some bs =>
    if bs.any (fun b => b.2) then r.1.forget k.src
    else
      let q := ((r.1.forget k.src).setKernel { k with evict := .none, owed := [], steps := [] }).restoreStrands k k.leftSlots
        (bs.map (fun b => b.1))
      (q.1.restoreCores k k.cores q.2).rejoin k

theorem exec_kernelResume : exec (.kernelResume k.id) s =
    .next (State.resumed k (s.getSegs k.src 0 [{ sp := .dram, pa := a, len := size, va := 0, off := 0 }])) := by
  have hopen : (k.leftSlots.all (fun n => (s.strand n).phase == .idle || ([] : List Nat).contains (s.strand n).kernel) &&
      k.cores.all (fun c => s.compatible k [] c)) = true := by
    rw [Bool.and_eq_true, List.all_eq_true, List.all_eq_true]
    exact ⟨fun m hm => by rw [hi m hm]; rfl, hc⟩
  unfold exec execKernelResume
  dsimp only
  rw [hk]
  dsimp only
  rw [he]
  refine congrArg (event s) ((if_neg (by rw [hh, ht]; decide)).trans ((if_neg ?_).trans
    ((if_neg (by rw [hd]; exact Bool.false_ne_true)).trans ?_)) : _ = some _)
  · rw [hopen]
    exact Bool.false_ne_true
  · generalize s.getSegs k.src 0 [{ sp := .dram, pa := a, len := size, va := 0, off := 0 }] = r
    obtain ⟨v, _ | bs⟩ := r
    · rfl
    · exact (apply_ite some _ _ _).symm

theorem exec_resume_waits (hr : s.getSegs k.src 0 [{ sp := .dram, pa := a, len := size, va := 0, off := 0 }] = (s1, none)) :
    exec (.kernelResume k.id) s = .next s1 := by
  rw [exec_kernelResume hk he hh ht hi hc hd, hr]
  rfl

theorem exec_resume_poisoned {bs : List (Byte × Bool)}
    (hr : s.getSegs k.src 0 [{ sp := .dram, pa := a, len := size, va := 0, off := 0 }] = (s1, some bs)) (hb : ∃ b ∈ bs, b.2 = true) :
    exec (.kernelResume k.id) s = .next (s1.forget k.src) := by
  rw [exec_kernelResume hk he hh ht hi hc hd, hr]
  exact congrArg _ (if_pos (List.any_eq_true.mpr hb))

theorem exec_resume_restores {bs : List (Byte × Bool)}
    (hr : s.getSegs k.src 0 [{ sp := .dram, pa := a, len := size, va := 0, off := 0 }] = (s1, some bs)) (hb : ∀ b ∈ bs, b.2 = false) :
    let q := ((s1.forget k.src).setKernel { k with evict := .none, owed := [], steps := [] }).restoreStrands k k.leftSlots
      (bs.map (fun b => b.1))
    exec (.kernelResume k.id) s = .next ((q.1.restoreCores k k.cores q.2).rejoin k) := by
  intro q
  rw [exec_kernelResume hk he hh ht hi hc hd, hr]
  refine congrArg _ (if_neg ?_)
  rw [List.any_eq_true]
  rintro ⟨b, hm, h⟩
  exact Bool.false_ne_true ((hb b hm).symm.trans h)

end Resume

end Sys2Proof.Machine
end

section
/-! PROOFS. The events of the dispatcher together (O51). -/

namespace Sys2Proof.Machine

/-- Settles O51, an equation for each event. -/
theorem kernelEvents : Obligations.KernelEvents := by
  unfold Obligations.KernelEvents
  intro s s1 k n does t
  refine ⟨fun q bs w hq => ⟨fun hd => exec_queueTake_waits hq hd, fun hd => ?take⟩, fun hk => ⟨fun h0 => ?ready,
      fun hs hb ha => exec_priorityAgeing hk hs hb ha, fun hw hs ht => ?place, fun ht hp hr hg => ?start, fun ht hp hf hc he hu =>
        exec_strandEnd ht hp hf hc he hu, fun h2 hp ha hK hN => exec_kernelEnd hk h2 hp ha hK hN,
      fun he hr => exec_gracePeriodExpiry hk he hr, ⟨fun m hm => exec_save_settles hk hm, fun hset => ⟨fun m hm => exec_save_gives hk hset hm,
        fun a u hl he hne hacc hb hm ha hs hu => exec_save_sends hk hset hl he hne hacc hb hm ha hs hu⟩⟩,
      fun a size he hh ht hi hc hd => ⟨fun hr => exec_resume_waits hk he hh ht hi hc hd hr,
        fun bs hr => ⟨fun hb => exec_resume_poisoned hk he hh ht hi hc hd hr hb, fun hb => exec_resume_restores hk he hh ht hi hc hd hr hb⟩⟩⟩,
    fun row x hn hk => ⟨fun r f hr hf => exec_rowLoad_part hn hk hr hf, fun hr hx => exec_rowLoad_reserved hn hk hr hx⟩⟩
  case take =>
    have hx (u : State) (hu : s1.descRead q bs = u) : exec (.queueTake q) s = .next u := hu ▸ exec_queueTake_read hq hd
    refine ⟨fun h0 => hx _ (descRead_empty h0), fun h0 hok => ⟨fun hl => hx _ (descRead_illegal h0 hok hl),
      fun hl hb => hx _ (descRead_off h0 hok hl hb), fun hl hb hh => hx _ ((descRead_on h0 hok hl hb).trans (if_pos hh)),
      fun hl hb hh h4 => hx _ ((descRead_on h0 hok hl hb).trans ((if_neg (Nat.not_lt.mpr hh)).trans (if_pos h4))), fun hl hb hh h4 => ?_⟩⟩
    have ht (u : State) (hu : s1.takeSlot q bs = u) : exec (.queueTake q) s = .next u :=
      hx _ ((descRead_on h0 hok hl hb).trans ((if_neg (Nat.not_lt.mpr hh)).trans ((if_neg (Nat.not_le.mpr h4)).trans hu)))
    refine ⟨fun hslot => ht _ (takeSlot_denied hslot), fun hslot => ⟨fun s2 hr => ht _ (takeSlot_waits hslot hr),
      fun s2 hr => ht _ (takeSlot_poisoned hslot hr), fun s2 hr => ⟨fun hs => ht _ (takeSlot_stale hslot hr hs),
        fun hs hz => ht _ (takeSlot_nothing hslot hr hs hz), fun hs hz => ?_⟩⟩⟩
    have hrec := takeSlot_record hslot hr hs hz
    exact ⟨fun s3 ha => ht _ (hrec.trans (congrArg (admittedSlot q bs) ha)), fun s3 code ha => ht _ (hrec.trans (congrArg (admittedSlot q bs) ha)),
      fun s3 ha => ht _ (hrec.trans (congrArg (admittedSlot q bs) ha))⟩
  case ready =>
    exact ⟨fun hc => exec_recordReady_waits hk h0 hc, fun b hc => exec_recordReady_tested hk h0 hc, fun c hc => exec_recordReady_fails hk h0 hc⟩
  case place =>
    exact ⟨fun hK hp u hu => exec_placement_preempts hk hw hs ht hK hp hu, fun slots u hu =>
      ⟨fun hK hne hunit htaken hgang hfits hshape => exec_placement_strands hk hw hs ht hu hK hne hunit htaken hgang hfits hshape,
        fun hK => exec_placement_units hk hw hs ht hu hK⟩⟩
  case start =>
    exact ⟨exec_strandStart hk ht hp hr hg, strand_start_self, fun m hm => strand_start_other hm, rfl, rfl, rfl, rfl, rfl, rfl,
      fun i hi h31 => g_fresh_arg _ hi h31, fun i hi h32 => g_fresh_rest _ hi h32⟩

end Sys2Proof.Machine
end

section
/-! PROOFS. Writes of management registers, answers of the driver, windows of stopped strands (R410, R422, R444, R470, R471, O52). -/

namespace Sys2Proof.Machine

/-! Writes of the management space. -/

section Write
variable {s : State} {m : MgMaster} {off : Nat} {v : Word}

theorem exec_managementRegisterWrite : exec (.managementRegisterWrite m off v) s = event s (s.mgEvent m off v) := by
  unfold exec
  rfl

/-- A write of another than the service firmware: what it does, or that it is refused. -/
theorem mgEvent_takes {u : State} (hm : m ≠ .service) (hw : s.mgWrite m off v = some u) : s.mgEvent m off v = some u := by
  have hf : ¬(m == MgMaster.service) = true := mt beq_iff_eq.mp hm
  unfold State.mgEvent
  rw [if_neg (by rw [Bool.eq_false_iff.mpr hf]; exact Bool.false_ne_true)]
  dsimp only
  rw [if_neg hf, hw]

theorem mgEvent_refuses (hm : m ≠ .service) (hw : s.mgWrite m off v = none) : s.mgEvent m off v = some (s.report 470 off v.toNat) := by
  have hf : ¬(m == MgMaster.service) = true := mt beq_iff_eq.mp hm
  unfold State.mgEvent
  rw [if_neg (by rw [Bool.eq_false_iff.mpr hf]; exact Bool.false_ne_true)]
  dsimp only
  rw [if_neg hf, hw]

/-- A register of the space that has a word of its own. -/
theorem mgWrite_register (h160 : off ≠ 0x160) (ha : inArray off 0x6000 8 128 = false) (hz : inZones off = false) (ho : off < 0x100000) :
    s.mgWrite m off v = if s.mgTakes m off v then some ((s.setMgr off v).mgFollow off) else none := by
  have hwin : ¬(0x100000 ≤ off && off < 0x100000 + 0x1000 * 288) = true := by
    rw [Bool.and_eq_true, decide_eq_true_eq]
    exact fun h => Nat.not_le.mpr ho h.1
  unfold State.mgWrite
  rw [if_neg (mt beq_iff_eq.mp h160), if_neg (Bool.eq_false_iff.mp ha), if_neg hwin, if_neg (Bool.eq_false_iff.mp hz)]

theorem mg_mgFollow (s : State) (off : Nat) : (s.mgFollow off).mg = s.mg := by
  unfold State.mgFollow
  dsimp only
  split <;> split <;> rfl

theorem mgr_mgFollow (s : State) (off k : Nat) : (s.mgFollow off).mgr k = s.mgr k := by
  rw [State.mgr, State.mgr, mg_mgFollow]

theorem strands_mgFollow (s : State) (off : Nat) : (s.mgFollow off).strands = s.strands := by
  unfold State.mgFollow
  dsimp only
  split <;> split <;> rfl

theorem mg_report (s : State) (a b c : Nat) : (s.report a b c).mg = s.mg := (looks_report s a b c).field State.mg fun _ => rfl

/-! The zone table. -/

/-- An address of the zone table is none of a register before it in the order of the checks. -/
theorem bounds_of_inZones (hz : inZones off = true) : 0x5000 ≤ off ∧ off < 0x5100 := by
  unfold inZones inArray at hz
  simp only [Bool.and_eq_true, decide_eq_true_eq] at hz
  omega

theorem mgWrite_zones (hz : inZones off = true) : s.mgWrite m off v = s.zoneWrite m off v := by
  obtain ⟨hlo, hhi⟩ := bounds_of_inZones hz
  unfold State.mgWrite
  rw [if_neg (by rw [beq_iff_eq]; omega), if_neg ?_, if_neg ?_, if_pos hz]
  · rw [Bool.and_eq_true, decide_eq_true_eq]
    omega
  · unfold inArray
    rw [Bool.and_eq_true, Bool.and_eq_true, decide_eq_true_eq]
    omega

theorem zoneWrite_refused (h : m ≠ .monitor ∨ s.t.booted = true) : s.zoneWrite m off v = none := by
  unfold State.zoneWrite
  refine if_pos ?_
  rcases h with h | h
  · rw [bne_iff_ne.mpr h, Bool.true_or]
  · rw [h, Bool.or_true]

section Stage
variable (hb : s.t.booted = false)
include hb

theorem monitor_may : ¬(MgMaster.monitor != .monitor || s.t.booted) = true := by
  rw [hb]
  decide

theorem zoneWrite_stages (ho : off ≠ 0x50F8) :
    s.zoneWrite .monitor off v = some { s with t := { s.t with staged := tput s.t.staged off v, booted := false } } := by
  unfold State.zoneWrite
  rw [if_neg (monitor_may hb)]
  exact if_pos (bne_iff_ne.mpr ho)

theorem zoneWrite_boots (ho : off = 0x50F8) (hk : (s.putZones (tput s.t.staged off v)).zonesOk = true) :
    s.zoneWrite .monitor off v =
      some (({ s with t := { s.t with zones := tput s.t.staged off v, staged := [], booted := true } } : State).putZones
        (tput s.t.staged off v)) := by
  unfold State.zoneWrite
  rw [if_neg (monitor_may hb)]
  exact (if_neg (by rw [ho]; decide)).trans (if_pos hk)

theorem zoneWrite_breaks (ho : off = 0x50F8) (hk : (s.putZones (tput s.t.staged off v)).zonesOk = false) :
    s.zoneWrite .monitor off v =
      some ((({ s with t := { s.t with staged := [], booted := true } } : State).putZones s.t.zones).report 470 off v.toNat) := by
  unfold State.zoneWrite
  rw [if_neg (monitor_may hb)]
  exact (if_neg (by rw [ho]; decide)).trans (if_neg (Bool.eq_false_iff.mp hk))

end Stage

/-! Registers with an effect of their own. -/

theorem mgTakes_refresh (hw : wbit (s.mgr 0x1000) 1 = false) : s.mgTakes .host 0x1010 v = true := by
  unfold State.mgTakes
  simp [hw, inArray]

theorem exec_budgetRefresh (hw : wbit (s.mgr 0x1000) 1 = false) :
    exec (.budgetRefresh .host v) s = .next ((s.setMgr 0x1010 v).mgFollow 0x1010) := by
  have hx : s.mgWrite .host 0x1010 v = some ((s.setMgr 0x1010 v).mgFollow 0x1010) :=
    (mgWrite_register (by decide) (by decide) (by decide) (by decide)).trans (if_pos (mgTakes_refresh hw))
  unfold exec execBudgetRefresh
  dsimp only
  rw [mgEvent_takes (by decide) hx]
  rfl

theorem watchdog_mgFollow (s : State) : (s.mgFollow 0x1010).m.watchdog = false := by
  unfold State.mgFollow
  rfl

theorem exec_nabortWrite {u : Nat} (hu : u < 128) (hr : (s.nmu u).run.isSome = true) :
    exec (.nabortWrite .host u 1) s = .next (s.modNmu u (fun x => { x with abort := true })) := by
  have ha : inArray (0x6000 + 8 * u) 0x6000 8 128 = true := by
    unfold inArray
    simp only [Bool.and_eq_true, decide_eq_true_eq, beq_iff_eq]
    omega
  have hx : s.mgWrite .host (0x6000 + 8 * u) 1 = some (s.nabort u 1) := by
    unfold State.mgWrite
    rw [if_neg (by rw [beq_iff_eq]; omega), if_pos ha, if_pos (by decide), Nat.add_sub_cancel_left, Nat.mul_div_cancel_left u (by decide)]
  unfold exec execNabortWrite
  dsimp only
  rw [mgEvent_takes (by decide) hx, State.nabort, hr]
  rfl

end Write

/-! Answers. -/

section Answer
variable {s : State} {tag : Nat} {a : Ask}

theorem exec_answerWalk (idx : BitVec 32) (ha : s.openAsk 1 tag = some a) : exec (.answerWalk tag idx) s =
    .next { s.closeAsk a with walks := s.walks.map (fun (w : Walk) =>
      if w.id == a.tag then (if idx == 0xFFFFFFFF then { w with late := true } else { w with ans := some idx }) else w) } := by
  unfold exec execAnswerWalk
  dsimp only
  unfold State.answeredWalk
  rw [ha]
  rfl

theorem exec_answerWalk_none (idx : BitVec 32) (ha : s.openAsk 1 tag = none) : exec (.answerWalk tag idx) s = .next s := by
  unfold exec execAnswerWalk
  dsimp only
  unfold State.answeredWalk
  rw [ha]
  rfl

theorem exec_answerFill {f : Fill} {v : Word} (ha : s.openAsk 2 tag = some a)
    (hf : s.fills.find? (fun (f : Fill) => f.hostAsked && f.asid.setWidth 64 == a.a && f.gva == a.b.toNat) = some f) :
    exec (.answerFill tag v) s = .next ((s.closeAsk a).endFill f (if v = 0 then none else some 0x12)) := by
  unfold exec execAnswerFill
  dsimp only
  unfold State.answeredFill
  rw [ha]
  dsimp only
  rw [hf]
  simp only [beq_iff_eq]
  rfl

theorem exec_answerFlip (ha : s.openAsk 4 tag = some a) :
    exec (.answerFlip tag) s = .next ((s.closeAsk a).flipDown (a.bar / 128) (a.bar % 128) (a.b.setWidth 16)) := by
  unfold exec execAnswerFlip
  dsimp only
  unfold State.answeredFlip
  rw [ha]
  rfl

end Answer

/-! The window of a stopped strand. -/

section Window
variable {s : State} {n : Nat} {v : Word}

theorem onlyStrand_setStrand (s : State) (n : Nat) (t : Strand) : OnlyStrand n s (s.setStrand n t) :=
  ⟨rfl, fun k hk => State.strand_setStrand_other s n k t hk⟩

/-- A write of the driver in the window of strand n. -/
theorem exec_strandWindowWrite {off : Nat} {u : State} (hn : n < numStrands) (ho : off < 0x1000) (hw : s.window n off v = some u) :
    exec (.strandWindowWrite .host n off v) s = .next u := by
  have hnum : n < 288 := hn
  have hx : s.mgWrite .host (0x100000 + 0x1000 * n + off) v = some u := by
    unfold State.mgWrite
    rw [if_neg (by rw [beq_iff_eq]; omega), if_neg ?_, if_pos (by rw [Bool.and_eq_true, decide_eq_true_eq, decide_eq_true_eq]; omega),
      if_pos (by decide)]
    · rw [show (0x100000 + 0x1000 * n + off - 0x100000) / 0x1000 = n by omega, show (0x100000 + 0x1000 * n + off) % 0x1000 = off by omega,
        hw]
    · unfold inArray
      rw [Bool.and_eq_true, Bool.and_eq_true, decide_eq_true_eq, decide_eq_true_eq]
      omega
  unfold exec execStrandWindowWrite
  dsimp only
  rw [if_pos ho, mgEvent_takes (by decide) hx]
  rfl

variable (hn : n < numStrands) (hp : (s.strand n).phase = .hostStop)
include hn hp

theorem window_open {off : Nat} (h8 : off % 8 = 0) : ¬(numStrands ≤ n || (s.strand n).phase != .hostStop || off % 8 != 0) = true := by
  rw [hp, h8, decide_eq_false (Nat.not_le.mpr hn)]
  decide

theorem window_general {i : Nat} (hi : i < 32) : s.window n (0x200 + 8 * i) v =
    some (s.setStrand n ((s.strand n).setG i { val := v, poison := (vAt (s.strand n).r.g i).poison })) := by
  unfold State.window
  dsimp only
  rw [if_neg (window_open hn hp (by omega)), if_neg (by omega), if_pos (by omega), show (0x200 + 8 * i) / 8 - 0x40 = i by omega]

theorem window_system {r : Nat} (hr : r < 64) (ht : sysThere r = true) (h9 : r ≠ 0x009) (hb : (s.strand n).sysBad r v = false) :
    s.window n (8 * r) v = some (s.setStrand n ((s.strand n).writeSys r v)) := by
  unfold State.window
  dsimp only
  rw [if_neg (window_open hn hp (by omega)), if_pos (by omega), Nat.mul_div_cancel_left r (by decide), ht, hb, if_neg (by decide),
    if_neg (mt beq_iff_eq.mp h9)]

omit hn in
theorem exec_hostResume : exec (.hostResume n) s = .next (s.modStrand n (fun t => { t.returnFrom with phase := .running })) := by
  unfold exec execHostResume
  dsimp only
  rw [hp]
  rfl

end Window

end Sys2Proof.Machine
end

section
/-! PROOFS. The host ends a kernel (R445, O52). -/

namespace Sys2Proof.Machine

/-! What stops for a strand on the way leaves every strand as it is. -/

theorem strands_withdrawAll (s : State) (rs : List Req) : (s.withdrawAll rs).strands = s.strands :=
  (congrArg State.strands (offHomes_withdrawAll s rs) : (s.withdrawAll rs).offHomes.strands = s.offHomes.strands)

theorem strands_mveLost (s : State) (u : Nat) (v : Mve) : (s.mveLost u v).strands = s.strands :=
  foldl_keeps State.strands (fun s (e : Nat × Nat) =>
    (rfl : (({ s with fresh := s.fresh + e.2 } : State).modNmu u (fun m =>
      m.putBuf e.1 ((List.range e.2).map (fun i => Config.freeByte (s.fresh + i))) [])).strands = s.strands)) v.results s

theorem strands_clearUnit (s : State) (u : Nat) : (s.clearUnit u).strands = s.strands := by
  have hd (t : State) : (detached t u).strands = t.strands := rfl
  unfold State.clearUnit
  refine (strands_withdrawAll _ _).trans ((hd _).trans ?_)
  split
  · exact strands_mveLost s u _
  · rfl

/-- One unit's launches of strand n are forgotten. -/
def State.dropLaunch (n : Nat) (s : State) (u : Nat) : State :=
  let mine (l : NLaunch) : Bool := l.fromCmd.any (fun e => e.1 == n)
  let m := s.nmu u
  let s1 := if m.run.any mine then s.clearUnit u else s
  if m.queue.any mine || m.faults.any (fun f => mine f.1) then
    s1.modNmu u (fun x => { x with queue := x.queue.filter (fun l => !mine l), faults := x.faults.filter (fun f => !mine f.1) })
  else s1

theorem strands_dropLaunch (n : Nat) (s : State) (u : Nat) : (s.dropLaunch n u).strands = s.strands := by
  unfold State.dropLaunch
  dsimp only
  split <;> split
  · exact strands_clearUnit s u
  · rfl
  · exact strands_clearUnit s u
  · rfl

theorem strands_dropLaunches (s : State) (n : Nat) : (s.dropLaunches n).strands = s.strands :=
  foldl_keeps State.strands (strands_dropLaunch n) (List.range numNmus) s

theorem strands_endRun (s : State) (n : Nat) : (s.endRun n).strands = s.strands := by
  unfold State.endRun
  dsimp only
  split <;> rfl

/-! A strand stops for good. -/

/-- The strand of a kernel that the host has ended. -/
def Strand.ended (t : Strand) : Strand :=
  { t with
    phase := .halted, entering := false, wfeFrom := none, pend := [], stepDue := none, dlHit := false
    e := { t.e with cmds := [], faults := [], ports := Vector.replicate 8 Port.reset } }

theorem strands_endStrand (s : State) (n : Nat) : (s.endStrand n).strands = tput s.strands n (s.strand n).ended := by
  have hq (s : State) : ((s.withdraw n).quit n).strands = s.strands := rfl
  have h : ((((s.dropLaunches n).endRun n).withdraw n).quit n).strands = s.strands :=
    (hq _).trans ((strands_endRun _ n).trans (strands_dropLaunches s n))
  unfold State.endStrand
  generalize (((s.dropLaunches n).endRun n).withdraw n).quit n = u at h
  rw [State.strand, ← h]
  rfl

theorem strand_endStrand_self (s : State) (n : Nat) : (s.endStrand n).strand n = (s.strand n).ended := by
  rw [State.strand, strands_endStrand, tget_tput_self]
  rfl

theorem strand_endStrand_other (s : State) {n m : Nat} (h : m ≠ n) : (s.endStrand n).strand m = s.strand m := by
  rw [State.strand, strands_endStrand, tget_tput_other _ _ _ _ h]
  rfl

/-- A strand t once it has stopped: halted, with no command, its registers as they were. -/
def Stopped (t u : Strand) : Prop := u.phase = .halted ∧ u.e.cmds = [] ∧ u.r = t.r

/-- Of strands that stop, one that has stopped stays so. -/
theorem stopped_foldl {t : Strand} (m : Nat) (l : List Nat) :
    ∀ s : State, Stopped t (s.strand m) → Stopped t ((l.foldl State.endStrand s).strand m) := by
  induction l with
  | nil => exact fun _ h => h
  | cons n l ih =>
    intro s h
    rw [List.foldl_cons]
    refine ih _ ?_
    by_cases hn : m = n
    · rw [hn, strand_endStrand_self]
      exact ⟨rfl, rfl, hn ▸ h.2.2⟩
    · rw [strand_endStrand_other s hn]
      exact h

theorem stopped_of_mem {m : Nat} (l : List Nat) (hm : m ∈ l) : ∀ s : State, Stopped (s.strand m) ((l.foldl State.endStrand s).strand m) := by
  induction l with
  | nil => exact absurd hm List.not_mem_nil
  | cons n l ih =>
    intro s
    rw [List.foldl_cons]
    by_cases hn : m = n
    · subst hn
      refine stopped_foldl m l _ ?_
      rw [strand_endStrand_self]
      exact ⟨rfl, rfl, rfl⟩
    · have h := ih ((List.mem_cons.mp hm).resolve_left hn) (s.endStrand n)
      rw [strand_endStrand_other s hn] at h
      exact h

section HostEnd
variable {s : State} {k : Kernel} (hk : s.kernel k.id = some k) (hK : isK k.typ = true) (h2 : 2 ≤ k.stage) (hh : k.hostEnd = false)
include hk hK h2 hh

/-- The strands of a kernel that have not ended and still stand in their slots. -/
def State.leftStrands (s : State) (k : Kernel) : List Nat :=
  k.leftSlots.filter (fun n => (s.strand n).kernel == k.id && (s.strand n).phase != .idle)

theorem exec_hostEndKernel : exec (.hostEndKernel k.id) s =
    .next ((if k.isSaved then s else (s.leftStrands k).foldl State.endStrand s).setKernel { k with
      hostEnd := true, stage := 3, evict := if k.isSaved then k.evict else .none, owed := []
      placed := if k.isSaved then [] else k.placed, ended := if k.isSaved then [] else k.ended }) := by
  unfold exec execHostEndKernel
  dsimp only
  rw [hk]
  exact congrArg (event s) (if_neg (by rw [hK, hh, decide_eq_false (Nat.not_lt.mpr h2)]; decide))

theorem exec_hostEndKernel_saved (hs : k.isSaved = true) : exec (.hostEndKernel k.id) s =
    .next (s.setKernel { k with hostEnd := true, stage := 3, owed := [], placed := [], ended := [] }) := by
  rw [exec_hostEndKernel hk hK h2 hh]
  simp only [if_pos hs]

theorem hostEndKernel_stops (hs : k.isSaved = false) : ∃ u, exec (.hostEndKernel k.id) s = .next u ∧
    ∀ n ∈ k.leftSlots, (s.strand n).kernel = k.id → (s.strand n).phase ≠ .idle → Stopped (s.strand n) (u.strand n) := by
  refine ⟨_, exec_hostEndKernel hk hK h2 hh, fun n hn hkn hp => ?_⟩
  have hstrand (u : State) (x : Kernel) : (u.setKernel x).strand n = u.strand n := rfl
  rw [hstrand, if_neg (Bool.eq_false_iff.mp hs)]
  exact stopped_of_mem _ (List.mem_filter.mpr ⟨hn, by rw [hkn, bne_iff_ne.mpr hp, beq_self_eq_true]; rfl⟩) s

end HostEnd

end Sys2Proof.Machine
end

section
/-! PROOFS. Accesses of the host and of peers, failing ports, answers, the request ring (R468, R469, R471, R473, R474, O52). -/

namespace Sys2Proof.Machine

section Access
variable {s : State}

/-! The host port. -/

theorem exec_hostMemoryRead {pa len : Nat} (h0 : len ≠ 0) (hl : pa % 4096 + len ≤ 4096) :
    exec (.hostMemoryRead pa len) s = .next (s.outRead hostSrc hostPort pa len) := by
  unfold exec execHostMemoryRead
  dsimp only
  rw [if_neg (by rw [beq_false_of_ne h0, decide_eq_false (Nat.not_lt.mpr hl)]; decide)]
  rfl

theorem exec_hostMemoryWrite {pa : Nat} {data : List Byte} {poison : Bool} (h0 : data ≠ []) (hd : data.length ≤ 512)
    (hl : pa % 4096 + data.length ≤ 4096) :
    exec (.hostMemoryWrite pa data poison) s = .next (s.outWrite hostSrc hostPort pa data poison) := by
  unfold exec execHostMemoryWrite
  dsimp only
  rw [if_neg]
  · rfl
  · rw [List.isEmpty_eq_false_iff.mpr h0, decide_eq_false (Nat.not_lt.mpr hd), decide_eq_false (Nat.not_lt.mpr hl)]
    decide

theorem exec_hostAtomicop (op : PcieAtomic) (d : Bool) (pa : Nat) (a b : Word) :
    exec (.hostAtomicop op d pa a b) s = .next
      (let w := if d then 8 else 4
       let m (x : Word) : Nat := x.toNat % 2 ^ (8 * w)
       match op with
       | .fetchAdd => s.outAtomic hostSrc hostPort .add w pa (m a) 0 true
       | .swap => s.outAtomic hostSrc hostPort .xchg w pa (m a) 0 true
       | .cas => s.outAtomic hostSrc hostPort .cas w pa (m b) (m a) true) := by
  unfold exec
  cases op <;> rfl

/-- An atomic for a master, as O52 spells it. -/
theorem outAtomic_eq (src : Src) (m : Nat) (op : AtomOp) (w pa b c : Nat) (ret : Bool) : s.outAtomic src m op w pa b c ret =
    if pa % w = 0 ∧ s.dramOk m true pa = true then
      ({ s with
          gathers := if ret then s.gathers ++ [{ id := s.fresh, src := src, sp := .dram, pa := pa, len := w, need := 1, raw := [], bad := [] }]
            else s.gathers
          fresh := s.fresh + 1 } : State).send
        (mkReq src (.atom op (BitVec.ofNat 128 b) (BitVec.ofNat 128 c) ret) { sp := .dram, pa := pa, len := w, va := 0, off := 0 } 0 s.fresh)
    else if ret then s.respond src none else s.report 469 m pa := by
  unfold State.outAtomic
  simp only [Bool.and_eq_true, beq_iff_eq]

/-! Links. -/

/-- The sizes an atomic may have. -/
def atomSizes : AtomOp → List Nat
  | .fadd32 => [4]
  | .fadd64 => [8]
  | .cas => [4, 8, 16]
  | _ => [4, 8]

theorem mem_atomSizes {o : AtomOp} {w : Nat} (h : (w = 4 ∧ o ≠ .fadd64) ∨ (w = 8 ∧ o ≠ .fadd32) ∨ (w = 16 ∧ o = .cas)) :
    (atomSizes o).contains w = true := by
  rcases h with ⟨rfl, h⟩ | ⟨rfl, h⟩ | ⟨rfl, rfl⟩
  · cases o with
    | fadd64 => exact absurd rfl h
    | _ => rfl
  · cases o with
    | fadd32 => exact absurd rfl h
    | _ => rfl
  · rfl

section Link
variable {port : Nat} (hport : s.ports.getLsbD port = true)
include hport

theorem exec_link_write {pa : Nat} {data : List Byte} {poison : Bool} (h0 : data ≠ []) :
    exec (.linkRequest port (.write pa data poison)) s = .next (s.outWrite (linkSrc port) (linkPort port) pa data poison) := by
  unfold exec execLinkRequest
  dsimp only
  rw [hport, if_neg (by decide), List.isEmpty_eq_false_iff.mpr h0]
  rfl

theorem exec_link_read {pa len : Nat} (h0 : len ≠ 0) :
    exec (.linkRequest port (.read pa len)) s = .next (s.outRead (linkSrc port) (linkPort port) pa len) := by
  unfold exec execLinkRequest
  dsimp only
  rw [hport, if_neg (by decide), beq_false_of_ne h0]
  rfl

theorem exec_link_atomic {op w pa b c : Nat} {o : AtomOp} {ret : Bool} (ho : atomNo op = some o) (hw : (atomSizes o).contains w = true) :
    exec (.linkRequest port (.atomic op w pa b c ret)) s =
      .next (s.outAtomic (linkSrc port) (linkPort port) o w pa (b % 2 ^ (8 * w)) (c % 2 ^ (8 * w)) ret) := by
  unfold exec execLinkRequest
  dsimp only
  rw [hport, if_neg (by decide), ho]
  refine congrArg (event s) (if_neg ?_ : _ = some _)
  rw [(by cases o <;> exact hw : List.contains _ w = true)]
  exact Bool.false_ne_true

section Barrier
variable {core bar : Nat} {ph : BitVec 16} (hc : core < numCores) (hb : bar < 128)
include hc hb

omit hport in
theorem bar_there : ¬(numCores ≤ core || 128 ≤ bar) = true := by
  rw [decide_eq_false (Nat.not_le.mpr hc), decide_eq_false (Nat.not_le.mpr hb)]
  decide

theorem exec_link_flip : exec (.linkRequest port (.flip core bar ph)) s = .next (s.flipDown core bar ph) := by
  unfold exec execLinkRequest
  dsimp only
  rw [hport, if_neg (by decide), if_neg (bar_there hc hb)]
  rfl

theorem exec_link_arrive (child : Nat) : exec (.linkRequest port (.arrive core bar ph child)) s = .next { s with
    bmsgs := s.bmsgs ++ [{ flip := false, pkg := 0xFFFF, core := core, bar := bar, fromCore := remoteKid port, fromBar := child, ph := ph }] } := by
  unfold exec execLinkRequest
  dsimp only
  rw [hport, if_neg (by decide), if_neg (bar_there hc hb)]
  rfl

end Barrier

/-- A port fails over which nothing is on its way that no other can carry. -/
theorem exec_portFailure (h18 : port < 18) :
    let u := { s with ports := s.ports &&& ~~~BitVec.ofNat 18 (2 ^ port) }
    (∀ r ∈ s.net, r.sp = .peer → r.op.isOrder = true ∨ u.peerOk (bits r.pa 51 40) = true) →
    (∀ w ∈ s.waiters, w.sp = .peer → w.sat.isSome = true ∨ u.peerOk (bits w.pa 51 40) = true) →
    exec (.portFailure port) s = .next u := by
  intro u hn hw
  have hnet : s.net.filter (fun r => (r.sp == .peer && !u.peerOk (bits r.pa 51 40)) && !r.op.isOrder) = [] := by
    refine List.filter_eq_nil_iff.mpr fun r hr => ?_
    by_cases hp : r.sp = .peer
    · rcases hn r hr hp with h | h <;> simp [h]
    · simp [hp]
  have hwait : s.waiters.filter (fun w => (w.sp == .peer && !u.peerOk (bits w.pa 51 40)) && w.sat.isNone) = [] := by
    refine List.filter_eq_nil_iff.mpr fun w hm => ?_
    by_cases hp : w.sp = .peer
    · rcases hw w hm hp with h | h
      · rw [Option.isSome_iff_exists] at h
        obtain ⟨x, hx⟩ := h
        simp [hx]
      · simp [h]
    · simp [hp]
  unfold exec execPortFailure
  dsimp only
  rw [hport, if_neg (by rw [decide_eq_false (Nat.not_le.mpr h18)]; decide), hnet]
  dsimp only [List.foldl_nil]
  rw [hwait]
  rfl

end Link

/-! Answers to the outside. -/

section Answered
variable {x : Gather}

/-- A read with the answer to one of its parts. -/
def Gather.got (x : Gather) (off : Nat) (bs : List Byte) (bad : List Nat) : Gather :=
  { x with need := x.need - 1, raw := writeBytes x.raw off bs, bad := x.bad ++ bad.map (fun i => off + i) }

/-- Of reads of which one has a number, the one found by it. -/
theorem find_got {l : List Gather} (hx : x ∈ l) (hu : ∀ y ∈ l, y.id = x.id → y = x) (off : Nat) (bs : List Byte) (bad : List Nat)
    {p : Gather → Bool} (hp : p (x.got off bs bad) = true) (hid : ∀ y, p y = true → y.id = x.id) :
    (l.map (fun y => if y.id == x.id then y.got off bs bad else y)).find? p = some (x.got off bs bad) := by
  induction l with
  | nil => exact absurd hx List.not_mem_nil
  | cons y l ih =>
    rw [List.map_cons, List.find?_cons]
    by_cases hy : y.id = x.id
    · rw [hu y List.mem_cons_self hy, if_pos (beq_iff_eq.mpr rfl), hp]
    · rw [if_neg (mt beq_iff_eq.mp hy)]
      have hn : p y = false := Bool.eq_false_iff.mpr fun h => hy (hid y h)
      rw [hn]
      exact ih ((List.mem_cons.mp hx).resolve_left fun h => hy (congrArg Gather.id h.symm)) fun z hz => hu z (List.mem_cons_of_mem _ hz)

theorem filter_got (l : List Gather) (id off : Nat) (bs : List Byte) (bad : List Nat) :
    (l.map (fun y => if y.id == id then y.got off bs bad else y)).filter (fun y => y.id != id) = l.filter (fun y => y.id != id) := by
  induction l with
  | nil => rfl
  | cons y l ih =>
    rw [List.map_cons, List.filter_cons, List.filter_cons, ih]
    by_cases hy : y.id = id
    · rw [if_pos (beq_iff_eq.mpr hy), if_neg (by simp [Gather.got, hy]), if_neg (by simp [hy])]
    · rw [if_neg (mt beq_iff_eq.mp hy)]

/-- The last part of a read of the outside comes: it is answered. -/
theorem gathered_last {off : Nat} {bs : List Byte} {bad : List Nat} (hx : x ∈ s.gathers) (hu : ∀ y ∈ s.gathers, y.id = x.id → y = x)
    (h1 : x.need = 1) (ho : x.src.outside = true) :
    s.gathered x.id off bs bad = ({ s with gathers := s.gathers.filter (fun y => y.id != x.id) } : State).respond x.src
      (some (dense (writeBytes x.raw off bs) x.len, !(x.bad ++ bad.map (fun i => off + i)).isEmpty)) := by
  have hfind := find_got hx hu off bs bad (p := fun y => y.id == x.id && y.need == 0 && y.src.outside)
    (by simp [Gather.got, h1, ho]) (fun y hy => by simp only [Bool.and_eq_true, beq_iff_eq] at hy; exact hy.1.1)
  unfold Gather.got at hfind
  unfold State.gathered
  dsimp only
  rw [hfind]
  dsimp only
  exact congrArg (fun l => State.respond { s with gathers := l } x.src _) (filter_got s.gathers x.id off bs bad)

end Answered

/-! The request ring. -/

theorem exec_hostRequestMessage {a : Ask} (ha : s.nextAsk = some a) (hr : s.t.recovery = false) :
    let base := (s.mgr 0x140).toNat % 2 ^ 52
    let at' := base + 32 * ((s.mgr 0x150).toNat % 2 ^ (wbits (s.mgr 0x148) 5 0))
    base ≠ 0 → (s.mgr 0x150 - s.mgr 0x158).toNat < 2 ^ (wbits (s.mgr 0x148) 5 0) →
    (∃ i, i < 4 ∧ s.hostOk (278 + i) true at' 32 = true) →
    let u := (s.writeAt .host at' a.bytes false).setMgr 0x150 (s.mgr 0x150 + 1)
    exec .hostRequestMessage s = .next { u with msix := u.msix ||| 1, asks := sentAsk a u.asks } := by
  intro base at' hb hu ⟨i, hi, hk⟩ u
  have hany : (List.range 4).any (fun i => s.hostOk (278 + i) true at' 32) = true :=
    List.any_eq_true.mpr ⟨i, List.mem_range.mpr hi, hk⟩
  unfold exec execHostRequestMessage
  dsimp only
  rw [ha]
  refine congrArg (event s) (if_neg ?_ : _ = some _)
  rw [hr, beq_false_of_ne hb, decide_eq_false (Nat.not_le.mpr hu), hany]
  decide

end Access

end Sys2Proof.Machine
end

section
/-! PROOFS. What the host, the monitor, the firmware and the peers do, together (O52). -/

namespace Sys2Proof.Machine

theorem outside_linkSrc {port : Nat} (h : port < 18) : (linkSrc port).outside = true := by
  have ho : (linkSrc port).outside = (decide (278 ≤ 279 + port) && decide (279 + port < 300)) := rfl
  rw [ho, decide_eq_true (by omega), decide_eq_true (by omega)]
  rfl

theorem respond_link (s : State) {port : Nat} (bs : List Byte) (bad : Bool) :
    s.respond (linkSrc port) (some (bs, bad)) = { s with linkOut := s.linkOut ++ [(port, bs, bad)] } := by
  unfold State.respond linkSrc
  split
  · rename_i h
    have hp : 279 + port = 278 := Src.other.inj h
    omega
  · rename_i p _ h
    rw [← Src.other.inj h, Nat.add_sub_cancel_left]
    rfl
  · rename_i h
    exact absurd rfl (h _)

/-- Settles O52, an equation for each event. -/
theorem hostAndPeerEvents : Obligations.HostAndPeerEvents := by
  unfold Obligations.HostAndPeerEvents
  intro s m off v does
  have hdoes {u : State} (h : s.mgEvent m off v = some u) : does (.managementRegisterWrite m off v) u :=
    exec_managementRegisterWrite.trans (congrArg (event s) h)
  refine ⟨fun hm h160 ha hz ho => ⟨fun ht => ⟨?_, ?_, fun k hk => ?_⟩, fun ht => ⟨?_, mg_report s _ _ _⟩⟩,
    fun hz hm => ⟨fun h => ?_, fun hmon hb => ⟨fun ho => ?_, fun ho hk => ?_, fun ho hk => ?_⟩⟩, fun hm hw => ?budget,
    fun u hu hm hv hr => ?abort, fun tag idx a => ⟨fun ha => exec_answerWalk idx ha, fun f ha hf => exec_answerFill ha hf,
      fun ha => exec_answerFlip ha, fun ha => exec_answerWalk_none idx ha⟩, fun n hn hp => ⟨fun i _ hi => ?window,
      fun r hr ht h9 hb => ?system, ?resume⟩, fun k hk hK h2 hh => ⟨fun hs => exec_hostEndKernel_saved hk hK h2 hh hs,
      fun hs => hostEndKernel_stops hk hK h2 hh hs⟩, ?access, fun x bs bad hx hu h1 => ⟨fun hsrc => ?host, fun port h18 hsrc => ?link⟩,
    fun a ha hr hb hu hex => exec_hostRequestMessage ha hr hb hu hex⟩
  · exact hdoes (mgEvent_takes hm ((mgWrite_register h160 ha hz ho).trans (if_pos ht)))
  · exact (mgr_mgFollow _ _ _).trans (State.mgr_setMgr _ _ _)
  · exact (mgr_mgFollow _ _ _).trans (State.mgr_setMgr_other _ _ _ _ hk)
  · exact hdoes (mgEvent_refuses hm ((mgWrite_register h160 ha hz ho).trans (if_neg (Bool.eq_false_iff.mp ht))))
  · exact hdoes (mgEvent_refuses hm ((mgWrite_zones hz).trans (zoneWrite_refused h)))
  · subst hmon
    exact hdoes (mgEvent_takes hm ((mgWrite_zones hz).trans (zoneWrite_stages hb ho)))
  · subst hmon
    exact hdoes (mgEvent_takes hm ((mgWrite_zones hz).trans (zoneWrite_boots hb ho hk)))
  · subst hmon
    exact hdoes (mgEvent_takes hm ((mgWrite_zones hz).trans (zoneWrite_breaks hb ho hk)))
  case budget =>
    subst hm
    exact ⟨_, exec_budgetRefresh hw, watchdog_mgFollow _, (mgr_mgFollow _ _ _).trans (State.mgr_setMgr _ _ _), strands_mgFollow _ _⟩
  case abort =>
    subst hm hv
    exact exec_nabortWrite hu hr
  case window =>
    exact ⟨_, exec_strandWindowWrite hn (by omega) (window_general hn hp hi), onlyStrand_setStrand s n _, State.strand_setStrand s n _⟩
  case system => exact exec_strandWindowWrite hn (by omega) (window_system hn hp hr ht h9 hb)
  case resume => exact ⟨_, exec_hostResume hp, onlyStrand_setStrand s n _, State.strand_modStrand s n _⟩
  case access =>
    refine ⟨fun pa len h0 hl => exec_hostMemoryRead h0 hl, fun pa data poison h0 hd hl => exec_hostMemoryWrite h0 hd hl,
      fun d pa a b => ⟨?_, ?_, ?_⟩, fun port h18 hport => ⟨fun pa data poison h0 => exec_link_write hport h0,
        fun pa len h0 => exec_link_read hport h0, fun op o w pa b c ret ho hw => ?_, fun core bar ph hc hb =>
        ⟨exec_link_flip hport hc hb, fun child => exec_link_arrive hport hc hb child⟩,
        fun hn hw => exec_portFailure hport h18 hn hw⟩⟩
    · exact (exec_hostAtomicop .fetchAdd d pa a b).trans (congrArg _ (outAtomic_eq _ _ _ _ _ _ _ _))
    · exact (exec_hostAtomicop .swap d pa a b).trans (congrArg _ (outAtomic_eq _ _ _ _ _ _ _ _))
    · exact (exec_hostAtomicop .cas d pa a b).trans (congrArg _ (outAtomic_eq _ _ _ _ _ _ _ _))
    · exact (exec_link_atomic hport ho (mem_atomSizes hw)).trans (congrArg _ (outAtomic_eq _ _ _ _ _ _ _ _))
  case host =>
    have hg := gathered_last (off := off) (bs := bs) (bad := bad) hx hu h1 (by rw [hsrc]; rfl)
    rw [hsrc] at hg
    exact hg
  case link =>
    have hg := gathered_last (off := off) (bs := bs) (bad := bad) hx hu h1 (by rw [hsrc]; exact outside_linkSrc h18)
    rw [hsrc] at hg
    exact hg.trans (respond_link _ _ _)

end Sys2Proof.Machine
end

section
/-! PROOFS. Events of the device: power, reset, firmware, attestation (R420, R477, R480 to R482, O53). -/

namespace Sys2Proof.Machine

section Device
variable (s : State)

/-! Power. -/

section Power
variable {die k : Nat}

theorem exec_droop (hd : die < 2) :
    exec (.droop die) s = .next { s with t := { s.t with droop := s.t.droop ||| BitVec.ofNat 2 (2 ^ die) } } := by
  unfold exec execDroop
  dsimp only
  rw [if_pos hd]
  rfl

theorem exec_currentLimit (hd : die < 2) :
    exec (.currentLimit die) s = .next { s with t := { s.t with current := s.t.current ||| BitVec.ofNat 2 (2 ^ die) } } := by
  unfold exec execCurrentLimit
  dsimp only
  rw [if_pos hd]
  rfl

theorem exec_railRecovery (hd : die < 2) :
    let b : BitVec 2 := BitVec.ofNat 2 (2 ^ die)
    exec (.railRecovery die) s = .next { s with t := { s.t with droop := s.t.droop &&& ~~~b, current := s.t.current &&& ~~~b } } := by
  intro b
  unfold exec execRailRecovery
  dsimp only
  rw [if_pos hd]
  rfl

theorem exec_stackHot (hk : k < 8) : exec (.stackHot k) s =
    .next { s with m := { s.m with hot := s.m.hot ||| BitVec.ofNat 8 (2 ^ k) }, msix := s.msix ||| 4 } := by
  unfold exec execStackHot
  dsimp only
  rw [if_pos hk]
  rfl

theorem exec_hotStateEnd (hk : k < 8) : exec (.hotStateEnd k) s =
    .next { s with m := { s.m with hot := s.m.hot &&& ~~~BitVec.ofNat 8 (2 ^ k) } } := by
  unfold exec execHotStateEnd
  dsimp only
  rw [if_pos hk]
  rfl

end Power

/-! Rails off and reset. -/

/-- The part after the rails went off. -/
def State.tripped (s : State) (c : BitVec 4) : State := { s.afresh with t := { s.afresh.t with tripped := some c, zones := [] } }

theorem exec_thermalTrip (c : BitVec 4) : exec (.thermalTrip c) s = .next (s.tripped c) := by
  unfold exec
  rfl

/-- With the rails off nothing acts but a reset. -/
theorem makeMove_tripped {u : State} {c : BitVec 4} (h : u.t.tripped = some c) {x : Move} (hx : x ≠ .event .deviceReset) :
    makeMove x u = .next u := by
  unfold makeMove
  exact if_pos (by rw [h, bne_iff_ne.mpr hx]; rfl)

/-- The part after a reset, before `mg.status` tells of a trip. -/
def State.broughtUp (s : State) : State :=
  { s.afresh with
    m := { s.afresh.m with retired := s.m.retired }
    t := { s.afresh.t with monitor := s.afresh.t.monitorNext.getD s.afresh.t.monitor, monitorNext := none } }

theorem exec_deviceReset : exec .deviceReset s = .next (match s.t.tripped with
    | some c => s.broughtUp.setMgr 8 (BitVec.ofNat 64 (3 + 16 * c.toNat))
    | none => s.broughtUp) := by
  unfold exec execDeviceReset
  rfl

/-! Firmware. -/

theorem exec_firmwareUpdate (a : Nat) : exec (.firmwareUpdate a) s = .next (match Config.imageVersion a s.dram with
    | none => s
    | some (monitor, v) =>
      if v < s.t.fused then s
      else if monitor then { s with t := { s.t with monitorNext := some v, fused := v } }
      else { s with t := { s.t with version := v, fused := v, starting := true, recovery := false } }) := by
  unfold exec execFirmwareUpdate
  dsimp only
  cases Config.imageVersion a s.dram with
  | none => rfl
  | some e =>
    dsimp only
    split
    · rfl
    · split <;> rfl

theorem exec_firmwareReadyTimeout (h : s.t.starting = true) :
    exec .firmwareReadyTimeout s = .next { s with t := { s.t with starting := false, recovery := true } } := by
  unfold exec execFirmwareReadyTimeout
  dsimp only
  rw [if_pos h]
  rfl

end Device

/-- Settles O53, an equation for each event. -/
theorem deviceEvents : Obligations.DeviceEvents := by
  unfold Obligations.DeviceEvents
  intro s does lost
  refine ⟨fun die hd => ⟨exec_droop s hd, exec_currentLimit s hd, exec_railRecovery s hd⟩,
    fun k hk => ⟨exec_stackHot s hk, exec_hotStateEnd s hk⟩,
    fun c => ⟨_, exec_thermalTrip s c, ⟨rfl, rfl, rfl, rfl, rfl, rfl, rfl, rfl, rfl, rfl, rfl, rfl, rfl⟩, rfl, rfl,
      fun x hx => makeMove_tripped rfl hx⟩,
    ⟨_, exec_deviceReset s, ?reset⟩, exec_firmwareUpdate s, exec_firmwareReadyTimeout s, ?spdm⟩
  case reset =>
    cases s.t.tripped with
    | none =>
      exact ⟨⟨rfl, rfl, rfl, rfl, rfl, rfl, rfl, rfl, rfl, rfl, rfl, rfl, rfl⟩, rfl, rfl, rfl, rfl, rfl, fun _ => rfl, fun _ h => nomatch h⟩
    | some c =>
      refine ⟨⟨rfl, rfl, rfl, rfl, rfl, rfl, rfl, rfl, rfl, rfl, rfl, rfl, rfl⟩, rfl, rfl, rfl, rfl, rfl, fun h => (nomatch h), fun c' h => ?_⟩
      cases h
      exact State.mgr_setMgr _ _ _
  case spdm =>
    refine ⟨?_, ?_, ?_, ?_, ?_, ?_, ?_⟩
    all_goals
      change exec _ s = _
      unfold exec
      rfl

end Sys2Proof.Machine
end

section
/-! PROOFS. What it means that an outcome keeps every memory in its canonical form, for each kind of answer that a function of the model
gives: a state, a state beside what was read, a result of an issue, an event's state where it is enabled, a step's outcome. -/

namespace Sys2Proof.Machine

/-- The state a result goes on with has its memories in canonical form. -/
def resOk : Res → Prop
  | .ok t | .hold t | .trap t _ => t.memOk

/-- So has the state of an event, where there is one. -/
def optOk : Option State → Prop
  | some t => t.memOk
  | none => True

/-- So has the next state of an outcome. -/
def outOk : Host.Outcome State Fault Refusal → Prop
  | .next t => t.memOk
  | _ => True

/-- So has the state that a near-memory word's result goes on with. -/
def nmOk : NmRes → Prop
  | .go t _ _ | .hold t | .stop t _ _ _ | .stopMve t | .fin t => t.memOk

/-- So has the state behind what a copy has read of its source. -/
def sourceOk : Source → Prop
  | .wait t | .stop t _ _ _ | .ok t _ _ => t.memOk

/-- So has the state behind a product's weights. -/
def weightsOk : Weights → Prop
  | .ok t _ | .wait t | .stop t _ _ => t.memOk

/-- So has the state behind what the dispatcher has found. -/
def dispOk {α : Type} : Disp α → Prop
  | .wait t | .fail t _ | .ok t _ => t.memOk

/-- So has the state of an edit of the directory, where the edit has begun. -/
def editedOk : Edited → Prop
  | .status _ => True
  | .wait t | .poison t | .done t => t.memOk

section Cases
variable {s t : State} {α : Type}

/-- From an answer to the state in it. -/
theorem memOk_of {β : Type} {P : β → Prop} {a b : β} (e : a = b) (ha : P a) (hb : P b = t.memOk) : t.memOk := by
  subst e
  exact hb ▸ ha

/-- The memories are all that counts: what writes other fields keeps the form. -/
theorem memOk_with
    {sched turn cur unit fresh strands cores nmus net gathers waiters walks fills wants denials shoots rtabs moves bmsgs
      asks d m mg acl hans tr ports msix hostOut linkOut log}
    (h : s.memOk) :
    ({ s with
        sched, turn, cur, unit, fresh, strands, cores, nmus, net, gathers, waiters, walks, fills, wants, denials, shoots, rtabs, moves,
        bmsgs, asks, d, m, mg, acl, hans, t := tr, ports, msix, hostOut, linkOut, log } : State).memOk :=
  h

/-! A choice keeps what both sides keep. -/

variable {c : Prop} [Decidable c]

theorem memOk_ite (hs : s.memOk) (ht : t.memOk) : (if c then s else t).memOk := by
  split
  · exact hs
  · exact ht

theorem resOk_ite {q r : Res} (hq : resOk q) (hr : resOk r) : resOk (if c then q else r) := by
  split
  · exact hq
  · exact hr

theorem optOk_ite {q r : Option State} (hq : optOk q) (hr : optOk r) : optOk (if c then q else r) := by
  split
  · exact hq
  · exact hr

theorem outOk_ite {q r : Host.Outcome State Fault Refusal} (hq : outOk q) (hr : outOk r) : outOk (if c then q else r) := by
  split
  · exact hq
  · exact hr

theorem memOk_ite_fst {q r : State × α} (hq : q.1.memOk) (hr : r.1.memOk) : (if c then q else r).1.memOk := by
  split
  · exact hq
  · exact hr

theorem nmOk_ite {q r : NmRes} (hq : nmOk q) (hr : nmOk r) : nmOk (if c then q else r) := by
  split
  · exact hq
  · exact hr

theorem sourceOk_ite {q r : Source} (hq : sourceOk q) (hr : sourceOk r) : sourceOk (if c then q else r) := by
  split
  · exact hq
  · exact hr

theorem weightsOk_ite {q r : Weights} (hq : weightsOk q) (hr : weightsOk r) : weightsOk (if c then q else r) := by
  split
  · exact hq
  · exact hr

theorem dispOk_ite {q r : Disp α} (hq : dispOk q) (hr : dispOk r) : dispOk (if c then q else r) := by
  split
  · exact hq
  · exact hr

theorem editedOk_ite {q r : Edited} (hq : editedOk q) (hr : editedOk r) : editedOk (if c then q else r) := by
  split
  · exact hq
  · exact hr

theorem optOk_map {f : α → State} {o : Option α} (hf : ∀ a, (f a).memOk) : optOk (o.map f) := by
  cases o with
  | none => trivial
  | some a => exact hf a

theorem optOk_map_state {f : State → State} {o : Option State} (h : optOk o) (hf : ∀ t, t.memOk → (f t).memOk) :
    optOk (o.map f) := by
  cases o with
  | none => trivial
  | some t => exact hf t h

/-! A fold keeps what each of its steps keeps. -/

theorem memOk_foldl {f : State → α → State} {l : List α} (h : s.memOk) (hf : ∀ t, t.memOk → ∀ a, (f t a).memOk) :
    (l.foldl f s).memOk := by
  induction l generalizing s with
  | nil => exact h
  | cons a l ih => exact ih (hf s h a)

theorem memOk_foldl_fst {β : Type} {f : State × β → α → State × β} {l : List α} {p : State × β} (h : p.1.memOk)
    (hf : ∀ q, q.1.memOk → ∀ a, (f q a).1.memOk) : (l.foldl f p).1.memOk := by
  induction l generalizing p with
  | nil => exact h
  | cons a l ih => exact ih (hf p h a)

end Cases

end Sys2Proof.Machine
end

section
/-! PROOFS. Every operation on the state keeps every memory in its canonical form: the accessors, the reads and writes of memory, the
operations on a strand, trap entry, requests and their homes. -/

namespace Sys2Proof.Machine

section Keeps
variable {s : State}

/-! Tables, memory and the pieces of State. -/

theorem memOk_setStrand {n : Nat} {t : Strand} (h : s.memOk) : (s.setStrand n t).memOk :=
  h

theorem memOk_setCore {c : Nat} {x : Core} (h : s.memOk) : (s.setCore c x).memOk :=
  h

theorem memOk_setNmu {u : Nat} {x : Nmu} (h : s.memOk) : (s.setNmu u x).memOk :=
  h

theorem memOk_modStrand {n : Nat} {f : Strand → Strand} (h : s.memOk) : (s.modStrand n f).memOk :=
  memOk_setStrand h

theorem memOk_modCore {c : Nat} {f : Core → Core} (h : s.memOk) : (s.modCore c f).memOk :=
  memOk_setCore h

theorem memOk_modNmu {u : Nat} {f : Nmu → Nmu} (h : s.memOk) : (s.modNmu u f).memOk :=
  memOk_setNmu h

theorem memOk_setMe {t : Strand} (h : s.memOk) : (s.setMe t).memOk :=
  memOk_setStrand h

theorem memOk_setKernel {k : Kernel} (h : s.memOk) : (s.setKernel k).memOk :=
  h

theorem memOk_setMgr {off : Nat} {v : Word} (h : s.memOk) : (s.setMgr off v).memOk :=
  h

/-! The homes of memory. -/

theorem memOk_tellDriver {src detail addr : Word} (h : s.memOk) : (s.tellDriver src detail addr).memOk :=
  (looks_tellDriver _ _ _ _).memOk h

theorem memOk_report {src detail addr : Nat} (h : s.memOk) : (s.report src detail addr).memOk :=
  (looks_report _ _ _ _).memOk h

theorem memOk_clearFlips {line : Nat} (h : s.memOk) : (s.clearFlips line).memOk :=
  h

theorem memOk_setCarried {line : Nat} {on : Bool} (h : s.memOk) : (s.setCarried line on).memOk :=
  (looks_setCarried _ _ _).memOk h

theorem memOk_takeBits {line : Nat} (h : s.memOk) : (s.takeBits line).memOk := by
  obtain ⟨hd, hrest⟩ := h
  exact ⟨(corrects_takeBits s line).dramOk hd, hrest⟩

theorem memOk_readLine {line : Nat} (h : s.memOk) : (s.readLine line).1.memOk :=
  (looks_readLine _ _).memOk h

theorem memOk_readDram {pa n : Nat} (h : s.memOk) : (s.readDram pa n).1.memOk :=
  (looks_readDram _ _ _).memOk h

theorem memOk_writeDram {pa : Nat} {bs : List Byte} {poison : Bool} (h : s.memOk) : (s.writeDram pa bs poison).memOk := by
  have hl : ((linesOf pa bs.length).foldl (fun (s : State) l =>
      if pa ≤ 64 * l && 64 * l + 64 ≤ pa + bs.length then (s.clearFlips l).setCarried l poison
      else if poison then (s.readLine l).1.setCarried l true else (s.readLine l).1) s).memOk :=
    memOk_foldl h fun _ ht _ =>
      memOk_ite (memOk_setCarried (memOk_clearFlips ht)) (memOk_ite (memOk_setCarried (memOk_readLine ht)) (memOk_readLine ht))
  obtain ⟨hd, hrest⟩ := hl
  exact ⟨wf_writeBytes _ _ hd, hrest⟩

theorem memOk_writeChip {o : Nat} {bs : List Byte} (h : s.memOk) : (s.writeChip o bs).memOk := by
  obtain ⟨hd, hc, hout⟩ := h
  have hw : ({ s with chip := writeBytes s.chip o bs } : State).memOk := ⟨hd, wf_writeBytes _ _ hc, hout⟩
  unfold State.writeChip
  dsimp only
  split
  · exact memOk_modCore hw
  · exact hw

theorem memOk_readAt {sp : Space} {pa n : Nat} (h : s.memOk) : (s.readAt sp pa n).1.memOk :=
  (looks_readAt _ _ _ _).memOk h

theorem memOk_putAt {sp : Space} {pa : Nat} {bs : List Byte} {poison : Bool} (h : s.memOk) : (s.putAt sp pa bs poison).memOk := by
  unfold State.putAt
  split
  · exact memOk_writeDram h
  · exact memOk_writeChip h
  · obtain ⟨hd, hc, hh, hp⟩ := h
    exact ⟨hd, hc, wf_writeBytes _ _ hh, hp⟩
  · obtain ⟨hd, hc, hh, hp⟩ := h
    exact ⟨hd, hc, hh, wf_writeBytes _ _ hp⟩
  · exact h

theorem memOk_retest {sp : Space} {pa n : Nat} (h : s.memOk) : (s.retest sp pa n).memOk :=
  memOk_ite h h

theorem memOk_writeAt {sp : Space} {pa : Nat} {bs : List Byte} {poison : Bool} (h : s.memOk) : (s.writeAt sp pa bs poison).memOk :=
  memOk_retest (memOk_putAt h)

theorem memOk_setReq {r : Req} (h : s.memOk) : (s.setReq r).memOk :=
  h

theorem memOk_dropReq {id : Nat} (h : s.memOk) : (s.dropReq id).memOk :=
  h

theorem memOk_send {r : Req} (h : s.memOk) : (s.send r).memOk :=
  (looks_send _ _).memOk h

theorem memOk_publish {src : Src} {no : Nat} (h : s.memOk) : (s.publish src no).memOk :=
  h

/-! Reads and requests of any source. -/

theorem memOk_sendAll {rs : List Req} (h : s.memOk) : (s.sendAll rs).memOk :=
  (looks_sendAll _ _).memOk h

theorem memOk_getAt {src : Src} {asid : BitVec 16} {g : Seg} (h : s.memOk) : (s.getAt src asid g).1.memOk :=
  (looks_getAt _ _ _ _).memOk h

theorem memOk_getSegs {src : Src} {asid : BitVec 16} {gs : List Seg} (h : s.memOk) : (s.getSegs src asid gs).1.memOk :=
  (looks_getSegs _ _ _ _).memOk h

theorem memOk_respond {src : Src} {c : Option (List Byte × Bool)} (h : s.memOk) : (s.respond src c).memOk := by
  unfold State.respond
  split <;> exact h

theorem memOk_gathered {id off : Nat} {bs : List Byte} {bad : List Nat} (h : s.memOk) : (s.gathered id off bs bad).memOk := by
  unfold State.gathered
  dsimp only
  split
  · exact memOk_respond h
  · exact h

theorem memOk_forget {src : Src} (h : s.memOk) : (s.forget src).memOk :=
  (looks_forget _ _).memOk h

theorem memOk_readZoned {src : Src} {pa n : Nat} (h : s.memOk) : (s.readZoned src pa n).1.memOk :=
  (looks_readZoned _ _ _ _).memOk h

/-! From a generic address to its homes. -/

theorem memOk_dirEntry {src : Src} {asid : BitVec 16} (h : s.memOk) : (s.dirEntry src asid).1.memOk :=
  (looks_dirEntry _ _ _).memOk h

theorem memOk_readRec {src : Src} {e : DirEntry} {i : Nat} (h : s.memOk) : (s.readRec src e i).1.memOk :=
  (looks_readRec _ _ _ _).memOk h

theorem memOk_acceptRec {src : Src} {e : DirEntry} {i va : Nat} (h : s.memOk) : (s.acceptRec src e i va).1.memOk :=
  (looks_acceptRec _ _ _ _ _).memOk h

theorem memOk_walk {src : Src} {asid : BitVec 16} {va : Nat} (h : s.memOk) : (s.walk src asid va).1.memOk :=
  (looks_walk _ _ _ _).memOk h

theorem memOk_setRtab {p : Party} {t : List RtEntry} (h : s.memOk) : (s.setRtab p t).memOk :=
  (looks_setRtab _ _ _).memOk h

theorem memOk_mapBit {p : Party} {r : RangeRec} {g : Nat} (h : s.memOk) : (s.mapBit p r g).1.memOk :=
  (looks_mapBit _ _ _ _).memOk h

theorem memOk_askFill {src : Src} {asid : BitVec 16} {gva : Nat} {rgfill : Option Nat} (h : s.memOk) :
    (s.askFill src asid gva rgfill).memOk :=
  (looks_askFill _ _ _ _ _).memOk h

theorem memOk_deny {srcs : List Src} {asid : BitVec 16} {va : Nat} {c : BitVec 7} (h : s.memOk) : (s.deny srcs asid va c).memOk :=
  (looks_deny _ _ _ _ _).memOk h

theorem memOk_mapped {p : Party} (h : s.memOk) : (s.mapped p).memOk :=
  (looks_mapped _ _).memOk h

theorem memOk_askWalk {src : Src} {asid : BitVec 16} {va : Nat} (h : s.memOk) : (s.askWalk src asid va).1.memOk :=
  (looks_askWalk _ _ _ _).memOk h

theorem memOk_ranges {src : Src} {asid : BitVec 16} {res : Bool} {k a len off : Nat} (h : s.memOk) :
    (s.ranges src asid res k a len off).1.memOk :=
  (looks_ranges _ _ _ _ _ _ _ _).memOk h

theorem memOk_resolve {src : Src} {m n : Nat} {asid : BitVec 16} {p : Perm} {align : Nat} {a : Word} {len : Nat} (h : s.memOk) :
    (s.resolve src m n asid p align a len).1.memOk :=
  (looks_resolve _ _ _ _ _ _ _ _ _).memOk h

/-! The named operations on a strand. -/

theorem resOk_trapIf {c : BitVec 7} {tva : Word} (h : s.memOk) : resOk (trapIf s c tva) :=
  h

theorem memOk_settled {n : Nat} (h : s.memOk) : (s.settled n).memOk :=
  (looks_settled _ _).memOk h

theorem memOk_conclude (h : s.memOk) : (conclude s).memOk :=
  memOk_ite (memOk_setMe h) (memOk_settled (memOk_setMe h))

theorem memOk_held (h : s.memOk) : (held s).memOk :=
  memOk_setMe h

theorem memOk_ask {kind : Nat} {a b : Word} (h : s.memOk) : (s.ask kind a b).memOk :=
  h

theorem memOk_askTagged {kind : Nat} {a b : Word} {tag : Nat} (h : s.memOk) : (s.askTagged kind a b tag).memOk :=
  h

theorem memOk_stopForHost {n : Nat} (h : s.memOk) : (s.stopForHost n).memOk :=
  memOk_ask (memOk_modStrand (memOk_settled h))

theorem memOk_enterHandler {n : Nat} (h : s.memOk) : (s.enterHandler n).memOk := by
  unfold State.enterHandler
  refine memOk_ite (memOk_stopForHost h) ?_
  refine memOk_ite (memOk_stopForHost (memOk_readDram h)) ?_
  dsimp only
  split
  · exact memOk_modStrand (memOk_resolve (memOk_readDram h))
  · refine memOk_ite (memOk_modStrand (memOk_resolve (memOk_readDram h))) ?_
    refine memOk_ite ?_ ?_
    · exact memOk_stopForHost (memOk_readAt (memOk_resolve (memOk_readDram h)))
    · exact memOk_modStrand (memOk_settled (memOk_readAt (memOk_resolve (memOk_readDram h))))
  · exact memOk_stopForHost (memOk_resolve (memOk_readDram h))

theorem memOk_withdraw {n : Nat} (h : s.memOk) : (s.withdraw n).memOk :=
  h

theorem memOk_takeTrap {n : Nat} {r : TrapRec} {discards : Bool} (h : s.memOk) : (s.takeTrap n r discards).memOk := by
  unfold State.takeTrap
  refine memOk_ite ?_ ?_
  · exact memOk_stopForHost (memOk_setStrand (memOk_with (memOk_forget (memOk_forget (memOk_withdraw h)))))
  · exact memOk_enterHandler (memOk_setStrand (memOk_with (memOk_forget (memOk_forget (memOk_withdraw h)))))

theorem memOk_trapped {r : TrapRec} (h : s.memOk) : (trapped s r).memOk :=
  memOk_takeTrap h

theorem outOk_finish {r : Res} (h : resOk r) : outOk (finish r) := by
  cases r with
  | ok t => exact memOk_conclude h
  | hold t => exact memOk_held h
  | trap t c => exact memOk_trapped h

theorem outOk_syllable {priv : Bool} {g : Guard} {ds : Strand → List Dst} {k : Strand → Res} (h : s.memOk) (hk : ∀ a, resOk (k a)) :
    outOk (syllable s priv g ds k) := by
  unfold syllable
  refine outOk_ite (outOk_finish (resOk_trapIf h)) ?_
  exact outOk_ite (outOk_finish h) (outOk_ite (outOk_finish h) (outOk_ite (outOk_finish h) (outOk_finish (hk _))))

theorem outOk_event {r : Option State} (h : s.memOk) (h2 : optOk r) : outOk (event s r) := by
  cases r with
  | none => exact h
  | some t => exact h2

/-! The operand forms. -/

theorem resOk_pushTrap {q : Nat} {r : TrapRec} (h : s.memOk) : resOk (pushTrap s q r) :=
  memOk_setMe h

theorem resOk_deliverV {t : Strand} {vd : Opnd} {b : Block} {m : Mask} {flags : BitVec 6} {lat : Nat} (h : s.memOk) :
    resOk (deliverV s t vd b m flags lat) := by
  unfold deliverV
  refine resOk_ite (memOk_setMe h) ?_
  refine resOk_ite (resOk_trapIf h) ?_
  split
  · exact h
  · exact resOk_pushTrap h
  · exact memOk_setMe h
  · exact memOk_setMe h

/-! Scratchpad banks. -/

theorem memOk_wakeSp {c k : Nat} (h : s.memOk) : (s.wakeSp c k).memOk :=
  memOk_ite h (memOk_modCore h)

theorem memOk_eraseBank {c k : Nat} (h : s.memOk) : (s.eraseBank c k).memOk := by
  unfold State.eraseBank
  refine memOk_modCore ?_
  obtain ⟨hd, hc, hrest⟩ := h
  exact ⟨hd, (wf_filter _ hc).1, hrest⟩

theorem memOk_spOff {c k : Nat} (h : s.memOk) : (s.spOff c k).memOk :=
  memOk_modCore (memOk_eraseBank h)

theorem memOk_spRetain {c k : Nat} (h : s.memOk) : (s.spRetain c k).memOk :=
  memOk_modCore h

theorem memOk_chipWake {pa : Nat} (h : s.memOk) : (s.chipWake pa).memOk := by
  unfold State.chipWake
  split
  · exact memOk_wakeSp h
  · exact h

theorem memOk_applyDrops {c k : Nat} {ds : List (Nat × Nat × Bool × BitVec 32)} (h : s.memOk) : (applyDrops c k ds s).memOk := by
  induction ds generalizing s with
  | nil => exact h
  | cons d ds ih =>
    exact memOk_ite h (ih (memOk_ite (memOk_spOff (memOk_modCore h)) (memOk_spRetain (memOk_modCore h))))

theorem memOk_settleBank {c k : Nat} (h : s.memOk) : (s.settleBank c k).memOk :=
  memOk_ite h (memOk_applyDrops h)

theorem memOk_settleOwn {b : Nat} (h : s.memOk) : (s.settleOwn b).memOk := by
  unfold State.settleOwn
  dsimp only
  split
  · exact memOk_ite h h
  · exact memOk_ite h h
  · exact h

theorem memOk_settleAt {sp : Space} {pa : Nat} (h : s.memOk) : (s.settleAt sp pa).memOk := by
  unfold State.settleAt
  split
  · split
    · exact memOk_foldl h (fun _ h1 _ => memOk_settleBank h1)
    · exact h
  · refine memOk_ite h ?_
    split
    · exact memOk_settleOwn h
    · exact h
  · exact h

/-! Requests. -/

theorem memOk_deliver {r : Req} {off : Nat} {bs : List Byte} {bad : List Nat} {flags : BitVec 6} (h : s.memOk) :
    (s.deliver r off bs bad flags).memOk := by
  unfold State.deliver
  split
  · exact memOk_modStrand h
  · exact memOk_ite h (memOk_modNmu h)
  · exact memOk_gathered h

theorem memOk_serveReads {c k : Nat} (h : s.memOk) : (s.serveReads c k).1.memOk := by
  unfold State.serveReads
  refine memOk_foldl_fst h fun q hq _ => ?_
  split
  · dsimp only
    exact memOk_dropReq (memOk_deliver hq)
  · exact hq

theorem memOk_lastUseFrom {k n : Nat} {spans : List (Nat × Nat)} (h : s.memOk) : (lastUseFrom k s n spans).memOk := by
  induction k generalizing s n spans with
  | zero => exact h
  | succ k ih =>
    unfold lastUseFrom
    refine memOk_foldl (memOk_modCore h) fun t ht _ => memOk_ite ?_ ht
    exact memOk_foldl (memOk_spOff (memOk_serveReads ht)) fun u hu _ => ih hu

theorem memOk_lastUse {n : Nat} {spans : List (Nat × Nat)} (h : s.memOk) : (s.lastUse n spans).memOk :=
  memOk_lastUseFrom h

theorem memOk_answer {r : Req} {off : Nat} {bs : List Byte} {bad : List Nat} {flags : BitVec 6} (h : s.memOk) :
    (s.answer r off bs bad flags).memOk := by
  unfold State.answer
  dsimp only
  split
  · exact memOk_lastUse (memOk_deliver h)
  · exact memOk_deliver h

theorem memOk_storeBytes {sp : Space} {pa : Nat} {bs : List OutByte} (h : s.memOk) : (s.storeBytes sp pa bs).memOk := by
  unfold State.storeBytes
  refine memOk_foldl h (fun _ h1 _ => ?_)
  refine memOk_ite (memOk_writeAt h1) ?_
  dsimp only
  split
  · exact memOk_modCore (memOk_writeAt (memOk_readAt h1))
  · exact memOk_writeAt (memOk_readAt h1)

theorem memOk_setAcc {u k : Nat} {a : Acc} (h : s.memOk) : (s.setAcc u k a).memOk :=
  memOk_modNmu h

theorem memOk_readouts {u : Nat} {f : Fmt} {fin : Bool} {n k : Nat} (h : s.memOk) : (s.readouts u f fin n k).1.memOk := by
  induction n generalizing s k with
  | zero => exact h
  | succ n ih => exact ih (memOk_setAcc h)

theorem memOk_storeChunk {r : Req} {bs : List OutByte} (h : s.memOk) : (s.storeChunk r bs).memOk := by
  unfold State.storeChunk
  refine memOk_ite (memOk_storeBytes (memOk_ite (memOk_clearFlips h) (memOk_setCarried (memOk_takeBits h)))) ?_
  exact memOk_setCarried (memOk_storeBytes (memOk_ite (memOk_clearFlips h) (memOk_setCarried (memOk_takeBits h))))

theorem memOk_dropWaiter {w : Who} (h : s.memOk) : (s.dropWaiter w).memOk :=
  h

theorem memOk_addWaiter {r : Req} {eq : Bool} {cmp : Word} (h : s.memOk) : (s.addWaiter r eq cmp).memOk := by
  unfold State.addWaiter
  dsimp only
  split
  · exact memOk_with (memOk_readAt h)
  · exact memOk_with (memOk_readAt h)
  · exact memOk_with (memOk_readAt h)
  · exact memOk_readAt h

theorem memOk_perform {r : Req} (h : s.memOk) : (s.perform r).memOk := by
  unfold State.perform
  dsimp only
  split
  · exact memOk_answer (memOk_readAt h)
  · exact memOk_ite (memOk_storeChunk h) (memOk_storeBytes h)
  · exact memOk_writeAt h
  · refine memOk_ite (memOk_ite (memOk_answer (memOk_readAt h)) (memOk_readAt h)) ?_
    refine memOk_ite ?_ ?_
    · refine memOk_answer ?_
      split
      · exact memOk_writeAt (memOk_readAt h)
      · exact memOk_readAt h
    · split
      · exact memOk_writeAt (memOk_readAt h)
      · exact memOk_readAt h
  · exact memOk_ite (memOk_readAt h) (memOk_writeAt (memOk_readAt h))
  · exact memOk_foldl h (fun _ h1 _ => memOk_setAcc h1)
  · exact memOk_setAcc h
  · exact memOk_answer (memOk_readouts h)
  · exact memOk_answer h
  · exact memOk_answer (memOk_readouts h)
  · exact memOk_addWaiter h
  · exact h

theorem memOk_releases {r : Req} (h : s.memOk) : (s.releases r).memOk :=
  memOk_ite (memOk_publish h) h

theorem memOk_retire {r : Req} (h : s.memOk) : (s.retire r).memOk :=
  memOk_settleAt (memOk_dropReq (memOk_foldl h (fun _ h1 _ => memOk_dropReq h1)))

theorem memOk_withdrawAll {rs : List Req} (h : s.memOk) : (s.withdrawAll rs).memOk :=
  memOk_foldl h (fun _ h1 _ => memOk_settleAt (memOk_dropReq h1))

theorem memOk_complete {r : Req} (h : s.memOk) : (s.complete r).memOk :=
  memOk_retire (memOk_releases (memOk_perform h))

theorem memOk_wakeSegs {gs : List Seg} (h : s.memOk) : (s.wakeSegs gs).memOk :=
  memOk_foldl h (fun _ h1 _ => memOk_ite (memOk_chipWake h1) h1)

theorem optOk_putSegs {src : Src} {asid : BitVec 16} {bs : List OutByte} {gs : List Seg} (h : s.memOk) :
    optOk (s.putSegs src asid bs gs) :=
  optOk_ite (memOk_sendAll h) trivial

theorem outOk_execHomeAccess {id : Nat} (h : s.memOk) : outOk (execHomeAccess id s) := by
  unfold execHomeAccess
  refine outOk_event h ?_
  split
  · exact optOk_ite trivial (optOk_ite (memOk_complete h) (memOk_chipWake h))
  · trivial

theorem outOk_execReductionApply {id : Nat} (h : s.memOk) : outOk (execReductionApply id s) := by
  unfold execReductionApply
  refine outOk_event h ?_
  split
  · split
    · refine optOk_ite ?_ ?_
      · refine optOk_ite ?_ (memOk_setReq h)
        dsimp only
        exact memOk_with (memOk_setReq h)
      · split
        · exact memOk_setReq (memOk_perform h)
        · exact memOk_complete h
    · trivial
  · trivial
end Keeps

end Sys2Proof.Machine
end

section
/-! PROOFS. The scalar forms, the boundary before a bundle, the matrix array and packed weights keep the form of every memory. -/

namespace Sys2Proof.Machine

section Keeps
variable {s : State}

/-! Scalar integer instructions. -/

theorem resOk_sendG {t : Strand} {gd : GReg} {v : Word} {poison : Bool} {lat : Nat} (h : s.memOk) : resOk (sendG s t gd v poison lat) :=
  memOk_setMe h

theorem outOk_sBin {g : Guard} {o : SBin} {lat : Nat} {f : Word → Word → Word} (h : s.memOk) : outOk (sBin s g o lat f) :=
  outOk_syllable h (fun _ => resOk_sendG h)

theorem outOk_sUn {g : Guard} {gd ga : GReg} {lat : Nat} {f : Word → Word} (h : s.memOk) : outOk (sUn s g gd ga lat f) :=
  outOk_syllable h (fun _ => resOk_sendG h)

theorem outOk_sDiv {g : Guard} {o : SBin} {f : Word → Word → Word} (h : s.memOk) : outOk (sDiv s g o f) := by
  unfold sDiv
  refine outOk_syllable h (fun _ => ?_)
  refine resOk_ite h ?_
  exact memOk_setMe h

theorem outOk_execWinq {g : Guard} {o : SBin} (h : s.memOk) : outOk (execWinq g o s) := by
  unfold execWinq
  refine outOk_syllable h (fun _ => ?_)
  exact resOk_sendG h

/-! Compares, selection and predicates of the S class. -/

theorem resOk_sendP {t : Strand} {i : Nat} {v : Mask} {poison : Bool} {m : Mask} {k : Bool} (h : s.memOk) :
    resOk (sendP s t i v poison m k) :=
  memOk_setMe h

theorem outOk_execSel {g : Guard} {o : SBin} {pc : PRegNo} {neg : Bool} (h : s.memOk) : outOk (execSel g o pc neg s) := by
  unfold execSel
  refine outOk_syllable h (fun _ => ?_)
  refine resOk_ite (resOk_trapIf h) ?_
  exact resOk_sendG h

theorem outOk_pLogic {g : Guard} {o : PBin} {f : Mask → Mask → Mask} (h : s.memOk) : outOk (pLogic s g o f) :=
  outOk_syllable h (fun _ => resOk_sendP h)

theorem outOk_execPsetPredicate {g : Guard} {pd : PRegNo} {n : SrcB} (h : s.memOk) : outOk (execPsetPredicate g pd n s) := by
  unfold execPsetPredicate
  refine outOk_syllable h (fun _ => ?_)
  exact resOk_sendP h

/-! Control transfer. -/

theorem outOk_control {g : Guard} {ds : Strand → List Dst} {k : Strand → Res} (h : s.memOk) (hk : ∀ a, resOk (k a)) :
    outOk (control s g ds k) :=
  outOk_syllable h (fun _ => resOk_ite (resOk_trapIf h) (hk _))

theorem resOk_transfer {t : Strand} {target : Word} {n : Nat} (h : s.memOk) : resOk (transfer s t target n) :=
  resOk_ite (resOk_trapIf h) (memOk_setMe h)

theorem outOk_execBr {g : Guard} {pa : PRegNo} {neg all : Bool} {disp : BitVec 32} (h : s.memOk) :
    outOk (execBr g pa neg all disp s) := by
  unfold execBr
  refine outOk_control h (fun _ => ?_)
  refine resOk_ite (resOk_trapIf h) ?_
  exact resOk_ite (resOk_transfer h) h

theorem outOk_execLoop {g : Guard} {gd : GReg} {sm : BitVec 3} {disp : BitVec 32} (h : s.memOk) : outOk (execLoop g gd sm disp s) := by
  unfold execLoop
  refine outOk_control h (fun _ => ?_)
  refine resOk_ite (resOk_trapIf h) ?_
  exact resOk_ite (resOk_transfer h) (memOk_setMe h)

theorem outOk_execWfe {g : Guard} {gd ga : GReg} {mask : BitVec 16} (h : s.memOk) : outOk (execWfe g gd ga mask s) := by
  unfold execWfe
  refine outOk_syllable h (fun _ => ?_)
  refine resOk_ite (resOk_trapIf h) ?_
  refine resOk_ite ?_ ?_
  · exact memOk_setMe h
  · refine resOk_ite h ?_
    split
    · exact memOk_setMe h
    · refine resOk_ite ?_ h
      exact memOk_setMe h

theorem outOk_execWfeTimeout {n : Nat} (h : s.memOk) : outOk (execWfeTimeout n s) := by
  unfold execWfeTimeout
  refine outOk_event h ?_
  split
  · exact optOk_ite (memOk_setStrand h) trivial
  · trivial

theorem outOk_execEret {g : Guard} (h : s.memOk) : outOk (execEret g s) :=
  outOk_syllable h (fun _ => resOk_ite (resOk_trapIf h) (resOk_ite (resOk_trapIf h) (memOk_setMe h)))

/-! System registers and shape registers. -/

theorem outOk_execSysw {g : Guard} {n : BitVec 12} {ga : GReg} (h : s.memOk) : outOk (execSysw g n ga s) := by
  unfold execSysw
  refine outOk_syllable h (fun _ => ?_)
  refine resOk_ite (resOk_trapIf h) ?_
  exact resOk_ite (resOk_trapIf h) (resOk_ite (memOk_ite (memOk_modStrand h) h) (resOk_ite (memOk_setMe h) (memOk_setMe h)))

theorem outOk_execShset {g : Guard} {sh : ShReg} {field : BitVec 5} {v : SrcB} (h : s.memOk) : outOk (execShset g sh field v s) := by
  unfold execShset
  refine outOk_syllable h (fun _ => ?_)
  exact resOk_ite (resOk_trapIf h) (resOk_ite (resOk_trapIf h) (memOk_setMe h))

theorem outOk_execShget {g : Guard} {gd : GReg} {sh : ShReg} {field : BitVec 5} {shadow : Bool} (h : s.memOk) :
    outOk (execShget g gd sh field shadow s) := by
  unfold execShget
  refine outOk_syllable h (fun _ => ?_)
  exact resOk_sendG h

/-! Scalar floating point. -/

theorem resOk_sendF {t : Strand} {gd : GReg} {c : Coded} {poison : Bool} {lat : Nat} (h : s.memOk) : resOk (sendF s t gd c poison lat) :=
  memOk_setMe h

theorem outOk_fBin {g : Guard} {o : FBin} {f : Fmt → RM → Bool → Nat → Nat → Nat → Coded} (h : s.memOk) : outOk (fBin s g o f) := by
  unfold fBin
  refine outOk_syllable h (fun _ => ?_)
  exact resOk_sendF h

theorem outOk_execFfma {g : Guard} {o : FBin} {gc : GReg} (h : s.memOk) : outOk (execFfma g o gc s) := by
  unfold execFfma
  refine outOk_syllable h (fun _ => ?_)
  exact resOk_sendF h

theorem outOk_execFcvt {g : Guard} {gd ga : GReg} {d src : Ty} {rnd : Rnd} {sat : Bool} (h : s.memOk) :
    outOk (execFcvt g gd ga d src rnd sat s) := by
  unfold execFcvt
  refine outOk_syllable h (fun _ => ?_)
  exact resOk_sendF h

theorem outOk_execFcmp {g : Guard} {pd : PRegNo} {ga gb : GReg} {ty : Ty} {c : FCond} (h : s.memOk) :
    outOk (execFcmp g pd ga gb ty c s) := by
  unfold execFcmp
  refine outOk_syllable h (fun _ => ?_)
  exact memOk_setMe h

/-! Scalar memory. -/

theorem resOk_checked {r : State × Chk} {k : State → List Seg → Res} (h : r.1.memOk) (hk : ∀ t : State, t.memOk → ∀ a, resOk (k t a)) :
    resOk (checked r k) := by
  unfold checked
  split
  · exact hk _ h _
  · exact resOk_trapIf h
  · exact h

theorem memOk_check {p : Perm} {align : Nat} {a : Word} {len : Nat} (h : s.memOk) : (s.check p align a len).1.memOk :=
  memOk_resolve h

theorem resOk_sendLoad {gs : List Seg} {d : Dst} {v : FVal} {form : LandForm} {mk : Req → Req} (h : s.memOk) :
    resOk (sendLoad s gs d v form mk) :=
  resOk_ite h (memOk_sendAll (memOk_wakeSegs (memOk_setMe h)))

theorem resOk_sendStore {gs : List Seg} {bs : List OutByte} {mk : Req → Req} (h : s.memOk) : resOk (sendStore s gs bs mk) :=
  resOk_ite h (memOk_sendAll (memOk_wakeSegs h))

theorem resOk_sendBlock {gs : List Seg} {bs : List OutByte} (h : s.memOk) : resOk (sendBlock s gs bs) :=
  resOk_ite h (memOk_sendAll (memOk_wakeSegs h))

theorem resOk_scalarLoad {gd : GReg} {a : Word} {w : Nat} {sx : Bool} {align : Nat} {poison acq : Bool} {sc : Scope} (h : s.memOk) :
    resOk (scalarLoad s gd a w sx align poison acq sc) := by
  unfold scalarLoad
  refine resOk_checked (memOk_check h) (fun _ h1 _ => ?_)
  dsimp only
  split
  · exact h1
  · exact resOk_sendLoad h1
  · exact memOk_setMe h1

theorem resOk_scalarStore {v a : Word} {w align : Nat} {rel : Bool} {sc : Scope} (h : s.memOk) :
    resOk (scalarStore s v a w align rel sc) :=
  resOk_checked (memOk_check h) (fun _ h1 _ => resOk_sendStore h1)

theorem outOk_execSt {g : Guard} {o : SBin} {w : Wd} (h : s.memOk) : outOk (execSt g o w s) :=
  outOk_syllable h (fun _ => resOk_ite (resOk_trapIf h) (resOk_ite (resOk_trapIf h) (resOk_scalarStore h)))

/-! The engine side of a strand. -/

theorem outOk_guardedM {cause : BitVec 7} {hd : MHead} {ds : Strand → List Dst} {k : Strand → Res} (h : s.memOk) (hk : ∀ a, resOk (k a)) :
    outOk (guardedM cause s hd ds k) :=
  outOk_syllable h (fun _ => resOk_ite (resOk_trapIf h) (hk _))

theorem outOk_mSyllable {hd : MHead} {ds : Strand → List Dst} {k : Strand → Res} (h : s.memOk) (hk : ∀ a, resOk (k a)) :
    outOk (mSyllable s hd ds k) :=
  outOk_guardedM h (fun _ => hk _)

theorem resOk_enqueue {t : Strand} {hd : MHead} {e : Nat} {op : Instr} {x : Entry} (h : s.memOk) : resOk (enqueue s t hd e op x) := by
  unfold enqueue
  refine resOk_ite (resOk_trapIf h) ?_
  refine resOk_ite h ?_
  refine resOk_ite h ?_
  refine resOk_ite h ?_
  split
  · exact resOk_trapIf h
  · refine resOk_ite (memOk_setMe h) ?_
    exact memOk_setMe (memOk_with (memOk_ite h (memOk_publish h)))

/-! The boundary before a bundle. -/

theorem memOk_takeFault {n : Nat} {f : EFault} (h : s.memOk) : (s.takeFault n f).memOk :=
  memOk_takeTrap (memOk_modStrand h)

theorem optOk_haltBoundary {n : Nat} (h : s.memOk) : optOk (haltBoundary s n) := by
  unfold haltBoundary
  dsimp only
  split
  · exact memOk_takeFault h
  · exact optOk_map (fun _ => memOk_takeTrap (memOk_setStrand h))

theorem optOk_boundary (h : s.memOk) : optOk (boundary s) := by
  unfold boundary
  refine optOk_ite (memOk_takeTrap (memOk_setMe h)) ?_
  split
  · exact memOk_takeFault h
  · split
    · exact optOk_ite (memOk_held h) (memOk_takeTrap h)
    · exact optOk_ite (memOk_trapped h) trivial

theorem outOk_execTrapEntry {n : Nat} (h : s.memOk) : outOk (execTrapEntry n s) :=
  outOk_event h (optOk_ite (optOk_haltBoundary h) (optOk_ite trivial (optOk_ite (memOk_enterHandler h) (optOk_boundary h))))

theorem outOk_execDeadlineExpiry {n : Nat} (h : s.memOk) : outOk (execDeadlineExpiry n s) := by
  unfold execDeadlineExpiry
  refine outOk_event h ?_
  exact optOk_ite (memOk_takeTrap (memOk_setStrand h)) trivial

theorem outOk_execResultLanding {n k : Nat} (h : s.memOk) : outOk (execResultLanding n k s) := by
  unfold execResultLanding
  refine outOk_event h ?_
  split
  · exact optOk_ite (memOk_setStrand h) trivial
  · trivial

theorem outOk_execEngineFaultDelivery {n id : Nat} (h : s.memOk) : outOk (execEngineFaultDelivery n id s) := by
  unfold execEngineFaultDelivery
  refine outOk_event h ?_
  dsimp only
  split
  · exact memOk_setStrand (memOk_modNmu h)
  · exact optOk_ite (optOk_boundary h) (optOk_ite (optOk_haltBoundary h) trivial)

/-! The matrix array. -/

theorem outOk_product {hd : MHead} {i : Instr} {draws : Nat} (h : s.memOk) : outOk (product s hd i draws) := by
  unfold product
  refine outOk_mSyllable h (fun _ => ?_)
  exact resOk_ite (resOk_trapIf h) (resOk_enqueue h)

theorem outOk_execMmaa {hd : MHead} {fmt : MmaaFmt} {rsr sat z : Bool} {acc : BitVec 4} {opa opb : Opnd} (h : s.memOk) :
    outOk (execMmaa hd fmt rsr sat z acc opa opb s) := by
  unfold execMmaa
  refine outOk_mSyllable h (fun _ => ?_)
  exact resOk_ite (resOk_trapIf h) (resOk_enqueue h)

theorem outOk_execMdrain {hd : MHead} {fmt : DrainFmt} {rnd : Rnd} {sat clr : Bool} {opa : Opnd} {acc : BitVec 4} {opb : Opnd}
    {p : BitVec 2} (h : s.memOk) : outOk (execMdrain hd fmt rnd sat clr opa acc opb p s) := by
  unfold execMdrain
  refine outOk_mSyllable h (fun _ => ?_)
  exact resOk_enqueue h

theorem memOk_giveArray {c : Nat} {o : Option Nat} (h : s.memOk) : (s.giveArray c o).memOk :=
  memOk_modCore h

theorem memOk_endRun {n : Nat} (h : s.memOk) : (s.endRun n).memOk :=
  memOk_ite (memOk_giveArray h) h

theorem memOk_countBlock {n : Nat} (h : s.memOk) : (s.countBlock n).memOk :=
  memOk_ite (memOk_endRun h) (memOk_modCore h)

theorem outOk_execArrayGrant {c : Nat} (h : s.memOk) : outOk (execArrayGrant c s) := by
  unfold execArrayGrant
  refine outOk_event h ?_
  refine optOk_ite trivial ?_
  split
  · exact optOk_ite (memOk_giveArray h) (optOk_ite (memOk_giveArray h) (optOk_ite (memOk_giveArray h) trivial))
  · exact optOk_ite (memOk_endRun h) trivial

theorem memOk_wakeArray {c : Nat} (h : s.memOk) : (s.wakeArray c).memOk :=
  memOk_ite (memOk_modCore h) h

theorem outOk_execArrayWake {c : Nat} (h : s.memOk) : outOk (execArrayWake c s) := by
  unfold execArrayWake
  refine outOk_event h (optOk_ite trivial ?_)
  split
  · exact optOk_ite (memOk_modCore h) trivial
  · exact optOk_ite (memOk_wakeArray h) trivial

theorem outOk_execProductKBlock {n id : Nat} (h : s.memOk) : outOk (execProductKBlock n id s) := by
  unfold execProductKBlock
  refine outOk_event h ?_
  split
  · refine optOk_ite trivial ?_
    refine optOk_ite (memOk_endRun h) ?_
    split
    · exact optOk_ite (memOk_countBlock (memOk_setStrand h)) (optOk_ite (memOk_endRun (memOk_setStrand h)) (memOk_setStrand h))
    · trivial
  · trivial

theorem outOk_execProductStop {n id : Nat} (h : s.memOk) : outOk (execProductStop n id s) := by
  unfold execProductStop
  refine outOk_event h ?_
  split
  · refine optOk_ite trivial ?_
    split
    · exact memOk_ite (memOk_endRun (memOk_setStrand h)) (memOk_setStrand h)
    · trivial
  · trivial

theorem optOk_arrayFinish {n : Nat} {c : Cmd} (h : s.memOk) : optOk (s.arrayFinish n c) := by
  unfold State.arrayFinish
  refine optOk_ite trivial ?_
  split
  · dsimp only
    exact memOk_modStrand (memOk_endRun h)
  · dsimp only
    exact memOk_modStrand (memOk_endRun h)
  · exact memOk_setStrand h
  · split
    · exact memOk_setStrand h
    · trivial
    · split
      · exact optOk_ite trivial (memOk_setStrand h)
      · trivial

/-! Packed weights. -/

theorem memOk_readChunk {rd : Reader} {a : Word} (h : s.memOk) (hk : ∀ t : State, t.memOk → ∀ a b, (rd t a b).1.memOk) :
    (readChunk rd s a).1.memOk := by
  unfold readChunk
  dsimp only
  split
  · exact hk _ h _ _
  · split
    · exact hk _ h _ _
    · split
      · exact hk _ h _ _
      · split
        · exact hk _ (hk _ h _ _) _ _
        · split
          · exact hk _ (hk _ h _ _) _ _
          · split
            · exact memOk_ite_fst (hk _ (hk _ h _ _) _ _) (hk _ (hk _ h _ _) _ _)
            · exact hk _ (hk _ h _ _) _ _

theorem memOk_readSlices {rd : Reader} {a : Word} {c : Chunk} {lo hi i off : Nat} {ls : List Nat} (h : s.memOk)
    (hk : ∀ t : State, t.memOk → ∀ (a : Word) (n : Nat), (rd t a n).1.memOk) : (readSlices rd a c lo hi i off s ls).1.memOk := by
  induction ls generalizing s i off with
  | nil => exact h
  | cons l ls ih =>
    unfold readSlices
    dsimp only
    refine memOk_ite_fst h (memOk_ite_fst (ih h) ?_)
    split
    · exact hk s h _ _
    · split
      · exact memOk_ite_fst (hk s h _ _) (hk s h _ _)
      · split <;> exact ih (hk s h _ _)

theorem memOk_expandFrom {rd : Reader} {lo hi k : Nat} {a : Word} {d : Nat} (h : s.memOk)
    (hk : ∀ t : State, t.memOk → ∀ (a : Word) (n : Nat), (rd t a n).1.memOk) : (expandFrom rd lo hi k s a d).1.memOk := by
  induction k generalizing s a d with
  | zero => exact h
  | succ k ih =>
    have hr : (readChunk rd s a).1.memOk := memOk_readChunk h hk
    have hq (c : Chunk) : (if d + c.head.dsize ≤ lo then ((readChunk rd s a).1, some ([], none))
        else readSlices rd a c (lo - d) (hi - d) 0 c.head.h (readChunk rd s a).1 c.lens).1.memOk :=
      memOk_ite_fst hr (memOk_readSlices hr hk)
    unfold expandFrom
    refine memOk_ite_fst h ?_
    dsimp only
    split
    · exact hr
    · exact hr
    · split
      · exact hq _
      · exact hq _
      · split <;> exact ih (hq _)

theorem memOk_expand {rd : Reader} {a : Word} {lo hi : Nat} (h : s.memOk) (hk : ∀ t : State, t.memOk → ∀ a b, (rd t a b).1.memOk) :
    (expand rd s a lo hi).1.memOk :=
  memOk_expandFrom h (fun _ h1 _ _ => hk _ h1 _ _)
end Keeps

end Sys2Proof.Machine
end

section
/-! PROOFS. Vector forms and their memory, streams, copies, rings and barriers keep the form of every memory. -/

namespace Sys2Proof.Machine

section Keeps
variable {s : State}

/-! The shape of a V syllable. -/

theorem outOk_vForm {g : Guard} {vd : Opnd} {keep : Bool} {os : List VSrc} {ds : Strand → List Dst} {f64 pg : Bool} {lat : Nat}
    {k : Strand → List Block → VOut} (h : s.memOk) : outOk (vForm s g vd keep os ds f64 pg lat k) := by
  unfold vForm
  refine outOk_syllable h (fun _ => ?_)
  refine resOk_ite h ?_
  split
  · exact memOk_setMe h
  · exact h
  · exact resOk_deliverV h

theorem outOk_vPred {g : Guard} {pd : PRegNo} {os : List VSrc} {f64 : Bool}
    {k : Strand → List Block → Mask × Bool × Mask × Bool × BitVec 6} (h : s.memOk) : outOk (vPred s g pd os f64 k) := by
  unfold vPred
  refine outOk_syllable h (fun _ => ?_)
  refine resOk_ite h ?_
  split
  · exact memOk_setMe h
  · exact h
  · exact memOk_setMe h

/-! Vector memory. -/

theorem resOk_orHold {r : Res} (h : s.memOk) (h2 : resOk r) : resOk (orHold s r) := by
  unfold orHold
  split
  · exact h
  · exact h2

theorem outOk_vLoadElems {g : Guard} {vd : Opnd} {va : VSrc} {gb : GReg} {w : Nat} {addr : Word → Nat → Word} (h : s.memOk) :
    outOk (vLoadElems s g vd va gb w addr) := by
  unfold vLoadElems
  refine outOk_syllable h (fun _ => ?_)
  refine resOk_ite h ?_
  split
  · exact memOk_setMe h
  · exact h
  · dsimp only
    split
    · exact h
    · refine resOk_ite (resOk_orHold h (resOk_sendLoad (memOk_setMe h))) ?_
      refine resOk_ite (memOk_wakeSegs h) ?_
      refine resOk_ite (resOk_trapIf h) ?_
      split
      · exact h
      · exact resOk_pushTrap h
      · exact memOk_setMe h
      · exact resOk_orHold h (resOk_sendLoad (memOk_setMe h))

theorem outOk_execVscat {g : Guard} {va vb : VSrc} {gc : GReg} {sh : BitVec 2} (h : s.memOk) : outOk (execVscat g va vb gc sh s) := by
  unfold execVscat
  refine outOk_syllable h (fun _ => ?_)
  refine resOk_ite h ?_
  split
  · exact memOk_setMe h
  · exact h
  · dsimp only
    split
    · exact h
    · exact resOk_orHold h (resOk_sendBlock (memOk_setMe h))

theorem memOk_rowSegs {src : Src} {m n : Nat} {asid : BitVec 16} {p : Perm} {l : Layout} {o : Word} {rs : List Nat} (h : s.memOk) :
    (s.rowSegs src m n asid p l o rs).1.memOk :=
  (looks_rowSegs _ _ _ _ _ _ _ _ _).memOk h

theorem outOk_execVld {g : Guard} {vd : Opnd} {k : LayNo} {ga : GReg} {lu : Bool} (h : s.memOk) : outOk (execVld g vd k ga lu s) := by
  unfold execVld
  refine outOk_syllable h (fun _ => ?_)
  refine resOk_ite (resOk_trapIf h) ?_
  refine resOk_ite (resOk_trapIf h) ?_
  refine resOk_checked (memOk_rowSegs h) (fun _ h1 _ => ?_)
  dsimp only
  split
  · exact h1
  · exact memOk_lastUse (memOk_setMe h1)
  · refine resOk_orHold h1 ?_
    split
    next hq7 => exact memOk_modStrand (memOk_of hq7 (resOk_sendLoad (memOk_setMe h1)) rfl)
    · exact resOk_sendLoad (memOk_setMe h1)

theorem outOk_execVst {g : Guard} {va : VSrc} {k : LayNo} {ga : GReg} {spl : Bool} (h : s.memOk) : outOk (execVst g va k ga spl s) := by
  unfold execVst
  refine outOk_syllable h (fun _ => ?_)
  refine resOk_ite (resOk_trapIf h) ?_
  split
  · exact memOk_setMe h
  · exact h
  · refine resOk_ite (resOk_trapIf h) ?_
    refine resOk_ite (resOk_trapIf h) ?_
    refine resOk_checked (memOk_rowSegs h) (fun _ h1 _ => ?_)
    exact resOk_orHold h1 (resOk_sendBlock (memOk_setMe h1))

/-! Layout entries and stream ports. -/

theorem outOk_execLset {g : Guard} {k : LayNo} {field : BitVec 5} {v : LSrc} (h : s.memOk) : outOk (execLset g k field v s) := by
  unfold execLset
  refine outOk_syllable h (fun _ => ?_)
  refine resOk_ite (resOk_trapIf h) ?_
  split
  · exact memOk_setMe h
  · exact resOk_trapIf h

theorem outOk_execPsetPattern {g : Guard} {q : Opnd} {field : BitVec 5} {v : LSrc} (h : s.memOk) :
    outOk (execPsetPattern g q field v s) := by
  unfold execPsetPattern
  refine outOk_syllable h (fun _ => ?_)
  refine resOk_ite h ?_
  refine resOk_ite (resOk_trapIf h) ?_
  split
  · exact memOk_setMe h
  · exact resOk_trapIf h

theorem outOk_execPstart {hd : MHead} {q : Opnd} (h : s.memOk) : outOk (execPstart hd q s) := by
  unfold execPstart
  refine outOk_mSyllable h (fun _ => ?_)
  exact resOk_ite (resOk_trapIf h) (resOk_enqueue h)

theorem resOk_imageEntry {t : Strand} {hd : MHead} {q : Opnd} {gb : GReg} {i : Instr} (h : s.memOk) :
    resOk (imageEntry s t hd q gb i) := by
  unfold imageEntry
  refine resOk_ite (resOk_trapIf h) ?_
  split
  · exact resOk_trapIf h
  · exact resOk_ite (resOk_trapIf h) (resOk_enqueue h)

theorem resOk_outward {t : Strand} {q : Nat} {r : Res} (h : s.memOk) (h2 : resOk r) : resOk (outward s t q r) := by
  unfold outward
  dsimp only
  split
  · exact resOk_ite h2 (resOk_pushTrap h)
  · exact h2

theorem outOk_execQstat {g : Guard} {gd : GReg} {q : Opnd} {w : BitVec 2} (h : s.memOk) : outOk (execQstat g gd q w s) := by
  unfold execQstat
  refine outOk_syllable h (fun _ => ?_)
  refine resOk_ite h ?_
  refine resOk_outward h ?_
  exact resOk_sendG h

theorem outOk_execQrew {g : Guard} {q : Opnd} {ga gb : GReg} (h : s.memOk) : outOk (execQrew g q ga gb s) := by
  unfold execQrew
  refine outOk_syllable h (fun _ => ?_)
  refine resOk_ite h ?_
  refine resOk_outward h (resOk_ite (resOk_trapIf h) (resOk_ite (resOk_trapIf h) ?_))
  exact memOk_setMe (memOk_publish h)

theorem outOk_execRewind {n q : Nat} (h : s.memOk) : outOk (execRewind n q s) := by
  unfold execRewind
  refine outOk_event h ?_
  split
  · refine optOk_ite ?_ trivial
    exact memOk_forget (memOk_setStrand h)
  · trivial

theorem memOk_engineSpan {src : Src} {n : Nat} {p : Perm} {align : Nat} {a : Word} {len : Nat} (h : s.memOk) :
    (s.engineSpan src n p align a len).1.memOk := by
  unfold State.engineSpan
  dsimp only
  exact memOk_resolve h

theorem memOk_engineRows {src : Src} {n : Nat} {p : Perm} {l : Layout} {o : Word} {rs : List Nat} (h : s.memOk) :
    (s.engineRows src n p l o rs).1.memOk := by
  induction rs generalizing s with
  | nil => exact h
  | cons r rs ih =>
    unfold State.engineRows
    dsimp only
    split
    · exact memOk_rowSegs h
    · exact memOk_rowSegs h
    · exact ih (memOk_rowSegs h)

theorem memOk_engineRead {src : Src} {n fork : Nat} {x : List Seg × Option Fail} (h : s.memOk) : (s.engineRead src n fork x).1.memOk := by
  unfold State.engineRead
  split
  · exact h
  · dsimp only
    exact memOk_getSegs h

theorem optOk_engineWrite {src : Src} {n fork : Nat} {bs : List OutByte} {gs : List Seg} (h : s.memOk) :
    optOk (s.engineWrite src n fork bs gs) :=
  optOk_ite (optOk_putSegs h) trivial

theorem memOk_engineReader {src : Src} {n fork : Nat} {a : Word} {len : Nat} (h : s.memOk) :
    (engineReader src n fork s a len).1.memOk := by
  unfold engineReader
  dsimp only
  split
  · split
    · split
      · exact memOk_ite_fst (memOk_engineSpan h) (memOk_getSegs (memOk_engineSpan h))
      · exact memOk_engineSpan h
      · exact memOk_engineSpan h
    · split
      · exact memOk_ite_fst (memOk_engineSpan (memOk_engineSpan h)) (memOk_getSegs (memOk_engineSpan (memOk_engineSpan h)))
      · exact memOk_engineSpan (memOk_engineSpan h)
      · exact memOk_engineSpan (memOk_engineSpan h)
  · split
    · exact memOk_ite_fst (memOk_engineSpan h) (memOk_getSegs (memOk_engineSpan h))
    · exact memOk_engineSpan h
    · exact memOk_engineSpan h

theorem memOk_portFails {n q : Nat} {f : Fail} (h : s.memOk) : (s.portFails n q f).memOk :=
  memOk_forget (memOk_modStrand h)

theorem memOk_portWaits {n q : Nat} (h : s.memOk) : (s.portWaits n q).memOk :=
  memOk_ite (memOk_modStrand h) h

theorem memOk_fetchBlock {n q : Nat} (h : s.memOk) : (s.fetchBlock n q).memOk := by
  unfold State.fetchBlock
  refine memOk_ite ?_ ?_
  · dsimp only
    split
    · exact memOk_portWaits (memOk_expand h (fun _ h1 _ _ => memOk_engineReader h1))
    · split
      · exact memOk_portFails (memOk_expand h (fun _ h1 _ _ => memOk_engineReader h1))
      · exact memOk_forget (memOk_modStrand (memOk_expand h (fun _ h1 _ _ => memOk_engineReader h1)))
  · dsimp only
    split
    · exact memOk_portWaits (memOk_engineRows h)
    · split
      · exact memOk_engineRead (memOk_engineRows h)
      · exact memOk_portFails (memOk_engineRead (memOk_engineRows h))
      · exact memOk_forget (memOk_modStrand (memOk_engineRead (memOk_engineRows h)))

theorem memOk_writeBlock {n q : Nat} {b : PBlock} (h : s.memOk) : (s.writeBlock n q b).memOk := by
  unfold State.writeBlock
  refine memOk_ite (memOk_ite (memOk_forget (memOk_modStrand h)) h) ?_
  dsimp only
  split
  · exact memOk_portWaits (memOk_engineRows h)
  · exact memOk_portFails (memOk_engineRows h)
  · split
    · exact memOk_engineRows h
    next hq3 => exact memOk_modStrand (memOk_of hq3 (optOk_engineWrite (memOk_engineRows h)) rfl)

theorem memOk_stopPort {n q : Nat} {c : Cmd} {cause : BitVec 7} {tva : Word} (h : s.memOk) : (s.stopPort n q c cause tva).memOk :=
  memOk_forget (memOk_modStrand h)

theorem memOk_savePort {n q : Nat} {c : Cmd} (h : s.memOk) : (s.savePort n q c).memOk := by
  unfold State.savePort
  refine memOk_ite (memOk_ite (memOk_forget (memOk_modStrand h)) h) ?_
  dsimp only
  split
  · exact memOk_engineSpan h
  · exact memOk_stopPort (memOk_setStrand (memOk_engineSpan h))
  · split
    · exact memOk_engineSpan h
    next hq3 => exact memOk_setStrand (memOk_of hq3 (optOk_engineWrite (memOk_engineSpan h)) rfl)

theorem memOk_loadPort {n q : Nat} {c : Cmd} (h : s.memOk) : (s.loadPort n q c).memOk := by
  unfold State.loadPort
  dsimp only
  split
  · exact memOk_engineSpan h
  · split
    · exact memOk_engineRead (memOk_engineSpan h)
    · exact memOk_stopPort (memOk_engineRead (memOk_engineSpan h))
    · split
      · exact memOk_stopPort (memOk_engineRead (memOk_engineSpan h))
      · split
        · exact memOk_stopPort (memOk_engineRead (memOk_engineSpan h))
        · exact memOk_forget (memOk_setStrand (memOk_with (memOk_engineRead (memOk_engineSpan h))))

/-! Copies. -/

theorem resOk_firstTrap {cs : List (Option (BitVec 7 × Word))} {r : Res} (h : s.memOk) (h2 : resOk r) : resOk (firstTrap s cs r) := by
  induction cs with
  | nil => exact h2
  | cons c cs ih =>
    cases c with
    | none => exact ih
    | some c => exact resOk_trapIf h

theorem outOk_execCopy {hd : MHead} {opa opb len : GReg} {exp lu : Bool} {kind : CompKind} {gc : BitVec 5} (h : s.memOk) :
    outOk (execCopy hd opa opb len exp lu kind gc s) := by
  unfold execCopy
  refine outOk_guardedM h (fun _ => ?_)
  exact resOk_firstTrap h (resOk_enqueue h)

theorem outOk_execCopyt {hd : MHead} {cnt crc : GReg} {dst src : LayNo} {lu chk schk : Bool} {kind : CompKind} {gc : BitVec 5}
    (h : s.memOk) : outOk (execCopyt hd cnt crc dst src lu chk schk kind gc s) := by
  unfold execCopyt
  refine outOk_guardedM h (fun _ => ?_)
  exact resOk_firstTrap h (resOk_enqueue h)

theorem memOk_stopCopy {n : Nat} {c : Cmd} {cause : BitVec 7} {tva pos1 : Word} (h : s.memOk) : (s.stopCopy n c cause tva pos1).memOk :=
  memOk_ite h (memOk_forget (memOk_modStrand h))

theorem memOk_copyWaits {n : Nat} {c : Cmd} (h : s.memOk) : (s.copyWaits n c).memOk :=
  memOk_ite (memOk_modStrand h) h

theorem sourceOk_expandSource {n id : Nat} {a : Word} {lo hi : Nat} (h : s.memOk) : sourceOk (s.expandSource n id a lo hi) := by
  unfold State.expandSource
  dsimp only
  split
  · exact memOk_expand h (fun _ h1 _ _ => memOk_engineReader h1)
  · split <;> exact memOk_expand h (fun _ h1 _ _ => memOk_engineReader h1)

theorem sourceOk_segSource {n id : Nat} {r : State × Checked} (h : r.1.memOk) : sourceOk (State.segSource n id r) := by
  unfold State.segSource
  split
  · exact h
  · dsimp only
    split
    · exact memOk_engineRead h
    · exact memOk_engineRead h
    · split <;> exact memOk_engineRead h

theorem memOk_copyOut {r : State × Checked} {n : Nat} {c : Cmd} {bs : List OutByte} {k : State → State} (h : r.1.memOk)
    (hk : ∀ t : State, t.memOk → (k t).memOk) : (State.copyOut r n c bs k).memOk := by
  unfold State.copyOut
  split
  · exact memOk_copyWaits h
  · exact memOk_stopCopy h
  · split
    · exact h
    next hq1 => exact memOk_forget (hk _ (memOk_of hq1 (optOk_engineWrite h) rfl))

theorem memOk_copyBytes {n : Nat} {c : Cmd} {exp : Bool} (h : s.memOk) : (s.copyBytes n c exp).memOk := by
  unfold State.copyBytes
  dsimp only
  split
  next hq1 =>
    have hs1 : State.memOk _ := memOk_of hq1 (sourceOk_ite (sourceOk_expandSource h) (sourceOk_segSource (memOk_engineSpan h))) rfl
    exact memOk_copyWaits hs1
  next hq1 =>
    have hs1 : State.memOk _ := memOk_of hq1 (sourceOk_ite (sourceOk_expandSource h) (sourceOk_segSource (memOk_engineSpan h))) rfl
    exact memOk_stopCopy hs1
  next hq1 =>
    have hs1 : State.memOk _ := memOk_of hq1 (sourceOk_ite (sourceOk_expandSource h) (sourceOk_segSource (memOk_engineSpan h))) rfl
    exact memOk_copyOut (memOk_engineSpan hs1) (fun _ h1 => memOk_modStrand h1)

theorem sourceOk_chunkBytes {n id : Nat} {ks : List (Word × Nat)} (h : s.memOk) : sourceOk (s.chunkBytes n id ks) := by
  induction ks generalizing s with
  | nil => exact h
  | cons k ks ih =>
    have hr : (engineReader (.copy n id) n id s k.1 k.2).1.memOk := memOk_engineReader h
    unfold State.chunkBytes
    dsimp only
    split
    · exact hr
    · split
      · exact hr
      · exact hr
      · split
        next hq => exact memOk_of hq (ih hr) rfl
        next => exact ih hr

theorem memOk_copyBlock {n : Nat} {c : Cmd} {chk schk : Bool} (h : s.memOk) : (s.copyBlock n c chk schk).memOk := by
  unfold State.copyBlock
  dsimp only
  split
  next hq1 =>
    have hs1 : State.memOk _ := memOk_of hq1 (sourceOk_ite (sourceOk_expandSource h) (sourceOk_segSource (memOk_engineRows h))) rfl
    exact memOk_copyWaits hs1
  next hq1 =>
    have hs1 : State.memOk _ := memOk_of hq1 (sourceOk_ite (sourceOk_expandSource h) (sourceOk_segSource (memOk_engineRows h))) rfl
    exact memOk_stopCopy hs1
  next hq1 =>
    have hs1 : State.memOk _ := memOk_of hq1 (sourceOk_ite (sourceOk_expandSource h) (sourceOk_segSource (memOk_engineRows h))) rfl
    split
    next hq2 =>
      have hs2 : State.memOk _ := memOk_of hq2 (sourceOk_ite (sourceOk_chunkBytes hs1) hs1) rfl
      exact memOk_copyWaits hs2
    next hq2 =>
      have hs2 : State.memOk _ := memOk_of hq2 (sourceOk_ite (sourceOk_chunkBytes hs1) hs1) rfl
      exact memOk_stopCopy hs2
    next hq2 =>
      have hs2 : State.memOk _ := memOk_of hq2 (sourceOk_ite (sourceOk_chunkBytes hs1) hs1) rfl
      exact memOk_copyOut (memOk_engineRows hs2) (fun _ h1 => memOk_modStrand h1)

theorem outOk_execCopyGranule {n id : Nat} (h : s.memOk) : outOk (execCopyGranule n id s) := by
  unfold execCopyGranule
  refine outOk_event h ?_
  split
  · refine optOk_ite trivial ?_
    split
    · exact memOk_copyBytes h
    · exact memOk_copyBlock h
    · trivial
  · trivial

theorem memOk_lastSpans {n : Nat} {c : Cmd} (h : s.memOk) : (s.lastSpans n c).1.memOk := by
  unfold State.lastSpans
  dsimp only
  split
  · split
    · split
      · exact h
      · split
        next hq4 => exact memOk_of hq4 (sourceOk_expandSource h) rfl
        next hq4 => exact memOk_of hq4 (sourceOk_expandSource h) rfl
        next hq4 => exact memOk_of hq4 (sourceOk_expandSource h) rfl
    · exact h
  · split
    · split
      · exact h
      · split
        next hq4 => exact memOk_of hq4 (sourceOk_expandSource h) rfl
        next hq4 => exact memOk_of hq4 (sourceOk_expandSource h) rfl
        next hq4 => exact memOk_of hq4 (sourceOk_expandSource h) rfl
    · exact h
  · exact h

theorem memOk_ringEvent {c b : Nat} (h : s.memOk) : (s.ringEvent c b).memOk :=
  memOk_modStrand (memOk_modStrand h)

theorem memOk_endCopy {n : Nat} {c : Cmd} {spans : List (Nat × Nat)} (h : s.memOk) : (s.endCopy n c spans).memOk :=
  memOk_forget (memOk_modStrand (memOk_ite h (memOk_lastUse h)))

theorem memOk_toStage {n : Nat} {c : Cmd} {k : Nat} (h : s.memOk) : (s.toStage n c k).memOk :=
  memOk_modStrand h

theorem memOk_signalSem {n : Nat} {c : Cmd} (h : s.memOk) : (s.signalSem n c).memOk := by
  unfold State.signalSem
  dsimp only
  split
  · exact memOk_engineSpan h
  · exact memOk_stopCopy (memOk_engineSpan h)
  · exact memOk_ite (memOk_toStage (memOk_sendAll (memOk_engineSpan h))) (memOk_engineSpan h)

theorem optOk_claimSlot {n : Nat} {c : Cmd} {k : Nat} (h : s.memOk) : optOk (s.claimSlot n c k) := by
  unfold State.claimSlot
  refine optOk_ite (memOk_stopCopy h) ?_
  refine optOk_ite (memOk_stopCopy h) ?_
  refine optOk_ite trivial ?_
  dsimp only
  split
  · exact memOk_engineSpan h
  · exact memOk_stopCopy (memOk_engineSpan h)
  · split
    · exact memOk_engineSpan h
    next hq5 => exact memOk_toStage (memOk_modCore (memOk_of hq5 (optOk_engineWrite (memOk_engineSpan h)) rfl))

theorem memOk_publishSlot {n : Nat} {c : Cmd} {k : Nat} (h : s.memOk) : (s.publishSlot n c k).memOk :=
  memOk_ringEvent (memOk_modCore h)

theorem optOk_finishCopy {n : Nat} {c : Cmd} {kind : CompKind} {gc : Nat} (h : s.memOk) : optOk (s.finishCopy n c kind gc) := by
  unfold State.finishCopy
  refine optOk_ite trivial ?_
  dsimp only
  split
  · exact memOk_lastSpans h
  · split
    · split
      · exact memOk_engineSpan (memOk_lastSpans h)
      · exact memOk_stopCopy (memOk_engineSpan (memOk_lastSpans h))
      · split
        · exact memOk_engineSpan (memOk_lastSpans h)
        next hq5 =>
          have hs5 : State.memOk _ := memOk_of hq5 (optOk_engineWrite (memOk_engineSpan (memOk_lastSpans h))) rfl
          exact memOk_toStage hs5
    · exact memOk_endCopy (memOk_ite (memOk_publishSlot (memOk_lastSpans h)) (memOk_lastSpans h))
    · split
      · exact memOk_endCopy (memOk_lastSpans h)
      · exact memOk_signalSem (memOk_lastSpans h)
      · exact optOk_claimSlot (memOk_lastSpans h)

theorem outOk_execCopyRingCompletion {n id : Nat} (h : s.memOk) : outOk (execCopyRingCompletion n id s) := by
  unfold execCopyRingCompletion
  refine outOk_event h ?_
  split
  · split
    · exact optOk_finishCopy h
    · exact optOk_finishCopy h
    · trivial
  · trivial

/-! Hardware rings and barriers. -/

theorem memOk_setRing {k : Nat} {r : Ring} (h : s.memOk) : (s.setRing k r).memOk :=
  memOk_modCore h

theorem outOk_execRinit {g : Guard} {ring : BitVec 5} {ga gb : GReg} {sb : BitVec 12} (h : s.memOk) :
    outOk (execRinit g ring ga gb sb s) := by
  unfold execRinit
  refine outOk_syllable h (fun _ => ?_)
  refine resOk_ite (resOk_trapIf h) ?_
  refine resOk_ite (resOk_trapIf h) ?_
  dsimp only
  split
  · exact resOk_trapIf h
  · exact resOk_ite (resOk_trapIf h) (memOk_setRing h)

theorem outOk_ringForm {g : Guard} {ring : BitVec 5} {ds : List Dst} {k : Strand → Ring → Res} (h : s.memOk) (hk : ∀ a b, resOk (k a b)) :
    outOk (ringForm s g ring ds k) :=
  outOk_syllable h (fun _ => resOk_ite (resOk_trapIf h) (resOk_ite (resOk_trapIf h) (hk _ _)))

theorem resOk_sendBack {g : Guard} {gd : GReg} {v : Word} {flags : BitVec 6} {lat : Nat} (h : s.memOk) :
    resOk (sendBack s g gd v flags lat) :=
  memOk_setMe h

theorem outOk_execRpub {g : Guard} {o : RingPut} (h : s.memOk) : outOk (execRpub g o s) := by
  unfold execRpub
  refine outOk_ringForm h (fun _ _ => ?_)
  refine resOk_ite (resOk_trapIf h) ?_
  split
  · exact resOk_trapIf h
  · exact resOk_ite (resOk_trapIf h) (resOk_ite h (memOk_ringEvent (memOk_setRing (memOk_publish h))))

theorem outOk_execRrel {g : Guard} {o : RingPut} (h : s.memOk) : outOk (execRrel g o s) := by
  unfold execRrel
  refine outOk_ringForm h (fun _ _ => ?_)
  refine resOk_ite (resOk_trapIf h) ?_
  split
  · exact resOk_trapIf h
  · exact resOk_ite (resOk_trapIf h) (resOk_ite h (memOk_setRing (memOk_publish h)))

theorem memOk_setBar {c k : Nat} {b : Barrier} (h : s.memOk) : (s.setBar c k b).memOk :=
  memOk_modCore h

theorem memOk_forward {c k : Nat} {b : Barrier} (h : s.memOk) : (s.forward c k b).memOk :=
  memOk_ite h h

theorem memOk_flip {c k : Nat} (h : s.memOk) : (s.flip c k).memOk := by
  unfold State.flip
  exact memOk_with (memOk_ringEvent (memOk_setBar h))

theorem memOk_settleBar {c k n : Nat} (h : s.memOk) : (s.settleBar c k n).memOk := by
  induction n generalizing s with
  | zero => exact h
  | succ n ih => exact memOk_ite h (memOk_ite (memOk_forward (memOk_setBar h)) (ih (memOk_flip h)))

theorem memOk_arriveAt {c k d : Nat} (h : s.memOk) : (s.arriveAt c k d).memOk :=
  memOk_settleBar (memOk_setBar h)

theorem outOk_execBset {g : Guard} {bar : BitVec 7} {ga gb : GReg} (h : s.memOk) : outOk (execBset g bar ga gb s) := by
  unfold execBset
  refine outOk_syllable h (fun _ => ?_)
  exact resOk_ite (resOk_trapIf h) (resOk_ite (resOk_trapIf h) (resOk_ite (resOk_trapIf h) (memOk_setBar h)))

theorem outOk_barForm {g : Guard} {bar : BitVec 7} {ga : GReg} {ds : List Dst} {k : Barrier → BitVec 16 → Res} (h : s.memOk)
    (hk : ∀ a b, resOk (k a b)) : outOk (barForm s g bar ga ds k) := by
  unfold barForm
  refine outOk_syllable h (fun _ => ?_)
  refine resOk_ite (resOk_trapIf h) ?_
  refine resOk_ite (resOk_trapIf h) ?_
  exact resOk_ite (resOk_trapIf h) (hk _ _)

theorem outOk_execBarr {g : Guard} {scope : Scope} {bar : BitVec 7} {ga : GReg} (h : s.memOk) : outOk (execBarr g scope bar ga s) := by
  unfold execBarr
  refine outOk_barForm h (fun _ _ => ?_)
  exact resOk_ite (resOk_ite h (memOk_arriveAt (memOk_publish h))) (memOk_setMe h)

theorem resOk_waitOn {g : Guard} {gd : GReg} {b : Barrier} {q : BitVec 16} (h : s.memOk) : resOk (waitOn s g gd b q) := by
  unfold waitOn
  refine resOk_ite h ?_
  exact resOk_sendBack (memOk_ite h (memOk_setMe h))

theorem outOk_execBarw {g : Guard} {scope : Scope} {gd : GReg} {bar : BitVec 7} {ga : GReg} (h : s.memOk) :
    outOk (execBarw g scope gd bar ga s) := by
  unfold execBarw
  refine outOk_barForm h (fun _ _ => ?_)
  refine resOk_ite ?_ ?_
  · dsimp only
    split
    next hq3 => exact memOk_setMe (memOk_of hq3 (resOk_waitOn h) rfl)
    · exact resOk_waitOn h
  · refine resOk_ite ?_ ?_
    · refine resOk_ite h ?_
      dsimp only
      split
      next hq5 =>
        have hs5 : State.memOk _ := memOk_of hq5 (resOk_waitOn (memOk_arriveAt (memOk_publish (memOk_setMe h)))) rfl
        exact memOk_setMe hs5
      · exact resOk_waitOn (memOk_arriveAt (memOk_publish (memOk_setMe h)))
    · dsimp only
      split
      next hq4 => exact memOk_setMe (memOk_of hq4 (resOk_waitOn (memOk_setMe h)) rfl)
      · exact resOk_waitOn (memOk_setMe h)

theorem outOk_execBstat {g : Guard} {gd : GReg} {bar : BitVec 7} {w : BitVec 2} (h : s.memOk) : outOk (execBstat g gd bar w s) := by
  unfold execBstat
  refine outOk_syllable h (fun _ => ?_)
  refine resOk_ite (resOk_trapIf h) ?_
  exact resOk_sendBack h

theorem outOk_execBarrierParentArrival {k : Nat} (h : s.memOk) : outOk (execBarrierParentArrival k s) := by
  unfold execBarrierParentArrival
  refine outOk_event h ?_
  split
  · refine optOk_ite trivial ?_
    refine optOk_ite (memOk_with h) ?_
    refine optOk_ite h ?_
    refine optOk_ite trivial ?_
    exact memOk_arriveAt (memOk_setBar h)
  · trivial

theorem memOk_flipDown {c k : Nat} {ph : BitVec 16} (h : s.memOk) : (s.flipDown c k ph).memOk :=
  memOk_ite (memOk_settleBar (memOk_flip h)) h

theorem outOk_execBarrierFlipDown {k : Nat} (h : s.memOk) : outOk (execBarrierFlipDown k s) := by
  unfold execBarrierFlipDown
  refine outOk_event h ?_
  split
  · refine optOk_ite trivial ?_
    exact optOk_ite (memOk_with h) (memOk_flipDown h)
  · trivial
end Keeps

end Sys2Proof.Machine
end

section
/-! PROOFS. Atomics and order, ranges, fills, moves and banks keep the form of every memory. -/

namespace Sys2Proof.Machine

section Keeps
variable {s : State}

/-! Atomics, reductions, semaphores and ordering. -/

theorem resOk_sendOne {r : Req} {f : Option (Dst × FVal × LandForm)} (h : s.memOk) : resOk (sendOne s r f) := by
  unfold sendOne
  refine resOk_ite h ?_
  dsimp only
  split
  · exact memOk_send (memOk_ite (memOk_chipWake h) h)
  · exact memOk_send (memOk_setMe (memOk_ite (memOk_chipWake h) h))

theorem resOk_object {p : Perm} {a : Word} {n : Nat} {k : State → Seg → Res} (h : s.memOk)
    (hk : ∀ t : State, t.memOk → ∀ a, resOk (k t a)) : resOk (object s p a n k) := by
  unfold object
  refine resOk_checked (memOk_check h) (fun _ h1 _ => ?_)
  split
  · exact hk _ h1 _
  · exact h1

theorem resOk_atomic {op : AtomOp} {a : Word} {n : Nat} {b c : BitVec 128} {sc : Scope} {ord : AOrd}
    {f : Option (Dst × FVal × LandForm)} (h : s.memOk) : resOk (atomic s op a n b c sc ord f) := by
  unfold atomic
  refine resOk_object h (fun _ h1 _ => ?_)
  exact resOk_sendOne h1

theorem outOk_atomicForm {g : Guard} {op : AtomOp} {o : AForm} {gc : Option GReg} (h : s.memOk) : outOk (atomicForm s g op o gc) := by
  unfold atomicForm
  refine outOk_syllable h (fun _ => ?_)
  refine resOk_ite (resOk_trapIf h) ?_
  refine resOk_ite (resOk_trapIf h) ?_
  exact resOk_atomic h

theorem outOk_execAcas2 {g : Guard} {gd ga gb gc : GReg} {scope : Scope} {ord : AOrd} (h : s.memOk) :
    outOk (execAcas2 g gd ga gb gc scope ord s) := by
  unfold execAcas2
  refine outOk_syllable h (fun _ => ?_)
  exact resOk_ite (resOk_trapIf h) (resOk_ite (resOk_trapIf h) (resOk_atomic h))

theorem resOk_handle {r : SReg} {wr : Bool} {k : Nat → Nat → Res} (h : s.memOk) (hk : ∀ a b, resOk (k a b)) :
    resOk (handle s r wr k) := by
  unfold handle
  refine resOk_ite (resOk_trapIf h) ?_
  refine resOk_ite (resOk_trapIf h) ?_
  exact resOk_ite (resOk_trapIf h) (hk _ _)

theorem outOk_execRedx {g : Guard} {ga : GReg} {c : RedSrc} (h : s.memOk) : outOk (execRedx g ga c s) := by
  unfold execRedx
  split
  · refine outOk_syllable h (fun _ => ?_)
    refine resOk_handle h (fun _ _ => ?_)
    refine resOk_ite (resOk_trapIf h) ?_
    exact resOk_sendOne h
  · refine outOk_syllable h (fun _ => ?_)
    refine resOk_handle h (fun _ _ => ?_)
    split
    · exact memOk_setMe h
    · exact h
    · refine resOk_ite (resOk_trapIf h) ?_
      exact resOk_orHold h (resOk_sendOne (memOk_setMe h))

theorem outOk_execRedfOpen {g : Guard} {ga : GReg} {anchor : BitVec 9} (h : s.memOk) : outOk (execRedfOpen g ga anchor s) :=
  outOk_syllable h (fun _ => resOk_handle h (fun _ _ => resOk_ite (resOk_trapIf h) (resOk_sendOne h)))

theorem outOk_redfForm {g : Guard} {gd ga : GReg} {wr : Bool} {op : ReqOp} (h : s.memOk) : outOk (redfForm s g gd ga wr op) :=
  outOk_syllable h (fun _ => resOk_handle h (fun _ _ => resOk_sendOne h))

theorem outOk_execSems {g : Guard} {scope : Scope} {ga gb : GReg} (h : s.memOk) : outOk (execSems g scope ga gb s) :=
  outOk_syllable h (fun _ => resOk_ite (resOk_trapIf h) (resOk_ite (resOk_trapIf h) (resOk_object h (fun _ h1 _ => resOk_sendOne h1))))

theorem outOk_execSemw {g : Guard} {scope : Scope} {gd ga gb : GReg} {eq : Bool} (h : s.memOk) :
    outOk (execSemw g scope gd ga gb eq s) := by
  unfold execSemw
  refine outOk_syllable h (fun _ => ?_)
  refine resOk_ite (resOk_trapIf h) ?_
  split
  · split
    · exact memOk_setMe (memOk_dropWaiter h)
    · exact h
  · refine resOk_ite h ?_
    refine resOk_object h (fun _ h1 _ => ?_)
    split
    next hq5 => exact memOk_of hq5 (resOk_sendOne h1) rfl
    · exact resOk_sendOne h1

theorem outOk_execSemaphoreWaiterWake {id : Nat} (h : s.memOk) : outOk (execSemaphoreWaiterWake id s) := by
  unfold execSemaphoreWaiterWake
  refine outOk_event h ?_
  split
  · exact optOk_ite trivial h
  · trivial

theorem memOk_sendOrder {cum : Bool} (h : s.memOk) : (s.sendOrder cum).memOk :=
  memOk_ite (memOk_send h) h

theorem outOk_execStrel {g : Guard} {scope : Scope} {gd ga : GReg} {off : BitVec 14} {w : Wd} (h : s.memOk) :
    outOk (execStrel g scope gd ga off w s) :=
  outOk_syllable h (fun _ => resOk_ite (resOk_trapIf h) (resOk_ite (resOk_trapIf h) (resOk_scalarStore h)))

theorem outOk_execRouterMerge {id id' : Nat} (h : s.memOk) : outOk (execRouterMerge id id' s) := by
  unfold execRouterMerge
  refine outOk_event h ?_
  split
  · split
    · refine optOk_ite ?_ trivial
      exact memOk_setReq h
    · trivial
  · trivial

theorem outOk_execRequestResend {id : Nat} (h : s.memOk) : outOk (execRequestResend id s) := by
  unfold execRequestResend
  refine outOk_event h ?_
  split
  · exact optOk_ite (memOk_setReq h) (optOk_ite (optOk_map (fun _ => memOk_setReq h)) trivial)
  · trivial

/-! Ranges. -/

theorem memOk_writeZoned {pa : Nat} {bs : List Byte} (h : s.memOk) : (s.writeZoned pa bs).memOk :=
  memOk_ite (memOk_writeAt h) h

theorem memOk_putRec {e : DirEntry} {i : Nat} {r : RangeRec} (h : s.memOk) : (s.putRec e i r).memOk :=
  memOk_writeZoned h

theorem memOk_putCount {asid : BitVec 16} {e : DirEntry} {n : Nat} (h : s.memOk) : (s.putCount asid e n).memOk :=
  memOk_writeZoned h

theorem memOk_rewalk {asid : BitVec 16} (h : s.memOk) : (s.rewalk asid).memOk :=
  memOk_foldl h (fun _ h1 _ => memOk_forget h1)

theorem editedOk_splice {src : Src} {asid : BitVec 16} {e : DirEntry} {i drop : Nat} {rs : List RangeRec} (h : s.memOk) :
    editedOk (s.splice src asid e i drop rs) := by
  unfold State.splice
  dsimp only
  split
  · exact memOk_ite_fst h (memOk_readZoned h)
  · trivial
  · exact memOk_ite_fst h (memOk_readZoned h)
  · refine editedOk_ite ?_ ?_
    · exact memOk_ite (memOk_ite_fst h (memOk_readZoned h)) (memOk_forget (memOk_ite_fst h (memOk_readZoned h)))
    · exact memOk_putCount (memOk_ite (memOk_writeZoned (memOk_rewalk (memOk_ite_fst h (memOk_readZoned h))))
        (memOk_writeZoned (memOk_writeZoned (memOk_rewalk (memOk_ite_fst h (memOk_readZoned h))))))

theorem outOk_editForm {g : Guard} {o : RgForm} {k : State → Src → BitVec 16 → Nat → DirEntry → RangeRec → Nat → Edited} (h : s.memOk)
    (hk : ∀ t : State, t.memOk → ∀ a b c d e f, editedOk (k t a b c d e f)) : outOk (editForm s g o k) := by
  unfold editForm
  refine outOk_syllable h (fun _ => ?_)
  refine resOk_ite (resOk_trapIf h) ?_
  refine resOk_ite (resOk_trapIf h) ?_
  refine resOk_ite (resOk_trapIf h) ?_
  refine resOk_ite h ?_
  refine resOk_ite ?_ ?_
  · exact memOk_setMe (memOk_forget h)
  · dsimp only
    split
    · exact memOk_walk h
    · exact resOk_ite (resOk_trapIf (memOk_walk h)) (memOk_setMe (memOk_forget (memOk_walk h)))
    · split
      · exact resOk_ite (memOk_setMe (memOk_forget (memOk_walk h))) (memOk_forget (memOk_walk h))
      next hq8 => exact memOk_of hq8 (hk _ (memOk_walk h) _ _ _ _ _ _) rfl
      next hq8 => exact resOk_trapIf (memOk_of hq8 (hk _ (memOk_walk h) _ _ _ _ _ _) rfl)
      next hq8 => exact memOk_setMe (memOk_forget (memOk_of hq8 (hk _ (memOk_walk h) _ _ _ _ _ _) rfl))

theorem outOk_execRgsplit {g : Guard} {o : RgForm} (h : s.memOk) : outOk (execRgsplit g o s) := by
  unfold execRgsplit
  refine outOk_editForm h (fun _ h1 _ _ _ _ _ _ => ?_)
  exact editedOk_ite trivial (editedOk_ite trivial (editedOk_ite trivial (editedOk_splice h1)))

theorem outOk_execRgmerge {g : Guard} {o : RgForm} (h : s.memOk) : outOk (execRgmerge g o s) := by
  unfold execRgmerge
  refine outOk_editForm h (fun _ h1 _ _ _ _ _ _ => ?_)
  refine editedOk_ite trivial ?_
  dsimp only
  split
  · exact memOk_ite_fst (memOk_readRec h1) h1
  · exact editedOk_ite (memOk_ite_fst (memOk_readRec h1) h1) trivial
  · split
    · trivial
    · exact editedOk_ite trivial (editedOk_ite trivial (editedOk_ite trivial (editedOk_splice (memOk_ite_fst (memOk_readRec h1) h1))))

theorem outOk_execRgpin {g : Guard} {o : RgForm} {un : Bool} (h : s.memOk) : outOk (execRgpin g o un s) :=
  outOk_editForm h (fun _ h1 _ _ _ _ _ _ => editedOk_ite trivial
    (editedOk_ite (memOk_ite h1 (memOk_forget h1)) (memOk_putRec (memOk_rewalk h1))))

theorem memOk_dropAsked {sh : Shoot} {p : Party} (h : s.memOk) : (s.dropAsked sh p).memOk := by
  unfold State.dropAsked
  refine memOk_ite ?_ h
  exact memOk_withdrawAll h

theorem memOk_receive {sh : Shoot} {p : Party} (h : s.memOk) : (s.receive sh p).memOk := by
  unfold State.receive
  exact memOk_with (memOk_setRtab (memOk_foldl (memOk_forget (memOk_dropAsked h)) (fun _ h1 _ => memOk_forget h1)))

theorem memOk_acknowledge {sh : Shoot} {p : Party} (h : s.memOk) : (s.acknowledge sh p).memOk := by
  unfold State.acknowledge
  refine memOk_ite h ?_
  exact memOk_with (memOk_setRtab h)

theorem memOk_shoot {asid : BitVec 16} {span : Option (Nat × Nat)} {strand : Option Nat} {todo : List Party} (h : s.memOk) :
    (s.shoot asid span strand todo).memOk :=
  h

theorem outOk_execRginv {g : Guard} {dv all : Bool} {ga gb : GReg} (h : s.memOk) : outOk (execRginv g dv all ga gb s) := by
  unfold execRginv
  refine outOk_syllable h (fun _ => ?_)
  refine resOk_ite (resOk_trapIf h) ?_
  refine resOk_ite (resOk_trapIf h) ?_
  refine resOk_ite h ?_
  dsimp only
  split
  · exact resOk_ite (memOk_ite h (memOk_acknowledge h)) (memOk_with (memOk_ite h (memOk_acknowledge h)))
  · split
    · exact memOk_ite (memOk_shoot h) (memOk_receive (memOk_shoot h))
    · exact memOk_shoot h

theorem outOk_execShootdown {id party : Nat} (h : s.memOk) : outOk (execShootdown id party s) := by
  unfold execShootdown
  refine outOk_event h ?_
  split
  · refine optOk_ite trivial ?_
    exact memOk_with (memOk_acknowledge (memOk_ite h (memOk_receive h)))
  · trivial

theorem optOk_fillEntry {p : Party} {slot : Nat} {asid : BitVec 16} {i : Nat} {r : RangeRec} (h : s.memOk) :
    optOk (s.fillEntry p slot asid i r) := by
  unfold State.fillEntry
  refine optOk_ite (memOk_setRtab h) ?_
  split
  · exact optOk_ite trivial (memOk_setRtab h)
  · trivial

theorem memOk_endWalk {w : Walk} (h : s.memOk) : (s.endWalk w).memOk :=
  memOk_forget h

theorem optOk_goWalk {w : Walk} {slot : Nat} (h : s.memOk) : optOk (s.goWalk w slot) := by
  unfold State.goWalk
  refine optOk_ite ?_ ?_
  · refine optOk_ite ?_ trivial
    dsimp only
    exact memOk_deny (memOk_endWalk h)
  · dsimp only
    split
    · split
      · exact memOk_dirEntry h
      · exact memOk_deny (memOk_endWalk (memOk_dirEntry h))
      · split
        next hq4 => exact memOk_endWalk (memOk_of hq4 (optOk_fillEntry (memOk_dirEntry h)) rfl)
        · exact memOk_dirEntry h
    · split
      · split
        · exact memOk_acceptRec (memOk_dirEntry h)
        · exact memOk_deny (memOk_endWalk (memOk_acceptRec (memOk_dirEntry h)))
        · split
          next hq5 =>
            have hs5 : State.memOk _ := memOk_of hq5 (optOk_fillEntry (memOk_acceptRec (memOk_dirEntry h))) rfl
            exact memOk_endWalk hs5
          · exact memOk_acceptRec (memOk_dirEntry h)
      · refine optOk_ite ?_ (memOk_askTagged (memOk_forget (memOk_with (memOk_dirEntry h))))
        split
        · exact memOk_walk (memOk_dirEntry h)
        · exact memOk_deny (memOk_endWalk (memOk_walk (memOk_dirEntry h)))
        · split
          next hq6 =>
            have hs6 : State.memOk _ := memOk_of hq6 (optOk_fillEntry (memOk_walk (memOk_dirEntry h))) rfl
            exact memOk_endWalk hs6
          · exact memOk_walk (memOk_dirEntry h)

theorem outOk_execWalkDeadline {id : Nat} (h : s.memOk) : outOk (execWalkDeadline id s) := by
  unfold execWalkDeadline
  refine outOk_event h ?_
  split
  · exact optOk_ite h trivial
  · trivial

theorem outOk_execRgprobe {g : Guard} {gd ga : GReg} {w : BitVec 2} (h : s.memOk) : outOk (execRgprobe g gd ga w s) := by
  unfold execRgprobe
  refine outOk_syllable h (fun _ => ?_)
  refine resOk_ite (resOk_trapIf h) ?_
  refine resOk_ite (memOk_setMe h) ?_
  split
  · dsimp only
    split
    · exact resOk_ite (resOk_trapIf (memOk_askWalk h)) (memOk_setMe (memOk_askWalk h))
    · exact memOk_askWalk h
  · refine resOk_ite (memOk_setMe h) ?_
    refine resOk_ite (memOk_setMe h) ?_
    refine resOk_ite (memOk_setMe h) ?_
    refine resOk_ite (memOk_setMe h) ?_
    dsimp only
    split
    · exact memOk_mapBit h
    · exact resOk_ite (resOk_trapIf (memOk_mapped (memOk_mapBit h))) (memOk_setMe (memOk_mapped (memOk_mapBit h)))
    · exact memOk_setMe (memOk_mapped (memOk_mapBit h))

theorem memOk_filled {n : Nat} (h : s.memOk) : (s.filled n).memOk :=
  memOk_ite h (memOk_modStrand h)

theorem outOk_execRgfill {g : Guard} {ga gb : GReg} (h : s.memOk) : outOk (execRgfill g ga gb s) := by
  unfold execRgfill
  refine outOk_syllable h (fun _ => ?_)
  refine resOk_ite (resOk_trapIf h) ?_
  exact memOk_filled (memOk_ite h h)

theorem memOk_wantGranule {src : Src} {w : Want} {hfill : Bool} {gva : Nat} (h : s.memOk) : (s.wantGranule src w hfill gva).memOk := by
  unfold State.wantGranule
  exact memOk_ite (memOk_askFill h) (memOk_ask (memOk_with (memOk_askFill h)))

theorem memOk_goWant {w : Want} (h : s.memOk) : (s.goWant w).memOk := by
  unfold State.goWant
  dsimp only
  split
  · split
    · refine memOk_ite ?_ ?_
      · exact memOk_with (memOk_mapped (memOk_forget (memOk_askWalk h)))
      · exact memOk_filled (memOk_with (memOk_mapped (memOk_forget (memOk_askWalk h))))
    · exact memOk_askWalk h
  · refine memOk_ite ?_ ?_
    · exact memOk_ite (memOk_with (memOk_mapped (memOk_forget h))) (memOk_filled (memOk_with (memOk_mapped (memOk_forget h))))
    · refine memOk_ite ?_ ?_
      · exact memOk_ite (memOk_with (memOk_mapped (memOk_forget h))) (memOk_filled (memOk_with (memOk_mapped (memOk_forget h))))
      · split
        · exact memOk_mapBit h
        · refine memOk_ite ?_ ?_
          · exact memOk_with (memOk_mapped (memOk_forget (memOk_mapBit h)))
          · exact memOk_filled (memOk_with (memOk_mapped (memOk_forget (memOk_mapBit h))))
        · refine memOk_ite ?_ ?_
          · exact memOk_with (memOk_mapped (memOk_forget (memOk_mapBit h)))
          · exact memOk_filled (memOk_with (memOk_mapped (memOk_forget (memOk_mapBit h))))
        · split
          · exact memOk_dirEntry (memOk_mapBit h)
          · refine memOk_ite ?_ ?_
            · exact memOk_with (memOk_mapped (memOk_forget (memOk_dirEntry (memOk_mapBit h))))
            · exact memOk_filled (memOk_with (memOk_mapped (memOk_forget (memOk_dirEntry (memOk_mapBit h)))))
          · refine memOk_ite ?_ ?_
            · exact memOk_with (memOk_mapped (memOk_forget (memOk_wantGranule (memOk_dirEntry (memOk_mapBit h)))))
            · exact memOk_filled (memOk_with (memOk_mapped (memOk_forget (memOk_wantGranule (memOk_dirEntry (memOk_mapBit h))))))

theorem outOk_execRangeWalk {id slot : Nat} (h : s.memOk) : outOk (execRangeWalk id slot s) := by
  unfold execRangeWalk
  refine outOk_event h ?_
  split
  · exact optOk_goWalk h
  · exact optOk_map (fun _ => memOk_goWant h)

/-! Residency fills. -/

theorem memOk_readTranslated {src : Src} {m ta len : Nat} (h : s.memOk) : (s.readTranslated src m ta len).1.memOk := by
  unfold State.readTranslated
  split
  · exact h
  · dsimp only
    exact memOk_ite_fst h (memOk_getAt h)

theorem memOk_translatedReader {src : Src} {m : Nat} {a : Word} {len : Nat} (h : s.memOk) : (translatedReader src m s a len).1.memOk := by
  unfold translatedReader
  split
  · exact h
  · dsimp only
    exact memOk_getSegs h

theorem memOk_backing {src : Src} {m : Nat} {bs : List Byte} {va n : Nat} (h : s.memOk) : (s.backing src m bs va n).1.memOk := by
  have hx (a : Word) (lo hi : Nat) : (expand (translatedReader src m) s a lo hi).1.memOk :=
    memOk_expand h fun _ ht _ _ => memOk_translatedReader ht
  exact memOk_ite_fst h (memOk_ite_fst (memOk_readTranslated h) (memOk_ite_fst h (hx _ _ _)))

theorem memOk_endFill {f : Fill} {cause : Option (BitVec 7)} (h : s.memOk) : (s.endFill f cause).memOk := by
  unfold State.endFill
  refine memOk_foldl ?_ (fun _ h1 _ => memOk_filled h1)
  split
  · exact memOk_report (memOk_deny (memOk_forget h))
  · exact memOk_forget h

theorem memOk_setFill {f : Fill} (h : s.memOk) : (s.setFill f).memOk :=
  h

theorem memOk_fillRange {f : Fill} (h : s.memOk) : (s.fillRange f).1.memOk := by
  unfold State.fillRange
  split
  · exact h
  · split
    · exact h
    · dsimp only
      exact memOk_askWalk h

theorem memOk_descriptor {f : Fill} {r : RangeRec} (h : s.memOk) : (s.descriptor f r).1.memOk := by
  unfold State.descriptor
  dsimp only
  split
  · exact h
  · split
    · exact memOk_dirEntry h
    · exact memOk_dirEntry h
    · exact memOk_ite_fst (memOk_dirEntry h) (memOk_readTranslated (memOk_dirEntry h))

theorem memOk_fillPart {f : Fill} {r : RangeRec} {n : Nat} (h : s.memOk) : (s.fillPart f r n).memOk := by
  unfold State.fillPart
  dsimp only
  split
  · exact memOk_descriptor h
  · exact memOk_endFill (memOk_descriptor h)
  · split
    · exact memOk_backing (memOk_descriptor h)
    · exact memOk_endFill (memOk_backing (memOk_descriptor h))
    · exact memOk_endFill (memOk_backing (memOk_descriptor h))
    · refine memOk_ite (memOk_endFill (memOk_backing (memOk_descriptor h))) ?_
      split
      next hq4 =>
        have hs4 : State.memOk _ := memOk_of hq4 (optOk_putSegs (memOk_backing (memOk_descriptor h))) rfl
        exact memOk_setFill (memOk_forget hs4)
      · exact memOk_backing (memOk_descriptor h)

theorem memOk_fillMap {f : Fill} {r : RangeRec} (h : s.memOk) : (s.fillMap f r).memOk := by
  unfold State.fillMap
  refine memOk_ite (memOk_endFill h) ?_
  refine memOk_ite (memOk_endFill h) ?_
  exact memOk_setFill (memOk_send h)

theorem memOk_goFill {f : Fill} (h : s.memOk) : (s.goFill f).memOk := by
  unfold State.goFill
  dsimp only
  split
  · exact memOk_fillRange h
  · exact memOk_endFill (memOk_fillRange h)
  · refine memOk_ite (memOk_ite (memOk_endFill h) (memOk_setFill h)) ?_
    exact memOk_ite (memOk_fillPart h) (memOk_ite h (memOk_ite (memOk_endFill h) (memOk_fillMap h)))

theorem outOk_execFillComplete {id : Nat} (h : s.memOk) : outOk (execFillComplete id s) := by
  unfold execFillComplete
  refine outOk_event h ?_
  split
  · exact optOk_ite trivial (memOk_goFill h)
  · trivial

theorem outOk_execFillDeadline {id : Nat} (h : s.memOk) : outOk (execFillDeadline id s) := by
  unfold execFillDeadline
  refine outOk_event h ?_
  split
  · refine optOk_ite trivial ?_
    dsimp only
    split
    · exact memOk_fillRange h
    · split
      · exact memOk_descriptor (memOk_fillRange h)
      · exact optOk_ite (memOk_descriptor (memOk_fillRange h)) (memOk_endFill (memOk_descriptor (memOk_fillRange h)))
  · trivial

/-! The compactors. -/

theorem memOk_moveHead {d : Nat} (h : s.memOk) : (s.moveHead d).1.memOk := by
  unfold State.moveHead
  split
  · exact h
  · dsimp only
    exact memOk_readZoned h

theorem memOk_moveTaken {d : Nat} (h : s.memOk) : (s.moveTaken d).memOk :=
  memOk_forget (memOk_setMgr h)

theorem memOk_moveStatus {d compl status gen : Nat} (h : s.memOk) : (s.moveStatus d compl status gen).memOk :=
  memOk_ite (memOk_sendAll h) h

theorem memOk_retiredList {src : Src} (h : s.memOk) : (s.retiredList src).1.memOk := by
  unfold State.retiredList
  dsimp only
  exact memOk_ite_fst h (memOk_readZoned h)

theorem memOk_retireGranule {g : Nat} (h : s.memOk) : (s.retireGranule g).memOk := by
  unfold State.retireGranule
  exact memOk_with (memOk_ite h (memOk_setMgr (memOk_writeZoned h)))

theorem memOk_dirRec {d : Nat} {asid : BitVec 16} {va : Nat} (h : s.memOk) : (s.dirRec d asid va).1.memOk := by
  unfold State.dirRec
  dsimp only
  split
  · exact memOk_askWalk h
  · split
    · exact memOk_dirEntry h
    · split
      · exact memOk_readRec (memOk_dirEntry h)
      · exact memOk_ite_fst (memOk_readRec (memOk_dirEntry h)) (memOk_setRtab (memOk_forget (memOk_readRec (memOk_dirEntry h))))

theorem memOk_moveCheck {d : Nat} {bs : List Byte} {exact : Bool} (h : s.memOk) : (s.moveCheck d bs exact).1.memOk := by
  unfold State.moveCheck
  dsimp only
  exact memOk_ite_fst h (memOk_ite_fst h (memOk_dirRec h))

theorem memOk_startMove {d : Nat} {retire : Bool} {asid : BitVec 16} {r : RangeRec} {newOff : Word} {granule compl : Nat} (h : s.memOk) :
    (s.startMove d retire asid r newOff granule compl).memOk := by
  unfold State.startMove
  exact memOk_with (memOk_shoot h)

theorem memOk_moveEnds {d compl status gen : Nat} (h : s.memOk) : (s.moveEnds d compl status gen).memOk :=
  memOk_moveStatus (memOk_moveTaken h)

theorem memOk_goMoveRequest {d : Nat} {bs : List Byte} (h : s.memOk) : (s.goMoveRequest d bs).memOk := by
  unfold State.goMoveRequest
  dsimp only
  split
  · exact memOk_moveCheck h
  · exact memOk_moveEnds (memOk_moveCheck h)
  · split
    · exact memOk_retiredList (memOk_moveCheck h)
    · refine memOk_ite (memOk_moveEnds (memOk_retiredList (memOk_moveCheck h))) ?_
      refine memOk_ite ?_ ?_
      · exact memOk_ite (memOk_retiredList (memOk_moveCheck h)) (memOk_forget (memOk_retiredList (memOk_moveCheck h)))
      · exact memOk_startMove (memOk_moveTaken (memOk_putRec (memOk_rewalk (memOk_retiredList (memOk_moveCheck h)))))

theorem memOk_spare {src : Src} {z n : Nat} (h : s.memOk) : (s.spare src z n).1.memOk := by
  unfold State.spare
  dsimp only
  exact memOk_ite_fst h (memOk_readZoned h)

theorem memOk_goRetireRequest {d : Nat} {bs : List Byte} (h : s.memOk) : (s.goRetireRequest d bs).memOk := by
  unfold State.goRetireRequest
  dsimp only
  split
  · exact memOk_moveCheck h
  · exact memOk_moveEnds (memOk_moveCheck h)
  · refine memOk_ite (memOk_moveEnds (memOk_moveCheck h)) ?_
    refine memOk_ite (memOk_moveEnds (memOk_moveCheck h)) ?_
    split
    · exact memOk_spare (memOk_retiredList (memOk_moveCheck h))
    · exact memOk_spare (memOk_retiredList (memOk_moveCheck h))
    · exact memOk_moveEnds (memOk_spare (memOk_retiredList (memOk_moveCheck h)))
    · refine memOk_ite ?_ ?_
      · refine memOk_ite ?_ ?_
        · exact memOk_spare (memOk_retiredList (memOk_moveCheck h))
        · exact memOk_forget (memOk_spare (memOk_retiredList (memOk_moveCheck h)))
      · refine memOk_ite (memOk_moveEnds (memOk_writeZoned (memOk_spare (memOk_retiredList (memOk_moveCheck h))))) ?_
        split
        · exact memOk_moveEnds (memOk_spare (memOk_retiredList (memOk_moveCheck h)))
        next hq7 =>
          have hs7 : State.memOk _ := memOk_of hq7 (editedOk_splice (memOk_spare (memOk_retiredList (memOk_moveCheck h)))) rfl
          exact hs7
        next hq7 =>
          have hs7 : State.memOk _ := memOk_of hq7 (editedOk_splice (memOk_spare (memOk_retiredList (memOk_moveCheck h)))) rfl
          exact memOk_moveEnds hs7
        next hq7 =>
          have hs7 : State.memOk _ := memOk_of hq7 (editedOk_splice (memOk_spare (memOk_retiredList (memOk_moveCheck h)))) rfl
          exact memOk_startMove (memOk_moveTaken (memOk_writeZoned hs7))

theorem optOk_moveNext {d : Nat} {retire : Bool} (h : s.memOk) : optOk (s.moveNext d retire) := by
  unfold State.moveNext
  refine optOk_ite trivial ?_
  dsimp only
  split
  · exact memOk_moveHead h
  · exact optOk_ite trivial (memOk_ite (memOk_goRetireRequest (memOk_moveHead h)) (memOk_goMoveRequest (memOk_moveHead h)))

theorem memOk_copyLines {src dst k : Nat} (h : s.memOk) : (s.copyLines src dst k).memOk := by
  induction k generalizing s src dst with
  | zero => exact h
  | succ k ih => exact ih (memOk_writeAt (memOk_readDram h))

theorem memOk_moveStops {d : Nat} {v : Move'} (h : s.memOk) : (s.moveStops d v).memOk := by
  unfold State.moveStops
  exact memOk_with (memOk_moveStatus (memOk_forget h))

theorem memOk_moveRec {d : Nat} {v : Move'} (h : s.memOk) : (s.moveRec d v).1.memOk := by
  unfold State.moveRec
  dsimp only
  exact memOk_dirRec h

theorem memOk_redirect {asid : BitVec 16} {va old new : Nat} (h : s.memOk) : (s.redirect asid va old new).memOk :=
  h

theorem memOk_settleGranule {pa : Nat} (h : s.memOk) : (s.settleGranule pa).memOk :=
  memOk_foldl h (fun _ h1 _ => memOk_settleAt h1)

/-- The bytes of a granule have been moved, whatever state that comes to. -/
theorem memOk_granuleMoved {p d : Nat} {mv : Tbl Move'} (h : s.memOk) :
    ({ (s.mapped p).forget (compactor d) with moves := mv } : State).memOk :=
  memOk_with (memOk_forget (memOk_mapped h))

theorem optOk_goGranule {d : Nat} {v : Move'} (h : s.memOk) : optOk (s.goGranule d v) := by
  have hq : (s.moveRec d v).1.memOk := memOk_moveRec h
  unfold State.goGranule
  dsimp only
  generalize s.moveRec d v = q at hq ⊢
  split
  · exact hq
  · exact memOk_moveStops hq
  next r _ _ =>
    refine optOk_ite trivial (optOk_ite (memOk_mapped hq) ?_)
    have hb : (if r.partialRes then q.1.mapBit (276 + d) r (r.granule (r.base + 2 ^ 16 * v.m)) else (q.1, .ok true)).1.memOk :=
      memOk_ite_fst (memOk_mapBit hq) hq
    generalize (if r.partialRes then q.1.mapBit (276 + d) r (r.granule (r.base + 2 ^ 16 * v.m)) else (q.1, .ok true)) = b at hb ⊢
    split
    · exact hb
    · exact memOk_granuleMoved hb
    · exact memOk_granuleMoved (memOk_settleGranule (memOk_redirect (memOk_copyLines hb)))

theorem outOk_execCompactorGranule {d : Nat} (h : s.memOk) : outOk (execCompactorGranule d s) := by
  unfold execCompactorGranule
  refine outOk_event h ?_
  split
  · exact optOk_ite (optOk_goGranule h) trivial
  · trivial

theorem outOk_execMoveFinish {d : Nat} (h : s.memOk) : outOk (execMoveFinish d s) := by
  unfold execMoveFinish
  refine outOk_event h ?_
  split
  · refine optOk_ite ?_ ?_
    · dsimp only
      exact memOk_ite (memOk_retireGranule (memOk_with (memOk_moveStatus h))) (memOk_with (memOk_moveStatus h))
    · dsimp only
      split
      · exact memOk_moveRec h
      · exact memOk_moveStops (memOk_moveRec h)
      · refine optOk_ite trivial ?_
        refine optOk_ite ?_ ?_
        · exact memOk_ite (memOk_moveRec h) (memOk_forget (memOk_moveRec h))
        · exact memOk_with (memOk_shoot (memOk_forget (memOk_putRec (memOk_rewalk (memOk_moveRec h)))))
  · trivial

/-! Bank power. -/

theorem outOk_execBankoff {g : Guard} {m : BitVec 8} (h : s.memOk) : outOk (execBankoff g m s) := by
  unfold execBankoff
  refine outOk_syllable h (fun _ => ?_)
  exact resOk_ite h (memOk_setMe h)

theorem outOk_execBankIdle {n k : Nat} (h : s.memOk) : outOk (execBankIdle n k s) := by
  unfold execBankIdle
  refine outOk_event h ?_
  exact optOk_ite (memOk_setStrand h) trivial

theorem outOk_execBankWake {b : BankRef} (h : s.memOk) : outOk (execBankWake b s) := by
  unfold execBankWake
  refine outOk_event h ?_
  split
  · dsimp only
    split
    · exact optOk_ite (memOk_setStrand h) trivial
    · trivial
  · dsimp only
    split
    · exact optOk_ite trivial (memOk_settleBank (memOk_modCore h))
    · trivial

theorem outOk_maskForm {g : Guard} {gb : GReg} {k : List Nat → Res} (h : s.memOk) (hk : ∀ a, resOk (k a)) :
    outOk (maskForm s g gb k) := by
  unfold maskForm
  refine outOk_syllable h (fun _ => ?_)
  exact resOk_ite (resOk_trapIf h) (resOk_ite (resOk_trapIf h) (resOk_ite (resOk_trapIf h) (hk _)))

theorem outOk_execSpdrop {g : Guard} {gb : GReg} {off : Bool} (h : s.memOk) : outOk (execSpdrop g gb off s) := by
  unfold execSpdrop
  refine outOk_maskForm h (fun _ => ?_)
  refine resOk_ite h ?_
  exact memOk_foldl (memOk_sendOrder h) (fun _ h1 _ => memOk_settleBank (memOk_modCore h1))

theorem outOk_execSpwake {g : Guard} {gb : GReg} (h : s.memOk) : outOk (execSpwake g gb s) := by
  unfold execSpwake
  refine outOk_maskForm h (fun _ => ?_)
  exact resOk_ite h (memOk_foldl h (fun _ h1 _ => memOk_wakeSp h1))

theorem outOk_execNode {g : Guard} {ga gb : GReg} {tiles : BitVec 16} (h : s.memOk) : outOk (execNode g ga gb tiles s) := by
  unfold execNode
  refine outOk_syllable h (fun _ => ?_)
  refine resOk_ite (resOk_trapIf h) ?_
  refine resOk_ite (resOk_trapIf h) ?_
  refine resOk_ite h ?_
  exact memOk_foldl (memOk_setMe h) (fun _ h1 _ => memOk_spOff h1)

theorem memOk_queueDesc {src : Src} {m q : Nat} (h : s.memOk) : (s.queueDesc src m q).1.memOk :=
  memOk_ite_fst (memOk_readZoned h) h

theorem outOk_execLaunch {g : Guard} {gd ga gb : GReg} (h : s.memOk) : outOk (execLaunch g gd ga gb s) := by
  unfold execLaunch
  refine outOk_syllable h (fun _ => ?_)
  refine resOk_ite (resOk_trapIf h) ?_
  refine resOk_ite (resOk_trapIf h) ?_
  refine resOk_ite (resOk_trapIf h) ?_
  refine resOk_checked (memOk_check h) (fun _ h1 _ => ?_)
  refine resOk_ite h1 ?_
  dsimp only
  split
  · exact memOk_getSegs h1
  · refine resOk_ite (resOk_trapIf (memOk_getSegs h1)) ?_
    split
    · exact memOk_queueDesc (memOk_getSegs h1)
    · exact resOk_trapIf (memOk_queueDesc (memOk_getSegs h1))
    · exact memOk_setMe (memOk_forget (memOk_queueDesc (memOk_getSegs h1)))
    · refine resOk_ite (resOk_trapIf (memOk_queueDesc (memOk_getSegs h1))) ?_
      refine resOk_ite (memOk_forget (memOk_queueDesc (memOk_getSegs h1))) ?_
      refine resOk_ite (memOk_setMe (memOk_forget (memOk_queueDesc (memOk_getSegs h1)))) ?_
      refine resOk_ite (memOk_queueDesc (memOk_getSegs h1)) ?_
      exact memOk_setMe (memOk_forget (memOk_writeAt (memOk_writeAt (memOk_queueDesc (memOk_getSegs h1)))))

theorem outOk_execSoftError {site : ErrSite} (h : s.memOk) : outOk (execSoftError site s) := by
  unfold execSoftError
  refine outOk_event h ?_
  split
  · dsimp only
    exact optOk_ite (memOk_setStrand h) trivial
  next off flip =>
    have hw : ({ s with chip := memPut s.chip off (memGet s.chip off ^^^ flip) } : State).memOk := by
      obtain ⟨hd, hc, hrest⟩ := h
      exact ⟨hd, wf_memPut _ _ hc, hrest⟩
    split
    · exact optOk_ite (memOk_ite (memOk_modCore hw) hw) trivial
    · trivial
  · refine optOk_ite ?_ trivial
    exact h
  · refine optOk_ite ?_ trivial
    exact memOk_report (memOk_setAcc h)
end Keeps

end Sys2Proof.Machine
end

section
/-! PROOFS. Near-memory words, the arbiters, commands of the engine queues and the fetch keep the form of every memory. -/

namespace Sys2Proof.Machine

section Keeps
variable {s : State}

/-! Near-memory words. -/

theorem memOk_release {u : Nat} {gs : List Nat} (h : s.memOk) : (s.release u gs).memOk :=
  memOk_modNmu h

theorem memOk_mveLost {u : Nat} {v : Mve} (h : s.memOk) : (s.mveLost u v).memOk :=
  memOk_foldl h (fun _ h1 _ => memOk_modNmu h1)

theorem memOk_clearUnit {u : Nat} (h : s.memOk) : (s.clearUnit u).memOk := by
  unfold State.clearUnit
  refine memOk_modNmu (memOk_withdrawAll (memOk_forget (memOk_forget (memOk_dropWaiter (memOk_release ?_)))))
  split
  · exact memOk_mveLost h
  · exact h

theorem memOk_unitEnded {k u : Nat} (h : s.memOk) : (s.unitEnded k u).memOk :=
  h

theorem memOk_stopUnit {u reason pc : Nat} {word : NmWord} {detail : Nat} {va : Word} (h : s.memOk) :
    (s.stopUnit u reason pc word detail va).memOk := by
  unfold State.stopUnit
  dsimp only
  split
  · exact h
  · split
    · exact memOk_modNmu (memOk_clearUnit h)
    · exact memOk_unitEnded (memOk_tellDriver (memOk_tellDriver (memOk_with (memOk_clearUnit h))))

theorem memOk_endUnit {u : Nat} (h : s.memOk) : (s.endUnit u).memOk := by
  unfold State.endUnit
  dsimp only
  split
  · exact h
  · split
    · split
      · exact memOk_modStrand (memOk_clearUnit h)
      · exact memOk_clearUnit h
    · exact memOk_unitEnded (memOk_clearUnit h)

theorem memOk_reportMve {u : Nat} (h : s.memOk) : (s.reportMve u).memOk := by
  unfold State.reportMve
  split
  · exact memOk_stopUnit h
  · exact h

theorem outOk_nmWord {pops pushes n : Nat} {k : Nmu → NLaunch → NmRes} (h : s.memOk) (hk : ∀ a b, nmOk (k a b)) :
    outOk (nmWord s pops pushes n k) := by
  unfold nmWord
  dsimp only
  split
  · exact h
  · refine outOk_ite (memOk_stopUnit h) ?_
    refine outOk_ite (memOk_stopUnit h) ?_
    split
    next hq4 =>
      refine outOk_ite ?_ ?_
      · exact memOk_stopUnit (memOk_modNmu (memOk_of hq4 (hk _ _) rfl))
      · exact memOk_modNmu (memOk_modNmu (memOk_of hq4 (hk _ _) rfl))
    next hq4 => exact memOk_of hq4 (hk _ _) rfl
    next hq4 => exact memOk_stopUnit (memOk_of hq4 (hk _ _) rfl)
    next hq4 => exact memOk_reportMve (memOk_of hq4 (hk _ _) rfl)
    next hq4 => exact memOk_endUnit (memOk_of hq4 (hk _ _) rfl)

theorem outOk_execLitx {n : BitVec 2} {x : Bool} {v : Word} (h : s.memOk) : outOk (execLitx n x v s) := by
  unfold execLitx
  refine outOk_nmWord h fun _ _ => ?_
  exact h

theorem outOk_nmBin {f : Word → Word → Word} (h : s.memOk) : outOk (nmBin s f) :=
  outOk_nmWord h (fun _ _ => h)

theorem outOk_nmImm {v : BitVec 9} {f : Word → Word → Word} (h : s.memOk) : outOk (nmImm s v f) :=
  outOk_nmWord h (fun _ _ => h)

theorem outOk_execNmLoop {d : BitVec 10} (h : s.memOk) : outOk (execNmLoop d s) := by
  unfold execNmLoop
  refine outOk_nmWord h (fun _ _ => ?_)
  exact nmOk_ite h (nmOk_ite h (nmOk_ite h (nmOk_ite h (memOk_modNmu h))))

theorem outOk_execNext (h : s.memOk) : outOk (execNext s) := by
  unfold execNext
  refine outOk_nmWord h (fun _ _ => ?_)
  split
  · exact h
  · exact nmOk_ite (memOk_modNmu h) (memOk_modNmu h)

theorem outOk_execNmBr {d : BitVec 10} (h : s.memOk) : outOk (execNmBr d s) := by
  unfold execNmBr
  refine outOk_nmWord h (fun _ _ => ?_)
  exact nmOk_ite h h

theorem memOk_nmCheck {src : Src} {u : Nat} {asid : BitVec 16} {p : Perm} {a : Word} {len : Nat} (h : s.memOk) :
    (s.nmCheck src u asid p a len).1.memOk := by
  unfold State.nmCheck
  split
  · exact h
  · dsimp only
    split
    · exact memOk_ranges h
    · exact memOk_ranges h
    · split
      · exact memOk_ranges h
      · exact memOk_ranges h
      · split <;> exact memOk_ranges (memOk_ranges h)

theorem memOk_nmWordCheck {l : NLaunch} {p : Perm} {a : Word} {len : Nat} (h : s.memOk) : (s.nmWordCheck l p a len).1.memOk :=
  memOk_nmCheck h

theorem nmOk_nmChecked {r : State × NmChk} {k : State → List Seg → NmRes} (h : r.1.memOk)
    (hk : ∀ t : State, t.memOk → ∀ a, nmOk (k t a)) : nmOk (nmChecked r k) := by
  unfold nmChecked
  split
  · exact hk _ h _
  · exact h
  · exact h

theorem memOk_nmAsk {n : Nat} {rs : List Req} (h : s.memOk) : (s.nmAsk n rs).memOk :=
  memOk_sendAll (memOk_modNmu h)

theorem nmOk_nmAwait {m : Nmu} {start : NmRes} {done : Mem → List Nat → NmRes} (h : s.memOk) (h2 : nmOk start)
    (hk : ∀ a b, nmOk (done a b)) : nmOk (nmAwait m s start done) := by
  unfold nmAwait
  split
  · exact h2
  · exact hk _ _
  · exact h

theorem outOk_execNmLdWs {z : NmSize} (h : s.memOk) : outOk (execNmLdWs z s) := by
  unfold execNmLdWs
  refine outOk_nmWord h (fun _ _ => ?_)
  exact nmOk_ite h (nmOk_ite h h)

theorem outOk_execNmStWs {z : NmSize} (h : s.memOk) : outOk (execNmStWs z s) := by
  unfold execNmStWs
  refine outOk_nmWord h (fun _ _ => ?_)
  exact nmOk_ite h (nmOk_ite h (memOk_modNmu h))

theorem outOk_execNmLdMem {z : NmSize} (h : s.memOk) : outOk (execNmLdMem z s) := by
  unfold execNmLdMem
  refine outOk_nmWord h (fun _ _ => ?_)
  refine nmOk_ite h ?_
  exact nmOk_ite h (nmOk_nmAwait h (nmOk_nmChecked (memOk_nmWordCheck h) (fun _ h1 _ => memOk_nmAsk h1)) (fun _ _ => h))

theorem outOk_execNmStMem {z : NmSize} (h : s.memOk) : outOk (execNmStMem z s) := by
  unfold execNmStMem
  refine outOk_nmWord h (fun _ _ => ?_)
  exact nmOk_ite h (nmOk_ite h (nmOk_nmChecked (memOk_nmWordCheck h) (fun _ h1 _ => memOk_sendAll h1)))

theorem nmOk_nmSpan {m : Nmu} {off n : Nat} {k : NmRes} (h : s.memOk) (h2 : nmOk k) : nmOk (nmSpan m s off n k) := by
  unfold nmSpan
  dsimp only
  split
  · exact nmOk_ite h h2
  · exact nmOk_ite h h2
  · exact h2

theorem outOk_nmMove {k : Nmu → NLaunch → Word → Nat → Nat → NmRes} (h : s.memOk) (hk : ∀ a b c d e, nmOk (k a b c d e)) :
    outOk (nmMove s k) := by
  unfold nmMove
  refine outOk_nmWord h (fun _ _ => ?_)
  exact nmOk_ite h (nmOk_ite h (nmOk_nmSpan h (hk _ _ _ _ _)))

theorem outOk_execVin (h : s.memOk) : outOk (execVin s) := by
  unfold execVin
  refine outOk_nmMove h (fun _ _ _ _ _ => ?_)
  refine nmOk_nmAwait h (nmOk_nmChecked (memOk_nmWordCheck h) (fun _ h1 _ => ?_)) (fun _ _ => memOk_modNmu h)
  exact memOk_nmAsk h1

theorem outOk_execVout (h : s.memOk) : outOk (execVout s) := by
  unfold execVout
  refine outOk_nmMove h (fun _ _ _ _ _ => ?_)
  split
  · refine nmOk_ite (nmOk_ite h h) ?_
    refine nmOk_nmChecked (memOk_nmWordCheck h) (fun _ h1 _ => ?_)
    exact memOk_nmAsk h1
  · exact nmOk_nmChecked (memOk_nmWordCheck h) (fun _ h1 _ => memOk_sendAll h1)

theorem outOk_execMvx {o : MvxForm} (h : s.memOk) : outOk (execMvx o s) := by
  unfold execMvx
  refine outOk_nmWord h (fun _ _ => ?_)
  refine nmOk_ite h ?_
  refine nmOk_ite h ?_
  refine nmOk_ite h ?_
  refine nmOk_ite h ?_
  dsimp only
  split
  · exact h
  · exact nmOk_ite h (memOk_modNmu h)

theorem weightsOk_nmRead {u : Nat} {asid : BitVec 16} {p : Perm} {a : Word} {n : Nat} (h : s.memOk) :
    weightsOk (s.nmRead u asid p a n) := by
  unfold State.nmRead
  dsimp only
  split
  · exact memOk_nmCheck h
  · exact memOk_nmCheck h
  · split <;> exact memOk_getSegs (memOk_nmCheck h)

theorem memOk_nmReader {u : Nat} {asid : BitVec 16} {a : Word} {len : Nat} (h : s.memOk) : (nmReader u asid s a len).1.memOk := by
  unfold nmReader
  dsimp only
  split
  next hq1 => exact memOk_of hq1 (weightsOk_nmRead h) rfl
  next hq1 => exact memOk_of hq1 (weightsOk_nmRead h) rfl
  next hq1 =>
    split
    · exact memOk_of hq1 (weightsOk_nmRead h) rfl
    · split
      next hq3 =>
        have hs3 : State.memOk _ := memOk_of hq3 (weightsOk_nmRead (memOk_of hq1 (weightsOk_nmRead h) rfl)) rfl
        exact hs3
      next hq3 =>
        have hs3 : State.memOk _ := memOk_of hq3 (weightsOk_nmRead (memOk_of hq1 (weightsOk_nmRead h) rfl)) rfl
        exact hs3
      next hq3 =>
        have hs3 : State.memOk _ := memOk_of hq3 (weightsOk_nmRead (memOk_of hq1 (weightsOk_nmRead h) rfl)) rfl
        exact hs3

theorem weightsOk_mveRow {u : Nat} {asid : BitVec 16} {v : Mve} {i : Nat} (h : s.memOk) : weightsOk (s.mveRow u asid v i) := by
  unfold State.mveRow
  refine weightsOk_ite ?_ (weightsOk_nmRead h)
  dsimp only
  split
  · exact memOk_expand h (fun _ h1 _ _ => memOk_nmReader h1)
  · split <;> exact memOk_expand h (fun _ h1 _ _ => memOk_nmReader h1)

theorem outOk_execMveProductEnd {u : Nat} (h : s.memOk) : outOk (execMveProductEnd u s) := by
  unfold execMveProductEnd
  refine outOk_event h ?_
  split
  · refine optOk_ite trivial ?_
    split
    next hq3 => exact memOk_forget (memOk_modNmu (memOk_of hq3 (weightsOk_mveRow h) rfl))
    next hq3 => exact memOk_of hq3 (weightsOk_mveRow h) rfl
    next hq3 => exact memOk_forget (memOk_modNmu (memOk_mveLost (memOk_of hq3 (weightsOk_mveRow h) rfl)))
  · trivial

theorem nmOk_nmHandle {r : SReg} {b : Nat} {k : Nat → Nat → NmRes} (h : s.memOk) (hk : ∀ a b, nmOk (k a b)) :
    nmOk (nmHandle s r b k) := by
  unfold nmHandle
  refine nmOk_ite h ?_
  exact nmOk_ite h (hk _ _)

theorem outOk_execRed (h : s.memOk) : outOk (execRed s) := by
  unfold execRed
  refine outOk_nmWord h (fun _ _ => ?_)
  exact nmOk_ite h (nmOk_ite h (nmOk_ite h (nmOk_nmHandle h (fun _ _ => nmOk_ite (memOk_nmAsk h) (nmOk_ite h h)))))

theorem outOk_nmElems {w top b align : Nat} {k : Nmu → NLaunch → Nat → Nat → Nat → Nat → NmRes} (h : s.memOk)
    (hk : ∀ a b c d e f, nmOk (k a b c d e f)) : outOk (nmElems s w top b align k) := by
  unfold nmElems
  refine outOk_nmWord h (fun _ _ => ?_)
  exact nmOk_ite h (nmOk_ite h (nmOk_ite h (nmOk_ite h (nmOk_nmSpan h (nmOk_nmHandle h (fun _ _ => hk _ _ _ _ _ _))))))

theorem outOk_execRacc {t : BitVec 2} {one : Bool} (h : s.memOk) : outOk (execRacc t one s) := by
  unfold execRacc
  refine outOk_nmElems h (fun _ _ _ _ _ _ => ?_)
  exact memOk_sendAll h

theorem outOk_execRfin {bf keep : Bool} (h : s.memOk) : outOk (execRfin bf keep s) := by
  unfold execRfin
  refine outOk_nmElems h fun m l v a off n => nmOk_nmAwait h ?_ fun d bad => ?_
  · exact memOk_nmAsk h
  · exact memOk_modNmu h

theorem memOk_claimBank {b : Nat} (h : s.memOk) : (s.claimBank b).memOk := by
  unfold State.claimBank
  split <;> exact h

theorem outOk_execRowclaim (h : s.memOk) : outOk (execRowclaim s) := by
  unfold execRowclaim
  refine outOk_nmWord h (fun _ _ => ?_)
  refine nmOk_ite h ?_
  refine nmOk_ite h ?_
  refine nmOk_ite h ?_
  refine nmOk_ite ?_ ?_
  · exact memOk_modNmu (memOk_foldl h (fun _ h1 _ => memOk_settleOwn (memOk_claimBank h1)))
  · exact memOk_modNmu (memOk_foldl h (fun _ h1 _ => memOk_settleOwn (memOk_claimBank h1)))

theorem outOk_execRowrel (h : s.memOk) : outOk (execRowrel s) := by
  unfold execRowrel
  refine outOk_nmWord h (fun _ _ => ?_)
  exact nmOk_ite h (nmOk_ite h (memOk_release h))

theorem outOk_execNmSemw {eq : Bool} (h : s.memOk) : outOk (execNmSemw eq s) := by
  unfold execNmSemw
  refine outOk_nmWord h (fun _ _ => ?_)
  refine nmOk_ite h ?_
  refine nmOk_ite h ?_
  refine nmOk_ite ?_ ?_
  · split
    · exact memOk_dropWaiter h
    · exact h
  · refine nmOk_nmChecked (memOk_nmWordCheck h) (fun _ h1 _ => ?_)
    split
    · exact nmOk_ite h1 (memOk_nmAsk h1)
    · exact h1

theorem outOk_execNmSems (h : s.memOk) : outOk (execNmSems s) := by
  unfold execNmSems
  refine outOk_nmWord h (fun _ _ => ?_)
  exact nmOk_ite h (nmOk_ite h (nmOk_nmChecked (memOk_nmWordCheck h) (fun _ h1 _ => memOk_sendAll h1)))

theorem memOk_beginUnit {u : Nat} {l : NLaunch} {q : List NLaunch} (h : s.memOk) : (s.beginUnit u l q).memOk :=
  memOk_modNmu h

theorem outOk_execNmuLaunchAccept {u : Nat} (h : s.memOk) : outOk (execNmuLaunchAccept u s) := by
  unfold execNmuLaunchAccept
  refine outOk_event h ?_
  refine optOk_ite trivial ?_
  split
  · trivial
  · dsimp only
    split
    · exact memOk_beginUnit h
    · split
      next hq5 => exact memOk_of hq5 (weightsOk_nmRead h) rfl
      next hq5 => exact memOk_stopUnit (memOk_forget (memOk_beginUnit (memOk_of hq5 (weightsOk_nmRead h) rfl)))
      next hq5 =>
        refine optOk_ite ?_ (memOk_forget (memOk_beginUnit (memOk_modNmu (memOk_of hq5 (weightsOk_nmRead h) rfl))))
        exact memOk_stopUnit (memOk_forget (memOk_beginUnit (memOk_modNmu (memOk_of hq5 (weightsOk_nmRead h) rfl))))

theorem outOk_execIllegalWord {u : Nat} (h : s.memOk) : outOk (execIllegalWord u s) := by
  unfold execIllegalWord
  refine outOk_event h ?_
  refine optOk_ite trivial ?_
  exact memOk_stopUnit h

theorem outOk_execNmuAbort {u : Nat} (h : s.memOk) : outOk (execNmuAbort u s) := by
  unfold execNmuAbort
  refine outOk_event h ?_
  refine optOk_ite trivial ?_
  exact optOk_ite (memOk_endUnit h) (memOk_stopUnit h)

/-! The arbiters of device memory. -/

theorem memOk_charge {r : Req} (h : s.memOk) : (s.charge r).memOk := by
  unfold State.charge
  split
  · exact h
  · exact memOk_ite h h

theorem outOk_execYieldBoundExpiry {b : Nat} (h : s.memOk) : outOk (execYieldBoundExpiry b s) := by
  unfold execYieldBoundExpiry
  refine outOk_event h ?_
  split
  · exact optOk_ite trivial h
  · trivial

theorem outOk_execAgeCapExpiry {id : Nat} (h : s.memOk) : outOk (execAgeCapExpiry id s) := by
  unfold execAgeCapExpiry
  refine outOk_event h ?_
  split
  · exact optOk_ite (memOk_setReq h) trivial
  · trivial

theorem memOk_takeStore {r : Req} (h : s.memOk) : (s.takeStore r).memOk := by
  unfold State.takeStore
  exact memOk_with (memOk_setReq (memOk_foldl (memOk_releases (memOk_perform h)) (fun _ h1 _ => memOk_dropReq h1)))

theorem outOk_execArbiterAccept {id : Nat} (h : s.memOk) : outOk (execArbiterAccept id s) := by
  unfold execArbiterAccept
  refine outOk_event h ?_
  split
  · refine optOk_ite trivial ?_
    refine optOk_ite trivial ?_
    refine optOk_ite (memOk_setReq h) ?_
    refine optOk_ite (memOk_takeStore h) ?_
    dsimp only
    exact memOk_with (memOk_setReq h)
  · trivial

theorem outOk_execArbiterServe {id : Nat} (h : s.memOk) : outOk (execArbiterServe id s) := by
  unfold execArbiterServe
  refine outOk_event h ?_
  split
  · split
    · refine optOk_ite trivial ?_
      refine optOk_ite ?_ trivial
      exact memOk_with (memOk_charge (memOk_ite (memOk_retire h) (memOk_complete h)))
    · trivial
  · trivial

theorem memOk_scrubNext {b : Nat} (h : s.memOk) : (s.scrubNext b).memOk := by
  unfold State.scrubNext
  refine memOk_ite ?_ ?_
  · split
    · exact memOk_with (memOk_readLine h)
    · exact memOk_with h
  · split
    · exact memOk_with (memOk_readLine h)
    · exact h

theorem outOk_execRefresh {b : Nat} (h : s.memOk) : outOk (execRefresh b s) := by
  unfold execRefresh
  refine outOk_event h (optOk_ite ?_ trivial)
  exact memOk_with (memOk_scrubNext h)

theorem memOk_outsideWrites {sp : Space} {cs : List Host.Cell} (h : s.memOk) : (s.outsideWrites sp cs).memOk :=
  memOk_foldl h (fun _ h1 _ => memOk_writeAt h1)

theorem memOk_performOutside {r : Req} {poison : Bool} (h : s.memOk) : (s.performOutside r poison).memOk := by
  unfold State.performOutside
  refine memOk_ite (memOk_complete h) ?_
  refine memOk_retire ?_
  split
  · exact memOk_answer h
  · exact memOk_answer h
  · exact h
  · exact h
  · exact memOk_perform h

theorem outOk_execHostPortCompletion {id : Nat} {outside : List Host.Cell} {poison : Bool} (h : s.memOk) :
    outOk (execHostPortCompletion id outside poison s) := by
  unfold execHostPortCompletion
  refine outOk_event h ?_
  split
  · exact optOk_ite (memOk_performOutside (memOk_outsideWrites h)) trivial
  · trivial

theorem outOk_execPeerAcknowledgement {id : Nat} {outside : List Host.Cell} {poison : Bool} (h : s.memOk) :
    outOk (execPeerAcknowledgement id outside poison s) := by
  unfold execPeerAcknowledgement
  refine outOk_event h ?_
  split
  · exact optOk_ite (memOk_performOutside (memOk_outsideWrites h)) trivial
  · trivial

/-! Commands of every engine queue. -/

theorem outOk_execTwait {hd : MHead} {e : BitVec 4} (h : s.memOk) : outOk (execTwait hd e s) :=
  outOk_mSyllable h (fun _ => resOk_ite (resOk_enqueue h) (resOk_ite (resOk_trapIf h) (resOk_ite h (memOk_setMe h))))

theorem outOk_execTsig {hd : MHead} {e : BitVec 4} (h : s.memOk) : outOk (execTsig hd e s) :=
  outOk_mSyllable h (fun _ => resOk_ite (resOk_enqueue h) (resOk_ite (resOk_trapIf h) (resOk_ite h (memOk_setMe h))))

theorem outOk_execNlaunch {hd : MHead} {opa opb param : GReg} {arg : Bool} (h : s.memOk) :
    outOk (execNlaunch hd opa opb param arg s) := by
  unfold execNlaunch
  refine outOk_mSyllable h (fun _ => ?_)
  exact resOk_ite (resOk_trapIf h) (resOk_ite (resOk_trapIf h) (resOk_enqueue h))

theorem outOk_execQflush {hd : MHead} {e : BitVec 4} {gd : GReg} (h : s.memOk) : outOk (execQflush hd e gd s) := by
  unfold execQflush
  refine outOk_mSyllable h (fun _ => ?_)
  exact memOk_setMe h

theorem outOk_execClkdiv {hd : MHead} {u : ClkUnit} {d : BitVec 5} (h : s.memOk) : outOk (execClkdiv hd u d s) := by
  unfold execClkdiv
  refine outOk_mSyllable h (fun _ => ?_)
  split
  · exact resOk_enqueue h
  · exact resOk_enqueue h
  · exact resOk_ite h (memOk_setMe h)

theorem outOk_execWake {hd : MHead} {u : WakeUnit} (h : s.memOk) : outOk (execWake hd u s) := by
  unfold execWake
  refine outOk_mSyllable h (fun _ => ?_)
  dsimp only
  split
  · exact memOk_wakeArray (memOk_setMe h)
  · exact memOk_setMe (memOk_setMe h)
  · exact memOk_ite (memOk_wakeSp (memOk_setMe h)) (memOk_setMe h)

theorem memOk_startCmd {n : Nat} {c : Cmd} (h : s.memOk) : (s.startCmd n c).memOk := by
  unfold State.startCmd
  dsimp only
  split
  · exact memOk_forget (memOk_setStrand h)
  · exact memOk_setStrand h
  · exact memOk_ite (memOk_setStrand h) (memOk_modNmu (memOk_setStrand h))
  · exact memOk_setStrand h

theorem outOk_execEngineCommandStart {n e : Nat} (h : s.memOk) : outOk (execEngineCommandStart n e s) := by
  unfold execEngineCommandStart
  refine outOk_event h ?_
  split
  · exact optOk_ite trivial (optOk_ite (memOk_endRun h) (memOk_startCmd h))
  · trivial

theorem optOk_portFinish {n : Nat} {c : Cmd} (h : s.memOk) : optOk (s.portFinish n c) := by
  unfold State.portFinish
  refine optOk_ite trivial ?_
  split
  · refine optOk_ite ?_ trivial
    exact memOk_setStrand h
  · exact memOk_savePort h
  · exact memOk_loadPort h
  · exact memOk_setStrand h

theorem optOk_copyFinish {n : Nat} {c : Cmd} (h : s.memOk) : optOk (s.copyFinish n c) := by
  unfold State.copyFinish
  refine optOk_ite trivial ?_
  split
  · exact optOk_ite trivial (optOk_finishCopy h)
  · exact optOk_ite trivial (optOk_finishCopy h)
  · exact optOk_ite (memOk_setStrand h) trivial
  · exact memOk_setStrand h
  · exact memOk_setStrand h

theorem optOk_nearFinish {n : Nat} {c : Cmd} (h : s.memOk) : optOk (s.nearFinish n c) := by
  unfold State.nearFinish
  refine optOk_ite trivial ?_
  split
  · trivial
  · exact optOk_ite (memOk_setStrand h) trivial
  · exact memOk_setStrand h

theorem outOk_execEngineCommandFinish {n id : Nat} (h : s.memOk) : outOk (execEngineCommandFinish n id s) := by
  unfold execEngineCommandFinish
  refine outOk_event h ?_
  split
  · split
    · exact optOk_map (fun _ => memOk_setStrand h)
    · exact optOk_ite (optOk_arrayFinish h) (optOk_ite (optOk_copyFinish h) (optOk_ite (optOk_nearFinish h) (optOk_portFinish h)))
    · trivial
  · trivial

/-! Fetching a bundle from the instruction store. -/

theorem memOk_noteFetch {n len : Nat} (h : s.memOk) : (s.noteFetch n len).memOk :=
  memOk_modCore h

theorem memOk_reported {n : Nat} (h : s.memOk) : (s.reported n).memOk :=
  memOk_modCore h
end Keeps

end Sys2Proof.Machine
end

section
/-! PROOFS. The dispatcher, eviction, the management space and the outside world keep the form of every memory. -/

namespace Sys2Proof.Machine

section Keeps
variable {s : State}

/-! Work queues and launch records. -/

theorem dispOk_dispRead {src : Src} {asid : BitVec 16} {a : Word} {n : Nat} (h : s.memOk) : dispOk (s.dispRead src asid a n) := by
  unfold State.dispRead
  refine dispOk_ite h ?_
  dsimp only
  split
  · exact memOk_resolve h
  · exact memOk_resolve h
  · split
    · exact memOk_getSegs (memOk_resolve h)
    · exact dispOk_ite (memOk_getSegs (memOk_resolve h)) (memOk_getSegs (memOk_resolve h))

theorem dispOk_initTable {src : Src} {asid : BitVec 16} {k : Nat} {a : Word} (h : s.memOk) : dispOk (s.initTable src asid k a) := by
  induction k generalizing s a with
  | zero => exact h
  | succ k ih =>
    unfold State.initTable
    split
    next hq => exact memOk_of hq (dispOk_dispRead h) rfl
    next hq => exact memOk_of hq (dispOk_dispRead h) rfl
    next s1 bs hq =>
      have h1 : s1.memOk := memOk_of hq (dispOk_dispRead h) rfl
      refine dispOk_ite h1 ?_
      split
      next hq2 => exact memOk_of hq2 (ih h1) rfl
      next => exact ih h1

theorem dispOk_codeClass {src : Src} {asid : BitVec 16} {k va len : Nat} (h : s.memOk) : dispOk (s.codeClass src asid k va len) := by
  induction k generalizing va len with
  | zero => exact h
  | succ k ih =>
    unfold State.codeClass
    split
    · dsimp only
      split <;> exact memOk_askWalk h
    · exact dispOk_ite h (dispOk_ite h ih)

theorem dispOk_readExt {src : Src} {asid : BitVec 16} {bs : List Byte} (h : s.memOk) : dispOk (s.readExt src asid bs) := by
  unfold State.readExt
  refine dispOk_ite (dispOk_ite h h) ?_
  refine dispOk_ite h ?_
  split
  next hq2 => exact memOk_of hq2 (dispOk_dispRead h) rfl
  next hq2 => exact memOk_of hq2 (dispOk_dispRead h) rfl
  next hq2 =>
    refine dispOk_ite (memOk_of hq2 (dispOk_dispRead h) rfl) ?_
    refine dispOk_ite (memOk_of hq2 (dispOk_dispRead h) rfl) ?_
    refine dispOk_ite (memOk_of hq2 (dispOk_dispRead h) rfl) ?_
    split
    next hq6 =>
      have hs6 : State.memOk _ := memOk_of hq6 (dispOk_initTable (memOk_of hq2 (dispOk_dispRead h) rfl)) rfl
      exact hs6
    next hq6 =>
      have hs6 : State.memOk _ := memOk_of hq6 (dispOk_initTable (memOk_of hq2 (dispOk_dispRead h) rfl)) rfl
      exact hs6
    next hq6 =>
      have hs6 : State.memOk _ := memOk_of hq6 (dispOk_initTable (memOk_of hq2 (dispOk_dispRead h) rfl)) rfl
      exact hs6

theorem dispOk_admission {q : Nat} {index : BitVec 32} {cfg : Nat} {bs : List Byte} (h : s.memOk) :
    dispOk (s.admission q index cfg bs) := by
  unfold State.admission
  dsimp only
  split
  · exact h
  · split
    next hq2 => exact memOk_of hq2 (dispOk_ite h (dispOk_codeClass h)) rfl
    next hq2 => exact memOk_of hq2 (dispOk_ite h (dispOk_codeClass h)) rfl
    next hq2 =>
      split
      next hq3 =>
        have hs3 : State.memOk _ := memOk_of hq3 (dispOk_readExt (memOk_of hq2 (dispOk_ite h (dispOk_codeClass h)) rfl)) rfl
        exact hs3
      next hq3 =>
        have hs3 : State.memOk _ := memOk_of hq3 (dispOk_readExt (memOk_of hq2 (dispOk_ite h (dispOk_codeClass h)) rfl)) rfl
        exact hs3
      next hq3 =>
        have hs3 : State.memOk _ := memOk_of hq3 (dispOk_readExt (memOk_of hq2 (dispOk_ite h (dispOk_codeClass h)) rfl)) rfl
        split <;> exact hs3

theorem memOk_queueWrite {src : Src} {q off : Nat} {op : ReqOp} (h : s.memOk) : (s.queueWrite src q off op).memOk :=
  memOk_ite (memOk_send h) h

theorem memOk_queueError {src : Src} {q code : Nat} {index : BitVec 32} (h : s.memOk) : (s.queueError src q code index).memOk :=
  memOk_queueWrite h

theorem memOk_queueDone {src : Src} {q : Nat} (h : s.memOk) : (s.queueDone src q).memOk :=
  memOk_queueWrite h

theorem memOk_retireRecord {src : Src} {q code : Nat} {index : BitVec 32} (h : s.memOk) : (s.retireRecord src q code index).memOk :=
  memOk_ite (memOk_queueDone h) (memOk_queueDone (memOk_queueError h))

theorem memOk_takeSlot {q : Nat} {bs : List Byte} (h : s.memOk) : (s.takeSlot q bs).memOk := by
  unfold State.takeSlot
  dsimp only
  split
  · exact memOk_ite_fst (memOk_readZoned h) h
  · exact memOk_retireRecord (memOk_queueWrite (memOk_forget (memOk_ite_fst (memOk_readZoned h) h)))
  · exact memOk_retireRecord (memOk_queueWrite (memOk_forget (memOk_ite_fst (memOk_readZoned h) h)))
  · refine memOk_ite (memOk_forget (memOk_ite_fst (memOk_readZoned h) h)) ?_
    refine memOk_ite ?_ ?_
    · exact memOk_retireRecord (memOk_queueWrite (memOk_forget (memOk_ite_fst (memOk_readZoned h) h)))
    · split
      next hq4 =>
        have hs4 : State.memOk _ := memOk_of hq4 (dispOk_admission (memOk_ite_fst (memOk_readZoned h) h)) rfl
        exact hs4
      next hq4 =>
        have hs4 : State.memOk _ := memOk_of hq4 (dispOk_admission (memOk_ite_fst (memOk_readZoned h) h)) rfl
        exact memOk_retireRecord (memOk_queueWrite (memOk_forget hs4))
      next hq4 =>
        have hs4 : State.memOk _ := memOk_of hq4 (dispOk_admission (memOk_ite_fst (memOk_readZoned h) h)) rfl
        exact memOk_with (memOk_queueWrite (memOk_forget hs4))

theorem outOk_execQueueTake {q : Nat} (h : s.memOk) : outOk (execQueueTake q s) := by
  unfold execQueueTake
  refine outOk_event h ?_
  refine optOk_ite trivial ?_
  dsimp only
  split
  · exact memOk_queueDesc h
  · exact memOk_forget (memOk_queueDesc h)
  · exact memOk_forget (memOk_queueDesc h)
  · refine optOk_ite (memOk_forget (memOk_queueDesc h)) ?_
    refine optOk_ite (memOk_queueError (memOk_forget (memOk_queueDesc h))) ?_
    refine optOk_ite (memOk_forget (memOk_queueDesc h)) ?_
    refine optOk_ite ?_ ?_
    · exact memOk_queueError (memOk_forget (memOk_queueDesc h))
    · exact optOk_ite (memOk_forget (memOk_queueDesc h)) (memOk_takeSlot (memOk_queueDesc h))

theorem dispOk_semCond {k : Kernel} {x : Word × Word} (h : s.memOk) : dispOk (s.semCond k x) := by
  unfold State.semCond
  refine dispOk_ite h ?_
  split
  · exact h
  · refine dispOk_ite h ?_
    dsimp only
    split
    · exact memOk_resolve h
    · exact dispOk_ite (memOk_forget (memOk_resolve h)) (memOk_resolve h)
    · exact memOk_sendAll (memOk_resolve h)

theorem dispOk_inputGranule {k : Kernel} {e : RtEntry} {va : Nat} (h : s.memOk) : dispOk (s.inputGranule k e va) := by
  unfold State.inputGranule
  refine dispOk_ite h ?_
  split
  · exact h
  · dsimp only
    split
    · exact memOk_mapBit h
    · exact memOk_mapBit h
    · exact memOk_setRtab (memOk_mapped (memOk_mapBit h))
    · split
      · exact memOk_dirEntry (memOk_mapBit h)
      · exact memOk_dirEntry (memOk_mapBit h)
      · split
        · exact memOk_ite (memOk_mapped (memOk_dirEntry (memOk_mapBit h)))
            (memOk_askFill (memOk_mapped (memOk_dirEntry (memOk_mapBit h))))
        · refine dispOk_ite ?_ ?_
          · exact memOk_askFill (memOk_mapped (memOk_dirEntry (memOk_mapBit h)))
          · exact memOk_ask (memOk_with (memOk_askFill (memOk_mapped (memOk_dirEntry (memOk_mapBit h)))))

theorem dispOk_inputCond {kn : Kernel} {k va len : Nat} (h : s.memOk) : dispOk (s.inputCond kn k va len) := by
  induction k generalizing s va len with
  | zero => exact h
  | succ k ih =>
    unfold State.inputCond
    split
    · dsimp only
      split <;> exact memOk_askWalk h
    · refine dispOk_ite h ?_
      dsimp only
      split
      next s1 b hq =>
        have h1 : s1.memOk := memOk_of hq (dispOk_ite (dispOk_inputGranule h) h) rfl
        refine dispOk_ite h1 ?_
        split
        next hq2 => exact memOk_of hq2 (ih h1) rfl
        next => exact ih h1
      next => exact dispOk_ite (dispOk_inputGranule h) h

theorem dispOk_allCond {fs : List (State → Cond)} (h : s.memOk) (hk : ∀ f ∈ fs, ∀ t : State, t.memOk → dispOk (f t)) :
    dispOk (allCond fs s) := by
  induction fs generalizing s with
  | nil => exact h
  | cons f fs ih =>
    have hf : dispOk (f s) := hk f List.mem_cons_self s h
    unfold allCond
    split
    next s1 b hq =>
      have hfs : dispOk (allCond fs s1) := ih (memOk_of hq hf rfl) fun g hg => hk g (List.mem_cons_of_mem f hg)
      split
      next hq2 => exact memOk_of hq2 hfs rfl
      next => exact hfs
    next => exact hf

/-- Every condition of a record keeps the form. -/
theorem dispOk_conds {k : Kernel} (h : s.memOk) : dispOk (allCond k.conds s) := by
  refine dispOk_allCond h fun f hf t ht => ?_
  obtain hf | hf := List.mem_append.mp hf
  · obtain ⟨x, -, rfl⟩ := List.mem_map.mp hf
    exact dispOk_semCond ht
  · obtain ⟨x, -, rfl⟩ := List.mem_map.mp hf
    exact dispOk_ite ht (dispOk_inputCond ht)

theorem memOk_unhold {k : Kernel} (h : s.memOk) : (s.unhold k).memOk := by
  unfold State.unhold
  exact memOk_forget (memOk_dropWaiter (memOk_withdrawAll h))

theorem outOk_execRecordReady {id : Nat} (h : s.memOk) : outOk (execRecordReady id s) := by
  unfold execRecordReady
  refine outOk_event h ?_
  split
  · refine optOk_ite trivial ?_
    split
    next hq3 => exact memOk_of hq3 (dispOk_conds h) rfl
    next hq3 => exact memOk_with (memOk_retireRecord (memOk_unhold (memOk_of hq3 (dispOk_conds h) rfl)))
    next hq3 => exact memOk_ite (memOk_setKernel (memOk_unhold (memOk_of hq3 (dispOk_conds h) rfl))) (memOk_of hq3 (dispOk_conds h) rfl)
  · trivial

theorem outOk_execPriorityAgeing {id : Nat} (h : s.memOk) : outOk (execPriorityAgeing id s) := by
  unfold execPriorityAgeing
  refine outOk_event h ?_
  split
  · exact optOk_ite (memOk_setKernel h) trivial
  · trivial

/-! Order of dispatch, placement, pre-emption requests, instruction-store rows, start and end. -/

theorem memOk_clearAllot {k : Kernel} {c : Nat} (h : s.memOk) : (s.clearAllot k c).memOk := by
  unfold State.clearAllot
  exact memOk_with (memOk_modCore (memOk_foldl h (fun _ h1 _ => memOk_modCore (memOk_eraseBank h1))))

theorem memOk_setUp {k : Kernel} {slots : List Nat} {r c : Nat} (h : s.memOk) : (s.setUp k slots r c).memOk :=
  memOk_modCore (memOk_clearAllot h)

theorem memOk_takeSlots {k : Kernel} {at' : List Nat} (h : s.memOk) : (s.takeSlots k at').memOk := by
  unfold State.takeSlots
  exact memOk_setKernel (memOk_ite (memOk_with (memOk_foldl (memOk_foldl h (fun _ h1 _ => memOk_setStrand h1))
    (fun _ h1 _ => memOk_setUp h1))) (memOk_foldl (memOk_foldl h (fun _ h1 _ => memOk_setStrand h1)) (fun _ h1 _ => memOk_setUp h1)))

theorem optOk_preempt {k : Kernel} {ok : List Nat → Bool} (h : s.memOk) : optOk (s.preempt k ok) := by
  unfold State.preempt
  dsimp only
  split
  · trivial
  · trivial
  · exact h

theorem memOk_startUnits {k : Kernel} (h : s.memOk) : (s.startUnits k).memOk :=
  memOk_setKernel (memOk_foldl h (fun _ h1 _ => memOk_modNmu h1))

theorem memOk_endTurn {k : Kernel} (h : s.memOk) : (s.endTurn k).memOk :=
  memOk_ite h h

theorem outOk_execPlacement {id : Nat} {at' : List Nat} (h : s.memOk) : outOk (execPlacement id at' s) := by
  unfold execPlacement
  refine outOk_event h ?_
  split
  · trivial
  · refine optOk_ite trivial ?_
    refine optOk_ite (optOk_ite trivial (optOk_preempt h)) ?_
    dsimp only
    split
    · trivial
    next hq5 =>
      refine optOk_ite ?_ ?_
      · refine optOk_ite ?_ trivial
        refine memOk_endTurn (memOk_startUnits (memOk_of hq5 (optOk_ite h (optOk_ite trivial ?_)) rfl))
        split
        · exact optOk_ite h trivial
        · trivial
      · refine optOk_ite ?_ trivial
        refine memOk_endTurn (memOk_takeSlots (memOk_of hq5 (optOk_ite h (optOk_ite trivial ?_)) rfl))
        split
        · exact optOk_ite h trivial
        · trivial

theorem memOk_loadPart {n : Nat} {k : Kernel} {row : Nat} {f : Nat × Nat × BitVec 7 × Word} (h : s.memOk) :
    (s.loadPart n k row f).memOk := by
  unfold State.loadPart
  dsimp only
  split
  · exact memOk_resolve h
  · exact memOk_modCore (memOk_forget (memOk_resolve h))
  · split
    · exact memOk_getSegs (memOk_resolve h)
    · exact memOk_modCore (memOk_forget (memOk_getSegs (memOk_resolve h)))

theorem outOk_execRowLoad {n row : Nat} (h : s.memOk) : outOk (execRowLoad n row s) := by
  unfold execRowLoad
  refine outOk_event h ?_
  refine optOk_ite trivial ?_
  split
  · trivial
  · split
    · exact optOk_map (fun _ => memOk_loadPart h)
    · exact optOk_map (fun _ => memOk_modCore h)

theorem memOk_start {k : Kernel} {n : Nat} (h : s.memOk) : (s.start k n).memOk :=
  memOk_modCore (memOk_setStrand h)

theorem outOk_execStrandStart {n : Nat} (h : s.memOk) : outOk (execStrandStart n s) := by
  unfold execStrandStart
  refine outOk_event h ?_
  dsimp only
  split
  · trivial
  · exact optOk_ite trivial (optOk_ite (memOk_foldl h (fun _ h1 _ => memOk_start h1)) (memOk_start h))

theorem memOk_quit {n : Nat} (h : s.memOk) : (s.quit n).memOk :=
  h

theorem outOk_execStrandEnd {n : Nat} (h : s.memOk) : outOk (execStrandEnd n s) := by
  unfold execStrandEnd
  refine outOk_event h ?_
  refine optOk_ite trivial ?_
  dsimp only
  split
  · exact memOk_setKernel (memOk_modStrand (memOk_quit (memOk_endRun h)))
  · exact memOk_modStrand (memOk_quit (memOk_endRun h))

theorem outOk_execKernelEnd {id : Nat} (h : s.memOk) : outOk (execKernelEnd id s) := by
  unfold execKernelEnd
  refine outOk_event h ?_
  split
  · trivial
  · refine optOk_ite trivial ?_
    exact memOk_with (memOk_queueDone (memOk_forget (memOk_foldl h (fun _ h1 _ => memOk_modCore (memOk_clearAllot h1)))))

/-! Eviction and resumption. -/

theorem memOk_evictStrand {k : Kernel} {n : Nat} (h : s.memOk) : (s.evictStrand k n).memOk := by
  unfold State.evictStrand
  dsimp only
  split
  · exact memOk_setStrand (memOk_with (memOk_forget (memOk_forget (memOk_withdraw h))))
  · exact memOk_setStrand (memOk_with (memOk_forget (memOk_forget (memOk_withdraw h))))
  · exact memOk_setStrand (memOk_with (memOk_forget (memOk_forget (memOk_withdraw h))))
  · exact memOk_ite h (memOk_setStrand (memOk_with (memOk_forget (memOk_forget (memOk_withdraw h)))))
  · exact h

theorem outOk_execGracePeriodExpiry {id : Nat} (h : s.memOk) : outOk (execGracePeriodExpiry id s) := by
  unfold execGracePeriodExpiry
  refine outOk_event h ?_
  split
  · trivial
  · refine optOk_ite trivial ?_
    exact memOk_setKernel (memOk_foldl h (fun _ h1 _ => memOk_evictStrand h1))

theorem memOk_saveAt {k : Kernel} {a size : Nat} {sent : State} (_ : s.memOk) (h : sent.memOk) :
    (s.saveAt k a size sent).memOk :=
  memOk_setKernel (memOk_foldl (memOk_foldl h (fun _ h1 _ => memOk_setStrand (memOk_quit h1)))
    (fun _ h1 _ => memOk_modCore (memOk_clearAllot h1)))

theorem outOk_execSaveImageWrite {id : Nat} (h : s.memOk) : outOk (execSaveImageWrite id s) := by
  unfold execSaveImageWrite
  refine outOk_event h ?_
  split
  · trivial
  · dsimp only
    split
    · exact memOk_setStrand h
    · split
      · exact memOk_endRun h
      · refine optOk_ite trivial ?_
        split
        · trivial
        · exact optOk_ite trivial (optOk_map_state (optOk_putSegs h) (fun _ h1 => memOk_saveAt h h1))

theorem memOk_restoreCore {k : Kernel} {c : Nat} {bs : List Byte} (h : s.memOk) : (s.restoreCore k c bs).memOk := by
  unfold State.restoreCore
  refine memOk_foldl (memOk_modCore (memOk_clearAllot h)) fun t ht _ => memOk_modCore ?_
  obtain ⟨hd, hc, hrest⟩ := ht
  exact ⟨hd, wf_writeBytes _ _ hc, hrest⟩

theorem memOk_rejoin {k : Kernel} (h : s.memOk) : (s.rejoin k).memOk := by
  unfold State.rejoin
  refine memOk_foldl h (fun _ h1 _ => ?_)
  refine memOk_foldl h1 (fun _ h1 _ => ?_)
  refine memOk_ite ?_ h1
  exact memOk_setBar h1

theorem memOk_restoreStrands {k : Kernel} {ns : List Nat} {bs : List Byte} (h : s.memOk) : (s.restoreStrands k ns bs).1.memOk := by
  induction ns generalizing s bs with
  | nil => exact h
  | cons n ns ih => exact ih (memOk_with (memOk_setStrand h))

theorem memOk_restoreCores {k : Kernel} {cs : List Nat} {bs : List Byte} (h : s.memOk) : (s.restoreCores k cs bs).memOk := by
  induction cs generalizing s bs with
  | nil => exact h
  | cons c cs ih => exact ih (memOk_restoreCore h)

theorem outOk_execKernelResume {id : Nat} (h : s.memOk) : outOk (execKernelResume id s) := by
  unfold execKernelResume
  refine outOk_event h ?_
  split
  · trivial
  · split
    · refine optOk_ite trivial ?_
      refine optOk_ite (optOk_preempt h) ?_
      refine optOk_ite trivial ?_
      dsimp only
      split
      · exact memOk_getSegs h
      · refine optOk_ite (memOk_forget (memOk_getSegs h)) ?_
        exact memOk_rejoin (memOk_restoreCores (memOk_restoreStrands (memOk_setKernel (memOk_forget (memOk_getSegs h)))))
    · trivial

/-! The management space. -/

theorem memOk_putZones {t : Tbl Word} (h : s.memOk) : (s.putZones t).memOk :=
  memOk_foldl h (fun _ h1 _ => memOk_setMgr h1)

theorem optOk_zoneWrite {m : MgMaster} {off : Nat} {v : Word} (h : s.memOk) : optOk (s.zoneWrite m off v) := by
  unfold State.zoneWrite
  refine optOk_ite trivial ?_
  exact optOk_ite h (optOk_ite (memOk_putZones h) (memOk_report (memOk_putZones h)))

theorem memOk_mgFollow {off : Nat} (h : s.memOk) : (s.mgFollow off).memOk := by
  have hs : (if inTables off then { s with acl := Config.aclDecode (s.mg.filter (fun e => inTables e.1)) } else s).memOk :=
    memOk_ite h h
  exact memOk_ite hs hs

theorem memOk_closeAsk {a : Ask} (h : s.memOk) : (s.closeAsk a).memOk :=
  h

theorem memOk_answeredWalk {tag : Nat} {idx : BitVec 32} (h : s.memOk) : (s.answeredWalk tag idx).memOk := by
  unfold State.answeredWalk
  split
  · exact h
  · exact memOk_with (memOk_closeAsk h)

theorem memOk_answeredFill {tag : Nat} {v : Word} (h : s.memOk) : (s.answeredFill tag v).memOk := by
  unfold State.answeredFill
  split
  · exact h
  · split
    · exact memOk_closeAsk h
    · exact memOk_endFill (memOk_closeAsk h)

theorem memOk_answeredFlip {tag : Nat} (h : s.memOk) : (s.answeredFlip tag).memOk := by
  unfold State.answeredFlip
  split
  · exact h
  · exact memOk_flipDown (memOk_closeAsk h)

theorem memOk_answered {head v : Word} (h : s.memOk) : (s.answered head v).memOk := by
  unfold State.answered
  dsimp only
  split
  · exact memOk_answeredWalk h
  · exact memOk_answeredFill h
  · exact memOk_answeredFlip h
  · exact h

theorem optOk_window {n off : Nat} {v : Word} (h : s.memOk) : optOk (s.window n off v) := by
  unfold State.window
  refine optOk_ite trivial ?_
  refine optOk_ite ?_ ?_
  · exact optOk_ite trivial (optOk_ite (memOk_ite (memOk_modStrand h) h) (memOk_setStrand h))
  · exact optOk_ite (memOk_setStrand h) (optOk_ite (memOk_setStrand h) trivial)

theorem memOk_nabort {u : Nat} {v : Word} (h : s.memOk) : (s.nabort u v).memOk :=
  memOk_ite (memOk_modNmu h) h

theorem optOk_mgWrite {m : MgMaster} {off : Nat} {v : Word} (h : s.memOk) : optOk (s.mgWrite m off v) := by
  unfold State.mgWrite
  refine optOk_ite ?_ ?_
  · refine optOk_ite trivial ?_
    split
    · exact memOk_answered h
    · exact optOk_ite trivial h
  · refine optOk_ite (optOk_ite (memOk_nabort h) trivial) ?_
    refine optOk_ite ?_ ?_
    · exact optOk_ite (optOk_window h) trivial
    · exact optOk_ite (optOk_zoneWrite h) (optOk_ite (memOk_mgFollow (memOk_setMgr h)) trivial)

theorem optOk_mgEvent {m : MgMaster} {off : Nat} {v : Word} (h : s.memOk) : optOk (s.mgEvent m off v) := by
  unfold State.mgEvent
  refine optOk_ite trivial ?_
  dsimp only
  split
  next hq2 => exact memOk_of hq2 (optOk_mgWrite (memOk_ite h h)) rfl
  · exact memOk_report (memOk_ite h h)

theorem memOk_dropLaunches {n : Nat} (h : s.memOk) : (s.dropLaunches n).memOk := by
  unfold State.dropLaunches
  refine memOk_foldl h (fun _ h1 _ => ?_)
  exact memOk_ite (memOk_modNmu (memOk_ite (memOk_clearUnit h1) h1)) (memOk_ite (memOk_clearUnit h1) h1)

theorem memOk_endStrand {n : Nat} (h : s.memOk) : (s.endStrand n).memOk := by
  unfold State.endStrand
  exact memOk_modStrand (memOk_quit (memOk_withdraw (memOk_endRun (memOk_dropLaunches h))))

theorem outOk_execHostEndKernel {id : Nat} (h : s.memOk) : outOk (execHostEndKernel id s) := by
  unfold execHostEndKernel
  refine outOk_event h ?_
  split
  · trivial
  · refine optOk_ite trivial ?_
    exact memOk_setKernel (memOk_ite h (memOk_foldl h (fun _ h1 _ => memOk_endStrand h1)))

/-! The outside world. -/

theorem memOk_outRead {src : Src} {m pa n : Nat} (h : s.memOk) : (s.outRead src m pa n).memOk := by
  unfold State.outRead
  refine memOk_ite ?_ (memOk_respond h)
  exact memOk_sendAll h

theorem memOk_outWrite {src : Src} {m pa : Nat} {bs : List Byte} {poison : Bool} (h : s.memOk) : (s.outWrite src m pa bs poison).memOk :=
  memOk_sendAll (memOk_foldl h (fun _ h1 _ => memOk_report h1))

theorem memOk_outAtomic {src : Src} {m : Nat} {op : AtomOp} {w pa b c : Nat} {ret : Bool} (h : s.memOk) :
    (s.outAtomic src m op w pa b c ret).memOk := by
  unfold State.outAtomic
  refine memOk_ite ?_ (memOk_ite (memOk_respond h) (memOk_report h))
  exact memOk_send h

theorem outOk_execHostAtomicop {op : PcieAtomic} {d : Bool} {pa : Nat} {a b : Word} (h : s.memOk) :
    outOk (execHostAtomicop op d pa a b s) := by
  unfold execHostAtomicop
  refine outOk_event h ?_
  split <;> exact memOk_outAtomic h

theorem outOk_execHostRequestMessage (h : s.memOk) : outOk (execHostRequestMessage s) := by
  unfold execHostRequestMessage
  refine outOk_event h ?_
  split
  · trivial
  · refine optOk_ite trivial ?_
    exact memOk_with (memOk_setMgr (memOk_writeAt h))

theorem outOk_execLinkRequest {port : Nat} {r : LinkReq} (h : s.memOk) : outOk (execLinkRequest port r s) := by
  unfold execLinkRequest
  refine outOk_event h (optOk_ite trivial ?_)
  split
  · exact optOk_ite trivial (memOk_outRead h)
  · exact optOk_ite trivial (memOk_outWrite h)
  · split
    · trivial
    · exact optOk_ite trivial (memOk_outAtomic h)
  · exact optOk_ite trivial h
  · exact optOk_ite trivial (memOk_flipDown h)

theorem memOk_lostBytes {n : Nat} (h : s.memOk) : (s.lostBytes n).2.memOk :=
  h

theorem memOk_lose {r : Req} (h : s.memOk) : (s.lose r).memOk := by
  unfold State.lose
  refine memOk_report (memOk_retire ?_)
  split
  · exact memOk_answer (memOk_lostBytes h)
  · exact memOk_answer (memOk_lostBytes h)
  · exact memOk_with (memOk_addWaiter (memOk_lostBytes h))
  · exact h

theorem outOk_execPortFailure {port : Nat} (h : s.memOk) : outOk (execPortFailure port s) := by
  unfold execPortFailure
  refine outOk_event h (optOk_ite trivial ?_)
  refine memOk_foldl (memOk_foldl h (fun _ h1 _ => memOk_lose h1)) (fun _ h1 _ => ?_)
  refine memOk_report ?_
  exact memOk_with (memOk_lostBytes h1)

theorem memOk_stretch {die : Nat} {drp cur : BitVec 2 → BitVec 2 → BitVec 2} (h : s.memOk) : (s.stretch die drp cur).memOk :=
  h

theorem memOk_afresh (h : s.memOk) : s.afresh.memOk := by
  obtain ⟨hd, hc, hh, hp⟩ := h
  exact ⟨rfl, rfl, hh, hp⟩

theorem outOk_execThermalTrip {cause : BitVec 4} (h : s.memOk) : outOk (execThermalTrip cause s) := by
  unfold execThermalTrip
  refine outOk_event h ?_
  exact memOk_with (memOk_afresh h)

theorem outOk_execDeviceReset (h : s.memOk) : outOk (execDeviceReset s) := by
  unfold execDeviceReset
  refine outOk_event h ?_
  dsimp only
  split
  · exact memOk_setMgr (memOk_with (memOk_afresh h))
  · exact memOk_with (memOk_afresh h)

theorem outOk_execFirmwareUpdate {addr : Nat} (h : s.memOk) : outOk (execFirmwareUpdate addr s) := by
  unfold execFirmwareUpdate
  refine outOk_event h ?_
  split
  · trivial
  · exact optOk_ite trivial (optOk_ite h h)

theorem memOk_spdmAnswer {no : Nat} (h : s.memOk) : (s.spdmAnswer no).memOk :=
  h
end Keeps

end Sys2Proof.Machine
end

section
/-! PROOFS. Settles O55: vector forms keep the form of every memory, and with them every instruction, every bundle and every move. -/

namespace Sys2Proof.Machine

/-- What stops a bundle, if anything does, goes on with memories in canonical form. -/
def probeOk : Option (Host.Outcome State Fault Refusal) → Prop
  | some o => outOk o
  | none => True

section Keeps
variable {s : State}

/-! Vector arithmetic. -/

theorem outOk_vArith {g : Guard} {ty : Ty} {rnd : Rnd} {sat : Bool} {vd : Opnd} {os : List VSrc} {lat : Nat}
    {f : Fmt → RM → Nat → Nat → Nat → Nat → Coded} {fi : Int → Int → Int → Int} (h : s.memOk) :
    outOk (vArith s g ty rnd sat vd os lat f fi) :=
  outOk_vForm h

/-! Axis operations. -/

theorem outOk_vAxis {g : Guard} {vd : Opnd} {va : VSrc} {lat : Nat} {f : Nat → Nat} (h : s.memOk) : outOk (vAxis s g vd va lat f) :=
  outOk_vForm h

/-! Vector bit operations, shifts and fields. -/

theorem outOk_vLogic {g : Guard} {vd : Opnd} {os : List VSrc} {f : Lanes → Lanes → Lanes} (h : s.memOk) : outOk (vLogic s g vd os f) :=
  outOk_vForm h

theorem outOk_vInt {g : Guard} {ty : Ty} {vd : Opnd} {os : List VSrc} {f : Nat → Nat → Nat → Nat} (h : s.memOk) :
    outOk (vInt s g ty vd os f) :=
  outOk_vForm h

/-! The special functions. -/

theorem outOk_vSpecial {fn : Nat} {g : Guard} {o : VUn} (h : s.memOk) : outOk (vSpecial fn s g o) :=
  outOk_vForm h
/-! Every instruction, by its form. -/

theorem outOk_exec {i : Instr} (h : s.memOk) : outOk (exec i s) := by
  cases i with
  | add _ _ | sub _ _ | mul _ _ | mulh _ _ | mulhu _ _ | and _ _ | or _ _ | xor _ _ | andn _ _ | shl _ _ | shr _ _ | sra _ _ | rot _ _
  | min _ _ | max _ _ | minu _ _ | maxu _ _ =>
    unfold exec
    exact outOk_sBin h
  | addi _ _ _ _ _ | bfx _ _ _ _ _ _ | bfi _ _ _ _ _ _ | fsh _ _ _ _ _ | li _ _ _ | movpToScalar _ _ _ _ | lea _ _ _ _ _ _ | pcnt _ _ _
  | pany _ _ _ | sysr _ _ _ | lget _ _ _ _ =>
    unfold exec
    exact outOk_syllable h (fun _ => resOk_sendG h)
  | div _ _ | divu _ _ | rem _ _ | remu _ _ =>
    unfold exec
    exact outOk_sDiv h
  | abs _ _ | clz _ _ | ctz _ _ | popc _ _ | bswap _ _ _ | lih _ _ _ _ =>
    unfold exec
    exact outOk_sUn h
  | cmp _ _ _ _ _ | movpToPredicate _ _ _ _ | pnot _ _ _ =>
    unfold exec
    exact outOk_syllable h (fun _ => resOk_sendP h)
  | sel _ _ _ _ =>
    unfold exec
    exact outOk_execSel h
  | winq _ _ =>
    unfold exec
    exact outOk_execWinq h
  | br _ _ _ _ _ =>
    unfold exec
    exact outOk_execBr h
  | jmp _ _ | call _ _ _ =>
    unfold exec
    exact outOk_control h (fun _ => resOk_transfer h)
  | ret _ _ | jr _ _ _ _ =>
    unfold exec
    exact outOk_control h (fun _ => resOk_ite (resOk_trapIf h) (resOk_transfer h))
  | loop _ _ _ _ =>
    unfold exec
    exact outOk_execLoop h
  | brq _ _ _ _ =>
    unfold exec
    exact outOk_control h (fun _ => resOk_ite (resOk_transfer h) h)
  | halt _ =>
    unfold exec
    exact outOk_syllable h (fun _ => memOk_setMe h)
  | nop _ =>
    unfold exec
    exact outOk_syllable h (fun _ => h)
  | wfe _ _ _ _ =>
    unfold exec
    exact outOk_execWfe h
  | pand _ _ | por _ _ | pxor _ _ =>
    unfold exec
    exact outOk_pLogic h
  | psetPredicate _ _ _ =>
    unfold exec
    exact outOk_execPsetPredicate h
  | shset _ _ _ _ =>
    unfold exec
    exact outOk_execShset h
  | shget _ _ _ _ _ =>
    unfold exec
    exact outOk_execShget h
  | ld _ _ _ _ | ldacq _ _ _ _ _ _ _ =>
    unfold exec
    exact outOk_syllable h (fun _ => resOk_ite (resOk_trapIf h) (resOk_scalarLoad h))
  | st _ _ _ =>
    unfold exec
    exact outOk_execSt h
  | fadd _ _ | fsub _ _ | fmul _ _ =>
    unfold exec
    exact outOk_fBin h
  | ffma _ _ _ =>
    unfold exec
    exact outOk_execFfma h
  | fcvt _ _ _ _ _ _ _ =>
    unfold exec
    exact outOk_execFcvt h
  | fcmp _ _ _ _ _ _ =>
    unfold exec
    exact outOk_execFcmp h
  | sysw _ _ _ =>
    unfold exec
    exact outOk_execSysw h
  | trap _ _ | brk _ _ =>
    unfold exec
    exact outOk_syllable h (fun _ => resOk_trapIf h)
  | eret _ =>
    unfold exec
    exact outOk_execEret h
  | vadd _ _ | vsub _ _ | vmul _ _ | vfma _ _ | vfms _ _ | vmin _ _ | vmax _ _ | vabs _ _ | vneg _ _ | vclamp _ _ =>
    unfold exec
    exact outOk_vArith h
  | vand _ _ | vor _ _ | vxor _ _ | vnot _ _ _ =>
    unfold exec
    exact outOk_vLogic h
  | vshl _ _ | vshr _ _ | vsra _ _ | vrot _ _ | vpopc _ _ | vclz _ _ | vbfx _ _ _ _ _ _ _ | vfsh _ _ _ _ _ _ =>
    unfold exec
    exact outOk_vInt h
  | vcmp _ _ _ _ _ _ | vmovpToPredicate _ _ _ | vptest _ _ _ =>
    unfold exec
    exact outOk_vPred h
  | vsel _ _ _ _ | vmov _ _ _ | vli _ _ _ | vbcs _ _ _ _ | vmovpToVector _ _ _ | vpclr _ _ _ | vcvt _ _ _ _ | vpack _ _ _ _ _
  | vunpk _ _ _ _ _ | vquant _ _ _ _ _ _ _ | vdeq _ _ _ _ _ _ | vredr _ _ | vredc _ _ | vscanr _ _ =>
    unfold exec
    exact outOk_vForm h
  | vrcp _ _ | vrsq _ _ | vsqrt _ _ | vexp2 _ _ | vlog2 _ _ | vtanh _ _ =>
    unfold exec
    exact outOk_vSpecial h
  | vrotr _ _ | vrotc _ _ | vbcr _ _ | vbcc _ _ | vtrn _ _ _ =>
    unfold exec
    exact outOk_vAxis h
  | vgath _ _ _ _ _ | vlut _ _ _ _ _ =>
    unfold exec
    exact outOk_vLoadElems h
  | vscat _ _ _ _ _ =>
    unfold exec
    exact outOk_execVscat h
  | mma _ _ _ _ _ _ | mmai _ _ _ _ _ _ _ _ _ | mmax _ _ _ _ _ _ _ _ =>
    unfold exec
    exact outOk_product h
  | mmaa _ _ _ _ _ _ _ _ =>
    unfold exec
    exact outOk_execMmaa h
  | mzero _ _ _ | mload _ _ _ _ _ | lease _ _ | unlease _ | pstop _ _ =>
    unfold exec
    exact outOk_mSyllable h (fun _ => resOk_enqueue h)
  | mdrain _ _ _ _ _ _ _ _ _ =>
    unfold exec
    exact outOk_execMdrain h
  | twait _ _ =>
    unfold exec
    exact outOk_execTwait h
  | tsig _ _ =>
    unfold exec
    exact outOk_execTsig h
  | copy _ _ _ _ _ _ _ _ =>
    unfold exec
    exact outOk_execCopy h
  | copyt _ _ _ _ _ _ _ _ _ _ =>
    unfold exec
    exact outOk_execCopyt h
  | nlaunch _ _ _ _ _ =>
    unfold exec
    exact outOk_execNlaunch h
  | pstart _ _ =>
    unfold exec
    exact outOk_execPstart h
  | psave _ _ _ =>
    unfold exec
    exact outOk_mSyllable h (fun _ => resOk_outward h (resOk_imageEntry h))
  | pload _ _ _ =>
    unfold exec
    exact outOk_mSyllable h (fun _ => resOk_imageEntry h)
  | qflush _ _ _ =>
    unfold exec
    exact outOk_execQflush h
  | clkdiv _ _ _ =>
    unfold exec
    exact outOk_execClkdiv h
  | wake _ _ =>
    unfold exec
    exact outOk_execWake h
  | vld _ _ _ _ _ =>
    unfold exec
    exact outOk_execVld h
  | vst _ _ _ _ _ =>
    unfold exec
    exact outOk_execVst h
  | lset _ _ _ _ =>
    unfold exec
    exact outOk_execLset h
  | psetPattern _ _ _ _ =>
    unfold exec
    exact outOk_execPsetPattern h
  | qstat _ _ _ _ =>
    unfold exec
    exact outOk_execQstat h
  | qrew _ _ _ _ =>
    unfold exec
    exact outOk_execQrew h
  | rinit _ _ _ _ _ =>
    unfold exec
    exact outOk_execRinit h
  | rclaim _ _ | rwaitf _ _ =>
    unfold exec
    exact outOk_ringForm h (fun _ _ => resOk_ite h (resOk_sendBack (memOk_setRing h)))
  | rpub _ _ =>
    unfold exec
    exact outOk_execRpub h
  | rwaite _ _ =>
    unfold exec
    exact outOk_ringForm h (fun _ _ => resOk_ite h (resOk_sendBack h))
  | rrel _ _ =>
    unfold exec
    exact outOk_execRrel h
  | rstat _ _ _ =>
    unfold exec
    exact outOk_syllable h (fun _ => resOk_ite (resOk_trapIf h) (resOk_sendBack h))
  | bset _ _ _ _ =>
    unfold exec
    exact outOk_execBset h
  | barr _ _ _ _ =>
    unfold exec
    exact outOk_execBarr h
  | bwait _ _ _ _ _ =>
    unfold exec
    exact outOk_barForm h (fun _ _ => resOk_waitOn h)
  | barw _ _ _ _ _ =>
    unfold exec
    exact outOk_execBarw h
  | bstat _ _ _ _ =>
    unfold exec
    exact outOk_execBstat h
  | aadd _ _ | aand _ _ | aor _ _ | axor _ _ | amin _ _ | amax _ _ | aminu _ _ | amaxu _ _ | axchg _ _ | acas _ _ _ | afadd _ _ =>
    unfold exec
    exact outOk_atomicForm h
  | acas2 _ _ _ _ _ _ _ =>
    unfold exec
    exact outOk_execAcas2 h
  | redx _ _ _ =>
    unfold exec
    exact outOk_execRedx h
  | redfOpen _ _ _ =>
    unfold exec
    exact outOk_execRedfOpen h
  | redfRd _ _ _ _ | redfFin _ _ _ _ | redfSt _ _ _ =>
    unfold exec
    exact outOk_redfForm h
  | semw _ _ _ _ _ _ =>
    unfold exec
    exact outOk_execSemw h
  | sems _ _ _ _ =>
    unfold exec
    exact outOk_execSems h
  | fence _ _ | mark _ =>
    unfold exec
    exact outOk_syllable h (fun _ => memOk_sendOrder h)
  | strel _ _ _ _ _ _ =>
    unfold exec
    exact outOk_execStrel h
  | rgsplit _ _ =>
    unfold exec
    exact outOk_execRgsplit h
  | rgmerge _ _ =>
    unfold exec
    exact outOk_execRgmerge h
  | rginv _ _ _ _ _ =>
    unfold exec
    exact outOk_execRginv h
  | rgprobe _ _ _ _ =>
    unfold exec
    exact outOk_execRgprobe h
  | rgfill _ _ _ =>
    unfold exec
    exact outOk_execRgfill h
  | rgpin _ _ _ =>
    unfold exec
    exact outOk_execRgpin h
  | bankoff _ _ =>
    unfold exec
    exact outOk_execBankoff h
  | spdrop _ _ _ =>
    unfold exec
    exact outOk_execSpdrop h
  | spwake _ _ =>
    unfold exec
    exact outOk_execSpwake h
  | launch _ _ _ _ =>
    unfold exec
    exact outOk_execLaunch h
  | node _ _ _ _ =>
    unfold exec
    exact outOk_execNode h
  | lit _ | dup | drop | swap | nmOver | nmJmp _ | nmTrap _ | nmNop =>
    unfold exec
    exact outOk_nmWord h (fun _ _ => h)
  | litx _ _ _ =>
    unfold exec
    exact outOk_execLitx h
  | nmAdd | nmSub | nmAnd | nmShl =>
    unfold exec
    exact outOk_nmBin h
  | nmAddImm _ | nmSubImm _ | nmAndImm _ | nmShlImm _ =>
    unfold exec
    exact outOk_nmImm h
  | nmLdWs _ =>
    unfold exec
    exact outOk_execNmLdWs h
  | nmLdMem _ =>
    unfold exec
    exact outOk_execNmLdMem h
  | nmStWs _ =>
    unfold exec
    exact outOk_execNmStWs h
  | nmStMem _ =>
    unfold exec
    exact outOk_execNmStMem h
  | mvx _ =>
    unfold exec
    exact outOk_execMvx h
  | mvwait | nmEnd =>
    unfold exec
    exact outOk_nmWord h (fun _ _ => nmOk_ite h (nmOk_ite h h))
  | red =>
    unfold exec
    exact outOk_execRed h
  | racc _ _ =>
    unfold exec
    exact outOk_execRacc h
  | rfin _ _ =>
    unfold exec
    exact outOk_execRfin h
  | vin =>
    unfold exec
    exact outOk_execVin h
  | vout =>
    unfold exec
    exact outOk_execVout h
  | rowclaim =>
    unfold exec
    exact outOk_execRowclaim h
  | rowrel =>
    unfold exec
    exact outOk_execRowrel h
  | nmSemw _ =>
    unfold exec
    exact outOk_execNmSemw h
  | nmSems =>
    unfold exec
    exact outOk_execNmSems h
  | nmFence =>
    unfold exec
    exact outOk_nmWord h (fun _ _ => nmOk_ite h h)
  | nmLoop _ =>
    unfold exec
    exact outOk_execNmLoop h
  | next =>
    unfold exec
    exact outOk_execNext h
  | nmBr _ =>
    unfold exec
    exact outOk_execNmBr h
  | engineCommandStart _ _ =>
    unfold exec
    exact outOk_execEngineCommandStart h
  | engineCommandFinish _ _ =>
    unfold exec
    exact outOk_execEngineCommandFinish h
  | arrayGrant _ =>
    unfold exec
    exact outOk_execArrayGrant h
  | productKBlock _ _ =>
    unfold exec
    exact outOk_execProductKBlock h
  | productStop _ _ =>
    unfold exec
    exact outOk_execProductStop h
  | engineFaultDelivery _ _ =>
    unfold exec
    exact outOk_execEngineFaultDelivery h
  | patternBlockFetch _ _ =>
    unfold exec
    exact outOk_event h (optOk_ite (memOk_fetchBlock h) trivial)
  | patternBlockWrite _ _ =>
    unfold exec
    exact outOk_event h (optOk_ite (optOk_map (fun _ => memOk_writeBlock h)) trivial)
  | rewind _ _ =>
    unfold exec
    exact outOk_execRewind h
  | copyGranule _ _ =>
    unfold exec
    exact outOk_execCopyGranule h
  | copyRingCompletion _ _ =>
    unfold exec
    exact outOk_execCopyRingCompletion h
  | nmuLaunchAccept _ =>
    unfold exec
    exact outOk_execNmuLaunchAccept h
  | mveProductEnd _ =>
    unfold exec
    exact outOk_execMveProductEnd h
  | nmuAbort _ =>
    unfold exec
    exact outOk_execNmuAbort h
  | bankIdle _ _ =>
    unfold exec
    exact outOk_execBankIdle h
  | bankWake _ =>
    unfold exec
    exact outOk_execBankWake h
  | arrayGate _ =>
    unfold exec
    exact outOk_event h (optOk_ite (memOk_modCore h) trivial)
  | arrayWake _ =>
    unfold exec
    exact outOk_execArrayWake h
  | deadlineExpiry _ =>
    unfold exec
    exact outOk_execDeadlineExpiry h
  | wfeTimeout _ =>
    unfold exec
    exact outOk_execWfeTimeout h
  | resultLanding _ _ =>
    unfold exec
    exact outOk_execResultLanding h
  | trapEntry _ =>
    unfold exec
    exact outOk_execTrapEntry h
  | requestResend _ =>
    unfold exec
    exact outOk_execRequestResend h
  | homeAccess _ =>
    unfold exec
    exact outOk_execHomeAccess h
  | routerMerge _ _ =>
    unfold exec
    exact outOk_execRouterMerge h
  | reductionApply _ =>
    unfold exec
    exact outOk_execReductionApply h
  | semaphoreWaiterWake _ =>
    unfold exec
    exact outOk_execSemaphoreWaiterWake h
  | barrierParentArrival _ =>
    unfold exec
    exact outOk_execBarrierParentArrival h
  | barrierFlipDown _ =>
    unfold exec
    exact outOk_execBarrierFlipDown h
  | arbiterAccept _ =>
    unfold exec
    exact outOk_execArbiterAccept h
  | arbiterServe _ =>
    unfold exec
    exact outOk_execArbiterServe h
  | yieldBoundExpiry _ =>
    unfold exec
    exact outOk_execYieldBoundExpiry h
  | ageCapExpiry _ =>
    unfold exec
    exact outOk_execAgeCapExpiry h
  | refresh _ =>
    unfold exec
    exact outOk_execRefresh h
  | budgetInterval | budgetWatchdogExpiry =>
    unfold exec
    exact outOk_event h h
  | rangeWalk _ _ =>
    unfold exec
    exact outOk_execRangeWalk h
  | walkDeadline _ =>
    unfold exec
    exact outOk_execWalkDeadline h
  | shootdown _ _ =>
    unfold exec
    exact outOk_execShootdown h
  | fillComplete _ =>
    unfold exec
    exact outOk_execFillComplete h
  | fillDeadline _ =>
    unfold exec
    exact outOk_execFillDeadline h
  | moveRequest _ | retireRequest _ =>
    unfold exec
    exact outOk_event h (optOk_moveNext h)
  | compactorGranule _ =>
    unfold exec
    exact outOk_execCompactorGranule h
  | moveFinish _ =>
    unfold exec
    exact outOk_execMoveFinish h
  | queueTake _ =>
    unfold exec
    exact outOk_execQueueTake h
  | recordReady _ =>
    unfold exec
    exact outOk_execRecordReady h
  | priorityAgeing _ =>
    unfold exec
    exact outOk_execPriorityAgeing h
  | placement _ _ =>
    unfold exec
    exact outOk_execPlacement h
  | rowLoad _ _ =>
    unfold exec
    exact outOk_execRowLoad h
  | strandStart _ =>
    unfold exec
    exact outOk_execStrandStart h
  | strandEnd _ =>
    unfold exec
    exact outOk_execStrandEnd h
  | kernelEnd _ =>
    unfold exec
    exact outOk_execKernelEnd h
  | gracePeriodExpiry _ =>
    unfold exec
    exact outOk_execGracePeriodExpiry h
  | saveImageWrite _ =>
    unfold exec
    exact outOk_execSaveImageWrite h
  | kernelResume _ =>
    unfold exec
    exact outOk_execKernelResume h
  | hostMemoryRead _ _ =>
    unfold exec
    exact outOk_event h (optOk_ite trivial (memOk_outRead h))
  | hostMemoryWrite _ _ _ =>
    unfold exec
    exact outOk_event h (optOk_ite trivial (memOk_outWrite h))
  | hostAtomicop _ _ _ _ _ =>
    unfold exec
    exact outOk_execHostAtomicop h
  | managementRegisterWrite _ _ _ | budgetRefresh _ _ | nabortWrite _ _ _ =>
    unfold exec
    exact outOk_event h (optOk_mgEvent h)
  | answerWalk _ _ =>
    unfold exec
    exact outOk_event h (memOk_answeredWalk h)
  | answerFill _ _ =>
    unfold exec
    exact outOk_event h (memOk_answeredFill h)
  | answerFlip _ =>
    unfold exec
    exact outOk_event h (memOk_answeredFlip h)
  | strandWindowWrite _ _ _ _ =>
    unfold exec
    exact outOk_event h (optOk_ite (optOk_mgEvent h) trivial)
  | hostResume _ =>
    unfold exec
    exact outOk_event h (optOk_ite (memOk_modStrand h) trivial)
  | hostEndKernel _ =>
    unfold exec
    exact outOk_execHostEndKernel h
  | hostRequestMessage =>
    unfold exec
    exact outOk_execHostRequestMessage h
  | firmwareUpdate _ =>
    unfold exec
    exact outOk_execFirmwareUpdate h
  | firmwareReadyTimeout | stackHot _ | hotStateEnd _ =>
    unfold exec
    exact outOk_event h (optOk_ite h trivial)
  | linkRequest _ _ =>
    unfold exec
    exact outOk_execLinkRequest h
  | portFailure _ =>
    unfold exec
    exact outOk_execPortFailure h
  | droop _ | currentLimit _ | railRecovery _ =>
    unfold exec
    exact outOk_event h (optOk_ite (memOk_stretch h) trivial)
  | thermalTrip _ =>
    unfold exec
    exact outOk_execThermalTrip h
  | deviceReset =>
    unfold exec
    exact outOk_execDeviceReset h
  | getVersion | getCapabilities | negotiateAlgorithms | getDigests | getCertificate | challenge | getMeasurements =>
    unfold exec
    exact outOk_event h (memOk_spdmAnswer h)
  | illegalWord _ =>
    unfold exec
    exact outOk_execIllegalWord h
  | hostPortCompletion _ _ _ =>
    unfold exec
    exact outOk_execHostPortCompletion h
  | peerAcknowledgement _ _ _ =>
    unfold exec
    exact outOk_execPeerAcknowledgement h
  | softError _ =>
    unfold exec
    exact outOk_execSoftError h

/-! A bundle and its syllables. -/

theorem memOk_prepare {k : Nat} {more : Bool} (h : s.memOk) : (prepare s k more).memOk := memOk_setMe h

theorem probeOk_probe {is : List Instr} (h : s.memOk) : probeOk (probe s is) := by
  induction is generalizing s with
  | nil => trivial
  | cons i is ih =>
    have hi : outOk (exec i s) := outOk_exec h
    unfold probe
    split
    next u hq =>
      have hu : u.memOk := memOk_of hq hi rfl
      split
      · exact ih h
      · exact memOk_setMe hu
    next => exact hi

theorem outOk_runAll {is : List Instr} (h : s.memOk) : outOk (runAll s is) := by
  induction is generalizing s with
  | nil => exact h
  | cons i is ih =>
    cases is with
    | nil => exact outOk_exec (memOk_setMe h)
    | cons j is =>
      have hi : outOk (exec i s) := outOk_exec h
      unfold runAll
      split
      next u hq =>
        have hu : u.memOk := memOk_of hq hi rfl
        exact outOk_ite (ih (memOk_setMe hu)) hu
      next => exact hi

theorem probeOk_stopper {is : List Instr} (h : s.memOk) : probeOk (stopper s is) := by
  have hr : probeOk (probe s (is.filter fun i => !isWfe i)) := probeOk_probe h
  have hw : probeOk (probe s (is.filter isWfe)) := probeOk_probe h
  unfold stopper
  dsimp only
  split
  next u hq =>
    have hu : outOk (.next u) := by
      rw [hq] at hw
      exact hw
    refine outOk_ite hu ?_
    generalize probe s (is.filter fun i => !isWfe i) = o at hr
    cases o with
    | none => exact hu
    | some r => exact hr
  next r _ hq =>
    rw [hq] at hw
    exact hw
  next => exact hr

theorem outOk_runBundle {is : List Instr} (h : s.memOk) : outOk (runBundle s is) := by
  unfold runBundle
  split
  · exact outOk_exec (memOk_prepare h)
  · have hp : (prepare s is.length true).memOk := memOk_prepare h
    dsimp only
    split
    next r hq =>
      have hs : probeOk (stopper (prepare s is.length true) is) := probeOk_stopper hp
      rw [hq] at hs
      exact hs
    · have ha : outOk (runAll (prepare s is.length true) is) := outOk_runAll hp
      split
      next u hq => exact outOk_ite (memOk_of hq ha rfl) (memOk_held h)
      next => exact ha

theorem outOk_issueBundle (h : s.memOk) : outOk (issueBundle s) := by
  unfold issueBundle
  split
  · exact memOk_held h
  · exact memOk_trapped (memOk_reported h)
  · refine outOk_ite (memOk_trapped (memOk_noteFetch h)) ?_
    split
    · exact memOk_trapped (memOk_noteFetch h)
    · exact outOk_runBundle (memOk_noteFetch h)

/-! A move. -/

theorem memOk_prelude {n : Nat} (h : s.memOk) : (prelude n s).memOk := memOk_setMe (memOk_with h)

theorem outOk_stepStrand {n : Nat} (h : s.memOk) : outOk (stepStrand n s) := by
  have hp : (prelude n s).memOk := memOk_prelude h
  refine outOk_ite h (outOk_ite (memOk_enterHandler hp) ?_)
  split
  next u hq => exact memOk_of hq (optOk_boundary hp) rfl
  · exact outOk_ite (memOk_setMe hp) (outOk_issueBundle hp)

theorem outOk_stepNmu {u : Nat} (h : s.memOk) : outOk (stepNmu u s) := by
  refine outOk_ite h ?_
  split
  · exact outOk_exec h
  · exact outOk_execIllegalWord h

theorem outOk_makeMove {m : Move} (h : s.memOk) : outOk (makeMove m s) := by
  refine outOk_ite h ?_
  cases m with
  | strand n => exact outOk_ite (outOk_stepStrand h) h
  | nmu u => exact outOk_ite (outOk_stepNmu h) h
  | event i => exact outOk_ite (outOk_exec h) h

theorem memOk_nextMove (h : s.memOk) : (nextMove s).2.memOk := by
  unfold nextMove
  split <;> exact h

end Keeps

/-- Settles O55: whatever move a step makes, every function it goes through keeps the form, and memory is written byte by byte in order. -/
theorem stepKeepsMemoryForm : Obligations.StepKeepsMemoryForm := by
  unfold Obligations.StepKeepsMemoryForm
  intro s t h e
  exact memOk_of e (outOk_makeMove (memOk_nextMove h)) rfl

end Sys2Proof.Machine
end
